-- ==== Sys2Proof/Word.lean ====
section
/-! DEFINITION. The machine word, the byte, and the sparse byte store that memory and the large register
files use (R28 numbers, R52 widths). -/

namespace Sys2Proof

/-- A 64-bit scalar value: x registers, addresses while they are computed, CSRs. -/
abbrev Word := BitVec 64

/-- One byte. -/
abbrev Byte := BitVec 8

end Sys2Proof
end

