-- ==== Sys2Proof/Syntax.lean ====
section
/-! DEFINITION. The syntax: operand types and the one inductive of instructions and steps. Every row of
spec/opcode_table.json is one constructor. Rows with an encoding carry the fields of their word (R89 to R92 and
the base); rows without one are steps of the device's other agents (spec/95_what_each_step_holds.md) and carry
the operands that say which agent moves and what arrives. -/

namespace Sys2Proof

/-- A scalar register number x0 to x31 (R14). -/
abbrev XReg := BitVec 5
/-- A vector register number v0 to v31 (R93). -/
abbrev VReg5 := BitVec 5
/-- A mask register number m0 to m7 (R93). -/
abbrev MReg3 := BitVec 3

/-- Base register-immediate operations (R4, the base). -/
inductive ImmOp where
  | addi | slti | sltiu | xori | ori | andi
  deriving DecidableEq, Repr

/-- Base shift operations. -/
inductive ShOp where
  | sll | srl | sra
  deriving DecidableEq, Repr

/-- Base register-register operations of I and M on 64 bits. -/
inductive RegOp where
  | add | sub | sll | slt | sltu | xor | srl | sra | or | and
  | mul | mulh | mulhsu | mulhu | div | divu | rem | remu
  deriving DecidableEq, Repr

/-- Base register-register operations of I and M on 32 bits. -/
inductive RegWOp where
  | addw | subw | sllw | srlw | sraw | mulw | divw | divuw | remw | remuw
  deriving DecidableEq, Repr

/-- The forms of row BASE_ALU. -/
inductive AluForm where
  | lui (rd : XReg) (imm : BitVec 20)
  | auipc (rd : XReg) (imm : BitVec 20)
  | opImm (op : ImmOp) (rd rs1 : XReg) (imm : BitVec 12)
  | shImm (op : ShOp) (rd rs1 : XReg) (sh : BitVec 6)
  | addiw (rd rs1 : XReg) (imm : BitVec 12)
  | shImmW (op : ShOp) (rd rs1 : XReg) (sh : BitVec 5)
  | op (op : RegOp) (rd rs1 rs2 : XReg)
  | opW (op : RegWOp) (rd rs1 rs2 : XReg)
  deriving DecidableEq, Repr

/-- Branch conditions. -/
inductive Cond where
  | eq | ne | lt | ge | ltu | geu
  deriving DecidableEq, Repr

/-- The forms of row BASE_BRANCH_JUMP. Immediates count in halfwords: bit k of `imm` is bit k + 1 of the byte offset. -/
inductive JumpForm where
  | jal (rd : XReg) (imm : BitVec 20)
  | jalr (rd rs1 : XReg) (imm : BitVec 12)
  | branch (c : Cond) (rs1 rs2 : XReg) (imm : BitVec 12)
  deriving DecidableEq, Repr

/-- Scalar load widths and extensions. -/
inductive LoadOp where
  | lb | lh | lw | ld | lbu | lhu | lwu
  deriving DecidableEq, Repr

/-- Scalar store widths. -/
inductive StoreOp where
  | sb | sh | sw | sd
  deriving DecidableEq, Repr

/-- Base AMO operations (A extension). -/
inductive AmoOp where
  | swap | add | xor | and | or | min | max | minu | maxu
  deriving DecidableEq, Repr

/-- Zicsr operations. -/
inductive CsrOp where
  | rw | rs | rc | rwi | rsi | rci
  deriving DecidableEq, Repr

/-- What a bank is asked to do by an agent other than this core's scalar thread (R240, R241). -/
inductive BankReq where
  | store (off : Nat) (bytes : List Byte)
  | atomic (op : BitVec 3) (width : BitVec 2) (off : Nat) (val expected : Word)
  | arrival (off : Nat) (bytes : Nat) (err : Bool)
  deriving DecidableEq, Repr

/-- What comes in on a link of the module (R335, R339): the link and the message, or the virtual channel. -/
structure OnLink (α : Type) where
  link : Nat
  msg : α
  deriving DecidableEq, Repr

/-- A PEER request that arrives from another chip (R338). -/
inductive PeerReq where
  | load (job : BitVec 32) (va : Word) (size : Nat)
  | store (job : BitVec 32) (va : Word) (bytes : List Byte) (colour : Bool)
  deriving DecidableEq, Repr

/-- Where an arriving chunk's link error lies (R350). -/
inductive LinkErr where
  | none | head | words
  deriving DecidableEq, Repr

/-- What the members of a collective must agree on (R351): OP, RED, ETAG, CMP, C, ROOT and the chip list. -/
structure CollShape where
  op : Nat
  red : Nat
  etag : Nat
  cmp : Nat
  count : Nat
  root : Nat
  chips : List Nat
  deriving DecidableEq, Repr

/-- A Clearing House chunk as it arrives (R349): the instance's identity and shape, the segment, whether it is the
final value passed round, the index of its first word in the segment's forwarded run, the chunk's bytes, where a link
error lies, the words that arrive poisoned (R350), and whether it only says that the members disagree (R351). -/
structure ChunkMsg where
  tag : Word
  shape : CollShape
  seg : Nat
  final : Bool
  first : Nat
  bytes : List Byte
  err : LinkErr
  poison : List Nat
  ends : Bool
  colour : Bool
  deriving DecidableEq, Repr

/-- What a scrubber or a background read finds in a granule (R217, R220). -/
inductive EccFind where
  | clean | correctable | uncorrectable
  deriving DecidableEq, Repr

/-- One stage of power-on (R389): the firmware image, its SM2 signature, and the public key it is checked against. -/
structure BootStage where
  image : List Byte
  sig : List Byte
  key : List Byte
  deriving DecidableEq, Repr

/-- What power-on finds (R389, R414): the stages in their order, the chip number the platform reports, whether its domain
already holds it, and the chips at the far ends of the links as link training finds them (R337). -/
structure BootReport where
  stages : List BootStage
  chip : BitVec 12
  taken : Bool
  links : List (Nat × Nat)
  deriving DecidableEq, Repr

/-- One constructor per row of spec/opcode_table.json. -/
inductive Instr where
  /-- BASE_ALU (R96): A base integer or M-extension arithmetic instruction executes in the scalar thread; falling past a loop body end there ends an iteration. -/
  | baseAlu (f : AluForm)
  /-- BASE_BRANCH_JUMP (R187): A taken branch, jal or jalr; a target outside an active loop body pops that level and the levels above it. -/
  | baseBranchJump (f : JumpForm)
  /-- BASE_LOAD (R216): A scalar load is checked for alignment, address form, translation and poison, and then performed. -/
  | baseLoad (op : LoadOp) (rd : XReg) (rs1 : XReg) (imm : BitVec 12)
  /-- BASE_STORE (R216): A scalar store is checked, accepted at the rib ordering point with the TRANSIT check, and performed. -/
  | baseStore (op : StoreOp) (rs2 : XReg) (rs1 : XReg) (imm : BitVec 12)
  /-- BASE_AMO (R86): A base AMO is performed; one to the Commons window is performed by that bank's Teller as a Teller atomic. -/
  | baseAmo (op : AmoOp) (dbl : Bool) (aq : Bool) (rl : Bool) (rd : XReg) (rs1 : XReg) (rs2 : XReg)
  /-- BASE_LR (R86): An LR takes a reservation on its 128-byte line; to the Commons window it traps a load access fault. -/
  | baseLr (dbl : Bool) (aq : Bool) (rl : Bool) (rd : XReg) (rs1 : XReg)
  /-- BASE_SC (R86): An SC succeeds only if the reservation still holds; to the Commons window it traps. -/
  | baseSc (dbl : Bool) (aq : Bool) (rl : Bool) (rd : XReg) (rs1 : XReg) (rs2 : XReg)
  /-- FENCE (R84): A fence orders the strand's older base scalar accesses before its younger ones at chip scope. -/
  | fence (fm : BitVec 4) (pred : BitVec 4) (succ : BitVec 4) (rs1 : XReg) (rd : XReg)
  /-- FENCE_I (R85): fence.i invalidates the I$ of the executing core. -/
  | fenceI (imm : BitVec 12) (rs1 : XReg) (rd : XReg)
  /-- ECALL (R87): ecall traps with cause 8, 9 or 11. -/
  | ecall
  /-- EBREAK (R87): ebreak traps with cause 3. -/
  | ebreak
  /-- WFI (R82): wfi waits in S- or M-mode; in U-mode it traps ILLEGAL. -/
  | wfi
  /-- SRET (R370): sret performs the base return, clears S on every loop level, and re-arms frozen entries on a return to U-mode. -/
  | sret
  /-- MRET (R370): mret performs the base return, clears S on every level, and re-arms frozen entries on a return to U-mode. -/
  | mret
  /-- CSR_WRITE (R113): A write to a CSR with no behaviour of its own stores the value, which younger instructions capture. -/
  | csrWrite (op : CsrOp) (csr : BitVec 12) (src : XReg) (rd : XReg)
  /-- VL_WRITE (R228): A csrw of vl stores at most 65,536 and ends any provisional state. -/
  | vlWrite (op : CsrOp) (src : XReg) (rd : XReg)
  /-- VXFLAGS_WRITE (R113): A csrw of vxflags takes effect after the flags of older V- and M-space instructions merge; later Cable flags are ORed in on top. -/
  | vxflagsWrite (op : CsrOp) (src : XReg) (rd : XReg)
  /-- PTROOT_WRITE (R304): A write to ptroot on any core sets the translation root for every core of the partition. -/
  | ptrootWrite (op : CsrOp) (src : XReg) (rd : XReg)
  /-- PARTITION_SETUP (R392): A write of pcfg.PCNT, when no partition holds work, repartitions the chip and firmware prepares every partition. -/
  | partitionSetup (op : CsrOp) (src : XReg) (rd : XReg)
  /-- PROFILE_ENABLE_WRITE (R100): A write of pcfg.PROF enables or disables profiles for U-mode and updates the capability list EN bits. -/
  | profileEnableWrite (op : CsrOp) (src : XReg) (rd : XReg)
  /-- ASSAY_NOTICE_CLEAR (R417): Software writing 0 to mip or sip bit 17 clears ASSAY_NOTICE pending. -/
  | assayNoticeClear (op : CsrOp) (mach : Bool) (src : XReg) (rd : XReg)
  /-- CAP_WRITE (R315): M-mode firmware writing CAP restores fenced classes in the capability table and assaycap. -/
  | capWrite (core : Nat) (cap : BitVec 32)
  /-- LOOP (R185): loop pushes a counted hardware-loop level, or skips the body when the trip count is 0. -/
  | loop (i : BitVec 12) (rs1 : XReg) (l : BitVec 3)
  /-- LEXIT (R188): lexit pops every active level numbered N or above and continues. -/
  | lexit (l : BitVec 3)
  /-- LSAVE (R191): lsave writes the 200-byte loop-stack image to memory. -/
  | lsave (rs1 : XReg)
  /-- LREST (R191): lrest checks a loop-stack image and replaces the whole stack with it. -/
  | lrest (rs1 : XReg)
  /-- LRD (R192): lrd writes one field of a loop level to xd. -/
  | lrd (sel : BitVec 5) (rd : XReg)
  /-- ESC_OPEN (R204): esc.open reads and checks an escrow descriptor and opens an escrow loop for the next loop. -/
  | escOpen (rs1 : XReg)
  /-- ESC_CMP (R198): esc.cmp ends an escrow iteration; at the commit boundary it confirms or squashes the next iteration, commits escrow and hands out iterations. -/
  | escCmp (rd : XReg)
  /-- ESC_CLOSE (R206): esc.close writes the four counters to the descriptor and releases the helpers and the way. -/
  | escClose
  /-- ESC_RET (R207): esc.ret ends a guess routine, keeping the carries it set and resetting every other register. -/
  | escRet
  /-- ESC_ABORT (R208): esc.abort ends the escrow loop as at its last iteration and leaves it open for esc.close. -/
  | escAbort
  /-- ESC_STAT (R208): esc.stat writes the saturated escrow counters to xd. -/
  | escStat (rd : XReg)
  /-- GUESS_ROUTINE_END (R197): A guess routine ends at a store, a deferred load, a custom instruction or its 4,097th instruction; its guess is then the carries it started with. -/
  | guessRoutineEnd
  /-- ESCROW_HELPER_JOIN (R195): An idle covering core of the rib joins an open escrow loop as a helper and takes the lowest unstarted iteration. -/
  | escrowHelperJoin (core : Nat)
  /-- ESCROW_HELPER_RECLAIM (R49): The WS reclaims a helper core for a strand; the helper's iteration is squashed and the loop narrows. -/
  | escrowHelperReclaim (core : Nat)
  /-- ESCROW_CONFLICT_SQUASH (R199): A write to a line in a speculative iteration's read set squashes that iteration, which restarts with a new guess. -/
  | escrowConflictSquash (addr : Word) (val : Byte)
  /-- ESCROW_DEFERRED_RESUME (R200): A speculative iteration stalled at a deferred operation becomes the oldest and performs that operation. -/
  | escrowDeferredResume
  /-- VDECL (R121): vdecl waits for the VIQ and Cable queue to empty, then reshapes the vector register file. -/
  | vdecl (rs1 : XReg)
  /-- VSETL (R122): vsetl grants VL as the minimum of the request and the capacity at width class w. -/
  | vsetl (w : BitVec 5) (rs1 : XReg) (rd : XReg)
  /-- VTAG (R123): vtag writes a tag byte into one or more vector registers. -/
  | vtag (rs1 : XReg) (vd : VReg5)
  /-- VTAGRD (R124): vtagrd reads a register's tag into xd. -/
  | vtagrd (vs : VReg5) (rd : XReg)
  /-- DSET (R161): dset writes the offset, anchor and length of a diagonal header. -/
  | dset (rs2 : XReg) (rs1 : XReg) (vd : VReg5)
  /-- DFLIP (R161): dflip rewrites a header as the transposed view and exchanges the plane bindings. -/
  | dflip (vd : VReg5)
  /-- DSCALE (R161): dscale writes the tile scale, plane registers and scaled flag of a header. -/
  | dscale (rs2 : XReg) (rs1 : XReg) (vd : VReg5)
  /-- DSHAPE (R161): dshape writes cshapemk and cshapen. -/
  | dshape (rs2 : XReg) (rs1 : XReg)
  /-- KALLOC (R163): kalloc allocates a run of slots for consecutive offsets and zeroes their pool words. -/
  | kalloc (rs2 : XReg) (rs1 : XReg)
  /-- KFREE (R164): kfree clears A in a run of slots. -/
  | kfree (rs1 : XReg)
  /-- KZERO (R164): kzero zeroes the words and clears the binding of a run of allocated slots. -/
  | kzero (rs1 : XReg)
  /-- VSRSEED (R75): vsrseed seeds every VP's stochastic-rounding generator. -/
  | vsrseed (rs1 : XReg)
  /-- ATABLD (R178): atabld loads an activation table from 2,048 bytes of GLOBAL memory. -/
  | atabld (rs2 : XReg) (rs1 : XReg)
  /-- CPY (R279): cpy copies VL unit-stride elements between spaces and withdraws from a purse. -/
  | cpy (w : BitVec 2) (rs2 : XReg) (rs1 : XReg) (p : BitVec 5)
  /-- CPYS (R279): cpys copies VL elements with the cpstr strides and withdraws from a purse. -/
  | cpys (w : BitVec 2) (rs2 : XReg) (rs1 : XReg) (p : BitVec 5)
  /-- CPYV (R280): cpyv loads VL elements into a vector register with a landed prefix. -/
  | cpyv (w : BitVec 2) (rs2 : XReg) (rs1 : XReg) (vd : VReg5)
  /-- CPYVS (R281): cpyvs reads a vector register into the engine and stores it to memory, with a purse. -/
  | cpyvs (w : BitVec 2) (rs2 : XReg) (rs1 : XReg) (vs : VReg5)
  /-- CTILE (R285): ctile copies a tile of a tensor to a register or the pocket, with an optional mask. -/
  | ctile (w : BitVec 2) (rs2 : XReg) (rs1 : XReg) (p : BitVec 5)
  /-- CRING (R286): cring reserves a ring slot, writes VL elements into it, publishes it and withdraws from a purse. -/
  | cring (w : BitVec 2) (rs2 : XReg) (rs1 : XReg) (p : BitVec 5)
  /-- CPYV_ELEMENT_LAND (R280): A cpyv element lands, and the prefix grows or the register becomes FULL. -/
  | cpyvElementLand (pos : Nat) (elem : Nat)
  /-- COPY_COMPLETE (R277): A copy finishes its writes and its purse's Teller withdraws the byte count. -/
  | copyComplete (pos : Nat)
  /-- OVERDRAFT (R324): An arrival that sets OVD with TRP set makes the issuing strand take OVERDRAFT at its next boundary. -/
  | overdraft
  /-- CRING_RESERVE (R286): A cring waiting in the engine for room on a full ring reserves a slot when one frees, or fails on a closed ring. -/
  | cringReserve (pos : Nat)
  /-- TADD (R244): tadd atomically adds to a Commons word and returns the old value. -/
  | tadd (w : BitVec 2) (rs2 : XReg) (rs1 : XReg) (rd : XReg)
  /-- TMIN (R244): tmin atomically takes the minimum into a Commons word. -/
  | tmin (w : BitVec 2) (rs2 : XReg) (rs1 : XReg) (rd : XReg)
  /-- TMAX (R244): tmax atomically takes the maximum into a Commons word. -/
  | tmax (w : BitVec 2) (rs2 : XReg) (rs1 : XReg) (rd : XReg)
  /-- TAND (R244): tand atomically ANDs into a Commons word. -/
  | tand (w : BitVec 2) (rs2 : XReg) (rs1 : XReg) (rd : XReg)
  /-- TOR (R244): tor atomically ORs into a Commons word. -/
  | tor (w : BitVec 2) (rs2 : XReg) (rs1 : XReg) (rd : XReg)
  /-- TXCHG (R244): txchg atomically exchanges a Commons word. -/
  | txchg (w : BitVec 2) (rs2 : XReg) (rs1 : XReg) (rd : XReg)
  /-- TCAS (R244): tcas atomically compares and swaps a Commons word. -/
  | tcas (w : BitVec 2) (rs2 : XReg) (rs1 : XReg) (rd : XReg)
  /-- TCMD (R249): tcmd issues an in-place transform of a Commons region at a Teller. -/
  | tcmd (rs2 : XReg) (rs1 : XReg) (p : BitVec 5)
  /-- TCMD_COMPLETE (R249): A tcmd command finishes and withdraws the destination bytes from its purse. -/
  | tcmdComplete (pos : Nat)
  /-- PSET (R325): pset deposits into a purse and sets TRP, optionally clearing OVD and ERR. -/
  | pset (rs2 : XReg) (rs1 : XReg)
  /-- PWAIT (R326): pwait waits until the purse balance is 0 or below and returns its state. -/
  | pwait (rs1 : XReg) (rd : XReg)
  /-- PTEST (R326): ptest returns the purse state without waiting. -/
  | ptest (rs1 : XReg) (rd : XReg)
  /-- RRES (R294): rres reserves the next free ring slot, waiting while the ring is full. -/
  | rres (rs1 : XReg) (rd : XReg)
  /-- RPUB (R294): rpub publishes a reserved slot in slot order. -/
  | rpub (rs2 : XReg) (rs1 : XReg)
  /-- RACQ (R294): racq acquires a published slot, or returns 0 on a closed empty ring. -/
  | racq (rs1 : XReg) (rd : XReg)
  /-- RREL (R294): rrel releases an acquired slot in slot order. -/
  | rrel (rs2 : XReg) (rs1 : XReg)
  /-- ROCC (R294): rocc returns a ring's FILLED and FREE counts. -/
  | rocc (rs1 : XReg) (rd : XReg)
  /-- BAR (R329): bar arrives at a barrier word and waits for its generation to complete. -/
  | bar (rs2 : XReg) (rs1 : XReg) (rd : XReg)
  /-- WQPOST (R291): wqpost posts a launch record to a device-posted work queue. -/
  | wqpost (rs2 : XReg) (rs1 : XReg) (rd : XReg)
  /-- LVLWAIT (R330): lvlwait waits until a level record's outstanding count is 0 and returns its counter word. -/
  | lvlwait (rs1 : XReg) (rd : XReg)
  /-- LVLCANCEL (R331): lvlcancel cancels a level and every level beneath it. -/
  | lvlcancel (rs1 : XReg)
  /-- SEXIT (R301): sexit ends the strand once its VIQ, Cable queue and register copies are done; in a handler it ends the served strand with FAILED. -/
  | sexit
  /-- SYIELD (R302): syield is a pre-emption point where the strand gives up its core if a pre-emption or an equal-EP strand waits. -/
  | syield
  /-- SNAP_BEGIN (R361): snap.begin adopts a new snapshot generation and cuts its own strand. -/
  | snapBegin (rd : XReg)
  /-- SNAP_STAT (R362): snap.stat returns the state of a generation on this chip. -/
  | snapStat (rs1 : XReg) (rd : XReg)
  /-- SNAP_ROLLBACK (R363): snap.rollback starts rollback to a sealed generation and floods ROLLBACK. -/
  | snapRollback (rs1 : XReg)
  /-- MINT (R382): mint checks a resolved image, seals it and enters it in the object table. -/
  | mint (rs1 : XReg) (rd : XReg)
  /-- MINT_RESULT (R385): The clerk core finishes the mint request and hands the result to the waiting strand. -/
  | mintResult
  /-- ASSAY_REQ (R317): assay.req queues an assay run or migrates the interrupted strand. -/
  | assayReq (rs1 : XReg)
  /-- EVT (R342): evt releases at chip scope and raises a user event to the host. -/
  | evt (rs1 : XReg)
  /-- CHO (R345): cho issues this member's part of a collective. -/
  | cho (rs2 : XReg) (rs1 : XReg) (rd : XReg)
  /-- TLBINV (R311): tlbinv drops translations from every TLB of the partition and marks or unmarks a page in the transit filter. -/
  | tlbinv (rs2 : XReg) (rs1 : XReg)
  /-- INVALIDATION_PORT (R311): A clerk core writes the two words to the rib invalidation port to perform a tlbinv. -/
  | invalidationPort (va : Word) (cmd : Word)
  /-- VAULT_SWAP (R303): vault.swap starts moving a partition out to, or in from, the shadow vault. -/
  | vaultSwap (rs1 : XReg)
  /-- HINT (R101): The hint retires with no effect. -/
  | hint
  /-- VXGET (R136): vxget places one vector element in the SRQ for a scalar register. -/
  | vxget (e : Bool) (rs2 : XReg) (vs : VReg5) (rd : XReg)
  /-- SRQ_DELIVER (R136): An SRQ entry is written into its xd. -/
  | srqDeliver
  /-- VXPUT (R137): vxput writes one vector element from a scalar register. -/
  | vxput (rs2 : XReg) (rs1 : XReg) (vd : VReg5)
  /-- VMPOP (R138): vmpop counts the set bits of a mask below VL. -/
  | vmpop (e : Bool) (k : MReg3) (rd : XReg)
  /-- VMFIRST (R138): vmfirst returns the lowest set mask bit below VL, or −1. -/
  | vmfirst (e : Bool) (k : MReg3) (rd : XReg)
  /-- VMRD (R138): vmrd reads 64 bits of a mask. -/
  | vmrd (e : Bool) (rs2 : XReg) (k : MReg3) (rd : XReg)
  /-- QFENCE (R261): qfence orders older scalar and VIQ accesses before every younger access at a scope. -/
  | qfence (scope : BitVec 5)
  /-- EFENCE (R262): efence waits until older engine operations and scalar stores are performed at a scope. -/
  | efence (scope : BitVec 5)
  /-- KFENCE (R179): kfence completes when every older Cable entry has completed and merged its flags. -/
  | kfence
  /-- VLD_UNIT (R226): vld loads enabled elements at unit stride. -/
  | vldUnit (e : Bool) (rs1 : XReg) (m : MReg3) (vd : VReg5)
  /-- VLD_STRIDED (R226): vld loads enabled elements at a byte stride. -/
  | vldStrided (e : Bool) (rs2 : XReg) (rs1 : XReg) (m : MReg3) (vd : VReg5)
  /-- VLD_INDEXED (R226): vld loads enabled elements at indexed offsets. -/
  | vldIndexed (e : Bool) (vs2 : VReg5) (rs1 : XReg) (m : MReg3) (vd : VReg5)
  /-- VST_UNIT (R226): vst stores enabled elements at unit stride. -/
  | vstUnit (e : Bool) (rs1 : XReg) (m : MReg3) (vs3 : VReg5)
  /-- VST_STRIDED (R226): vst stores enabled elements at a byte stride. -/
  | vstStrided (e : Bool) (rs2 : XReg) (rs1 : XReg) (m : MReg3) (vs3 : VReg5)
  /-- VST_INDEXED (R226): vst stores enabled elements at indexed offsets. -/
  | vstIndexed (e : Bool) (vs2 : VReg5) (rs1 : XReg) (m : MReg3) (vs3 : VReg5)
  /-- VLDFF_UNIT (R227): vldff loads at unit stride up to the first faulting element and trims VL. -/
  | vldffUnit (e : Bool) (rs1 : XReg) (m : MReg3) (vd : VReg5)
  /-- VLDFF_STRIDED (R227): vldff loads at a stride up to the first faulting element and trims VL. -/
  | vldffStrided (e : Bool) (rs2 : XReg) (rs1 : XReg) (m : MReg3) (vd : VReg5)
  /-- VLDFF_INDEXED (R227): vldff loads indexed elements up to the first faulting element and trims VL. -/
  | vldffIndexed (e : Bool) (vs2 : VReg5) (rs1 : XReg) (m : MReg3) (vd : VReg5)
  /-- VLWIN (R229): vlwin gathers the elements whose offsets fall in the window and marks the rest outstanding. -/
  | vlwin (e : Bool) (vs2 : VReg5) (rs1 : XReg) (m : MReg3) (vd : VReg5)
  /-- VSTC (R230): vstc stores the selected elements densely. -/
  | vstc (e : Bool) (rs1 : XReg) (m : MReg3) (vs3 : VReg5)
  /-- VQLD_UNIT (R231): vqld loads scale-register entries at unit stride. -/
  | vqldUnit (rs1 : XReg) (n : BitVec 2)
  /-- VQLD_STRIDED (R231): vqld loads scale-register entries at a stride. -/
  | vqldStrided (rs2 : XReg) (rs1 : XReg) (n : BitVec 2)
  /-- VQST_UNIT (R231): vqst stores scale-register entries at unit stride. -/
  | vqstUnit (rs1 : XReg) (n : BitVec 2)
  /-- VQST_STRIDED (R231): vqst stores scale-register entries at a stride. -/
  | vqstStrided (rs2 : XReg) (rs1 : XReg) (n : BitVec 2)
  /-- VMLD (R232): vmld loads a mask from memory. -/
  | vmld (rs1 : XReg) (k : MReg3)
  /-- VMST (R232): vmst stores a mask to memory. -/
  | vmst (e : Bool) (rs1 : XReg) (k : MReg3)
  /-- VLDR (R234): vldr restores a vector register with its tag, header and state. -/
  | vldr (rs1 : XReg) (vd : VReg5)
  /-- VSTR (R234): vstr saves a vector register with its tag, header and state. -/
  | vstr (e : Bool) (rs1 : XReg) (vs3 : VReg5)
  /-- VTADD (R251): vtadd applies one Teller add per enabled element at Commons offsets. -/
  | vtadd (e : Bool) (vs2 : VReg5) (rs1 : XReg) (m : MReg3) (vs3 : VReg5)
  /-- VTMIN (R251): vtmin applies one Teller min per enabled element. -/
  | vtmin (e : Bool) (vs2 : VReg5) (rs1 : XReg) (m : MReg3) (vs3 : VReg5)
  /-- VTMAX (R251): vtmax applies one Teller max per enabled element. -/
  | vtmax (e : Bool) (vs2 : VReg5) (rs1 : XReg) (m : MReg3) (vs3 : VReg5)
  /-- VKLD (R236): vkld restores a range of slots and their pool words. -/
  | vkld (rs2 : XReg) (rs1 : XReg)
  /-- VKST (R236): vkst saves a range of slots and their pool words. -/
  | vkst (rs2 : XReg) (rs1 : XReg)
  /-- VADD_VV (R129): vadd adds elementwise, vector source. -/
  | vaddVv (e : Bool) (vs2 : VReg5) (vs1 : VReg5) (m : MReg3) (vd : VReg5)
  /-- VADD_VX (R129): vadd adds elementwise, scalar source. -/
  | vaddVx (e : Bool) (rs2 : XReg) (vs1 : VReg5) (m : MReg3) (vd : VReg5)
  /-- VADD_VI (R129): vadd adds elementwise, immediate source. -/
  | vaddVi (e : Bool) (imm : BitVec 5) (vs1 : VReg5) (m : MReg3) (vd : VReg5)
  /-- VSUB_VV (R129): vsub subtracts elementwise, vector source. -/
  | vsubVv (e : Bool) (vs2 : VReg5) (vs1 : VReg5) (m : MReg3) (vd : VReg5)
  /-- VSUB_VX (R129): vsub subtracts elementwise, scalar source. -/
  | vsubVx (e : Bool) (rs2 : XReg) (vs1 : VReg5) (m : MReg3) (vd : VReg5)
  /-- VSUB_VI (R129): vsub subtracts elementwise, immediate source. -/
  | vsubVi (e : Bool) (imm : BitVec 5) (vs1 : VReg5) (m : MReg3) (vd : VReg5)
  /-- VMUL_VV (R129): vmul multiplies elementwise, vector source. -/
  | vmulVv (e : Bool) (vs2 : VReg5) (vs1 : VReg5) (m : MReg3) (vd : VReg5)
  /-- VMUL_VX (R129): vmul multiplies elementwise, scalar source. -/
  | vmulVx (e : Bool) (rs2 : XReg) (vs1 : VReg5) (m : MReg3) (vd : VReg5)
  /-- VMUL_VI (R129): vmul multiplies elementwise, immediate source. -/
  | vmulVi (e : Bool) (imm : BitVec 5) (vs1 : VReg5) (m : MReg3) (vd : VReg5)
  /-- VMAC_VV (R129): vmac multiply-adds into vd, fused, vector source. -/
  | vmacVv (e : Bool) (vs2 : VReg5) (vs1 : VReg5) (m : MReg3) (vd : VReg5)
  /-- VMAC_VX (R129): vmac multiply-adds into vd, fused, scalar source. -/
  | vmacVx (e : Bool) (rs2 : XReg) (vs1 : VReg5) (m : MReg3) (vd : VReg5)
  /-- VMAC_VI (R129): vmac multiply-adds into vd, fused, immediate source. -/
  | vmacVi (e : Bool) (imm : BitVec 5) (vs1 : VReg5) (m : MReg3) (vd : VReg5)
  /-- VMIN_VV (R129): vmin takes the elementwise minimum, vector source. -/
  | vminVv (e : Bool) (vs2 : VReg5) (vs1 : VReg5) (m : MReg3) (vd : VReg5)
  /-- VMIN_VX (R129): vmin takes the elementwise minimum, scalar source. -/
  | vminVx (e : Bool) (rs2 : XReg) (vs1 : VReg5) (m : MReg3) (vd : VReg5)
  /-- VMIN_VI (R129): vmin takes the elementwise minimum, immediate source. -/
  | vminVi (e : Bool) (imm : BitVec 5) (vs1 : VReg5) (m : MReg3) (vd : VReg5)
  /-- VMAX_VV (R129): vmax takes the elementwise maximum, vector source. -/
  | vmaxVv (e : Bool) (vs2 : VReg5) (vs1 : VReg5) (m : MReg3) (vd : VReg5)
  /-- VMAX_VX (R129): vmax takes the elementwise maximum, scalar source. -/
  | vmaxVx (e : Bool) (rs2 : XReg) (vs1 : VReg5) (m : MReg3) (vd : VReg5)
  /-- VMAX_VI (R129): vmax takes the elementwise maximum, immediate source. -/
  | vmaxVi (e : Bool) (imm : BitVec 5) (vs1 : VReg5) (m : MReg3) (vd : VReg5)
  /-- VAND_VV (R129): vand ANDs elementwise, vector source. -/
  | vandVv (e : Bool) (vs2 : VReg5) (vs1 : VReg5) (m : MReg3) (vd : VReg5)
  /-- VAND_VX (R129): vand ANDs elementwise, scalar source. -/
  | vandVx (e : Bool) (rs2 : XReg) (vs1 : VReg5) (m : MReg3) (vd : VReg5)
  /-- VAND_VI (R129): vand ANDs elementwise, immediate source. -/
  | vandVi (e : Bool) (imm : BitVec 5) (vs1 : VReg5) (m : MReg3) (vd : VReg5)
  /-- VOR_VV (R129): vor ORs elementwise, vector source. -/
  | vorVv (e : Bool) (vs2 : VReg5) (vs1 : VReg5) (m : MReg3) (vd : VReg5)
  /-- VOR_VX (R129): vor ORs elementwise, scalar source. -/
  | vorVx (e : Bool) (rs2 : XReg) (vs1 : VReg5) (m : MReg3) (vd : VReg5)
  /-- VOR_VI (R129): vor ORs elementwise, immediate source. -/
  | vorVi (e : Bool) (imm : BitVec 5) (vs1 : VReg5) (m : MReg3) (vd : VReg5)
  /-- VXOR_VV (R129): vxor XORs elementwise, vector source. -/
  | vxorVv (e : Bool) (vs2 : VReg5) (vs1 : VReg5) (m : MReg3) (vd : VReg5)
  /-- VXOR_VX (R129): vxor XORs elementwise, scalar source. -/
  | vxorVx (e : Bool) (rs2 : XReg) (vs1 : VReg5) (m : MReg3) (vd : VReg5)
  /-- VXOR_VI (R129): vxor XORs elementwise, immediate source. -/
  | vxorVi (e : Bool) (imm : BitVec 5) (vs1 : VReg5) (m : MReg3) (vd : VReg5)
  /-- VSHL_VV (R129): vshl shifts left elementwise, vector amount. -/
  | vshlVv (e : Bool) (vs2 : VReg5) (vs1 : VReg5) (m : MReg3) (vd : VReg5)
  /-- VSHL_VX (R129): vshl shifts left elementwise, scalar amount. -/
  | vshlVx (e : Bool) (rs2 : XReg) (vs1 : VReg5) (m : MReg3) (vd : VReg5)
  /-- VSHL_VI (R129): vshl shifts left elementwise, immediate amount. -/
  | vshlVi (e : Bool) (imm : BitVec 5) (vs1 : VReg5) (m : MReg3) (vd : VReg5)
  /-- VSHR_VV (R129): vshr shifts right elementwise, vector amount. -/
  | vshrVv (e : Bool) (vs2 : VReg5) (vs1 : VReg5) (m : MReg3) (vd : VReg5)
  /-- VSHR_VX (R129): vshr shifts right elementwise, scalar amount. -/
  | vshrVx (e : Bool) (rs2 : XReg) (vs1 : VReg5) (m : MReg3) (vd : VReg5)
  /-- VSHR_VI (R129): vshr shifts right elementwise, immediate amount. -/
  | vshrVi (e : Bool) (imm : BitVec 5) (vs1 : VReg5) (m : MReg3) (vd : VReg5)
  /-- VDIV_VV (R129): vdiv divides elementwise, vector divisor. -/
  | vdivVv (e : Bool) (vs2 : VReg5) (vs1 : VReg5) (m : MReg3) (vd : VReg5)
  /-- VDIV_VX (R129): vdiv divides elementwise, scalar divisor. -/
  | vdivVx (e : Bool) (rs2 : XReg) (vs1 : VReg5) (m : MReg3) (vd : VReg5)
  /-- VDIV_VI (R129): vdiv divides elementwise, immediate divisor. -/
  | vdivVi (e : Bool) (imm : BitVec 5) (vs1 : VReg5) (m : MReg3) (vd : VReg5)
  /-- VCMP_VV (R131): vcmp compares elementwise into a mask, vector source. -/
  | vcmpVv (e : Bool) (vs2 : VReg5) (vs1 : VReg5) (m : MReg3) (d : MReg3) (c : BitVec 2)
  /-- VCMP_VX (R131): vcmp compares elementwise into a mask, scalar source. -/
  | vcmpVx (e : Bool) (rs2 : XReg) (vs1 : VReg5) (m : MReg3) (d : MReg3) (c : BitVec 2)
  /-- VCMP_VI (R131): vcmp compares elementwise into a mask, immediate source. -/
  | vcmpVi (e : Bool) (imm : BitVec 5) (vs1 : VReg5) (m : MReg3) (d : MReg3) (c : BitVec 2)
  /-- VMERGE_VV (R132): vmerge selects elementwise between two vectors under a mask. -/
  | vmergeVv (e : Bool) (vs2 : VReg5) (vs1 : VReg5) (m : MReg3) (vd : VReg5)
  /-- VMERGE_VX (R132): vmerge selects elementwise between a vector and a scalar under a mask. -/
  | vmergeVx (e : Bool) (rs2 : XReg) (vs1 : VReg5) (m : MReg3) (vd : VReg5)
  /-- VMERGE_VI (R132): vmerge selects elementwise between a vector and an immediate under a mask. -/
  | vmergeVi (e : Bool) (imm : BitVec 5) (vs1 : VReg5) (m : MReg3) (vd : VReg5)
  /-- VPERM_GATHER (R146): vperm gathers elements of vs1 by vs2 indices. -/
  | vpermGather (e : Bool) (vs2 : VReg5) (vs1 : VReg5) (m : MReg3) (vd : VReg5)
  /-- VPERM_SLIDE_VX (R147): vperm slides elements down by a signed scalar amount. -/
  | vpermSlideVx (e : Bool) (rs2 : XReg) (vs1 : VReg5) (m : MReg3) (vd : VReg5)
  /-- VPERM_SLIDE_VI (R147): vperm slides elements down by a signed immediate. -/
  | vpermSlideVi (e : Bool) (imm : BitVec 5) (vs1 : VReg5) (m : MReg3) (vd : VReg5)
  /-- VSLIDEUP_VX (R148): vslideup slides elements up by an unsigned scalar amount. -/
  | vslideupVx (e : Bool) (rs2 : XReg) (vs1 : VReg5) (m : MReg3) (vd : VReg5)
  /-- VSLIDEUP_VI (R148): vslideup slides elements up by an immediate 0 to 15. -/
  | vslideupVi (e : Bool) (imm : BitVec 5) (vs1 : VReg5) (m : MReg3) (vd : VReg5)
  /-- VMOV (R144): vmov moves elements by the move rule. -/
  | vmov (e : Bool) (vs1 : VReg5) (m : MReg3) (vd : VReg5)
  /-- VNEG (R144): vneg negates elements. -/
  | vneg (e : Bool) (vs1 : VReg5) (m : MReg3) (vd : VReg5)
  /-- VABS (R144): vabs takes absolute values. -/
  | vabs (e : Bool) (vs1 : VReg5) (m : MReg3) (vd : VReg5)
  /-- VNOT (R144): vnot inverts integer bits. -/
  | vnot (e : Bool) (vs1 : VReg5) (m : MReg3) (vd : VReg5)
  /-- VSQRT (R144): vsqrt takes correctly rounded square roots. -/
  | vsqrt (e : Bool) (vs1 : VReg5) (m : MReg3) (vd : VReg5)
  /-- VRSQRT (R144): vrsqrt takes approximate reciprocal square roots. -/
  | vrsqrt (e : Bool) (vs1 : VReg5) (m : MReg3) (vd : VReg5)
  /-- VRCP (R144): vrcp takes approximate reciprocals. -/
  | vrcp (e : Bool) (vs1 : VReg5) (m : MReg3) (vd : VReg5)
  /-- VEXP2 (R144): vexp2 computes 2 to the power of each element. -/
  | vexp2 (e : Bool) (vs1 : VReg5) (m : MReg3) (vd : VReg5)
  /-- VLOG2 (R144): vlog2 computes base-2 logarithms. -/
  | vlog2 (e : Bool) (vs1 : VReg5) (m : MReg3) (vd : VReg5)
  /-- VSIN (R144): vsin computes sines. -/
  | vsin (e : Bool) (vs1 : VReg5) (m : MReg3) (vd : VReg5)
  /-- VCOS (R144): vcos computes cosines. -/
  | vcos (e : Bool) (vs1 : VReg5) (m : MReg3) (vd : VReg5)
  /-- VTANH (R144): vtanh computes hyperbolic tangents. -/
  | vtanh (e : Bool) (vs1 : VReg5) (m : MReg3) (vd : VReg5)
  /-- VSIGM (R144): vsigm computes logistic sigmoids. -/
  | vsigm (e : Bool) (vs1 : VReg5) (m : MReg3) (vd : VReg5)
  /-- VFLOOR (R144): vfloor rounds down to integral values. -/
  | vfloor (e : Bool) (vs1 : VReg5) (m : MReg3) (vd : VReg5)
  /-- VCEIL (R144): vceil rounds up to integral values. -/
  | vceil (e : Bool) (vs1 : VReg5) (m : MReg3) (vd : VReg5)
  /-- VRND (R144): vrnd rounds to integral values in RM. -/
  | vrnd (e : Bool) (vs1 : VReg5) (m : MReg3) (vd : VReg5)
  /-- VCLZ (R144): vclz counts leading zero bits. -/
  | vclz (e : Bool) (vs1 : VReg5) (m : MReg3) (vd : VReg5)
  /-- VPOPC (R144): vpopc counts set bits. -/
  | vpopc (e : Bool) (vs1 : VReg5) (m : MReg3) (vd : VReg5)
  /-- VID (R144): vid writes each element's index. -/
  | vid (e : Bool) (m : MReg3) (vd : VReg5)
  /-- VBCAST (R144): vbcast broadcasts element 0 of vs1. -/
  | vbcast (e : Bool) (vs1 : VReg5) (m : MReg3) (vd : VReg5)
  /-- VCLASS (R145): vclass classifies float elements into a one-hot integer. -/
  | vclass (e : Bool) (vs1 : VReg5) (m : MReg3) (vd : VReg5)
  /-- VCVT (R156): vcvt converts elements rounding in RM. -/
  | vcvt (e : Bool) (vs1 : VReg5) (m : MReg3) (vd : VReg5)
  /-- VCVT_RZ (R156): vcvt.rz converts elements rounding toward zero. -/
  | vcvtRz (e : Bool) (vs1 : VReg5) (m : MReg3) (vd : VReg5)
  /-- VCVT_SR (R156): vcvt.sr converts elements with stochastic rounding. -/
  | vcvtSr (e : Bool) (vs1 : VReg5) (m : MReg3) (vd : VReg5)
  /-- VCVT_SAT (R156): vcvt.sat converts elements with saturation. -/
  | vcvtSat (e : Bool) (vs1 : VReg5) (m : MReg3) (vd : VReg5)
  /-- VQUANT (R157): vquant quantises a float vector into HX4 blocks and writes their scale entries. -/
  | vquant (e : Bool) (vs1 : VReg5) (m : MReg3) (vd : VReg5)
  /-- VREDSUM (R134): vredsum sums enabled elements in ascending order. -/
  | vredsum (e : Bool) (vs1 : VReg5) (m : MReg3) (vd : VReg5)
  /-- VREDSUMT (R134): vredsumt sums enabled elements by lane partials and a fixed tree. -/
  | vredsumt (e : Bool) (vs1 : VReg5) (m : MReg3) (vd : VReg5)
  /-- VREDMAX (R134): vredmax reduces to the maximum. -/
  | vredmax (e : Bool) (vs1 : VReg5) (m : MReg3) (vd : VReg5)
  /-- VREDMIN (R134): vredmin reduces to the minimum. -/
  | vredmin (e : Bool) (vs1 : VReg5) (m : MReg3) (vd : VReg5)
  /-- VREDAND (R134): vredand reduces by AND. -/
  | vredand (e : Bool) (vs1 : VReg5) (m : MReg3) (vd : VReg5)
  /-- VREDOR (R134): vredor reduces by OR. -/
  | vredor (e : Bool) (vs1 : VReg5) (m : MReg3) (vd : VReg5)
  /-- VREDXOR (R134): vredxor reduces by XOR. -/
  | vredxor (e : Bool) (vs1 : VReg5) (m : MReg3) (vd : VReg5)
  /-- VCOMPRESS (R149): vcompress packs the selected elements densely. -/
  | vcompress (e : Bool) (vs1 : VReg5) (m : MReg3) (vd : VReg5)
  /-- VEXPAND (R150): vexpand spreads dense elements into the selected positions. -/
  | vexpand (e : Bool) (vs1 : VReg5) (m : MReg3) (vd : VReg5)
  /-- VMIDX (R151): vmidx writes the indices of the selected elements densely. -/
  | vmidx (e : Bool) (m : MReg3) (vd : VReg5)
  /-- VREV (R152): vrev reverses the elements below VL. -/
  | vrev (e : Bool) (vs1 : VReg5) (m : MReg3) (vd : VReg5)
  /-- VTR8 (R153): vtr8 transposes each 8 × 8 tile. -/
  | vtr8 (e : Bool) (vs1 : VReg5) (m : MReg3) (vd : VReg5)
  /-- MAND (R133): mand ANDs two masks. -/
  | mand (e : Bool) (a : MReg3) (b : MReg3) (d : MReg3)
  /-- MOR (R133): mor ORs two masks. -/
  | mor (e : Bool) (a : MReg3) (b : MReg3) (d : MReg3)
  /-- MXOR (R133): mxor XORs two masks. -/
  | mxor (e : Bool) (a : MReg3) (b : MReg3) (d : MReg3)
  /-- MANDN (R133): mandn ANDs a mask with the complement of another. -/
  | mandn (e : Bool) (a : MReg3) (b : MReg3) (d : MReg3)
  /-- MNOT (R133): mnot complements a mask. -/
  | mnot (e : Bool) (a : MReg3) (d : MReg3)
  /-- MBF (R133): mbf sets bits before the first set bit. -/
  | mbf (e : Bool) (a : MReg3) (d : MReg3)
  /-- MIF (R133): mif sets bits up to and including the first set bit. -/
  | mif (e : Bool) (a : MReg3) (d : MReg3)
  /-- MSOF (R133): msof sets only the first set bit. -/
  | msof (e : Bool) (a : MReg3) (d : MReg3)
  /-- MSET (R133): mset sets every mask bit below VL. -/
  | mset (d : MReg3)
  /-- MCLR (R133): mclr clears every mask bit below VL. -/
  | mclr (d : MReg3)
  /-- VMOMU (R158): vmomu performs one AdamW-style update of parameters and both moments. -/
  | vmomu (e : Bool) (vs1 : VReg5) (m : MReg3) (vd : VReg5)
  /-- DMAC (R169): dmac adds the products of two diagonals into the slot of the summed offset. -/
  | dmac (z : Bool) (e : Bool) (vs2 : VReg5) (vs1 : VReg5) (k : BitVec 8)
  /-- DMSC (R169): dmsc subtracts the products of two diagonals from the slot of the summed offset. -/
  | dmsc (z : Bool) (e : Bool) (vs2 : VReg5) (vs1 : VReg5) (k : BitVec 8)
  /-- DMM (R172): dmm multiplies two dense tiles held as packed diagonals. -/
  | dmm (z : Bool) (e : Bool) (vs2 : VReg5) (vs1 : VReg5) (k : BitVec 8)
  /-- DOP (R173): dop adds an outer product into a run of slots. -/
  | dop (z : Bool) (e : Bool) (vs2 : VReg5) (vs1 : VReg5) (k : BitVec 8)
  /-- KIN (R174): kin writes a diagonal into a slot. -/
  | kin (e : Bool) (vs1 : VReg5) (k : BitVec 8)
  /-- KADD (R175): kadd adds one slot into another. -/
  | kadd (j : BitVec 8) (k : BitVec 8)
  /-- DOUT (R176): dout drains a slot into a vector register. -/
  | dout (e : Bool) (vb : VReg5) (vd : VReg5) (k : BitVec 8)
  /-- DOUT_Q (R176): dout.q drains a slot with requantisation. -/
  | doutQ (e : Bool) (vb : VReg5) (vd : VReg5) (k : BitVec 8)
  /-- DOUT_A (R176): dout.a drains a slot through the activation table. -/
  | doutA (e : Bool) (vb : VReg5) (vd : VReg5) (k : BitVec 8)
  /-- DOUT_AQ (R176): dout.aq drains a slot with activation and requantisation. -/
  | doutAq (e : Bool) (vb : VReg5) (vd : VReg5) (k : BitVec 8)
  /-- DOUT_B (R176): dout.b drains a slot with bias. -/
  | doutB (e : Bool) (vb : VReg5) (vd : VReg5) (k : BitVec 8)
  /-- DOUT_BQ (R176): dout.bq drains a slot with bias and requantisation. -/
  | doutBq (e : Bool) (vb : VReg5) (vd : VReg5) (k : BitVec 8)
  /-- DOUT_BA (R176): dout.ba drains a slot with bias and activation. -/
  | doutBa (e : Bool) (vb : VReg5) (vd : VReg5) (k : BitVec 8)
  /-- DOUT_BAQ (R176): dout.baq drains a slot with bias, activation and requantisation. -/
  | doutBaq (e : Bool) (vb : VReg5) (vd : VReg5) (k : BitVec 8)
  /-- STASH_COPY_DONE (R167): The operand stash finishes copying a source range and the register leaves LENT. -/
  | stashCopyDone (v : VReg5)
  /-- CABLE_ENTRY_COMPLETE (R165): A Cable-queue entry finishes its primitives, merges its flags and leaves the queue. -/
  | cableEntryComplete
  /-- VIQ_EXECUTE (R120): A committed VIQ entry reaches execution after waiting, is checked and starts. -/
  | viqExecute
  /-- VECTOR_FAULT (R272): A VIQ entry faults; younger entries freeze and the trap is taken at the next U-mode boundary. -/
  | vectorFault
  /-- VLDFF_COMPLETE (R228): A vldff completes, resolving the provisional vl and waking waiters. -/
  | vldffComplete
  /-- LATEPF (R268): A store reports LATEPF at the memory side and is delivered as a vector fault, with held accesses kept held. -/
  | latepf (elem : Nat)
  /-- STORE_ACK (R268): A store is acknowledged at the required scope and the accesses held behind it proceed. -/
  | storeAck
  /-- TRAP_ENTRY (R369): A trap enters the handler, sets S on every loop level and drops the descriptor cache. -/
  | trapEntry (cause : BitVec 6) (tval : Word)
  /-- PREEMPT (R417): A stop waiting for a U-mode boundary makes PREEMPT pending. -/
  | preempt (pending : Bool)
  /-- ROLLBACK_ENTRY (R360): A restored strand takes ROLLBACK_ENTRY before its first instruction after placement. -/
  | rollbackEntry
  /-- TELLER_REMAP (R253): A Teller mismatch remaps the bank to a spare Teller, which redoes the operation. -/
  | tellerRemap (bank : Nat)
  /-- TELLER_REQUEST (R241): A bank performs the next request in its bank order as one indivisible step. -/
  | tellerRequest (req : BankReq)
  /-- HOST_TAIL_WRITE (R287): A host write to a work queue's TAIL posts records, or is refused with ERR and an event. -/
  | hostTailWrite (part : Nat) (q : Nat) (val : BitVec 32)
  /-- WS_TAKE_RECORD (R290): The WS takes a record from a work queue into the holding queues and checks it. -/
  | wsTakeRecord (part : Nat) (q : Nat)
  /-- LAUNCH_ADMIT (R34): The WS admits a held launch once dependences and placement allow, creating its strands. -/
  | launchAdmit (serial : Nat)
  /-- MARKER_COMPLETE (R289): A marker record completes once every launch taken earlier from its queue has completed. -/
  | markerComplete (serial : Nat)
  /-- LAUNCH_COMPLETE (R42): A launch completes when its strands have exited and their operations finished, setting its outstanding count to 0. -/
  | launchComplete (serial : Nat)
  /-- DEPENDENCE_RELEASE (R44): A held launch's dependence counters reach 0, so it is released or completes CANCELLED. -/
  | dependenceRelease (serial : Nat)
  /-- LEVEL_CANCEL_STORE (R332): A store setting CANCELLED in a level record acts as lvlcancel. -/
  | levelCancelStore (addr : Word) (val : Word)
  /-- PLACE_STRAND (R299): An idle core goes to the READY strand of highest EP that it covers. -/
  | placeStrand (serial : Nat) (stage : Nat) (idx : Nat)
  /-- REALLOCATION_INTERVAL_END (R298): Every 8,192 cycles the WS scores stages, ages EP and applies priority and spread pre-emption. -/
  | reallocationIntervalEnd (part : Nat)
  /-- PREEMPTION (R40): A pending pre-emption lands at the strand's next pre-emption point and saves its context. -/
  | preemption
  /-- FORCED_PREEMPTION (R181): After 65,536 cycles without the Cable queue emptying, the pre-emption suspends the Pattern sequencer and saves the queue. -/
  | forcedPreemption
  /-- PARK (R38): A strand BLOCKED for 8,192 cycles is parked, its request withdrawn and its core freed. -/
  | park
  /-- WAIT_SATISFIED (R37): An awaited word changes so the wait holds: a BLOCKED strand runs, a PARKED strand becomes READY. -/
  | waitSatisfied (serial : Nat) (stage : Nat) (idx : Nat)
  /-- PLACEMENT_EVENT (R41): A launch that cannot be placed raises the placement event, and again after each 2^20 cycles. -/
  | placementEvent (serial : Nat)
  /-- PIPELINE_STALL_EVENT (R47): After 2^20 cycles with every strand of a launch BLOCKED or PARKED, the WS raises the pipeline-stall event. -/
  | pipelineStallEvent (serial : Nat)
  /-- RING_PRODUCER_LEAVE (R296): A producing strand leaves PROD; reaching 0 sets CLOSED and releases waiters. -/
  | ringProducerLeave (part : Nat) (ring : Word)
  /-- ASSAY_CORE_CLAIM (R50): After 2^20 cycles with no free core, the assay controller has a strand of the lowest-scoring stage pre-empted. -/
  | assayCoreClaim (rib : Nat)
  /-- ASSAY_COMPLETE (R314): An assay run finishes and updates the capability record. -/
  | assayComplete (core : Nat) (cls : Nat) (pass : Bool)
  /-- VAULT_SWAP_DEADLINE (R303): When DL cycles have passed, every strand not yet stopped stops at its next instruction boundary. -/
  | vaultSwapDeadline
  /-- VAULT_SWAP_DONE (R303): The swap finishes writing or restoring the image, clears BUSY and raises an event. -/
  | vaultSwapDone
  /-- STITCH_MARKER (R353): A stitch marker for a newer generation arrives and the chip adopts and forwards it. -/
  | stitchMarker (part : Nat) (gen : BitVec 32) (on : OnLink Nat)
  /-- STRAND_CUT (R51): A strand cuts to the new colour at its first pre-emption point after the marker arrives. -/
  | strandCut
  /-- CONSUME_FIRST_CUT (R269): An uncut strand about to consume a new-colour item cuts at the boundary before it. -/
  | consumeFirstCut
  /-- CHIP_DONE (R357): The chip has cut every strand, OCO is 0 and markers have arrived, so it writes the manifest and floods DONE. -/
  | chipDone (part : Nat)
  /-- DONE_MESSAGE (R357): A DONE message arrives and is forwarded; with DONE from every chip the generation is sealed. -/
  | doneMessage (part : Nat) (gen : BitVec 32) (chip : BitVec 12)
  /-- ABANDON_MESSAGE (R359): ABANDON(G) discards manifest G and every retained image. -/
  | abandonMessage (part : Nat) (gen : BitVec 32)
  /-- ROLLBACK_MESSAGE (R360): ROLLBACK(G) stops the job's strands, restores image G and makes every strand READY with ROLLBACK_ENTRY pending. -/
  | rollbackMessage (part : Nat) (m : OnLink (BitVec 32))
  /-- PEER_REQUEST (R338): A PEER request arrives and is performed by the partition holding the JOBID. -/
  | peerRequest (m : OnLink PeerReq)
  /-- CHUNK_RECEIVE (R350): A Clearing House chunk arrives, is checked and its words are written. -/
  | chunkReceive (m : OnLink ChunkMsg)
  /-- COLLECTIVE_COMPLETE (R351): A collective's RECV writes are performed and the purse withdrawal is made. -/
  | collectiveComplete (pos : Nat)
  /-- COLLECTIVE_TIMEOUT (R351): After 2^30 cycles without a chunk, the instance raises event 0x0018. -/
  | collectiveTimeout (pos : Nat)
  /-- SCRUB_GRANULE (R220): The scrubber reads a granule, correcting or poisoning it. -/
  | scrubGranule (addr : Nat) (found : EccFind)
  /-- WEAR_ROW_COPY (R220): Wear management copies a row's granules with poison kept and remaps them. -/
  | wearRowCopy (src : Nat) (bytes : Nat)
  /-- LINK_CALIBRATION (R393): A link pauses for one calibration window. -/
  | linkCalibration (link : Nat)
  /-- TELEMETRY_SAMPLE (R334): PWR and TEMP are re-sampled into the counter block. -/
  | telemetrySample (pwr : Word) (temp : Word)
  /-- CLOCK_STEP_DOWN (R387): After 2^20 cycles over the power or temperature limit, the clock moves down one step. -/
  | clockStepDown
  /-- CLOCK_STEP_UP (R387): After 2^22 cycles under the limits, the clock moves up one step. -/
  | clockStepUp
  /-- THERMAL_SHUTDOWN (R387): At 115 °C the module stops every vector core and signals every partition's mailbox. -/
  | thermalShutdown
  /-- DBELL (R388): A store setting DBELL makes HOST pending on the partition's clerk core. -/
  | dbell (part : Nat)
  /-- MAILBOX_SET_TDP (R388): Mailbox code 1 sets the TDP, or is refused. -/
  | mailboxSetTdp (part : Nat)
  /-- MAILBOX_ATTEST (R391): Mailbox code 2 signs a quote over the nonce and the measurements. -/
  | mailboxAttest (part : Nat)
  /-- MAILBOX_READ_MEASUREMENTS (R390): Mailbox code 3 returns M0 to M3. -/
  | mailboxReadMeasurements (part : Nat)
  /-- POWER_ON_BOOT (R389): At power-on the boot ROM loads and verifies firmware, and each stage verifies and measures the next. -/
  | powerOnBoot (boot : BootReport)
  /-- HOST_WRITE (R243): A host write request arriving on HREQ is performed at its bank or memory, re-evaluating waits on purse, ring, barrier and level words and taking part in page splitting and granule merging. -/
  | hostWrite (addr : Nat) (bytes : List Byte)
  /-- JOB_BLOCK_WRITE (R337): A write of SNEN or JOBID in the job block makes the fabric logic read the job chip map, and writes at other times are ignored. -/
  | jobBlockWrite (part : Nat) (off : Nat) (val : Word)
  /-- DIRTY_LINE_WRITE_BACK (R217): A dirty rib-L2 line holding an uncorrectable error is written back with its granules poisoned. -/
  | dirtyLineWriteBack (line : Nat)
  /-- CHUNK_LANDING_ACK (R352): A sender receives the acknowledgement of a chunk's landing and records the chunk as sent in the collective area. -/
  | chunkLandingAck (pos : Nat) (chunk : Nat)
  deriving DecidableEq, Repr

end Sys2Proof
end

