-- ==== Sys2Proof/Decode.lean ====
section
/-! DEFINITION. Decoding: total on any word and any bytes, refusing by answering none (R81, R82, R89 to R98), and
after it the encoder, written from the same tables of spec/04_encoding.md and the base. -/

namespace Sys2Proof

/-- The six fields every shape of R89 to R92 shares. -/
structure Fields where
  f7 : BitVec 7
  rs2 : BitVec 5
  rs1 : BitVec 5
  f3 : BitVec 3
  rd : BitVec 5
  op : BitVec 7
  deriving DecidableEq, Repr

/-- Cut a word into its fields (Table 4.2). -/
def fieldsOfWord (w : BitVec 32) : Fields :=
  ⟨w.extractLsb' 25 7, w.extractLsb' 20 5, w.extractLsb' 15 5, w.extractLsb' 12 3, w.extractLsb' 7 5,
    w.extractLsb' 0 7⟩

/-- Join the fields into a word (Table 4.2). -/
def wordOfFields (f : Fields) : BitVec 32 :=
  f.f7 ++ f.rs2 ++ f.rs1 ++ f.f3 ++ f.rd ++ f.op

/-- CSR numbers with a row of their own in the opcode table (R113, R118, R228, R417). -/
def csrVl : BitVec 12 := 0x800
def csrVxflags : BitVec 12 := 0x805
def csrPtroot : BitVec 12 := 0x5C0
def csrPcfg : BitVec 12 := 0x7C0
def csrMip : BitVec 12 := 0x344
def csrSip : BitVec 12 := 0x144

/-- True for the forms of a pcfg access that cannot touch PCNT: a set or clear of uimm below 16 reaches only PROF
(Table 5.6). -/
def pcfgProfOnly (op : CsrOp) (src : XReg) : Bool :=
  match op with
  | .rsi | .rci => src.toNat < 16
  | .rw | .rs | .rc | .rwi => false

/-- The constructor of a Zicsr word: six CSRs have rows of their own. -/
def csrInstr (op : CsrOp) (csr : BitVec 12) (src rd : XReg) : Instr :=
  if csr = csrVl then .vlWrite op src rd
  else if csr = csrVxflags then .vxflagsWrite op src rd
  else if csr = csrPtroot then .ptrootWrite op src rd
  else if csr = csrMip then .assayNoticeClear op true src rd
  else if csr = csrSip then .assayNoticeClear op false src rd
  else if csr = csrPcfg then
    if pcfgProfOnly op src then .profileEnableWrite op src rd else .partitionSetup op src rd
  else .csrWrite op csr src rd

/-- Major opcode OP-IMM (the base). -/
def decodeOpImm (f : Fields) : Option Instr :=
  let imm := f.f7 ++ f.rs2
  match f.f3.toNat with
  | 0 => some (.baseAlu (.opImm .addi f.rd f.rs1 imm))
  | 1 => if f.f7.extractLsb' 1 6 = 0 then
      some (.baseAlu (.shImm .sll f.rd f.rs1 (f.f7.extractLsb' 0 1 ++ f.rs2))) else none
  | 2 => some (.baseAlu (.opImm .slti f.rd f.rs1 imm))
  | 3 => some (.baseAlu (.opImm .sltiu f.rd f.rs1 imm))
  | 4 => some (.baseAlu (.opImm .xori f.rd f.rs1 imm))
  | 5 => if f.f7.extractLsb' 1 6 = 0 then
      some (.baseAlu (.shImm .srl f.rd f.rs1 (f.f7.extractLsb' 0 1 ++ f.rs2)))
    else if f.f7.extractLsb' 1 6 = 0b010000 then
      some (.baseAlu (.shImm .sra f.rd f.rs1 (f.f7.extractLsb' 0 1 ++ f.rs2))) else none
  | 6 => some (.baseAlu (.opImm .ori f.rd f.rs1 imm))
  | 7 => some (.baseAlu (.opImm .andi f.rd f.rs1 imm))
  | _ => none

/-- Major opcode OP-IMM-32 (the base). -/
def decodeOpImm32 (f : Fields) : Option Instr :=
  match f.f3.toNat with
  | 0 => some (.baseAlu (.addiw f.rd f.rs1 (f.f7 ++ f.rs2)))
  | 1 => if f.f7 = 0 then some (.baseAlu (.shImmW .sll f.rd f.rs1 f.rs2)) else none
  | 5 => if f.f7 = 0 then some (.baseAlu (.shImmW .srl f.rd f.rs1 f.rs2))
    else if f.f7 = 0x20 then some (.baseAlu (.shImmW .sra f.rd f.rs1 f.rs2)) else none
  | _ => none

/-- The operation of an OP word from funct7 and funct3 (the base I and M). -/
def regOpOf (f7 f3 : Nat) : Option RegOp :=
  match f7, f3 with
  | 0, 0 => some .add | 0, 1 => some .sll | 0, 2 => some .slt | 0, 3 => some .sltu
  | 0, 4 => some .xor | 0, 5 => some .srl | 0, 6 => some .or | 0, 7 => some .and
  | 0x20, 0 => some .sub | 0x20, 5 => some .sra
  | 1, 0 => some .mul | 1, 1 => some .mulh | 1, 2 => some .mulhsu | 1, 3 => some .mulhu
  | 1, 4 => some .div | 1, 5 => some .divu | 1, 6 => some .rem | 1, 7 => some .remu
  | _, _ => none

/-- The operation of an OP-32 word. -/
def regWOpOf (f7 f3 : Nat) : Option RegWOp :=
  match f7, f3 with
  | 0, 0 => some .addw | 0, 1 => some .sllw | 0, 5 => some .srlw
  | 0x20, 0 => some .subw | 0x20, 5 => some .sraw
  | 1, 0 => some .mulw | 1, 4 => some .divw | 1, 5 => some .divuw | 1, 6 => some .remw
  | 1, 7 => some .remuw
  | _, _ => none

/-- Major opcode LOAD. -/
def loadOpOf (f3 : Nat) : Option LoadOp :=
  match f3 with
  | 0 => some .lb | 1 => some .lh | 2 => some .lw | 3 => some .ld
  | 4 => some .lbu | 5 => some .lhu | 6 => some .lwu
  | _ => none

/-- Major opcode STORE. -/
def storeOpOf (f3 : Nat) : Option StoreOp :=
  match f3 with
  | 0 => some .sb | 1 => some .sh | 2 => some .sw | 3 => some .sd
  | _ => none

/-- Major opcode BRANCH. -/
def condOf (f3 : Nat) : Option Cond :=
  match f3 with
  | 0 => some .eq | 1 => some .ne | 4 => some .lt | 5 => some .ge | 6 => some .ltu | 7 => some .geu
  | _ => none

/-- funct5 of an AMO that is neither LR nor SC. -/
def amoOpOf (f5 : Nat) : Option AmoOp :=
  match f5 with
  | 0 => some .add | 1 => some .swap | 4 => some .xor | 8 => some .or | 12 => some .and
  | 16 => some .min | 20 => some .max | 24 => some .minu | 28 => some .maxu
  | _ => none

/-- Major opcode AMO: funct3 2 is a word, 3 a doubleword; LR needs rs2 = 0. -/
def decodeAmo (f : Fields) : Option Instr :=
  let aq := f.f7.getLsbD 1
  let rl := f.f7.getLsbD 0
  let f5 := (f.f7.extractLsb' 2 5).toNat
  if f.f3 = 2 ∨ f.f3 = 3 then
    let dbl := decide (f.f3 = 3)
    if f5 = 2 then if f.rs2 = 0 then some (.baseLr dbl aq rl f.rd f.rs1) else none
    else if f5 = 3 then some (.baseSc dbl aq rl f.rd f.rs1 f.rs2)
    else (amoOpOf f5).map fun o => .baseAmo o dbl aq rl f.rd f.rs1 f.rs2
  else none

/-- Major opcode MISC-MEM: fence and fence.i; fields the base reserves are ignored (R84). -/
def decodeMiscMem (f : Fields) : Option Instr :=
  match f.f3.toNat with
  | 0 => some (.fence (f.f7.extractLsb' 3 4) (f.f7.extractLsb' 0 3 ++ f.rs2.extractLsb' 4 1)
      (f.rs2.extractLsb' 0 4) f.rs1 f.rd)
  | 1 => some (.fenceI (f.f7 ++ f.rs2) f.rs1 f.rd)
  | _ => none

/-- Major opcode SYSTEM. `sfence.vma` is not implemented (Table 4.1). -/
def decodeSystem (f : Fields) : Option Instr :=
  let csr := f.f7 ++ f.rs2
  match f.f3.toNat with
  | 0 => if f.rs1 = 0 ∧ f.rd = 0 then
      match csr.toNat with
      | 0x000 => some .ecall
      | 0x001 => some .ebreak
      | 0x102 => some .sret
      | 0x302 => some .mret
      | 0x105 => some .wfi
      | _ => none
    else none
  | 1 => some (csrInstr .rw csr f.rs1 f.rd)
  | 2 => some (csrInstr .rs csr f.rs1 f.rd)
  | 3 => some (csrInstr .rc csr f.rs1 f.rd)
  | 5 => some (csrInstr .rwi csr f.rs1 f.rd)
  | 6 => some (csrInstr .rsi csr f.rs1 f.rd)
  | 7 => some (csrInstr .rci csr f.rs1 f.rd)
  | _ => none

/-- Group LOOP (SL shape, Table 4.3): imm12 is 1 to 4,095, the level 0 to 5. -/
def decodeLoop (f : Fields) : Option Instr :=
  if f.rd.extractLsb' 0 2 = 0 ∧ f.f7 ++ f.rs2 ≠ 0 ∧ (f.rd.extractLsb' 2 3).toNat < 6 then some (.loop (f.f7 ++ f.rs2) f.rs1 (f.rd.extractLsb' 2 3)) else none

/-- S space, funct3 001 (Table 4.3). -/
def decodeSeq (f : Fields) : Option Instr :=
  match f.f7.toNat with
  | 0 => if f.rs2 = 0 ∧ f.rs1 = 0 ∧ f.rd.extractLsb' 0 2 = 0 ∧ (f.rd.extractLsb' 2 3).toNat < 6 then some (.lexit (f.rd.extractLsb' 2 3)) else none
  | 1 => if f.rs2 = 0 ∧ f.rd = 0 then some (.lsave f.rs1) else none
  | 2 => if f.rs2 = 0 ∧ f.rd = 0 then some (.lrest f.rs1) else none
  | 3 => if f.rs1 = 0 ∧ f.rs2.toNat < 24 then some (.lrd f.rs2 f.rd) else none
  | 16 => if f.rs2 = 0 ∧ f.rd = 0 then some (.escOpen f.rs1) else none
  | 17 => if f.rs2 = 0 ∧ f.rs1 = 0 then some (.escCmp f.rd) else none
  | 18 => if f.rs2 = 0 ∧ f.rs1 = 0 ∧ f.rd = 0 then some .escClose else none
  | 19 => if f.rs2 = 0 ∧ f.rs1 = 0 ∧ f.rd = 0 then some .escRet else none
  | 20 => if f.rs2 = 0 ∧ f.rs1 = 0 ∧ f.rd = 0 then some .escAbort else none
  | 21 => if f.rs2 = 0 ∧ f.rs1 = 0 then some (.escStat f.rd) else none
  | _ => none

/-- S space, funct3 010 (Table 4.3). -/
def decodeCfg (f : Fields) : Option Instr :=
  match f.f7.toNat with
  | 0 => if f.rs2 = 0 ∧ f.rd = 0 then some (.vdecl f.rs1) else none
  | 1 => if f.rs2.toNat < 5 then some (.vsetl f.rs2 f.rs1 f.rd) else none
  | 2 => if f.rs2 = 0 then some (.vtag f.rs1 f.rd) else none
  | 3 => if f.rs2 = 0 then some (.vtagrd f.rs1 f.rd) else none
  | 4 => some (.dset f.rs2 f.rs1 f.rd)
  | 5 => if f.rs2 = 0 ∧ f.rs1 = 0 then some (.dflip f.rd) else none
  | 6 => some (.dscale f.rs2 f.rs1 f.rd)
  | 7 => if f.rd = 0 then some (.dshape f.rs2 f.rs1) else none
  | 8 => if f.rd = 0 then some (.kalloc f.rs2 f.rs1) else none
  | 9 => if f.rs2 = 0 ∧ f.rd = 0 then some (.kfree f.rs1) else none
  | 10 => if f.rs2 = 0 ∧ f.rd = 0 then some (.kzero f.rs1) else none
  | 11 => if f.rs2 = 0 ∧ f.rd = 0 then some (.vsrseed f.rs1) else none
  | 12 => if f.rd = 0 then some (.atabld f.rs2 f.rs1) else none
  | _ => none

/-- S space, COPY (Table 4.3): the width suffix in [31:30]. -/
def decodeCopy (f : Fields) : Option Instr :=
  match (f.f7.extractLsb' 0 5).toNat with
  | 0 => some (.cpy (f.f7.extractLsb' 5 2) f.rs2 f.rs1 f.rd)
  | 1 => some (.cpys (f.f7.extractLsb' 5 2) f.rs2 f.rs1 f.rd)
  | 2 => some (.cpyv (f.f7.extractLsb' 5 2) f.rs2 f.rs1 f.rd)
  | 3 => some (.cpyvs (f.f7.extractLsb' 5 2) f.rs2 f.rs1 f.rd)
  | 4 => some (.ctile (f.f7.extractLsb' 5 2) f.rs2 f.rs1 f.rd)
  | 5 => some (.cring (f.f7.extractLsb' 5 2) f.rs2 f.rs1 f.rd)
  | _ => none

/-- S space, TELLER (Table 4.3). -/
def decodeTeller (f : Fields) : Option Instr :=
  match (f.f7.extractLsb' 0 5).toNat with
  | 0 => some (.tadd (f.f7.extractLsb' 5 2) f.rs2 f.rs1 f.rd)
  | 1 => some (.tmin (f.f7.extractLsb' 5 2) f.rs2 f.rs1 f.rd)
  | 2 => some (.tmax (f.f7.extractLsb' 5 2) f.rs2 f.rs1 f.rd)
  | 3 => some (.tand (f.f7.extractLsb' 5 2) f.rs2 f.rs1 f.rd)
  | 4 => some (.tor (f.f7.extractLsb' 5 2) f.rs2 f.rs1 f.rd)
  | 5 => some (.txchg (f.f7.extractLsb' 5 2) f.rs2 f.rs1 f.rd)
  | 6 => some (.tcas (f.f7.extractLsb' 5 2) f.rs2 f.rs1 f.rd)
  | 7 => if f.f7.extractLsb' 5 2 = 0 then some (.tcmd f.rs2 f.rs1 f.rd) else none
  | 8 => if f.f7.extractLsb' 5 2 = 0 ∧ f.rd = 0 then some (.pset f.rs2 f.rs1) else none
  | 9 => if f.f7.extractLsb' 5 2 = 0 ∧ f.rs2 = 0 then some (.pwait f.rs1 f.rd) else none
  | 10 => if f.f7.extractLsb' 5 2 = 0 ∧ f.rs2 = 0 then some (.ptest f.rs1 f.rd) else none
  | 11 => if f.f7.extractLsb' 5 2 = 0 ∧ f.rs2 = 0 then some (.rres f.rs1 f.rd) else none
  | 12 => if f.f7.extractLsb' 5 2 = 0 ∧ f.rd = 0 then some (.rpub f.rs2 f.rs1) else none
  | 13 => if f.f7.extractLsb' 5 2 = 0 ∧ f.rs2 = 0 then some (.racq f.rs1 f.rd) else none
  | 14 => if f.f7.extractLsb' 5 2 = 0 ∧ f.rd = 0 then some (.rrel f.rs2 f.rs1) else none
  | 15 => if f.f7.extractLsb' 5 2 = 0 ∧ f.rs2 = 0 then some (.rocc f.rs1 f.rd) else none
  | 16 => if f.f7.extractLsb' 5 2 = 0 then some (.bar f.rs2 f.rs1 f.rd) else none
  | _ => none

/-- S space, funct3 101 (Table 4.3). -/
def decodeSys (f : Fields) : Option Instr :=
  match f.f7.toNat with
  | 0 => some (.wqpost f.rs2 f.rs1 f.rd)
  | 1 => if f.rs2 = 0 then some (.lvlwait f.rs1 f.rd) else none
  | 2 => if f.rs2 = 0 ∧ f.rd = 0 then some (.lvlcancel f.rs1) else none
  | 3 => if f.rs2 = 0 ∧ f.rs1 = 0 ∧ f.rd = 0 then some .sexit else none
  | 4 => if f.rs2 = 0 ∧ f.rs1 = 0 ∧ f.rd = 0 then some .syield else none
  | 5 => if f.rs2 = 0 ∧ f.rs1 = 0 then some (.snapBegin f.rd) else none
  | 6 => if f.rs2 = 0 then some (.snapStat f.rs1 f.rd) else none
  | 7 => if f.rs2 = 0 ∧ f.rd = 0 then some (.snapRollback f.rs1) else none
  | 8 => if f.rs2 = 0 then some (.mint f.rs1 f.rd) else none
  | 9 => if f.rs2 = 0 ∧ f.rd = 0 then some (.assayReq f.rs1) else none
  | 10 => if f.rs2 = 0 ∧ f.rd = 0 then some (.evt f.rs1) else none
  | 11 => some (.cho f.rs2 f.rs1 f.rd)
  | 12 => if f.rd = 0 then some (.tlbinv f.rs2 f.rs1) else none
  | 13 => if f.rs2 = 0 ∧ f.rd = 0 then some (.vaultSwap f.rs1) else none
  | 127 => if f.rs2 = 0 ∧ f.rs1 = 0 ∧ f.rd = 0 then some .hint else none
  | _ => none

/-- S space, SYNC (Table 4.3). -/
def decodeSync (f : Fields) : Option Instr :=
  match (f.f7.extractLsb' 0 6).toNat with
  | 0 => some (.vxget (f.f7.getLsbD 6) f.rs2 f.rs1 f.rd)
  | 1 => if f.f7.extractLsb' 6 1 = 0 then some (.vxput f.rs2 f.rs1 f.rd) else none
  | 2 => if f.rs2 = 0 ∧ f.rs1.extractLsb' 3 2 = 0 then some (.vmpop (f.f7.getLsbD 6) (f.rs1.extractLsb' 0 3) f.rd) else none
  | 3 => if f.rs2 = 0 ∧ f.rs1.extractLsb' 3 2 = 0 then some (.vmfirst (f.f7.getLsbD 6) (f.rs1.extractLsb' 0 3) f.rd) else none
  | 4 => if f.rs1.extractLsb' 3 2 = 0 then some (.vmrd (f.f7.getLsbD 6) f.rs2 (f.rs1.extractLsb' 0 3) f.rd) else none
  | _ => none

/-- S space, funct3 111 (Table 4.3). -/
def decodeFence (f : Fields) : Option Instr :=
  match f.f7.toNat with
  | 0 => if f.rs1 = 0 ∧ f.rd = 0 ∧ f.rs2.toNat < 4 then some (.qfence f.rs2) else none
  | 1 => if f.rs1 = 0 ∧ f.rd = 0 ∧ f.rs2.toNat < 4 then some (.efence f.rs2) else none
  | 2 => if f.rs2 = 0 ∧ f.rs1 = 0 ∧ f.rd = 0 then some .kfence else none
  | _ => none

/-- M space (R90, Table 4.4): funct4 and mode select. -/
def decodeMem (f : Fields) : Option Instr :=
  match (f.f7.extractLsb' 3 4).toNat, (f.f7.extractLsb' 0 2).toNat with
  | 0, 0 => if f.rs2 = 0 then some (.vldUnit (f.f7.getLsbD 2) f.rs1 f.f3 f.rd) else none
  | 0, 1 => some (.vldStrided (f.f7.getLsbD 2) f.rs2 f.rs1 f.f3 f.rd)
  | 0, 2 => some (.vldIndexed (f.f7.getLsbD 2) f.rs2 f.rs1 f.f3 f.rd)
  | 1, 0 => if f.rs2 = 0 then some (.vstUnit (f.f7.getLsbD 2) f.rs1 f.f3 f.rd) else none
  | 1, 1 => some (.vstStrided (f.f7.getLsbD 2) f.rs2 f.rs1 f.f3 f.rd)
  | 1, 2 => some (.vstIndexed (f.f7.getLsbD 2) f.rs2 f.rs1 f.f3 f.rd)
  | 2, 0 => if f.rs2 = 0 then some (.vldffUnit (f.f7.getLsbD 2) f.rs1 f.f3 f.rd) else none
  | 2, 1 => some (.vldffStrided (f.f7.getLsbD 2) f.rs2 f.rs1 f.f3 f.rd)
  | 2, 2 => some (.vldffIndexed (f.f7.getLsbD 2) f.rs2 f.rs1 f.f3 f.rd)
  | 3, 0 => some (.vlwin (f.f7.getLsbD 2) f.rs2 f.rs1 f.f3 f.rd)
  | 4, 0 => if f.rs2 = 0 then some (.vstc (f.f7.getLsbD 2) f.rs1 f.f3 f.rd) else none
  | 5, 0 => if f.f7.extractLsb' 2 1 = 0 ∧ f.rs2 = 0 ∧ f.f3 = 0 ∧ f.rd.extractLsb' 2 3 = 0 then some (.vqldUnit f.rs1 (f.rd.extractLsb' 0 2)) else none
  | 5, 1 => if f.f7.extractLsb' 2 1 = 0 ∧ f.f3 = 0 ∧ f.rd.extractLsb' 2 3 = 0 then some (.vqldStrided f.rs2 f.rs1 (f.rd.extractLsb' 0 2)) else none
  | 6, 0 => if f.f7.extractLsb' 2 1 = 0 ∧ f.rs2 = 0 ∧ f.f3 = 0 ∧ f.rd.extractLsb' 2 3 = 0 then some (.vqstUnit f.rs1 (f.rd.extractLsb' 0 2)) else none
  | 6, 1 => if f.f7.extractLsb' 2 1 = 0 ∧ f.f3 = 0 ∧ f.rd.extractLsb' 2 3 = 0 then some (.vqstStrided f.rs2 f.rs1 (f.rd.extractLsb' 0 2)) else none
  | 7, 0 => if f.f7.extractLsb' 2 1 = 0 ∧ f.rs2 = 0 ∧ f.f3 = 0 ∧ f.rd.extractLsb' 3 2 = 0 then some (.vmld f.rs1 (f.rd.extractLsb' 0 3)) else none
  | 7, 1 => if f.rs2 = 0 ∧ f.f3 = 0 ∧ f.rd.extractLsb' 3 2 = 0 then some (.vmst (f.f7.getLsbD 2) f.rs1 (f.rd.extractLsb' 0 3)) else none
  | 8, 0 => if f.f7.extractLsb' 2 1 = 0 ∧ f.rs2 = 0 ∧ f.f3 = 0 then some (.vldr f.rs1 f.rd) else none
  | 9, 0 => if f.rs2 = 0 ∧ f.f3 = 0 then some (.vstr (f.f7.getLsbD 2) f.rs1 f.rd) else none
  | 10, 2 => some (.vtadd (f.f7.getLsbD 2) f.rs2 f.rs1 f.f3 f.rd)
  | 11, 2 => some (.vtmin (f.f7.getLsbD 2) f.rs2 f.rs1 f.f3 f.rd)
  | 12, 2 => some (.vtmax (f.f7.getLsbD 2) f.rs2 f.rs1 f.f3 f.rd)
  | 13, 0 => if f.f7.extractLsb' 2 1 = 0 ∧ f.f3 = 0 ∧ f.rd = 0 then some (.vkld f.rs2 f.rs1) else none
  | 13, 1 => if f.f7.extractLsb' 2 1 = 0 ∧ f.f3 = 0 ∧ f.rd = 0 then some (.vkst f.rs2 f.rs1) else none
  | _, _ => none

/-- V space, kinds vv, vx, vi (R91, Table 4.5). -/
def decodeVec (f : Fields) : Option Instr :=
  match (f.f7.extractLsb' 3 4).toNat, (f.f7.extractLsb' 0 2).toNat with
  | 0, 0 => some (.vaddVv (f.f7.getLsbD 2) f.rs2 f.rs1 f.f3 f.rd)
  | 0, 1 => some (.vaddVx (f.f7.getLsbD 2) f.rs2 f.rs1 f.f3 f.rd)
  | 0, 2 => some (.vaddVi (f.f7.getLsbD 2) f.rs2 f.rs1 f.f3 f.rd)
  | 1, 0 => some (.vsubVv (f.f7.getLsbD 2) f.rs2 f.rs1 f.f3 f.rd)
  | 1, 1 => some (.vsubVx (f.f7.getLsbD 2) f.rs2 f.rs1 f.f3 f.rd)
  | 1, 2 => some (.vsubVi (f.f7.getLsbD 2) f.rs2 f.rs1 f.f3 f.rd)
  | 2, 0 => some (.vmulVv (f.f7.getLsbD 2) f.rs2 f.rs1 f.f3 f.rd)
  | 2, 1 => some (.vmulVx (f.f7.getLsbD 2) f.rs2 f.rs1 f.f3 f.rd)
  | 2, 2 => some (.vmulVi (f.f7.getLsbD 2) f.rs2 f.rs1 f.f3 f.rd)
  | 3, 0 => some (.vmacVv (f.f7.getLsbD 2) f.rs2 f.rs1 f.f3 f.rd)
  | 3, 1 => some (.vmacVx (f.f7.getLsbD 2) f.rs2 f.rs1 f.f3 f.rd)
  | 3, 2 => some (.vmacVi (f.f7.getLsbD 2) f.rs2 f.rs1 f.f3 f.rd)
  | 4, 0 => some (.vminVv (f.f7.getLsbD 2) f.rs2 f.rs1 f.f3 f.rd)
  | 4, 1 => some (.vminVx (f.f7.getLsbD 2) f.rs2 f.rs1 f.f3 f.rd)
  | 4, 2 => some (.vminVi (f.f7.getLsbD 2) f.rs2 f.rs1 f.f3 f.rd)
  | 5, 0 => some (.vmaxVv (f.f7.getLsbD 2) f.rs2 f.rs1 f.f3 f.rd)
  | 5, 1 => some (.vmaxVx (f.f7.getLsbD 2) f.rs2 f.rs1 f.f3 f.rd)
  | 5, 2 => some (.vmaxVi (f.f7.getLsbD 2) f.rs2 f.rs1 f.f3 f.rd)
  | 6, 0 => some (.vandVv (f.f7.getLsbD 2) f.rs2 f.rs1 f.f3 f.rd)
  | 6, 1 => some (.vandVx (f.f7.getLsbD 2) f.rs2 f.rs1 f.f3 f.rd)
  | 6, 2 => some (.vandVi (f.f7.getLsbD 2) f.rs2 f.rs1 f.f3 f.rd)
  | 7, 0 => some (.vorVv (f.f7.getLsbD 2) f.rs2 f.rs1 f.f3 f.rd)
  | 7, 1 => some (.vorVx (f.f7.getLsbD 2) f.rs2 f.rs1 f.f3 f.rd)
  | 7, 2 => some (.vorVi (f.f7.getLsbD 2) f.rs2 f.rs1 f.f3 f.rd)
  | 8, 0 => some (.vxorVv (f.f7.getLsbD 2) f.rs2 f.rs1 f.f3 f.rd)
  | 8, 1 => some (.vxorVx (f.f7.getLsbD 2) f.rs2 f.rs1 f.f3 f.rd)
  | 8, 2 => some (.vxorVi (f.f7.getLsbD 2) f.rs2 f.rs1 f.f3 f.rd)
  | 9, 0 => some (.vshlVv (f.f7.getLsbD 2) f.rs2 f.rs1 f.f3 f.rd)
  | 9, 1 => some (.vshlVx (f.f7.getLsbD 2) f.rs2 f.rs1 f.f3 f.rd)
  | 9, 2 => some (.vshlVi (f.f7.getLsbD 2) f.rs2 f.rs1 f.f3 f.rd)
  | 10, 0 => some (.vshrVv (f.f7.getLsbD 2) f.rs2 f.rs1 f.f3 f.rd)
  | 10, 1 => some (.vshrVx (f.f7.getLsbD 2) f.rs2 f.rs1 f.f3 f.rd)
  | 10, 2 => some (.vshrVi (f.f7.getLsbD 2) f.rs2 f.rs1 f.f3 f.rd)
  | 11, 0 => some (.vdivVv (f.f7.getLsbD 2) f.rs2 f.rs1 f.f3 f.rd)
  | 11, 1 => some (.vdivVx (f.f7.getLsbD 2) f.rs2 f.rs1 f.f3 f.rd)
  | 11, 2 => some (.vdivVi (f.f7.getLsbD 2) f.rs2 f.rs1 f.f3 f.rd)
  | 12, 0 => if f.rd.extractLsb' 2 3 ≠ 0 then some (.vcmpVv (f.f7.getLsbD 2) f.rs2 f.rs1 f.f3 (f.rd.extractLsb' 2 3) (f.rd.extractLsb' 0 2)) else none
  | 12, 1 => if f.rd.extractLsb' 2 3 ≠ 0 then some (.vcmpVx (f.f7.getLsbD 2) f.rs2 f.rs1 f.f3 (f.rd.extractLsb' 2 3) (f.rd.extractLsb' 0 2)) else none
  | 12, 2 => if f.rd.extractLsb' 2 3 ≠ 0 then some (.vcmpVi (f.f7.getLsbD 2) f.rs2 f.rs1 f.f3 (f.rd.extractLsb' 2 3) (f.rd.extractLsb' 0 2)) else none
  | 13, 0 => some (.vmergeVv (f.f7.getLsbD 2) f.rs2 f.rs1 f.f3 f.rd)
  | 13, 1 => some (.vmergeVx (f.f7.getLsbD 2) f.rs2 f.rs1 f.f3 f.rd)
  | 13, 2 => some (.vmergeVi (f.f7.getLsbD 2) f.rs2 f.rs1 f.f3 f.rd)
  | 14, 0 => some (.vpermGather (f.f7.getLsbD 2) f.rs2 f.rs1 f.f3 f.rd)
  | 14, 1 => some (.vpermSlideVx (f.f7.getLsbD 2) f.rs2 f.rs1 f.f3 f.rd)
  | 14, 2 => some (.vpermSlideVi (f.f7.getLsbD 2) f.rs2 f.rs1 f.f3 f.rd)
  | 15, 1 => some (.vslideupVx (f.f7.getLsbD 2) f.rs2 f.rs1 f.f3 f.rd)
  | 15, 2 => if f.rs2.toNat < 16 then some (.vslideupVi (f.f7.getLsbD 2) f.rs2 f.rs1 f.f3 f.rd) else none
  | _, _ => none

/-- V space, kind ext, group 0 (Table 4.5): sub-op in [24:20]. -/
def decodeExtUnary (f : Fields) : Option Instr :=
  match f.rs2.toNat with
  | 0 => some (.vmov (f.f7.getLsbD 2) f.rs1 f.f3 f.rd)
  | 1 => some (.vneg (f.f7.getLsbD 2) f.rs1 f.f3 f.rd)
  | 2 => some (.vabs (f.f7.getLsbD 2) f.rs1 f.f3 f.rd)
  | 3 => some (.vnot (f.f7.getLsbD 2) f.rs1 f.f3 f.rd)
  | 4 => some (.vsqrt (f.f7.getLsbD 2) f.rs1 f.f3 f.rd)
  | 5 => some (.vrsqrt (f.f7.getLsbD 2) f.rs1 f.f3 f.rd)
  | 6 => some (.vrcp (f.f7.getLsbD 2) f.rs1 f.f3 f.rd)
  | 7 => some (.vexp2 (f.f7.getLsbD 2) f.rs1 f.f3 f.rd)
  | 8 => some (.vlog2 (f.f7.getLsbD 2) f.rs1 f.f3 f.rd)
  | 9 => some (.vsin (f.f7.getLsbD 2) f.rs1 f.f3 f.rd)
  | 10 => some (.vcos (f.f7.getLsbD 2) f.rs1 f.f3 f.rd)
  | 11 => some (.vtanh (f.f7.getLsbD 2) f.rs1 f.f3 f.rd)
  | 12 => some (.vsigm (f.f7.getLsbD 2) f.rs1 f.f3 f.rd)
  | 13 => some (.vfloor (f.f7.getLsbD 2) f.rs1 f.f3 f.rd)
  | 14 => some (.vceil (f.f7.getLsbD 2) f.rs1 f.f3 f.rd)
  | 15 => some (.vrnd (f.f7.getLsbD 2) f.rs1 f.f3 f.rd)
  | 16 => some (.vclz (f.f7.getLsbD 2) f.rs1 f.f3 f.rd)
  | 17 => some (.vpopc (f.f7.getLsbD 2) f.rs1 f.f3 f.rd)
  | 18 => if f.rs1 = 0 then some (.vid (f.f7.getLsbD 2) f.f3 f.rd) else none
  | 19 => some (.vbcast (f.f7.getLsbD 2) f.rs1 f.f3 f.rd)
  | 20 => some (.vclass (f.f7.getLsbD 2) f.rs1 f.f3 f.rd)
  | _ => none

/-- V space, kind ext, group 1 (Table 4.5): sub-op in [24:20]. -/
def decodeExtConvert (f : Fields) : Option Instr :=
  match f.rs2.toNat with
  | 0 => some (.vcvt (f.f7.getLsbD 2) f.rs1 f.f3 f.rd)
  | 1 => some (.vcvtRz (f.f7.getLsbD 2) f.rs1 f.f3 f.rd)
  | 2 => some (.vcvtSr (f.f7.getLsbD 2) f.rs1 f.f3 f.rd)
  | 3 => some (.vcvtSat (f.f7.getLsbD 2) f.rs1 f.f3 f.rd)
  | 4 => some (.vquant (f.f7.getLsbD 2) f.rs1 f.f3 f.rd)
  | _ => none

/-- V space, kind ext, group 2 (Table 4.5): sub-op in [24:20]. -/
def decodeExtReduce (f : Fields) : Option Instr :=
  match f.rs2.toNat with
  | 0 => some (.vredsum (f.f7.getLsbD 2) f.rs1 f.f3 f.rd)
  | 1 => some (.vredsumt (f.f7.getLsbD 2) f.rs1 f.f3 f.rd)
  | 2 => some (.vredmax (f.f7.getLsbD 2) f.rs1 f.f3 f.rd)
  | 3 => some (.vredmin (f.f7.getLsbD 2) f.rs1 f.f3 f.rd)
  | 4 => some (.vredand (f.f7.getLsbD 2) f.rs1 f.f3 f.rd)
  | 5 => some (.vredor (f.f7.getLsbD 2) f.rs1 f.f3 f.rd)
  | 6 => some (.vredxor (f.f7.getLsbD 2) f.rs1 f.f3 f.rd)
  | _ => none

/-- V space, kind ext, group 3 (Table 4.5): sub-op in [24:20]. -/
def decodeExtPermute (f : Fields) : Option Instr :=
  match f.rs2.toNat with
  | 0 => some (.vcompress (f.f7.getLsbD 2) f.rs1 f.f3 f.rd)
  | 1 => some (.vexpand (f.f7.getLsbD 2) f.rs1 f.f3 f.rd)
  | 2 => if f.rs1 = 0 then some (.vmidx (f.f7.getLsbD 2) f.f3 f.rd) else none
  | 3 => some (.vrev (f.f7.getLsbD 2) f.rs1 f.f3 f.rd)
  | 4 => some (.vtr8 (f.f7.getLsbD 2) f.rs1 f.f3 f.rd)
  | _ => none

/-- V space, kind ext, group 4 (Table 4.5): sub-op in [24:20]. -/
def decodeExtMask (f : Fields) : Option Instr :=
  match f.rs2.toNat with
  | 0 => if f.rs1.extractLsb' 3 2 = 0 ∧ f.rd.extractLsb' 3 2 = 0 then some (.mand (f.f7.getLsbD 2) (f.rs1.extractLsb' 0 3) f.f3 (f.rd.extractLsb' 0 3)) else none
  | 1 => if f.rs1.extractLsb' 3 2 = 0 ∧ f.rd.extractLsb' 3 2 = 0 then some (.mor (f.f7.getLsbD 2) (f.rs1.extractLsb' 0 3) f.f3 (f.rd.extractLsb' 0 3)) else none
  | 2 => if f.rs1.extractLsb' 3 2 = 0 ∧ f.rd.extractLsb' 3 2 = 0 then some (.mxor (f.f7.getLsbD 2) (f.rs1.extractLsb' 0 3) f.f3 (f.rd.extractLsb' 0 3)) else none
  | 3 => if f.rs1.extractLsb' 3 2 = 0 ∧ f.rd.extractLsb' 3 2 = 0 then some (.mandn (f.f7.getLsbD 2) (f.rs1.extractLsb' 0 3) f.f3 (f.rd.extractLsb' 0 3)) else none
  | 4 => if f.rs1.extractLsb' 3 2 = 0 ∧ f.f3 = 0 ∧ f.rd.extractLsb' 3 2 = 0 then some (.mnot (f.f7.getLsbD 2) (f.rs1.extractLsb' 0 3) (f.rd.extractLsb' 0 3)) else none
  | 5 => if f.rs1.extractLsb' 3 2 = 0 ∧ f.f3 = 0 ∧ f.rd.extractLsb' 3 2 = 0 then some (.mbf (f.f7.getLsbD 2) (f.rs1.extractLsb' 0 3) (f.rd.extractLsb' 0 3)) else none
  | 6 => if f.rs1.extractLsb' 3 2 = 0 ∧ f.f3 = 0 ∧ f.rd.extractLsb' 3 2 = 0 then some (.mif (f.f7.getLsbD 2) (f.rs1.extractLsb' 0 3) (f.rd.extractLsb' 0 3)) else none
  | 7 => if f.rs1.extractLsb' 3 2 = 0 ∧ f.f3 = 0 ∧ f.rd.extractLsb' 3 2 = 0 then some (.msof (f.f7.getLsbD 2) (f.rs1.extractLsb' 0 3) (f.rd.extractLsb' 0 3)) else none
  | 8 => if f.f7.extractLsb' 2 1 = 0 ∧ f.rs1 = 0 ∧ f.f3 = 0 ∧ f.rd.extractLsb' 3 2 = 0 then some (.mset (f.rd.extractLsb' 0 3)) else none
  | 9 => if f.f7.extractLsb' 2 1 = 0 ∧ f.rs1 = 0 ∧ f.f3 = 0 ∧ f.rd.extractLsb' 3 2 = 0 then some (.mclr (f.rd.extractLsb' 0 3)) else none
  | _ => none

/-- V space, kind ext, group 5 (Table 4.5): sub-op in [24:20]. -/
def decodeExtMomentum (f : Fields) : Option Instr :=
  match f.rs2.toNat with
  | 0 => some (.vmomu (f.f7.getLsbD 2) f.rs1 f.f3 f.rd)
  | _ => none

/-- C space (R92, Table 4.6): subop in [11:7]. -/
def decodeCable (f : Fields) : Option Instr :=
  match f.rd.toNat with
  | 0 => some (.dmac (f.f7.getLsbD 6) (f.f7.getLsbD 5) (f.f7.extractLsb' 0 5) f.rs2 (f.rs1 ++ f.f3))
  | 1 => some (.dmsc (f.f7.getLsbD 6) (f.f7.getLsbD 5) (f.f7.extractLsb' 0 5) f.rs2 (f.rs1 ++ f.f3))
  | 2 => some (.dmm (f.f7.getLsbD 6) (f.f7.getLsbD 5) (f.f7.extractLsb' 0 5) f.rs2 (f.rs1 ++ f.f3))
  | 3 => some (.dop (f.f7.getLsbD 6) (f.f7.getLsbD 5) (f.f7.extractLsb' 0 5) f.rs2 (f.rs1 ++ f.f3))
  | 4 => if f.f7.getLsbD 0 = false ∧ f.f7.getLsbD 1 = false ∧ f.f7.getLsbD 2 = false ∧ f.f7.getLsbD 3 = false ∧ f.f7.getLsbD 4 = false ∧ f.f7.getLsbD 6 = false then some (.kin (f.f7.getLsbD 5) f.rs2 (f.rs1 ++ f.f3)) else none
  | 5 => if f.f7.extractLsb' 3 4 = 0 then some (.kadd (f.f7.extractLsb' 0 3 ++ f.rs2) (f.rs1 ++ f.f3)) else none
  | 8 => if f.f7.extractLsb' 6 1 = 0 then some (.dout (f.f7.getLsbD 5) (f.f7.extractLsb' 0 5) f.rs2 (f.rs1 ++ f.f3)) else none
  | 9 => if f.f7.extractLsb' 6 1 = 0 then some (.doutQ (f.f7.getLsbD 5) (f.f7.extractLsb' 0 5) f.rs2 (f.rs1 ++ f.f3)) else none
  | 10 => if f.f7.extractLsb' 6 1 = 0 then some (.doutA (f.f7.getLsbD 5) (f.f7.extractLsb' 0 5) f.rs2 (f.rs1 ++ f.f3)) else none
  | 11 => if f.f7.extractLsb' 6 1 = 0 then some (.doutAq (f.f7.getLsbD 5) (f.f7.extractLsb' 0 5) f.rs2 (f.rs1 ++ f.f3)) else none
  | 12 => if f.f7.extractLsb' 6 1 = 0 then some (.doutB (f.f7.getLsbD 5) (f.f7.extractLsb' 0 5) f.rs2 (f.rs1 ++ f.f3)) else none
  | 13 => if f.f7.extractLsb' 6 1 = 0 then some (.doutBq (f.f7.getLsbD 5) (f.f7.extractLsb' 0 5) f.rs2 (f.rs1 ++ f.f3)) else none
  | 14 => if f.f7.extractLsb' 6 1 = 0 then some (.doutBa (f.f7.getLsbD 5) (f.f7.extractLsb' 0 5) f.rs2 (f.rs1 ++ f.f3)) else none
  | 15 => if f.f7.extractLsb' 6 1 = 0 then some (.doutBaq (f.f7.getLsbD 5) (f.f7.extractLsb' 0 5) f.rs2 (f.rs1 ++ f.f3)) else none
  | _ => none

/-- S space (R89): funct3 selects the group. -/
def decodeS (f : Fields) : Option Instr :=
  match f.f3.toNat with
  | 0 => decodeLoop f
  | 1 => decodeSeq f
  | 2 => decodeCfg f
  | 3 => decodeCopy f
  | 4 => decodeTeller f
  | 5 => decodeSys f
  | 6 => decodeSync f
  | 7 => decodeFence f
  | _ => none

/-- V space (R91): kind 11 is the ext form, whose group is funct4. -/
def decodeV (f : Fields) : Option Instr :=
  if f.f7.extractLsb' 0 2 = 3 then
    match (f.f7.extractLsb' 3 4).toNat with
    | 0 => decodeExtUnary f
    | 1 => decodeExtConvert f
    | 2 => decodeExtReduce f
    | 3 => decodeExtPermute f
    | 4 => decodeExtMask f
    | 5 => decodeExtMomentum f
    | _ => none
  else decodeVec f

/-- The base major opcodes that the device implements (R82). -/
def decodeBase (f : Fields) : Option Instr :=
  match f.op.toNat with
  | 0x37 => some (.baseAlu (.lui f.rd (f.f7 ++ f.rs2 ++ f.rs1 ++ f.f3)))
  | 0x17 => some (.baseAlu (.auipc f.rd (f.f7 ++ f.rs2 ++ f.rs1 ++ f.f3)))
  | 0x13 => decodeOpImm f
  | 0x1B => decodeOpImm32 f
  | 0x33 => (regOpOf f.f7.toNat f.f3.toNat).map fun o => .baseAlu (.op o f.rd f.rs1 f.rs2)
  | 0x3B => (regWOpOf f.f7.toNat f.f3.toNat).map fun o => .baseAlu (.opW o f.rd f.rs1 f.rs2)
  | 0x6F => some (.baseBranchJump (.jal f.rd (f.f7.extractLsb' 6 1 ++ f.rs1 ++ f.f3 ++ f.rs2.extractLsb' 0 1 ++
      f.f7.extractLsb' 0 6 ++ f.rs2.extractLsb' 1 4)))
  | 0x67 => if f.f3 = 0 then some (.baseBranchJump (.jalr f.rd f.rs1 (f.f7 ++ f.rs2))) else none
  | 0x63 => (condOf f.f3.toNat).map fun c => .baseBranchJump (.branch c f.rs1 f.rs2
      (f.f7.extractLsb' 6 1 ++ f.rd.extractLsb' 0 1 ++ f.f7.extractLsb' 0 6 ++ f.rd.extractLsb' 1 4))
  | 0x03 => (loadOpOf f.f3.toNat).map fun o => .baseLoad o f.rd f.rs1 (f.f7 ++ f.rs2)
  | 0x23 => (storeOpOf f.f3.toNat).map fun o => .baseStore o f.rs2 f.rs1 (f.f7 ++ f.rd)
  | 0x2F => decodeAmo f
  | 0x0F => decodeMiscMem f
  | 0x73 => decodeSystem f
  | _ => none

/-- The instruction of a set of fields: custom-0 to custom-3 and the base. -/
def decodeFields (f : Fields) : Option Instr :=
  match f.op.toNat with
  | 0x0B => decodeS f
  | 0x2B => decodeMem f
  | 0x5B => decodeV f
  | 0x7B => decodeCable f
  | _ => decodeBase f

/-- Decode one instruction word (R81, R98); none is an ILLEGAL word. -/
def decode (w : BitVec 32) : Option Instr := decodeFields (fieldsOfWord w)

/-- A word from its four bytes, lowest address first (R81: stored little-endian). -/
def wordOfBytes (b0 b1 b2 b3 : Byte) : BitVec 32 := b3 ++ b2 ++ b1 ++ b0

/-- Decode the first instruction of a byte stream; answers it and the bytes after it. -/
def decodeBytes : List Byte → Option (Instr × List Byte)
  | b0 :: b1 :: b2 :: b3 :: rest => (decode (wordOfBytes b0 b1 b2 b3)).map fun i => (i, rest)
  | _ => none

/-- Byte k of a number, as the table numbers its bits. -/
def tableByte (w k : Nat) : Byte := BitVec.ofNat 8 (w / 256 ^ k)

/-- The first instruction of a word numbered as spec/opcode_table.json numbers it; every bit from nbits up is 0. -/
def decodeTableWord (nbits w : Nat) : Option Instr :=
  let v := w % 2 ^ nbits
  (decodeBytes [tableByte v 0, tableByte v 1, tableByte v 2, tableByte v 3]).map Prod.fst

/-! ## The encoder -/

/-- funct7 and funct3 of an OP word. -/
def regOpEnc : RegOp → BitVec 7 × BitVec 3
  | .add => (0, 0) | .sll => (0, 1) | .slt => (0, 2) | .sltu => (0, 3) | .xor => (0, 4)
  | .srl => (0, 5) | .or => (0, 6) | .and => (0, 7) | .sub => (0x20, 0) | .sra => (0x20, 5)
  | .mul => (1, 0) | .mulh => (1, 1) | .mulhsu => (1, 2) | .mulhu => (1, 3)
  | .div => (1, 4) | .divu => (1, 5) | .rem => (1, 6) | .remu => (1, 7)

/-- funct7 and funct3 of an OP-32 word. -/
def regWOpEnc : RegWOp → BitVec 7 × BitVec 3
  | .addw => (0, 0) | .sllw => (0, 1) | .srlw => (0, 5) | .subw => (0x20, 0) | .sraw => (0x20, 5)
  | .mulw => (1, 0) | .divw => (1, 4) | .divuw => (1, 5) | .remw => (1, 6) | .remuw => (1, 7)

def immOpEnc : ImmOp → BitVec 3
  | .addi => 0 | .slti => 2 | .sltiu => 3 | .xori => 4 | .ori => 6 | .andi => 7

/-- The six upper funct bits and funct3 of a shift-immediate word. -/
def shOpEnc : ShOp → BitVec 6 × BitVec 3
  | .sll => (0, 1) | .srl => (0, 5) | .sra => (0b010000, 5)

def loadOpEnc : LoadOp → BitVec 3
  | .lb => 0 | .lh => 1 | .lw => 2 | .ld => 3 | .lbu => 4 | .lhu => 5 | .lwu => 6

def storeOpEnc : StoreOp → BitVec 3
  | .sb => 0 | .sh => 1 | .sw => 2 | .sd => 3

def condEnc : Cond → BitVec 3
  | .eq => 0 | .ne => 1 | .lt => 4 | .ge => 5 | .ltu => 6 | .geu => 7

def amoOpEnc : AmoOp → BitVec 5
  | .add => 0 | .swap => 1 | .xor => 4 | .or => 8 | .and => 12 | .min => 16 | .max => 20
  | .minu => 24 | .maxu => 28

def csrOpEnc : CsrOp → BitVec 3
  | .rw => 1 | .rs => 2 | .rc => 3 | .rwi => 5 | .rsi => 6 | .rci => 7

/-- Fields of a BASE_ALU form. -/
def encAlu : AluForm → Fields
  | .lui rd imm => ⟨imm.extractLsb' 13 7, imm.extractLsb' 8 5, imm.extractLsb' 3 5, imm.extractLsb' 0 3, rd, 0x37⟩
  | .auipc rd imm => ⟨imm.extractLsb' 13 7, imm.extractLsb' 8 5, imm.extractLsb' 3 5, imm.extractLsb' 0 3, rd, 0x17⟩
  | .opImm op rd rs1 imm => ⟨imm.extractLsb' 5 7, imm.extractLsb' 0 5, rs1, immOpEnc op, rd, 0x13⟩
  | .shImm op rd rs1 sh => ⟨(shOpEnc op).1 ++ sh.extractLsb' 5 1, sh.extractLsb' 0 5, rs1, (shOpEnc op).2, rd, 0x13⟩
  | .addiw rd rs1 imm => ⟨imm.extractLsb' 5 7, imm.extractLsb' 0 5, rs1, 0, rd, 0x1B⟩
  | .shImmW op rd rs1 sh => ⟨(shOpEnc op).1 ++ 0#1, sh, rs1, (shOpEnc op).2, rd, 0x1B⟩
  | .op op rd rs1 rs2 => ⟨(regOpEnc op).1, rs2, rs1, (regOpEnc op).2, rd, 0x33⟩
  | .opW op rd rs1 rs2 => ⟨(regWOpEnc op).1, rs2, rs1, (regWOpEnc op).2, rd, 0x3B⟩

/-- Fields of a BASE_BRANCH_JUMP form. -/
def encJump : JumpForm → Fields
  | .jal rd imm => ⟨imm.extractLsb' 19 1 ++ imm.extractLsb' 4 6, imm.extractLsb' 0 4 ++ imm.extractLsb' 10 1,
      imm.extractLsb' 14 5, imm.extractLsb' 11 3, rd, 0x6F⟩
  | .jalr rd rs1 imm => ⟨imm.extractLsb' 5 7, imm.extractLsb' 0 5, rs1, 0, rd, 0x67⟩
  | .branch c rs1 rs2 imm => ⟨imm.extractLsb' 11 1 ++ imm.extractLsb' 4 6, rs2, rs1, condEnc c,
      imm.extractLsb' 0 4 ++ imm.extractLsb' 10 1, 0x63⟩

/-- Fields of a Zicsr word. -/
def encCsr (op : CsrOp) (csr : BitVec 12) (src rd : XReg) : Fields :=
  ⟨csr.extractLsb' 5 7, csr.extractLsb' 0 5, src, csrOpEnc op, rd, 0x73⟩

/-- funct3 of a word or doubleword AMO. -/
def amoWidthEnc (dbl : Bool) : BitVec 3 := if dbl then 3 else 2

/-- The fields of an instruction, none for a step of another agent, which has no word. -/
def encFields : Instr → Option Fields
  | .baseAlu f => some (encAlu f)
  | .baseBranchJump f => some (encJump f)
  | .baseLoad op rd rs1 imm => some ⟨imm.extractLsb' 5 7, imm.extractLsb' 0 5, rs1, loadOpEnc op, rd, 0x03⟩
  | .baseStore op rs2 rs1 imm => some ⟨imm.extractLsb' 5 7, rs2, rs1, storeOpEnc op, imm.extractLsb' 0 5, 0x23⟩
  | .baseAmo op dbl aq rl rd rs1 rs2 =>
      some ⟨amoOpEnc op ++ (BitVec.ofBool aq) ++ (BitVec.ofBool rl), rs2, rs1, amoWidthEnc dbl, rd, 0x2F⟩
  | .baseLr dbl aq rl rd rs1 =>
      some ⟨2#5 ++ (BitVec.ofBool aq) ++ (BitVec.ofBool rl), 0, rs1, amoWidthEnc dbl, rd, 0x2F⟩
  | .baseSc dbl aq rl rd rs1 rs2 =>
      some ⟨3#5 ++ (BitVec.ofBool aq) ++ (BitVec.ofBool rl), rs2, rs1, amoWidthEnc dbl, rd, 0x2F⟩
  | .fence fm pred succ rs1 rd => some ⟨fm ++ pred.extractLsb' 1 3, pred.extractLsb' 0 1 ++ succ, rs1, 0, rd, 0x0F⟩
  | .fenceI imm rs1 rd => some ⟨imm.extractLsb' 5 7, imm.extractLsb' 0 5, rs1, 1, rd, 0x0F⟩
  | .ecall => some ⟨0, 0, 0, 0, 0, 0x73⟩
  | .ebreak => some ⟨0, 1, 0, 0, 0, 0x73⟩
  | .wfi => some ⟨0x08, 5, 0, 0, 0, 0x73⟩
  | .sret => some ⟨0x08, 2, 0, 0, 0, 0x73⟩
  | .mret => some ⟨0x18, 2, 0, 0, 0, 0x73⟩
  | .csrWrite op csr src rd => some (encCsr op csr src rd)
  | .vlWrite op src rd => some (encCsr op csrVl src rd)
  | .vxflagsWrite op src rd => some (encCsr op csrVxflags src rd)
  | .ptrootWrite op src rd => some (encCsr op csrPtroot src rd)
  | .partitionSetup op src rd => some (encCsr op csrPcfg src rd)
  | .profileEnableWrite op src rd => some (encCsr op csrPcfg src rd)
  | .assayNoticeClear op mach src rd => some (encCsr op (if mach then csrMip else csrSip) src rd)
  | .loop i rs1 l => some ⟨i.extractLsb' 5 7, i.extractLsb' 0 5, rs1, 0#3, l ++ 0#2, 11#7⟩
  | .lexit l => some ⟨0#7, 0#5, 0#5, 1#3, l ++ 0#2, 11#7⟩
  | .lsave rs1 => some ⟨1#7, 0#5, rs1, 1#3, 0#5, 11#7⟩
  | .lrest rs1 => some ⟨2#7, 0#5, rs1, 1#3, 0#5, 11#7⟩
  | .lrd sel rd => some ⟨3#7, sel, 0#5, 1#3, rd, 11#7⟩
  | .escOpen rs1 => some ⟨16#7, 0#5, rs1, 1#3, 0#5, 11#7⟩
  | .escCmp rd => some ⟨17#7, 0#5, 0#5, 1#3, rd, 11#7⟩
  | .escClose => some ⟨18#7, 0#5, 0#5, 1#3, 0#5, 11#7⟩
  | .escRet => some ⟨19#7, 0#5, 0#5, 1#3, 0#5, 11#7⟩
  | .escAbort => some ⟨20#7, 0#5, 0#5, 1#3, 0#5, 11#7⟩
  | .escStat rd => some ⟨21#7, 0#5, 0#5, 1#3, rd, 11#7⟩
  | .vdecl rs1 => some ⟨0#7, 0#5, rs1, 2#3, 0#5, 11#7⟩
  | .vsetl w rs1 rd => some ⟨1#7, w, rs1, 2#3, rd, 11#7⟩
  | .vtag rs1 vd => some ⟨2#7, 0#5, rs1, 2#3, vd, 11#7⟩
  | .vtagrd vs rd => some ⟨3#7, 0#5, vs, 2#3, rd, 11#7⟩
  | .dset rs2 rs1 vd => some ⟨4#7, rs2, rs1, 2#3, vd, 11#7⟩
  | .dflip vd => some ⟨5#7, 0#5, 0#5, 2#3, vd, 11#7⟩
  | .dscale rs2 rs1 vd => some ⟨6#7, rs2, rs1, 2#3, vd, 11#7⟩
  | .dshape rs2 rs1 => some ⟨7#7, rs2, rs1, 2#3, 0#5, 11#7⟩
  | .kalloc rs2 rs1 => some ⟨8#7, rs2, rs1, 2#3, 0#5, 11#7⟩
  | .kfree rs1 => some ⟨9#7, 0#5, rs1, 2#3, 0#5, 11#7⟩
  | .kzero rs1 => some ⟨10#7, 0#5, rs1, 2#3, 0#5, 11#7⟩
  | .vsrseed rs1 => some ⟨11#7, 0#5, rs1, 2#3, 0#5, 11#7⟩
  | .atabld rs2 rs1 => some ⟨12#7, rs2, rs1, 2#3, 0#5, 11#7⟩
  | .cpy w rs2 rs1 p => some ⟨w ++ 0#5, rs2, rs1, 3#3, p, 11#7⟩
  | .cpys w rs2 rs1 p => some ⟨w ++ 1#5, rs2, rs1, 3#3, p, 11#7⟩
  | .cpyv w rs2 rs1 vd => some ⟨w ++ 2#5, rs2, rs1, 3#3, vd, 11#7⟩
  | .cpyvs w rs2 rs1 vs => some ⟨w ++ 3#5, rs2, rs1, 3#3, vs, 11#7⟩
  | .ctile w rs2 rs1 p => some ⟨w ++ 4#5, rs2, rs1, 3#3, p, 11#7⟩
  | .cring w rs2 rs1 p => some ⟨w ++ 5#5, rs2, rs1, 3#3, p, 11#7⟩
  | .tadd w rs2 rs1 rd => some ⟨w ++ 0#5, rs2, rs1, 4#3, rd, 11#7⟩
  | .tmin w rs2 rs1 rd => some ⟨w ++ 1#5, rs2, rs1, 4#3, rd, 11#7⟩
  | .tmax w rs2 rs1 rd => some ⟨w ++ 2#5, rs2, rs1, 4#3, rd, 11#7⟩
  | .tand w rs2 rs1 rd => some ⟨w ++ 3#5, rs2, rs1, 4#3, rd, 11#7⟩
  | .tor w rs2 rs1 rd => some ⟨w ++ 4#5, rs2, rs1, 4#3, rd, 11#7⟩
  | .txchg w rs2 rs1 rd => some ⟨w ++ 5#5, rs2, rs1, 4#3, rd, 11#7⟩
  | .tcas w rs2 rs1 rd => some ⟨w ++ 6#5, rs2, rs1, 4#3, rd, 11#7⟩
  | .tcmd rs2 rs1 p => some ⟨7#7, rs2, rs1, 4#3, p, 11#7⟩
  | .pset rs2 rs1 => some ⟨8#7, rs2, rs1, 4#3, 0#5, 11#7⟩
  | .pwait rs1 rd => some ⟨9#7, 0#5, rs1, 4#3, rd, 11#7⟩
  | .ptest rs1 rd => some ⟨10#7, 0#5, rs1, 4#3, rd, 11#7⟩
  | .rres rs1 rd => some ⟨11#7, 0#5, rs1, 4#3, rd, 11#7⟩
  | .rpub rs2 rs1 => some ⟨12#7, rs2, rs1, 4#3, 0#5, 11#7⟩
  | .racq rs1 rd => some ⟨13#7, 0#5, rs1, 4#3, rd, 11#7⟩
  | .rrel rs2 rs1 => some ⟨14#7, rs2, rs1, 4#3, 0#5, 11#7⟩
  | .rocc rs1 rd => some ⟨15#7, 0#5, rs1, 4#3, rd, 11#7⟩
  | .bar rs2 rs1 rd => some ⟨16#7, rs2, rs1, 4#3, rd, 11#7⟩
  | .wqpost rs2 rs1 rd => some ⟨0#7, rs2, rs1, 5#3, rd, 11#7⟩
  | .lvlwait rs1 rd => some ⟨1#7, 0#5, rs1, 5#3, rd, 11#7⟩
  | .lvlcancel rs1 => some ⟨2#7, 0#5, rs1, 5#3, 0#5, 11#7⟩
  | .sexit => some ⟨3#7, 0#5, 0#5, 5#3, 0#5, 11#7⟩
  | .syield => some ⟨4#7, 0#5, 0#5, 5#3, 0#5, 11#7⟩
  | .snapBegin rd => some ⟨5#7, 0#5, 0#5, 5#3, rd, 11#7⟩
  | .snapStat rs1 rd => some ⟨6#7, 0#5, rs1, 5#3, rd, 11#7⟩
  | .snapRollback rs1 => some ⟨7#7, 0#5, rs1, 5#3, 0#5, 11#7⟩
  | .mint rs1 rd => some ⟨8#7, 0#5, rs1, 5#3, rd, 11#7⟩
  | .assayReq rs1 => some ⟨9#7, 0#5, rs1, 5#3, 0#5, 11#7⟩
  | .evt rs1 => some ⟨10#7, 0#5, rs1, 5#3, 0#5, 11#7⟩
  | .cho rs2 rs1 rd => some ⟨11#7, rs2, rs1, 5#3, rd, 11#7⟩
  | .tlbinv rs2 rs1 => some ⟨12#7, rs2, rs1, 5#3, 0#5, 11#7⟩
  | .vaultSwap rs1 => some ⟨13#7, 0#5, rs1, 5#3, 0#5, 11#7⟩
  | .hint => some ⟨127#7, 0#5, 0#5, 5#3, 0#5, 11#7⟩
  | .vxget e rs2 vs rd => some ⟨(BitVec.ofBool e) ++ 0#6, rs2, vs, 6#3, rd, 11#7⟩
  | .vxput rs2 rs1 vd => some ⟨1#7, rs2, rs1, 6#3, vd, 11#7⟩
  | .vmpop e k rd => some ⟨(BitVec.ofBool e) ++ 2#6, 0#5, 0#2 ++ k, 6#3, rd, 11#7⟩
  | .vmfirst e k rd => some ⟨(BitVec.ofBool e) ++ 3#6, 0#5, 0#2 ++ k, 6#3, rd, 11#7⟩
  | .vmrd e rs2 k rd => some ⟨(BitVec.ofBool e) ++ 4#6, rs2, 0#2 ++ k, 6#3, rd, 11#7⟩
  | .qfence scope => some ⟨0#7, scope, 0#5, 7#3, 0#5, 11#7⟩
  | .efence scope => some ⟨1#7, scope, 0#5, 7#3, 0#5, 11#7⟩
  | .kfence => some ⟨2#7, 0#5, 0#5, 7#3, 0#5, 11#7⟩
  | .vldUnit e rs1 m vd => some ⟨0#4 ++ (BitVec.ofBool e) ++ 0#2, 0#5, rs1, m, vd, 43#7⟩
  | .vldStrided e rs2 rs1 m vd => some ⟨0#4 ++ (BitVec.ofBool e) ++ 1#2, rs2, rs1, m, vd, 43#7⟩
  | .vldIndexed e vs2 rs1 m vd => some ⟨0#4 ++ (BitVec.ofBool e) ++ 2#2, vs2, rs1, m, vd, 43#7⟩
  | .vstUnit e rs1 m vs3 => some ⟨1#4 ++ (BitVec.ofBool e) ++ 0#2, 0#5, rs1, m, vs3, 43#7⟩
  | .vstStrided e rs2 rs1 m vs3 => some ⟨1#4 ++ (BitVec.ofBool e) ++ 1#2, rs2, rs1, m, vs3, 43#7⟩
  | .vstIndexed e vs2 rs1 m vs3 => some ⟨1#4 ++ (BitVec.ofBool e) ++ 2#2, vs2, rs1, m, vs3, 43#7⟩
  | .vldffUnit e rs1 m vd => some ⟨2#4 ++ (BitVec.ofBool e) ++ 0#2, 0#5, rs1, m, vd, 43#7⟩
  | .vldffStrided e rs2 rs1 m vd => some ⟨2#4 ++ (BitVec.ofBool e) ++ 1#2, rs2, rs1, m, vd, 43#7⟩
  | .vldffIndexed e vs2 rs1 m vd => some ⟨2#4 ++ (BitVec.ofBool e) ++ 2#2, vs2, rs1, m, vd, 43#7⟩
  | .vlwin e vs2 rs1 m vd => some ⟨3#4 ++ (BitVec.ofBool e) ++ 0#2, vs2, rs1, m, vd, 43#7⟩
  | .vstc e rs1 m vs3 => some ⟨4#4 ++ (BitVec.ofBool e) ++ 0#2, 0#5, rs1, m, vs3, 43#7⟩
  | .vqldUnit rs1 n => some ⟨40#7, 0#5, rs1, 0#3, 0#3 ++ n, 43#7⟩
  | .vqldStrided rs2 rs1 n => some ⟨41#7, rs2, rs1, 0#3, 0#3 ++ n, 43#7⟩
  | .vqstUnit rs1 n => some ⟨48#7, 0#5, rs1, 0#3, 0#3 ++ n, 43#7⟩
  | .vqstStrided rs2 rs1 n => some ⟨49#7, rs2, rs1, 0#3, 0#3 ++ n, 43#7⟩
  | .vmld rs1 k => some ⟨56#7, 0#5, rs1, 0#3, 0#2 ++ k, 43#7⟩
  | .vmst e rs1 k => some ⟨7#4 ++ (BitVec.ofBool e) ++ 1#2, 0#5, rs1, 0#3, 0#2 ++ k, 43#7⟩
  | .vldr rs1 vd => some ⟨64#7, 0#5, rs1, 0#3, vd, 43#7⟩
  | .vstr e rs1 vs3 => some ⟨9#4 ++ (BitVec.ofBool e) ++ 0#2, 0#5, rs1, 0#3, vs3, 43#7⟩
  | .vtadd e vs2 rs1 m vs3 => some ⟨10#4 ++ (BitVec.ofBool e) ++ 2#2, vs2, rs1, m, vs3, 43#7⟩
  | .vtmin e vs2 rs1 m vs3 => some ⟨11#4 ++ (BitVec.ofBool e) ++ 2#2, vs2, rs1, m, vs3, 43#7⟩
  | .vtmax e vs2 rs1 m vs3 => some ⟨12#4 ++ (BitVec.ofBool e) ++ 2#2, vs2, rs1, m, vs3, 43#7⟩
  | .vkld rs2 rs1 => some ⟨104#7, rs2, rs1, 0#3, 0#5, 43#7⟩
  | .vkst rs2 rs1 => some ⟨105#7, rs2, rs1, 0#3, 0#5, 43#7⟩
  | .vaddVv e vs2 vs1 m vd => some ⟨0#4 ++ (BitVec.ofBool e) ++ 0#2, vs2, vs1, m, vd, 91#7⟩
  | .vaddVx e rs2 vs1 m vd => some ⟨0#4 ++ (BitVec.ofBool e) ++ 1#2, rs2, vs1, m, vd, 91#7⟩
  | .vaddVi e imm vs1 m vd => some ⟨0#4 ++ (BitVec.ofBool e) ++ 2#2, imm, vs1, m, vd, 91#7⟩
  | .vsubVv e vs2 vs1 m vd => some ⟨1#4 ++ (BitVec.ofBool e) ++ 0#2, vs2, vs1, m, vd, 91#7⟩
  | .vsubVx e rs2 vs1 m vd => some ⟨1#4 ++ (BitVec.ofBool e) ++ 1#2, rs2, vs1, m, vd, 91#7⟩
  | .vsubVi e imm vs1 m vd => some ⟨1#4 ++ (BitVec.ofBool e) ++ 2#2, imm, vs1, m, vd, 91#7⟩
  | .vmulVv e vs2 vs1 m vd => some ⟨2#4 ++ (BitVec.ofBool e) ++ 0#2, vs2, vs1, m, vd, 91#7⟩
  | .vmulVx e rs2 vs1 m vd => some ⟨2#4 ++ (BitVec.ofBool e) ++ 1#2, rs2, vs1, m, vd, 91#7⟩
  | .vmulVi e imm vs1 m vd => some ⟨2#4 ++ (BitVec.ofBool e) ++ 2#2, imm, vs1, m, vd, 91#7⟩
  | .vmacVv e vs2 vs1 m vd => some ⟨3#4 ++ (BitVec.ofBool e) ++ 0#2, vs2, vs1, m, vd, 91#7⟩
  | .vmacVx e rs2 vs1 m vd => some ⟨3#4 ++ (BitVec.ofBool e) ++ 1#2, rs2, vs1, m, vd, 91#7⟩
  | .vmacVi e imm vs1 m vd => some ⟨3#4 ++ (BitVec.ofBool e) ++ 2#2, imm, vs1, m, vd, 91#7⟩
  | .vminVv e vs2 vs1 m vd => some ⟨4#4 ++ (BitVec.ofBool e) ++ 0#2, vs2, vs1, m, vd, 91#7⟩
  | .vminVx e rs2 vs1 m vd => some ⟨4#4 ++ (BitVec.ofBool e) ++ 1#2, rs2, vs1, m, vd, 91#7⟩
  | .vminVi e imm vs1 m vd => some ⟨4#4 ++ (BitVec.ofBool e) ++ 2#2, imm, vs1, m, vd, 91#7⟩
  | .vmaxVv e vs2 vs1 m vd => some ⟨5#4 ++ (BitVec.ofBool e) ++ 0#2, vs2, vs1, m, vd, 91#7⟩
  | .vmaxVx e rs2 vs1 m vd => some ⟨5#4 ++ (BitVec.ofBool e) ++ 1#2, rs2, vs1, m, vd, 91#7⟩
  | .vmaxVi e imm vs1 m vd => some ⟨5#4 ++ (BitVec.ofBool e) ++ 2#2, imm, vs1, m, vd, 91#7⟩
  | .vandVv e vs2 vs1 m vd => some ⟨6#4 ++ (BitVec.ofBool e) ++ 0#2, vs2, vs1, m, vd, 91#7⟩
  | .vandVx e rs2 vs1 m vd => some ⟨6#4 ++ (BitVec.ofBool e) ++ 1#2, rs2, vs1, m, vd, 91#7⟩
  | .vandVi e imm vs1 m vd => some ⟨6#4 ++ (BitVec.ofBool e) ++ 2#2, imm, vs1, m, vd, 91#7⟩
  | .vorVv e vs2 vs1 m vd => some ⟨7#4 ++ (BitVec.ofBool e) ++ 0#2, vs2, vs1, m, vd, 91#7⟩
  | .vorVx e rs2 vs1 m vd => some ⟨7#4 ++ (BitVec.ofBool e) ++ 1#2, rs2, vs1, m, vd, 91#7⟩
  | .vorVi e imm vs1 m vd => some ⟨7#4 ++ (BitVec.ofBool e) ++ 2#2, imm, vs1, m, vd, 91#7⟩
  | .vxorVv e vs2 vs1 m vd => some ⟨8#4 ++ (BitVec.ofBool e) ++ 0#2, vs2, vs1, m, vd, 91#7⟩
  | .vxorVx e rs2 vs1 m vd => some ⟨8#4 ++ (BitVec.ofBool e) ++ 1#2, rs2, vs1, m, vd, 91#7⟩
  | .vxorVi e imm vs1 m vd => some ⟨8#4 ++ (BitVec.ofBool e) ++ 2#2, imm, vs1, m, vd, 91#7⟩
  | .vshlVv e vs2 vs1 m vd => some ⟨9#4 ++ (BitVec.ofBool e) ++ 0#2, vs2, vs1, m, vd, 91#7⟩
  | .vshlVx e rs2 vs1 m vd => some ⟨9#4 ++ (BitVec.ofBool e) ++ 1#2, rs2, vs1, m, vd, 91#7⟩
  | .vshlVi e imm vs1 m vd => some ⟨9#4 ++ (BitVec.ofBool e) ++ 2#2, imm, vs1, m, vd, 91#7⟩
  | .vshrVv e vs2 vs1 m vd => some ⟨10#4 ++ (BitVec.ofBool e) ++ 0#2, vs2, vs1, m, vd, 91#7⟩
  | .vshrVx e rs2 vs1 m vd => some ⟨10#4 ++ (BitVec.ofBool e) ++ 1#2, rs2, vs1, m, vd, 91#7⟩
  | .vshrVi e imm vs1 m vd => some ⟨10#4 ++ (BitVec.ofBool e) ++ 2#2, imm, vs1, m, vd, 91#7⟩
  | .vdivVv e vs2 vs1 m vd => some ⟨11#4 ++ (BitVec.ofBool e) ++ 0#2, vs2, vs1, m, vd, 91#7⟩
  | .vdivVx e rs2 vs1 m vd => some ⟨11#4 ++ (BitVec.ofBool e) ++ 1#2, rs2, vs1, m, vd, 91#7⟩
  | .vdivVi e imm vs1 m vd => some ⟨11#4 ++ (BitVec.ofBool e) ++ 2#2, imm, vs1, m, vd, 91#7⟩
  | .vcmpVv e vs2 vs1 m d c => some ⟨12#4 ++ (BitVec.ofBool e) ++ 0#2, vs2, vs1, m, d ++ c, 91#7⟩
  | .vcmpVx e rs2 vs1 m d c => some ⟨12#4 ++ (BitVec.ofBool e) ++ 1#2, rs2, vs1, m, d ++ c, 91#7⟩
  | .vcmpVi e imm vs1 m d c => some ⟨12#4 ++ (BitVec.ofBool e) ++ 2#2, imm, vs1, m, d ++ c, 91#7⟩
  | .vmergeVv e vs2 vs1 m vd => some ⟨13#4 ++ (BitVec.ofBool e) ++ 0#2, vs2, vs1, m, vd, 91#7⟩
  | .vmergeVx e rs2 vs1 m vd => some ⟨13#4 ++ (BitVec.ofBool e) ++ 1#2, rs2, vs1, m, vd, 91#7⟩
  | .vmergeVi e imm vs1 m vd => some ⟨13#4 ++ (BitVec.ofBool e) ++ 2#2, imm, vs1, m, vd, 91#7⟩
  | .vpermGather e vs2 vs1 m vd => some ⟨14#4 ++ (BitVec.ofBool e) ++ 0#2, vs2, vs1, m, vd, 91#7⟩
  | .vpermSlideVx e rs2 vs1 m vd => some ⟨14#4 ++ (BitVec.ofBool e) ++ 1#2, rs2, vs1, m, vd, 91#7⟩
  | .vpermSlideVi e imm vs1 m vd => some ⟨14#4 ++ (BitVec.ofBool e) ++ 2#2, imm, vs1, m, vd, 91#7⟩
  | .vslideupVx e rs2 vs1 m vd => some ⟨15#4 ++ (BitVec.ofBool e) ++ 1#2, rs2, vs1, m, vd, 91#7⟩
  | .vslideupVi e imm vs1 m vd => some ⟨15#4 ++ (BitVec.ofBool e) ++ 2#2, imm, vs1, m, vd, 91#7⟩
  | .vmov e vs1 m vd => some ⟨0#4 ++ (BitVec.ofBool e) ++ 3#2, 0#5, vs1, m, vd, 91#7⟩
  | .vneg e vs1 m vd => some ⟨0#4 ++ (BitVec.ofBool e) ++ 3#2, 1#5, vs1, m, vd, 91#7⟩
  | .vabs e vs1 m vd => some ⟨0#4 ++ (BitVec.ofBool e) ++ 3#2, 2#5, vs1, m, vd, 91#7⟩
  | .vnot e vs1 m vd => some ⟨0#4 ++ (BitVec.ofBool e) ++ 3#2, 3#5, vs1, m, vd, 91#7⟩
  | .vsqrt e vs1 m vd => some ⟨0#4 ++ (BitVec.ofBool e) ++ 3#2, 4#5, vs1, m, vd, 91#7⟩
  | .vrsqrt e vs1 m vd => some ⟨0#4 ++ (BitVec.ofBool e) ++ 3#2, 5#5, vs1, m, vd, 91#7⟩
  | .vrcp e vs1 m vd => some ⟨0#4 ++ (BitVec.ofBool e) ++ 3#2, 6#5, vs1, m, vd, 91#7⟩
  | .vexp2 e vs1 m vd => some ⟨0#4 ++ (BitVec.ofBool e) ++ 3#2, 7#5, vs1, m, vd, 91#7⟩
  | .vlog2 e vs1 m vd => some ⟨0#4 ++ (BitVec.ofBool e) ++ 3#2, 8#5, vs1, m, vd, 91#7⟩
  | .vsin e vs1 m vd => some ⟨0#4 ++ (BitVec.ofBool e) ++ 3#2, 9#5, vs1, m, vd, 91#7⟩
  | .vcos e vs1 m vd => some ⟨0#4 ++ (BitVec.ofBool e) ++ 3#2, 10#5, vs1, m, vd, 91#7⟩
  | .vtanh e vs1 m vd => some ⟨0#4 ++ (BitVec.ofBool e) ++ 3#2, 11#5, vs1, m, vd, 91#7⟩
  | .vsigm e vs1 m vd => some ⟨0#4 ++ (BitVec.ofBool e) ++ 3#2, 12#5, vs1, m, vd, 91#7⟩
  | .vfloor e vs1 m vd => some ⟨0#4 ++ (BitVec.ofBool e) ++ 3#2, 13#5, vs1, m, vd, 91#7⟩
  | .vceil e vs1 m vd => some ⟨0#4 ++ (BitVec.ofBool e) ++ 3#2, 14#5, vs1, m, vd, 91#7⟩
  | .vrnd e vs1 m vd => some ⟨0#4 ++ (BitVec.ofBool e) ++ 3#2, 15#5, vs1, m, vd, 91#7⟩
  | .vclz e vs1 m vd => some ⟨0#4 ++ (BitVec.ofBool e) ++ 3#2, 16#5, vs1, m, vd, 91#7⟩
  | .vpopc e vs1 m vd => some ⟨0#4 ++ (BitVec.ofBool e) ++ 3#2, 17#5, vs1, m, vd, 91#7⟩
  | .vid e m vd => some ⟨0#4 ++ (BitVec.ofBool e) ++ 3#2, 18#5, 0#5, m, vd, 91#7⟩
  | .vbcast e vs1 m vd => some ⟨0#4 ++ (BitVec.ofBool e) ++ 3#2, 19#5, vs1, m, vd, 91#7⟩
  | .vclass e vs1 m vd => some ⟨0#4 ++ (BitVec.ofBool e) ++ 3#2, 20#5, vs1, m, vd, 91#7⟩
  | .vcvt e vs1 m vd => some ⟨1#4 ++ (BitVec.ofBool e) ++ 3#2, 0#5, vs1, m, vd, 91#7⟩
  | .vcvtRz e vs1 m vd => some ⟨1#4 ++ (BitVec.ofBool e) ++ 3#2, 1#5, vs1, m, vd, 91#7⟩
  | .vcvtSr e vs1 m vd => some ⟨1#4 ++ (BitVec.ofBool e) ++ 3#2, 2#5, vs1, m, vd, 91#7⟩
  | .vcvtSat e vs1 m vd => some ⟨1#4 ++ (BitVec.ofBool e) ++ 3#2, 3#5, vs1, m, vd, 91#7⟩
  | .vquant e vs1 m vd => some ⟨1#4 ++ (BitVec.ofBool e) ++ 3#2, 4#5, vs1, m, vd, 91#7⟩
  | .vredsum e vs1 m vd => some ⟨2#4 ++ (BitVec.ofBool e) ++ 3#2, 0#5, vs1, m, vd, 91#7⟩
  | .vredsumt e vs1 m vd => some ⟨2#4 ++ (BitVec.ofBool e) ++ 3#2, 1#5, vs1, m, vd, 91#7⟩
  | .vredmax e vs1 m vd => some ⟨2#4 ++ (BitVec.ofBool e) ++ 3#2, 2#5, vs1, m, vd, 91#7⟩
  | .vredmin e vs1 m vd => some ⟨2#4 ++ (BitVec.ofBool e) ++ 3#2, 3#5, vs1, m, vd, 91#7⟩
  | .vredand e vs1 m vd => some ⟨2#4 ++ (BitVec.ofBool e) ++ 3#2, 4#5, vs1, m, vd, 91#7⟩
  | .vredor e vs1 m vd => some ⟨2#4 ++ (BitVec.ofBool e) ++ 3#2, 5#5, vs1, m, vd, 91#7⟩
  | .vredxor e vs1 m vd => some ⟨2#4 ++ (BitVec.ofBool e) ++ 3#2, 6#5, vs1, m, vd, 91#7⟩
  | .vcompress e vs1 m vd => some ⟨3#4 ++ (BitVec.ofBool e) ++ 3#2, 0#5, vs1, m, vd, 91#7⟩
  | .vexpand e vs1 m vd => some ⟨3#4 ++ (BitVec.ofBool e) ++ 3#2, 1#5, vs1, m, vd, 91#7⟩
  | .vmidx e m vd => some ⟨3#4 ++ (BitVec.ofBool e) ++ 3#2, 2#5, 0#5, m, vd, 91#7⟩
  | .vrev e vs1 m vd => some ⟨3#4 ++ (BitVec.ofBool e) ++ 3#2, 3#5, vs1, m, vd, 91#7⟩
  | .vtr8 e vs1 m vd => some ⟨3#4 ++ (BitVec.ofBool e) ++ 3#2, 4#5, vs1, m, vd, 91#7⟩
  | .mand e a b d => some ⟨4#4 ++ (BitVec.ofBool e) ++ 3#2, 0#5, 0#2 ++ a, b, 0#2 ++ d, 91#7⟩
  | .mor e a b d => some ⟨4#4 ++ (BitVec.ofBool e) ++ 3#2, 1#5, 0#2 ++ a, b, 0#2 ++ d, 91#7⟩
  | .mxor e a b d => some ⟨4#4 ++ (BitVec.ofBool e) ++ 3#2, 2#5, 0#2 ++ a, b, 0#2 ++ d, 91#7⟩
  | .mandn e a b d => some ⟨4#4 ++ (BitVec.ofBool e) ++ 3#2, 3#5, 0#2 ++ a, b, 0#2 ++ d, 91#7⟩
  | .mnot e a d => some ⟨4#4 ++ (BitVec.ofBool e) ++ 3#2, 4#5, 0#2 ++ a, 0#3, 0#2 ++ d, 91#7⟩
  | .mbf e a d => some ⟨4#4 ++ (BitVec.ofBool e) ++ 3#2, 5#5, 0#2 ++ a, 0#3, 0#2 ++ d, 91#7⟩
  | .mif e a d => some ⟨4#4 ++ (BitVec.ofBool e) ++ 3#2, 6#5, 0#2 ++ a, 0#3, 0#2 ++ d, 91#7⟩
  | .msof e a d => some ⟨4#4 ++ (BitVec.ofBool e) ++ 3#2, 7#5, 0#2 ++ a, 0#3, 0#2 ++ d, 91#7⟩
  | .mset d => some ⟨35#7, 8#5, 0#5, 0#3, 0#2 ++ d, 91#7⟩
  | .mclr d => some ⟨35#7, 9#5, 0#5, 0#3, 0#2 ++ d, 91#7⟩
  | .vmomu e vs1 m vd => some ⟨5#4 ++ (BitVec.ofBool e) ++ 3#2, 0#5, vs1, m, vd, 91#7⟩
  | .dmac z e vs2 vs1 k => some ⟨(BitVec.ofBool z) ++ (BitVec.ofBool e) ++ vs2, vs1, k.extractLsb' 3 5, k.extractLsb' 0 3, 0#5, 123#7⟩
  | .dmsc z e vs2 vs1 k => some ⟨(BitVec.ofBool z) ++ (BitVec.ofBool e) ++ vs2, vs1, k.extractLsb' 3 5, k.extractLsb' 0 3, 1#5, 123#7⟩
  | .dmm z e vs2 vs1 k => some ⟨(BitVec.ofBool z) ++ (BitVec.ofBool e) ++ vs2, vs1, k.extractLsb' 3 5, k.extractLsb' 0 3, 2#5, 123#7⟩
  | .dop z e vs2 vs1 k => some ⟨(BitVec.ofBool z) ++ (BitVec.ofBool e) ++ vs2, vs1, k.extractLsb' 3 5, k.extractLsb' 0 3, 3#5, 123#7⟩
  | .kin e vs1 k => some ⟨0#1 ++ (BitVec.ofBool e) ++ 0#5, vs1, k.extractLsb' 3 5, k.extractLsb' 0 3, 4#5, 123#7⟩
  | .kadd j k => some ⟨0#4 ++ (j.extractLsb' 5 3), j.extractLsb' 0 5, k.extractLsb' 3 5, k.extractLsb' 0 3, 5#5, 123#7⟩
  | .dout e vb vd k => some ⟨0#1 ++ (BitVec.ofBool e) ++ vb, vd, k.extractLsb' 3 5, k.extractLsb' 0 3, 8#5, 123#7⟩
  | .doutQ e vb vd k => some ⟨0#1 ++ (BitVec.ofBool e) ++ vb, vd, k.extractLsb' 3 5, k.extractLsb' 0 3, 9#5, 123#7⟩
  | .doutA e vb vd k => some ⟨0#1 ++ (BitVec.ofBool e) ++ vb, vd, k.extractLsb' 3 5, k.extractLsb' 0 3, 10#5, 123#7⟩
  | .doutAq e vb vd k => some ⟨0#1 ++ (BitVec.ofBool e) ++ vb, vd, k.extractLsb' 3 5, k.extractLsb' 0 3, 11#5, 123#7⟩
  | .doutB e vb vd k => some ⟨0#1 ++ (BitVec.ofBool e) ++ vb, vd, k.extractLsb' 3 5, k.extractLsb' 0 3, 12#5, 123#7⟩
  | .doutBq e vb vd k => some ⟨0#1 ++ (BitVec.ofBool e) ++ vb, vd, k.extractLsb' 3 5, k.extractLsb' 0 3, 13#5, 123#7⟩
  | .doutBa e vb vd k => some ⟨0#1 ++ (BitVec.ofBool e) ++ vb, vd, k.extractLsb' 3 5, k.extractLsb' 0 3, 14#5, 123#7⟩
  | .doutBaq e vb vd k => some ⟨0#1 ++ (BitVec.ofBool e) ++ vb, vd, k.extractLsb' 3 5, k.extractLsb' 0 3, 15#5, 123#7⟩
  | .capWrite _ _ => none
  | .guessRoutineEnd => none
  | .escrowHelperJoin _ => none
  | .escrowHelperReclaim _ => none
  | .escrowConflictSquash _ _ => none
  | .escrowDeferredResume => none
  | .cpyvElementLand _ _ => none
  | .copyComplete _ => none
  | .overdraft => none
  | .cringReserve _ => none
  | .tcmdComplete _ => none
  | .mintResult => none
  | .invalidationPort _ _ => none
  | .srqDeliver => none
  | .stashCopyDone _ => none
  | .cableEntryComplete => none
  | .viqExecute => none
  | .vectorFault => none
  | .vldffComplete => none
  | .latepf _ => none
  | .storeAck => none
  | .trapEntry _ _ => none
  | .preempt _ => none
  | .rollbackEntry => none
  | .tellerRemap _ => none
  | .tellerRequest _ => none
  | .hostTailWrite _ _ _ => none
  | .wsTakeRecord _ _ => none
  | .launchAdmit _ => none
  | .markerComplete _ => none
  | .launchComplete _ => none
  | .dependenceRelease _ => none
  | .levelCancelStore _ _ => none
  | .placeStrand _ _ _ => none
  | .reallocationIntervalEnd _ => none
  | .preemption => none
  | .forcedPreemption => none
  | .park => none
  | .waitSatisfied _ _ _ => none
  | .placementEvent _ => none
  | .pipelineStallEvent _ => none
  | .ringProducerLeave _ _ => none
  | .assayCoreClaim _ => none
  | .assayComplete _ _ _ => none
  | .vaultSwapDeadline => none
  | .vaultSwapDone => none
  | .stitchMarker _ _ _ => none
  | .strandCut => none
  | .consumeFirstCut => none
  | .chipDone _ => none
  | .doneMessage _ _ _ => none
  | .abandonMessage _ _ => none
  | .rollbackMessage _ _ => none
  | .peerRequest _ => none
  | .chunkReceive _ => none
  | .collectiveComplete _ => none
  | .collectiveTimeout _ => none
  | .scrubGranule _ _ => none
  | .wearRowCopy _ _ => none
  | .linkCalibration _ => none
  | .telemetrySample _ _ => none
  | .clockStepDown => none
  | .clockStepUp => none
  | .thermalShutdown => none
  | .dbell _ => none
  | .mailboxSetTdp _ => none
  | .mailboxAttest _ => none
  | .mailboxReadMeasurements _ => none
  | .powerOnBoot _ => none
  | .hostWrite _ _ => none
  | .jobBlockWrite _ _ _ => none
  | .dirtyLineWriteBack _ => none
  | .chunkLandingAck _ _ => none

/-- The word of an instruction (none for a step of another agent). -/
def encode (i : Instr) : Option (BitVec 32) := (encFields i).map wordOfFields

end Sys2Proof
end

