-- ==== Sys2Proof/Config.lean ====
section
/-! DEFINITION. What an implementation fixes, and the free values: opaque constants with no body, so that no proof
can see what they are. Each is named in a row of notes/assumptions. -/

namespace Sys2Proof.Config

/-- Installed bytes of HBM (R209, R415). -/
def hbmBytes : Nat := 0x6000000000
/-- Installed bytes of the second tier (R209, R415). -/
def tier2Bytes : Nat := 0x20000000000
/-- Bytes of the Commons (R211). -/
def commonsBytes : Nat := 0xC000000
/-- First physical address of the second tier (R415). -/
def tier2Base : Nat := 0x10000000000
/-- First physical address of the Commons (R415). -/
def commonsBase : Nat := 0x40000000000
/-- First physical address of the device ports (R415). -/
def portBase : Nat := 0x80000000000
/-- Bytes of the device-port range (R415). -/
def portBytes : Nat := 0x100000000
/-- First virtual address of the window region (R212). -/
def windowBase : Nat := 0x3F0000000000
/-- First virtual address of the pocket window (R212). -/
def pocketWindow : Nat := 0x3F8000000000
/-- Bytes of the pocket window (R212). -/
def pocketBytes : Nat := 0x40000

/-- DESIGN CHOICE (log 2): where a core starts after reset; the spec gives no reset vector. -/
def resetPc : Word := 0

/-- Free value (log 3): arithmetic-clock cycles one retired instruction takes (R88 gives no rate). -/
opaque cyclesOf : Nat → Word
/-- Free value (log 4): which cached translation an access uses, a number past the list meaning a fresh walk
(R310 lets a TLB hold or drop any entry). -/
opaque tlbPick : Nat → Nat
/-- Free value (log 5): a word whose value the spec leaves open (non-carry registers after an escrow loop, R206). -/
opaque freeWord : Nat → Word
/-- Free value (log 5): a byte whose value the spec leaves open (overlapping buffers, R346; RECV after a
mismatched collective, R351; memory of another chip, R338). -/
opaque freeByte : Nat → Byte
/-- Free value (log 6): a choice among the results that Table 3.7 allows a special function. -/
opaque pick : Nat → Nat
/-- Free value (log 7): whether a strand that R48 leaves open is taken first. -/
opaque chooseStrand : Nat → Nat
/-- Free value (log 8): the SM2 signature over a quote (R391); the key is fused in the module. -/
opaque sm2Sign : List Byte → List Byte
/-- Free value (log 122): whether an SM2 signature over a digest verifies against a public key (R389). -/
opaque sm2Verify : List Byte → List Byte → List Byte → Bool
/-- Free value (log 122): the SM3 digest of the public key fused in the die (R389). -/
opaque fusedKey : List Byte
/-- Free value (log 68): slots of a partition's context area past one for each core (R371 gives no size). -/
opaque contextSlots : Nat → Nat
/-- Free value (log 18): bytes of the collective area that one instance takes, from the bytes of its buffers (R352 gives
no layout). -/
opaque collNeed : Nat → Word
/-- Free value (log 102): whether a chip is reachable from this one over Kyotrix (R337); the wiring is the platform's. -/
opaque kyotrix : BitVec 12 → Bool

end Sys2Proof.Config
end

