-- ==== Sys2Proof/Machine/State.lean ====
section
/-! DEFINITION. The state of the whole chip as plain data: the core whose turn it is with its strand's live
context, the other cores, physical memory, the partitions with their Work Schedulers, the engines' outstanding
work, snapshots, and the schedule of the other agents (agenda). spec/05 Table 5.1 to 5.7 is the strand's state;
spec/02, 13 to 18 and 20 give the rest. -/

namespace Sys2Proof.Machine

/-- A sparse byte store: (address, byte) pairs with addresses strictly rising and no byte 0; an unlisted address
reads 0. Used for memory, the pocket, vector data, masks, scale registers, the accumulator pool, the activation
tables. -/
abbrev Bytes := List Host.Cell

/-- A sparse store of 64-bit values by index, strictly rising; used for the stochastic-rounding generators that
have left their seeded value (R72). -/
abbrev Words := List (Nat × Word)

/-- Privilege of the code a core runs (R87). -/
inductive Priv where
  | user | supervisor | machine
  deriving DecidableEq, Repr

/-- The state of a vector or mask register (R108, Table 5.2). -/
inductive RegSt where
  | vacant | full | pending | lent
  deriving DecidableEq, Repr

/-- A vector register: data span, tag byte (R106), diagonal header (R107), state (R108), and the landed prefix of
an outstanding `cpyv` (R280). -/
structure VReg where
  tag : Byte
  hdr : BitVec 192
  st : RegSt
  landed : Option Nat
  data : Bytes
  deriving DecidableEq, Repr

/-- A mask register: bit i at bit i mod 8 of byte i / 8 (R109). -/
structure MReg where
  st : RegSt
  bits : Bytes
  deriving DecidableEq, Repr

/-- A slot header (R111) in the 32-byte head form of R235, with the bound outer-scale binding. -/
structure Slot where
  alloc : Bool
  intCls : Bool
  off : BitVec 32
  anc : BitVec 32
  len : BitVec 32
  base : BitVec 15
  bnd : Bool
  uns : Bool
  ar : BitVec 5
  br : BitVec 5
  deriving DecidableEq, Repr

/-- What has happened to a granule's code word (R217 to R220). -/
inductive Ecc where
  | correctable | uncorrectable | poisoned
  deriving DecidableEq, Repr

/-- One level of the loop stack (R112) with its suspended flag S (R184). -/
structure Level where
  rem : Word
  start : Word
  stop : Word
  idx : Word
  act : Bool
  susp : Bool
  deriving DecidableEq, Repr

/-- The stochastic-rounding generators: every VP's generator is as `vsrseed` with `seed` left it (R72, R75), but
for those listed. -/
structure SrGen where
  seed : Word
  moved : Words
  deriving DecidableEq, Repr

/-- The user CSRs (Table 5.4), the VIQ captures some of them (R113). -/
structure UCsr where
  vl : Word
  mtyp : Word
  vxctl : Word
  kcnt : Word
  cpstr : Word
  pbase : Word
  cshapemk : Word
  cshapen : Word
  atab0 : Word
  atab1 : Word
  qscl : Word
  optc0 : Word
  optc1 : Word
  optc2 : Word
  optc3 : Word
  optc4 : Word
  ves : Word
  vffs : Word
  vxflags : Word
  snaprb : Word
  vqpos : Word
  deriving DecidableEq, Repr

/-- A run of bytes an element of an instruction writes, by the key of its first byte: whether it writes them whole, an HX4 store of
one nibble keeping the other (R219, R221), and whether they carry poison (R218). -/
structure RunWrite where
  key : Nat
  len : Nat
  whole : Bool
  bad : Bool
  deriving DecidableEq, Repr

/-- A VIQ entry: the instruction with its pc, the captured scalars xs1 and xs2, the captured CSRs (R113), the
identity of the provisional `vldff` its VL refers to (R228), the descriptor and request a VIQ-routed `ctile` has read
(R285), whether it is frozen (R272), the element its execution goes on at, the element it was armed at (R128, R274), what its
register held before an early start, which a fault of an older entry takes back (R272), the bytes it has written so far, which
make its granule writes when it completes (R219), and whether its accesses have all been sent while a store of it is not yet
acknowledged (R261, R268). -/
structure VEntry where
  id : Nat
  instr : Instr
  word : BitVec 32
  pc : Word
  a : Word
  b : Word
  csr : UCsr
  vlRef : Option Nat
  tile : List Byte
  frozen : Bool
  faulting : Bool
  start : Nat
  base : Nat
  undo : Option VReg
  wrote : List RunWrite
  sent : Bool
  priv : Priv
  deriving DecidableEq, Repr

/-- An SRQ entry: the destination, the VIQ entry that produces it, and the value once produced (R136). -/
structure SrqEntry where
  xd : XReg
  src : Nat
  val : Option Word
  deriving DecidableEq, Repr

/-- A source operand as the operand stash holds it (R167): its register, tag and header, the data and the scale entries
of the range it copies, the bytes of that range, whether the copy is done, whether nothing has written the register or
those entries since, and whether it shares an older copy. -/
structure Stash where
  reg : VReg5
  tag : Byte
  hdr : BitVec 192
  data : Bytes
  q : Bytes
  len : Nat
  copied : Bool
  live : Bool
  reused : Bool
  deriving DecidableEq, Repr

/-- A Cable-queue entry: the issued VIQ entry, its stashed sources, the slot headers as its issue saw them (R165,
R167, R168), and its step index, the number of its primitives performed (R181). -/
structure CEntry where
  v : VEntry
  srcs : List Stash
  slots : List Slot
  steps : Nat
  deriving DecidableEq, Repr

/-- Which strand: launch serial, stage index, strand index (Table 5.5 `strandid`). -/
structure SRef where
  launch : Nat
  stage : Nat
  idx : Nat
  deriving DecidableEq, Repr

/-- The page an access went through: the physical address of its leaf entry, its first VA, and its bytes (R305,
R355). -/
structure PageRef where
  pte : Nat
  va : Nat
  size : Nat
  deriving DecidableEq, Repr

/-- Where one access lands once it is translated: physical memory with the page kind of its leaf (R415, R305), the
pocket of the strand, or another chip (R214). -/
inductive Loc where
  | phys (a : Nat) (kind : BitVec 2) (page : Option PageRef)
  | pocket (o : Nat)
  | peer (chip : BitVec 12) (va : Word)
  deriving DecidableEq, Repr

/-- What a copy writes to, element by element (R277 to R286): memory, an element of a register, or a byte offset in the
ring slot a `cring` reserves. -/
inductive CopyDst where
  | mem (l : Loc)
  | reg (v : VReg5) (elem : Nat)
  | slot (off : Nat)
  deriving DecidableEq, Repr

/-- The source of a copied element: memory, a value already read into the engine with the poison it carries (R278, R281),
or an out-of-range element of a tile (R285). -/
inductive CopySrc where
  | mem (l : Loc)
  | val (bytes : List Byte) (bad : Bool)
  | zero
  deriving DecidableEq, Repr

/-- One element of a copy. -/
structure CopyElem where
  src : CopySrc
  dst : CopyDst
  addr : Word
  deriving DecidableEq, Repr

/-- The forms of a copy that differ in how they complete. -/
inductive CopyForm where
  | plain
  | toReg (v : VReg5) (vl : Nat)
  | tile (v : Option VReg5) (mask : MReg3) (n : Nat) (bits : List Bool)
  | ring (hdr : Word) (slot : Option Word)
  deriving DecidableEq, Repr

/-- A copy in a copy queue, with its number and the partition, strand and colour that issued it (R270, R354), and the bytes it
has written so far, which make its granule writes as it ends (R219). -/
structure CopyOp where
  id : Nat
  part : Nat
  owner : Option SRef
  colour : Bool
  priv : Priv
  form : CopyForm
  width : Nat
  elems : List CopyElem
  landed : List Nat
  wrote : List RunWrite
  poisoned : Option Nat
  purse : Option Nat
  bytes : Nat
  err : Bool
  usesStrand : Bool
  deriving DecidableEq, Repr

/-- A `tcmd` command outstanding at a Teller (R247 to R249). -/
structure TcmdOp where
  part : Nat
  owner : Option SRef
  colour : Bool
  core : Nat
  priv : Priv
  cmd : Nat
  fields : List Word
  purse : Nat
  bytes : Nat
  deriving DecidableEq, Repr

/-- A fence of a strand between a held store and its younger accesses (R257, R260, R261): it covers the accesses from draw
`from_` on. `need` 0 is a `fence`, which orders scalar accesses only, with the store performed; 1 and 2 a `qfence` that
orders them with the store performed at strand or rib scope; 3 one of scope 2 or 3, which covers UN pages too. -/
structure FenceMark where
  from_ : Nat
  need : Nat
  deriving DecidableEq, Repr

/-- A store accepted at the rib ordering point and not yet performed (R268): the partition, core, strand and privilege it comes
from, the draw it was accepted at, the VIQ entry that made it, the group of stores whose bytes in one granule are one granule
write with the granule writes that the last of them makes (R219), the scope at which it is already performed (0 none but the
unit that made it, 1 its strand, 2 its rib, R254, R255), the VIQ entry a `qfence` holds it behind (R261), and the fences that
order younger accesses after it. -/
structure Held where
  part : Nat
  core : Nat
  owner : Option SRef
  colour : Bool
  priv : Priv
  loc : Loc
  bytes : List Byte
  at_ : Nat
  entry : Option Nat
  group : Option Nat
  cover : List (Nat × Nat)
  reach : Nat
  behind : Option Nat
  fences : List FenceMark
  deriving DecidableEq, Repr

/-- What a retired `qfence` still orders younger accesses behind (R261): the sent VIQ entry, and the fences that cover it. -/
structure Barrier where
  entry : Nat
  marks : List FenceMark
  deriving DecidableEq, Repr

/-- One participant of an escrow loop (R195 to R199). `writes` lists its escrowed stores in order, each an address and a
length (R219). `retired` counts the instructions its speculative iteration has
executed, which retire only if the iteration is confirmed (R88, R198). -/
structure EscPart where
  core : Nat
  home : Bool
  iter : Option Nat
  x : Vector Word 32
  pc : Word
  guessing : Bool
  steps : Nat
  guess : Vector Word 32
  waiting : Bool
  stalled : Bool
  trapped : Bool
  retired : Nat
  reads : List Nat
  lines : List Nat
  stores : Bytes
  written : List Nat
  writes : List (Nat × Nat)
  pages : List (Nat × PageRef)
  csrVl : Option Word
  csrXf : Option Word
  deriving DecidableEq, Repr

/-- An open escrow loop (R194 to R208). `level` is none between `esc.open` and its `loop`, and again after the loop
ends (`done`). `opener` is the mode `esc.open` ran in, in which the next instruction must be its `loop` (R204). -/
structure Escrow where
  desc : Word
  opener : Priv
  bud : BitVec 2
  want : Nat
  cmask : BitVec 32
  gpc : Word
  cmode : BitVec 16
  level : Option (BitVec 3)
  expectLoop : Bool
  done : Bool
  trip : Word
  entryX : Vector Word 32
  entryLoops : Vector Level 6
  outX : Vector Word 32
  last : Option Nat
  focus : Nat
  parts : List EscPart
  oldest : Nat
  narrow : Bool
  way : Bool
  ncom : Word
  nmis : Word
  ncon : Word
  ndef : Word
  deriving DecidableEq, Repr

/-- The four escrow counters that `esc.stat` still reads after the loop closes (R208). -/
structure EscStat where
  ncom : Word
  nmis : Word
  ncon : Word
  ndef : Word
  deriving DecidableEq, Repr

/-- A vector fault found and not yet delivered (R272, R273), with the `ves` and `vqpos` of its entry to the handler. -/
structure VFault where
  cause : BitVec 6
  tval : Word
  ves : Word
  vqpos : Word
  deriving DecidableEq, Repr

/-- The strand's whole context (Table 5.1, Table 18.2) and its queues. `atPoint` says whether the boundary the strand
stands at is a pre-emption point (R40, R190); `pocketEcc` holds, while the strand has no core, the conditions of its pocket's
granules by offset (R210, R218); `barrier` is what a retired `qfence` still orders younger accesses behind (R261). -/
structure Ctx where
  x : Vector Word 32
  pc : Word
  v : Vector VReg 32
  m : Vector MReg 8
  q : Vector Bytes 4
  slots : Vector Slot 256
  pool : Bytes
  accw : Nat
  pocket : Bytes
  pocketEcc : List (Nat × Ecc)
  pocb : Nat
  loops : Vector Level 6
  sr : SrGen
  atab : Bytes
  u : UCsr
  vlProv : Option Nat
  nc : BitVec 2
  gc : BitVec 2
  cycle : Word
  instret : Word
  viq : List VEntry
  viqNext : Nat
  srq : List SrqEntry
  cable : List CEntry
  cableSusp : Bool
  vfault : Option VFault
  cpyPoison : Option Word
  overdraft : Option Word
  rbEntry : Option (BitVec 32)
  esc : Option Escrow
  escLast : EscStat
  dcache : List (Word × List Byte)
  snapGen : BitVec 31
  snapCol : Bool
  strandid : Word
  usemask : BitVec 32
  barGen : Option (Word × BitVec 32)
  barrier : Option Barrier
  atPoint : Bool
  deriving DecidableEq, Repr

/-- The base S and M CSRs (Table 5.3). -/
structure SysCsr where
  mstatus : Word
  medeleg : Word
  mideleg : Word
  mie : Word
  mtvec : Word
  mcounteren : Word
  mscratch : Word
  mepc : Word
  mcause : Word
  mtval : Word
  stvec : Word
  scounteren : Word
  sscratch : Word
  sepc : Word
  scause : Word
  stval : Word
  deriving DecidableEq, Repr

/-- Why a strand must stop at a pre-emption point (R40). -/
inductive Stop where
  | preempt | forced | cancel | cut | vault
  deriving DecidableEq, Repr

/-- What a core that a strand is stopping on has been promised to (R299): a READY strand, or the strands of one stage of a
launch. -/
inductive Gift where
  | strand (r : SRef)
  | stage (launch stage : Nat)
  deriving DecidableEq, Repr

/-- What an instruction waits for on a Commons word (Table 2.2; R294, R326, R329, R330): a purse's balance, a barrier's next
generation, a level counter, or a ring's slot. -/
inductive WaitOp where
  | purse
  | barrier (gen : BitVec 32)
  | level
  | reserve
  | acquire
  | publish (slot : Word)
  | release (slot : Word)
  deriving DecidableEq, Repr

/-- A wait of the instruction at a pc, made at a privilege, on a Commons word (R37, R243). `got` is its result once a request
has made its condition true. -/
structure Wait where
  priv : Priv
  pc : Word
  va : Word
  op : WaitOp
  got : Option Word
  deriving DecidableEq, Repr

/-- A core: vector cores 0 to 255 (rib × 16 + core), clerk cores 256 + rib (R31). `icache` holds the words its I$ may still
serve, by physical address, whatever memory holds since (R85, R215). -/
structure Core where
  id : Nat
  priv : Priv
  ctx : Ctx
  csr : SysCsr
  mipSoft : Word
  strand : Option SRef
  assaycap : BitVec 32
  copies : List CopyOp
  resv : Option Nat
  icache : List (Nat × BitVec 32)
  stop : Option Stop
  gift : Option Gift
  migrate : Bool
  wfi : Bool
  helperOf : Option Nat
  assay : Bool
  hwait : Option Wait
  deriving DecidableEq, Repr

/-- Strand states (Table 2.2). -/
inductive StrandSt where
  | ready | running | blocked | parked | exited
  deriving DecidableEq, Repr

/-- A strand as the Work Scheduler holds it. `saved` is its context while it holds no core; `wait` is what
it waits for; `released` is the pc and the result of a wait whose condition a request has made true (R243); `leaving` holds
the output rings that it is still to leave (R296). -/
structure Strand where
  stage : Nat
  idx : Nat
  st : StrandSt
  core : Option Nat
  saved : Option Ctx
  slot : Option Nat
  vault : Bool
  waited : Nat
  held : Nat
  wait : Option Wait
  released : Option (Word × Word)
  leaving : List Word
  deriving DecidableEq, Repr

/-- A stage declaration as the code object gives it (R19, R20, R34): the `.stage` and `.decl` values. -/
structure StageDecl where
  min : Nat
  max : Nat
  entry : Word
  nc : BitVec 2
  gc : BitVec 2
  acc : Nat
  pocket : Nat
  rin : Option Word
  rout : Option Word
  score : Int
  scoreDen : Nat
  deriving DecidableEq, Repr

/-- Where a launch stands (R42 to R45, R290). -/
inductive LaunchSt where
  | held | released | admitted | done
  deriving DecidableEq, Repr

/-- A launch taken from a work queue (Table 14.2). -/
structure Launch where
  serial : Nat
  queue : Nat
  marker : Bool
  evc : Bool
  pri : Nat
  obj : Word
  arg : Word
  lrec : Word
  grec : Word
  dep0 : Word
  dep1 : Word
  uuse : BitVec 32
  stages : List StageDecl
  st : LaunchSt
  strands : List Strand
  waited : Nat
  prods : List (Word × Nat)
  cancelled : Bool
  failed : Bool
  order : Nat
  deriving DecidableEq, Repr

/-- A translation a TLB may hold (R310): the page's first VA, its size in bytes, the leaf as the walk read it. -/
structure TlbEntry where
  va : Nat
  size : Nat
  leaf : Word
  deriving DecidableEq, Repr

/-- A transit-filter entry (R311): the page and its frame range. -/
structure TransitEntry where
  va : Nat
  base : Nat
  size : Nat
  deriving DecidableEq, Repr

/-- A page of a manifest (R358): the page's physical base, its size, its VA word, and the address of the copy. -/
structure PageRec where
  base : Nat
  size : Nat
  pva : Word
  copy : Nat
  deriving DecidableEq, Repr

/-- One chunk of a collective (R349, R352): words of a segment's forwarded run, with those that carry poison, and
whether its landing is acknowledged. -/
structure ChunkRec where
  seg : Nat
  final : Bool
  first : Nat
  words : List Nat
  poison : List Nat
  sent : Bool
  deriving DecidableEq, Repr

/-- A collective instance of this chip (R345 to R352): what it was issued with, its send elements, its receive places with those whose
values overlap leaves open (R346), the generators it has stepped, its chunks out and in, and the receive elements it holds.
`unread` lists the send elements the engine has still to read, with their places (R266, R345). An instance not yet issued here
keeps only the chunks that have arrived. -/
structure Coll where
  part : Nat
  owner : Option SRef
  colour : Bool
  priv : Priv
  tag : Word
  shape : CollShape
  issued : Bool
  rnd : Bool
  srk : Nat
  rank : Nat
  seed : Word
  gens : Words
  send : List Nat
  sendBad : List Nat
  unread : List (Nat × Loc)
  recv : List Loc
  loose : List Nat
  purse : Nat
  bytes : Nat
  desc : Word
  err : Bool
  mismatch : Bool
  timed : Bool
  outbox : List ChunkRec
  inbox : List ChunkRec
  got : List (Nat × Nat)
  gotBad : List Nat
  deriving DecidableEq, Repr

/-- A manifest (R357, R358): its page records, the room it has in the manifest area, the page tables of its image, each by
its address, its size and the GLOBAL address of the copy (R353), the GLOBAL address of its context and WS records, and the
launches, strands and collective instances of its image. -/
structure Manifest where
  gen : BitVec 32
  sealed : Bool
  va : Nat
  len : Nat
  pages : List PageRec
  tables : List (Nat × Nat × Nat)
  ctxva : Nat
  launches : List Launch
  colls : List Coll
  deriving DecidableEq, Repr

/-- A message the chip has sent on its links (R335, R353, R357, R359, R360, R389). -/
inductive Msg where
  | marker (part : Nat) (gen : BitVec 32) (link vc : Nat)
  | done (part : Nat) (gen : BitVec 32) (chip : BitVec 12)
  | abandon (part : Nat) (gen : BitVec 32)
  | rollback (part : Nat) (gen : BitVec 32)
  | peerStore (part : Nat) (chip : BitVec 12) (va : Word) (bytes : List Byte) (colour : Bool)
  | peerLoad (part : Nat) (chip : BitVec 12) (va : Word) (size : Nat)
  | peerReply (bytes : List Byte)
  | peerRefuse
  | chunk (part : Nat) (chip : Nat) (m : ChunkMsg)
  | bootFailure
  deriving DecidableEq, Repr

/-- Who issued an operation: its partition, strand and colour (R354), and the number of the copy it belongs to (R266). -/
structure Issuer where
  part : Nat
  owner : Option SRef
  colour : Bool
  copy : Option Nat
  deriving DecidableEq, Repr

/-- A packet sent and not landed (R354): the operation it belongs to, its virtual channel, and the chip it goes to (R335). -/
structure Flight where
  by_ : Issuer
  vc : Nat
  chip : Nat
  deriving DecidableEq, Repr

/-- A run in a rib's assay queue: of a request (R317), or of the controller's own background work (R50, R393). -/
structure AssayReq where
  cls : BitVec 32
  core : Nat
  asked : Bool
  deriving DecidableEq, Repr

/-- A sealed object as the fabric knows it: its handle, the physical frames of its text, of its head and const, and of its
data, its text bytes as virtual ranges, and the handles of its imports (R312, R367, R382, R383). -/
structure ObjRec where
  handle : Word
  textVa : Nat
  textLen : Nat
  textFrames : List Nat
  otherFrames : List Nat
  dataFrames : List Nat
  imports : List Word
  deriving DecidableEq, Repr

/-- A `mint` request its clerk core has been handed (R382, R385): the core, the strand and the request address that name
it, the four request words, the frames of its image while it is under check (R383), and the result once the clerk core has
finished. -/
structure MintJob where
  core : Nat
  owner : Option SRef
  addr : Word
  words : List Word
  frames : Option (List Nat)
  result : Option Word
  deriving DecidableEq, Repr

/-- One class of a core's capability record (R314). -/
structure AssayRec where
  core : Nat
  cls : Nat
  pass : Nat
  fail : Nat
  lggen : Nat
  cons : Nat
  deriving DecidableEq, Repr

/-- One partition and its Work Scheduler (R33, R118, R297). `oddLines` lists the 128-byte lines whose colour bit is 1
(R354), and `oddSlots` the ring slots last published in colour 1 (R269). `markers` lists the links and virtual channels on
which the marker of the generation being taken has come (R335, R353), and `rolled` the generation a rollback message went back
to, with the links it has come on (R360). -/
structure Partition where
  ptroot : Word
  wqbase : Word
  ctxbase : Word
  evqbase : Word
  prof : BitVec 4
  caplist : Word
  launches : List Launch
  nextSerial : Nat
  nextOrder : Nat
  rrQueue : Nat
  tlb : List TlbEntry
  transit : List TransitEntry
  manifests : List Manifest
  gen : BitVec 32
  taking : Bool
  sealed : BitVec 32
  markers : List (Nat × Nat)
  rolled : Option (BitVec 32 × List Nat)
  doneMsgs : List (BitVec 32 × BitVec 12)
  vaulted : Bool
  objSerial : Nat
  objs : List ObjRec
  mints : List MintJob
  lostEvt : List Nat
  jmap : Bytes
  oddLines : List Nat
  oddSlots : List Nat
  deriving DecidableEq, Repr

/-- vaultctl (Table 5.6) and the swap in progress (R303): whether it has a deadline, whether that has passed, and the
core of the partition that issued it from a handler. -/
structure Vault where
  err : Bool
  dir : Bool
  busy : Bool
  pidx : Nat
  dl : Bool
  due : Bool
  issuer : Option Nat
  deriving DecidableEq, Repr

/-- What firmware sets a partition up with (R392): its registers, the capability list's first entry, and the job block. -/
structure SetupCfg where
  ptroot : Word
  wqbase : Word
  ctxbase : Word
  evqbase : Word
  caplist : Word
  job : List Byte
  deriving DecidableEq, Repr

/-- The next mover: a step of another agent (a row of the table without an encoding), a change of the core whose
turn it is, a change of the lag policy, a held store becoming readable in its rib (R255), the access unit performing the
elements below `upTo` of the VIQ entry at a position (R105, R263), the copy engine reading or performing one element of a
copy (R278), the Clearing House reading one send element of an instance (R345), a packet's landing (R354), or firmware setting
up a partition (R392). -/
inductive Act where
  | event (i : Instr)
  | core (n : Nat)
  | lag (b : Bool)
  | rib (n : Nat)
  | part (pos upTo : Nat)
  | copyRead (pos elem : Nat)
  | copyElem (pos elem : Nat)
  | collRead (pos elem : Nat)
  | landed (n : Nat)
  | setup (k : Nat) (cfg : SetupCfg)
  deriving DecidableEq, Repr

/-- The chip. -/
structure State where
  core : Core
  cores : List (Nat × Core)
  mem : Bytes
  ecc : List (Nat × Ecc)
  parts : List Partition
  pcnt : BitVec 3
  chip : BitVec 12
  inReset : Bool
  tdp : Word
  clock : Nat
  halted : Bool
  measure : Vector (BitVec 256) 4
  tcmds : List TcmdOp
  heldStores : List Held
  colls : List Coll
  commonsSnap : List (Nat × Nat)
  vault : Vault
  assayQ : List (Nat × AssayReq)
  assayRecs : List AssayRec
  assayRuns : List (Nat × Nat)
  remapped : List Nat
  invPort : List (Nat × Word)
  links : List (Nat × Nat)
  mboxWait : List Nat
  outMsgs : List Msg
  flights : List Flight
  agenda : List Act
  lag : Bool
  draws : Nat
  deriving DecidableEq, Repr

/-- Why a step stops with a fault. -/
inductive Fault where
  /-- Raised by a step of the Work Scheduler or the fabric logic whose control block (R287, R336, R340) lies at an
  address that does not translate or does not exist; the spec names no outcome. Safe. -/
  | controlBlock (a : Nat)
  deriving DecidableEq, Repr

/-- Why a step has no meaning. -/
inductive Refusal where
  /-- Raised by an arm of Dispatch.lean whose instruction has no meaning yet. Safe. -/
  | notModelled (mnemonic : String)
  /-- Raised by an access to a device port other than the invalidation port (R415: the ports' addresses and
  behaviour are given by the capability list, not by the spec). Safe. -/
  | devicePort (a : Nat)
  deriving DecidableEq, Repr

/-- A vacant vector register (R36, R108). -/
def VReg.vacant : VReg := ⟨0, 0, .vacant, none, []⟩

/-- A mask with all bits 0 (R36). -/
def MReg.clear : MReg := ⟨.full, []⟩

/-- An unallocated slot (R36). -/
def Slot.free : Slot := ⟨false, false, 0, 0, 0, 0, false, false, 0, 0⟩

/-- An inactive level (R36). -/
def Level.off : Level := ⟨0, 0, 0, 0, false, false⟩

/-- The user CSRs at reset (Table 5.4). -/
def UCsr.reset : UCsr := ⟨0, 0, 0, 0, 0, 0, 0, 0, 0, 0, 0, 0, 0, 0, 0, 0, 0, 0, 0, 0, 0⟩

/-- The context a core holds after reset: Table 2.1's values, and the values of log 2 where it gives none. -/
def Ctx.reset : Ctx where
  x := Vector.replicate 32 0
  pc := Config.resetPc
  v := Vector.replicate 32 VReg.vacant
  m := Vector.replicate 8 MReg.clear
  q := Vector.replicate 4 []
  slots := Vector.replicate 256 Slot.free
  pool := []
  accw := 0
  pocket := []
  pocketEcc := []
  pocb := 0
  loops := Vector.replicate 6 Level.off
  sr := ⟨0, []⟩
  atab := []
  u := UCsr.reset
  vlProv := none
  nc := 2
  gc := 0
  cycle := 0
  instret := 0
  viq := []
  viqNext := 0
  srq := []
  cable := []
  cableSusp := false
  vfault := none
  cpyPoison := none
  overdraft := none
  rbEntry := none
  esc := none
  escLast := ⟨0, 0, 0, 0⟩
  dcache := []
  snapGen := 0
  snapCol := false
  strandid := 0
  usemask := 0
  barGen := none
  barrier := none
  atPoint := true

/-- The base CSRs at reset: the base gives MIE = MPRV = 0; UXL = SXL = 2 read as constants; the rest is log 2. -/
def SysCsr.reset : SysCsr :=
  ⟨0xA00000000, 0, 0, 0, 0, 0, 0, 0, 0, 0, 0, 0, 0, 0, 0, 0⟩

/-- A core after reset: M-mode at the reset vector, no strand, every class available (R87, R314; log 2). A clerk core has
no U-mode, so its MPP and SPP start at legal values (log 43). -/
def Core.reset (n : Nat) : Core where
  id := n
  priv := .machine
  ctx := Ctx.reset
  csr := if 256 ≤ n then { SysCsr.reset with mstatus := 0xA00001900 } else SysCsr.reset
  mipSoft := 0
  strand := none
  assaycap := 0x7FFFFFFF
  copies := []
  resv := none
  icache := []
  stop := none
  gift := none
  migrate := false
  wfi := false
  helperOf := none
  assay := false
  hwait := none

/-- A partition after reset (Table 5.6, R336). -/
def Partition.reset : Partition where
  ptroot := 0
  wqbase := 0
  ctxbase := 0
  evqbase := 0
  prof := 0xF
  caplist := 0
  launches := []
  nextSerial := 0
  nextOrder := 0
  rrQueue := 0
  tlb := []
  transit := []
  manifests := []
  gen := 0
  taking := false
  sealed := 0
  markers := []
  rolled := none
  doneMsgs := []
  vaulted := false
  objSerial := 0
  objs := []
  mints := []
  lostEvt := []
  jmap := []
  oddLines := []
  oddSlots := []

/-- The chip right after reset. Memory holds the one word whose value the spec gives: the TDP in the counter block (Table
16.2, R388). -/
def State.reset : State where
  core := Core.reset 0
  cores := []
  mem := [(Config.commonsBase + 0x0BFFF068, 0x98), (Config.commonsBase + 0x0BFFF069, 0x08)]
  ecc := []
  parts := List.replicate 16 Partition.reset
  pcnt := 0
  chip := 0
  inReset := false
  tdp := 2200
  clock := 0
  halted := false
  measure := Vector.replicate 4 0
  tcmds := []
  heldStores := []
  colls := []
  commonsSnap := []
  vault := ⟨false, false, false, 0, false, false, none⟩
  assayQ := []
  assayRecs := []
  assayRuns := []
  remapped := []
  invPort := []
  links := []
  mboxWait := []
  outMsgs := []
  flights := []
  agenda := []
  lag := false
  draws := 0

end Sys2Proof.Machine
end

