-- ==== Sys2Proof/Machine/Bytes.lean ====
section
/-! DEFINITION. The sparse byte store in its one canonical form, wider little-endian accesses built from bytes in one
place, and the sparse store of generator words (R28, R81: words are little-endian). -/

namespace Sys2Proof.Machine

/-- The byte at an address; an unlisted address reads 0 (log 9). -/
def getByte : Bytes → Nat → Byte
  | [], _ => 0
  | (k, v) :: t, a => if a = k then v else if a < k then 0 else getByte t a

/-- Write one byte, keeping addresses rising and zero bytes unlisted. -/
def setByte : Bytes → Nat → Byte → Bytes
  | [], a, b => if b = 0 then [] else [(a, b)]
  | (k, v) :: t, a, b =>
    if a < k then if b = 0 then (k, v) :: t else (a, b) :: (k, v) :: t
    else if a = k then if b = 0 then t else (a, b) :: t
    else (k, v) :: setByte t a b

/-- The canonical form: addresses strictly rising, no byte 0. -/
def wfBytes : Bytes → Bool
  | [] => true
  | (k, v) :: t => decide (v ≠ 0) && t.all (fun c => decide (k < c.1)) && wfBytes t

/-- n bytes from address a upward. -/
def getBytes (m : Bytes) (a : Nat) : Nat → List Byte
  | 0 => []
  | n + 1 => getByte m a :: getBytes m (a + 1) n

/-- Write a run of bytes from address a upward. -/
def setBytes (m : Bytes) (a : Nat) : List Byte → Bytes
  | [] => m
  | b :: t => setBytes (setByte m a b) (a + 1) t

/-- The number a run of bytes holds, lowest address least significant. -/
def leNat : List Byte → Nat
  | [] => 0
  | b :: t => b.toNat + 256 * leNat t

/-- The n bytes of a number, least significant first. -/
def natBytes : Nat → Nat → List Byte
  | 0, _ => []
  | n + 1, v => BitVec.ofNat 8 v :: natBytes n (v / 256)

/-- The n-byte number at address a. -/
def getLe (m : Bytes) (a n : Nat) : Nat := leNat (getBytes m a n)

/-- Write the n low bytes of a number at address a. -/
def setLe (m : Bytes) (a n v : Nat) : Bytes := setBytes m a (natBytes n v)

/-- The 64-bit word of a run of bytes. -/
def leWord (bs : List Byte) : Word := BitVec.ofNat 64 (leNat bs)

/-- Cells of a store with addresses in [lo, hi). -/
def cutBytes (m : Bytes) (lo hi : Nat) : Bytes := m.filter fun c => decide (lo ≤ c.1) && decide (c.1 < hi)

/-- Cells with addresses outside [lo, hi): the range reads 0 afterwards. -/
def clearBytes (m : Bytes) (lo hi : Nat) : Bytes := m.filter fun c => !(decide (lo ≤ c.1) && decide (c.1 < hi))

/-- Bit i of a bit string held in bytes (bit i mod 8 of byte i / 8, R109). -/
def getBit (m : Bytes) (i : Nat) : Bool := (getByte m (i / 8)).getLsbD (i % 8)

/-- Write bit i of a bit string. -/
def setBit (m : Bytes) (i : Nat) (b : Bool) : Bytes :=
  let v := getByte m (i / 8)
  let k : Byte := 1#8 <<< (i % 8)
  setByte m (i / 8) (if b then v ||| k else v &&& ~~~k)

/-- The half byte at nibble i: low nibble for even i (R59, R221). -/
def getNibble (m : Bytes) (i : Nat) : BitVec 4 := (getByte m (i / 2)).extractLsb' (4 * (i % 2)) 4

/-- Write nibble i, keeping the other nibble of its byte (R221). -/
def setNibble (m : Bytes) (i : Nat) (v : BitVec 4) : Bytes :=
  let b := getByte m (i / 2)
  setByte m (i / 2) (if i % 2 = 0 then b.extractLsb' 4 4 ++ v else v ++ b.extractLsb' 0 4)

/-- The listed value at an index. -/
def findWord : Words → Nat → Option Word
  | [], _ => none
  | (k, v) :: t, i => if i = k then some v else if i < k then none else findWord t i

/-- List a value at an index, indexes rising. -/
def putWord : Words → Nat → Word → Words
  | [], i, w => [(i, w)]
  | (k, v) :: t, i, w =>
    if i < k then (i, w) :: (k, v) :: t else if i = k then (i, w) :: t else (k, v) :: putWord t i w

/-- Indexes of a word store strictly rising. -/
def wfWords : Words → Bool
  | [] => true
  | (k, _) :: t => t.all (fun c => decide (k < c.1)) && wfWords t

/-- Replace the element at an index of a list (no effect past its end). -/
def setAt {α : Type} : List α → Nat → α → List α
  | [], _, _ => []
  | _ :: t, 0, x => x :: t
  | y :: t, n + 1, x => y :: setAt t n x

/-- Update the first element that satisfies a test. -/
def updFirst {α : Type} (p : α → Bool) (f : α → α) : List α → List α
  | [] => []
  | y :: t => if p y then f y :: t else y :: updFirst p f t

/-- Keep each element once, in first-met order. -/
def addNew (xs : List Nat) (n : Nat) : List Nat := if n ∈ xs then xs else xs ++ [n]

/-- The numbers lo, lo + 1, … (n of them). -/
def upFrom (lo : Nat) : Nat → List Nat
  | 0 => []
  | n + 1 => lo :: upFrom (lo + 1) n

end Sys2Proof.Machine
end

