-- ==== Sys2Proof/Machine/Ops.lean ====
section
/-! DEFINITION. The named operations every meaning shares: cores and partitions, the scalar registers, the escrow
focus, taking an exception (R364 to R369) and returning from one (R370), and retiring an instruction with the loop
stack's end-of-iteration rule (R186, R187). -/

namespace Sys2Proof.Machine

/-- Why an operation of an instruction does not complete. -/
inductive Exc where
  /-- a synchronous trap with its stval (Table 18.1) -/
  | trap (cause : BitVec 6) (tval : Word)
  /-- the thread stalls and tries again (R270) -/
  | stall
  /-- the strand waits on a Commons word, BLOCKED (R37) -/
  | block (addr : Word) (op : WaitOp)
  /-- a device port other than the invalidation port (R415) -/
  | port (a : Nat)
  deriving DecidableEq, Repr

/-- A computation over the state that may end in an `Exc`, keeping what it has done. -/
abbrev M := ExceptT Exc (StateM State)

/-- Raise a trap inside a computation. -/
def trapM {α : Type} (cause : BitVec 6) (tval : Word) : M α := throw (.trap cause tval)

/-! ## Causes (Table 18.1) -/

def cMisFetch : BitVec 6 := 0
def cFetchAccess : BitVec 6 := 1
def cIllegal : BitVec 6 := 2
def cBreak : BitVec 6 := 3
def cMisLoad : BitVec 6 := 4
def cLoadAccess : BitVec 6 := 5
def cMisStore : BitVec 6 := 6
def cStoreAccess : BitVec 6 := 7
def cFetchPage : BitVec 6 := 12
def cLoadPage : BitVec 6 := 13
def cStorePage : BitVec 6 := 15
def cEmpty : BitVec 6 := 24
def cTag : BitVec 6 := 25
def cVlover : BitVec 6 := 26
def cOffset : BitVec 6 := 27
def cVmem : BitVec 6 := 28
def cFenced : BitVec 6 := 29
def cPoison : BitVec 6 := 30
def cLatepf : BitVec 6 := 31
def cLoop : BitVec 6 := 48
def cEscrow : BitVec 6 := 49
def cObject : BitVec 6 := 50
def cRing : BitVec 6 := 51
def cOverdraft : BitVec 6 := 52
def cTeller : BitVec 6 := 53
def cRollback : BitVec 6 := 54
def cProfile : BitVec 6 := 55

/-! ## Cores and partitions (R31, R33) -/

/-- The core's live strand context. -/
abbrev State.ctx (s : State) : Ctx := s.core.ctx

/-- Replace the live context. -/
def State.setCtx (s : State) (c : Ctx) : State := { s with core := { s.core with ctx := c } }

/-- Update the live context. -/
def State.mapCtx (s : State) (f : Ctx → Ctx) : State := s.setCtx (f s.core.ctx)

/-- Update the user CSRs of the live context. -/
def State.mapU (s : State) (f : UCsr → UCsr) : State := s.mapCtx fun c => { c with u := f c.u }

/-- Clerk cores are 256 to 271 (R31). -/
def isClerk (n : Nat) : Bool := decide (256 ≤ n)

/-- The rib of a core. -/
def ribOf (n : Nat) : Nat := if n < 256 then n / 16 else n - 256

/-- Partitions in force (R33). -/
def State.nparts (s : State) : Nat := 2 ^ min s.pcnt.toNat 4

/-- The partition that holds a core's rib (R33, R416). -/
def State.partOfCore (s : State) (n : Nat) : Nat := ribOf n / (16 / s.nparts)

/-- The partition of the core whose turn it is. -/
def State.pidx (s : State) : Nat := s.partOfCore s.core.id

/-- A partition. -/
def State.part (s : State) (k : Nat) : Partition := s.parts.getD k Partition.reset

/-- Replace a partition. -/
def State.setPart (s : State) (k : Nat) (p : Partition) : State := { s with parts := setAt s.parts k p }

/-- Update a partition. -/
def State.mapPart (s : State) (k : Nat) (f : Partition → Partition) : State := s.setPart k (f (s.part k))

/-- The listed core of a number. -/
def findCore : List (Nat × Core) → Nat → Core
  | [], n => Core.reset n
  | (k, c) :: t, n => if k = n then c else findCore t n

/-- List a core under its number, numbers rising. -/
def putCore : List (Nat × Core) → Nat → Core → List (Nat × Core)
  | [], n, c => [(n, c)]
  | (k, d) :: t, n, c =>
    if n < k then (n, c) :: (k, d) :: t else if n = k then (n, c) :: t else (k, d) :: putCore t n c

/-- A core of the chip. -/
def State.coreAt (s : State) (n : Nat) : Core := if s.core.id = n then s.core else findCore s.cores n

/-- Replace a core of the chip (under its own number). -/
def State.putCoreAt (s : State) (n : Nat) (c : Core) : State :=
  if s.core.id = n then { s with core := c } else { s with cores := putCore s.cores n c }

/-- Update a core of the chip. -/
def State.mapCoreAt (s : State) (n : Nat) (f : Core → Core) : State := s.putCoreAt n (f (s.coreAt n))

/-- Give the turn to another core. -/
def State.switchCore (s : State) (n : Nat) : State :=
  if s.core.id = n then s
  else { s with core := findCore s.cores n, cores := putCore s.cores s.core.id s.core }

/-- The cores that are not at their reset value, the current one first. -/
def State.liveCores (s : State) : List Nat :=
  s.core.id :: (s.cores.map Prod.fst).filter fun n => decide (n ≠ s.core.id)

/-! ## Scalar registers (R14, R93) -/

/-- Read a scalar register: x0 reads 0. -/
def Ctx.getX (c : Ctx) (r : XReg) : Word := if r = 0 then 0 else c.x[r.toNat]

/-- Write a scalar register: a write to x0 is discarded. -/
def Ctx.setX (c : Ctx) (r : XReg) (v : Word) : Ctx := if r = 0 then c else { c with x := c.x.set r.toNat v }

/-- Read a scalar register of the thread whose turn it is. -/
def State.x (s : State) (r : XReg) : Word := s.ctx.getX r

/-- Write a scalar register of the thread whose turn it is. -/
def State.setX (s : State) (r : XReg) (v : Word) : State := s.setCtx (s.ctx.setX r v)

/-! ## The loop stack (R112, R184) -/

/-- The highest active level, none if no level is active. -/
def topLevel (ls : Vector Level 6) : Option Nat :=
  if ls[5].act then some 5 else if ls[4].act then some 4 else if ls[3].act then some 3
  else if ls[2].act then some 2 else if ls[1].act then some 1 else if ls[0].act then some 0 else none

/-- Deactivate level n and every level above it. -/
def popFrom (ls : Vector Level 6) (n : Nat) : Vector Level 6 :=
  Vector.ofFn fun (i : Fin 6) => if n ≤ i.val then { ls[i] with act := false, susp := false } else ls[i]

/-- True when some active level has S = 1. -/
def anySusp (ls : Vector Level 6) : Bool := ls.toList.any fun l => l.act && l.susp

/-- One level's end of iteration (R186): the next pc and the level, popped when its count reaches 0. -/
def endIter (l : Level) (np : Word) : Level × Word × Bool :=
  let r := l.rem - 1
  let l' := { l with rem := r, idx := l.idx + 1 }
  if r = 0 then ({ l' with act := false, susp := false }, np, true) else (l', l.start, false)

/-- Fall past body ends at pc `np`, from the innermost active level outward (R186); a level that is suspended or whose body
ends elsewhere is not matched (R184). `esc` is the escrow level, which ends its iterations by R198 instead. -/
def fallPast (ls : Vector Level 6) (esc : Option Nat) : Nat → Word → Vector Level 6 × Word
  | 0, np => (ls, np)
  | k + 1, np =>
    if h : k < 6 then
      let l := ls[k]
      if !l.act || l.susp || decide (l.stop + 4 ≠ np) then fallPast ls esc k np
      else if esc = some k then (ls, np)
      else
        match endIter l np with
        | (l', np', true) => fallPast (ls.set k l') esc k np'
        | (l', np', false) => (ls.set k l', np')
    else (ls, np)

/-- The lowest active, unsuspended level whose body does not hold a jump target, unless the body of a
higher-numbered active level holds it (R187). -/
def jumpPops (ls : Vector Level 6) (tgt : Word) : Option Nat :=
  let out (i : Nat) : Bool :=
    let l := ls.toList.getD i Level.off
    l.act && !l.susp && (tgt.ult l.start || l.stop.ult tgt)
  let inside (i : Nat) : Bool :=
    let l := ls.toList.getD i Level.off
    l.act && !(tgt.ult l.start || l.stop.ult tgt)
  (upFrom 0 6).find? fun i => out i && !((upFrom (i + 1) (5 - i)).any inside)

/-! ## Escrow focus (R196) -/

/-- The open escrow loop while its level is active. -/
def Ctx.escActive (c : Ctx) : Option Escrow :=
  match c.esc with
  | some e => if e.level.isSome && !e.done then some e else none
  | none => none

/-- The number of the escrow level while it is active. -/
def Ctx.escLevel (c : Ctx) : Option Nat := c.escActive.bind fun e => e.level.map BitVec.toNat

/-- The participant whose state the context holds. -/
def Escrow.focusPart (e : Escrow) : Option EscPart := e.parts[e.focus]?

/-- True while the thread whose turn it is runs a speculative iteration or a guess routine (R196). -/
def Ctx.isSpec (c : Ctx) : Bool :=
  match c.escActive with
  | some e =>
    match e.focusPart with
    | some p => p.guessing || decide (p.iter ≠ some e.oldest)
    | none => false
  | none => false

/-- True while the thread whose turn it is runs a guess routine (R197). -/
def Ctx.isGuess (c : Ctx) : Bool :=
  match c.escActive with
  | some e => match e.focusPart with
    | some p => p.guessing
    | none => false
  | none => false

/-- The loop stack as iteration j of the escrow level sees it: index j, remaining t − j (R192, R197). -/
def Escrow.loopsFor (e : Escrow) (ls : Vector Level 6) (j : Nat) : Vector Level 6 :=
  match e.level with
  | some l =>
    if h : l.toNat < 6 then
      ls.set l.toNat { ls[l.toNat] with idx := BitVec.ofNat 64 j, rem := e.trip - BitVec.ofNat 64 j }
    else ls
  | none => ls

/-- Put the context's x and pc back into the focus participant. -/
def Ctx.storeFocus (c : Ctx) (e : Escrow) : Escrow :=
  { e with parts := match e.focusPart with
    | some p => setAt e.parts e.focus { p with x := c.x, pc := c.pc }
    | none => e.parts }

/-- Make participant k the one the context holds. -/
def Ctx.focusOn (c : Ctx) (k : Nat) : Ctx :=
  match c.esc with
  | none => c
  | some e =>
    let e' := c.storeFocus e
    match e'.parts[k]? with
    | none => c
    | some p =>
      { c with
        x := p.x
        pc := p.pc
        loops := e'.loopsFor c.loops (p.iter.getD e'.oldest)
        esc := some { e' with focus := k } }

/-- The position of the participant that runs the oldest iteration. -/
def Escrow.oldestPart (e : Escrow) : Nat :=
  (e.parts.findIdx? fun p => decide (p.iter = some e.oldest) && !p.guessing).getD 0

/-- Registers of an iteration: the home strand's at the escrow `loop`, with the carries taken from `out` (R197). -/
def Escrow.withCarries (e : Escrow) (out : Vector Word 32) : Vector Word 32 :=
  Vector.ofFn fun (i : Fin 32) => if e.cmask.getLsbD i.val then out[i] else e.entryX[i]

/-- Body start of the escrow level. -/
def Escrow.bodyStart (e : Escrow) (ls : Vector Level 6) : Word :=
  match e.level with
  | some l => (ls.toList.getD l.toNat Level.off).start
  | none => 0

/-- A participant cleared of its iteration's escrow, read set and held conditions (R199). -/
def EscPart.clean (p : EscPart) : EscPart :=
  { p with
    guessing := false
    steps := 0
    waiting := false
    stalled := false
    trapped := false
    retired := 0
    reads := []
    lines := []
    stores := []
    written := []
    writes := []
    pages := []
    csrVl := none
    csrXf := none }

/-- Start iteration j as the oldest, with the true carries (R197). -/
def Escrow.startOldest (e : Escrow) (ls : Vector Level 6) (p : EscPart) (j : Nat) : EscPart :=
  { p.clean with iter := some j, x := e.withCarries e.outX, pc := e.bodyStart ls, guess := e.withCarries e.outX }

/-- Start iteration j speculatively: its guess routine runs first, with a0 = j and a1 the last completed iteration,
all ones if none (R197). DESIGN CHOICE (log 97): where CMASK names x10 or x11 the routine starts with j and the last
iteration in them all the same, and a routine that ends early gives back the true carries. -/
def Escrow.startGuess (e : Escrow) (p : EscPart) (j : Nat) : EscPart :=
  let base := e.withCarries e.outX
  let lastW : Word := match e.last with
    | some n => BitVec.ofNat 64 n
    | none => BitVec.allOnes 64
  { p.clean with
    iter := some j
    x := (base.set 10 (BitVec.ofNat 64 j)).set 11 lastW
    pc := e.gpc
    guess := base
    guessing := true }

/-- End the focus participant's guess routine (R197): with `keep` its carries are the routine's, otherwise the ones
the routine started with. DESIGN CHOICE (log 97): the lines its loads read are in the read set only while it runs. -/
def Ctx.endGuess (c : Ctx) (keep : Bool) : Ctx :=
  match c.esc with
  | none => c
  | some e =>
    match e.focusPart with
    | none => c
    | some p =>
      let x := if keep then e.withCarries c.x else p.guess
      let pc := e.bodyStart c.loops
      let p' := { p.clean with iter := p.iter, x := x, pc := pc, guess := x }
      { c with x := x, pc := pc, esc := some { e with parts := setAt e.parts e.focus p' } }

/-- Squash every speculative iteration and move the oldest's state to the home core (R196, R202, R203): the loop
goes on at width 1. -/
def Ctx.narrow (c : Ctx) : Ctx :=
  match c.escActive with
  | none => c
  | some e0 =>
    let c := c.focusOn e0.oldestPart
    match c.esc with
    | none => c
    | some e =>
      match e.parts.find? fun p => p.home, e.focusPart with
      | some home, some cur =>
        { c with esc := some { e with
            parts := [{ cur.clean with core := home.core, home := true }]
            focus := 0
            narrow := true } }
      | _, _ => c

/-- Escrow ways in use in a rib (R195): four at most. -/
def waysUsed (s : State) (rib : Nat) : Nat :=
  (s.liveCores.filter fun n => decide (ribOf n = rib) && !isClerk n &&
    (match (s.coreAt n).ctx.esc with
      | some e => e.way
      | none => false)).length

/-- Free the helper cores of a home core. -/
def State.freeHelpers (s : State) (home : Nat) : State :=
  let free (c : Core) : Core := if c.helperOf = some home then { c with helperOf := none } else c
  { s with core := free s.core, cores := s.cores.map fun p => (p.1, free p.2) }

/-- Squash the speculative iterations of the core whose turn it is, freeing its helpers (R202). -/
def State.narrow (s : State) : State :=
  if s.ctx.escActive.isSome then (s.mapCtx Ctx.narrow).freeHelpers s.core.id else s

/-! ## Taking an exception -/

/-- Bits of mstatus. -/
def bitSIE : Nat := 1
def bitMIE : Nat := 3
def bitSPIE : Nat := 5
def bitMPIE : Nat := 7
def bitSPP : Nat := 8
def bitMPRV : Nat := 17
def bitSUM : Nat := 18
def bitMXR : Nat := 19
def bitTVM : Nat := 20
def bitTW : Nat := 21
def bitTSR : Nat := 22

/-- Write one bit of a word. -/
def putBit (w : Word) (i : Nat) (b : Bool) : Word :=
  let k : Word := 1#64 <<< i
  if b then w ||| k else w &&& ~~~k

/-- mstatus.MPP as a privilege; the reserved value 2 is never stored. -/
def mppOf (m : Word) : Priv :=
  if m.extractLsb' 11 2 = 0 then .user else if m.extractLsb' 11 2 = 1 then .supervisor else .machine

/-- The two bits of a privilege (the base). -/
def privBits : Priv → BitVec 2
  | .user => 0
  | .supervisor => 1
  | .machine => 3

/-- Write mstatus.MPP. -/
def putMpp (m : Word) (p : Priv) : Word :=
  (m &&& ~~~(3#64 <<< 11)) ||| ((privBits p).setWidth 64 <<< 11)

/-- The privilege a trap is taken to (R364): S when delegated from U or S, and always for ROLLBACK_ENTRY. -/
def trapTarget (c : Core) (isInt : Bool) (cause : BitVec 6) : Priv :=
  if !isInt && decide (cause = cRollback) then .supervisor
  else if c.priv = .machine then .machine
  else if (if isInt then c.csr.mideleg else c.csr.medeleg).getLsbD cause.toNat then .supervisor
  else .machine

/-- The cause register's word: bit 63 marks an interrupt (the base). -/
def causeWord (isInt : Bool) (cause : BitVec 6) : Word :=
  cause.setWidth 64 ||| (if isInt then 1#64 <<< 63 else 0)

/-- S on every active level (R189, R369 step 2). -/
def suspendLoops (ls : Vector Level 6) : Vector Level 6 := ls.map fun l => { l with susp := l.act }

/-- S cleared on every level (R189, R370). -/
def resumeLoops (ls : Vector Level 6) : Vector Level 6 := ls.map fun l => { l with susp := false }

/-- Take an exception or interrupt (R364, R369): the saved pc, cause and value, the status fields, the mode, S on
every active level, the descriptor cache and the reservation dropped, and the pc at the vector base. -/
def enterTrap (s : State) (isInt : Bool) (cause : BitVec 6) (tval : Word) : State :=
  let c := s.core
  let m := c.csr.mstatus
  let cx := { c.ctx with loops := suspendLoops c.ctx.loops, dcache := [] }
  match trapTarget c isInt cause with
  | .supervisor =>
    let m' := putBit (putBit (putBit m bitSPIE (m.getLsbD bitSIE)) bitSIE false) bitSPP (decide (c.priv ≠ .user))
    { s with core := { c with
        priv := .supervisor
        resv := none
        wfi := false
        csr := { c.csr with
          mstatus := m'
          sepc := c.ctx.pc
          scause := causeWord isInt cause
          stval := tval }
        ctx := { cx with pc := c.csr.stvec } } }
  | .user | .machine =>
    let m' := putMpp (putBit (putBit m bitMPIE (m.getLsbD bitMIE)) bitMIE false) c.priv
    { s with core := { c with
        priv := .machine
        resv := none
        wfi := false
        csr := { c.csr with
          mstatus := m'
          mepc := c.ctx.pc
          mcause := causeWord isInt cause
          mtval := tval }
        ctx := { cx with pc := c.csr.mtvec } } }

/-- Hold a trap of a speculative iteration: the iteration stops (R201). -/
def holdTrap (s : State) : State :=
  s.mapCtx fun c =>
    match c.esc with
    | some e => { c with esc := some { e with parts := match e.focusPart with
        | some p => setAt e.parts e.focus { p with trapped := true }
        | none => e.parts } }
    | none => c

/-- A synchronous trap of the scalar thread: it ends a guess routine (R197), is held in a speculative iteration
(R201); otherwise the speculative iterations are squashed and the trap is taken on the home core (R202). -/
def raiseTrap (s : State) (cause : BitVec 6) (tval : Word) : State :=
  if s.ctx.isGuess then s.mapCtx fun c => c.endGuess false
  else if s.ctx.isSpec then holdTrap s else enterTrap s.narrow false cause tval

/-! ## Returning from an exception (R370) -/

/-- An entry re-armed: F restarts at the value `ves` holds now (R274). -/
def VEntry.rearm (ves : Word) (e : VEntry) : VEntry :=
  let n := if e.faulting then ves.toNat else e.start
  { e with frozen := false, start := n, base := n, undo := none }

/-- Re-arm frozen entries (R274): they resume in order, F restarting at `ves`. A fault that has not been taken yet
keeps them frozen, and is taken first (R272). -/
def Ctx.rearm (c : Ctx) : Ctx :=
  if c.vfault.isSome || !(c.viq.any fun e => e.frozen) then c
  else { c with viq := c.viq.map fun e => if e.frozen then e.rearm c.u.ves else e }

/-- What both returns do besides the base: S cleared on every level, and frozen entries re-armed on a return to
U-mode. -/
def afterReturn (s : State) : State :=
  s.mapCtx fun c =>
    let c := { c with loops := resumeLoops c.loops }
    if s.core.priv = .user then c.rearm else c

/-- The least privileged mode of a core: S on a clerk core, which has no U-mode (R87). -/
def lowestPriv (n : Nat) : Priv := if isClerk n then .supervisor else .user

/-- The base sret. -/
def returnS (s : State) : State :=
  let c := s.core
  let m := c.csr.mstatus
  let p : Priv := if m.getLsbD bitSPP then .supervisor else .user
  let m1 := putBit (putBit (putBit m bitSIE (m.getLsbD bitSPIE)) bitSPIE true) bitSPP (isClerk c.id)
  let m2 := putBit m1 bitMPRV false
  afterReturn { s with core := { c with
    priv := p
    csr := { c.csr with mstatus := m2 }
    ctx := { c.ctx with pc := c.csr.sepc } } }

/-- The base mret; MPP becomes the least privileged mode. -/
def returnM (s : State) : State :=
  let c := s.core
  let m := c.csr.mstatus
  let p := mppOf m
  let m1 := putMpp (putBit (putBit m bitMIE (m.getLsbD bitMPIE)) bitMPIE true) (lowestPriv c.id)
  let m2 := if p = .machine then m1 else putBit m1 bitMPRV false
  afterReturn { s with core := { c with
    priv := p
    csr := { c.csr with mstatus := m2 }
    ctx := { c.ctx with pc := c.csr.mepc } } }

/-! ## Retiring an instruction -/

/-- Count one executed instruction of the thread whose turn it is: instret by 1, or, in a speculative iteration, which may
still be squashed, in its participant's own count (R88, R196). -/
def Ctx.countRetired (c : Ctx) : Ctx :=
  if c.isSpec then
    { c with esc := c.esc.map fun e => { e with parts := match e.focusPart with
      | some p => setAt e.parts e.focus { p with retired := p.retired + 1 }
      | none => e.parts } }
  else { c with instret := c.instret + 1 }

/-- Count one retired instruction: instret by 1, cycle by a free amount (R88). DESIGN CHOICE (log 120): the instructions of a
handler count on the strand it runs for, in every mode. -/
def tick (s : State) : State :=
  { s.mapCtx (fun c => { c.countRetired with cycle := c.cycle + Config.cyclesOf s.draws }) with
    draws := s.draws + 1 }

/-- Retire to an address given by the instruction itself. -/
def retireAt (s : State) (np : Word) : State :=
  tick (s.mapCtx fun c => { c with pc := np, atPoint := (topLevel c.loops).isNone })

/-- Retire by sequential flow to np, ending iterations whose body end it passes (R186). The end of an iteration of the
innermost active level is a pre-emption point, and so is every boundary with no level active (R40). -/
def retireTo (s : State) (np : Word) : State :=
  tick (s.mapCtx fun c =>
    let (ls, p) := fallPast c.loops c.escLevel 6 np
    { c with
      loops := ls
      pc := p
      atPoint := match topLevel c.loops with
        | some k => decide (ls.toList.getD k Level.off ≠ c.loops.toList.getD k Level.off)
        | none => true })

/-- Retire to the next instruction. -/
def retire (s : State) : State := retireTo s (s.ctx.pc + 4)

/-- The loop stack after a taken jump: levels whose body does not hold the target are popped (R187). A guess routine runs
outside the body, and its jumps leave the loop stack alone (R197). -/
def Ctx.jumpLoops (c : Ctx) (tgt : Word) : Vector Level 6 :=
  if c.isGuess then c.loops
  else match jumpPops c.loops tgt with
  | some n => popFrom c.loops n
  | none => c.loops

/-- Retire a taken jump (R187). -/
def retireJump (s : State) (tgt : Word) : State :=
  tick (s.mapCtx fun c =>
    { c with loops := c.jumpLoops tgt, pc := tgt, atPoint := (topLevel (c.jumpLoops tgt)).isNone })

/-- A fresh draw number for a free value. -/
def drawM : M Nat := do
  let s ← get
  set { s with draws := s.draws + 1 }
  return s.draws

/-- Update one launch of a partition. -/
def Partition.mapLaunch (p : Partition) (serial : Nat) (f : Launch → Launch) : Partition :=
  { p with launches := updFirst (fun l => decide (l.serial = serial)) f p.launches }

/-- Update one strand of a launch. -/
def Launch.mapStrand (l : Launch) (stage idx : Nat) (f : Strand → Strand) : Launch :=
  { l with strands := updFirst (fun t => decide (t.stage = stage ∧ t.idx = idx)) f l.strands }

/-- Update the record of one strand of a partition. -/
def State.mapStrand (s : State) (k : Nat) (r : SRef) (f : Strand → Strand) : State :=
  s.mapPart k fun p => p.mapLaunch r.launch fun l => l.mapStrand r.stage r.idx f

/-- The thread waits at the instruction at its pc, on a Commons word (R37): a strand in U-mode is BLOCKED; a wait made by a
handler, or by a core with no strand, stands with the core and leaves the strand's state alone (log 124). -/
def State.blockOn (s : State) (va : Word) (op : WaitOp) : State :=
  let w : Wait := { priv := s.core.priv, pc := s.ctx.pc, va := va, op := op, got := none }
  match s.core.priv, s.core.strand with
  | .user, some r => s.mapStrand s.pidx r fun t =>
      if t.st = .running then { t with st := .blocked, wait := some w } else t
  | .user, none | .supervisor, _ | .machine, _ => { s with core := { s.core with hwait := some w } }

/-- The waiting instruction executes again (R37): a BLOCKED strand is RUNNING, and the result of its wait is taken up. -/
def State.unblock (s : State) : State :=
  match s.core.priv, s.core.strand with
  | .user, some r => s.mapStrand s.pidx r fun t =>
      if t.st = .blocked then { t with st := .running, wait := none, released := none } else { t with released := none }
  | .user, none | .supervisor, _ | .machine, _ => { s with core := { s.core with hwait := none } }

/-- Run an instruction's computation to its outcome: a trap is taken, a stall leaves the instruction to be tried
again, a wait leaves the strand BLOCKED at it. -/
def runM (m : M Unit) (s : State) : Host.Outcome State Fault Refusal :=
  match m.run s with
  | (.ok (), s') => .next s'
  | (.error (.trap cause tval), s') => .next (raiseTrap s' cause tval)
  | (.error .stall, s') => .next s'
  | (.error (.block a op), s') => .next (s'.blockOn a op)
  | (.error (.port a), _) => .refused (.devicePort a)

end Sys2Proof.Machine
end

