-- ==== Sys2Proof/Machine/Mem.lean ====
section
/-! DEFINITION. Memory: physical ranges (R415), ECC and poison (R217 to R219), snapshots' splits and colours on a
write (R354 to R356), page walks and TLBs (R304 to R310), the address forms and windows (R211, R212, R214), and the
scalar access path (R216, R416). -/

namespace Sys2Proof.Machine

/-- What an access does (R307). -/
inductive Acc where
  | fetch | load | store
  deriving DecidableEq, Repr

def Acc.pageCause : Acc → BitVec 6
  | .fetch => cFetchPage
  | .load => cLoadPage
  | .store => cStorePage

def Acc.accessCause : Acc → BitVec 6
  | .fetch => cFetchAccess
  | .load => cLoadAccess
  | .store => cStoreAccess

/-! ## Physical ranges and granules -/

/-- A run of bytes lies in one installed memory (R415). -/
def physOk (a n : Nat) : Bool :=
  decide (a + n ≤ Config.hbmBytes)
  || (decide (Config.tier2Base ≤ a) && decide (a + n ≤ Config.tier2Base + Config.tier2Bytes))
  || (decide (Config.commonsBase ≤ a) && decide (a + n ≤ Config.commonsBase + Config.commonsBytes))

/-- An address in the device-port range (R415). -/
def isPort (a : Nat) : Bool := decide (Config.portBase ≤ a) && decide (a < Config.portBase + Config.portBytes)

/-- A Commons physical address. -/
def isCommons (a : Nat) : Bool :=
  decide (Config.commonsBase ≤ a) && decide (a < Config.commonsBase + Config.commonsBytes)

/-- Pocket granules are keyed past every physical range, since the pocket has no physical address (R415). -/
def pocketKey (core o : Nat) : Nat := 0x100000000000 + core * Config.pocketBytes + o

/-- Granule bytes: 8 in the Commons and the pocket, 32 in HBM and the second tier (Table 10.1). -/
def granuleBytes (a : Nat) : Nat := if isCommons a || decide (0x100000000000 ≤ a) then 8 else 32

/-- The first byte of an address's granule. -/
def granuleOf (a : Nat) : Nat := a / granuleBytes a * granuleBytes a

/-- The listed condition of a granule. -/
def eccAt (s : State) (g : Nat) : Option Ecc := (s.ecc.find? fun p => decide (p.1 = g)).map Prod.snd

/-- Set or clear a granule's condition. -/
def setEcc (s : State) (g : Nat) (e : Option Ecc) : State :=
  let rest := s.ecc.filter fun p => decide (p.1 ≠ g)
  { s with ecc := match e with
    | some v => (g, v) :: rest
    | none => rest }

/-- The Commons offset of a partition's counter block (R333). -/
def counterBlock (s : State) (k : Nat) : Nat :=
  47 * 0x400000 + ((k + 1) * (1024 / s.nparts) - 1) * 4096

/-- The Commons offset of a partition's mailbox (R388). -/
def mailboxOff (s : State) (k : Nat) : Nat := counterBlock s k - 0x400000

/-- The granules that a run of bytes touches, in rising order. -/
def granulesOf (a n : Nat) : List Nat :=
  if n = 0 then [] else
  let g := granuleBytes a
  (upFrom (a / g) ((a + n - 1) / g - a / g + 1)).map (· * g)

/-- A read of a run meets poison (R217, R218): a granule of it is poisoned, or has an uncorrectable error. -/
def runBad (s : State) (a n : Nat) : Bool :=
  (granulesOf a n).any fun g => match eccAt s g with
    | some .uncorrectable | some .poisoned => true
    | some .correctable | none => false

/-! ## Page walks (R304 to R308) -/

/-- The levels of Table 15.1: index shift, index bits. -/
def walkLevels : List (Nat × Nat) := [(31, 15), (26, 5), (21, 5), (16, 5)]

/-- What a walk meets. -/
inductive Walk where
  | leaf (pte : Nat) (w : Word) (va size : Nat)
  | fault
  | access
  | poison (a : Nat)
  deriving DecidableEq, Repr

/-- The reserved bits of a pointer: [21:16] and [7:4] (R306). -/
def pointerOk (w : Word) : Bool := w.extractLsb' 16 6 == 0 && w.extractLsb' 4 4 == 0

/-- The addresses of the entries a walk from the table at `tbl` reads, in order (R304). -/
def walkReads (s : State) (va tbl : Nat) : List (Nat × Nat) → List Nat
  | [] => []
  | (sh, bits) :: rest =>
    let pte := tbl + 8 * (va / 2 ^ sh % 2 ^ bits)
    let w : Word := BitVec.ofNat 64 (getLe s.mem pte 8)
    if decide (Config.hbmBytes < pte + 8) || runBad s pte 8 || !w.getLsbD 0 || decide (w.extractLsb' 1 3 ≠ 0) || !pointerOk w
    then [pte]
    else pte :: walkReads s va ((w.extractLsb' 22 42).toNat * 65536 + (w.extractLsb' 8 8).toNat * 256) rest

/-- Walk from the table at `tbl` down the remaining levels (R304, R306, R307). DESIGN CHOICE (log 117): a table outside HBM is an
access fault. -/
def walkFrom (s : State) (va tbl : Nat) : List (Nat × Nat) → Walk
  | [] => .fault
  | (sh, bits) :: rest =>
    let pte := tbl + 8 * (va / 2 ^ sh % 2 ^ bits)
    if Config.hbmBytes < pte + 8 then .access
    else if runBad s pte 8 then .poison pte
    else
      let w : Word := BitVec.ofNat 64 (getLe s.mem pte 8)
      if !w.getLsbD 0 then .fault
      else if w.extractLsb' 1 3 = 0 then
        if pointerOk w then
          walkFrom s va ((w.extractLsb' 22 42).toNat * 65536 + (w.extractLsb' 8 8).toNat * 256) rest
        else .fault
      else if (w.extractLsb' 22 42).toNat % (2 ^ sh / 65536) ≠ 0 then .fault
      else .leaf pte w (va / 2 ^ sh * 2 ^ sh) (2 ^ sh)

/-- Walk a virtual address from a partition's root. -/
def walk (s : State) (k : Nat) (va : Nat) : Walk := walkFrom s va (s.part k).ptroot.toNat walkLevels

/-- Fields of a leaf (R305). -/
def leafFrame (w : Word) : Nat := (w.extractLsb' 22 42).toNat
def leafLoc (w : Word) : BitVec 2 := w.extractLsb' 10 2
def leafKind (w : Word) : BitVec 2 := w.extractLsb' 8 2
def leafSnap (w : Word) : BitVec 2 := w.extractLsb' 12 2
def leafSgen (w : Word) : BitVec 8 := w.extractLsb' 14 8

/-- A leaf that faults whatever the access is (R307). -/
def leafBad (w : Word) : Bool :=
  (w.getLsbD 2 && !w.getLsbD 1) || leafKind w == 3 || w.getLsbD 13 || leafLoc w == 2

/-- The permission check of R307, which follows the base. -/
def leafPermits (w : Word) (acc : Acc) (p : Priv) (sum mxr : Bool) : Bool :=
  let u := w.getLsbD 4
  let who := match p with
    | .user => u
    | .supervisor => if u then (match acc with
        | .fetch => false
        | .load | .store => sum) else true
    | .machine => true
  let what := match acc with
    | .fetch => w.getLsbD 3
    | .load => w.getLsbD 1 || (w.getLsbD 3 && mxr)
    | .store => w.getLsbD 2
  who && what

/-- The accessed and dirty bits a walk sets (R308). -/
def leafAD (w : Word) (acc : Acc) : Word :=
  let w := putBit w 6 true
  match acc with
  | .store => putBit w 7 true
  | .fetch | .load => w

/-- The leaves of the tables below `tbl`, by their entries that are not 0: where each entry lies, its word, and the page's
first VA and bytes. The L0 entries from 0x7E00 are never read (R304). -/
def leavesFrom (s : State) (va tbl : Nat) : List (Nat × Nat) → List (Nat × Word × Nat × Nat)
  | [] => []
  | (sh, bits) :: rest =>
    let n := if sh = 31 then 0x7E00 else 2 ^ bits
    let ptes := (cutBytes s.mem tbl (tbl + 8 * n)).foldl (fun acc c => addNew acc (c.1 / 8 * 8)) []
    ptes.flatMap fun pte =>
      let w : Word := BitVec.ofNat 64 (getLe s.mem pte 8)
      let va' := va + (pte - tbl) / 8 * 2 ^ sh
      if !w.getLsbD 0 then []
      else if w.extractLsb' 1 3 = 0 then
        if pointerOk w then
          leavesFrom s va' ((w.extractLsb' 22 42).toNat * 65536 + (w.extractLsb' 8 8).toNat * 256) rest
        else []
      else if leafBad w || decide ((w.extractLsb' 22 42).toNat % (2 ^ sh / 65536) ≠ 0) then []
      else [(pte, w, va', 2 ^ sh)]

/-- The physical address of a leaf's page, none for another chip's. -/
def leafBase (w : Word) : Option Nat :=
  if leafLoc w = 0 then some (leafFrame w * 65536)
  else if leafLoc w = 1 then some (Config.tier2Base + leafFrame w * 65536)
  else none

/-- The page of a partition that a physical address lies in, for a write that reaches memory without a translation. -/
def pageAt (s : State) (k a : Nat) : Option PageRef :=
  ((leavesFrom s 0 (s.part k).ptroot.toNat walkLevels).find? fun l =>
    (leafBase l.2.1).any fun b => decide (b ≤ a) && decide (a < b + l.2.2.2)).map fun l => ⟨l.1, l.2.2.1, l.2.2.2⟩

/-- The partition whose memory a physical address is: its bank group in the Commons (R238), the partition whose pages map
it elsewhere, that of its core for a pocket granule, and the partition of the core whose turn it is where none is. -/
def ownerOf (s : State) (a : Nat) : Nat :=
  if isCommons a then (a - Config.commonsBase) / 4096 % 1024 / (1024 / s.nparts)
  else if 0x100000000000 ≤ a then s.partOfCore ((a - 0x100000000000) / Config.pocketBytes)
  else ((upFrom 0 s.nparts).find? fun k => (pageAt s k a).isSome).getD s.pidx

/-- Translate a GLOBAL address of a control structure for the hardware's own use (job block, work queues, event
queues, contexts): through `ptroot` with no permission check (log 10); a Commons-window address is the Commons. -/
def sysAddr (s : State) (k : Nat) (va : Nat) : Option Nat :=
  if Config.windowBase ≤ va then
    if va < Config.windowBase + Config.commonsBytes then some (Config.commonsBase + (va - Config.windowBase)) else none
  else if 2 ^ 46 ≤ va then none
  else match walk s k va with
    | .leaf _ w base size =>
      if leafBad w then none
      else
        let a := leafFrame w * 65536 + (va - base)
        if leafLoc w = 0 then (if a < Config.hbmBytes then some a else none)
        else if leafLoc w = 1 then (if a < Config.tier2Bytes then some (Config.tier2Base + a) else none)
        else if size = 0 then none else none
    | .fault | .access | .poison _ => none

/-- An n-byte control word at a physical address: a poisoned one reads as a free value, never as its data (R218; log
107). -/
def ctlLe (s : State) (a n : Nat) : Nat :=
  if !s.ecc.isEmpty && runBad s a n then (Config.freeWord a).toNat % 256 ^ n else getLe s.mem a n

/-- An n-byte control word at a GLOBAL address, 0 where it does not translate. -/
def sysLe (s : State) (k va n : Nat) : Nat :=
  match sysAddr s k va with
  | some a => ctlLe s a n
  | none => 0

/-! ## The capability list -/

/-- Bound on the entries a walk of the capability list meets. -/
def capDepth : Nat := 256

/-- The body address of an entry of the list from address e, at version 1 (R320). -/
def capBodyFrom (s : State) (k id : Nat) : Nat → Nat → Option Nat
  | 0, _ => none
  | n + 1, e =>
    let w := sysLe s k e 8
    if w % 65536 = id ∧ w / 2 ^ 24 % 256 = 1 then some (e + 16)
    else if w / 2 ^ 32 = 0 then none
    else capBodyFrom s k id n (e + w / 2 ^ 32)

/-- The body address of an entry of a partition's capability list. -/
def capBody (s : State) (k id : Nat) : Option Nat :=
  if (s.part k).caplist = 0 then none else capBodyFrom s k id capDepth (s.part k).caplist.toNat

/-- A field of an entry's body, none without the entry. -/
def capField (s : State) (k id off n : Nat) : Option Nat := (capBody s k id).map fun b => sysLe s k (b + off) n

/-- The physical address of the partition's invalidation port (Table 15.2). -/
def invPortAddr (s : State) (k : Nat) : Option Nat := capField s k 0x0010 32 8

/-- The object table: its VA and NOBJ (R312). -/
def objTable (s : State) (k : Nat) : Option (Nat × Nat) :=
  match capField s k 0x0012 8 8, capField s k 0x0012 16 8 with
  | some a, some n => some (a, n)
  | some _, none | none, _ => none

/-- The VA of a core's capability record (R314). -/
def capRecord (s : State) (k core : Nat) : Option Nat := (capField s k 0x0012 24 8).map fun t => t + 576 * core

/-- S-mode may read the page of a GLOBAL address (R307, R337). -/
def sysReads (s : State) (k va : Nat) : Bool :=
  if Config.windowBase ≤ va then true
  else match walk s k va with
    | .leaf _ w _ _ => !leafBad w && leafPermits w .load .supervisor false false
    | .fault | .access | .poison _ => false

/-! ## Job membership (R214, R337) -/

/-- Fields of the job block at `ctxbase` (R336). -/
def jobWord (s : State) (k off : Nat) : Word := BitVec.ofNat 64 (sysLe s k ((s.part k).ctxbase.toNat + off) 8)
def jobId (s : State) (k : Nat) : BitVec 32 := (jobWord s k 0).extractLsb' 0 32
def snapEnabled (s : State) (k : Nat) : Bool := (jobWord s k 0).getLsbD 63

/-- The job chip map's entry for a chip, 11 read as 00 (R337). -/
def jobEntry (s : State) (k : Nat) (c : Nat) : Nat :=
  let e := (getByte (s.part k).jmap (c / 4)).toNat / 4 ^ (c % 4) % 4
  if e = 3 then 0 else e

/-- A chip that PEER accesses of a partition may reach (R214). -/
def peerReach (s : State) (k : Nat) (c : BitVec 12) : Bool :=
  decide (jobId s k ≠ 0) && decide (jobEntry s k c.toNat = 1)

/-! ## Snapshots on the write path (R354 to R356) -/

/-- An operation of a colour is new-colour: its colour is the current generation's, or no generation is being taken
(R354, R355). -/
def newColour (s : State) (k : Nat) (col : Bool) : Bool :=
  !(s.part k).taking || decide (col = (s.part k).gen.getLsbD 0)

/-- Whether a thread's operations are new-colour. -/
def colourNew (s : State) (k : Nat) (c : Ctx) : Bool := newColour s k c.snapCol

/-- The open manifest of the current generation: pages still split into it (R355, R357). -/
def openManifest (p : Partition) : Option Manifest :=
  if p.gen = 0 then none else p.manifests.find? fun m => decide (m.gen = p.gen)

/-- The page of a physical write: its leaf's page, or the Commons page of 4 KiB (R356). A write that came by no
translation is in the page that maps its address. -/
def splitPage (s : State) (k a : Nat) (page : Option PageRef) : Option (Nat × Nat × Option Nat × Nat) :=
  if isCommons a then some (a / 4096 * 4096, 4096, none, 0)
  else match page.or (pageAt s k a) with
    | some p => some (a - a % p.size, p.size, some p.pte, p.va)
    | none => none

/-- SNAP and SGEN of a page: in the leaf, or in the bank's tag store (R356). -/
def pageSplitFor (s : State) (base : Nat) (pte : Option Nat) (gen : Nat) : Bool :=
  match pte with
  | some a =>
    let w : Word := BitVec.ofNat 64 (getLe s.mem a 8)
    leafSnap w == 1 && decide ((leafSgen w).toNat = gen % 256)
  | none => s.commonsSnap.any fun p => decide (p.1 = base) && decide (p.2 = gen % 256)

/-- Clear the reservations that a write to a line breaks: every core's but the writer's own (R86). -/
def breakResv (s : State) (writer : Option Nat) (a n : Nat) : State :=
  let hit (c : Core) : Core :=
    match c.resv with
    | some l => if decide (some c.id ≠ writer) && decide (a / 128 ≤ l) && decide (l ≤ (a + n - 1) / 128)
        then { c with resv := none } else c
    | none => c
  { s with core := hit s.core, cores := s.cores.map fun p => (p.1, hit p.2) }

/-- Squash the speculative iterations of a context that a test picks: each restarts from its start with a new guess.
`conflict` counts them among the conflicts. -/
def squashWhere (bad : EscPart → Bool) (conflict : Bool) (c : Ctx) : Ctx :=
  match c.escActive with
  | none => c
  | some _ =>
    let c := match c.esc with
      | some e => { c with esc := some (c.storeFocus e) }
      | none => c
    match c.esc with
    | none => c
    | some e =>
      let pick (p : EscPart) : Bool := (p.guessing || decide (p.iter ≠ some e.oldest)) && p.iter.isSome && bad p
      let n := if conflict then (e.parts.filter pick).length else 0
      let restart (p : EscPart) : EscPart := if pick p then e.startGuess p (p.iter.getD 0) else p
      let parts := e.parts.map restart
      let c := { c with esc := some { e with parts := parts, ncon := e.ncon + BitVec.ofNat 64 n } }
      match parts[e.focus]? with
      | some p => { c with x := p.x, pc := p.pc }
      | none => c

/-- Squash the speculative iterations of a context that have read a written line (R199). -/
def squashReaders (c : Ctx) (lo hi : Nat) : Ctx :=
  squashWhere (fun p => p.reads.any fun l => decide (lo ≤ l) && decide (l ≤ hi)) true c

/-- Every escrow loop sees a write (R199). -/
def escrowSees (s : State) (a n : Nat) : State :=
  let f (c : Core) : Core := if c.ctx.escActive.isSome then { c with ctx := squashReaders c.ctx (a / 128) ((a + n - 1) / 128) } else c
  { s with core := f s.core, cores := s.cores.map fun p => (p.1, f p.2) }

/-- The colour bits of the 128-byte lines of a write of n bytes follow a write in the chip's current colour (R354). -/
def paintLines (s : State) (k : Nat) (new : Bool) (a n : Nat) : State :=
  let odd := (s.part k).gen.getLsbD 0
  if new && (odd || !(s.part k).oddLines.isEmpty) then
    let lo := a / 128
    let hi := (a + n - 1) / 128
    s.mapPart k fun p => { p with
      oddLines := (if odd then upFrom lo (hi + 1 - lo) else []) ++ p.oddLines.filter fun l => decide (l < lo) || decide (hi < l) }
  else s

/-- A write that the snapshot logic makes to a page it does not split: reservations, read sets and line colours see it as any
agent's (R86, R199, R354). -/
def agentSet (s : State) (k a : Nat) (bs : List Byte) : State :=
  if bs.isEmpty then s
  else
    let s := { s with mem := setBytes s.mem a bs }
    escrowSees (breakResv (paintLines s k true a bs.length) none a bs.length) a bs.length

/-- Set SNAP and SGEN of a page, or return it to LIVE with `none`. -/
def markPage (s : State) (k base : Nat) (pte : Option Nat) (gen : Option Nat) : State :=
  match pte with
  | some a =>
    let w := getLe s.mem a 8
    let cleared := w - w / 4096 % 1024 * 4096
    let v := match gen with
      | some g => cleared + 4096 + g % 256 * 16384
      | none => cleared
    agentSet s k a (natBytes 8 v)
  | none =>
    let rest := s.commonsSnap.filter fun p => decide (p.1 ≠ base)
    { s with commonsSnap := match gen with
      | some g => (base, g % 256) :: rest
      | none => rest }

/-- The page-record word of R358. -/
def pvaWord (base size va : Nat) (commons : Bool) : Word :=
  if commons then BitVec.ofNat 64 ((base - Config.commonsBase) / 65536 * 65536 + 0xF000)
  else
    let psz := if size = 2 ^ 16 then 3 else if size = 2 ^ 21 then 2 else if size = 2 ^ 26 then 1 else 0
    BitVec.ofNat 64 (va / 65536 * 65536 + psz)

/-- Free a manifest that R359 drops: every page it lists returns to LIVE when its SGEN is the manifest's, and the manifest that
is the oldest now has none before it (R358). -/
def dropManifest (s : State) (k : Nat) (m : Manifest) : State :=
  let s := m.pages.foldl (fun (t : State) r =>
    let pte := if isCommons r.base then none else
      match walk t k (r.pva.toNat / 65536 * 65536) with
      | .leaf a _ _ _ => some a
      | .fault | .access | .poison _ => none
    if pageSplitFor t r.base pte m.gen.toNat then markPage t k r.base pte none else t) s
  let s := s.mapPart k fun p => { p with manifests := p.manifests.filter fun q => decide (q.gen ≠ m.gen) }
  match ((s.part k).manifests.head?).bind fun q => sysAddr s k (q.va + 8) with
  | some a => agentSet s k a (natBytes 8 0)
  | none => s

/-- The physical address of a partition's job block (R336); a partition with `ctxbase` 0 has none yet. -/
def jobBlock (s : State) (k : Nat) : Option Nat :=
  if (s.part k).ctxbase = 0 then none else sysAddr s k (s.part k).ctxbase.toNat

/-- A and D of the page of a GLOBAL address that the hardware is to write (R308; log 10). `put` is the way the bytes are
written. -/
def putAD (put : State → Nat → List Byte → State) (s : State) (k va : Nat) : State :=
  if Config.windowBase ≤ va then s
  else match walk s k va with
    | .leaf pte w _ _ => if leafBad w || leafAD w .store == w then s else put s pte (natBytes 8 (leafAD w .store).toNat)
    | .fault | .access | .poison _ => s

/-- The job block shows STATE, GEN and SEALED as they are (R336). `put` is the way the bytes are written. -/
def showJobStateBy (put : State → Nat → List Byte → State) (s : State) (k : Nat) : State :=
  match jobBlock s k with
  | none => s
  | some j =>
    let p := s.part k
    put (putAD put s k p.ctxbase.toNat) (j + 64) (natBytes 8 ((if p.taking then 2 ^ 32 else 0) + p.gen.toNat) ++ natBytes 4 p.sealed.toNat)

/-- Abandon the generation being taken: manifests and retained images are lost (R359). -/
def abandonAll (s : State) (k : Nat) : State :=
  let s := (s.part k).manifests.foldl (fun t m => dropManifest t k m) s
  showJobStateBy (fun t a bs => agentSet t k a bs) (s.mapPart k fun p => { p with taking := false, manifests := [] }) k

/-- Write one event record to event queue q of a partition (R340): dropped and counted when the queue is disabled or
full, LOST set in the next record; the record is written before TAIL advances. `put` is the way the bytes are written. -/
def raiseEventBy (put : State → Nat → List Byte → State) (s : State) (k q code : Nat) (arg strd : Word) : State :=
  let e := q % (256 / s.nparts)
  match sysAddr s k ((s.part k).evqbase.toNat + 64 * e) with
  | none => s
  | some cb =>
    let s := putAD put s k ((s.part k).evqbase.toNat + 64 * e)
    let ena := decide (2 ^ 63 ≤ ctlLe s (cb + 8) 8)
    let lsz := ctlLe s (cb + 8) 1 % 32
    let head := ctlLe s (cb + 16) 4
    let tail := ctlLe s (cb + 24) 4
    if ena && decide ((tail + 2 ^ 32 - head) % 2 ^ 32 < 2 ^ lsz) then
      let rec_ := ctlLe s cb 8 / 32 * 32 + 32 * (tail % 2 ^ lsz)
      let lost := (s.part k).lostEvt.contains e
      let w0 := tail * 2 ^ 32 + s.chip.toNat * 2 ^ 20 + k * 2 ^ 16 + code
      let bytes := natBytes 8 w0 ++ natBytes 8 arg.toNat ++ natBytes 8 strd.toNat ++ natBytes 8 (if lost then 1 else 0)
      let s := if physOk rec_ 32 then put s rec_ bytes else s
      let s := put s (cb + 24) (natBytes 4 ((tail + 1) % 2 ^ 32))
      s.mapPart k fun p => { p with lostEvt := p.lostEvt.filter fun n => decide (n ≠ e) }
    else
      let drop := ctlLe s (cb + 32) 8
      let s := put s (cb + 32) (natBytes 8 (drop + 1))
      s.mapPart k fun p => { p with lostEvt := addNew p.lostEvt e }

/-- A place in SPOOL, lowest first, where a copy of a page meets no other copy. -/
def spoolPlace (p : Partition) (spool splen size : Nat) : Option Nat :=
  let recs := p.manifests.flatMap fun m => m.pages
  let starts := 0 :: recs.map fun r => r.copy + r.size - (Config.tier2Base + spool)
  let clear (c : Nat) : Bool := decide (c + size ≤ splen) && decide (spool + c + size ≤ Config.tier2Bytes)
    && recs.all fun r =>
      let o := r.copy - (Config.tier2Base + spool)
      decide (o + r.size ≤ c) || decide (c + size ≤ o)
  let ok := starts.filter clear
  ok.foldl (fun (acc : Option Nat) c => match acc with
    | none => some c
    | some d => some (min c d)) none

/-- Granule conditions of a page follow its copy (R218). -/
def copyEcc (s : State) (base size dst : Nat) : State :=
  s.ecc.foldl (fun (t : State) g =>
    if decide (base ≤ g.1) && decide (g.1 < base + size) && decide (g.2 ≠ .correctable) then
      setEcc t (granuleOf (dst + (g.1 - base))) (some .poisoned)
    else t) s

/-- Enter a page record in a manifest, in memory too where the manifest area translates (R358). -/
def enterPage (s : State) (k : Nat) (m : Manifest) (r : PageRec) : State :=
  let n := m.pages.length
  let s := match sysAddr s k (m.va + 64 + 16 * n), sysAddr s k m.va with
    | some a, some h =>
      let s := putAD (fun t a bs => agentSet t k a bs) (putAD (fun t a bs => agentSet t k a bs) s k m.va) k (m.va + 64 + 16 * n)
      agentSet (agentSet s k a (natBytes 8 r.pva.toNat ++ natBytes 8 r.copy)) k (h + 16) (natBytes 8 (n + 1))
    | some _, none => s
    | none, _ => s
  s.mapPart k fun q => { q with
    manifests := updFirst (fun n => decide (n.gen = m.gen)) (fun n => { n with pages := n.pages ++ [r] }) q.manifests }

/-- Copy a page into SPOOL at an offset, mark it SPLIT and enter it in the manifest (R355, R356). -/
def splitAt (s : State) (k : Nat) (m : Manifest) (base size va off : Nat) (pte : Option Nat) : State :=
  let dst := Config.tier2Base + (jobWord s k 8).toNat / 65536 * 65536 + off
  let cells := cutBytes s.mem base (base + size)
  let mem := cells.foldl (fun (t : Bytes) c => setByte t (c.1 - base + dst) c.2) (clearBytes s.mem dst (dst + size))
  let s := escrowSees (breakResv (copyEcc { s with mem := mem } base size dst) none dst size) dst size
  enterPage (markPage s k base pte (some (s.part k).gen.toNat)) k m ⟨base, size, pvaWord base size va (isCommons base), dst⟩

/-- Split a page for the current generation. A full SPOOL or manifest area drops the oldest retained manifest and tries
again; with none left to drop the generation is abandoned (R356, R359). -/
def splitTry (s : State) (k base size va : Nat) (pte : Option Nat) : Nat → State
  | 0 => s
  | n + 1 =>
    let p := s.part k
    match openManifest p with
    | none => s
    | some m =>
      let spool := (jobWord s k 8).toNat / 65536 * 65536
      match spoolPlace p spool (jobWord s k 16).toNat size, decide (64 + 16 * (m.pages.length + 1) ≤ m.len) with
      | some off, true => splitAt s k m base size va off pte
      | none, _ | some _, false =>
        match (p.manifests.filter fun x => x.sealed && decide (x.gen ≠ p.gen)).head? with
        | some old => splitTry (dropManifest s k old) k base size va pte n
        | none =>
          let s := abandonAll { s with outMsgs := s.outMsgs ++ [Msg.abandon k p.gen] } k
          raiseEventBy (fun t a bs => agentSet t k a bs) s k 0 0x0021 (p.gen.setWidth 64) 0

/-- Split a page for the current generation (R355). -/
def splitInto (s : State) (k base size va : Nat) (pte : Option Nat) : State :=
  splitTry s k base size va pte ((s.part k).manifests.length + 1)

/-- What the snapshot logic does before a write of n bytes at a (R355): a new-colour write to a page not split for
the generation splits it first. Answers the address of the second copy an old-colour write must also write. -/
def snapBefore (s : State) (k : Nat) (new : Bool) (page : Option PageRef) (a : Nat) : State × Option Nat :=
  match openManifest (s.part k) with
  | none => (s, none)
  | some m =>
    match splitPage s k a page with
    | none => (s, none)
    | some (base, size, pte, va) =>
      if pageSplitFor s base pte (s.part k).gen.toNat then
        if new then (s, none)
        else (s, (m.pages.find? fun r => decide (r.base = base)).map fun r => r.copy + (a - base))
      else if new then (splitInto s k base size va pte, none)
      else (s, none)

/-- Write bytes to physical memory as one write of a given colour by an agent whose own reservation, if it is a core, stays:
split, both copies, line colours, reservations, escrow read sets (R86, R199, R354 to R356). -/
def rawWrite (s : State) (k : Nat) (new : Bool) (core : Option Nat) (page : Option PageRef) (a : Nat) (bs : List Byte) : State :=
  if bs.isEmpty then s
  else
    let n := bs.length
    let (s, copy) := snapBefore s k new page a
    let s := { s with mem := setBytes s.mem a bs }
    let s := match copy with
      | some d => escrowSees (breakResv { s with mem := setBytes s.mem d bs } none d n) d n
      | none => s
    escrowSees (breakResv (paintLines s k new a n) core a n) a n

/-- A write of the hardware itself to a partition's memory: new-colour, by no core. -/
def devWrite (s : State) (k a : Nat) (bs : List Byte) : State := rawWrite s k true none none a bs

/-- The fabric logic writes STATE, GEN and SEALED (R336). -/
def showJobState (s : State) (k : Nat) : State := showJobStateBy (fun t a bs => devWrite t k a bs) s k

/-! ## Granules (R217 to R219) -/

/-- Add to a counter of a partition's counter block (Table 16.2): 64 bits, wrapping. -/
def bump (s : State) (k off : Nat) (n : Nat) : State :=
  let a := Config.commonsBase + counterBlock s k + off
  devWrite s k a (natBytes 8 ((getLe s.mem a 8 + n) % 2 ^ 64))

def ctrCorr : Nat := 0x008
def ctrUncorr : Nat := 0x010
def ctrCpyErr : Nat := 0x018
def ctrRemap : Nat := 0x020
def ctrAsRun : Nat := 0x028
def ctrAsFence : Nat := 0x030

/-- Count an ECC event in the partition whose memory it is (R333). -/
def bumpEcc (s : State) (a off : Nat) : State := bump s (ownerOf s a) off 1

/-- Read the code words of a run: a correctable error is corrected and counted, an uncorrectable one poisons its
granule (R217). Answers whether any granule is poisoned (R218). -/
def scrubRead (s : State) (a n : Nat) : Bool × State :=
  (granulesOf a n).foldl (fun (acc : Bool × State) g =>
    match eccAt acc.2 g with
    | none => acc
    | some .correctable => (acc.1, bumpEcc (setEcc acc.2 g none) g ctrCorr)
    | some .uncorrectable => (true, bumpEcc (setEcc acc.2 g (some .poisoned)) g ctrUncorr)
    | some .poisoned => (true, acc.2)) (false, s)

/-- One granule write (R219): a whole write cleans the granule; a partial one corrects a correctable error and
leaves poison. -/
def granuleWrite (s : State) (g covered : Nat) : State :=
  match eccAt s g with
  | none => s
  | some e =>
    if granuleBytes g ≤ covered then setEcc s g none
    else match e with
      | .correctable => bumpEcc (setEcc s g none) g ctrCorr
      | .uncorrectable | .poisoned => bumpEcc (setEcc s g (some .poisoned)) g ctrUncorr

/-- The granule writes of one run of bytes (R219). -/
def granuleRun (s : State) (a n : Nat) : State :=
  (granulesOf a n).foldl (fun t g => granuleWrite t g (min (a + n) (g + granuleBytes g) - max a g)) s

/-- What a walk's reads leave of its entries' granules (R217). -/
def walkTouch (s : State) (k va : Nat) : State :=
  (walkReads s va (s.part k).ptroot.toNat walkLevels).foldl (fun t a => (scrubRead t a 8).2) s

/-- Set A and D in a leaf entry before an access through it (R308), an indivisible update that is a write to its line in the
colour of the access. -/
def setAD (s : State) (k : Nat) (new : Bool) (pte : Nat) (w : Word) (acc : Acc) : State :=
  if leafAD w acc = w then s else rawWrite s k new none none pte (natBytes 8 (leafAD w acc).toNat)

/-- The hardware's own access to a control structure at a GLOBAL address (log 10): the walk's code words are read (R217), A and
D are set for a store (R308), and the n bytes' code words are read. -/
def sysTouch (s : State) (k va n : Nat) : State :=
  if Config.windowBase ≤ va then
    (scrubRead s (Config.commonsBase + (va - Config.windowBase)) n).2
  else match walk s k va with
    | .leaf pte w base _ =>
      let s := if s.ecc.isEmpty then s else walkTouch s k va
      let s := if leafBad w then s else setAD s k true pte w .store
      (scrubRead s ((leafBase w).getD 0 + (va - base)) n).2
    | .fault | .access | .poison _ => if s.ecc.isEmpty then s else walkTouch s k va

/-! ## Translation (R307 to R310) -/

/-- A cached leaf that serves an access without a walk: it permits the access and needs no A or D update. -/
def tlbServes (e : TlbEntry) (va : Nat) (acc : Acc) (p : Priv) (sum mxr : Bool) : Bool :=
  decide (e.va ≤ va) && decide (va < e.va + e.size) && !leafBad e.leaf && leafPermits e.leaf acc p sum mxr
    && (leafAD e.leaf acc == e.leaf)

/-- Outcome of a translation: the leaf that serves the access, the page's first VA, and the page where memory maps it
still. -/
inductive Xlate where
  | leaf (w : Word) (va : Nat) (page : Option PageRef) (s : State)
  | fault (s : State)
  | access (s : State)
  | poison (a : Nat) (s : State)

/-- The page of a cached leaf, where a walk finds the same page still mapped. -/
def cachedPage (s : State) (k va : Nat) (e : TlbEntry) : Option PageRef :=
  match walk s k va with
  | .leaf pte _ base size => if base = e.va ∧ size = e.size then some ⟨pte, base, size⟩ else none
  | .fault | .access | .poison _ => none

/-- Translate a virtual address for an access (R307 to R310): a cached leaf may serve it; otherwise a walk from
memory does, which sets A and D and may be cached. -/
def xlate (s : State) (k : Nat) (va : Nat) (acc : Acc) (p : Priv) (sum mxr : Bool) : Xlate :=
  let cands := (s.part k).tlb.filter fun e => tlbServes e va acc p sum mxr
  let s := if cands.isEmpty then s else { s with draws := s.draws + 1 }
  match cands[Config.tlbPick (s.draws - 1)]? with
  | some e => .leaf e.leaf e.va (cachedPage s k va e) s
  | none =>
    let t := if s.ecc.isEmpty then s else walkTouch s k va
    match walk s k va with
    | .fault => .fault t
    | .access => .access t
    | .poison a => .poison a t
    | .leaf pte w base size =>
      if leafBad w || !leafPermits w acc p sum mxr then .fault t
      else
        let s := setAD t k (colourNew s k s.ctx) pte w acc
        let ent : TlbEntry := ⟨base, size, leafAD w acc⟩
        let s := s.mapPart k fun q => if ent ∈ q.tlb then q else { q with tlb := ent :: q.tlb }
        .leaf (leafAD w acc) base (some ⟨pte, base, size⟩) s

/-! ## Address forms (R211, R212) -/

/-- A Commons offset a partition's access may use (R211): in range, in the bank group, and not the mailbox at U. -/
def commonsOk (s : State) (k : Nat) (p : Priv) (o n : Nat) : Bool :=
  decide (o + n ≤ Config.commonsBytes)
  && decide (o / 4096 % 1024 / (1024 / s.nparts) = k)
  && !(decide (p = .user) && decide (mailboxOff s k ≤ o) && decide (o < mailboxOff s k + 256))

/-- The RC kind (R305). -/
def kindRC : BitVec 2 := 0

/-- The SO kind. -/
def kindSO : BitVec 2 := 1

/-- The UN kind. -/
def kindUN : BitVec 2 := 2

/-- The kind of an access by where it lands: Commons and pocket accesses count as RC (R257), and so does another chip's
memory, whose leaf this chip does not see. -/
def Loc.kind (l : Loc) : BitVec 2 :=
  match l with
  | .phys _ k _ => k
  | .pocket _ => kindRC
  | .peer _ _ => kindRC

/-- Where a Commons offset lands. -/
def commonsLoc (o : Nat) : Loc := .phys (Config.commonsBase + o) kindRC none

/-- The privilege of a data access: `mstatus`.MPRV redirects M-mode's (R416). -/
def dataPriv (s : State) : Priv :=
  if s.core.priv = .machine && s.core.csr.mstatus.getLsbD bitMPRV then mppOf s.core.csr.mstatus else s.core.priv

/-- A frame of an image under check, of any partition (R382, R383). -/
def frameChecked (s : State) (a : Nat) : Bool :=
  s.parts.any fun p => p.mints.any fun j => j.frames.any fun fs => fs.contains (a / 65536)

/-- A frame of a sealed object's text, head or const, or of an image under check, of any partition: a store to it is refused as
though its leaf had W = 0 (R383). -/
def frameProtected (s : State) (a : Nat) : Bool :=
  (s.parts.any fun p => p.objs.any fun o => decide (a / 65536 ∈ o.textFrames) || decide (a / 65536 ∈ o.otherFrames))
    || frameChecked s a

/-- The store check of R383 on a physical address. -/
def checkFrame (acc : Acc) (tv : Word) (a : Nat) : M Unit := do
  let s ← get
  if acc = .store ∧ frameProtected s a then trapM cStorePage tv else return ()

/-- The trap of an access that meets poison (R218). DEDUCED (log 118): a clerk core, which raises base causes only (R364), takes
the access fault. -/
def poisonCause (s : State) (acc : Acc) : BitVec 6 := if isClerk s.core.id then acc.accessCause else cPoison

/-- Resolve a GLOBAL address outside the windows through the page tables (R304, R309, R214). `nested` is set
inside a PEER-mapped leaf that names this chip. A store that R383 refuses leaves A and D as they were. -/
def resolveVa (acc : Acc) (p : Priv) (bad : BitVec 6) (tv : Word) (va : Nat) (nested : Bool) : M Loc := do
  let s ← get
  if 2 ^ 46 ≤ va || Config.windowBase ≤ va then trapM bad tv
  else
    match xlate s s.pidx va acc p (s.core.csr.mstatus.getLsbD bitSUM) (s.core.csr.mstatus.getLsbD bitMXR) with
    | .fault t => do
      set t
      trapM acc.pageCause tv
    | .access t => do
      set t
      trapM acc.accessCause tv
    | .poison _ t => do
      set t
      trapM (poisonCause t acc) tv
    | .leaf w base page s' => do
      let off := va - base
      let a := leafFrame w * 65536 + off
      if leafLoc w = 0 then
        if a < Config.hbmBytes then
          checkFrame acc tv a
          set s'
          return .phys a (leafKind w) page
        else trapM acc.accessCause tv
      else if leafLoc w = 1 then
        if a < Config.tier2Bytes then
          checkFrame acc tv (Config.tier2Base + a)
          set s'
          return .phys (Config.tier2Base + a) (leafKind w) page
        else trapM acc.accessCause tv
      else
        set s'
        let chip := w.extractLsb' 52 12
        let pva : Nat := (w.extractLsb' 22 30).toNat * 65536 + off
        if chip = s'.chip ∧ nested then trapM acc.accessCause tv
        else return .peer chip (BitVec.ofNat 64 pva)

/-- Resolve an address of the GLOBAL space on this chip for an access of n bytes (R211, R212, R416); a PEER-mapped leaf
is answered as the PEER access it names. `bad` is the trap of an invalid address: the access fault for scalar accesses,
VMEM for vector elements and copies. -/
def resolveHere (acc : Acc) (p : Priv) (bad : BitVec 6) (tv : Word) (a n : Nat) (nested : Bool) : M Loc := do
  let s ← get
  if Config.windowBase ≤ a ∧ a < 2 ^ 46 then
    if Config.pocketWindow ≤ a then
      let o := a - Config.pocketWindow
      if o + n ≤ Config.pocketBytes ∧ o + n ≤ s.ctx.pocb then return .pocket o else trapM bad tv
    else
      let o := a - Config.windowBase
      if commonsOk s s.pidx p o n then return commonsLoc o else trapM bad tv
  else if p = .machine then
    if physOk a n || isPort a then
      checkFrame acc tv a
      return .phys a kindRC none
    else trapM acc.accessCause tv
  else resolveVa acc p bad tv a nested

/-- A PEER access to another chip must reach it (R214, R337): an entry 01 of the job chip map, and a chip that is
reachable over Kyotrix, a free value of the platform. -/
def peerTo (acc : Acc) (tv : Word) (chip : BitVec 12) (va : Word) : M Loc := do
  let s ← get
  if peerReach s s.pidx chip && Config.kyotrix chip then return .peer chip va else trapM acc.accessCause tv

/-- Resolve an address of the GLOBAL space (R214): a PEER-mapped leaf that names this chip is performed as a GLOBAL access,
and a second one that it meets is an access fault. -/
def resolveAt (acc : Acc) (p : Priv) (bad : BitVec 6) (tv va : Word) (n : Nat) : M Loc := do
  let l ← resolveHere acc p bad tv va.toNat n false
  let s ← get
  match l with
  | .peer c pva =>
    if c = s.chip then
      let l' ← resolveHere acc p bad tv pva.toNat n true
      match l' with
      | .peer c' pva' => peerTo acc tv c' pva'
      | .phys _ _ _ | .pocket _ => return l'
    else peerTo acc tv c pva
  | .phys _ _ _ | .pocket _ => return l

/-- Resolve an address of the GLOBAL space, which is the trap value. -/
def resolveGlobal (acc : Acc) (p : Priv) (bad : BitVec 6) (va : Word) (n : Nat) : M Loc := resolveAt acc p bad va va n

/-- A PEER access (R214): this chip's own number is a GLOBAL access. -/
def resolvePeer (acc : Acc) (p : Priv) (bad : BitVec 6) (tv : Word) (chip : BitVec 12) (va : Word) (n : Nat) : M Loc := do
  let s ← get
  if chip = s.chip then resolveAt acc p bad tv va n else peerTo acc tv chip va

/-- Resolve an element address in the space an `mtyp` code names (Table 10.2). -/
def resolveSpace (space : Nat) (acc : Acc) (p : Priv) (a : Word) (n : Nat) : M Loc := do
  let s ← get
  match space with
  | 0 => resolveGlobal acc p cVmem a n
  | 1 =>
    if commonsOk s s.pidx p a.toNat n then return commonsLoc a.toNat
    else trapM cVmem a
  | 2 =>
    if a.toNat + n ≤ s.ctx.pocb then return .pocket a.toNat
    else trapM cVmem a
  | 3 =>
    if a.extractLsb' 46 6 = 0 then
      resolvePeer acc p cVmem a (a.extractLsb' 52 12) (a &&& 0x3FFFFFFFFFFF) n
    else trapM cVmem a
  | _ => trapM cVmem a

/-! ## Writes (R86, R199, R219) -/

/-- The counter block of any partition: plain stores to it are ignored (R333). -/
def inCounterBlock (s : State) (a : Nat) : Bool :=
  isCommons a && (upFrom 0 s.nparts).any fun k =>
    decide (Config.commonsBase + counterBlock s k ≤ a) && decide (a < Config.commonsBase + counterBlock s k + 4096)

/-! ## Control structures on the write path (R29, R287, R312, R314, R336, R337, R340, R388) -/

/-- The physical address of a partition's mailbox (R388). -/
def mailboxAt (s : State) (k : Nat) : Nat := Config.commonsBase + mailboxOff s k

/-- A control structure in memory with fields that software does not write (R29). -/
inductive Ctl where
  | job (k : Nat)
  | mail (k : Nat)
  | workq | eventq | objects | caps | events | manifest | context
  deriving DecidableEq, Repr

/-- A run of physical bytes that holds a control structure's bytes from an offset up. -/
structure CtlRun where
  ctl : Ctl
  phys : Nat
  off : Nat
  len : Nat
  deriving DecidableEq, Repr

/-- The physical runs of a GLOBAL range, page by page; what does not translate is left out. -/
def virtRuns (s : State) (k : Nat) (c : Ctl) (va off len : Nat) : Nat → List CtlRun
  | 0 => []
  | n + 1 =>
    if len = 0 then []
    else
      let m := min len (65536 - (va + off) % 65536)
      (match sysAddr s k (va + off) with
        | some a => [⟨c, a, off, m⟩]
        | none => []) ++ virtRuns s k c va (off + m) (len - m) n

/-- The runs of a structure whose base is not 0. -/
def baseRuns (s : State) (k : Nat) (c : Ctl) (va len : Nat) : List CtlRun :=
  if va = 0 then [] else virtRuns s k c va 0 len (len / 65536 + 2)

/-- The record rings of a partition's enabled event queues (R340). -/
def eventRings (s : State) (k : Nat) : List CtlRun :=
  if (s.part k).evqbase = 0 then []
  else (upFrom 0 (256 / s.nparts)).filterMap fun e =>
    (sysAddr s k ((s.part k).evqbase.toNat + 64 * e)).bind fun cb =>
      if 2 ^ 63 ≤ ctlLe s (cb + 8) 8 then
        some ⟨.events, ctlLe s cb 8 / 32 * 32, 0, 32 * 2 ^ (ctlLe s (cb + 8) 1 % 32)⟩
      else none

/-- The slots that hold a strand's context block (R371): `saved` strands of the partition. -/
def savedSlots (p : Partition) : List Nat :=
  p.launches.flatMap fun l => l.strands.filterMap fun t => if t.saved.isSome then t.slot else none

/-- Bytes of a context slot (R371). -/
def slotBytes : Nat := 1572864

/-- The GLOBAL address of a context slot. -/
def slotVa (s : State) (k n : Nat) : Nat := (s.part k).ctxbase.toNat + 4096 + slotBytes * n

/-- Every control structure of the chip (R287, R312, R314, R336, R340, R341, R358, R372, R388). -/
def ctlRuns (s : State) : List CtlRun :=
  (upFrom 0 s.nparts).flatMap fun k =>
    ⟨.mail k, mailboxAt s k, 0, 256⟩ ::
      (baseRuns s k (.job k) (s.part k).ctxbase.toNat 256
        ++ baseRuns s k .workq (s.part k).wqbase.toNat (64 * (16384 / s.nparts))
        ++ baseRuns s k .eventq (s.part k).evqbase.toNat (64 * (256 / s.nparts))
        ++ eventRings s k
        ++ (s.part k).manifests.flatMap (fun m => baseRuns s k .manifest m.va (64 + 16 * m.pages.length))
        ++ (savedSlots (s.part k)).flatMap (fun n => baseRuns s k .context (slotVa s k n) slotBytes)
        ++ (match objTable s k with
          | some (a, n) => baseRuns s k .objects a (128 * n)
          | none => [])
        ++ match capRecord s k 0 with
          | some a => baseRuns s k .caps a (576 * 256)
          | none => [])

/-- Job-block bits that S-mode software writes, byte by byte: the RW fields (R336). -/
def jobMask (p : Priv) (o : Nat) : Byte :=
  if p = .user then 0
  else if o < 5 then 0xFF else if o = 5 then 0x0F else if o = 6 then 0 else if o = 7 then 0x80
  else if o < 10 then 0 else if o < 56 then 0xFF else if o = 56 then 0x07
  else if 80 ≤ o ∧ o < 88 then 0xFF else 0

/-- Mailbox bits that a writer at a privilege sets, the host counting as U: STAT and RSP are S-mode's (R388). -/
def mailMask (p : Priv) (o : Nat) : Byte :=
  if o < 2 then 0xFF else if o < 8 then 0 else if o < 0x40 then 0xFF else if o = 0x40 then 1 else if o < 0x80 then 0
  else if p = .user then 0
  else if o < 0x82 then 0xFF else if o < 0x88 then 0 else 0xFF

/-- Work-queue control-block bits that software's stores write (Table 14.1): BASE, ENA, OWN and LSZ from S-mode up; TAIL
moves by host writes and `wqpost`, HEAD and EIDX by the WS. -/
def workqMask (p : Priv) (o : Nat) : Byte :=
  if p = .user then 0
  else if o = 0 then 0xC0 else if o < 8 then 0xFF else if o = 8 then 0x1F else if o = 13 then 1 else if o = 15 then 0x80 else 0

/-- Event-queue control-block bits that software writes (R340). -/
def eventqMask (p : Priv) (o : Nat) : Byte :=
  if 16 ≤ o ∧ o < 20 then 0xFF
  else if p = .user then 0
  else if o = 0 then 0xE0 else if o < 8 then 0xFF else if o = 8 then 0x1F else if o = 15 then 0x80 else 0

/-- Capability-record bits that software writes: CAP, from M-mode (R314). -/
def capsMask (p : Priv) (o : Nat) : Byte :=
  if p = .machine ∧ o < 4 then (if o = 3 then 0x7F else 0xFF) else 0

/-- Context-block bits that software writes: the pc, x1 to x31 and the CSRs, from S-mode up (Table 18.2). -/
def contextMask (p : Priv) (o : Nat) : Byte :=
  if p ≠ .user ∧ ((8 ≤ o ∧ o < 16) ∨ (0x40 ≤ o ∧ o < 0x138) ∨ (0x140 ≤ o ∧ o < 0x200)) then 0xFF else 0

/-- A job block that takes no write now (R336). -/
def jobLocked (s : State) (k : Nat) : Bool := snapEnabled s k || s.colls.any fun c => decide (c.part = k)

/-- What a byte that software stores leaves where a control structure lies: bits that are not its to write stay (R29), ERR
is cleared by any write (R287), a job block is locked while SNEN = 1 or a collective is outstanding (R336), and a DBELL set
while a request waits for its STAT is ignored (R388). -/
def ctlByte (s : State) (p : Priv) (c : Ctl) (o : Nat) (old b : Byte) : Byte :=
  let put (m : Byte) : Byte := (old &&& ~~~m) ||| (b &&& m)
  match c with
  | .job k => if jobLocked s k then old else put (jobMask p o)
  | .mail k => if decide (o = 0x40) && b.getLsbD 0 && s.mboxWait.contains k then old else put (mailMask p o)
  | .workq => if o % 64 = 39 then old &&& 0x7F else put (workqMask p (o % 64))
  | .eventq => put (eventqMask p (o % 64))
  | .objects | .events | .manifest => old
  | .context => put (contextMask p o)
  | .caps => put (capsMask p (o % 576))

/-- What a byte that software stores leaves at an address. -/
def softByte (s : State) (p : Priv) (runs : List CtlRun) (a : Nat) (b : Byte) : Byte :=
  match runs.find? fun r => decide (r.phys ≤ a) && decide (a < r.phys + r.len) with
  | some r => ctlByte s p r.ctl (r.off + (a - r.phys)) (getByte s.mem a) b
  | none => b

/-- The bytes that a store of software leaves. -/
def softBytes (s : State) (p : Priv) (a : Nat) (bs : List Byte) : List Byte :=
  let runs := (ctlRuns s).filter fun r => decide (r.phys < a + bs.length) && decide (a < r.phys + r.len)
  if runs.isEmpty then bs else (bs.zip (upFrom a bs.length)).map fun x => softByte s p runs x.2 x.1

/-- Who makes a write: the core whose own reservation it leaves (R86), and the privilege of a store of software, none for
a write of the device itself. -/
structure Writer where
  core : Option Nat
  soft : Option Priv
  deriving DecidableEq, Repr

/-- A write of the device: the WS, the fabric logic, a Teller. -/
def Writer.device : Writer := ⟨none, none⟩

/-- A store of the scalar thread of the core whose turn it is. -/
def State.writer (s : State) : Writer := ⟨some s.core.id, some (dataPriv s)⟩

/-- A write of an engine or vector unit, an agent of its own (R254), or of the host. -/
def Writer.agent (p : Priv) : Writer := ⟨none, some p⟩

/-- The bytes a write leaves. -/
def Writer.bytes (w : Writer) (s : State) (a : Nat) (bs : List Byte) : List Byte :=
  match w.soft with
  | some p => softBytes s p a bs
  | none => bs

/-- The n bytes at a GLOBAL address as the fabric logic reads them with S privilege (R337), page by page; what S-mode may
not read reads 0. -/
def readRun (s : State) (k va n : Nat) : Nat → List Byte
  | 0 => []
  | f + 1 =>
    if n = 0 then []
    else
      let m := min n (65536 - va % 65536)
      (if sysReads s k va then
        match sysAddr s k va with
        | some a => if !s.ecc.isEmpty && runBad s a m then (upFrom 0 m).map fun i => Config.freeByte (a + i) else getBytes s.mem a m
        | none => List.replicate m 0
      else List.replicate m 0) ++ readRun s k (va + m) (n - m) f

/-- The partitions whose SNEN or JOBID a write of n bytes at a is to change (R337): their job block is not locked. -/
def mapReaders (s : State) (a n : Nat) : List Nat :=
  (upFrom 0 s.nparts).filter fun k => (jobBlock s k).any fun j =>
    ((decide (a < j + 4) && decide (j < a + n)) || (decide (a ≤ j + 7) && decide (j + 7 < a + n))) && !jobLocked s k

/-- The GLOBAL address of the job chip map (R336, R337). -/
def jmapVa (s : State) (k : Nat) : Nat := (jobWord s k 80).toNat / 64 * 64

/-- The fabric logic reads the job chip maps of partitions whose SNEN or JOBID has been written (R337). -/
def readJobMap (ks : List Nat) (s : State) : State :=
  ks.foldl (fun t k => t.mapPart k fun p => { p with jmap := setBytes [] 0 (readRun t k (jmapVa t k) 1024 3) }) s

/-- A write that sets DBELL posts a request, and one of STAT ends it (R388). -/
def mailSee (s : State) (a n : Nat) : State :=
  (upFrom 0 s.nparts).foldl (fun (t : State) k =>
    let m := mailboxAt t k
    if decide (a ≤ m + 0x80) && decide (m + 0x80 < a + n) then { t with mboxWait := t.mboxWait.filter fun j => decide (j ≠ k) }
    else if decide (a ≤ m + 0x40) && decide (m + 0x40 < a + n) && (getByte t.mem (m + 0x40)).getLsbD 0 then
      { t with mboxWait := addNew t.mboxWait k }
    else t) s

/-- Write bytes to physical memory as one write of a given colour, apart from its granules: the bits software may not write,
then `rawWrite`, and what the job block and the mailbox see. -/
def physBytes (s : State) (k : Nat) (new : Bool) (w : Writer) (page : Option PageRef) (a : Nat)
    (bs : List Byte) : State :=
  if bs.isEmpty || inCounterBlock s a then s
  else
    let n := bs.length
    let ks := mapReaders s a n
    mailSee (readJobMap ks (rawWrite s k new w.core page a (w.bytes s a bs))) a n

/-- Write bytes to physical memory as one write with its granules. -/
def physWrite (s : State) (k : Nat) (new : Bool) (w : Writer) (page : Option PageRef) (a : Nat)
    (bs : List Byte) : State :=
  if bs.isEmpty || inCounterBlock s a then s
  else physBytes (granuleRun s a bs.length) k new w page a bs

/-- Write bytes to the pocket, apart from its granules. -/
def pocketBytesTo (s : State) (o : Nat) (bs : List Byte) : State :=
  s.mapCtx fun c => { c with pocket := setBytes c.pocket o bs }

/-- Write bytes to the pocket, by granules (R219). -/
def pocketWrite (s : State) (o : Nat) (bs : List Byte) : State :=
  pocketBytesTo (granuleRun s (pocketKey s.core.id o) bs.length) o bs

/-! ## Held stores (R254 to R258, R268) -/

/-- The physical address of a location. -/
def locKeyOf (l : Loc) : Option Nat :=
  match l with
  | .phys a _ _ => some a
  | .pocket _ | .peer _ _ => none

/-- A run reaches the byte at a key. -/
def RunWrite.reaches (w : RunWrite) (a : Nat) : Bool := decide (w.key ≤ a) && decide (a < w.key + w.len)

/-- How many bytes of a granule runs write whole. -/
def coveredBytes (ws : List RunWrite) (g : Nat) : Nat :=
  ((upFrom g (granuleBytes g)).filter fun a => ws.any fun w => w.whole && w.reaches a).length

/-- The granules that runs write, with how many of their bytes they write whole (R219). -/
def granulesCovered (ws : List RunWrite) : List (Nat × Nat) :=
  ((ws.flatMap fun w => granulesOf w.key w.len).foldl addNew []).map fun g => (g, coveredBytes ws g)

/-- A held store comes from a strand, or from a core where no strand runs. -/
def Held.by (k : Nat) (r : Option SRef) (core : Nat) (h : Held) : Bool :=
  decide (h.part = k) && decide (h.owner = r) && (r.isSome || decide (h.core = core))

/-- A store of the scalar thread. -/
def Held.scalar (h : Held) : Bool := h.entry.isNone

/-- A held store comes from the strand whose turn it is. -/
def Held.mine (s : State) (h : Held) : Bool := h.by s.pidx s.core.strand s.core.id

/-- The transit filter of the partition holds a frame that a store reaches (R268, R311). -/
def transitHit (s : State) (k : Nat) (l : Loc) : Bool :=
  match l with
  | .phys a _ _ => (s.part k).transit.any fun t => decide (t.base ≤ a) && decide (a < t.base + t.size)
  | .pocket _ | .peer _ _ => false

/-- Two accesses meet in a byte. -/
def overlaps (l : Loc) (n : Nat) (l' : Loc) (n' : Nat) : Bool :=
  match l, l' with
  | .phys a _ _, .phys b _ _ => decide (a < b + n') && decide (b < a + n)
  | .pocket a, .pocket b => decide (a < b + n') && decide (b < a + n)
  | .peer c a, .peer d b => decide (c = d) && decide (a.toNat < b.toNat + n') && decide (b.toNat < a.toNat + n)
  | .phys _ _ _, .pocket _ | .phys _ _ _, .peer _ _ | .pocket _, .phys _ _ _ | .pocket _, .peer _ _
  | .peer _ _, .phys _ _ _ | .peer _ _, .pocket _ => false

/-- Two locations in one bank of the Commons (R238). -/
def sameBank (l l' : Loc) : Bool :=
  match l, l' with
  | .phys a _ _, .phys b _ _ => isCommons a && isCommons b
      && decide ((a - Config.commonsBase) / 4096 % 1024 = (b - Config.commonsBase) / 4096 % 1024)
  | .phys _ _ _, .pocket _ | .phys _ _ _, .peer _ _ | .pocket _, .phys _ _ _ | .pocket _, .pocket _ | .pocket _, .peer _ _
  | .peer _ _, .phys _ _ _ | .peer _ _, .pocket _ | .peer _ _, .peer _ _ => false

/-- A store that can be performed at strand or rib scope before chip scope: one to GLOBAL memory outside the Commons and SO
pages (R242, R255, R258). -/
def raisable (l : Loc) : Bool :=
  match l with
  | .phys a k _ => !isCommons a && decide (k ≠ kindSO)
  | .pocket _ | .peer _ _ => false

/-- The scope, as a reach, that a fence asks of a held store before an access of its strand to a page kind, accepted at a draw,
by the scalar thread or not: 3 performed, 0 nothing (R257, R260, R261). -/
def fenceNeed (h : Held) (scalar : Bool) (kind : BitVec 2) (at_ : Nat) : Nat :=
  h.fences.foldl (fun n f =>
    max n (if at_ < f.from_ then 0
      else if 3 ≤ f.need then 3
      else if decide (kind = kindUN) || decide (h.loc.kind = kindUN) then 0
      else if f.need = 0 then (if scalar && h.scalar then 3 else 0)
      else if raisable h.loc then f.need else 3)) 0

/-- The reach that an access of n bytes asks of a held store before it is performed, 3 being performed: what is older in the
same strand and writes the same bytes, when it is a scalar store or both are VIQ ones (R256); what is older on SO pages (R258)
or in the same bank (R242); what a fence orders; and, before a write, what can be read in the writer's rib (R215). -/
def accessNeed (mine : Bool) (core : Nat) (store scalar : Bool) (l : Loc) (n at_ : Nat) (h : Held) : Nat :=
  let meet := overlaps h.loc h.bytes.length l n
  if mine then
    if (store && meet && (h.scalar || !scalar)) || (decide (h.loc.kind = kindSO) && decide (l.kind = kindSO))
        || (h.scalar && scalar && sameBank h.loc l) then 3
    else fenceNeed h scalar l.kind at_
  else if store && meet && decide (2 ≤ h.reach) && decide (ribOf h.core = ribOf core) then 3 else 0

/-- The reach that a later held store asks of an older one before it comes to a reach of its own: before it is performed, all
that an access asks; before strand or rib scope, what a fence asks. -/
def heldNeed (g h : Held) (up : Nat) : Nat :=
  let mine := g.by h.part h.owner h.core
  if 3 ≤ up then accessNeed mine h.core true h.scalar h.loc h.bytes.length h.at_ g
  else if mine then fenceNeed g h.scalar h.loc.kind h.at_ else 0

/-- A held store that cannot be performed now: a `qfence` holds it (R261), or the transit filter does (R309, R311). -/
def heldStuck (s : State) (h : Held) : Bool := h.behind.isSome || transitHit s h.part h.loc

/-- The issuer of what the thread whose turn it is does. -/
def State.issuer (s : State) : Issuer := ⟨s.pidx, s.core.strand, s.ctx.snapCol, none⟩

/-- Send a PEER store to its chip (R338) on PREQ; while agents lag its packet is still to land (R354). -/
def sendStore (s : State) (o : Issuer) (chip : BitVec 12) (va : Word) (bs : List Byte) : State :=
  { s with
    outMsgs := s.outMsgs ++ [Msg.peerStore o.part chip va bs o.colour]
    flights := if s.lag then s.flights ++ [⟨o, 1, chip.toNat⟩] else s.flights }

/-- Two held stores of one instruction, whose bytes in a granule are one granule write (R219). -/
def Held.sameGroup (h g : Held) : Bool :=
  h.group.isSome && decide (g.group = h.group) && decide (g.entry = h.entry) && g.by h.part h.owner h.core

/-- The granule writes that a held store makes as it is performed: those of its instruction in granules where no store of it is
still held (R219). -/
def heldGranules (s : State) (h : Held) : State :=
  h.cover.foldl (fun t c =>
    if t.heldStores.any fun g => h.sameGroup g && g.cover.any fun d => decide (d.1 = c.1) then t
    else granuleWrite t c.1 c.2) s

/-- Perform one held store, taken out of the list already. -/
def performHeld (s : State) (h : Held) : State :=
  let new := newColour s h.part h.colour
  let w : Writer := if h.scalar then ⟨some h.core, some h.priv⟩ else .agent h.priv
  match h.loc with
  | .phys a _ page => physBytes (heldGranules s h) h.part new w page a h.bytes
  | .pocket o => pocketBytesTo (heldGranules s h) o h.bytes
  | .peer chip va => sendStore s ⟨h.part, h.owner, h.colour, none⟩ chip va h.bytes

/-- The reach every held store comes to when each is asked for at least `sel` of it: what a store that reaches a scope waits for
goes first, and nothing that is stuck or waits for what is stuck moves (R257, R261, R268). Oldest first; `stuck` are the older
ones that do not move. -/
def heldLevels (s : State) (sel : Held → Nat) (stuck : List Held) : List Held → List (Held × Nat)
  | [] => []
  | h :: t =>
    if heldStuck s h || stuck.any fun g => decide (g.reach < heldNeed g h 3) then (h, 0) :: heldLevels s sel (stuck ++ [h]) t
    else
      let r := heldLevels s sel stuck t
      let asked := r.foldl (fun n p => if 0 < p.2 then max n (heldNeed h p.1 p.2) else n) (sel h)
      let lvl := if asked = 0 then 0 else if raisable h.loc then asked else 3
      (h, lvl) :: r

/-- Perform held stores in order. -/
def performAll : List Held → State → State
  | [], s => s
  | h :: t, s => performAll t (performHeld { s with heldStores := s.heldStores.filter fun g => decide (g ≠ h) } h)

/-- Bring held stores to the reach asked of them: 3 performs them. -/
def settleHeld (sel : Held → Nat) (s : State) : State :=
  if s.heldStores.isEmpty then s
  else
    let ms := heldLevels s sel [] s.heldStores
    performAll ((ms.filter fun p => decide (3 ≤ p.2)).map Prod.fst)
      { s with heldStores := ms.map fun p => if p.2 < 3 then { p.1 with reach := max p.1.reach p.2 } else p.1 }

/-- Perform the held stores of a selection in order. -/
def flushWhere (sel : Held → Bool) (s : State) : State := settleHeld (fun h => if sel h then 3 else 0) s

/-- Perform every held store of the strand whose turn it is. -/
def flushHeld (s : State) : State := flushWhere (Held.mine s) s

/-- What an access of the strand whose turn it is asks of a held store. -/
def State.need (s : State) (store scalar : Bool) (l : Loc) (n : Nat) (h : Held) : Nat :=
  accessNeed (h.mine s) s.core.id store scalar l n s.draws h

/-- Bring the held stores to what an access of n bytes at a location asks of them (R242, R256 to R258, R261). -/
def orderFor (store scalar : Bool) (l : Loc) (n : Nat) (s : State) : State := settleHeld (s.need store scalar l n) s

/-- An access must still wait for a held store. The handler's own accesses wait for none (log 101). -/
def mustWait (store scalar : Bool) (l : Loc) (n : Nat) (s : State) : Bool :=
  decide (s.core.priv = .user) && s.heldStores.any fun h => decide (h.reach < s.need store scalar l n h)

/-- Order the strand's held scalar stores before its younger scalar accesses (R84, R260): a mark on each; UN pages are never
covered. -/
def fenceMarks (s : State) : State :=
  if s.heldStores.any (fun h => h.mine s && h.scalar) then
    { s with
      draws := s.draws + 1
      heldStores := s.heldStores.map fun h =>
        if h.mine s && h.scalar then { h with fences := ⟨s.draws + 1, 0⟩ :: h.fences } else h }
  else s

/-- What a base rl orders before its own access (R86, R257): the strand's scalar stores, but those to UN pages, are performed. -/
def flushFence (s : State) : State := flushWhere (fun h => h.mine s && h.scalar && decide (h.loc.kind ≠ kindUN)) s

/-- The strand still has a scalar store that no fence could perform. -/
def scalarLeft (s : State) : Bool := s.heldStores.any fun h => h.mine s && h.scalar

/-- A `qfence` of a scope orders the strand's held stores before its younger accesses (R261): at chip and job scope they are
performed; at strand and rib scope, and where they cannot be performed, they carry its mark. -/
def qfenceMarks (scope : Nat) (s : State) : State :=
  let t := if 2 ≤ scope then flushWhere (Held.mine s) s else s
  if t.heldStores.any (Held.mine t) then
    { t with
      draws := t.draws + 1
      heldStores := t.heldStores.map fun h =>
        if h.mine t then { h with fences := ⟨t.draws + 1, if 2 ≤ scope then 3 else scope + 1⟩ :: h.fences } else h }
  else t

/-- An `efence` of a scope performs the strand's scalar stores at it (R262), those to UN pages at chip and job scope. -/
def efenceStores (scope : Nat) (s : State) : State :=
  settleHeld (fun h => if h.mine s && h.scalar && (decide (2 ≤ scope) || decide (h.loc.kind ≠ kindUN))
    then (if 2 ≤ scope then 3 else scope + 1) else 0) s

/-- A scalar store of the strand is not performed at a scope yet. -/
def efenceLeft (scope : Nat) (s : State) : Bool :=
  s.heldStores.any fun h => h.mine s && h.scalar && (decide (2 ≤ scope) || decide (h.loc.kind ≠ kindUN))
    && decide (h.reach < (if 2 ≤ scope then 3 else scope + 1))

/-- The units that read memory for a strand (R254). -/
inductive Reader where
  | scalar | vector | engine
  deriving DecidableEq, Repr

/-- Whose held stores a reader sees before they are performed (R254 to R256): a strand's scalar thread its own scalar
stores, and those performed at strand scope; its vector unit all its own, its copy engine its scalar ones (R266), but none that
is performed at no scope (R261) and, the engine, none to an SO page (R258); and every agent of a rib those that can be read in
it. -/
def heldSeen (k : Nat) (r : Option SRef) (core : Nat) (x : Reader) (h : Held) : Bool :=
  (h.by k r core && (match x with
    | .scalar => h.scalar || decide (1 ≤ h.reach)
    | .vector => h.behind.isNone
    | .engine => h.behind.isNone && decide (h.loc.kind ≠ kindSO) && (h.scalar || decide (1 ≤ h.reach))))
    || (decide (2 ≤ h.reach) && decide (ribOf h.core = ribOf core))

/-- The byte that the held stores a reader sees leave at an address. -/
def heldByte (sees : Held → Bool) (hs : List Held) (a : Nat) : Option Byte :=
  hs.foldl (fun acc h =>
    match h.loc with
    | .phys b _ _ => if sees h && decide (b ≤ a) && decide (a < b + h.bytes.length) then h.bytes[a - b]? else acc
    | .pocket _ | .peer _ _ => acc) none

/-- The n bytes a reader finds at a physical address. -/
def seenBytes (sees : Held → Bool) (s : State) (a n : Nat) : List Byte :=
  let raw := getBytes s.mem a n
  if s.heldStores.isEmpty then raw
  else (upFrom 0 n).map fun i => (heldByte sees s.heldStores (a + i)).getD (raw.getD i 0)

/-- Another chip refuses a PEER access: a free choice (R338). -/
def peerRefuses (s : State) : Bool := decide (Config.pick s.draws % 2 = 1)

/-! ## Reads and writes at a location -/

/-- Read n bytes at a location with the poison check (R218), by one of the strand's units, in no order. A PEER load that its
target refuses page-faults (R223, R338). `tv` is the trap value. -/
def readRaw (x : Reader) (acc : Acc) (l : Loc) (n : Nat) (tv : Word) : M (List Byte) := do
  let s ← get
  match l with
  | .phys a _ _ =>
    if isPort a then throw (.port a)
    else
      let (bad, s') := scrubRead s a n
      set s'
      if bad then trapM (poisonCause s' acc) tv
      else return seenBytes (heldSeen s'.pidx s'.core.strand s'.core.id x) s' a n
  | .pocket o =>
    let (bad, s') := scrubRead s (pocketKey s.core.id o) n
    set s'
    if bad then trapM (poisonCause s' acc) tv
    else return getBytes s'.ctx.pocket o n
  | .peer chip va =>
    let s' := { s with
      outMsgs := s.outMsgs ++ [Msg.peerLoad s.pidx chip va n]
      draws := s.draws + n + 1 }
    set s'
    if peerRefuses s then trapM cLoadPage tv
    else return (upFrom (s.draws + 1) n).map Config.freeByte

/-- Read as an access of the strand, after what it asks of its held stores (R242, R257, R258, R261). -/
def readBy (x : Reader) (acc : Acc) (l : Loc) (n : Nat) (tv : Word) : M (List Byte) := do
  modify (orderFor false (decide (x = .scalar)) l n)
  let s ← get
  if mustWait false (decide (x = .scalar)) l n s then throw .stall else readRaw x acc l n tv

/-- Read by the scalar thread. -/
def readLoc (l : Loc) (n : Nat) (tv : Word) : M (List Byte) := readBy .scalar .load l n tv

/-- Read by the vector unit. -/
def readVec (l : Loc) (n : Nat) (tv : Word) : M (List Byte) := readBy .vector .load l n tv

/-- Write bytes at a location for the thread whose turn it is, after the held stores it follows, with its granules or, where
its instruction writes them itself (R219), without. A PEER store that its target refuses takes LATEPF (R223, R338;
DEDUCED, log 105). -/
def writeBy (granules : Bool) (l : Loc) (bs : List Byte) (tv : Word) : M Unit := do
  modify (orderFor true true l bs.length)
  let s ← get
  if mustWait true true l bs.length s then throw .stall
  match l with
  | .phys a _ page =>
    if isPort a then throw (.port a)
    else
      let new := colourNew s s.pidx s.ctx
      set (if granules then physWrite s s.pidx new s.writer page a bs else physBytes s s.pidx new s.writer page a bs)
  | .pocket o => set (if granules then pocketWrite s o bs else pocketBytesTo s o bs)
  | .peer chip va =>
    set { sendStore s s.issuer chip va bs with draws := s.draws + 1 }
    if peerRefuses s then trapM cLatepf tv else return ()

/-- Write bytes at a location with their granules. -/
def writeLoc (l : Loc) (bs : List Byte) (tv : Word) : M Unit := writeBy true l bs tv

/-! ## The scalar access path (R83, R216) -/

/-- Resolve a scalar data access: alignment, address form, translation (R83, R216). -/
def scalarLoc (acc : Acc) (va : Word) (n : Nat) : M Loc := do
  let s ← get
  if va.toNat % n ≠ 0 then trapM (match acc with
    | .store => cMisStore
    | .fetch | .load => cMisLoad) va
  else resolveGlobal acc (dataPriv s) acc.accessCause va n

/-- A location that a speculative escrow iteration must not touch (R200): an SO or UN page, the Commons, the pocket,
another chip. -/
def specDefers (l : Loc) : Bool :=
  match l with
  | .phys a kind _ => isCommons a || decide (kind ≠ kindRC)
  | .pocket _ | .peer _ _ => true

/-- A deferred operation of the focus participant: counted once, it stalls until the iteration is the oldest (R200).
In a guess routine the operation ends the routine instead, not performed (R197). -/
def deferFocus (c : Ctx) : Ctx :=
  match c.esc with
  | some e =>
    match e.focusPart with
    | some p =>
      if p.guessing then c.endGuess false
      else if p.stalled then c
      else { c with esc := some { e with parts := setAt e.parts e.focus { p with stalled := true }, ndef := e.ndef + 1 } }
    | none => c
  | none => c

/-- Defer inside a computation. -/
def deferSpec : M Unit := do
  modify fun s => s.mapCtx deferFocus
  throw .stall

/-- Insert a number into a rising list, once. -/
def insertRising : List Nat → Nat → List Nat
  | [], n => [n]
  | k :: t, n => if n < k then n :: k :: t else if n = k then k :: t else k :: insertRising t n

/-- Mark the lines a speculative load reads, and overlay the iteration's own escrow bytes (R199). -/
def specRead (a n : Nat) (raw : List Byte) : M (List Byte) := do
  let s ← get
  match s.ctx.esc with
  | none => return raw
  | some e =>
    match e.focusPart with
    | none => return raw
    | some p =>
      let reads := (upFrom (a / 128) ((a + n - 1) / 128 - a / 128 + 1)).foldl addNew p.reads
      set (s.mapCtx fun c => { c with esc := some { e with parts := setAt e.parts e.focus { p with reads := reads } } })
      return (upFrom 0 n).map fun i =>
        if (a + i) ∈ p.written then getByte p.stores (a + i) else raw.getD i 0

/-- Hold a speculative iteration's store in its escrow lines, stalling when the budget would be passed (R199,
R200). -/
def specWrite (a : Nat) (page : Option PageRef) (bs : List Byte) : M Unit := do
  let s ← get
  match s.ctx.esc with
  | none => return ()
  | some e =>
    match e.focusPart with
    | none => return ()
    | some p =>
      let lines := addNew p.lines (a / 128)
      if lines.length > 128 * 2 ^ e.bud.toNat ∧ lines.length > p.lines.length then deferSpec
      else
        let p' := { p with
          lines := lines
          written := (upFrom a bs.length).foldl insertRising p.written
          writes := p.writes ++ [(a, bs.length)]
          stores := setBytes p.stores a bs
          pages := match page with
            | some r => (a / 128, r) :: p.pages
            | none => p.pages }
        set (s.mapCtx fun c => { c with esc := some { e with parts := setAt e.parts e.focus p' } })

/-- A VIQ entry that accesses memory: every M-space form, and `atabld` (R261). -/
def memInstr (i : Instr) : Bool :=
  match i with
  | .vldUnit .. | .vldStrided .. | .vldIndexed .. | .vstUnit .. | .vstStrided .. | .vstIndexed .. | .vldffUnit ..
  | .vldffStrided .. | .vldffIndexed .. | .vlwin .. | .vstc .. | .vqldUnit .. | .vqldStrided .. | .vqstUnit ..
  | .vqstStrided .. | .vmld .. | .vmst .. | .vldr .. | .vstr .. | .vtadd .. | .vtmin .. | .vtmax .. | .vkld .. | .vkst ..
  | .atabld .. => true
  | _ => false

/-- A VIQ entry still to access memory: one that is frozen waits for the handler's return, and holds nothing up (R272;
DEDUCED, log 100). -/
def memEntry (en : VEntry) : Bool := !en.frozen && memInstr en.instr

/-- The VIQ entry a younger access of the strand is held behind (R261, R268). The handler's own accesses are held by none,
or it could not make the page present (DEDUCED, log 101). -/
def heldBehind (s : State) (l : Loc) : Option Nat :=
  match s.ctx.barrier with
  | some b =>
    if s.core.priv = .user && b.marks.any (fun f => decide (3 ≤ f.need) || decide (l.kind ≠ kindUN)) then some b.entry
    else none
  | none => none

/-- A `qfence` orders what the strand does now after a store of its VIQ that is not acknowledged yet (R261). -/
def barred (s : State) : Bool := s.ctx.barrier.isSome && decide (s.core.priv = .user)

/-- A scalar access waits: a load for the store it is held behind (R261), an SO access for every older VIQ access of the
strand to be translated and its SO elements performed (R258). -/
def scalarWaits (s : State) (l : Loc) : Bool :=
  (heldBehind s l).isSome || (decide (l.kind = kindSO) && s.ctx.viq.any memEntry)

/-- A scalar load of n bytes (R216). DESIGN CHOICE (log 46): loads are performed at once, in program order, though R257 leaves
them unordered. -/
def scalarLoad (va : Word) (n : Nat) : M (List Byte) := do
  let l ← scalarLoc .load va n
  let s ← get
  if s.ctx.isSpec then
    if specDefers l then
      deferSpec
      return []
    else
      let raw ← readLoc l n va
      match l with
      | .phys a _ _ => specRead a n raw
      | .pocket _ | .peer _ _ => return raw
  else if scalarWaits s l then throw .stall
  else readLoc l n va

/-- A scalar store of the strand drops the descriptor-cache entries it touches (R284). -/
def dropDesc (va : Word) (n : Nat) (c : Ctx) : Ctx :=
  { c with dcache := c.dcache.filter fun e =>
      decide (va.toNat + n ≤ e.1.toNat) || decide (e.1.toNat + 64 ≤ va.toNat) }

/-- Hold a scalar store at the rib ordering point (R268). -/
def holdStore (group : Option Nat) (l : Loc) (bs : List Byte) (behind : Option Nat) (s : State) : State :=
  let cover := match group, locKeyOf l with
    | none, some a => granulesCovered [⟨a, bs.length, true, false⟩]
    | none, none | some _, _ => []
  { s with heldStores := s.heldStores ++
      [⟨s.pidx, s.core.id, s.core.strand, s.ctx.snapCol, dataPriv s, l, bs, s.draws, none, group, cover, 0, behind, []⟩] }

/-- Bytes that meet a capability record, whose CAP takes effect as it is stored (R315). -/
def meetsCaps (s : State) (a n : Nat) : Bool :=
  (ctlRuns s).any fun r => decide (r.ctl = .caps) && decide (r.phys < a + n) && decide (a < r.phys + r.len)

/-- A location where the rib ordering point can hold a scalar store of n bytes: memory on this chip (R242, R255) but the
capability records. -/
def holdable (s : State) (l : Loc) (n : Nat) : Bool :=
  match l with
  | .phys a _ _ => !isPort a && !meetsCaps s a n
  | .pocket _ | .peer _ _ => false

/-- Where a scalar store of n bytes is accepted, with the TRANSIT check (R268, cause 15). -/
def storePlace (va : Word) (n : Nat) : M Loc := do
  let l ← scalarLoc .store va n
  modify fun s => s.mapCtx (dropDesc va n)
  let s ← get
  if transitHit s s.pidx l then trapM cStorePage va else return l

/-- An accepted scalar store is performed, or held at the rib ordering point while other agents lag or it follows a store not
yet acknowledged. A store that cannot be held there waits instead. -/
def acceptStore (group : Option Nat) (l : Loc) (bs : List Byte) (va : Word) : M Unit := do
  let s ← get
  let t := orderFor true true l bs.length s
  if l.kind = kindSO ∧ s.ctx.viq.any memEntry = true then throw .stall
  else if holdable s l bs.length && (s.lag || (heldBehind s l).isSome || mustWait true true l bs.length t) then
    set (holdStore group l bs (heldBehind s l) s)
  else if (heldBehind s l).isSome then throw .stall
  else writeBy group.isNone l bs va

/-- A scalar store of bytes (R216). -/
def scalarStore (va : Word) (bs : List Byte) : M Unit := do
  let l ← storePlace va bs.length
  let s ← get
  if s.ctx.isSpec then
    if specDefers l then deferSpec
    else match l with
      | .phys a _ page => specWrite a page bs
      | .pocket _ | .peer _ _ => deferSpec
  else acceptStore none l bs va

/-! ## Instruction fetch (R81, R99, R367, R416) -/

/-- The object of the strand on a core, with its imports. -/
def strandObjects (s : State) : List Word :=
  match s.core.strand with
  | none => []
  | some r =>
    match (s.part s.pidx).launches.find? fun l => decide (l.serial = r.launch) with
    | none => []
    | some l =>
      l.obj :: match (s.part s.pidx).objs.find? fun o => decide (o.handle = l.obj) with
        | some o => o.imports
        | none => []

/-- A frame that holds sealed text the strand may fetch (R367). -/
def fetchOwned (s : State) (a : Nat) : Bool :=
  (s.part s.pidx).objs.any fun o => decide (o.handle ∈ strandObjects s) && decide (a / 65536 ∈ o.textFrames)

/-- The instruction word a core executes from an address whose memory holds w (R85, R215): while agents lag the I$ may
still serve the word it first read there, a free choice, until `fence.i`. -/
def icacheServe (a : Nat) (w : BitVec 32) (s : State) : BitVec 32 × State :=
  if !s.lag then (w, s)
  else
    let put (t : State) : State :=
      { t with core := { t.core with icache := (a, w) :: t.core.icache.filter fun p => decide (p.1 ≠ a) } }
    match s.core.icache.find? fun p => decide (p.1 = a) with
    | none => (w, put s)
    | some (_, old) =>
      if old = w then (w, s)
      else
        let t := { s with draws := s.draws + 1 }
        if Config.pick s.draws % 2 = 0 then (old, t) else (w, put t)

/-- Fetch the word at the pc, with the faults of R99 in their order. No frame of another chip holds sealed text of this
partition, so a U-mode fetch there traps OBJECT (R367). -/
def fetchM : M (BitVec 32) := do
  let s ← get
  let pc := s.ctx.pc
  let l ← resolveGlobal .fetch s.core.priv cFetchAccess pc 4
  let s ← get
  match l with
  | .phys a _ _ =>
    if s.core.priv = .user ∧ fetchOwned s a = false then trapM cObject pc
    else
      let bs ← readRaw .scalar .fetch l 4 pc
      let t ← get
      let r := icacheServe a (BitVec.ofNat 32 (leNat bs)) t
      set r.2
      return r.1
  | .pocket _ => trapM cFetchAccess pc
  | .peer _ _ =>
    if s.core.priv = .user then trapM cObject pc
    else
      let bs ← readRaw .scalar .fetch l 4 pc
      return BitVec.ofNat 32 (leNat bs)

end Sys2Proof.Machine
end

