-- ==== Sys2Proof/Machine/OpMap.lean ====
section
/-! DEFINITION. The opcode map's attributes (Tables 4.3 to 4.6, R95, R96): the group of each code point, its profile,
its assay class, the privilege it needs; and the scalar registers each instruction names. -/

namespace Sys2Proof.Machine

/-- The group a constructor belongs to. -/
inductive Group where
  | base | seq | cfg | copy | teller | sys | sync | fence | mem | vec | cable | hint | event
  deriving DecidableEq, Repr

/-- How a code point's assay class is chosen (R95); class numbers are the bits of Table 15.3. -/
inductive ClassSel where
  | none
  | fixed (c : Nat)
  | byTag (r : VReg5) (int fp32 fp16 : Nat)
  | cable (z : Bool) (a b : VReg5)
  deriving DecidableEq, Repr

/-- One row's attributes. The profile is its bit in `pcfg`.PROF: 0 HV, 1 HM, 2 HQ, 3 HG (Table 5.6). -/
structure OpAttr where
  group : Group
  prof : Option Nat
  cls : ClassSel
  priv : Priv
  deriving DecidableEq, Repr

/-- Class SI or SM of a base arithmetic form (R96). -/
def aluClass : AluForm → Nat
  | .op o _ _ _ => match o with
    | .mul | .mulh | .mulhsu | .mulhu | .div | .divu | .rem | .remu => 1
    | .add | .sub | .sll | .slt | .sltu | .xor | .srl | .sra | .or | .and => 0
  | .opW o _ _ _ => match o with
    | .mulw | .divw | .divuw | .remw | .remuw => 1
    | .addw | .subw | .sllw | .srlw | .sraw => 0
  | .lui _ _ | .auipc _ _ | .opImm _ _ _ _ | .shImm _ _ _ _ | .addiw _ _ _ | .shImmW _ _ _ _ => 0

/-- The attributes of every row. -/
def opAttr (i : Instr) : OpAttr :=
  match i with
  | .baseAlu f => ⟨.base, none, (.fixed (aluClass f)), .user⟩
  | .baseBranchJump _ => ⟨.base, none, (.fixed 0), .user⟩
  | .baseLoad _ _ _ _ => ⟨.base, none, (.fixed 0), .user⟩
  | .baseStore _ _ _ _ => ⟨.base, none, (.fixed 0), .user⟩
  | .baseAmo _ _ _ _ _ _ _ => ⟨.base, none, (.fixed 2), .user⟩
  | .baseLr _ _ _ _ _ => ⟨.base, none, (.fixed 2), .user⟩
  | .baseSc _ _ _ _ _ _ => ⟨.base, none, (.fixed 2), .user⟩
  | .fence _ _ _ _ _ => ⟨.base, none, (.fixed 0), .user⟩
  | .fenceI _ _ _ => ⟨.base, none, (.fixed 0), .user⟩
  | .ecall => ⟨.base, none, (.fixed 0), .user⟩
  | .ebreak => ⟨.base, none, (.fixed 0), .user⟩
  | .wfi => ⟨.base, none, (.fixed 0), .supervisor⟩
  | .sret => ⟨.base, none, (.fixed 0), .supervisor⟩
  | .mret => ⟨.base, none, (.fixed 0), .machine⟩
  | .csrWrite _ _ _ _ => ⟨.base, none, (.fixed 0), .user⟩
  | .vlWrite _ _ _ => ⟨.base, none, (.fixed 0), .user⟩
  | .vxflagsWrite _ _ _ => ⟨.base, none, (.fixed 0), .user⟩
  | .ptrootWrite _ _ _ => ⟨.base, none, (.fixed 0), .user⟩
  | .partitionSetup _ _ _ => ⟨.base, none, (.fixed 0), .user⟩
  | .profileEnableWrite _ _ _ => ⟨.base, none, (.fixed 0), .user⟩
  | .assayNoticeClear _ _ _ _ => ⟨.base, none, (.fixed 0), .user⟩
  | .capWrite _ _ => ⟨.event, none, .none, .user⟩
  | .loop _ _ _ => ⟨.seq, some 0, (.fixed 27), .user⟩
  | .lexit _ => ⟨.seq, some 0, (.fixed 27), .user⟩
  | .lsave _ => ⟨.seq, some 0, (.fixed 27), .user⟩
  | .lrest _ => ⟨.seq, some 0, (.fixed 27), .user⟩
  | .lrd _ _ => ⟨.seq, some 0, (.fixed 27), .user⟩
  | .escOpen _ => ⟨.seq, some 3, (.fixed 26), .user⟩
  | .escCmp _ => ⟨.seq, some 3, (.fixed 26), .user⟩
  | .escClose => ⟨.seq, some 3, (.fixed 26), .user⟩
  | .escRet => ⟨.seq, some 3, (.fixed 26), .user⟩
  | .escAbort => ⟨.seq, some 3, (.fixed 26), .user⟩
  | .escStat _ => ⟨.seq, some 3, (.fixed 26), .user⟩
  | .guessRoutineEnd => ⟨.event, none, .none, .user⟩
  | .escrowHelperJoin _ => ⟨.event, none, .none, .user⟩
  | .escrowHelperReclaim _ => ⟨.event, none, .none, .user⟩
  | .escrowConflictSquash _ _ => ⟨.event, none, .none, .user⟩
  | .escrowDeferredResume => ⟨.event, none, .none, .user⟩
  | .vdecl _ => ⟨.cfg, some 0, (.fixed 3), .user⟩
  | .vsetl _ _ _ => ⟨.cfg, some 0, (.fixed 3), .user⟩
  | .vtag _ _ => ⟨.cfg, some 0, (.fixed 3), .user⟩
  | .vtagrd _ _ => ⟨.cfg, some 0, (.fixed 3), .user⟩
  | .dset _ _ _ => ⟨.cfg, some 1, (.fixed 17), .user⟩
  | .dflip _ => ⟨.cfg, some 1, (.fixed 17), .user⟩
  | .dscale _ _ _ => ⟨.cfg, some 1, (.fixed 23), .user⟩
  | .dshape _ _ => ⟨.cfg, some 1, (.fixed 17), .user⟩
  | .kalloc _ _ => ⟨.cfg, some 1, (.fixed 22), .user⟩
  | .kfree _ => ⟨.cfg, some 1, (.fixed 22), .user⟩
  | .kzero _ => ⟨.cfg, some 1, (.fixed 22), .user⟩
  | .vsrseed _ => ⟨.cfg, some 0, (.fixed 14), .user⟩
  | .atabld _ _ => ⟨.cfg, some 1, (.fixed 22), .user⟩
  | .cpy _ _ _ _ => ⟨.copy, some 2, (.fixed 24), .user⟩
  | .cpys _ _ _ _ => ⟨.copy, some 2, (.fixed 24), .user⟩
  | .cpyv _ _ _ _ => ⟨.copy, some 2, (.fixed 24), .user⟩
  | .cpyvs _ _ _ _ => ⟨.copy, some 2, (.fixed 24), .user⟩
  | .ctile _ _ _ _ => ⟨.copy, some 2, (.fixed 25), .user⟩
  | .cring _ _ _ _ => ⟨.copy, some 2, (.fixed 24), .user⟩
  | .cpyvElementLand _ _ => ⟨.event, none, .none, .user⟩
  | .copyComplete _ => ⟨.event, none, .none, .user⟩
  | .overdraft => ⟨.event, none, .none, .user⟩
  | .cringReserve _ => ⟨.event, none, .none, .user⟩
  | .tadd _ _ _ _ => ⟨.teller, some 2, (.fixed 28), .user⟩
  | .tmin _ _ _ _ => ⟨.teller, some 2, (.fixed 28), .user⟩
  | .tmax _ _ _ _ => ⟨.teller, some 2, (.fixed 28), .user⟩
  | .tand _ _ _ _ => ⟨.teller, some 2, (.fixed 28), .user⟩
  | .tor _ _ _ _ => ⟨.teller, some 2, (.fixed 28), .user⟩
  | .txchg _ _ _ _ => ⟨.teller, some 2, (.fixed 28), .user⟩
  | .tcas _ _ _ _ => ⟨.teller, some 2, (.fixed 28), .user⟩
  | .tcmd _ _ _ => ⟨.teller, some 2, (.fixed 28), .user⟩
  | .tcmdComplete _ => ⟨.event, none, .none, .user⟩
  | .pset _ _ => ⟨.teller, some 2, (.fixed 28), .user⟩
  | .pwait _ _ => ⟨.teller, some 2, (.fixed 28), .user⟩
  | .ptest _ _ => ⟨.teller, some 2, (.fixed 28), .user⟩
  | .rres _ _ => ⟨.teller, some 2, (.fixed 28), .user⟩
  | .rpub _ _ => ⟨.teller, some 2, (.fixed 28), .user⟩
  | .racq _ _ => ⟨.teller, some 2, (.fixed 28), .user⟩
  | .rrel _ _ => ⟨.teller, some 2, (.fixed 28), .user⟩
  | .rocc _ _ => ⟨.teller, some 2, (.fixed 28), .user⟩
  | .bar _ _ _ => ⟨.teller, some 2, (.fixed 28), .user⟩
  | .wqpost _ _ _ => ⟨.sys, some 2, (.fixed 28), .user⟩
  | .lvlwait _ _ => ⟨.sys, some 2, (.fixed 28), .user⟩
  | .lvlcancel _ => ⟨.sys, some 2, (.fixed 28), .user⟩
  | .sexit => ⟨.sys, some 2, (.fixed 0), .user⟩
  | .syield => ⟨.sys, some 2, (.fixed 0), .user⟩
  | .snapBegin _ => ⟨.sys, some 3, (.fixed 29), .user⟩
  | .snapStat _ _ => ⟨.sys, some 3, (.fixed 29), .user⟩
  | .snapRollback _ => ⟨.sys, some 3, (.fixed 29), .supervisor⟩
  | .mint _ _ => ⟨.sys, some 3, (.fixed 0), .user⟩
  | .mintResult => ⟨.event, none, .none, .user⟩
  | .assayReq _ => ⟨.sys, some 3, (.fixed 0), .supervisor⟩
  | .evt _ => ⟨.sys, some 2, (.fixed 28), .user⟩
  | .cho _ _ _ => ⟨.sys, some 2, (.fixed 30), .user⟩
  | .tlbinv _ _ => ⟨.sys, some 2, (.fixed 13), .supervisor⟩
  | .invalidationPort _ _ => ⟨.event, none, .none, .user⟩
  | .vaultSwap _ => ⟨.sys, some 3, (.fixed 0), .machine⟩
  | .hint => ⟨.hint, none, (.fixed 0), .user⟩
  | .vxget _ _ _ _ => ⟨.sync, some 0, (.fixed 11), .user⟩
  | .srqDeliver => ⟨.event, none, .none, .user⟩
  | .vxput _ _ _ => ⟨.sync, some 0, (.fixed 11), .user⟩
  | .vmpop _ _ _ => ⟨.sync, some 0, (.fixed 12), .user⟩
  | .vmfirst _ _ _ => ⟨.sync, some 0, (.fixed 12), .user⟩
  | .vmrd _ _ _ _ => ⟨.sync, some 0, (.fixed 12), .user⟩
  | .qfence _ => ⟨.fence, some 2, (.fixed 13), .user⟩
  | .efence _ => ⟨.fence, some 2, (.fixed 24), .user⟩
  | .kfence => ⟨.fence, some 1, (.fixed 22), .user⟩
  | .vldUnit _ _ _ _ => ⟨.mem, some 0, (.fixed 13), .user⟩
  | .vldStrided _ _ _ _ _ => ⟨.mem, some 0, (.fixed 13), .user⟩
  | .vldIndexed _ _ _ _ _ => ⟨.mem, some 0, (.fixed 13), .user⟩
  | .vstUnit _ _ _ _ => ⟨.mem, some 0, (.fixed 13), .user⟩
  | .vstStrided _ _ _ _ _ => ⟨.mem, some 0, (.fixed 13), .user⟩
  | .vstIndexed _ _ _ _ _ => ⟨.mem, some 0, (.fixed 13), .user⟩
  | .vldffUnit _ _ _ _ => ⟨.mem, some 0, (.fixed 13), .user⟩
  | .vldffStrided _ _ _ _ _ => ⟨.mem, some 0, (.fixed 13), .user⟩
  | .vldffIndexed _ _ _ _ _ => ⟨.mem, some 0, (.fixed 13), .user⟩
  | .vlwin _ _ _ _ _ => ⟨.mem, some 0, (.fixed 13), .user⟩
  | .vstc _ _ _ _ => ⟨.mem, some 0, (.fixed 13), .user⟩
  | .vqldUnit _ _ => ⟨.mem, some 0, (.fixed 13), .user⟩
  | .vqldStrided _ _ _ => ⟨.mem, some 0, (.fixed 13), .user⟩
  | .vqstUnit _ _ => ⟨.mem, some 0, (.fixed 13), .user⟩
  | .vqstStrided _ _ _ => ⟨.mem, some 0, (.fixed 13), .user⟩
  | .vmld _ _ => ⟨.mem, some 0, (.fixed 13), .user⟩
  | .vmst _ _ _ => ⟨.mem, some 0, (.fixed 13), .user⟩
  | .vldr _ _ => ⟨.mem, some 0, (.fixed 13), .user⟩
  | .vstr _ _ _ => ⟨.mem, some 0, (.fixed 13), .user⟩
  | .vtadd _ _ _ _ _ => ⟨.mem, some 2, (.fixed 28), .user⟩
  | .vtmin _ _ _ _ _ => ⟨.mem, some 2, (.fixed 28), .user⟩
  | .vtmax _ _ _ _ _ => ⟨.mem, some 2, (.fixed 28), .user⟩
  | .vkld _ _ => ⟨.mem, some 1, (.fixed 13), .user⟩
  | .vkst _ _ => ⟨.mem, some 1, (.fixed 13), .user⟩
  | .vaddVv _ _ _ _ vd => ⟨.vec, some 0, (.byTag vd 3 5 6), .user⟩
  | .vaddVx _ _ _ _ vd => ⟨.vec, some 0, (.byTag vd 3 5 6), .user⟩
  | .vaddVi _ _ _ _ vd => ⟨.vec, some 0, (.byTag vd 3 5 6), .user⟩
  | .vsubVv _ _ _ _ vd => ⟨.vec, some 0, (.byTag vd 3 5 6), .user⟩
  | .vsubVx _ _ _ _ vd => ⟨.vec, some 0, (.byTag vd 3 5 6), .user⟩
  | .vsubVi _ _ _ _ vd => ⟨.vec, some 0, (.byTag vd 3 5 6), .user⟩
  | .vmulVv _ _ _ _ vd => ⟨.vec, some 0, (.byTag vd 4 5 6), .user⟩
  | .vmulVx _ _ _ _ vd => ⟨.vec, some 0, (.byTag vd 4 5 6), .user⟩
  | .vmulVi _ _ _ _ vd => ⟨.vec, some 0, (.byTag vd 4 5 6), .user⟩
  | .vmacVv _ _ _ _ vd => ⟨.vec, some 0, (.byTag vd 4 5 6), .user⟩
  | .vmacVx _ _ _ _ vd => ⟨.vec, some 0, (.byTag vd 4 5 6), .user⟩
  | .vmacVi _ _ _ _ vd => ⟨.vec, some 0, (.byTag vd 4 5 6), .user⟩
  | .vminVv _ _ _ _ vd => ⟨.vec, some 0, (.byTag vd 3 5 6), .user⟩
  | .vminVx _ _ _ _ vd => ⟨.vec, some 0, (.byTag vd 3 5 6), .user⟩
  | .vminVi _ _ _ _ vd => ⟨.vec, some 0, (.byTag vd 3 5 6), .user⟩
  | .vmaxVv _ _ _ _ vd => ⟨.vec, some 0, (.byTag vd 3 5 6), .user⟩
  | .vmaxVx _ _ _ _ vd => ⟨.vec, some 0, (.byTag vd 3 5 6), .user⟩
  | .vmaxVi _ _ _ _ vd => ⟨.vec, some 0, (.byTag vd 3 5 6), .user⟩
  | .vandVv _ _ _ _ _ => ⟨.vec, some 0, (.fixed 3), .user⟩
  | .vandVx _ _ _ _ _ => ⟨.vec, some 0, (.fixed 3), .user⟩
  | .vandVi _ _ _ _ _ => ⟨.vec, some 0, (.fixed 3), .user⟩
  | .vorVv _ _ _ _ _ => ⟨.vec, some 0, (.fixed 3), .user⟩
  | .vorVx _ _ _ _ _ => ⟨.vec, some 0, (.fixed 3), .user⟩
  | .vorVi _ _ _ _ _ => ⟨.vec, some 0, (.fixed 3), .user⟩
  | .vxorVv _ _ _ _ _ => ⟨.vec, some 0, (.fixed 3), .user⟩
  | .vxorVx _ _ _ _ _ => ⟨.vec, some 0, (.fixed 3), .user⟩
  | .vxorVi _ _ _ _ _ => ⟨.vec, some 0, (.fixed 3), .user⟩
  | .vshlVv _ _ _ _ _ => ⟨.vec, some 0, (.fixed 3), .user⟩
  | .vshlVx _ _ _ _ _ => ⟨.vec, some 0, (.fixed 3), .user⟩
  | .vshlVi _ _ _ _ _ => ⟨.vec, some 0, (.fixed 3), .user⟩
  | .vshrVv _ _ _ _ _ => ⟨.vec, some 0, (.fixed 3), .user⟩
  | .vshrVx _ _ _ _ _ => ⟨.vec, some 0, (.fixed 3), .user⟩
  | .vshrVi _ _ _ _ _ => ⟨.vec, some 0, (.fixed 3), .user⟩
  | .vdivVv _ _ _ _ vd => ⟨.vec, some 0, (.byTag vd 4 8 8), .user⟩
  | .vdivVx _ _ _ _ vd => ⟨.vec, some 0, (.byTag vd 4 8 8), .user⟩
  | .vdivVi _ _ _ _ vd => ⟨.vec, some 0, (.byTag vd 4 8 8), .user⟩
  | .vcmpVv _ _ vs1 _ _ _ => ⟨.vec, some 0, (.byTag vs1 3 5 6), .user⟩
  | .vcmpVx _ _ vs1 _ _ _ => ⟨.vec, some 0, (.byTag vs1 3 5 6), .user⟩
  | .vcmpVi _ _ vs1 _ _ _ => ⟨.vec, some 0, (.byTag vs1 3 5 6), .user⟩
  | .vmergeVv _ _ _ _ _ => ⟨.vec, some 0, (.fixed 3), .user⟩
  | .vmergeVx _ _ _ _ _ => ⟨.vec, some 0, (.fixed 3), .user⟩
  | .vmergeVi _ _ _ _ _ => ⟨.vec, some 0, (.fixed 3), .user⟩
  | .vpermGather _ _ _ _ _ => ⟨.vec, some 0, (.fixed 11), .user⟩
  | .vpermSlideVx _ _ _ _ _ => ⟨.vec, some 0, (.fixed 11), .user⟩
  | .vpermSlideVi _ _ _ _ _ => ⟨.vec, some 0, (.fixed 11), .user⟩
  | .vslideupVx _ _ _ _ _ => ⟨.vec, some 0, (.fixed 11), .user⟩
  | .vslideupVi _ _ _ _ _ => ⟨.vec, some 0, (.fixed 11), .user⟩
  | .vmov _ _ _ _ => ⟨.vec, some 0, (.fixed 3), .user⟩
  | .vneg _ _ _ vd => ⟨.vec, some 0, (.byTag vd 3 5 6), .user⟩
  | .vabs _ _ _ vd => ⟨.vec, some 0, (.byTag vd 3 5 6), .user⟩
  | .vnot _ _ _ _ => ⟨.vec, some 0, (.fixed 3), .user⟩
  | .vsqrt _ _ _ _ => ⟨.vec, some 0, (.fixed 8), .user⟩
  | .vrsqrt _ _ _ _ => ⟨.vec, some 0, (.fixed 8), .user⟩
  | .vrcp _ _ _ _ => ⟨.vec, some 0, (.fixed 8), .user⟩
  | .vexp2 _ _ _ _ => ⟨.vec, some 0, (.fixed 9), .user⟩
  | .vlog2 _ _ _ _ => ⟨.vec, some 0, (.fixed 9), .user⟩
  | .vsin _ _ _ _ => ⟨.vec, some 0, (.fixed 9), .user⟩
  | .vcos _ _ _ _ => ⟨.vec, some 0, (.fixed 9), .user⟩
  | .vtanh _ _ _ _ => ⟨.vec, some 0, (.fixed 9), .user⟩
  | .vsigm _ _ _ _ => ⟨.vec, some 0, (.fixed 9), .user⟩
  | .vfloor _ _ _ _ => ⟨.vec, some 0, (.fixed 7), .user⟩
  | .vceil _ _ _ _ => ⟨.vec, some 0, (.fixed 7), .user⟩
  | .vrnd _ _ _ _ => ⟨.vec, some 0, (.fixed 7), .user⟩
  | .vclz _ _ _ _ => ⟨.vec, some 0, (.fixed 3), .user⟩
  | .vpopc _ _ _ _ => ⟨.vec, some 0, (.fixed 3), .user⟩
  | .vid _ _ _ => ⟨.vec, some 0, (.fixed 3), .user⟩
  | .vbcast _ _ _ _ => ⟨.vec, some 0, (.fixed 11), .user⟩
  | .vclass _ _ _ _ => ⟨.vec, some 0, (.fixed 7), .user⟩
  | .vcvt _ _ _ _ => ⟨.vec, some 0, (.fixed 7), .user⟩
  | .vcvtRz _ _ _ _ => ⟨.vec, some 0, (.fixed 7), .user⟩
  | .vcvtSr _ _ _ _ => ⟨.vec, some 0, (.fixed 7), .user⟩
  | .vcvtSat _ _ _ _ => ⟨.vec, some 0, (.fixed 7), .user⟩
  | .vquant _ _ _ _ => ⟨.vec, some 0, (.fixed 7), .user⟩
  | .vredsum _ _ _ _ => ⟨.vec, some 0, (.fixed 10), .user⟩
  | .vredsumt _ _ _ _ => ⟨.vec, some 0, (.fixed 10), .user⟩
  | .vredmax _ _ _ _ => ⟨.vec, some 0, (.fixed 10), .user⟩
  | .vredmin _ _ _ _ => ⟨.vec, some 0, (.fixed 10), .user⟩
  | .vredand _ _ _ _ => ⟨.vec, some 0, (.fixed 10), .user⟩
  | .vredor _ _ _ _ => ⟨.vec, some 0, (.fixed 10), .user⟩
  | .vredxor _ _ _ _ => ⟨.vec, some 0, (.fixed 10), .user⟩
  | .vcompress _ _ _ _ => ⟨.vec, some 0, (.fixed 11), .user⟩
  | .vexpand _ _ _ _ => ⟨.vec, some 0, (.fixed 11), .user⟩
  | .vmidx _ _ _ => ⟨.vec, some 0, (.fixed 11), .user⟩
  | .vrev _ _ _ _ => ⟨.vec, some 0, (.fixed 11), .user⟩
  | .vtr8 _ _ _ _ => ⟨.vec, some 0, (.fixed 11), .user⟩
  | .mand _ _ _ _ => ⟨.vec, some 0, (.fixed 12), .user⟩
  | .mor _ _ _ _ => ⟨.vec, some 0, (.fixed 12), .user⟩
  | .mxor _ _ _ _ => ⟨.vec, some 0, (.fixed 12), .user⟩
  | .mandn _ _ _ _ => ⟨.vec, some 0, (.fixed 12), .user⟩
  | .mnot _ _ _ => ⟨.vec, some 0, (.fixed 12), .user⟩
  | .mbf _ _ _ => ⟨.vec, some 0, (.fixed 12), .user⟩
  | .mif _ _ _ => ⟨.vec, some 0, (.fixed 12), .user⟩
  | .msof _ _ _ => ⟨.vec, some 0, (.fixed 12), .user⟩
  | .mset _ => ⟨.vec, some 0, (.fixed 12), .user⟩
  | .mclr _ => ⟨.vec, some 0, (.fixed 12), .user⟩
  | .vmomu _ _ _ _ => ⟨.vec, some 0, (.fixed 15), .user⟩
  | .dmac z _ vs2 vs1 _ => ⟨.cable, some 1, (.cable z vs1 vs2), .user⟩
  | .dmsc z _ vs2 vs1 _ => ⟨.cable, some 1, (.cable z vs1 vs2), .user⟩
  | .dmm z _ vs2 vs1 _ => ⟨.cable, some 1, (.cable z vs1 vs2), .user⟩
  | .dop z _ vs2 vs1 _ => ⟨.cable, some 1, (.cable z vs1 vs2), .user⟩
  | .kin _ _ _ => ⟨.cable, some 1, (.fixed 22), .user⟩
  | .kadd _ _ => ⟨.cable, some 1, (.fixed 22), .user⟩
  | .dout _ _ _ _ => ⟨.cable, some 1, (.fixed 22), .user⟩
  | .doutQ _ _ _ _ => ⟨.cable, some 1, (.fixed 22), .user⟩
  | .doutA _ _ _ _ => ⟨.cable, some 1, (.fixed 22), .user⟩
  | .doutAq _ _ _ _ => ⟨.cable, some 1, (.fixed 22), .user⟩
  | .doutB _ _ _ _ => ⟨.cable, some 1, (.fixed 22), .user⟩
  | .doutBq _ _ _ _ => ⟨.cable, some 1, (.fixed 22), .user⟩
  | .doutBa _ _ _ _ => ⟨.cable, some 1, (.fixed 22), .user⟩
  | .doutBaq _ _ _ _ => ⟨.cable, some 1, (.fixed 22), .user⟩
  | .stashCopyDone _ => ⟨.event, none, .none, .user⟩
  | .cableEntryComplete => ⟨.event, none, .none, .user⟩
  | .viqExecute => ⟨.event, none, .none, .user⟩
  | .vectorFault => ⟨.event, none, .none, .user⟩
  | .vldffComplete => ⟨.event, none, .none, .user⟩
  | .latepf _ => ⟨.event, none, .none, .user⟩
  | .storeAck => ⟨.event, none, .none, .user⟩
  | .trapEntry _ _ => ⟨.event, none, .none, .user⟩
  | .preempt _ => ⟨.event, none, .none, .user⟩
  | .rollbackEntry => ⟨.event, none, .none, .user⟩
  | .tellerRemap _ => ⟨.event, none, .none, .user⟩
  | .tellerRequest _ => ⟨.event, none, .none, .user⟩
  | .hostTailWrite _ _ _ => ⟨.event, none, .none, .user⟩
  | .wsTakeRecord _ _ => ⟨.event, none, .none, .user⟩
  | .launchAdmit _ => ⟨.event, none, .none, .user⟩
  | .markerComplete _ => ⟨.event, none, .none, .user⟩
  | .launchComplete _ => ⟨.event, none, .none, .user⟩
  | .dependenceRelease _ => ⟨.event, none, .none, .user⟩
  | .levelCancelStore _ _ => ⟨.event, none, .none, .user⟩
  | .placeStrand _ _ _ => ⟨.event, none, .none, .user⟩
  | .reallocationIntervalEnd _ => ⟨.event, none, .none, .user⟩
  | .preemption => ⟨.event, none, .none, .user⟩
  | .forcedPreemption => ⟨.event, none, .none, .user⟩
  | .park => ⟨.event, none, .none, .user⟩
  | .waitSatisfied _ _ _ => ⟨.event, none, .none, .user⟩
  | .placementEvent _ => ⟨.event, none, .none, .user⟩
  | .pipelineStallEvent _ => ⟨.event, none, .none, .user⟩
  | .ringProducerLeave _ _ => ⟨.event, none, .none, .user⟩
  | .assayCoreClaim _ => ⟨.event, none, .none, .user⟩
  | .assayComplete _ _ _ => ⟨.event, none, .none, .user⟩
  | .vaultSwapDeadline => ⟨.event, none, .none, .user⟩
  | .vaultSwapDone => ⟨.event, none, .none, .user⟩
  | .stitchMarker _ _ _ => ⟨.event, none, .none, .user⟩
  | .strandCut => ⟨.event, none, .none, .user⟩
  | .consumeFirstCut => ⟨.event, none, .none, .user⟩
  | .chipDone _ => ⟨.event, none, .none, .user⟩
  | .doneMessage _ _ _ => ⟨.event, none, .none, .user⟩
  | .abandonMessage _ _ => ⟨.event, none, .none, .user⟩
  | .rollbackMessage _ _ => ⟨.event, none, .none, .user⟩
  | .peerRequest _ => ⟨.event, none, .none, .user⟩
  | .chunkReceive _ => ⟨.event, none, .none, .user⟩
  | .collectiveComplete _ => ⟨.event, none, .none, .user⟩
  | .collectiveTimeout _ => ⟨.event, none, .none, .user⟩
  | .scrubGranule _ _ => ⟨.event, none, .none, .user⟩
  | .wearRowCopy _ _ => ⟨.event, none, .none, .user⟩
  | .linkCalibration _ => ⟨.event, none, .none, .user⟩
  | .telemetrySample _ _ => ⟨.event, none, .none, .user⟩
  | .clockStepDown => ⟨.event, none, .none, .user⟩
  | .clockStepUp => ⟨.event, none, .none, .user⟩
  | .thermalShutdown => ⟨.event, none, .none, .user⟩
  | .dbell _ => ⟨.event, none, .none, .user⟩
  | .mailboxSetTdp _ => ⟨.event, none, .none, .user⟩
  | .mailboxAttest _ => ⟨.event, none, .none, .user⟩
  | .mailboxReadMeasurements _ => ⟨.event, none, .none, .user⟩
  | .powerOnBoot _ => ⟨.event, none, .none, .user⟩
  | .hostWrite _ _ => ⟨.event, none, .none, .user⟩
  | .jobBlockWrite _ _ _ => ⟨.event, none, .none, .user⟩
  | .dirtyLineWriteBack _ => ⟨.event, none, .none, .user⟩
  | .chunkLandingAck _ _ => ⟨.event, none, .none, .user⟩

/-- Scalar registers of a base arithmetic form. -/
def aluRegs : AluForm → List XReg
  | .lui rd _ | .auipc rd _ => [rd]
  | .opImm _ rd rs1 _ | .shImm _ rd rs1 _ | .addiw rd rs1 _ | .shImmW _ rd rs1 _ => [rd, rs1]
  | .op _ rd rs1 rs2 | .opW _ rd rs1 rs2 => [rd, rs1, rs2]

/-- Scalar registers of a branch or jump. -/
def jumpRegs : JumpForm → List XReg
  | .jal rd _ => [rd]
  | .jalr rd rs1 _ => [rd, rs1]
  | .branch _ rs1 rs2 _ => [rs1, rs2]

/-- The source register of a Zicsr form, none for an immediate form. -/
def csrSrcReg (op : CsrOp) (src : XReg) : List XReg :=
  match op with
  | .rw | .rs | .rc => [src]
  | .rwi | .rsi | .rci => []

/-- The scalar registers an instruction names, for the SRQ hazard (R136). -/
def xRegs (i : Instr) : List XReg :=
  match i with
  | .baseAlu f => aluRegs f
  | .baseBranchJump f => jumpRegs f
  | .baseLoad _ rd rs1 _ => [rd, rs1]
  | .baseStore _ rs2 rs1 _ => [rs2, rs1]
  | .baseAmo _ _ _ _ rd rs1 rs2 => [rd, rs1, rs2]
  | .baseLr _ _ _ rd rs1 => [rd, rs1]
  | .baseSc _ _ _ rd rs1 rs2 => [rd, rs1, rs2]
  | .fence _ _ _ _ _ => []
  | .fenceI _ _ _ => []
  | .ecall => []
  | .ebreak => []
  | .wfi => []
  | .sret => []
  | .mret => []
  | .csrWrite op _ src rd => rd :: csrSrcReg op src
  | .vlWrite op src rd => rd :: csrSrcReg op src
  | .vxflagsWrite op src rd => rd :: csrSrcReg op src
  | .ptrootWrite op src rd => rd :: csrSrcReg op src
  | .partitionSetup op src rd => rd :: csrSrcReg op src
  | .profileEnableWrite op src rd => rd :: csrSrcReg op src
  | .assayNoticeClear op _ src rd => rd :: csrSrcReg op src
  | .capWrite _ _ => []
  | .loop _ rs1 _ => [rs1]
  | .lexit _ => []
  | .lsave rs1 => [rs1]
  | .lrest rs1 => [rs1]
  | .lrd _ rd => [rd]
  | .escOpen rs1 => [rs1]
  | .escCmp rd => [rd]
  | .escClose => []
  | .escRet => []
  | .escAbort => []
  | .escStat rd => [rd]
  | .guessRoutineEnd => []
  | .escrowHelperJoin _ => []
  | .escrowHelperReclaim _ => []
  | .escrowConflictSquash _ _ => []
  | .escrowDeferredResume => []
  | .vdecl rs1 => [rs1]
  | .vsetl _ rs1 rd => [rs1, rd]
  | .vtag rs1 _ => [rs1]
  | .vtagrd _ rd => [rd]
  | .dset rs2 rs1 _ => [rs2, rs1]
  | .dflip _ => []
  | .dscale rs2 rs1 _ => [rs2, rs1]
  | .dshape rs2 rs1 => [rs2, rs1]
  | .kalloc rs2 rs1 => [rs2, rs1]
  | .kfree rs1 => [rs1]
  | .kzero rs1 => [rs1]
  | .vsrseed rs1 => [rs1]
  | .atabld rs2 rs1 => [rs2, rs1]
  | .cpy _ rs2 rs1 _ => [rs2, rs1]
  | .cpys _ rs2 rs1 _ => [rs2, rs1]
  | .cpyv _ rs2 rs1 _ => [rs2, rs1]
  | .cpyvs _ rs2 rs1 _ => [rs2, rs1]
  | .ctile _ rs2 rs1 _ => [rs2, rs1]
  | .cring _ rs2 rs1 _ => [rs2, rs1]
  | .cpyvElementLand _ _ => []
  | .copyComplete _ => []
  | .overdraft => []
  | .cringReserve _ => []
  | .tadd _ rs2 rs1 rd => [rs2, rs1, rd]
  | .tmin _ rs2 rs1 rd => [rs2, rs1, rd]
  | .tmax _ rs2 rs1 rd => [rs2, rs1, rd]
  | .tand _ rs2 rs1 rd => [rs2, rs1, rd]
  | .tor _ rs2 rs1 rd => [rs2, rs1, rd]
  | .txchg _ rs2 rs1 rd => [rs2, rs1, rd]
  | .tcas _ rs2 rs1 rd => [rs2, rs1, rd]
  | .tcmd rs2 rs1 _ => [rs2, rs1]
  | .tcmdComplete _ => []
  | .pset rs2 rs1 => [rs2, rs1]
  | .pwait rs1 rd => [rs1, rd]
  | .ptest rs1 rd => [rs1, rd]
  | .rres rs1 rd => [rs1, rd]
  | .rpub rs2 rs1 => [rs2, rs1]
  | .racq rs1 rd => [rs1, rd]
  | .rrel rs2 rs1 => [rs2, rs1]
  | .rocc rs1 rd => [rs1, rd]
  | .bar rs2 rs1 rd => [rs2, rs1, rd]
  | .wqpost rs2 rs1 rd => [rs2, rs1, rd]
  | .lvlwait rs1 rd => [rs1, rd]
  | .lvlcancel rs1 => [rs1]
  | .sexit => []
  | .syield => []
  | .snapBegin rd => [rd]
  | .snapStat rs1 rd => [rs1, rd]
  | .snapRollback rs1 => [rs1]
  | .mint rs1 rd => [rs1, rd]
  | .mintResult => []
  | .assayReq rs1 => [rs1]
  | .evt rs1 => [rs1]
  | .cho rs2 rs1 rd => [rs2, rs1, rd]
  | .tlbinv rs2 rs1 => [rs2, rs1]
  | .invalidationPort _ _ => []
  | .vaultSwap rs1 => [rs1]
  | .hint => []
  | .vxget _ rs2 _ rd => [rs2, rd]
  | .srqDeliver => []
  | .vxput rs2 rs1 _ => [rs2, rs1]
  | .vmpop _ _ rd => [rd]
  | .vmfirst _ _ rd => [rd]
  | .vmrd _ rs2 _ rd => [rs2, rd]
  | .qfence _ => []
  | .efence _ => []
  | .kfence => []
  | .vldUnit _ rs1 _ _ => [rs1]
  | .vldStrided _ rs2 rs1 _ _ => [rs2, rs1]
  | .vldIndexed _ _ rs1 _ _ => [rs1]
  | .vstUnit _ rs1 _ _ => [rs1]
  | .vstStrided _ rs2 rs1 _ _ => [rs2, rs1]
  | .vstIndexed _ _ rs1 _ _ => [rs1]
  | .vldffUnit _ rs1 _ _ => [rs1]
  | .vldffStrided _ rs2 rs1 _ _ => [rs2, rs1]
  | .vldffIndexed _ _ rs1 _ _ => [rs1]
  | .vlwin _ _ rs1 _ _ => [rs1]
  | .vstc _ rs1 _ _ => [rs1]
  | .vqldUnit rs1 _ => [rs1]
  | .vqldStrided rs2 rs1 _ => [rs2, rs1]
  | .vqstUnit rs1 _ => [rs1]
  | .vqstStrided rs2 rs1 _ => [rs2, rs1]
  | .vmld rs1 _ => [rs1]
  | .vmst _ rs1 _ => [rs1]
  | .vldr rs1 _ => [rs1]
  | .vstr _ rs1 _ => [rs1]
  | .vtadd _ _ rs1 _ _ => [rs1]
  | .vtmin _ _ rs1 _ _ => [rs1]
  | .vtmax _ _ rs1 _ _ => [rs1]
  | .vkld rs2 rs1 => [rs2, rs1]
  | .vkst rs2 rs1 => [rs2, rs1]
  | .vaddVv _ _ _ _ _ => []
  | .vaddVx _ rs2 _ _ _ => [rs2]
  | .vaddVi _ _ _ _ _ => []
  | .vsubVv _ _ _ _ _ => []
  | .vsubVx _ rs2 _ _ _ => [rs2]
  | .vsubVi _ _ _ _ _ => []
  | .vmulVv _ _ _ _ _ => []
  | .vmulVx _ rs2 _ _ _ => [rs2]
  | .vmulVi _ _ _ _ _ => []
  | .vmacVv _ _ _ _ _ => []
  | .vmacVx _ rs2 _ _ _ => [rs2]
  | .vmacVi _ _ _ _ _ => []
  | .vminVv _ _ _ _ _ => []
  | .vminVx _ rs2 _ _ _ => [rs2]
  | .vminVi _ _ _ _ _ => []
  | .vmaxVv _ _ _ _ _ => []
  | .vmaxVx _ rs2 _ _ _ => [rs2]
  | .vmaxVi _ _ _ _ _ => []
  | .vandVv _ _ _ _ _ => []
  | .vandVx _ rs2 _ _ _ => [rs2]
  | .vandVi _ _ _ _ _ => []
  | .vorVv _ _ _ _ _ => []
  | .vorVx _ rs2 _ _ _ => [rs2]
  | .vorVi _ _ _ _ _ => []
  | .vxorVv _ _ _ _ _ => []
  | .vxorVx _ rs2 _ _ _ => [rs2]
  | .vxorVi _ _ _ _ _ => []
  | .vshlVv _ _ _ _ _ => []
  | .vshlVx _ rs2 _ _ _ => [rs2]
  | .vshlVi _ _ _ _ _ => []
  | .vshrVv _ _ _ _ _ => []
  | .vshrVx _ rs2 _ _ _ => [rs2]
  | .vshrVi _ _ _ _ _ => []
  | .vdivVv _ _ _ _ _ => []
  | .vdivVx _ rs2 _ _ _ => [rs2]
  | .vdivVi _ _ _ _ _ => []
  | .vcmpVv _ _ _ _ _ _ => []
  | .vcmpVx _ rs2 _ _ _ _ => [rs2]
  | .vcmpVi _ _ _ _ _ _ => []
  | .vmergeVv _ _ _ _ _ => []
  | .vmergeVx _ rs2 _ _ _ => [rs2]
  | .vmergeVi _ _ _ _ _ => []
  | .vpermGather _ _ _ _ _ => []
  | .vpermSlideVx _ rs2 _ _ _ => [rs2]
  | .vpermSlideVi _ _ _ _ _ => []
  | .vslideupVx _ rs2 _ _ _ => [rs2]
  | .vslideupVi _ _ _ _ _ => []
  | .vmov _ _ _ _ => []
  | .vneg _ _ _ _ => []
  | .vabs _ _ _ _ => []
  | .vnot _ _ _ _ => []
  | .vsqrt _ _ _ _ => []
  | .vrsqrt _ _ _ _ => []
  | .vrcp _ _ _ _ => []
  | .vexp2 _ _ _ _ => []
  | .vlog2 _ _ _ _ => []
  | .vsin _ _ _ _ => []
  | .vcos _ _ _ _ => []
  | .vtanh _ _ _ _ => []
  | .vsigm _ _ _ _ => []
  | .vfloor _ _ _ _ => []
  | .vceil _ _ _ _ => []
  | .vrnd _ _ _ _ => []
  | .vclz _ _ _ _ => []
  | .vpopc _ _ _ _ => []
  | .vid _ _ _ => []
  | .vbcast _ _ _ _ => []
  | .vclass _ _ _ _ => []
  | .vcvt _ _ _ _ => []
  | .vcvtRz _ _ _ _ => []
  | .vcvtSr _ _ _ _ => []
  | .vcvtSat _ _ _ _ => []
  | .vquant _ _ _ _ => []
  | .vredsum _ _ _ _ => []
  | .vredsumt _ _ _ _ => []
  | .vredmax _ _ _ _ => []
  | .vredmin _ _ _ _ => []
  | .vredand _ _ _ _ => []
  | .vredor _ _ _ _ => []
  | .vredxor _ _ _ _ => []
  | .vcompress _ _ _ _ => []
  | .vexpand _ _ _ _ => []
  | .vmidx _ _ _ => []
  | .vrev _ _ _ _ => []
  | .vtr8 _ _ _ _ => []
  | .mand _ _ _ _ => []
  | .mor _ _ _ _ => []
  | .mxor _ _ _ _ => []
  | .mandn _ _ _ _ => []
  | .mnot _ _ _ => []
  | .mbf _ _ _ => []
  | .mif _ _ _ => []
  | .msof _ _ _ => []
  | .mset _ => []
  | .mclr _ => []
  | .vmomu _ _ _ _ => []
  | .dmac _ _ _ _ _ => []
  | .dmsc _ _ _ _ _ => []
  | .dmm _ _ _ _ _ => []
  | .dop _ _ _ _ _ => []
  | .kin _ _ _ => []
  | .kadd _ _ => []
  | .dout _ _ _ _ => []
  | .doutQ _ _ _ _ => []
  | .doutA _ _ _ _ => []
  | .doutAq _ _ _ _ => []
  | .doutB _ _ _ _ => []
  | .doutBq _ _ _ _ => []
  | .doutBa _ _ _ _ => []
  | .doutBaq _ _ _ _ => []
  | .stashCopyDone _ => []
  | .cableEntryComplete => []
  | .viqExecute => []
  | .vectorFault => []
  | .vldffComplete => []
  | .latepf _ => []
  | .storeAck => []
  | .trapEntry _ _ => []
  | .preempt _ => []
  | .rollbackEntry => []
  | .tellerRemap _ => []
  | .tellerRequest _ => []
  | .hostTailWrite _ _ _ => []
  | .wsTakeRecord _ _ => []
  | .launchAdmit _ => []
  | .markerComplete _ => []
  | .launchComplete _ => []
  | .dependenceRelease _ => []
  | .levelCancelStore _ _ => []
  | .placeStrand _ _ _ => []
  | .reallocationIntervalEnd _ => []
  | .preemption => []
  | .forcedPreemption => []
  | .park => []
  | .waitSatisfied _ _ _ => []
  | .placementEvent _ => []
  | .pipelineStallEvent _ => []
  | .ringProducerLeave _ _ => []
  | .assayCoreClaim _ => []
  | .assayComplete _ _ _ => []
  | .vaultSwapDeadline => []
  | .vaultSwapDone => []
  | .stitchMarker _ _ _ => []
  | .strandCut => []
  | .consumeFirstCut => []
  | .chipDone _ => []
  | .doneMessage _ _ _ => []
  | .abandonMessage _ _ => []
  | .rollbackMessage _ _ => []
  | .peerRequest _ => []
  | .chunkReceive _ => []
  | .collectiveComplete _ => []
  | .collectiveTimeout _ => []
  | .scrubGranule _ _ => []
  | .wearRowCopy _ _ => []
  | .linkCalibration _ => []
  | .telemetrySample _ _ => []
  | .clockStepDown => []
  | .clockStepUp => []
  | .thermalShutdown => []
  | .dbell _ => []
  | .mailboxSetTdp _ => []
  | .mailboxAttest _ => []
  | .mailboxReadMeasurements _ => []
  | .powerOnBoot _ => []
  | .hostWrite _ _ => []
  | .jobBlockWrite _ _ _ => []
  | .dirtyLineWriteBack _ => []
  | .chunkLandingAck _ _ => []

end Sys2Proof.Machine
end

