-- ==== Sys2Proof/Machine/Gate.lean ====
section
/-! DEFINITION. What comes before an instruction's own effect: the SRQ hazard (R136), the order of checks of
Table 4.7 (R99), the handler rule while entries are frozen (R275), the rule after `esc.open` (R204), and the
deferrals of a speculative escrow iteration and of a guess routine (R197, R200). -/

namespace Sys2Proof.Machine

/-- The instruction word as stval receives it (R98). -/
def instrWord (i : Instr) : Word := ((encode i).getD 0).setWidth 64

/-- A class is fenced on the core whose turn it is (R314, R316). -/
def State.fenced (s : State) (c : Nat) : Bool := !s.core.assaycap.getLsbD c

/-- The class a code point is checked against at decode (R316): V-, M- and C-space entries, the configuration forms that
are issued to the Cable queue (R165), and VIQ-routed copies are checked later. -/
def decodeClass (i : Instr) : Option Nat :=
  let a := opAttr i
  match a.group with
  | .vec | .mem | .cable | .hint | .event => none
  | .copy =>
    match i with
    | .cpy _ _ _ _ | .cpys _ _ _ _ | .cring _ _ _ _ => some 24
    | _ => none
  | .base | .seq | .cfg | .teller | .sys | .sync | .fence =>
    match i with
    | .kalloc _ _ | .kfree _ | .kzero _ | .atabld _ _ | .kfence => none
    | _ =>
      match a.cls with
      | .fixed c => some c
      | .none | .byTag _ _ _ _ | .cable _ _ _ => none

/-- Privilege (R87): an (S) form in U, an (M) form in U or S, a custom form on a clerk core. -/
def privOk (s : State) (a : OpAttr) : Bool :=
  let need := match a.priv with
    | .user => true
    | .supervisor => decide (s.core.priv ≠ .user)
    | .machine => decide (s.core.priv = .machine)
  let clerk := match a.group with
    | .base | .hint | .event => true
    | .seq | .cfg | .copy | .teller | .sys | .sync | .fence | .mem | .vec | .cable => !isClerk s.core.id
  need && clerk

/-- The profile check (R100): only in U-mode. -/
def profOk (s : State) (a : OpAttr) : Bool :=
  match a.prof with
  | none => true
  | some b => decide (s.core.priv ≠ .user) || (s.part s.pidx).prof.getLsbD b

/-- Forms a handler may not execute while entries are frozen (R275); `ctile` decides by its route. -/
def frozenBars (i : Instr) : Bool :=
  match (opAttr i).group with
  | .vec | .mem | .cable | .sync => true
  | .cfg => match i with
    | .dshape _ _ => false
    | _ => true
  | .fence => match i with
    | .efence _ => false
    | _ => true
  | .copy => match i with
    | .cpyv _ _ _ _ | .cpyvs _ _ _ _ => true
    | _ => false
  | .base | .seq | .teller | .sys | .hint | .event => false

/-- A CSR access that writes (Table 4.1). -/
def csrWrites (op : CsrOp) (src : XReg) : Bool :=
  match op with
  | .rw | .rwi => true
  | .rs | .rc | .rsi | .rci => decide (src ≠ 0)

/-- Forms a speculative iteration defers whatever their operands are (R200); loads and stores decide by address. -/
def specBars (i : Instr) : Bool :=
  match i with
  | .baseAmo .. | .baseLr .. | .baseSc .. | .fence .. | .ecall | .ebreak => true
  | .lexit _ | .lsave _ | .lrest _ | .escOpen _ | .escAbort => true
  | .csrWrite op _ src _ | .ptrootWrite op src _ | .partitionSetup op src _ | .profileEnableWrite op src _
  | .assayNoticeClear op _ src _ => csrWrites op src
  | .hint => false
  | _ => match (opAttr i).group with
    | .cfg | .copy | .teller | .sys | .sync | .fence | .mem | .vec | .cable => true
    | .base | .seq | .hint | .event => false

/-- Forms a guess routine may use (R197); anything else ends it. Reading a CSR is allowed, since `escst`.SPEC is
read there (R196). -/
def guessAllows (i : Instr) : Bool :=
  match i with
  | .baseAlu _ | .baseBranchJump _ | .baseLoad .. | .escRet => true
  | .csrWrite op _ src _ | .vlWrite op src _ | .vxflagsWrite op src _ | .ptrootWrite op src _
  | .partitionSetup op src _ | .profileEnableWrite op src _ | .assayNoticeClear op _ src _ => !csrWrites op src
  | _ => false

/-- The VIQ entry of an identity is frozen. -/
def Ctx.frozenId (c : Ctx) (id : Nat) : Bool := c.viq.any fun e => decide (e.id = id) && e.frozen

/-- True when an instruction names a scalar register that an SRQ entry will write (R136); the register of a frozen
`vxget` keeps its old value for the handler (R273). -/
def srqHazard (c : Ctx) (i : Instr) : Bool :=
  !c.srq.isEmpty && (xRegs i).any fun r => decide (r ≠ 0) && c.srq.any fun e => decide (e.xd = r) && !c.frozenId e.src

/-- An open escrow loop still waits for its `loop` (R204): the next instruction of the mode that opened it; what a handler
runs in between is not that instruction. -/
def expectsLoop (s : State) : Bool :=
  match s.ctx.esc with
  | some e => e.expectLoop && decide (s.core.priv = e.opener)
  | none => false

/-- What the checks decide. -/
inductive GateResult where
  | pass | stall | defer | guessEnd | escLost
  | trap (cause : BitVec 6) (tval : Word)
  deriving DecidableEq, Repr

/-- Instructions executed so far in the guess routine the thread runs (R197). -/
def guessSteps (c : Ctx) : Nat :=
  match c.esc with
  | some e => match e.focusPart with
    | some p => p.steps
    | none => 0
  | none => 0

/-- The checks that come before an instruction's own (R99, Table 4.7). -/
def gate (i : Instr) (s : State) : GateResult :=
  let a := opAttr i
  if s.ctx.isGuess && (!guessAllows i || decide (4096 ≤ guessSteps s.ctx)) then .guessEnd
  else if srqHazard s.ctx i then .stall
  else if !privOk s a then .trap cIllegal (instrWord i)
  else if !profOk s a then .trap cProfile (instrWord i)
  else if (decodeClass i).any s.fenced then .trap cFenced (instrWord i)
  else if expectsLoop s && (match i with
      | .loop _ _ _ => false
      | _ => true) then .escLost
  else if s.ctx.viq.any (fun e => e.frozen) && frozenBars i then .trap cIllegal (instrWord i)
  else if s.ctx.isSpec && !s.ctx.isGuess && specBars i then .defer
  else .pass

/-- Count an instruction of a guess routine (R197). -/
def countGuess (s : State) : State :=
  if s.ctx.isGuess then s.mapCtx fun c =>
    match c.esc with
    | some e => match e.focusPart with
      | some p => { c with esc := some { e with parts := setAt e.parts e.focus { p with steps := p.steps + 1 } } }
      | none => c
    | none => c
  else s

/-- Close an escrow loop that never got its `loop`: only the zeroed counters stay (R204). -/
def loseEscrow (c : Ctx) : Ctx := { c with esc := none, escLast := ⟨0, 0, 0, 0⟩ }

/-- The instruction after `esc.open` traps in another way than R204's: the loop is not open either. -/
def loseExpected (s : State) : State := if expectsLoop s then s.mapCtx loseEscrow else s

/-- Run an instruction's own effect behind the checks. -/
def guarded (i : Instr) (s : State) (body : State → Host.Outcome State Fault Refusal) :
    Host.Outcome State Fault Refusal :=
  match gate i s with
  | .pass => body (countGuess s)
  | .stall => .next s
  | .defer => .next (s.mapCtx deferFocus)
  | .guessEnd => .next (s.mapCtx fun c => c.endGuess false)
  | .escLost => .next (raiseTrap (s.mapCtx loseEscrow) cEscrow (instrWord i))
  | .trap cause tval => .next (raiseTrap (loseExpected s) cause tval)

/-- Trap ILLEGAL on the instruction. -/
def illegal (i : Instr) (s : State) : Host.Outcome State Fault Refusal := .next (raiseTrap s cIllegal (instrWord i))

end Sys2Proof.Machine
end

