-- ==== Sys2Proof/Machine/Operands.lean ====
section
/-! DEFINITION. Operand forms of the scalar thread: immediates, branch targets, the arithmetic of the base (R4, R96),
branch conditions, load extensions, and the value a Zicsr form writes. -/

namespace Sys2Proof.Machine

/-- A sign-extended 12-bit immediate. -/
def simm12 (i : BitVec 12) : Word := i.signExtend 64

/-- The value of an upper immediate: 20 bits at [31:12], sign-extended. -/
def uimm20 (i : BitVec 20) : Word := (i ++ 0#12).signExtend 64

/-- The byte offset of a branch (halfwords in the syntax). -/
def branchOffset (i : BitVec 12) : Word := (i ++ 0#1).signExtend 64

/-- The byte offset of a jump. -/
def jumpOffset (i : BitVec 20) : Word := (i ++ 0#1).signExtend 64

/-- A 32-bit result, sign-extended. -/
def sext32 (w : BitVec 32) : Word := w.signExtend 64

/-- The low 32 bits of a word. -/
def lo32 (w : Word) : BitVec 32 := w.extractLsb' 0 32

/-- A comparison's result. -/
def boolWord (b : Bool) : Word := if b then 1 else 0

/-- Register-immediate operations. -/
def immOp (o : ImmOp) (a b : Word) : Word :=
  match o with
  | .addi => a + b
  | .slti => boolWord (a.slt b)
  | .sltiu => boolWord (a.ult b)
  | .xori => a ^^^ b
  | .ori => a ||| b
  | .andi => a &&& b

/-- Shifts by a constant. -/
def shOp (o : ShOp) (a : Word) (n : Nat) : Word :=
  match o with
  | .sll => a <<< n
  | .srl => a >>> n
  | .sra => a.sshiftRight n

/-- 32-bit shifts by a constant, sign-extended. -/
def shOpW (o : ShOp) (a : Word) (n : Nat) : Word :=
  match o with
  | .sll => sext32 (lo32 a <<< n)
  | .srl => sext32 (lo32 a >>> n)
  | .sra => sext32 ((lo32 a).sshiftRight n)

/-- Signed division of the M extension, rounding toward zero: by zero all ones; overflow gives the dividend. -/
def divS {w : Nat} (a b : BitVec w) : BitVec w := if b = 0 then BitVec.allOnes w else a.sdiv b

/-- Unsigned division: by zero all ones. -/
def divU {w : Nat} (a b : BitVec w) : BitVec w := if b = 0 then BitVec.allOnes w else a.udiv b

/-- Signed remainder, with the sign of the dividend: by zero the dividend. -/
def remS {w : Nat} (a b : BitVec w) : BitVec w := if b = 0 then a else a.srem b

/-- Unsigned remainder: by zero the dividend. -/
def remU {w : Nat} (a b : BitVec w) : BitVec w := if b = 0 then a else a.umod b

/-- The high half of a product of two integers. -/
def mulHigh (x y : Int) : Word := BitVec.ofInt 64 (x * y / 2 ^ 64)

/-- Register-register operations of I and M. -/
def regOp (o : RegOp) (a b : Word) : Word :=
  let n := (b.extractLsb' 0 6).toNat
  match o with
  | .add => a + b
  | .sub => a - b
  | .sll => a <<< n
  | .slt => boolWord (a.slt b)
  | .sltu => boolWord (a.ult b)
  | .xor => a ^^^ b
  | .srl => a >>> n
  | .sra => a.sshiftRight n
  | .or => a ||| b
  | .and => a &&& b
  | .mul => a * b
  | .mulh => mulHigh a.toInt b.toInt
  | .mulhsu => mulHigh a.toInt b.toNat
  | .mulhu => mulHigh a.toNat b.toNat
  | .div => divS a b
  | .divu => divU a b
  | .rem => remS a b
  | .remu => remU a b

/-- 32-bit register-register operations, sign-extended. -/
def regWOp (o : RegWOp) (a b : Word) : Word :=
  let x := lo32 a
  let y := lo32 b
  let n := (b.extractLsb' 0 5).toNat
  sext32 (match o with
    | .addw => x + y
    | .subw => x - y
    | .sllw => x <<< n
    | .srlw => x >>> n
    | .sraw => x.sshiftRight n
    | .mulw => x * y
    | .divw => divS x y
    | .divuw => divU x y
    | .remw => remS x y
    | .remuw => remU x y)

/-- Destination and value of a base arithmetic form at a pc. -/
def aluResult (f : AluForm) (c : Ctx) : XReg × Word :=
  match f with
  | .lui rd imm => (rd, uimm20 imm)
  | .auipc rd imm => (rd, c.pc + uimm20 imm)
  | .opImm o rd rs1 imm => (rd, immOp o (c.getX rs1) (simm12 imm))
  | .shImm o rd rs1 sh => (rd, shOp o (c.getX rs1) sh.toNat)
  | .addiw rd rs1 imm => (rd, sext32 (lo32 (c.getX rs1 + simm12 imm)))
  | .shImmW o rd rs1 sh => (rd, shOpW o (c.getX rs1) sh.toNat)
  | .op o rd rs1 rs2 => (rd, regOp o (c.getX rs1) (c.getX rs2))
  | .opW o rd rs1 rs2 => (rd, regWOp o (c.getX rs1) (c.getX rs2))

/-- Branch conditions. -/
def condHolds (k : Cond) (a b : Word) : Bool :=
  match k with
  | .eq => a == b
  | .ne => a != b
  | .lt => a.slt b
  | .ge => !a.slt b
  | .ltu => a.ult b
  | .geu => !a.ult b

/-- The target of a taken branch or jump, none for a branch not taken. -/
def jumpTarget (f : JumpForm) (c : Ctx) : Option Word :=
  match f with
  | .jal _ imm => some (c.pc + jumpOffset imm)
  | .jalr _ rs1 imm => some ((c.getX rs1 + simm12 imm) &&& ~~~1)
  | .branch k rs1 rs2 imm => if condHolds k (c.getX rs1) (c.getX rs2) then some (c.pc + branchOffset imm) else none

/-- The link register of a jump. -/
def jumpLink (f : JumpForm) : XReg :=
  match f with
  | .jal rd _ | .jalr rd _ _ => rd
  | .branch _ _ _ _ => 0

/-- Bytes of a scalar load. -/
def loadBytes : LoadOp → Nat
  | .lb | .lbu => 1
  | .lh | .lhu => 2
  | .lw | .lwu => 4
  | .ld => 8

/-- The register value of loaded bytes. -/
def loadValue (o : LoadOp) (bs : List Byte) : Word :=
  let w := leWord bs
  match o with
  | .lb => (w.extractLsb' 0 8).signExtend 64
  | .lh => (w.extractLsb' 0 16).signExtend 64
  | .lw => (w.extractLsb' 0 32).signExtend 64
  | .ld | .lbu | .lhu | .lwu => w

/-- Bytes of a scalar store. -/
def storeBytes : StoreOp → Nat
  | .sb => 1
  | .sh => 2
  | .sw => 4
  | .sd => 8

/-- An AMO's new value at its width (the base). -/
def amoOp {w : Nat} (o : AmoOp) (old b : BitVec w) : BitVec w :=
  match o with
  | .swap => b
  | .add => old + b
  | .xor => old ^^^ b
  | .and => old &&& b
  | .or => old ||| b
  | .min => if old.slt b then old else b
  | .max => if old.slt b then b else old
  | .minu => if old.ult b then old else b
  | .maxu => if old.ult b then b else old

/-- The source value of a Zicsr form: a register or a zero-extended 5-bit immediate. -/
def csrSource (op : CsrOp) (src : XReg) (c : Ctx) : Word :=
  match op with
  | .rw | .rs | .rc => c.getX src
  | .rwi | .rsi | .rci => src.setWidth 64

/-- The value a Zicsr form writes, from the old value. -/
def csrNew (op : CsrOp) (old v : Word) : Word :=
  match op with
  | .rw | .rwi => v
  | .rs | .rsi => old ||| v
  | .rc | .rci => old &&& ~~~v

end Sys2Proof.Machine
end

