-- ==== Sys2Proof/Machine/Scalar.lean ====
section
/-! DEFINITION. The base instructions that touch no memory (R4, R81, R82, R84 to R87, R96, R187, R370). -/

namespace Sys2Proof.Machine

/-- The target check of R81. -/
def misaligned (tgt : Word) : Bool := tgt.extractLsb' 0 2 != 0

/-- BASE_ALU (R96): the result goes to rd; falling past a body end ends an iteration (R186). -/
def execBaseAlu (f : AluForm) (s : State) : Host.Outcome State Fault Refusal :=
  guarded (.baseAlu f) s fun s =>
    let r := aluResult f s.ctx
    .next (retire (s.setX r.1 r.2))

/-- FENCE (R84): with an empty predecessor or successor set a no-op; otherwise a full R, W fence at chip scope,
whatever I, O and fm hold: the strand's older scalar stores are performed first, but those to UN pages (R260). -/
def execFence (fm pred succ : BitVec 4) (rs1 rd : XReg) (s : State) : Host.Outcome State Fault Refusal :=
  guarded (.fence fm pred succ rs1 rd) s fun s =>
    .next (retire (if pred = 0 ∨ succ = 0 then s else fenceMarks s))

/-- FENCE_I (R85): the I$ of the core is invalidated, and the strand's older scalar stores are there to be fetched (the
base). -/
def execFenceI (imm : BitVec 12) (rs1 rd : XReg) (s : State) : Host.Outcome State Fault Refusal :=
  guarded (.fenceI imm rs1 rd) s fun s =>
    .next (retire { s with core := { s.core with icache := [] } })

/-- ECALL (R87): cause 8, 9 or 11 by the mode, stval 0. -/
def execEcall (s : State) : Host.Outcome State Fault Refusal :=
  guarded .ecall s fun s =>
    .next (raiseTrap s (match s.core.priv with
      | .user => 8
      | .supervisor => 9
      | .machine => 11) 0)

/-- EBREAK (R87): cause 3, stval the pc. -/
def execEbreak (s : State) : Host.Outcome State Fault Refusal :=
  guarded .ebreak s fun s => .next (raiseTrap s cBreak s.ctx.pc)

/-- WFI (R82): waits in S or M until an interrupt is pending; the base's TW bit makes it illegal in S. -/
def execWfi (s : State) : Host.Outcome State Fault Refusal :=
  guarded .wfi s fun s =>
    if s.core.priv = .supervisor ∧ s.core.csr.mstatus.getLsbD bitTW = true then illegal .wfi s
    else
      let s := retire s
      .next { s with core := { s.core with wfi := true } }

/-- MRET (R370): to mepc; a target that is not a multiple of 4 traps on the instruction (R81). -/
def execMret (s : State) : Host.Outcome State Fault Refusal :=
  guarded .mret s fun s =>
    if misaligned s.core.csr.mepc then .next (raiseTrap s cMisFetch s.core.csr.mepc)
    else .next (tick (returnM s))

end Sys2Proof.Machine
end

