-- ==== Sys2Proof/Machine/Loops.lean ====
section
/-! DEFINITION. Hardware loops (R184 to R192) and escrow loops (R194 to R208), with the jumps that leave a loop
body (R187, R203). -/

namespace Sys2Proof.Machine

/-! ## Ending an escrow loop -/

/-- Registers after an escrow loop: the carries of the last iteration; a non-carry register that the iteration
changed holds a value of no stated kind (R206), a free value. -/
def Escrow.afterX (e : Escrow) (x : Vector Word 32) (draws : Nat) : Vector Word 32 :=
  Vector.ofFn fun (i : Fin 32) =>
    if e.cmask.getLsbD i.val || decide (x[i] = e.entryX[i]) then x[i] else Config.freeWord (draws + i.val)

/-- The participants of a loop that has ended: none runs an iteration, and helpers stay with it until `esc.close`
(R206). -/
def Escrow.rest (e : Escrow) : Escrow :=
  { e with done := true, parts := e.parts.map fun p => { p.clean with iter := none }, focus := 0 }

/-- The loop ends with the focus iteration's state on the home core (R198 step 2, R203): the escrow level is popped,
speculative iterations are gone. -/
def finishEscrow (s : State) : State :=
  match s.ctx.esc with
  | none => s
  | some e =>
    let s := s.mapCtx fun c =>
      { c with
        x := e.afterX c.x s.draws
        loops := match e.level with
          | some l => popFrom c.loops l.toNat
          | none => c.loops
        esc := some e.rest }
    { s with draws := s.draws + 32 }

/-- A taken jump out of the escrow body by the oldest iteration ends the loop (R203); by a speculative one it stalls
there until it is the oldest. A handler's jumps, while the level is suspended, do not leave it (R184, R189). -/
def leavesEscrow (c : Ctx) (tgt : Word) : Bool :=
  match c.escActive with
  | some e => match e.level with
    | some l =>
      let lv := c.loops.toList.getD l.toNat Level.off
      !c.isGuess && lv.act && !lv.susp && (tgt.ult lv.start || lv.stop.ult tgt)
    | none => false
  | none => false

/-- Mark the focus participant stalled until its iteration is the oldest (R203). -/
def stallFocus (c : Ctx) : Ctx :=
  match c.esc with
  | some e => match e.focusPart with
    | some p => { c with esc := some { e with parts := setAt e.parts e.focus { p with stalled := true } } }
    | none => c
  | none => c

/-- BASE_BRANCH_JUMP (R81, R187): a target that is not a multiple of 4 traps on the instruction; a taken jump pops
the levels whose body does not hold its target. -/
def execBaseBranchJump (f : JumpForm) (s : State) : Host.Outcome State Fault Refusal :=
  guarded (.baseBranchJump f) s fun s =>
    match jumpTarget f s.ctx with
    | none => .next (retire s)
    | some tgt =>
      if misaligned tgt then .next (raiseTrap s cMisFetch tgt)
      else
        let link := s.ctx.pc + 4
        if leavesEscrow s.ctx tgt then
          if s.ctx.isSpec then .next (s.mapCtx stallFocus)
          else .next (retireJump (finishEscrow (s.setX (jumpLink f) link)) tgt)
        else .next (retireJump (s.setX (jumpLink f) link) tgt)

/-! ## loop, lexit, lsave, lrest, lrd -/

/-- The checks of `loop` (R185), none when they pass. -/
def loopCheck (c : Ctx) (l : Nat) (start stop : Word) : Option (BitVec 6) :=
  if anySusp c.loops then some cLoop
  else if c.escActive.isSome then some cEscrow
  else if (topLevel c.loops).any (fun t => decide (l ≤ t)) then some cLoop
  else if c.loops.toList.any (fun v => v.act && (start.ult v.start || v.stop.ult stop)) then some cLoop
  else none

/-- Open the escrow level: iteration 0 starts as the oldest on the home core (R197, R204). -/
def openEscLevel (e : Escrow) (l : BitVec 3) (c : Ctx) (core : Nat) (trip : Word) : Escrow :=
  { e with
    level := some l
    expectLoop := false
    trip := trip
    entryX := c.x
    entryLoops := c.loops
    outX := c.x
    last := none
    focus := 0
    oldest := 0
    narrow := false
    done := decide (trip = 0)
    parts := if trip = 0 then [] else
      [⟨core, true, some 0, c.x, c.pc, false, 0, c.x, false, false, false, 0, [], [], [], [], [], [], none, none⟩] }

/-- LOOP (R185, R204). -/
def execLoop (i : BitVec 12) (rs1 : XReg) (l : BitVec 3) (s : State) : Host.Outcome State Fault Refusal :=
  guarded (.loop i rs1 l) s fun s =>
    let pc := s.ctx.pc
    let start := pc + 4
    let stop := pc + 4 * i.setWidth 64
    let n := s.x rs1
    let armed := expectsLoop s
    match loopCheck s.ctx l.toNat start stop with
    | some cause => .next (raiseTrap (if armed then s.mapCtx loseEscrow else s) cause (instrWord (.loop i rs1 l)))
    | none =>
      let s := if armed then s.mapCtx fun c => { c with esc := c.esc.map fun e => openEscLevel e l c s.core.id n } else s
      if n = 0 then .next (retireTo s (stop + 4))
      else if h : l.toNat < 6 then
        .next (retireAt (s.mapCtx fun c => { c with loops := c.loops.set l.toNat ⟨n, start, stop, 0, true, false⟩ }) start)
      else illegal (.loop i rs1 l) s

/-- LEXIT (R188): pops the levels numbered N or above; popping the escrow level traps ESCROW. -/
def execLexit (l : BitVec 3) (s : State) : Host.Outcome State Fault Refusal :=
  guarded (.lexit l) s fun s =>
    if s.ctx.escLevel.any (fun k => decide (l.toNat ≤ k)) then .next (raiseTrap s cEscrow (instrWord (.lexit l)))
    else .next (retire (s.mapCtx fun c => { c with loops := popFrom c.loops l.toNat }))

/-- One bit per level, level 0 lowest. -/
def levelBits (ls : Vector Level 6) (f : Level → Bool) : Nat :=
  (upFrom 0 6).foldl (fun acc i => if f (ls.toList.getD i Level.off) then acc + 2 ^ i else acc) 0

/-- The 25 words of a loop-stack image (R191). -/
def loopImage (c : Ctx) : List Word :=
  let head : Nat := levelBits c.loops (fun l => l.act) + levelBits c.loops (fun l => l.act && l.susp) * 256 +
    (if c.escLevel.isSome then 65536 else 0)
  BitVec.ofNat 64 head :: (c.loops.toList.flatMap fun l =>
    if l.act then [l.rem, l.start, l.stop, l.idx] else [0, 0, 0, 0])

/-- The level a loop-stack image gives. -/
def imageLevel (ws : List Word) (i : Nat) : Level :=
  let head := ws.getD 0 0
  let at_ (j : Nat) := ws.getD (1 + 4 * i + j) 0
  if head.getLsbD i then ⟨at_ 0, at_ 1, at_ 2, at_ 3, true, head.getLsbD (8 + i)⟩ else Level.off

/-- The checks of `lrest` (R191). -/
def imageOk (c : Ctx) (ws : List Word) : Bool :=
  let head := ws.getD 0 0
  let act := head.extractLsb' 0 6
  let susp := head.extractLsb' 8 6
  let lv (i : Nat) := imageLevel ws i
  head.extractLsb' 17 47 == 0 && head.extractLsb' 14 2 == 0 && head.extractLsb' 6 2 == 0
    && (susp &&& ~~~act) == 0
    && (upFrom 0 6).all (fun i =>
      let l := lv i
      !l.act || (l.start.extractLsb' 0 2 == 0 && l.stop.extractLsb' 0 2 == 0 && !l.stop.ult l.start
        && decide ((l.stop.toNat - l.start.toNat) / 4 + 1 ≤ 4095) && decide (l.rem ≠ 0)
        && (upFrom 0 i).all (fun j => !(lv j).act || (!l.start.ult (lv j).start && !(lv j).stop.ult l.stop))))
    && !(head.getLsbD 16 && (c.esc.isNone || act == 0))

/-- Read n words in ascending order from an address. -/
def loadWords (a : Word) : Nat → M (List Word)
  | 0 => return []
  | n + 1 => do
    let bs ← scalarLoad a 8
    let t ← loadWords (a + 8) n
    return leWord bs :: t

/-- The open escrow loop after its stack has been replaced by an image (R191, R203). With ESC = 1 the image's highest active
level is the escrow level: the loop goes on at width 1 with that level's iteration as the oldest; with ESC = 0 no level of
the stack is the escrow level. -/
def reseatEscrow (c : Ctx) (esc : Bool) (home : Nat) : Ctx :=
  match c.esc, topLevel c.loops with
  | some e, some k =>
    if esc then
      let lv := c.loops.toList.getD k Level.off
      let j := lv.idx.toNat
      { c with esc := some { e with
          level := some (BitVec.ofNat 3 k)
          expectLoop := false
          done := false
          trip := lv.idx + lv.rem
          last := if j = 0 then none else some (j - 1)
          oldest := j
          focus := 0
          parts := [⟨home, true, some j, c.x, c.pc, false, 0, c.x, false, false, false, 0, [], [], [], [], [], [], none, none⟩] } }
    else if e.level.isSome then { c with esc := some e.rest } else c
  | some e, none => if e.level.isSome then { c with esc := some e.rest } else c
  | none, _ => c

/-- LREST (R191): 25 words read and checked, then the whole stack replaced. -/
def execLrest (rs1 : XReg) (s : State) : Host.Outcome State Fault Refusal :=
  guarded (.lrest rs1) s fun s =>
    runM (do
      let ws ← loadWords (s.x rs1) 25
      let t ← get
      if imageOk t.ctx ws then
        let t := t.narrow
        set (retire (t.mapCtx fun c => reseatEscrow
          { c with loops := Vector.ofFn fun (i : Fin 6) => imageLevel ws i.val } ((ws.getD 0 0).getLsbD 16) t.core.id))
      else trapM cLoop (instrWord (.lrest rs1))) s

/-- The field of a level that `lrd` selects (R192): 0 for an inactive level. -/
def levelField (l : Level) (sel : Nat) : Word :=
  if !l.act then 0 else match sel with
  | 0 => l.rem
  | 1 => l.start
  | 2 => l.stop
  | _ => l.idx

/-- LRD (R192): rs2 = 4N + sel. -/
def execLrd (sel : BitVec 5) (rd : XReg) (s : State) : Host.Outcome State Fault Refusal :=
  guarded (.lrd sel rd) s fun s =>
    .next (retire (s.setX rd (levelField (s.ctx.loops.toList.getD (sel.toNat / 4) Level.off) (sel.toNat % 4))))

/-! ## Interrupt pending bits (R364, R417) -/

/-- The clerk core that a partition's mailbox signals: its lowest-numbered rib's (R388, R417). -/
def mailboxClerk (s : State) (k : Nat) : Nat := 256 + k * (16 / s.nparts)

/-- DBELL of a partition's mailbox (R388). -/
def dbellSet (s : State) (k : Nat) : Bool := (getByte s.mem (Config.commonsBase + mailboxOff s k + 0x40)).getLsbD 0

/-- `mip` of a core: software bits, PREEMPT while a stop waits, HOST while DBELL is set (R417). -/
def mipOf (s : State) (c : Core) : Word :=
  let w := putBit c.mipSoft 16 c.stop.isSome
  putBit w 18 (isClerk c.id && decide (mailboxClerk s (s.partOfCore c.id) = c.id) && dbellSet s (s.partOfCore c.id))

/-- The base's interrupts in the order they are taken, and the device's (R366). -/
def baseInts : List (BitVec 6) := [11, 3, 7, 9, 1, 5]
def deviceInts : List (BitVec 6) := [18, 17, 16]

/-- The interrupt a core takes at a boundary, none if none is pending and enabled (R364, R366): the base's first, those not
delegated before those that are, as the base has it. -/
def pendingInt (s : State) (c : Core) : Option (BitVec 6) :=
  let p := mipOf s c &&& c.csr.mie
  let mOn := decide (c.priv ≠ .machine) || c.csr.mstatus.getLsbD bitMIE
  let sOn := decide (c.priv = .user) || (decide (c.priv = .supervisor) && c.csr.mstatus.getLsbD bitSIE)
  let due (deleg : Bool) (i : BitVec 6) : Bool :=
    p.getLsbD i.toNat && decide (c.csr.mideleg.getLsbD i.toNat = deleg) && (if deleg then sOn else mOn)
  ((baseInts.find? (due false)).or (baseInts.find? (due true))).or (deviceInts.find? fun i => due false i || due true i)

/-- Carry registers in ascending order (R194). -/
def carries (cmask : BitVec 32) : List Nat := (upFrom 0 32).filter fun i => cmask.getLsbD i

/-- The bits a carry's comparison ignores (CMODE, R194). -/
def cmodeIgnore (cmode : BitVec 16) (pos : Nat) : Word :=
  match (cmode.extractLsb' (2 * pos) 2).toNat with
  | 0 => 0
  | 1 => 0xFF
  | _ => 0xFFFF

/-- Guessed carries equal the outputs under CMODE (R198 step 1). -/
def carriesEqual (e : Escrow) (guess out : Vector Word 32) : Bool :=
  let cs := carries e.cmask
  (upFrom 0 cs.length).all fun p =>
    let r := cs.getD p 0
    ((guess.toList.getD r 0 ^^^ out.toList.getD r 0) &&& ~~~(cmodeIgnore e.cmode p)) == 0

/-- The checks of `esc.open` on the descriptor's words (R204); reserved bits are ignored (R29). -/
def escDescOk (s : State) (w0 w1 w2 : Word) : Bool :=
  let cmask := w0.extractLsb' 0 32
  let n := (carries cmask).length
  let inText := match s.core.strand with
    | none => false
    | some _ =>
      match (strandObjects s).head? with
      | none => false
      | some h => (s.part s.pidx).objs.any fun o =>
          decide (o.handle = h) && decide (o.textVa ≤ w1.toNat) && decide (w1.toNat < o.textVa + o.textLen)
  decide (2 ≤ (w0.extractLsb' 32 4).toNat) && decide ((w0.extractLsb' 32 4).toNat ≤ 8)
    && !cmask.getLsbD 0 && decide (n ≤ 8)
    && w0.extractLsb' 36 2 != 3
    && (upFrom 0 8).all (fun i =>
      let f := (w2.extractLsb' (2 * i) 2).toNat
      if i < n then decide (f ≠ 3) else decide (f = 0))
    && w1.extractLsb' 0 2 == 0 && inText

/-- ESC_OPEN (R204): reads and checks the 64-byte descriptor; the next instruction must be `loop`. -/
def execEscOpen (rs1 : XReg) (s : State) : Host.Outcome State Fault Refusal :=
  guarded (.escOpen rs1) s fun s =>
    runM (do
      let d := s.x rs1
      if d.toNat % 64 ≠ 0 then trapM cMisLoad d
      let ws ← loadWords d 8
      let t ← get
      let w0 := ws.getD 0 0
      if t.ctx.esc.isSome || anySusp t.ctx.loops || !escDescOk t w0 (ws.getD 1 0) (ws.getD 2 0) then
        trapM cEscrow (instrWord (.escOpen rs1))
      else
        let e : Escrow :=
          { desc := d
            opener := t.core.priv
            bud := w0.extractLsb' 36 2
            want := (w0.extractLsb' 32 4).toNat
            cmask := w0.extractLsb' 0 32
            gpc := ws.getD 1 0
            cmode := (ws.getD 2 0).extractLsb' 0 16
            level := none
            expectLoop := true
            done := false
            trip := 0
            entryX := t.ctx.x
            entryLoops := t.ctx.loops
            outX := t.ctx.x
            last := none
            focus := 0
            parts := []
            oldest := 0
            narrow := false
            way := decide (waysUsed t (ribOf t.core.id) < 4)
            ncom := 0
            nmis := 0
            ncon := 0
            ndef := 0 }
        set (retire (t.mapCtx fun c => { c with esc := some e, escLast := ⟨0, 0, 0, 0⟩ }))) s

/-- Runs of consecutive addresses within one 128-byte line. -/
def lineRuns : List Nat → List (Nat × Nat)
  | [] => []
  | a :: t =>
    match lineRuns t with
    | (b, n) :: rest => if b = a + 1 ∧ b % 128 ≠ 0 then (a, n + 1) :: rest else (a, 1) :: (b, n) :: rest
    | [] => [(a, 1)]

/-- Commit an iteration's escrowed bytes (R199): visible at chip scope at one point, in the strand's colour (R51); each of
its stores is a granule write of its own (R219). -/
def commitStores (s : State) (p : EscPart) : State :=
  let s := p.writes.foldl (fun t r => granuleRun t r.1 r.2) s
  (lineRuns p.written).foldl (fun t r =>
    let page := (p.pages.find? fun q => decide (q.1 = r.1 / 128)).map Prod.snd
    physBytes t t.pidx (colourNew t t.pidx t.ctx) t.writer page r.1 (getBytes p.stores r.1 r.2)) s

/-- The participant that runs iteration j. -/
def Escrow.partOf (e : Escrow) (j : Nat) : Option Nat := e.parts.findIdx? fun p => decide (p.iter = some j)

/-- The lowest iteration not completed that no participant holds (R198 step 5); at most 8 are held (R194). -/
def Escrow.lowest (e : Escrow) : Option Nat :=
  (upFrom e.oldest 9).find? fun j => decide (j < e.trip.toNat) && (e.partOf j).isNone

/-- Give every free participant, home first and then helpers in join order, the lowest unstarted iteration (R198
step 5). Without a way the loop has one participant (R195). -/
def Escrow.fill (e : Escrow) (ls : Vector Level 6) : Nat → Nat → Escrow
  | 0, _ => e
  | n + 1, k =>
    match e.parts[k]?, e.lowest with
    | some p, some j =>
      if p.iter.isNone && e.way then
        let p' := if j = e.oldest then e.startOldest ls p j else e.startGuess p j
        Escrow.fill { e with parts := setAt e.parts k p' } ls n (k + 1)
      else Escrow.fill e ls n (k + 1)
    | some _, none => e
    | none, _ => e

/-- The participant whose guess routine for iteration j still runs: its guess is not there to compare (R197, R198). -/
def Escrow.guessAhead (e : Escrow) (j : Nat) : Option Nat :=
  (e.partOf j).bind fun k => if (e.parts[k]?).any fun p => p.guessing then some k else none

/-- A stop or an interrupt waits for this commit boundary (R202, R203). -/
def boundaryDue (s : State) : Bool := s.core.stop.isSome || (pendingInt s s.core).isSome

/-- One commit of the oldest iteration, held by the focus participant, at `esc.cmp xd` (R198 steps 1 to 3). Answers
whether the loop ended. The write of xd comes last and reaches the new oldest iteration, whose registers are the strand's
(DEDUCED, log 98). With `due` a stop or an interrupt lands here, and every speculative iteration is squashed first: the new
oldest starts at its start (R203; DESIGN CHOICE where j + 1 would have been confirmed, log 99). -/
def commitOnce (s : State) (rd : XReg) (due : Bool) : State × Bool :=
  let s := if due then s.narrow else s
  match s.ctx.esc with
  | none => (s, true)
  | some e0 =>
    let j := e0.oldest
    let out := s.ctx.x
    let e := { e0 with
      outX := Vector.ofFn fun (i : Fin 32) => if e0.cmask.getLsbD i.val then out[i] else e0.outX[i]
      last := some j
      ncom := e0.ncom + 1
      narrow := due }
    let running := (e.partOf (j + 1)).bind fun k => (e.parts[k]?).map fun p => (k, p)
    if decide (j + 1 = e.trip.toNat) then
      let s := (s.setX rd 1).mapCtx fun c => { c with esc := some e }
      ((finishEscrow s).setX rd 1, true)
    else
      match running with
      | some (k, p) =>
        if carriesEqual e p.guess out then
          let own := (e.focusPart.map fun q => { q.clean with iter := none, x := out }).getD p
          let p' := { p with
            reads := [], lines := [], stores := [], written := [], writes := [], pages := [], retired := 0, stalled := false, trapped := false }
          let parts := setAt (setAt e.parts e.focus own) k p'
          let u := s.ctx.u
          let s := s.mapCtx fun c => { c with
            esc := some { e with parts := parts, oldest := j + 1 }
            instret := c.instret + BitVec.ofNat 64 p.retired
            u := { u with vl := p.csrVl.getD u.vl, vxflags := p.csrXf.getD u.vxflags } }
          let s := s.mapCtx fun c => c.focusOn k
          ((commitStores s p).setX rd 1, false)
        else
          let own := (e.focusPart.map fun q => e.startOldest s.ctx.loops q (j + 1)).getD p
          let parts := setAt (setAt e.parts k { p.clean with iter := none }) e.focus own
          let e' := { e with parts := parts, oldest := j + 1, nmis := e.nmis + 1 }
          let s := s.mapCtx fun c => { c with
            x := own.x
            pc := own.pc
            loops := e'.loopsFor c.loops (j + 1)
            esc := some e' }
          (s.setX rd 0, false)
      | none =>
        match e.focusPart with
        | none => (s, true)
        | some q =>
          let own := e.startOldest s.ctx.loops q (j + 1)
          let e' := { e with parts := setAt e.parts e.focus own, oldest := j + 1 }
          let s := s.mapCtx fun c => { c with
            x := own.x
            pc := own.pc
            loops := e'.loopsFor c.loops (j + 1)
            esc := some e' }
          (s.setX rd 1, false)

/-- The focus participant no longer waits at `esc.cmp`. -/
def endWait (c : Ctx) : Ctx :=
  match c.esc with
  | some e => match e.focusPart with
    | some p => { c with esc := some { e with parts := setAt e.parts e.focus { p with waiting := false } } }
    | none => c
  | none => c

/-- The commits of one boundary: a new oldest that already waits at `esc.cmp` completes there at once (R198 step 4), once
the guess it is compared with is there. Each `esc.cmp` that does not end the loop retires here. -/
def commitAll (s : State) (rd : XReg) (due : Bool) : Nat → State × Bool
  | 0 => (s, false)
  | n + 1 =>
    match commitOnce s rd due with
    | (s', true) => (s', true)
    | (s0, false) =>
      let s' := tick s0
      match s'.ctx.esc with
      | some e =>
        if e.focusPart.any fun p => p.waiting then
          if (e.guessAhead (e.oldest + 1)).isSome then (s'.mapCtx endWait, false)
          else commitAll (s'.mapCtx endWait) rd due n
        else (s', false)
      | none => (s', false)

/-- The escrow level's body-end instruction is the one at the pc (R205). -/
def atEscEnd (c : Ctx) : Bool :=
  match c.escActive with
  | some e => match e.level with
    | some l => decide ((c.loops.toList.getD l.toNat Level.off).stop = c.pc) && !c.isGuess
    | none => false
  | none => false

/-- ESC_RET (R197, R207): ends a guess routine, keeping the carries it set; elsewhere it traps ESCROW. -/
def execEscRet (s : State) : Host.Outcome State Fault Refusal :=
  guarded .escRet s fun s =>
    if s.ctx.isGuess then .next ((tick s).mapCtx fun c => c.endGuess true)
    else .next (raiseTrap s cEscrow (instrWord .escRet))

/-- ESC_ABORT (R203, R208): ends the loop as at its last iteration and leaves it open for `esc.close`. -/
def execEscAbort (s : State) : Host.Outcome State Fault Refusal :=
  guarded .escAbort s fun s =>
    match s.ctx.esc with
    | none => .next (raiseTrap s cEscrow (instrWord .escAbort))
    | some e =>
      if e.done then .next (retire s)
      else .next (retire (finishEscrow s))

/-- A counter saturated to 16 bits (R208). -/
def sat16 (w : Word) : Nat := min w.toNat 0xFFFF

/-- ESC_STAT (R208): the open loop's counters, or the last closed loop's. -/
def execEscStat (rd : XReg) (s : State) : Host.Outcome State Fault Refusal :=
  guarded (.escStat rd) s fun s =>
    let c : EscStat := match s.ctx.esc with
      | some e => ⟨e.ncom, e.nmis, e.ncon, e.ndef⟩
      | none => s.ctx.escLast
    .next (retire (s.setX rd (BitVec.ofNat 64
      (sat16 c.ndef * 2 ^ 48 + sat16 c.ncon * 2 ^ 32 + sat16 c.nmis * 2 ^ 16 + sat16 c.ncom))))

/-! ## Escrow steps of other agents -/

/-- GUESS_ROUTINE_END (R197): the focus participant's guess routine ends with the carries it started with. -/
def execGuessRoutineEnd (s : State) : Host.Outcome State Fault Refusal :=
  .next (if s.ctx.isGuess then s.mapCtx fun c => c.endGuess false else s)

/-- Classes a core offers cover a strand (R41, R314). -/
def covers (s : State) (n : Nat) (use : BitVec 32) : Bool := (use &&& ~~~(s.coreAt n).assaycap) == 0

/-- A core with no strand, no assay and no helper duty (R49, R299). -/
def idleCore (s : State) (n : Nat) : Bool :=
  let c := s.coreAt n
  decide (n < 256) && c.strand.isNone && c.helperOf.isNone && !c.assay

/-- ESCROW_HELPER_JOIN (R195, R49): an idle covering core of the rib joins the loop of the core whose turn it is and
takes the lowest unstarted iteration. -/
def execEscrowHelperJoin (n : Nat) (s : State) : Host.Outcome State Fault Refusal :=
  match s.ctx.escActive with
  | some e =>
    if e.way && !e.narrow && decide (e.parts.length < e.want) && decide (n ≠ s.core.id)
        && decide (ribOf n = ribOf s.core.id) && idleCore s n && covers s n s.ctx.usemask then
      let p : EscPart := ⟨n, false, none, s.ctx.x, s.ctx.pc, false, 0, s.ctx.x, false, false, false, 0, [], [], [], [], [], [], none, none⟩
      let s := s.mapCoreAt n fun c => { c with helperOf := some s.core.id }
      .next (s.mapCtx fun c =>
        let e' := { e with parts := e.parts ++ [p] }
        { c with esc := some (e'.fill c.loops e'.parts.length 0) })
    else .next s
  | none => .next s

/-- ESCROW_HELPER_RECLAIM (R49): the WS takes a helper core back, also between the loop's end and `esc.close` (R206); its
iteration is squashed, and the loop goes on narrower. DESIGN CHOICE (log 126): where the helper holds the oldest iteration,
that iteration goes on on the home core, and the loop has no helper until its next commit. -/
def execEscrowHelperReclaim (n : Nat) (s : State) : Host.Outcome State Fault Refusal :=
  let t := s.mapCoreAt n fun c => { c with helperOf := none }
  match s.ctx.esc with
  | some e =>
    match e.parts.findIdx? fun p => decide (p.core = n) && !p.home with
    | none => .next s
    | some k =>
      let drop (c : Ctx) : Ctx := { c with esc := c.esc.map fun e =>
        { e with parts := e.parts.eraseIdx k, focus := if k < e.focus then e.focus - 1 else e.focus } }
      if s.ctx.escActive.isNone then .next (t.mapCtx drop)
      else if k = e.oldestPart then .next t.narrow
      else .next (t.mapCtx fun c => drop (c.focusOn e.oldestPart))
  | none => .next s

/-- ESCROW_CONFLICT_SQUASH (R199): another agent writes a byte; iterations that have read its line are squashed. -/
def execEscrowConflictSquash (addr : Word) (val : Byte) (s : State) : Host.Outcome State Fault Refusal :=
  if physOk addr.toNat 1 then .next (physWrite s s.pidx true (.agent .supervisor) none addr.toNat [val]) else .next s

/-- ESCROW_DEFERRED_RESUME (R200): the turn goes to the oldest iteration, which performs what it deferred. -/
def execEscrowDeferredResume (s : State) : Host.Outcome State Fault Refusal :=
  .next (s.mapCtx fun c =>
    match c.escActive with
    | some e =>
      let c := c.focusOn e.oldestPart
      { c with esc := c.esc.map fun e => { e with parts := match e.focusPart with
        | some p => setAt e.parts e.focus { p with stalled := false, trapped := false }
        | none => e.parts } }
    | none => c)

end Sys2Proof.Machine
end

