-- ==== Sys2Proof/Machine/Csr.lean ====
section
/-! DEFINITION. Control and status registers: Tables 5.3 to 5.6 (R113 to R118), their fields and accesses, the
device interrupts' pending bits (R417), and the Zicsr rows that need no other unit. -/

namespace Sys2Proof.Machine

/-! ## Read values -/

/-- `coreid` (Table 5.5). A clerk core's CORE field is a free value (log 11). -/
def coreidOf (s : State) (n : Nat) : Word :=
  let core := if n < 256 then n % 16 else (Config.freeWord n).toNat % 16
  BitVec.ofNat 64 (s.chip.toNat * 4096 + s.partOfCore n * 256 + ribOf n * 16 + core)

/-- Bytes of one span (R103). -/
def spanBytes (c : Ctx) : Nat := 524288 / (2 * (8 * 2 ^ c.nc.toNat))

/-- Registers declared (R103). -/
def nregOf (c : Ctx) : Nat := 8 * 2 ^ c.nc.toNat

/-- Spans of a group (R103). -/
def groupOf (c : Ctx) : Nat := 2 ^ c.gc.toNat

/-- `mvl` in bytes (R103). -/
def mvlOf (c : Ctx) : Nat := groupOf c * spanBytes c

/-- `escst` (Table 5.5). -/
def escstOf (c : Ctx) : Word :=
  match c.esc with
  | none => 0
  | some e =>
    BitVec.ofNat 64 ((if c.isSpec then 32 else 0) + 16 + min 15 (max 1 e.parts.length))

/-- The `vl` the thread sees: a speculative iteration's own (R200), or the context's. -/
def vlSeen (c : Ctx) : Word :=
  if c.isSpec then ((c.esc.bind fun e => e.focusPart).bind fun p => p.csrVl).getD c.u.vl else c.u.vl

/-- The `vxflags` the thread sees. -/
def xfSeen (c : Ctx) : Word :=
  if c.isSpec then ((c.esc.bind fun e => e.focusPart).bind fun p => p.csrXf).getD c.u.vxflags else c.u.vxflags

/-- `sstatus` is a view of `mstatus` (the base): SIE, SPIE, SPP, SUM, MXR, UXL. -/
def sstatusMask : Word := 0x3000C0122

/-- `misa`: MXL = 2 with A, I, M, S and U (Table 5.3). -/
def misaValue : Word := 0x8000000000141101

/-- A counter is readable at the privilege the thread runs at (the base's counter enables). -/
def counterOn (c : Core) (bit : Nat) : Bool :=
  match c.priv with
  | .machine => true
  | .supervisor => c.csr.mcounteren.getLsbD bit
  | .user => c.csr.mcounteren.getLsbD bit && c.csr.scounteren.getLsbD bit

/-- `pcfg` (Table 5.6). -/
def pcfgOf (s : State) : Word :=
  BitVec.ofNat 64 (s.pidx * 256 + s.pcnt.toNat * 16 + (s.part s.pidx).prof.toNat)

/-- `vaultctl` (Table 5.6). -/
def vaultctlOf (s : State) : Word :=
  boolWord s.vault.busy + 2 * boolWord s.vault.dir + 4 * boolWord s.vault.err

/-- The value of a CSR, none for an address that is not listed (R82). A provisional `vl` is handled by the reader. -/
def readCsr (s : State) (a : BitVec 12) : Option Word :=
  let c := s.ctx
  let k := s.core.csr
  let p := s.part s.pidx
  match a.toNat with
  | 0xC00 => if counterOn s.core 0 then some c.cycle else none
  | 0xC02 => if counterOn s.core 2 then some c.instret else none
  | 0x100 => some (k.mstatus &&& sstatusMask)
  | 0x104 => some (k.mie &&& k.mideleg)
  | 0x105 => some k.stvec
  | 0x106 => some k.scounteren
  | 0x140 => some k.sscratch
  | 0x141 => some k.sepc
  | 0x142 => some k.scause
  | 0x143 => some k.stval
  | 0x144 => some (mipOf s s.core &&& k.mideleg)
  | 0x300 => some k.mstatus
  | 0x301 => some misaValue
  | 0x302 => some k.medeleg
  | 0x303 => some k.mideleg
  | 0x304 => some k.mie
  | 0x305 => some k.mtvec
  | 0x306 => some k.mcounteren
  | 0x340 => some k.mscratch
  | 0x341 => some k.mepc
  | 0x342 => some k.mcause
  | 0x343 => some k.mtval
  | 0x344 => some (mipOf s s.core)
  | 0xF11 => some 0
  | 0xF12 => some 0
  | 0xF13 => some 0
  | 0xF14 => some (coreidOf s s.core.id)
  | 0x800 => some (vlSeen c)
  | 0x801 => some c.u.ves
  | 0x803 => some c.u.mtyp
  | 0x804 => some c.u.vffs
  | 0x805 => some (xfSeen c)
  | 0x806 => some c.u.vxctl
  | 0x807 => some c.u.cshapemk
  | 0x808 => some c.u.cshapen
  | 0x809 => some c.u.kcnt
  | 0x80A => some c.u.cpstr
  | 0x80B => some c.u.pbase
  | 0x80C => some c.u.atab0
  | 0x80D => some c.u.atab1
  | 0x80E => some c.u.qscl
  | 0x810 => some c.u.optc0
  | 0x811 => some c.u.optc1
  | 0x812 => some c.u.optc2
  | 0x813 => some c.u.optc3
  | 0x814 => some c.u.optc4
  | 0x81F => some c.u.snaprb
  | 0xC80 => some (c.gc.setWidth 64 * 4 + c.nc.setWidth 64)
  | 0xC81 => some (BitVec.ofNat 64 (mvlOf c))
  | 0xC82 => some c.u.vqpos
  | 0xC83 => some ((s.core.assaycap &&& 0x7FFFFFFF).setWidth 64)
  | 0xC84 => some c.strandid
  | 0xC85 => some (coreidOf s s.core.id)
  | 0xC86 => some (c.snapGen.setWidth 64 * 2 + boolWord c.snapCol)
  | 0xC87 => some (escstOf c)
  | 0xC88 => some p.caplist
  | 0xC89 => some (c.usemask.setWidth 64)
  | 0x5C0 => some p.ptroot
  | 0x5C1 => some p.wqbase
  | 0x5C2 => some p.ctxbase
  | 0x5C3 => some p.evqbase
  | 0x7C0 => some (pcfgOf s)
  | 0x7C1 => some (vaultctlOf s)
  | _ => none

/-! ## Written values -/

/-- mstatus after a write on a core: the writable fields of the base, MPP keeping a legal value, UXL and SXL fixed. A
clerk core has no U-mode (R87), so its MPP keeps 01 or 11 and its SPP stays 1. -/
def writeMstatus (clerk : Bool) (old v : Word) : Word :=
  let mask : Word := if clerk then 0x6E18AA else 0x6E19AA
  let mpp := v.extractLsb' 11 2
  let v := if mpp = 2 || (clerk && mpp = 0) then (v &&& ~~~(3#64 <<< 11)) ||| (old &&& (3#64 <<< 11)) else v
  (old &&& ~~~mask) ||| (v &&& mask)

/-- A write of a field set under a mask. -/
def underMask (mask old v : Word) : Word := (old &&& ~~~mask) ||| (v &&& mask)

/-- `vxctl` after a write: a write of RM 6 or 7 leaves RM unchanged (R66). -/
def writeVxctl (old v : Word) : Word :=
  let rm := if v.extractLsb' 0 3 = 6 ∨ v.extractLsb' 0 3 = 7 then old &&& 7 else v &&& 7
  (v &&& 0x1F00) ||| rm

/-- The implemented bits of medeleg and mideleg (R364). -/
def medelegMask : Word := 0x00FF0000FF00BBFF
def midelegMask : Word := 0x70222
/-- The implemented bits of mie: the base's and 16 to 18. -/
def mieMask : Word := 0x70AAA

/-- Store a value into a CSR that has no behaviour of its own beyond its fields; none for a read-only or unlisted
address (R82, Tables 5.3 to 5.6). -/
def writeCsr (s : State) (a : BitVec 12) (v : Word) : Option State :=
  let k := s.core.csr
  let csr (f : SysCsr) : Option State := some { s with core := { s.core with csr := f } }
  let u (f : UCsr → UCsr) : Option State := some (s.mapU f)
  let part (f : Partition → Partition) : Option State := some (s.mapPart s.pidx f)
  match a.toNat with
  | 0x100 => csr { k with mstatus := writeMstatus (isClerk s.core.id) k.mstatus (underMask sstatusMask k.mstatus v) }
  | 0x104 => csr { k with mie := underMask (k.mideleg &&& mieMask) k.mie v }
  | 0x105 => csr { k with stvec := v &&& ~~~3 }
  | 0x106 => csr { k with scounteren := v &&& 0xFFFFFFFF }
  | 0x140 => csr { k with sscratch := v }
  | 0x141 => csr { k with sepc := v &&& ~~~3 }
  | 0x142 => csr { k with scause := v }
  | 0x143 => csr { k with stval := v }
  | 0x300 => csr { k with mstatus := writeMstatus (isClerk s.core.id) k.mstatus v }
  | 0x301 => some s
  | 0x302 => csr { k with medeleg := v &&& medelegMask }
  | 0x303 => csr { k with mideleg := v &&& midelegMask }
  | 0x304 => csr { k with mie := v &&& mieMask }
  | 0x305 => csr { k with mtvec := v &&& ~~~3 }
  | 0x306 => csr { k with mcounteren := v &&& 0xFFFFFFFF }
  | 0x340 => csr { k with mscratch := v }
  | 0x341 => csr { k with mepc := v &&& ~~~3 }
  | 0x342 => csr { k with mcause := v }
  | 0x343 => csr { k with mtval := v }
  | 0x801 => u fun c => { c with ves := v &&& 0x1FFFF }
  | 0x803 => u fun c => { c with mtyp := v &&& 0x77 }
  | 0x804 => u fun c => { c with vffs := v }
  | 0x806 => u fun c => { c with vxctl := writeVxctl c.vxctl v }
  | 0x807 => u fun c => { c with cshapemk := v }
  | 0x808 => u fun c => { c with cshapen := v &&& 0xFFFFFFFF }
  | 0x809 => u fun c => { c with kcnt := if v.toNat > 256 then 256 else v }
  | 0x80A => u fun c => { c with cpstr := v }
  | 0x80B => u fun c => { c with pbase := v &&& ~~~7 }
  | 0x80C => u fun c => { c with atab0 := v }
  | 0x80D => u fun c => { c with atab1 := v }
  | 0x80E => u fun c => { c with qscl := v &&& 0xFFFFFFFF }
  | 0x810 => u fun c => { c with optc0 := v }
  | 0x811 => u fun c => { c with optc1 := v }
  | 0x812 => u fun c => { c with optc2 := v }
  | 0x813 => u fun c => { c with optc3 := v }
  | 0x814 => u fun c => { c with optc4 := v &&& 0xFFFFFFFF }
  | 0x81F => u fun c => { c with snaprb := 0 }
  | 0x5C1 => part fun p => { p with wqbase := v &&& ~~~0x3F }
  | 0x5C2 => (part fun p => { p with ctxbase := v &&& ~~~0x3F }).map fun t => showJobState t t.pidx
  | 0x5C3 => part fun p => { p with evqbase := v &&& ~~~0x3F }
  | 0x7C1 => some { s with vault := { s.vault with err := false } }
  | _ => none

/-- The privilege an address asks for in its bits [9:8] (the base; R118). -/
def csrPrivOk (p : Priv) (a : BitVec 12) : Bool :=
  match (a.extractLsb' 8 2).toNat with
  | 0 => true
  | 1 => decide (p ≠ .user)
  | 2 => decide (p = .machine)
  | _ => decide (p = .machine)

/-- VIQ entries that can still run: not frozen. -/
def viqBusy (c : Ctx) : Bool := c.viq.any fun e => !e.frozen

/-- CSRs whose read waits for older vector work (R113, R70). -/
def csrWaits (a : BitVec 12) : Bool := a == 0x801 || a == 0x804 || a == 0x805

/-- The value a Zicsr form reads: `vl` while provisional waits for its `vldff`, or, frozen in a handler, reads as
2^63 OR p (R228); `ves`, `vffs` and `vxflags` wait for older vector work (R113). -/
inductive CsrOld where
  | value (w : Word)
  | wait
  | unlisted
  deriving DecidableEq, Repr

/-- Position of the entry with an identity among the frozen entries. -/
def frozenPos (c : Ctx) (id : Nat) : Option Nat := (c.viq.filter fun e => e.frozen).findIdx? fun e => decide (e.id = id)

def csrOld (s : State) (a : BitVec 12) (need : Bool) : CsrOld :=
  match readCsr s a with
  | none => .unlisted
  | some v =>
    if !need then .value v
    else if a = csrVl then
      match s.ctx.vlProv with
      | none => .value v
      | some id =>
        match frozenPos s.ctx id with
        | some p => if s.core.priv = .user then .wait else .value (BitVec.ofNat 64 (2 ^ 63 + p))
        | none => .wait
    else if csrWaits a && viqBusy s.ctx then .wait
    else .value v

/-- An access that R99's first two steps refuse: an unlisted address, a write of a read-only one, or too low a
privilege (R82, R98). -/
def csrBad (s : State) (a : BitVec 12) (writes : Bool) : Bool :=
  !csrPrivOk s.core.priv a || (writes && a.extractLsb' 10 2 == 3) || (readCsr s a).isNone

/-- R99's first two steps come before its fourth, so a refused access is ILLEGAL also where the class is fenced or the
`loop` of an opened escrow loop is missing. -/
def csrFirst (i : Instr) (s : State) : Bool :=
  match gate i s with
  | .trap _ _ | .escLost => true
  | .pass | .stall | .defer | .guessEnd => false

/-- One Zicsr access (Table 4.1): the old value to rd, and, when the form writes, the new value through `wr`. A
write to a read-only address, an unlisted address, or too low a privilege traps ILLEGAL. -/
def csrAccess (i : Instr) (op : CsrOp) (a : BitVec 12) (src rd : XReg) (wr : State → Word → Option State)
    (s : State) : Host.Outcome State Fault Refusal :=
  if csrFirst i s && csrBad s a (csrWrites op src) then illegal i (loseExpected s) else
  guarded i s fun s =>
    let writes := csrWrites op src
    let reads := decide (rd ≠ 0) || (match op with
      | .rw | .rwi => false
      | .rs | .rc | .rsi | .rci => true)
    if !csrPrivOk s.core.priv a || (writes && a.extractLsb' 10 2 == 3) then illegal i s
    else
      match csrOld s a reads with
      | .unlisted => illegal i s
      | .wait => .next s
      | .value old =>
        if writes then
          match wr s (csrNew op old (csrSource op src s.ctx)) with
          | some t => .next (retire (t.setX rd old))
          | none => illegal i s
        else .next (retire (s.setX rd old))

/-- CSR_WRITE (R113): a CSR with no behaviour of its own. -/
def execCsrWrite (op : CsrOp) (csr : BitVec 12) (src rd : XReg) (s : State) : Host.Outcome State Fault Refusal :=
  csrAccess (.csrWrite op csr src rd) op csr src rd (fun t v => writeCsr t csr v) s

/-- What a write of `vl` does (R115, R228): at most 65,536, and the provisional state ends. A speculative iteration
keeps its own value until it commits (R200). -/
def writeVl (s : State) (v : Word) : State :=
  let w : Word := if v.toNat > 65536 then 65536 else v
  s.mapCtx fun c =>
    if c.isSpec then
      { c with esc := c.esc.map fun e => { e with parts := match e.focusPart with
        | some p => setAt e.parts e.focus { p with csrVl := some w }
        | none => e.parts } }
    else { c with u := { c.u with vl := w }, vlProv := none }

/-- VL_WRITE (R228). -/
def execVlWrite (op : CsrOp) (src rd : XReg) (s : State) : Host.Outcome State Fault Refusal :=
  csrAccess (.vlWrite op src rd) op csrVl src rd (fun t v => some (writeVl t v)) s

/-- What a write of `vxflags` does (R70). -/
def writeVxflags (s : State) (v : Word) : State :=
  let w := v &&& 0x3F
  s.mapCtx fun c =>
    if c.isSpec then
      { c with esc := c.esc.map fun e => { e with parts := match e.focusPart with
        | some p => setAt e.parts e.focus { p with csrXf := some w }
        | none => e.parts } }
    else { c with u := { c.u with vxflags := w } }

/-- VXFLAGS_WRITE (R113): takes effect after the flags of older V- and M-space instructions merge, so the thread
waits for them. -/
def execVxflagsWrite (op : CsrOp) (src rd : XReg) (s : State) : Host.Outcome State Fault Refusal :=
  if csrWrites op src && viqBusy s.ctx && !s.ctx.isSpec then
    match gate (.vxflagsWrite op src rd) s with
    | .pass => .next s
    | .stall | .defer | .guessEnd | .escLost | .trap _ _ =>
      csrAccess (.vxflagsWrite op src rd) op csrVxflags src rd (fun t v => some (writeVxflags t v)) s
  else csrAccess (.vxflagsWrite op src rd) op csrVxflags src rd (fun t v => some (writeVxflags t v)) s

/-- PTROOT_WRITE (R304): sets the root for every core of the partition; 64 KiB aligned. -/
def execPtrootWrite (op : CsrOp) (src rd : XReg) (s : State) : Host.Outcome State Fault Refusal :=
  csrAccess (.ptrootWrite op src rd) op csrPtroot src rd
    (fun t v => some (t.mapPart t.pidx fun p => { p with ptroot := v &&& ~~~0xFFFF })) s

/-- `mip` after a write: SSIP, STIP and SEIP are writable in M; a 0 written to bit 17 clears it and a 1 is ignored;
bits 16 and 18 are read-only (R417). -/
def writeMip (soft v mask : Word) : Word :=
  let w := underMask (mask &&& 0x222) soft v
  if mask.getLsbD 17 && !v.getLsbD 17 then putBit w 17 false else w

/-- ASSAY_NOTICE_CLEAR (R417): a write of `mip` or `sip`. -/
def execAssayNoticeClear (op : CsrOp) (mach : Bool) (src rd : XReg) (s : State) : Host.Outcome State Fault Refusal :=
  let a := if mach then csrMip else csrSip
  csrAccess (.assayNoticeClear op mach src rd) op a src rd (fun t v =>
    let mask : Word := if mach then 0x20222 else t.core.csr.mideleg &&& 0x20002
    some { t with core := { t.core with mipSoft := writeMip t.core.mipSoft v mask } }) s

end Sys2Proof.Machine
end

