-- ==== Sys2Proof/Machine/Levels.lean ====
section
/-! DEFINITION. Events (R340, R341), level records and their propagation (R43), cancellation (R45), a strand's exit
(R39, R296) and the ring departures it makes, and the CAP words that software changes (R315). -/

namespace Sys2Proof.Machine

/-! ## Hardware's own memory accesses -/

/-- A write by the Work Scheduler, the fabric logic or a Teller of a partition, in the new colour. -/
def sysWrite (s : State) (k a : Nat) (bs : List Byte) : State := physWrite s k true .device none a bs

/-- Write an n-byte number at a physical address. -/
def sysPut (s : State) (k a n v : Nat) : State := sysWrite s k a (natBytes n v)

/-- The physical address of a Commons-window address in a partition's bank group with an alignment (R252). -/
def commonsWord (s : State) (k : Nat) (p : Priv) (va : Word) (align n : Nat) : Option Nat :=
  let a := va.toNat
  if Config.windowBase ≤ a ∧ a < Config.windowBase + Config.commonsBytes ∧ a % align = 0
      ∧ commonsOk s k p (a - Config.windowBase) n then
    some (Config.commonsBase + (a - Config.windowBase))
  else none

/-! ## Control structures in GLOBAL memory -/

/-- Where a control structure's GLOBAL address lies, with the page a write splits (log 10). -/
def sysLoc (s : State) (k va : Nat) : Option (Nat × Option PageRef) :=
  (sysAddr s k va).map fun a =>
    (a, if Config.windowBase ≤ va then none else match walk s k va with
      | .leaf pte _ base size => some ⟨pte, base, size⟩
      | .fault | .access | .poison _ => none)

/-- A write of a control structure by the partition's hardware, in a colour: the walk sets A and D (R308). -/
def sysStore (s : State) (k : Nat) (new : Bool) (va : Nat) (bs : List Byte) : State :=
  match sysLoc s k va with
  | some (a, page) => physWrite (putAD (fun t a bs => rawWrite t k new none none a bs) s k va) k new .device page a bs
  | none => s

/-- The GLOBAL address of a work queue's control block (R287). -/
def wqBlock (s : State) (k q : Nat) : Nat := (s.part k).wqbase.toNat + 64 * q

/-- Fields of a work queue's control block (Table 14.1). -/
def wqEna (s : State) (cb : Nat) : Bool := decide (2 ^ 63 ≤ ctlLe s (cb + 8) 8)
def wqOwn (s : State) (cb : Nat) : Bool := decide (ctlLe s (cb + 8) 8 / 2 ^ 40 % 2 = 1)
def wqLsz (s : State) (cb : Nat) : Nat := ctlLe s (cb + 8) 1 % 32
def wqTail (s : State) (cb : Nat) : Nat := ctlLe s (cb + 16) 4
def wqHead (s : State) (cb : Nat) : Nat := ctlLe s (cb + 24) 4
def wqUsed (s : State) (cb : Nat) : Nat := (wqTail s cb + 2 ^ 32 - wqHead s cb) % 2 ^ 32
/-- The GLOBAL address of record n. -/
def wqRecord (s : State) (cb n : Nat) : Nat := ctlLe s cb 8 / 64 * 64 + 64 * (n % 2 ^ wqLsz s cb)

/-! ## Events (R340, R341) -/

/-- Write one event record to event queue q of a partition (R340), as a write of the fabric logic, which reads the control
block first (R217). -/
def raiseEvent (s : State) (k q code : Nat) (arg strd : Word) : State :=
  let s := sysTouch s k ((s.part k).evqbase.toNat + 64 * (q % (256 / s.nparts))) 64
  raiseEventBy (fun t a bs => sysWrite t k a bs) s k q code arg strd

/-- Launch-level events go to the queue of the work queue the launch came from (R340). -/
def launchEvent (s : State) (k : Nat) (l : Launch) (code : Nat) : State := raiseEvent s k l.queue code l.lrec 0

/-! ## Level records (R43) -/

/-- The counter word of a level record: outstanding [31:0], CANCELLED 62, FAILED 63. -/
def levelCounter (s : State) (a : Nat) : Nat := ctlLe s a 8
def levelOut (s : State) (a : Nat) : Nat := ctlLe s a 4
def levelCancelled (s : State) (a : Nat) : Bool := decide (ctlLe s (a + 7) 1 / 64 % 2 = 1)
def levelFailed (s : State) (a : Nat) : Bool := decide (ctlLe s (a + 7) 1 / 128 % 2 = 1)
def levelParent (s : State) (a : Nat) : Word := BitVec.ofNat 64 (ctlLe s (a + 8) 8)

/-- The physical address of a level record (R43). -/
def levelAddr (s : State) (k : Nat) (va : Word) : Option Nat := commonsWord s k .machine va 16 16

/-- Set CANCELLED in a record. -/
def setCancelled (s : State) (k a : Nat) : State := sysPut s k (a + 7) 1 ((getByte s.mem (a + 7)).toNat ||| 0x40)

/-- Set FAILED in a record. -/
def setFailed (s : State) (k a : Nat) : State := sysPut s k (a + 7) 1 ((getByte s.mem (a + 7)).toNat ||| 0x80)

/-- A level's outstanding count has reached 0: its Teller subtracts 1 from the parent and copies FAILED, upward
(R43). A subtraction below 0 leaves 0, sets FAILED and raises an event. -/
def levelPropagate (s : State) (k a : Nat) : Nat → State
  | 0 => s
  | n + 1 =>
    let pva := levelParent s a
    if pva = 0 then s
    else match levelAddr s k pva with
    | none => s
    | some p =>
      let s := if levelFailed s a then setFailed s k p else s
      let out := levelOut s p
      if out = 0 then raiseEvent (setFailed s k p) k 0 0x0006 pva 0
      else
        let s := sysPut s k p 4 (out - 1)
        if out = 1 then levelPropagate s k p n else s

/-- Bound on the depth of a chain of level records: launch, graph, phase, job, and room for longer software chains. -/
def levelDepth : Nat := 64

/-- Set a launch's outstanding count to 0 and propagate (R42, R43). -/
def levelFinish (s : State) (k : Nat) (lrec : Word) : State :=
  match levelAddr s k lrec with
  | none => s
  | some a => levelPropagate (sysPut s k a 4 0) k a levelDepth

/-- The records from one upward through parent fields. -/
def levelChain (s : State) (k : Nat) (va : Word) : Nat → List Word
  | 0 => []
  | n + 1 =>
    if va = 0 then []
    else match levelAddr s k va with
    | none => []
    | some a => va :: levelChain s k (levelParent s a) n

/-! ## Rings as the Work Scheduler sees them (R292, R296) -/

/-- A field of a ring header. -/
def ringField (s : State) (a off n : Nat) : Nat := getLe s.mem (a + off) n

/-- A producer leaves a ring: PROD falls by 1, and CLOSED is set in the same operation when it reaches 0 (R296). -/
def ringLeave (s : State) (k : Nat) (ring : Word) : State :=
  match commonsWord s k .machine ring 32 32 with
  | none => s
  | some a =>
    let prod := getLe s.mem (a + 12) 2
    let s := sysPut s k (a + 12) 2 (prod - 1)
    if prod ≤ 1 then sysPut s k (a + 15) 1 ((getByte s.mem (a + 15)).toNat ||| 0x80) else s

/-- n producers leave a ring. -/
def ringLeaveN (s : State) (k : Nat) (ring : Word) : Nat → State
  | 0 => s
  | n + 1 => ringLeaveN (ringLeave s k ring) k ring n

/-! ## Strands ending -/

/-- A launch of a partition. -/
def findLaunch (s : State) (k serial : Nat) : Option Launch := (s.part k).launches.find? fun l => decide (l.serial = serial)

/-- A strand of a launch. -/
def findStrand (l : Launch) (stage idx : Nat) : Option Strand := l.strands.find? fun t => decide (t.stage = stage ∧ t.idx = idx)

/-- Update a launch of a partition. -/
def State.mapLaunch (s : State) (k serial : Nat) (f : Launch → Launch) : State := s.mapPart k fun p => p.mapLaunch serial f

/-- A strand still has a `cring` outstanding into a ring (R286, R296). -/
def cringOut (s : State) (r : SRef) (ring : Word) : Bool :=
  s.liveCores.any fun n => (s.coreAt n).copies.any fun c =>
    decide (c.owner = some r) && (match c.form with
      | .ring h _ => h == ring
      | .plain | .toReg _ _ | .tile _ _ _ _ => false)

/-- The ring a stage produces into. -/
def stageOut (l : Launch) (stage : Nat) : Option Word := (l.stages[stage]?).bind fun d => d.rout

/-- Make the ring departures of an exited strand that are due (R296). -/
def leaveRings (s : State) (k : Nat) (r : SRef) : State :=
  match (findLaunch s k r.launch).bind fun l => findStrand l r.stage r.idx with
  | none => s
  | some t =>
    let due := t.leaving.filter fun w => !cringOut s r w
    let s := due.foldl (fun u w => ringLeave u k w) s
    s.mapStrand k r fun t => { t with leaving := t.leaving.filter fun w => !(w ∈ due) }

/-- A core with no strand: its strand state is discarded and it idles in U-mode (R39). -/
def Core.idle (c : Core) : Core :=
  { c with
    priv := .user
    ctx := Ctx.reset
    strand := none
    resv := none
    stop := none
    migrate := false
    wfi := false
    hwait := none }

/-- The live or saved context of a strand. -/
def strandCtx (s : State) (t : Strand) : Option Ctx :=
  match t.core with
  | some n => some (s.coreAt n).ctx
  | none => t.saved

/-- Update one strand in the image of a manifest. -/
def Manifest.mapStrand (m : Manifest) (r : SRef) (f : Strand → Strand) : Manifest :=
  { m with launches := updFirst (fun l => decide (l.serial = r.launch)) (fun l => l.mapStrand r.stage r.idx f) m.launches }

/-- Update one strand in the image of the generation a partition is taking. -/
def imageStrand (s : State) (k : Nat) (r : SRef) (f : Strand → Strand) : State :=
  s.mapPart k fun p => { p with
    manifests := updFirst (fun m => decide (m.gen = p.gen)) (fun m => m.mapStrand r f) p.manifests }

/-- A context has not cut to the generation a partition is taking (R51). -/
def uncut (p : Partition) (c : Ctx) : Bool := p.taking && decide (c.snapGen ≠ p.gen.setWidth 31)

/-- A physical address on a line last written in the colour of the generation being taken, by the line's colour bit (R354;
log 78). -/
def newLine (s : State) (k a : Nat) : Bool := decide ((s.part k).oddLines.contains (a / 128) = (s.part k).gen.getLsbD 0)

/-- A strand that exits before its cut has exited in the image too (R51, R354). -/
def noteExit (s : State) (k : Nat) (r : SRef) (l : Launch) (t : Strand) : State :=
  match strandCtx s t with
  | some c =>
    if uncut (s.part k) c then
      imageStrand s k r fun t => { t with st := .exited, core := none, saved := none, wait := none,
                                          leaving := (stageOut l r.stage).toList }
    else s
  | none => s

/-- Stores still held behind one that was never acknowledged are never performed (R268). -/
def dropBehind (s : State) (k : Nat) (r : SRef) : State :=
  { s with heldStores := s.heldStores.filter fun h => !(h.behind.isSome && h.by k (some r) h.core) }

/-- A strand becomes EXITED (R37, R39): its core is freed, its engine entries of a stopped strand go, its other
copies go on, and it leaves the ring it produces into. -/
def exitStrand (s : State) (k : Nat) (r : SRef) : State :=
  match findLaunch s k r.launch with
  | none => s
  | some l =>
    match findStrand l r.stage r.idx with
    | none => s
    | some t =>
      let s := noteExit s k r l t
      let s := dropBehind s k r
      let s := match t.core with
        | some n => (s.freeHelpers n).mapCoreAt n Core.idle
        | none => s
      let s := s.mapStrand k r fun t =>
        { t with st := .exited, core := none, saved := none, wait := none, slot := none,
                 leaving := (stageOut l r.stage).toList }
      leaveRings s k r

/-- A launch that is not to run, or whose record is dropped, completes with CANCELLED and its other flags kept (R44,
R45, R290); ring producers it added leave (R295). -/
def completeCancelled (s : State) (k serial : Nat) : State :=
  match findLaunch s k serial with
  | none => s
  | some l =>
    let s := match levelAddr s k l.lrec with
      | some a => setCancelled s k a
      | none => s
    let s := l.prods.foldl (fun u p => ringLeaveN u k p.1 p.2) s
    let s := levelFinish s k l.lrec
    let s := if l.evc then launchEvent s k l 0x0001 else s
    s.mapLaunch k serial fun l => { l with st := .done, cancelled := true, prods := [] }

/-- A copy of a core writes its strand's registers or masks, or reads or writes its pocket (R39). -/
def Core.copyHolds (c : Core) : Bool :=
  c.copies.any fun o => o.usesStrand && decide (o.owner = c.strand)

/-- What a cancel does to one strand (R45): RUNNING stops at its next pre-emption point, any other becomes EXITED; a
BLOCKED strand's copies of its own registers and pocket complete first, and a handler that runs for it returns first (R40). -/
def cancelStrand (s : State) (k : Nat) (r : SRef) (t : Strand) : State :=
  match t.st, t.core with
  | .running, some n => s.mapCoreAt n fun c => { c with stop := some .cancel }
  | .exited, _ => s
  | .blocked, some n =>
    if (s.coreAt n).copyHolds || decide ((s.coreAt n).priv ≠ .user) then s.mapCoreAt n fun c => { c with stop := some .cancel } else exitStrand s k r
  | _, _ => exitStrand s k r

/-- What a cancel does to one launch beneath the cancelled level. -/
def cancelLaunch (s : State) (k : Nat) (l : Launch) : State :=
  match l.st with
  | .done => s
  | .held | .released => completeCancelled s k l.serial
  | .admitted =>
    let s := s.mapLaunch k l.serial fun l => { l with cancelled := true }
    l.strands.foldl (fun u t => cancelStrand u k ⟨l.serial, t.stage, t.idx⟩ t) s

/-- The GLOBAL addresses of the records still in a partition's work queues (R287). -/
def queuedRecs (s : State) (k : Nat) : List Nat :=
  if (s.part k).wqbase = 0 then []
  else (upFrom 0 (16384 / s.nparts)).flatMap fun q =>
    match sysAddr s k (wqBlock s k q) with
    | none => []
    | some cb =>
      if wqEna s cb then (upFrom 0 (min (wqUsed s cb) (2 ^ wqLsz s cb))).map fun j => wqRecord s cb (wqHead s cb + j) else []

/-- The level records that those records name (R289). -/
def queuedLevels (s : State) (k : Nat) : List Word :=
  (queuedRecs s k).flatMap fun a => [24, 32, 40, 48].map fun o => BitVec.ofNat 64 (sysLe s k (a + o) 8)

/-- The chains of the records that a launch names, each record first: its own, its graph's and its dependences' (R289). -/
def launchChains (s : State) (k : Nat) (l : Launch) : List (List Word) :=
  [l.lrec, l.grec, l.dep0, l.dep1].map fun v => levelChain s k v levelDepth

/-- Set CANCELLED in every record of a chain below one. -/
def cancelBelow (s : State) (k : Nat) (rec_ : Word) (chain : List Word) : State :=
  if rec_ ∈ chain then
    (chain.takeWhile fun v => decide (v ≠ rec_)).foldl (fun w v => match levelAddr w k v with
      | some b => setCancelled w k b
      | none => w) s
  else s

/-- Cancel the level at a record (R45): CANCELLED on it and on every level beneath, those of completed launches too, and the
stops and drops. A level whose outstanding count is 0 only has CANCELLED set. DESIGN CHOICE (log 119): a record is one that a
launch, or a record still in a work queue, names, or one above such. -/
def cancelLevel (s : State) (k : Nat) (rec_ : Word) : State :=
  match levelAddr s k rec_ with
  | none => s
  | some a =>
    let out := levelOut s a
    let s := setCancelled s k a
    if out = 0 then s
    else
      let s := (queuedLevels s k).foldl (fun u v => cancelBelow u k rec_ (levelChain u k v levelDepth)) s
      (s.part k).launches.foldl (fun (u : State) l =>
        let chains := launchChains u k l
        let u := chains.foldl (fun w c => cancelBelow w k rec_ c) u
        if rec_ ∈ levelChain u k l.lrec levelDepth ∧ l.st ≠ .done then cancelLaunch u k l else u) s

/-- Level records a partition's launches name, with every level above them: where a store of CANCELLED acts as a
cancel (R332). -/
def knownLevels (s : State) (k : Nat) : List Word :=
  (s.part k).launches.flatMap fun l => (launchChains s k l).flatten

/-- An agent's stores that have changed bit 62 of a known level record of a partition from 0 to 1 act as `lvlcancel`
(R332): `s` is the state after them. -/
def cancelHook (before s : State) (k : Nat) : State :=
  (knownLevels before k).foldl (fun u v => match levelAddr before k v with
    | some b => if !levelCancelled before b && levelCancelled s b then cancelLevel u k v else u
    | none => u) s

/-! ## Covering (R315, R316) -/

/-- The WS pre-empts a RUNNING strand that its core no longer covers (R316). -/
def dropUncovered (s : State) (n : Nat) : State :=
  let c := s.coreAt n
  let running := match c.strand with
    | some r => ((findLaunch s (s.partOfCore n) r.launch).bind fun l => findStrand l r.stage r.idx).any fun t => decide (t.st = .running)
    | none => false
  if running && c.stop.isNone && !covers s n c.ctx.usemask then s.mapCoreAt n fun c => { c with stop := some .preempt } else s

/-- A class has been fenced on a core (R315, R334): it is counted, ASSAY_NOTICE is pending, event 0x0010 goes to the host. -/
def fenceNotice (s : State) (n cls : Nat) : State :=
  let k := s.partOfCore n
  let s := bump (s.mapCoreAt n fun c => { c with mipSoft := putBit c.mipSoft 17 true }) k ctrAsFence 1
  raiseEvent s k 0 0x0010 (BitVec.ofNat 64 (cls * 2 ^ 32) + coreidOf s n) 0

/-- A core's `assaycap` follows its CAP (R314); a class that leaves it is fenced (R315). -/
def setCap (s : State) (n : Nat) (cap : BitVec 32) : State :=
  let old := (s.coreAt n).assaycap
  let t := s.mapCoreAt n fun c => { c with assaycap := cap &&& 0x7FFFFFFF }
  let gone := (upFrom 0 31).filter fun i => old.getLsbD i && !cap.getLsbD i
  dropUncovered (gone.foldl (fun (u : State) i => fenceNotice u n i) t) n

/-- The CAP word of a core's capability record: where it lies, and what memory holds. -/
def capWord (s : State) (k n : Nat) : Option (Nat × Nat) :=
  ((capRecord s k n).bind fun v => sysAddr s k v).map fun a => (a, getLe s.mem a 4)

/-- Stores that have changed CAP words take effect on their cores (R315): `s` is the state after them. A record that they have
moved to another frame is no store of CAP. -/
def capHook (before s : State) (k : Nat) : State :=
  if (before.part k).caplist = 0 then s
  else (upFrom 0 256).foldl (fun (t : State) n =>
    match capWord before k n, capWord s k n with
    | some a, some b => if a.1 ≠ b.1 ∨ a = b then t else setCap t n (BitVec.ofNat 32 b.2)
    | some _, none => t
    | none, _ => t) s

/-- Stores that reach no level record take effect on the CAP words they change, in whatever partition: those of a committed
escrow iteration, which the Commons defers (R200). -/
def capsHook (before s : State) : State :=
  if s.mem = before.mem then s else (upFrom 0 before.nparts).foldl (fun u k => capHook before u k) s

/-- What an agent's stores do besides writing memory, in whatever partition they land: level records they cancel, and CAP
words they change. -/
def levelHook (before s : State) : State :=
  (upFrom 0 before.nparts).foldl (fun u k => capHook before (cancelHook before u k) k) s

/-- Follow a computation's stores with the cancels they make, also where it ends early. -/
def withLevels (m : M Unit) : M Unit :=
  ExceptT.mk fun s => ((m.run s).1, levelHook s (m.run s).2)

/-- LEVEL_CANCEL_STORE (R332): an agent stores a level record's counter word. -/
def execLevelCancelStore (addr val : Word) (s : State) : Host.Outcome State Fault Refusal :=
  match levelAddr s s.pidx addr with
  | none => .next s
  | some a =>
    let was := levelCancelled s a
    let t := sysPut s s.pidx a 8 val.toNat
    .next (if !was && val.getLsbD 62 then cancelLevel t s.pidx addr else t)

/-- RING_PRODUCER_LEAVE (R296): exited strands whose last `cring` into the ring has completed leave PROD. -/
def execRingProducerLeave (k : Nat) (ring : Word) (s : State) : Host.Outcome State Fault Refusal :=
  let refs := (s.part k).launches.flatMap fun l => (l.strands.filter fun t =>
    decide (t.st = .exited) && t.leaving.contains ring).map fun t => (⟨l.serial, t.stage, t.idx⟩ : SRef)
  .next (refs.foldl (fun u r => leaveRings u k r) s)

end Sys2Proof.Machine
end

