-- ==== Sys2Proof/Machine/Batch.lean ====
section
/-! DEFINITION. The writes that one vector instruction, copy or command makes: its bytes into one granule form one
granule write (R219), poison that a copy or command carries on (R218, R249), and the level records they cancel
(R332). -/

namespace Sys2Proof.Machine

/-- One element's write: where, the bytes, whether they carry poison, and whether it writes its bytes whole (an HX4
store of one nibble keeps the other, R221). -/
structure ElemWrite where
  loc : Loc
  bytes : List Byte
  poison : Bool := false
  whole : Bool := true
  deriving DecidableEq, Repr

/-- The granule key of a location's first byte: pocket granules are keyed by core. -/
def locKey (core : Nat) (l : Loc) : Option Nat :=
  match l with
  | .phys a _ _ => some a
  | .pocket o => some (pocketKey core o)
  | .peer _ _ => none

/-- The run of a write, for its granules. -/
def ElemWrite.run (core : Nat) (w : ElemWrite) : List RunWrite :=
  match locKey core w.loc with
  | some k => [⟨k, w.bytes.length, w.whole, w.poison⟩]
  | none => []

/-- The runs of a batch; a counter block takes none (R333). -/
def writeRuns (s : State) (core : Nat) (ws : List ElemWrite) : List RunWrite :=
  (ws.flatMap fun w => w.run core).filter fun r => !inCounterBlock s r.key

/-- The granule writes of runs (R219): every granule that has a condition and is written, by how many of its bytes are written
whole. A granule that a poisoned run reaches was poisoned as that run was made (R218), and one in which a store that `held`
selects is still held waits for it. -/
def granuleBatch (s : State) (held : Held → Bool) (ws : List RunWrite) : State :=
  s.ecc.foldl (fun t g =>
    let bytes := upFrom g.1 (granuleBytes g.1)
    if (bytes.any fun a => ws.any fun w => w.reaches a) && !(bytes.any fun a => ws.any fun w => w.bad && w.reaches a)
        && !(s.heldStores.any fun h => held h && h.cover.any fun c => decide (c.1 = g.1)) then
      granuleWrite t g.1 (coveredBytes ws g.1)
    else t) s

/-- The stores of an instruction that are still held learn the granule writes it makes, which the last of them makes. -/
def coverHeld (s : State) (held : Held → Bool) (ws : List RunWrite) : State :=
  if s.heldStores.any held then
    let cs := granulesCovered ws
    { s with heldStores := s.heldStores.map fun h =>
        if held h then
          { h with cover := match locKeyOf h.loc with
            | some a => cs.filter fun c => decide (c.1 < a + h.bytes.length) && decide (a < c.1 + granuleBytes c.1)
            | none => [] }
        else h }
  else s

/-- An instruction's stores have all been made, some of them perhaps held: its granule writes (R219). -/
def closeGranules (s : State) (held : Held → Bool) (ws : List RunWrite) : State :=
  let t := coverHeld s held ws
  granuleBatch t held ws

/-- Poison the granules that a write's poisoned bytes reach, counting those that were not (R333). -/
def poisonRun (s : State) (a n : Nat) : State :=
  (granulesOf a n).foldl (fun t g =>
    if inCounterBlock t g || decide (eccAt t g = some .poisoned) then t
    else bumpEcc (setEcc t g (some .poisoned)) g ctrUncorr) s

/-- Perform one element's write, apart from its granules. A counter block takes neither bytes nor poison (R333). -/
def elemWrite (s : State) (o : Issuer) (by_ : Writer) (core : Nat) (w : ElemWrite) : State :=
  let s := match w.loc with
    | .phys a _ page => physBytes s o.part (newColour s o.part o.colour) by_ page a w.bytes
    | .pocket o => breakResv (pocketBytesTo s o w.bytes) by_.core (pocketKey core o) w.bytes.length
    | .peer chip va => sendStore s o chip va w.bytes
  if w.poison then match locKey core w.loc with
    | some a => if inCounterBlock s a then s else poisonRun s a w.bytes.length
    | none => s
  else s

/-- Perform a batch of writes in order, with the cancels they make. -/
def performWrites (s : State) (o : Issuer) (by_ : Writer) (core : Nat) (ws : List ElemWrite) : State :=
  let t := ws.foldl (fun u w => elemWrite u o by_ core w) s
  levelHook s (granuleBatch t (fun _ => false) (writeRuns s core ws))

/-- A location in a device-port range. -/
def locPort (l : Loc) : Option Nat :=
  match l with
  | .phys a _ _ => if isPort a then some a else none
  | .pocket _ | .peer _ _ => none

end Sys2Proof.Machine
end

