-- ==== Sys2Proof/Machine/Flags.lean ====
section
/-! DEFINITION. The exception flags (R70) and the integer results that set them (R57, Table 3.3). -/

namespace Sys2Proof.Machine

/-- A set of exception flags, in the bit order of `vxflags` (R70). -/
abbrev Flags := BitVec 6

def flNX : Flags := 1
def flUF : Flags := 2
def flOF : Flags := 4
def flDZ : Flags := 8
def flNV : Flags := 16
def flIO : Flags := 32

/-- A flag when a condition holds. -/
def flagIf (b : Bool) (f : Flags) : Flags := if b then f else 0

/-- Merge flags into a context's `vxflags`: the hardware only sets them (R70). -/
def Ctx.addFlags (c : Ctx) (f : Flags) : Ctx :=
  { c with u := { c.u with vxflags := c.u.vxflags ||| f.setWidth 64 } }

/-- An integer type: its width and whether it is signed (Table 3.1). -/
structure IntTy where
  w : Nat
  signed : Bool
  deriving DecidableEq, Repr

/-- The value of w bits in an integer type. -/
def IntTy.val (t : IntTy) (bits : Nat) : Int :=
  let b := bits % 2 ^ t.w
  if t.signed && decide (2 ^ (t.w - 1) ≤ b) then (b : Int) - 2 ^ t.w else b

/-- The least and greatest values of an integer type. -/
def IntTy.min (t : IntTy) : Int := if t.signed then -(2 ^ (t.w - 1)) else 0
def IntTy.max (t : IntTy) : Int := if t.signed then 2 ^ (t.w - 1) - 1 else 2 ^ t.w - 1

/-- A value in the range of a type. -/
def IntTy.fits (t : IntTy) (x : Int) : Bool := decide (t.min ≤ x) && decide (x ≤ t.max)

/-- The bits of an integer modulo 2^w. -/
def IntTy.bits (t : IntTy) (x : Int) : Nat := (x % 2 ^ t.w).toNat

/-- The wrapped bits, with IO outside the range (Table 3.3). -/
def IntTy.wrap (t : IntTy) (x : Int) : Nat × Flags := (t.bits x, flagIf (!t.fits x) flIO)

/-- The saturated bits, with IO outside the range (R69). -/
def IntTy.sat (t : IntTy) (x : Int) : Nat × Flags :=
  (t.bits (if x < t.min then t.min else if t.max < x then t.max else x), flagIf (!t.fits x) flIO)

/-- Integer division (Table 3.3): by zero all ones with DZ; the most negative by −1 gives itself with IO. -/
def IntTy.div (t : IntTy) (a b : Int) : Nat × Flags :=
  if b = 0 then (2 ^ t.w - 1, flDZ)
  else (t.bits (a.tdiv b), flagIf (t.signed && decide (a = t.min) && decide (b = -1)) flIO)

/-- Count the leading zero bits of w bits. -/
def clzBits (w bits : Nat) : Nat := if bits = 0 then w else w - 1 - bits.log2

/-- Count the set bits of w bits. -/
def popBits : Nat → Nat → Nat
  | 0, _ => 0
  | w + 1, bits => bits % 2 + popBits w (bits / 2)

end Sys2Proof.Machine
end

