-- ==== Sys2Proof/Machine/Float.lean ====
section
/-! DEFINITION. Float numbers (spec/03): exact values, the formats of Table 3.1, rounding in every mode with the
overflow and conversion rules (R53 to R58, R66 to R71), exact arithmetic, HX4 values (R59, R60) and the special
functions (R78, R79). -/

namespace Sys2Proof.Machine

/-- An exact float value: NaN, an infinity, or (−1)^neg × m × 2^e. -/
inductive FVal where
  | nan
  | inf (neg : Bool)
  | fin (neg : Bool) (m : Nat) (e : Int)
  deriving DecidableEq, Repr

/-- A float format s-e-m (R52). E4M3 has no infinity. -/
structure FFmt where
  ebits : Nat
  mbits : Nat
  bias : Int
  hasInf : Bool
  maxBits : Nat
  nanBits : Nat
  deriving DecidableEq, Repr

def fp32 : FFmt := ⟨8, 23, 127, true, 0x7F7FFFFF, 0x7FC00000⟩
def bf16 : FFmt := ⟨8, 7, 127, true, 0x7F7F, 0x7FC0⟩
def fp16 : FFmt := ⟨5, 10, 15, true, 0x7BFF, 0x7E00⟩
def e4m3 : FFmt := ⟨4, 3, 7, false, 0x7E, 0x7F⟩
def e5m2 : FFmt := ⟨5, 2, 15, true, 0x7B, 0x7E⟩

/-- Width of a format in bits. -/
def FFmt.width (f : FFmt) : Nat := 1 + f.ebits + f.mbits

/-- Exponent of the quantum of the subnormals. -/
def FFmt.qmin (f : FFmt) : Int := 1 - f.bias - f.mbits

/-- 2^n for an integer exponent of a shift that is known not to be negative. -/
def shiftUp (m : Nat) (n : Int) : Nat := m * 2 ^ n.toNat

/-- Decode a format's bits (R52, R53). -/
def FFmt.decode (f : FFmt) (bits : Nat) : FVal :=
  let frac := bits % 2 ^ f.mbits
  let ex := bits / 2 ^ f.mbits % 2 ^ f.ebits
  let neg := decide (bits / 2 ^ (f.mbits + f.ebits) % 2 = 1)
  if ex = 2 ^ f.ebits - 1 ∧ f.hasInf then if frac = 0 then .inf neg else .nan
  else if ¬f.hasInf ∧ ex = 2 ^ f.ebits - 1 ∧ frac = 2 ^ f.mbits - 1 then .nan
  else if ex = 0 then .fin neg frac f.qmin
  else .fin neg (2 ^ f.mbits + frac) (f.qmin + (ex - 1))

/-- Sign bit of a format. -/
def FFmt.signBit (f : FFmt) (neg : Bool) : Nat := if neg then 2 ^ (f.mbits + f.ebits) else 0

/-- Encode a magnitude n × 2^q with n < 2^(mbits + 1) and q ≥ qmin that the format represents; n is normal, or q is
qmin. -/
def FFmt.encodeMag (f : FFmt) (n : Nat) (q : Int) : Nat :=
  if n < 2 ^ f.mbits then n else n - 2 ^ f.mbits + ((q - f.qmin).toNat + 1) * 2 ^ f.mbits

/-- The largest finite magnitude as a value. -/
def FFmt.maxVal (f : FFmt) : FVal := f.decode f.maxBits

/-! ## Exact values -/

/-- The signed integer of a finite value in units of 2^e0, with e0 not above its exponent. -/
def scaledInt (neg : Bool) (m : Nat) (e e0 : Int) : Int :=
  let n : Int := shiftUp m (e - e0)
  if neg then -n else n

/-- The exact value of a signed integer in units of 2^e, with a sign for zero. -/
def ofScaled (n : Int) (e : Int) (zeroNeg : Bool) : FVal :=
  if n = 0 then .fin zeroNeg 0 0 else .fin (decide (n < 0)) n.natAbs e

def FVal.negate : FVal → FVal
  | .nan => .nan
  | .inf s => .inf !s
  | .fin s m e => .fin (!s) m e

def FVal.abs : FVal → FVal
  | .nan => .nan
  | .inf _ => .inf false
  | .fin _ m e => .fin false m e

def FVal.isNan : FVal → Bool
  | .nan => true
  | .inf _ | .fin _ _ _ => false

def FVal.isZero : FVal → Bool
  | .fin _ 0 _ => true
  | .fin _ (_ + 1) _ | .nan | .inf _ => false

def FVal.isInf : FVal → Bool
  | .inf _ => true
  | .nan | .fin _ _ _ => false

def FVal.neg? : FVal → Bool
  | .nan => false
  | .inf s | .fin s _ _ => s

/-- Three-way order of two values that are not NaN: −0 and +0 are equal. -/
def fcmp (a b : FVal) : Ordering :=
  match a, b with
  | .inf s, .inf t => if s = t then .eq else if s then .lt else .gt
  | .inf s, _ => if s then .lt else .gt
  | _, .inf t => if t then .gt else .lt
  | .fin s m e, .fin t n d =>
    let e0 := min e d
    compare (scaledInt s m e e0) (scaledInt t n d e0)
  | .nan, _ => .eq
  | _, .nan => .eq

def flt (a b : FVal) : Bool := !a.isNan && !b.isNan && fcmp a b == .lt
def feq (a b : FVal) : Bool := !a.isNan && !b.isNan && fcmp a b == .eq

/-- An exact multiple by a power of two. -/
def FVal.scale (a : FVal) (k : Int) : FVal :=
  match a with
  | .fin s m e => .fin s m (e + k)
  | .nan | .inf _ => a

/-- The exact value of an integer. -/
def FVal.ofInt (x : Int) : FVal := ofScaled x 0 false

/-! ## Rounding (R66 to R71) -/

/-- The rounding modes of `vxctl`.RM. -/
inductive RMode where
  | rne | rtz | rdn | rup | rmm | sr
  deriving DecidableEq, Repr

/-- The mode a value of RM selects. -/
def rmodeOf (vxctl : Word) : RMode :=
  match (vxctl.extractLsb' 0 3).toNat with
  | 1 => .rtz
  | 2 => .rdn
  | 3 => .rup
  | 4 => .rmm
  | 5 => .sr
  | _ => .rne

/-- A rounding: the mode, and under SR the number k of random bits and the bits r (R71). -/
structure Rnd where
  mode : RMode
  k : Nat
  r : Nat
  deriving DecidableEq, Repr

def rnE : Rnd := ⟨.rne, 0, 0⟩

/-- Whether to take the larger of two adjacent magnitudes n and n + 1, for a magnitude of n + (rem / 2^d), with
`more` set when a further non-zero part below `rem` was dropped. -/
def roundUp (rd : Rnd) (neg : Bool) (n rem d : Nat) (more : Bool) : Bool :=
  let inexact := decide (rem ≠ 0) || more
  match rd.mode with
  | .rne => decide (0 < d) && (decide (2 ^ d < 2 * rem) || (decide (2 * rem = 2 ^ d) && (more || n % 2 == 1)))
  | .rmm => decide (0 < d) && decide (2 ^ d ≤ 2 * rem)
  | .rtz => false
  | .rdn => neg && inexact
  | .rup => !neg && inexact
  | .sr =>
    if d ≤ rd.k then decide (2 ^ d ≤ rd.r / 2 ^ (rd.k - d) + rem)
    else decide (2 ^ rd.k ≤ rem / 2 ^ (d - rd.k) + rd.r)

/-- A magnitude m × 2^e rounded to a multiple of 2^q: the multiple, and whether it is inexact. -/
def roundQuantum (rd : Rnd) (neg : Bool) (m : Nat) (e q : Int) (more : Bool) : Nat × Bool :=
  if e < q then
    let d := (q - e).toNat
    let n := m / 2 ^ d
    let rem := m % 2 ^ d
    (if roundUp rd neg n rem d more then n + 1 else n, decide (rem ≠ 0) || more)
  else
    let n := shiftUp m (e - q)
    (if roundUp rd neg n 0 0 more then n + 1 else n, more)

/-- The bits of an infinite result: E4M3 has none and takes its NaN (Table 3.5, R69). -/
def FFmt.infBits (f : FFmt) (neg : Bool) : Nat :=
  if f.hasInf then f.signBit neg + (2 ^ f.ebits - 1) * 2 ^ f.mbits else f.nanBits

def FFmt.maxOf (f : FFmt) (neg : Bool) : Nat := f.signBit neg + f.maxBits

/-- Table 3.5. -/
def FFmt.overflow (f : FFmt) (rd : Rnd) (neg sat : Bool) : Nat :=
  if sat then f.maxOf neg
  else match rd.mode with
    | .rne | .rmm | .sr => f.infBits neg
    | .rtz => f.maxOf neg
    | .rdn => if neg then f.infBits true else f.maxOf false
    | .rup => if neg then f.maxOf true else f.infBits false

/-- Round an exact value (with a dropped non-zero tail when `more`) into a format (R53, R54, R68, R69): its bits and
flags. `sat` is `vcvt.sat`'s column. -/
def FFmt.round (f : FFmt) (rd : Rnd) (sat : Bool) (v : FVal) (more : Bool) : Nat × Flags :=
  match v with
  | .nan => (f.nanBits, 0)
  | .inf s =>
    if sat then (f.maxOf s, flOF ||| flNX)
    else if f.hasInf then (f.infBits s, 0)
    else (f.nanBits, flNV)
  | .fin s m e =>
    if m = 0 && !more then (f.signBit s, 0)
    else
      let q := max f.qmin (e + m.log2 - f.mbits)
      let (n0, inexact) := roundQuantum rd s m e q more
      let (n, q) := if n0 = 2 ^ (f.mbits + 1) then (2 ^ f.mbits, q + 1) else (n0, q)
      let nx := flagIf inexact flNX
      if fcmp f.maxVal (.fin false n q) = .lt then (f.overflow rd s sat, flOF ||| flNX)
      else
        let uf := flagIf (inexact && decide (0 < n) && decide (n < 2 ^ f.mbits)) flUF
        (f.signBit s + f.encodeMag n q, nx ||| uf)

/-- Round in RNE without saturation. -/
def FFmt.rne (f : FFmt) (v : FVal) : Nat × Flags := f.round rnE false v false

/-- Convert a float value to an integer type (R69): out of range saturates with NV, NaN gives 0 with NV; an inexact
result in range sets NX. -/
def IntTy.ofFloat (t : IntTy) (rd : Rnd) (v : FVal) : Nat × Flags :=
  match v with
  | .nan => (0, flNV)
  | .inf s => (t.bits (if s then t.min else t.max), flNV)
  | .fin s m e =>
    let (n, inexact) := roundQuantum rd s m e 0 false
    let x : Int := if s then -n else n
    if t.fits x then (t.bits x, flagIf inexact flNX)
    else (t.bits (if x < t.min then t.min else t.max), flNV)

/-- Round to an integral value, keeping the sign of a zero result (Table 7.1). -/
def roundIntegral (rd : Rnd) (v : FVal) : FVal × Flags :=
  match v with
  | .nan => (.nan, 0)
  | .inf s => (.inf s, 0)
  | .fin s m e =>
    let (n, inexact) := roundQuantum rd s m e 0 false
    (.fin s n 0, flagIf inexact flNX)

/-! ## Exact arithmetic -/

/-- Exact sum; a zero from operands of opposite sign is +0, −0 in RDN (R70). -/
def fadd (mode : RMode) (a b : FVal) : FVal × Flags :=
  match a, b with
  | .nan, _ => (.nan, 0)
  | _, .nan => (.nan, 0)
  | .inf s, .inf t => if s = t then (.inf s, 0) else (.nan, flNV)
  | .inf s, .fin _ _ _ => (.inf s, 0)
  | .fin _ _ _, .inf t => (.inf t, 0)
  | .fin s m e, .fin t n d =>
    let e0 := min e d
    let z := if m = 0 ∧ n = 0 ∧ s = t then s else decide (mode = .rdn)
    (ofScaled (scaledInt s m e e0 + scaledInt t n d e0) e0 z, 0)

/-- Exact product. -/
def fmul (a b : FVal) : FVal × Flags :=
  match a, b with
  | .nan, _ => (.nan, 0)
  | _, .nan => (.nan, 0)
  | .inf s, .inf t => (.inf (s != t), 0)
  | .inf s, .fin t n _ => if n = 0 then (.nan, flNV) else (.inf (s != t), 0)
  | .fin s m _, .inf t => if m = 0 then (.nan, flNV) else (.inf (s != t), 0)
  | .fin s m e, .fin t n d => (.fin (s != t) (m * n) (if m * n = 0 then 0 else e + d), 0)

/-- Exact fused d + a × b (R67). -/
def ffma (mode : RMode) (d a b : FVal) : FVal × Flags :=
  let p := fmul a b
  if d.isNan then (.nan, p.2)
  else
    let r := fadd mode d p.1
    (r.1, p.2 ||| r.2)

/-- Bits of quotient and root kept below the leading bit. -/
def guardBits : Nat := 128

/-- A quotient with its dropped tail (R130). -/
def fdiv (a b : FVal) : FVal × Bool × Flags :=
  match a, b with
  | .nan, _ => (.nan, false, 0)
  | _, .nan => (.nan, false, 0)
  | .inf _, .inf _ => (.nan, false, flNV)
  | .inf s, .fin t _ _ => (.inf (s != t), false, 0)
  | .fin s _ _, .inf t => (.fin (s != t) 0 0, false, 0)
  | .fin s m e, .fin t n d =>
    if n = 0 then if m = 0 then (.nan, false, flNV) else (.inf (s != t), false, flDZ)
    else if m = 0 then (.fin (s != t) 0 0, false, 0)
    else
      let k := guardBits + n.log2
      (.fin (s != t) (m * 2 ^ k / n) (e - d - k), decide (m * 2 ^ k % n ≠ 0), 0)

/-- The integer square root of n, bit by bit from bit k − 1 down. -/
def isqrt (n : Nat) : Nat → Nat → Nat
  | 0, r => r
  | k + 1, r => if (r + 2 ^ k) * (r + 2 ^ k) ≤ n then isqrt n k (r + 2 ^ k) else isqrt n k r

/-- A square root with its dropped tail (Table 3.8). -/
def fsqrt (a : FVal) : FVal × Bool × Flags :=
  match a with
  | .nan => (.nan, false, 0)
  | .inf s => if s then (.nan, false, flNV) else (.inf false, false, 0)
  | .fin s m e =>
    if m = 0 then (.fin s 0 0, false, 0)
    else if s then (.nan, false, flNV)
    else
      let k := 2 * guardBits + (e % 2).toNat
      let n := m * 2 ^ k
      let r := isqrt n (n.log2 / 2 + 1) 0
      (.fin false r ((e - k) / 2), decide (r * r ≠ n), 0)

/-- The selected operand of a float minimum: −0 below +0 (R130). -/
def fminSel (a b : FVal) : FVal :=
  match fcmp a b with
  | .lt => a
  | .gt => b
  | .eq => if a.neg? then a else b

/-- The selected operand of a float maximum. -/
def fmaxSel (a b : FVal) : FVal :=
  match fcmp a b with
  | .gt => a
  | .lt => b
  | .eq => if a.neg? then b else a

/-! ## HX4 (R55, R56, R59, R60) -/

/-- The magnitude of an E2M1 code in halves (Table 3.2). -/
def e2m1Half : Nat → Nat
  | 0 => 0
  | 1 => 1
  | 2 => 2
  | 3 => 3
  | 4 => 4
  | 5 => 6
  | 6 => 8
  | _ => 12

/-- The value of an HX4 code in a block with an entry (Table 3.4). -/
def hx4Val (entry code : Nat) : FVal :=
  let x := entry % 256
  let k : Int := x - 127
  if x = 255 then .nan
  else if code % 16 = 8 then
    match (e4m3.decode (entry / 256 % 256)).scale k with
    | .fin s m e => if m = 0 then .fin false 0 0 else .fin s m e
    | .nan => .nan
    | .inf s => .inf s
  else
    let m := e2m1Half (code % 8)
    if m = 0 then .fin false 0 0 else .fin (decide (8 ≤ code % 16)) m (k - 1)

/-! ## Special functions (R78, R79) -/

/-- Fixed-point scale of the evaluation: 640 bits. -/
def fxBits : Nat := 640
def fxOne : Int := 2 ^ fxBits

/-- A fixed-point product. -/
def fxMul (a b : Int) : Int := a * b / 2 ^ fxBits

/-- Σ x^n / n! over n terms, by Horner's rule from the last term. -/
def fxExp (x : Int) : Nat → Nat → Int
  | 0, _ => fxOne
  | n + 1, k => fxOne + fxMul x (fxExp x n (k + 1)) / (k + 1 : Int)

/-- Σ (−1)^n x^2n / (…): the tail of sine (k = 1) or cosine (k = 0), by Horner's rule. -/
def fxTrig (x2 : Int) : Nat → Nat → Int
  | 0, _ => fxOne
  | n + 1, k => fxOne - fxMul x2 (fxTrig x2 n (k + 2)) / ((k + 1) * (k + 2) : Int)

/-- Σ z^2n / (2n + 1) over n terms. -/
def fxAtanh (z2 : Int) : Nat → Nat → Int
  | 0, k => fxOne / (2 * k + 1 : Int)
  | n + 1, k => fxOne / (2 * k + 1 : Int) + fxMul z2 (fxAtanh z2 n (k + 1))

/-- ln of y/2^640 for y in [1, 2), as 2 atanh((y − 1)/(y + 1)). -/
def fxLn (y : Int) : Int :=
  let z := (y - fxOne) * 2 ^ fxBits / (y + fxOne)
  2 * fxMul z (fxAtanh (fxMul z z) 210 0)

/-- ln 2. -/
def fxLn2 : Int := fxLn (2 * fxOne - 1)

/-- π, 704 bits below the point. -/
def piFix : Int :=
  0x3243f6a8885a308d313198a2e03707344a4093822299f31d0082efa98ec4e6c89452821e638d01377be5466cf34e90c6cc0ac29b7c97c50dd3f84d5b5b54709179216d5d98979fb1bd1310ba698dfb5ac2ffd72dbd01adfb7

/-- A finite value in fixed point, bits below 2^−640 dropped. -/
def fxOf (s : Bool) (m : Nat) (e : Int) : Int :=
  let n : Int := if e + fxBits < 0 then m / 2 ^ (-(e + fxBits)).toNat else shiftUp m (e + fxBits)
  if s then -n else n

/-- An evaluation of a special function: exact, or strictly between m × 2^e and (m + 1) × 2^e in magnitude. -/
structure Approx where
  neg : Bool
  m : Nat
  e : Int
  more : Bool
  deriving DecidableEq, Repr

/-- 2^x for a fixed-point x: the magnitude in [2^640, 2^641) and its exponent. -/
def exp2Approx (x : Int) : Nat × Int :=
  let n := x / 2 ^ fxBits
  let f := x % 2 ^ fxBits
  ((fxExp (fxMul f fxLn2) 140 0).toNat, n - fxBits)

/-- e^x for a fixed-point x. -/
def expApprox (x : Int) : Nat × Int := exp2Approx (x * 2 ^ fxBits / fxLn2)

/-- log2 x for m × 2^e, m ≠ 0. -/
def log2Approx (m : Nat) (e : Int) : Approx :=
  let k := m.log2
  let y : Int := m * 2 ^ fxBits / 2 ^ k
  let v := (e + k) * fxOne + fxLn y * 2 ^ fxBits / fxLn2
  ⟨decide (v < 0), v.natAbs, -fxBits, true⟩

/-- sin x, or cos x, by the quadrant of x against π/2. -/
def trigApprox (cos : Bool) (x : Int) : Approx :=
  let x64 := x * 2 ^ 64
  let k := (4 * x64 + piFix) / (2 * piFix)
  let r := (x64 - k * piFix / 2) / 2 ^ 64
  let quad := ((k + if cos then 1 else 0) % 4).toNat
  let r2 := fxMul r r
  let v := if quad % 2 = 0 then fxMul r (fxTrig r2 80 1) else fxTrig r2 80 0
  let v := if 2 ≤ quad then -v else v
  ⟨decide (v < 0), v.natAbs, -fxBits, true⟩

/-- tanh x from e^2x; past |x| = 200 the magnitude is just below 1. -/
def tanhApprox (x : Int) : Approx :=
  let a : Int := x.natAbs
  if 200 * fxOne ≤ a then ⟨decide (x < 0), 2 ^ fxBits - 1, -fxBits, true⟩
  else
    let (m, e) := expApprox (2 * a)
    let en : Int := shiftUp m (e + fxBits)
    let v := (en - fxOne) * 2 ^ fxBits / (en + fxOne)
    ⟨decide (x < 0), v.natAbs, -fxBits, true⟩

/-- 1/(1 + e^−x) from e^x; past 400 it is just below 1, below −400 it follows e^x. -/
def sigmApprox (x : Int) : Approx :=
  if 400 * fxOne ≤ x then ⟨false, 2 ^ fxBits - 1, -fxBits, true⟩
  else
    let x := max x (-600 * fxOne)
    let (m, e) := expApprox x
    if x ≤ -400 * fxOne then ⟨false, m, e, true⟩
    else
      let k := (-e).toNat
      ⟨false, m * 2 ^ fxBits / (m + 2 ^ k), -fxBits, true⟩

/-- The special functions of Table 3.7 that meet an error bound. -/
inductive SFun where
  | rcp | rsqrt | exp2 | log2 | tanh | sigm | sin | cos
  deriving DecidableEq, Repr

/-- The bound in FP32 ulps (Table 3.7). -/
def SFun.bound : SFun → Nat
  | .rcp | .rsqrt | .exp2 | .log2 => 1
  | .tanh | .sigm | .sin | .cos => 2

/-- An FP32 result within a bound of an evaluation: the choice among the results allowed is free (log 6). Below the power
of two that the exact result has passed, results are spaced by half an ulp of it. UF needs a result below the smallest
normal value (R54). -/
def pickWithin (n : Nat) (a : Approx) (choice : Nat) : FVal × Flags :=
  let q := max fp32.qmin (a.e + a.m.log2 - 23)
  let d := (q - a.e).toNat
  let lo : Int := if a.e < q then a.m / 2 ^ d else shiftUp a.m (a.e - q)
  let exact := !a.more && (decide (q ≤ a.e) || decide (a.m % 2 ^ d = 0))
  let first := (if exact then lo else lo + 1) - n
  let span : Nat := if exact then 2 * n + 1 else 2 * n
  let low := !exact && decide (0 < d) && decide (a.m % 2 ^ d < 2 ^ (d - 1))
  let half : Int := 2 * first - (if low then 1 else 0)
  let halves := ((upFrom 0 (4 * n + 2)).map fun i => half + (i : Int)).filter fun h =>
    decide (q ≠ fp32.qmin) && decide (h % 2 = 1) && decide (h < 2 ^ 24)
  let k := choice % (span + halves.length)
  let c := first + (k : Int)
  let v := match halves[k - span]? with
    | some h => if span ≤ k then ofScaled (if a.neg then -h else h) (q - 1) a.neg else ofScaled (if a.neg then -c else c) q a.neg
    | none => ofScaled (if a.neg then -c else c) q a.neg
  let r := fp32.round rnE false v false
  let nx := flagIf (!(exact && decide (k < span) && decide (c = lo))) flNX
  let uf := flagIf (nx != 0 && decide (q = fp32.qmin) && decide (c ≠ 0) && decide (c.natAbs < 2 ^ 23)) flUF
  (fp32.decode r.1, r.2 ||| nx ||| uf)

/-- A special function's FP32 result and flags (Tables 3.7 and 3.8). -/
def SFun.eval (f : SFun) (a : FVal) (choice : Nat) : FVal × Flags :=
  match f, a with
  | _, .nan => (.nan, 0)
  | .rcp, .inf s => (.fin s 0 0, 0)
  | .rsqrt, .inf s => if s then (.nan, flNV) else (.fin false 0 0, 0)
  | .exp2, .inf s => if s then (.fin false 0 0, 0) else (.inf false, 0)
  | .log2, .inf s => if s then (.nan, flNV) else (.inf false, 0)
  | .tanh, .inf s => (.fin s 1 0, 0)
  | .sigm, .inf s => if s then (.fin false 0 0, 0) else (.fin false 1 0, 0)
  | .sin, .inf _ => (.nan, flNV)
  | .cos, .inf _ => (.nan, flNV)
  | .rcp, .fin s m e =>
    if m = 0 then (.inf s, flDZ)
    else match fdiv (.fin false 1 0) (.fin s m e) with
      | (.fin t n d, more, _) => pickWithin 1 ⟨t, n, d, more⟩ choice
      | (v, _, fl) => (v, fl)
  | .rsqrt, .fin s m e =>
    if m = 0 then (.inf s, flDZ)
    else if s then (.nan, flNV)
    else
      let k := 512 + 2 * m.log2 + (e % 2).toNat
      let n := 2 ^ k / m
      let r := isqrt n (n.log2 / 2 + 1) 0
      pickWithin 1 ⟨false, r, (-e - k) / 2, decide (r * r * m ≠ 2 ^ k)⟩ choice
  | .exp2, .fin s m e =>
    let big := decide (0 < m) && decide (10 ≤ e + m.log2)
    if big then if s then pickWithin 1 ⟨false, 1, -1000, true⟩ choice else (.inf false, flOF ||| flNX)
    else
      let x := fxOf s m e
      if x % 2 ^ fxBits = 0 then
        let r := fp32.rne (.fin false 1 (x / 2 ^ fxBits))
        if r.2 = 0 then (fp32.decode r.1, 0)
        else if 0 ≤ x then (.inf false, flOF ||| flNX)
        else pickWithin 1 ⟨false, 1, x / 2 ^ fxBits, false⟩ choice
      else
        let (n, d) := exp2Approx x
        if 128 * fxOne ≤ x then (.inf false, flOF ||| flNX) else pickWithin 1 ⟨false, n, d, true⟩ choice
  | .log2, .fin s m e =>
    if m = 0 then (.inf true, flDZ)
    else if s then (.nan, flNV)
    else if 2 ^ m.log2 = m then (FVal.ofInt (e + m.log2), 0)
    else pickWithin 1 (log2Approx m e) choice
  | .tanh, .fin s m e => if m = 0 then (.fin s 0 0, 0) else pickWithin 2 (tanhApprox (fxOf s m e)) choice
  | .sigm, .fin s m e => if m = 0 then (.fin false 1 (-1), 0) else pickWithin 2 (sigmApprox (fxOf s m e)) choice
  | .sin, .fin s m e =>
    if m = 0 then (.fin s 0 0, 0)
    else if 24 ≤ e + m.log2 then (.nan, flNV)
    else pickWithin 2 (trigApprox false (fxOf s m e)) choice
  | .cos, .fin s m e =>
    if m = 0 then (.fin false 1 0, 0)
    else if 24 ≤ e + m.log2 then (.nan, flNV)
    else pickWithin 2 (trigApprox true (fxOf s m e)) choice

end Sys2Proof.Machine
end

