-- ==== Sys2Proof/Machine/VReg.lean ====
section
/-! DEFINITION. The vector register file as instructions see it: element types by tag (R52, R106), capacity (R103),
raw elements and their exact values (R59, R125), masks (R109), writes (R127), the stochastic-rounding generators
(R72, R73, R75), and the checks at execution (R120, R281). -/

namespace Sys2Proof.Machine

/-! ## Element types -/

/-- The element type a tag names (Table 3.1). -/
inductive ETy where
  | int (t : IntTy)
  | flt (f : FFmt)
  | hx4
  deriving DecidableEq, Repr

/-- TYPE of a tag. -/
def tagType (t : Byte) : Nat := (t.extractLsb' 0 4).toNat

/-- BL of an HX4 tag, as log2 of the block length less 4 (R59). -/
def tagBl (t : Byte) : Nat := (t.extractLsb' 4 2).toNat

/-- QS of an HX4 tag. -/
def tagQs (t : Byte) : Nat := (t.extractLsb' 6 2).toNat

/-- The type of a tag; none for NONE, the reserved codes, and HX4 with BL = 11 (R52, R59). -/
def etyOf (t : Byte) : Option ETy :=
  match tagType t with
  | 1 => some (.int ⟨8, true⟩)
  | 2 => some (.int ⟨8, false⟩)
  | 3 => some (.int ⟨16, true⟩)
  | 4 => some (.int ⟨16, false⟩)
  | 5 => some (.int ⟨32, true⟩)
  | 6 => some (.int ⟨32, false⟩)
  | 7 => some (.int ⟨64, true⟩)
  | 8 => some (.flt fp32)
  | 9 => some (.flt bf16)
  | 10 => some (.flt fp16)
  | 11 => some (.flt e4m3)
  | 12 => some (.flt e5m2)
  | 13 => if tagBl t = 3 then none else some .hx4
  | _ => none

/-- Width in bits. -/
def ETy.bits : ETy → Nat
  | .int t => t.w
  | .flt f => f.width
  | .hx4 => 4

def ETy.isInt : ETy → Bool
  | .int _ => true
  | .flt _ | .hx4 => false

/-- A float operation type: FP32, FP16 or BF16 (Table 6.1). -/
def ETy.isArith : ETy → Bool
  | .flt f => decide (16 ≤ f.width)
  | .int _ | .hx4 => false

/-- Table 6.1: a vector source legal for an operation type. -/
def legalSrc (op src : ETy) : Bool :=
  (op.isInt || op.isArith) && (op.isInt == src.isInt) && decide (src.bits ≤ op.bits)

/-! ## Registers -/

/-- A vector register. -/
def Ctx.vr (c : Ctx) (r : VReg5) : VReg := c.v[r.toNat]

/-- Replace a vector register. -/
def Ctx.setVr (c : Ctx) (r : VReg5) (v : VReg) : Ctx := { c with v := c.v.set r.toNat v }

/-- Update a vector register. -/
def Ctx.mapVr (c : Ctx) (r : VReg5) (f : VReg → VReg) : Ctx := c.setVr r (f (c.vr r))

/-- A name valid for the declared shape (R103). -/
def Ctx.vrOk (c : Ctx) (r : VReg5) : Bool := decide (r.toNat < nregOf c) && decide (r.toNat % groupOf c = 0)

/-- Capacity at a width in bits (R103). -/
def capBits (c : Ctx) (w : Nat) : Nat := min 65536 (mvlOf c * 8 / w)

/-- The type of a register's tag. -/
def Ctx.ety (c : Ctx) (r : VReg5) : Option ETy := etyOf (c.vr r).tag

/-- The raw bits of element i at a width. -/
def rawAt (d : Bytes) (w i : Nat) : Nat := if w = 4 then (getNibble d i).toNat else getLe d (i * (w / 8)) (w / 8)

/-- Write the raw bits of element i at a width. -/
def putRaw (d : Bytes) (w i bits : Nat) : Bytes :=
  if w = 4 then setNibble d i (BitVec.ofNat 4 bits) else setLe d (i * (w / 8)) (w / 8) bits

/-- Scale entry n of q register k (R110). -/
def Ctx.qEntry (c : Ctx) (k n : Nat) : Nat := getLe (c.q.toList.getD k []) (2 * n) 2

/-- Write a scale entry. -/
def Ctx.setQ (c : Ctx) (k n v : Nat) : Ctx :=
  if h : k < 4 then { c with q := c.q.set k (setLe c.q[k] (2 * n) 2 v) } else c

/-- log2 of the block length of an HX4 tag. -/
def blkLog (t : Byte) : Nat := 4 + tagBl t

/-- The exact float value of raw bits; an HX4 code takes its block's entry (R59, R60, R125). -/
def fltOf (ty : ETy) (entry bits : Nat) : FVal :=
  match ty with
  | .flt f => f.decode bits
  | .hx4 => hx4Val entry bits
  | .int t => FVal.ofInt (t.val bits)

/-- The exact integer value of raw bits. -/
def intOf (ty : ETy) (bits : Nat) : Int :=
  match ty with
  | .int t => t.val bits
  | .flt _ | .hx4 => 0

/-- Element i's raw bits under a register's own tag. -/
def Ctx.raw (c : Ctx) (r : VReg5) (i : Nat) : Nat :=
  match c.ety r with
  | some ty => rawAt (c.vr r).data ty.bits i
  | none => 0

/-- Element i's exact value as a float. -/
def Ctx.fval (c : Ctx) (r : VReg5) (i : Nat) : FVal :=
  match c.ety r with
  | some ty => fltOf ty (c.qEntry (tagQs (c.vr r).tag) (i / 2 ^ blkLog (c.vr r).tag)) (c.raw r i)
  | none => .nan

/-- Element i's exact value as an integer. -/
def Ctx.ival (c : Ctx) (r : VReg5) (i : Nat) : Int :=
  match c.ety r with
  | some ty => intOf ty (c.raw r i)
  | none => 0

/-- Write element i of a register at a width. -/
def Ctx.putElem (c : Ctx) (r : VReg5) (w i bits : Nat) : Ctx :=
  c.mapVr r fun v => { v with data := putRaw v.data w i bits }

/-- A completed write makes a vacant register FULL; what it has not reached reads 0 (R127). -/
def VReg.fill (v : VReg) : VReg :=
  match v.st with
  | .vacant => { v with st := .full }
  | .full | .pending | .lent => v

/-- Copies in the operand stash that a condition names no longer hold their source's current value (R167). -/
def Ctx.staleWhere (c : Ctx) (p : Stash → Bool) : Ctx :=
  if c.cable.isEmpty then c
  else { c with cable := c.cable.map fun n => { n with srcs := n.srcs.map fun x => { x with live := x.live && !p x } } }

/-- A register has been written. -/
def Ctx.stale (c : Ctx) (r : VReg5) : Ctx := c.staleWhere fun x => decide (x.reg = r)

/-- Entries of a scale register have been written. -/
def Ctx.staleQ (c : Ctx) (k : Nat) : Ctx := c.staleWhere fun x => decide (tagType x.tag = 13) && decide (tagQs x.tag = k)

/-- A write of a register completes. DESIGN CHOICE (log 21): a VACANT register becomes FULL also where its writer had no
element to write, be it for VL = 0 or because its mask enables none. -/
def Ctx.fillReg (c : Ctx) (r : VReg5) : Ctx := (c.mapVr r VReg.fill).stale r

/-! ## Masks (R109) -/

/-- Bit i of a mask; m0 is all ones (R93). -/
def Ctx.mbit (c : Ctx) (k : MReg3) (i : Nat) : Bool := decide (k = 0) || getBit c.m[k.toNat].bits i

/-- Write bit i of a mask; m0 ignores writes. -/
def Ctx.setMbit (c : Ctx) (k : MReg3) (i : Nat) (b : Bool) : Ctx :=
  if k = 0 then c else { c with m := c.m.set k.toNat { c.m[k.toNat] with bits := setBit c.m[k.toNat].bits i b } }

/-- Set a mask's state. -/
def Ctx.setMst (c : Ctx) (k : MReg3) (st : RegSt) : Ctx :=
  if k = 0 then c else { c with m := c.m.set k.toNat { c.m[k.toNat] with st := st } }

/-- The enabled elements from lo up to below hi (R76). -/
def Ctx.enabled (c : Ctx) (k : MReg3) (lo hi : Nat) : List Nat := (upFrom lo (hi - lo)).filter fun i => c.mbit k i

/-! ## Generators (R72, R75) -/

/-- The seeded state of VP i. -/
def srInit (seed : Word) (i : Nat) : Word :=
  let s := seed ^^^ (BitVec.ofNat 64 i * 0x9E3779B97F4A7C15)
  if s = 0 then 1 else s

/-- One generator step. -/
def srStep (s : Word) : Word :=
  let a := s ^^^ (s <<< 13)
  let b := a ^^^ (a >>> 7)
  b ^^^ (b <<< 17)

/-- The state of VP i. -/
def SrGen.state (g : SrGen) (i : Nat) : Word := (findWord g.moved i).getD (srInit g.seed i)

/-- Step the generator of VP i. -/
def SrGen.step (g : SrGen) (i : Nat) : SrGen := { g with moved := putWord g.moved i (srStep (g.state i)) }

/-- The rounding an instruction draws for VP i: RM and SRK of its `vxctl`, and the top k bits of the new state. -/
def rndOf (mode : RMode) (vxctl : Word) (g : SrGen) (i : Nat) : Rnd :=
  let k := (vxctl.extractLsb' 8 5).toNat + 1
  ⟨mode, k, (srStep (g.state i)).toNat / 2 ^ (64 - k)⟩

/-! ## Writing elements (R73, R127, R129) -/

/-- Write one element's result, its flags, and its generator step under SR. `f` computes from the context before the
instruction. -/
def emitOne (vd : VReg5) (w : Nat) (sr : Bool) (f : Nat → Nat × Flags) (c : Ctx) (i : Nat) : Ctx :=
  let r := f i
  let c := (c.putElem vd w i r.1).addFlags r.2
  if sr then { c with sr := c.sr.step i } else c

/-- Write the results of a list of elements. -/
def emitAll (vd : VReg5) (w : Nat) (sr : Bool) (f : Nat → Nat × Flags) (is : List Nat) (c : Ctx) : Ctx :=
  is.foldl (emitOne vd w sr f) c

/-! ## The checks at execution (R120) -/

/-- How a source is read, for the landed prefix of a `cpyv` (R281): whole, or only its first n elements. -/
structure Src where
  r : VReg5
  chain : Option Nat
  deriving DecidableEq, Repr

/-- What an instruction names, for the checks of R120. `caps` lists registers with the width at which VL must fit;
`past` is a further VLOVER of the instruction's entry, `early` one that belongs to the first check. -/
structure Need where
  early : Bool := false
  regs : List VReg5
  tagOk : Bool
  caps : List (VReg5 × Nat)
  past : Bool
  reads : List Src
  mreads : List MReg3
  writes : List VReg5
  mwrites : List MReg3
  e : Bool
  deriving DecidableEq, Repr

/-- What the checks decide. -/
inductive Chk where
  | ok | wait
  | fault (cause : BitVec 6)
  deriving DecidableEq, Repr

/-- A source that no wait would make readable: vacant, or pending under E = 1 beyond its landed prefix. -/
def Ctx.srcTraps (c : Ctx) (e : Bool) (x : Src) : Bool :=
  match (c.vr x.r).st with
  | .vacant => true
  | .pending => e && !(match (c.vr x.r).landed, x.chain with
      | some n, some k => decide (k ≤ n)
      | _, _ => false)
  | .full | .lent => false

/-- A pending source that is waited for under E = 0. -/
def Ctx.srcWaits (c : Ctx) (x : Src) : Bool :=
  match (c.vr x.r).st with
  | .pending => !(match (c.vr x.r).landed, x.chain with
      | some n, some k => decide (k ≤ n)
      | _, _ => false)
  | .vacant | .full | .lent => false

/-- A pending mask (R108); m0 is always FULL. -/
def Ctx.maskPends (c : Ctx) (k : MReg3) : Bool := decide (k ≠ 0) && decide (c.m[k.toNat].st = .pending)

/-- A destination that its writer waits for: pending or LENT (R108, R127). -/
def Ctx.dstWaits (c : Ctx) (r : VReg5) : Bool :=
  match (c.vr r).st with
  | .pending | .lent => true
  | .full | .vacant => false

/-- The checks of R120 in their order. -/
def needCheck (c : Ctx) (vl : Nat) (n : Need) : Chk :=
  if n.early || !(n.regs.all c.vrOk) then .fault cVlover
  else if !n.tagOk then .fault cTag
  else if n.past || !(n.caps.all fun p => decide (vl ≤ capBits c p.2)) then .fault cVlover
  else if n.reads.any (c.srcTraps n.e) || (n.e && n.mreads.any c.maskPends) then .fault cEmpty
  else if n.reads.any c.srcWaits || n.mreads.any c.maskPends || n.writes.any c.dstWaits
      || n.mwrites.any c.maskPends then .wait
  else .ok

end Sys2Proof.Machine
end

