-- ==== Sys2Proof/Machine/VecOps.lean ====
section
/-! DEFINITION. What each V-space form needs and does (spec/06 and spec/07): every effect is a function of the context
before the instruction, the entry's captured scalars and CSRs, and the first element ES. -/

namespace Sys2Proof.Machine

/-- What a V-space effect reads of its VIQ entry: the scalar xs2, VL, `vxctl` (R113), ES = `ves`, the instruction's
mask, and the number of the first free-value draw. -/
structure VEnv where
  x : Word
  vl : Nat
  vxctl : Word
  es : Nat
  m : MReg3
  draw : Nat
  deriving DecidableEq, Repr

def VEnv.mode (v : VEnv) : RMode := rmodeOf v.vxctl

/-- The second source of a binary form (R126). -/
inductive Src2 where
  | v (r : VReg5)
  | x
  | i (imm : BitVec 5)
  deriving DecidableEq, Repr

/-- Vector registers a second source names. -/
def Src2.regs : Src2 → List VReg5
  | .v r => [r]
  | .x | .i _ => []

/-- The second source as an integer of an operation type. -/
def Src2.int (q : Src2) (c : Ctx) (v : VEnv) (t : IntTy) (i : Nat) : Int :=
  match q with
  | .v r => c.ival r i
  | .x => t.val v.x.toNat
  | .i imm => imm.toInt

/-- The second source as a float of an operation type. -/
def Src2.flt (q : Src2) (c : Ctx) (v : VEnv) (f : FFmt) (i : Nat) : FVal :=
  match q with
  | .v r => c.fval r i
  | .x => f.decode v.x.toNat
  | .i imm => FVal.ofInt imm.toInt

/-- The tag check of a source list under an operation type (R125). -/
def legalAll (c : Ctx) (op : Option ETy) (srcs : List VReg5) : Bool :=
  match op with
  | none => false
  | some t => (t.isInt || t.isArith) && srcs.all fun r => (c.ety r).any fun s => legalSrc t s

/-- A width check of a list of registers at their own tags. -/
def ownCaps (c : Ctx) (rs : List VReg5) : List (VReg5 × Nat) := rs.map fun r => (r, ((c.ety r).map ETy.bits).getD 8)

/-- Elementwise sources chain on a landed prefix, which must hold every element read (R281). -/
def chained (rs : List VReg5) (vl : Nat) : List Src := rs.map fun r => ⟨r, some vl⟩

/-- Sources that wait for the whole register. -/
def wholes (rs : List VReg5) : List Src := rs.map fun r => ⟨r, none⟩

/-! ## Binary arithmetic (R129, R130, Table 6.2) -/

/-- The binary forms. -/
inductive BinOp where
  | add | sub | mul | mac | min | max | and | or | xor | shl | shr | div
  deriving DecidableEq, Repr

/-- A form with a float meaning. -/
def BinOp.hasFloat : BinOp → Bool
  | .add | .sub | .mul | .mac | .min | .max | .div => true
  | .and | .or | .xor | .shl | .shr => false

/-- The integer result (Table 6.2, R57). A minimum, maximum or quotient outside the type keeps its
low bits with no flag, but for the one quotient of Table 3.3 (log 12). -/
def intBin (o : BinOp) (t : IntTy) (a b d : Int) : Nat × Flags :=
  let n := (b % t.w).toNat
  match o with
  | .add => t.wrap (a + b)
  | .sub => t.wrap (a - b)
  | .mul => t.wrap (a * b)
  | .mac => t.wrap (d + a * b)
  | .min => (t.bits (if a ≤ b then a else b), 0)
  | .max => (t.bits (if a ≤ b then b else a), 0)
  | .and => (t.bits a &&& t.bits b, 0)
  | .or => (t.bits a ||| t.bits b, 0)
  | .xor => (t.bits a ^^^ t.bits b, 0)
  | .shl => (t.bits (t.bits a * 2 ^ n), 0)
  | .shr => (t.bits (t.val (t.bits a) / 2 ^ n), 0)
  | .div => t.div a b

/-- The float result (Table 6.2, R130). -/
def fltBin (o : BinOp) (f : FFmt) (rd : Rnd) (a b d : FVal) : Nat × Flags :=
  let fin (p : FVal × Flags) : Nat × Flags :=
    let r := f.round rd false p.1 false
    (r.1, p.2 ||| r.2)
  match o with
  | .add => fin (fadd rd.mode a b)
  | .sub => fin (fadd rd.mode a b.negate)
  | .mul => fin (fmul a b)
  | .mac => fin (ffma rd.mode d a b)
  | .min => if a.isNan || b.isNan then (f.nanBits, 0) else f.rne (fminSel a b)
  | .max => if a.isNan || b.isNan then (f.nanBits, 0) else f.rne (fmaxSel a b)
  | .div =>
    let q := fdiv a b
    let r := f.round rd false q.1 q.2.1
    (r.1, q.2.2 ||| r.2)
  | .and | .or | .xor | .shl | .shr => (f.nanBits, 0)

/-- Whether a float form rounds in RM, so that SR steps the generators (R67, R73). -/
def BinOp.rounds : BinOp → Bool
  | .add | .sub | .mul | .mac | .div => true
  | .min | .max | .and | .or | .xor | .shl | .shr => false

/-- What a binary form needs. DESIGN CHOICE (log 114): the vd of a `vmac` is a source, so E = 1 traps EMPTY while it is
pending. -/
def binNeed (o : BinOp) (e : Bool) (vs1 vd : VReg5) (q : Src2) (m : MReg3) (c : Ctx) (vl : Nat) : Need :=
  let srcs := vs1 :: q.regs
  let reads := if o = .mac then srcs ++ [vd] else srcs
  { regs := srcs ++ [vd]
    tagOk := legalAll c (c.ety vd) srcs && ((c.ety vd).any fun t => t.isInt || o.hasFloat)
    caps := ownCaps c (srcs ++ [vd])
    past := false
    reads := chained reads vl
    mreads := [m]
    writes := [vd]
    mwrites := []
    e := e }

/-- What a binary form does (R129). -/
def binEffect (o : BinOp) (vs1 vd : VReg5) (q : Src2) (v : VEnv) (c : Ctx) : Ctx :=
  match c.ety vd with
  | some (.int t) =>
    (emitAll vd t.w false (fun i => intBin o t (c.ival vs1 i) (q.int c v t i) (c.ival vd i))
      (c.enabled v.m v.es v.vl) c).fillReg vd
  | some (.flt f) =>
    let sr := o.rounds && decide (v.mode = .sr)
    (emitAll vd f.width sr
      (fun i => fltBin o f (rndOf v.mode v.vxctl c.sr i) (c.fval vs1 i) (q.flt c v f i) (c.fval vd i))
      (c.enabled v.m v.es v.vl) c).fillReg vd
  | some .hx4 | none => c

/-! ## Compares and merges (R131, R132) -/

/-- What a compare needs: the operation type is vs1's (R125). -/
def cmpNeed (e : Bool) (vs1 : VReg5) (q : Src2) (m md : MReg3) (c : Ctx) (vl : Nat) : Need :=
  let srcs := vs1 :: q.regs
  { regs := srcs
    tagOk := legalAll c (c.ety vs1) srcs
    caps := ownCaps c srcs
    past := false
    reads := chained srcs vl
    mreads := [m]
    writes := []
    mwrites := [md]
    e := e }

/-- The condition of a float compare: lt and le of a NaN are false with NV. -/
def fltCond (cc : BitVec 2) (a b : FVal) : Bool × Flags :=
  let n := a.isNan || b.isNan
  match cc.toNat with
  | 0 => (feq a b, 0)
  | 1 => (!feq a b, 0)
  | 2 => (flt a b, flagIf n flNV)
  | _ => (flt a b || feq a b, flagIf n flNV)

/-- The condition of an integer compare. -/
def intCond (cc : BitVec 2) (a b : Int) : Bool :=
  match cc.toNat with
  | 0 => decide (a = b)
  | 1 => decide (a ≠ b)
  | 2 => decide (a < b)
  | _ => decide (a ≤ b)

/-- What a compare does. -/
def cmpEffect (cc : BitVec 2) (vs1 : VReg5) (q : Src2) (md : MReg3) (v : VEnv) (c : Ctx) : Ctx :=
  let cond (i : Nat) : Bool × Flags :=
    match c.ety vs1 with
    | some (.int t) => (intCond cc (c.ival vs1 i) (q.int c v t i), 0)
    | some (.flt f) => fltCond cc (c.fval vs1 i) (q.flt c v f i)
    | some .hx4 | none => (false, 0)
  (c.enabled v.m v.es v.vl).foldl (fun d i => (d.setMbit md i (cond i).1).addFlags (cond i).2) c

/-- One past the last index from `lo` below `hi` whose mask bit is b. -/
def lastBit (c : Ctx) (m : MReg3) (b : Bool) (lo hi : Nat) : Nat :=
  (((upFrom lo (hi - lo)).filter fun i => c.mbit m i == b).getLast?.map fun i => i + 1).getD 0

/-- What a merge needs: of each source the elements that the mask selects from it (R132, R281). -/
def mergeNeed (e : Bool) (vs1 vd : VReg5) (q : Src2) (m : MReg3) (es : Nat) (c : Ctx) (vl : Nat) : Need :=
  { binNeed .min e vs1 vd q m c vl with
    reads := chained [vs1] (lastBit c m true es vl) ++ chained q.regs (lastBit c m false es vl) }

/-- What a merge does (R132): the mask selects, and every element below VL is written. -/
def mergeEffect (vs1 vd : VReg5) (q : Src2) (v : VEnv) (c : Ctx) : Ctx :=
  let is := upFrom v.es (v.vl - v.es)
  match c.ety vd with
  | some (.int t) =>
    (emitAll vd t.w false (fun i => (t.bits (if c.mbit v.m i then c.ival vs1 i else q.int c v t i), 0)) is c).fillReg vd
  | some (.flt f) =>
    (emitAll vd f.width false (fun i => f.rne (if c.mbit v.m i then c.fval vs1 i else q.flt c v f i)) is c).fillReg vd
  | some .hx4 | none => c

/-! ## Moves (R142) -/

/-- Tags between which the move rule moves a value. -/
def movable (c : Ctx) (vd vs1 : VReg5) : Bool :=
  match c.ety vd, c.ety vs1 with
  | some t, some s => decide (tagType (c.vr vd).tag = tagType (c.vr vs1).tag) || legalSrc t s
  | none, _ => false
  | some _, none => false

/-- Move(vs1, j): equal TYPE copies the bits, but a NaN becomes the canonical NaN (R53; DEDUCED, log 103, where R142's first
bullet has it copied); otherwise the value is rounded RNE. An integer keeps its low bits with no flag (Table 7.1, log 12). -/
def moveElem (c : Ctx) (vd vs1 : VReg5) (j : Nat) : Nat × Flags :=
  if tagType (c.vr vd).tag = tagType (c.vr vs1).tag then
    (match c.ety vd with
      | some (.flt f) => if (c.fval vs1 j).isNan then f.nanBits else c.raw vs1 j
      | some (.int _) => c.raw vs1 j
      | some .hx4 => c.raw vs1 j
      | none => c.raw vs1 j, 0)
  else match c.ety vd with
    | some (.int t) => (t.bits (c.ival vs1 j), 0)
    | some (.flt f) => f.rne (c.fval vs1 j)
    | some .hx4 | none => (0, 0)

/-- Width of a register's elements. -/
def Ctx.width (c : Ctx) (r : VReg5) : Nat := ((c.ety r).map ETy.bits).getD 8

/-- What a one-source form needs. `chain` says whether it chains on a landed prefix. DESIGN CHOICE (log 113): `vs1` must be
readable also for a `vbcast` with VL = 0, which reads no element. -/
def unNeed (tagOk chain : Bool) (e : Bool) (vs1 vd : VReg5) (m : MReg3) (c : Ctx) (vl : Nat) : Need :=
  { regs := [vs1, vd]
    tagOk := tagOk
    caps := ownCaps c [vs1, vd]
    past := false
    reads := if chain then chained [vs1] vl else wholes [vs1]
    mreads := [m]
    writes := [vd]
    mwrites := []
    e := e }

/-- `vmov` (R142, R144). -/
def movEffect (vs1 vd : VReg5) (v : VEnv) (c : Ctx) : Ctx :=
  (emitAll vd (c.width vd) false (moveElem c vd vs1) (c.enabled v.m v.es v.vl) c).fillReg vd

/-! ## The unary group (R144, R145, Table 7.1) -/

/-- The unary forms that compute. -/
inductive UnOp where
  | neg | abs | not | sqrt | floor | ceil | rnd | clz | popc
  | special (f : SFun)
  deriving DecidableEq, Repr

/-- The destination classes Table 7.1 allows. -/
def UnOp.intOk : UnOp → Bool
  | .neg | .abs | .not | .clz | .popc => true
  | .sqrt | .floor | .ceil | .rnd | .special _ => false

def UnOp.fltOk : UnOp → Bool
  | .neg | .abs | .sqrt | .floor | .ceil | .rnd | .special _ => true
  | .not | .clz | .popc => false

/-- Forms that round in RM. -/
def UnOp.rounds : UnOp → Bool
  | .sqrt | .rnd => true
  | .neg | .abs | .not | .floor | .ceil | .clz | .popc | .special _ => false

/-- The integer result. DEDUCED (log 12): `vabs` sets IO wherever the magnitude does not fit vd, as `vneg` does. -/
def intUn (o : UnOp) (t : IntTy) (a : Int) : Nat × Flags :=
  match o with
  | .neg => t.wrap (-a)
  | .abs => t.wrap a.natAbs
  | .not => (2 ^ t.w - 1 - t.bits a, 0)
  | .clz => (clzBits t.w (t.bits a), 0)
  | .popc => (popBits t.w (t.bits a), 0)
  | .sqrt | .floor | .ceil | .rnd | .special _ => (0, 0)

/-- The float result. A form that rounds to an integral value rounds that value into vd in the same mode (R67, R68). DESIGN
CHOICE (log 115): a special function into FP16 or BF16 raises the flags of its FP32 result and those of the narrowing. -/
def fltUn (o : UnOp) (f : FFmt) (rd : Rnd) (choice : Nat) (a : FVal) : Nat × Flags :=
  let rne (p : FVal × Flags) : Nat × Flags :=
    let r := f.rne p.1
    (r.1, p.2 ||| r.2)
  let integral (d : Rnd) : Nat × Flags :=
    let p := roundIntegral d a
    let r := f.round d false p.1 false
    (r.1, p.2 ||| r.2)
  match o with
  | .neg => f.rne a.negate
  | .abs => f.rne a.abs
  | .sqrt =>
    let q := fsqrt a
    let r := f.round rd false q.1 q.2.1
    (r.1, q.2.2 ||| r.2)
  | .floor => integral ⟨.rdn, 0, 0⟩
  | .ceil => integral ⟨.rup, 0, 0⟩
  | .rnd => integral rd
  | .special g => rne (g.eval a choice)
  | .not | .clz | .popc => (f.nanBits, 0)

/-- What a unary form needs. -/
def unaryNeed (o : UnOp) (e : Bool) (vs1 vd : VReg5) (m : MReg3) (c : Ctx) (vl : Nat) : Need :=
  unNeed (legalAll c (c.ety vd) [vs1] && ((c.ety vd).any fun t => if t.isInt then o.intOk else o.fltOk)) true
    e vs1 vd m c vl

/-- What a unary form does. -/
def unaryEffect (o : UnOp) (vs1 vd : VReg5) (v : VEnv) (c : Ctx) : Ctx :=
  match c.ety vd with
  | some (.int t) =>
    (emitAll vd t.w false (fun i => intUn o t (c.ival vs1 i)) (c.enabled v.m v.es v.vl) c).fillReg vd
  | some (.flt f) =>
    let sr := o.rounds && decide (v.mode = .sr)
    (emitAll vd f.width sr
      (fun i => fltUn o f (rndOf v.mode v.vxctl c.sr i) (Config.pick (v.draw + i)) (c.fval vs1 i))
      (c.enabled v.m v.es v.vl) c).fillReg vd
  | some .hx4 | none => c

/-- What `vid` needs. DESIGN CHOICE (log 114): it has no register source, so its E bit concerns a pending mask only. -/
def vidNeed (e : Bool) (vd : VReg5) (m : MReg3) (c : Ctx) : Need :=
  { regs := [vd]
    tagOk := (c.ety vd).any ETy.isInt
    caps := ownCaps c [vd]
    past := false
    reads := []
    mreads := [m]
    writes := [vd]
    mwrites := []
    e := e }

/-- `vid`: the element's index, wrapped. -/
def vidEffect (vd : VReg5) (v : VEnv) (c : Ctx) : Ctx :=
  match c.ety vd with
  | some (.int t) => (emitAll vd t.w false (fun i => t.wrap i) (c.enabled v.m v.es v.vl) c).fillReg vd
  | some (.flt _) | some .hx4 | none => c

/-- `vbcast`: element 0 of vs1; with VL = 0 it writes nothing. -/
def bcastEffect (vs1 vd : VReg5) (v : VEnv) (c : Ctx) : Ctx :=
  if v.vl = 0 then c
  else (emitAll vd (c.width vd) false (fun _ => moveElem c vd vs1 0) (c.enabled v.m 0 v.vl) c).fillReg vd

/-- The class bit of a value (R145); `sub` is the exponent of the smallest normal. -/
def classBit (a : FVal) (sub : Int) : Nat :=
  match a with
  | .nan => 8
  | .inf s => if s then 0 else 7
  | .fin s m e =>
    if m = 0 then if s then 3 else 4
    else if e + m.log2 < sub then if s then 2 else 5
    else if s then 1 else 6

/-- The exponent of the smallest normal of a type; HX4 is classed against FP32. -/
def normExp : ETy → Int
  | .flt f => 1 - f.bias
  | .hx4 => -126
  | .int _ => 0

/-- Tags of `vclass`. -/
def classTags (c : Ctx) (vd vs1 : VReg5) : Bool :=
  (match c.ety vd with
    | some (.int t) => decide (3 ≤ tagType (c.vr vd).tag) && decide (16 ≤ t.w)
    | some (.flt _) | some .hx4 | none => false)
  && ((c.ety vs1).any fun s => !s.isInt)

/-- `vclass`. -/
def classEffect (vs1 vd : VReg5) (v : VEnv) (c : Ctx) : Ctx :=
  let sub := ((c.ety vs1).map normExp).getD 0
  (emitAll vd (c.width vd) false (fun i => (2 ^ classBit (c.fval vs1 i) sub, 0)) (c.enabled v.m v.es v.vl) c).fillReg vd

/-! ## Permutes, slides and reshapes (R143, R146 to R153) -/

/-- What a gather needs. -/
def gatherNeed (e : Bool) (vs2 vs1 vd : VReg5) (m : MReg3) (c : Ctx) : Need :=
  { regs := [vs1, vs2, vd]
    tagOk := movable c vd vs1 && (c.ety vs2).any ETy.isInt
    caps := ownCaps c [vs1, vs2, vd]
    past := false
    reads := wholes [vs1, vs2]
    mreads := [m]
    writes := [vd]
    mwrites := []
    e := e }

/-- Move an element, or Zero(vd) when there is none. -/
def moveOr (c : Ctx) (vd vs1 : VReg5) (j : Option Nat) : Nat × Flags :=
  match j with
  | some k => moveElem c vd vs1 k
  | none => (0, 0)

/-- The gather (R146). -/
def gatherEffect (vs2 vs1 vd : VReg5) (v : VEnv) (c : Ctx) : Ctx :=
  let cap := capBits c (c.width vs1)
  (emitAll vd (c.width vd) false
    (fun i => moveOr c vd vs1 (if c.raw vs2 i < cap then some (c.raw vs2 i) else none))
    (c.enabled v.m 0 v.vl) c).fillReg vd

/-- The slide down by a signed amount (R147). -/
def slideDownEffect (s : Int) (vs1 vd : VReg5) (v : VEnv) (c : Ctx) : Ctx :=
  (emitAll vd (c.width vd) false
    (fun i =>
      let j := (i : Int) + s
      moveOr c vd vs1 (if 0 ≤ j ∧ j < v.vl then some j.toNat else none))
    (c.enabled v.m 0 v.vl) c).fillReg vd

/-- The slide up by an unsigned amount (R148). -/
def slideUpEffect (s : Nat) (vs1 vd : VReg5) (v : VEnv) (c : Ctx) : Ctx :=
  (emitAll vd (c.width vd) false (fun i => moveElem c vd vs1 (i - s)) (c.enabled v.m s v.vl) c).fillReg vd

/-- Pairs of (position in a dense run, selected index). -/
def numbered : Nat → List Nat → List (Nat × Nat)
  | _, [] => []
  | n, i :: t => (n, i) :: numbered (n + 1) t

/-- Write a list of (element, result) pairs. -/
def emitPairs (vd : VReg5) (w : Nat) (ps : List (Nat × Nat × Flags)) (c : Ctx) : Ctx :=
  ps.foldl (fun d p => (d.putElem vd w p.1 p.2.1).addFlags p.2.2) c

/-- `vcompress` (R149). -/
def compressEffect (vs1 vd : VReg5) (v : VEnv) (c : Ctx) : Ctx :=
  (emitPairs vd (c.width vd) ((numbered 0 (c.enabled v.m 0 v.vl)).map fun p => (p.1, moveElem c vd vs1 p.2)) c).fillReg vd

/-- `vexpand` (R150). -/
def expandEffect (vs1 vd : VReg5) (v : VEnv) (c : Ctx) : Ctx :=
  let cap := capBits c (c.width vs1)
  (emitPairs vd (c.width vd) ((numbered 0 (c.enabled v.m 0 v.vl)).map fun p =>
    (p.2, moveOr c vd vs1 (if p.1 < cap then some p.1 else none))) c).fillReg vd

/-- `vmidx` (R151). -/
def midxEffect (vd : VReg5) (v : VEnv) (c : Ctx) : Ctx :=
  match c.ety vd with
  | some (.int t) =>
    (emitPairs vd t.w ((numbered 0 (c.enabled v.m 0 v.vl)).map fun p => (p.1, t.wrap p.2)) c).fillReg vd
  | some (.flt _) | some .hx4 | none => c

/-- `vrev` (R152). -/
def revEffect (vs1 vd : VReg5) (v : VEnv) (c : Ctx) : Ctx :=
  (emitAll vd (c.width vd) false (fun i => moveElem c vd vs1 (v.vl - 1 - i)) (c.enabled v.m 0 v.vl) c).fillReg vd

/-- The partner of an element in its 8 × 8 tile (R153). -/
def tr8Partner (e : Nat) : Nat := e / 64 * 64 + e % 8 * 8 + e / 8 % 8

/-- `vtr8` (R153). -/
def tr8Effect (vs1 vd : VReg5) (v : VEnv) (c : Ctx) : Ctx :=
  (emitAll vd (c.width vd) false
    (fun i => moveElem c vd vs1 (if tr8Partner i < v.vl then tr8Partner i else i))
    (c.enabled v.m 0 v.vl) c).fillReg vd

/-! ## Conversions (R155, R156) -/

/-- A conversion's variant: its mode, and whether it takes the `vcvt.sat` column. -/
structure CvtOp where
  mode : Option RMode
  sat : Bool
  deriving DecidableEq, Repr

/-- Tags of a conversion. -/
def cvtTags (c : Ctx) (vd vs1 : VReg5) : Bool := ((c.ety vd).any fun t => decide (t ≠ .hx4)) && (c.ety vs1).isSome

/-- One conversion between element types (R69, R156). A float of the same format is copied, NaN made canonical. -/
def cvtBits (d s : ETy) (rd : Rnd) (sat : Bool) (bits : Nat) (iv : Int) (fv : FVal) : Nat × Flags :=
  match d, s with
  | .int t, .int _ => if sat then t.sat iv else t.wrap iv
  | .int t, .flt _ => t.ofFloat rd fv
  | .int t, .hx4 => t.ofFloat rd fv
  | .flt f, .int _ => f.round rd sat (FVal.ofInt iv) false
  | .flt f, .flt g => if f = g ∧ sat = false then (if fv.isNan then f.nanBits else bits, 0) else f.round rd sat fv false
  | .flt f, .hx4 => f.round rd sat fv false
  | .hx4, _ => (0, 0)

/-- One element's conversion. -/
def cvtElem (c : Ctx) (vd vs1 : VReg5) (rd : Rnd) (sat : Bool) (i : Nat) : Nat × Flags :=
  match c.ety vd, c.ety vs1 with
  | some d, some s => cvtBits d s rd sat (c.raw vs1 i) (c.ival vs1 i) (c.fval vs1 i)
  | some _, none => (0, 0)
  | none, _ => (0, 0)

/-- What a conversion does. -/
def cvtEffect (o : CvtOp) (vs1 vd : VReg5) (v : VEnv) (c : Ctx) : Ctx :=
  let mode := o.mode.getD v.mode
  (emitAll vd (c.width vd) (decide (mode = .sr))
    (fun i => cvtElem c vd vs1 (rndOf mode v.vxctl c.sr i) o.sat i) (c.enabled v.m v.es v.vl) c).fillReg vd

/-! ## Quantising to HX4 (R61, R62, R157) -/

/-- The magnitude order of two finite values. -/
def magLt (a b : FVal) : Bool := flt a.abs b.abs

/-- The present element of largest magnitude, the lowest-indexed of equals (R61). -/
def maxMag : List FVal → FVal → FVal
  | [], best => best
  | a :: t, best => maxMag t (if magLt best a then a else best)

/-- The candidates of a block: (value, code), the fifteen E2M1 codes and 0b1000 (R61 step 4). -/
def hx4Cands (entry : Nat) : List (FVal × Nat) :=
  ((upFrom 0 16).filter fun c => decide (c ≠ 8)).map (fun c => (hx4Val entry c, c)) ++ [(hx4Val entry 8, 8)]

/-- The exact difference of two finite values, not negative. -/
def fdist (a b : FVal) : FVal := (fadd .rne a b.negate).1.abs

/-- Whether candidate p is a better nearest choice than q for x (R61 step 4). -/
def nearer (rmm : Bool) (x : FVal) (p q : FVal × Nat) : Bool :=
  let dp := fdist x p.1
  let dq := fdist x q.1
  if flt dp dq then true
  else if flt dq dp then false
  else if p.2 = 8 then false
  else if q.2 = 8 then true
  else if rmm then magLt q.1 p.1
  else decide (p.2 % 2 = 0) && decide (q.2 % 2 = 1)

/-- The best of a list under a strict preference; the first of equals stays. -/
def bestOf (better : FVal × Nat → FVal × Nat → Bool) : List (FVal × Nat) → Option (FVal × Nat)
  | [] => none
  | p :: t => some (t.foldl (fun b q => if better q b then q else b) p)

/-- The largest candidate not above x. DESIGN CHOICE (log 116): where S equals an E2M1 candidate the E2M1 code is taken in every
mode, as step 4 of R61 has it under RNE and RMM. -/
def candBelow (cs : List (FVal × Nat)) (x : FVal) : Option (FVal × Nat) :=
  bestOf (fun p q => flt q.1 p.1) (cs.filter fun p => !flt x p.1)

/-- The smallest candidate not below x. -/
def candAbove (cs : List (FVal × Nat)) (x : FVal) : Option (FVal × Nat) :=
  bestOf (fun p q => flt p.1 q.1) (cs.filter fun p => !flt p.1 x)

/-- The candidate of largest magnitude of a sign, for an element beyond every candidate of its sign. -/
def candEnd (cs : List (FVal × Nat)) (neg : Bool) : Option (FVal × Nat) :=
  if neg then bestOf (fun p q => flt p.1 q.1) cs else bestOf (fun p q => flt q.1 p.1) cs

/-- SR between the two candidates around x: toward the one of larger magnitude by the rule of R71, on the position in
64 bits. -/
def candSr (rd : Rnd) (lo hi : FVal × Nat) (x : FVal) : FVal × Nat :=
  let (small, big) := if magLt hi.1 lo.1 then (hi, lo) else (lo, hi)
  let num := fdist x small.1
  let den := fdist big.1 small.1
  match num, den with
  | .fin _ m e, .fin _ n d =>
    let e0 := min e d
    let pos := shiftUp m (e - e0) * 2 ^ 64 / (max 1 (shiftUp n (d - e0)))
    if 2 ^ rd.k ≤ pos / 2 ^ (64 - rd.k) + rd.r then big else small
  | _, _ => small

/-- One element's code and whether it is inexact (R61 step 4). Zero takes code 0. -/
def hx4Round (rd : Rnd) (cs : List (FVal × Nat)) (x : FVal) : Nat × Bool :=
  let done (p : Option (FVal × Nat)) : Nat × Bool :=
    match p with
    | some q => (q.2, !feq q.1 x)
    | none => (0, true)
  let lo := candBelow cs x
  let hi := candAbove cs x
  match lo, hi with
  | none, _ => done (candEnd cs true)
  | _, none => done (candEnd cs false)
  | some l, some h =>
    if feq l.1 x then done (some l)
    else if feq h.1 x then done (some h)
    else match rd.mode with
      | .rne => done (bestOf (nearer false x) cs)
      | .rmm => done (bestOf (nearer true x) cs)
      | .rdn => done (some l)
      | .rup => done (some h)
      | .rtz => done (some (if x.neg? then h else l))
      | .sr => done (some (candSr rd l h x))

/-- One block: its entry, the codes of the present elements in order, and flags (R61). -/
def quantBlock (rds : List Rnd) (xs : List FVal) : Nat × List Nat × Flags :=
  if xs.any FVal.isNan || xs.any FVal.isInf then
    (0x00FF, xs.map fun _ => 0, flagIf (xs.any FVal.isInf) flNV)
  else
    let big := maxMag xs (.fin false 0 0)
    let entry : Nat := match big with
      | .fin _ m e =>
        if m = 0 then 127
        else
          let x : Int := max 0 (min 254 (e + m.log2 - 2 + 127))
          let s := (e4m3.rne (big.scale (127 - x))).1
          s * 256 + x.toNat
      | .nan => 0x00FF
      | .inf _ => 0x00FF
    let cs := hx4Cands entry
    let rs := (rds.zip xs).map fun p => hx4Round p.1 cs p.2
    (entry, rs.map Prod.fst, flagIf (rs.any Prod.snd) flNX)

/-- Quantise block b of a source given by value, into vd and its scale register, for `top` elements in all: `vquant`
with VL, `dout.q` with LK (R62, R157, R176). A block with a NaN or an infinity has every code written 0, those of
masked-off elements too (R61 step 1; DEDUCED, log 104, where R127 would keep them). -/
def quantInto (vd : VReg5) (mode : RMode) (vxctl : Word) (m : MReg3) (top : Nat) (src : Nat → FVal) (c : Ctx) (b : Nat) : Ctx :=
  let t := (c.vr vd).tag
  let n := 2 ^ blkLog t
  let lo := b * n
  let pres := c.enabled m lo (min top (lo + n))
  let r := quantBlock (pres.map fun i => rndOf mode vxctl c.sr i) (pres.map src)
  let c1 := (pres.zip r.2.1).foldl (fun d p => d.putElem vd 4 p.1 p.2) c
  let from_ := if (pres.map src).any fun x => x.isNan || x.isInf then lo else max lo top
  let c2 := (upFrom from_ (lo + n - from_)).foldl (fun d i => d.putElem vd 4 i 0) c1
  let c3 := (c2.setQ (tagQs t) b r.1).addFlags r.2.2
  if mode = .sr then pres.foldl (fun d i => { d with sr := d.sr.step i }) c3 else c3

/-- Tags of `vquant`. -/
def quantTags (c : Ctx) (vd vs1 : VReg5) : Bool :=
  decide (c.ety vd = some .hx4) && (c.ety vs1).any fun s => !s.isInt

/-- `vquant` (R157): block by block in ascending order, each block read whole before it is written. -/
def quantEffect (vs1 vd : VReg5) (v : VEnv) (c : Ctx) : Ctx :=
  let n := 2 ^ blkLog (c.vr vd).tag
  let first := v.es / n
  let d := (upFrom first ((v.vl + n - 1) / n - first)).foldl
    (fun d b => quantInto vd v.mode v.vxctl v.m v.vl (fun i => d.fval vs1 i) d b) c
  (d.fillReg vd).staleQ (tagQs (c.vr vd).tag)

/-! ## Reductions (R76, R134, R135) -/

/-- The reductions. -/
inductive RedOp where
  | sum | sumt | max | min | and | or | xor
  deriving DecidableEq, Repr

def RedOp.fltOk : RedOp → Bool
  | .sum | .sumt | .max | .min => true
  | .and | .or | .xor => false

/-- What a reduction needs. -/
def redNeed (o : RedOp) (e : Bool) (vs1 vd : VReg5) (m : MReg3) (c : Ctx) (vl : Nat) : Need :=
  unNeed (legalAll c (c.ety vd) [vs1] && ((c.ety vd).any fun t => t.isInt || o.fltOk)) true e vs1 vd m c vl

/-- An integer reduction (R135). -/
def intRed (o : RedOp) (t : IntTy) (xs : List Int) : Nat × Flags :=
  match o with
  | .sum | .sumt => t.wrap xs.sum
  | .max => (t.bits (match xs with
      | [] => t.min
      | x :: r => r.foldl (fun a b => if a ≤ b then b else a) x), 0)
  | .min => (t.bits (match xs with
      | [] => t.max
      | x :: r => r.foldl (fun a b => if a ≤ b then a else b) x), 0)
  | .and => (xs.foldl (fun a x => a &&& t.bits x) (2 ^ t.w - 1), 0)
  | .or => (xs.foldl (fun a x => a ||| t.bits x) 0, 0)
  | .xor => (xs.foldl (fun a x => a ^^^ t.bits x) 0, 0)

/-- One RNE addition in a format; an empty side passes the other (Table 3.6). -/
def fplus (f : FFmt) (a b : Option FVal × Flags) : Option FVal × Flags :=
  match a.1, b.1 with
  | none, _ => (b.1, a.2 ||| b.2)
  | some x, none => (some x, a.2 ||| b.2)
  | some x, some y =>
    let s := fadd .rne x y
    let r := f.rne s.1
    (some (f.decode r.1), a.2 ||| b.2 ||| s.2 ||| r.2)

/-- Combine neighbours once. -/
def pairUp (f : FFmt) : List (Option FVal × Flags) → List (Option FVal × Flags)
  | a :: b :: t => fplus f a b :: pairUp f t
  | [a] => [a]
  | [] => []

/-- The five levels of the lane tree. -/
def laneTree (f : FFmt) (ls : List (Option FVal × Flags)) : Nat → List (Option FVal × Flags)
  | 0 => ls
  | n + 1 => laneTree f (pairUp f ls) n

/-- A float sum in ascending order. -/
def sumUp (f : FFmt) (xs : List FVal) : Option FVal × Flags :=
  xs.foldl (fun a x => fplus f a (some x, 0)) (none, 0)

/-- A float reduction over (index, value) pairs. -/
def fltRed (o : RedOp) (f : FFmt) (xs : List (Nat × FVal)) : Nat × Flags :=
  let close (p : Option FVal × Flags) : Nat × Flags :=
    let r := f.rne (p.1.getD (.fin false 0 0))
    (r.1, p.2 ||| r.2)
  let vs := xs.map Prod.snd
  match o with
  | .sum => close (sumUp f vs)
  | .sumt =>
    let lanes := (upFrom 0 32).map fun l => sumUp f ((xs.filter fun p => decide (p.1 % 32 = l)).map Prod.snd)
    close ((laneTree f lanes 5).headD (none, 0))
  | .max => if vs.any FVal.isNan then (f.nanBits, 0) else f.rne (vs.foldl fmaxSel (.inf true))
  | .min => if vs.any FVal.isNan then (f.nanBits, 0) else f.rne (vs.foldl fminSel (.inf false))
  | .and | .or | .xor => (f.nanBits, 0)

/-- What a reduction does: element 0 of vd, nothing with VL = 0 (R134). -/
def redEffect (o : RedOp) (vs1 vd : VReg5) (v : VEnv) (c : Ctx) : Ctx :=
  if v.vl = 0 then c
  else
    let is := c.enabled v.m 0 v.vl
    match c.ety vd with
    | some (.int t) =>
      let r := intRed o t (is.map fun i => c.ival vs1 i)
      ((c.putElem vd t.w 0 r.1).addFlags r.2).fillReg vd
    | some (.flt f) =>
      let r := fltRed o f (is.map fun i => (i, c.fval vs1 i))
      ((c.putElem vd f.width 0 r.1).addFlags r.2).fillReg vd
    | some .hx4 | none => c

/-! ## The mask group (R133, Table 6.3) -/

/-- The mask operations. -/
inductive MaskOp where
  | and | or | xor | andn | not | bf | if_ | sof | set | clr
  deriving DecidableEq, Repr

/-- What a mask operation needs. -/
def maskNeed (e : Bool) (srcs : List MReg3) (md : MReg3) : Need :=
  { regs := []
    tagOk := true
    caps := []
    past := false
    reads := []
    mreads := srcs
    writes := []
    mwrites := [md]
    e := e }

/-- The new bit i: F is the lowest set index of ma below VL, VL if there is none. -/
def maskBitOf (o : MaskOp) (a b : Bool) (i f : Nat) : Bool :=
  match o with
  | .and => a && b
  | .or => a || b
  | .xor => a != b
  | .andn => a && !b
  | .not => !a
  | .bf => decide (i < f)
  | .if_ => decide (i ≤ f)
  | .sof => decide (i = f)
  | .set => true
  | .clr => false

/-- What a mask operation does. -/
def maskEffect (o : MaskOp) (ma mb md : MReg3) (v : VEnv) (c : Ctx) : Ctx :=
  let f := ((upFrom 0 v.vl).find? fun i => c.mbit ma i).getD v.vl
  (upFrom v.es (v.vl - v.es)).foldl (fun d i => d.setMbit md i (maskBitOf o (c.mbit ma i) (c.mbit mb i) i f)) c

/-! ## The optimizer step (R80, R158) -/

/-- The hyper-parameters (Table 5.4). -/
structure OptC where
  b1 : FVal
  b1c : FVal
  b2 : FVal
  b2c : FVal
  eps : FVal
  lr : FVal
  c1 : FVal
  c2 : FVal
  wd : FVal
  deriving DecidableEq, Repr

/-- Low and high FP32 halves of a word. -/
def loF (w : Word) : FVal := fp32.decode (w.extractLsb' 0 32).toNat
def hiF (w : Word) : FVal := fp32.decode (w.extractLsb' 32 32).toNat

/-- The hyper-parameters as an entry captured them. -/
def optcOf (u : UCsr) : OptC :=
  ⟨loF u.optc0, hiF u.optc0, loF u.optc1, hiF u.optc1, loF u.optc2, hiF u.optc2, loF u.optc3, hiF u.optc3, loF u.optc4⟩

/-- Round a computed value RNE to FP32 with its flags. -/
def r32 (p : FVal × Flags) : FVal × Flags :=
  let r := fp32.rne p.1
  (fp32.decode r.1, p.2 ||| r.2)

/-- The sequence of R80 on one element: (P1, m1, v1) as FP32 bits, and flags. -/
def momu (k : OptC) (p m v g : FVal) : (Nat × Nat × Nat) × Flags :=
  let a := r32 (fmul k.b1c g)
  let m1 := r32 (ffma .rne a.1 k.b1 m)
  let b0 := r32 (fmul k.b2c g)
  let b := r32 (fmul b0.1 g)
  let v1 := r32 (ffma .rne b.1 k.b2 v)
  let s0 := r32 (fmul v1.1 k.c2)
  let s : FVal := match s0.1 with
    | .nan => .nan
    | .inf t => if t then .fin false 0 0 else .inf false
    | .fin t n e => if t then .fin false 0 0 else .fin t n e
  let q := fsqrt s
  let rt0 := fp32.round rnE false q.1 q.2.1
  let rt := (fp32.decode rt0.1, q.2.2 ||| rt0.2)
  let d := r32 (fadd .rne rt.1 k.eps)
  let n := r32 (fmul m1.1 k.c1)
  let t : FVal × Flags :=
    if d.1.isZero && n.1.isZero then (.fin false 0 0, 0)
    else if d.1.isZero then if n.1.isNan then (.nan, 0) else (.inf n.1.neg?, flOF)
    else
      let z := fdiv n.1 d.1
      let r := fp32.round rnE false z.1 z.2.1
      (fp32.decode r.1, z.2.2 ||| r.2)
  let wp := r32 (fmul k.wd p)
  let w := r32 (fadd .rne t.1 wp.1)
  let lw := r32 (fmul k.lr w.1)
  let p1 := r32 (fadd .rne p lw.1.negate)
  let nan := p1.1.isNan || m1.1.isNan || v1.1.isNan
  (((fp32.rne p1.1).1, (fp32.rne m1.1).1, (fp32.rne v1.1).1),
    a.2 ||| m1.2 ||| b0.2 ||| b.2 ||| v1.2 ||| s0.2 ||| rt.2 ||| d.2 ||| n.2 ||| t.2 ||| wp.2 ||| w.2 ||| lw.2 ||| p1.2
      ||| flagIf nan flNV)

/-- The second and third destinations of `vmomu`: vd + G and vd + 2G. -/
def momuRegs (c : Ctx) (vd : VReg5) : VReg5 × VReg5 :=
  (vd + BitVec.ofNat 5 (groupOf c), vd + BitVec.ofNat 5 (2 * groupOf c))

/-- What `vmomu` needs: vd + 2G at or above NREG is VLOVER. -/
def momuNeed (e : Bool) (vs1 vd : VReg5) (m : MReg3) (c : Ctx) (vl : Nat) : Need :=
  let (r1, r2) := momuRegs c vd
  let dst := [vd, r1, r2]
  let reach := decide (vd.toNat + 2 * groupOf c < nregOf c)
  { early := !reach
    regs := vs1 :: dst
    tagOk := (dst.all fun r => decide (c.ety r = some (.flt fp32))) && (c.ety vs1).any fun s => !s.isInt
    caps := ownCaps c (vs1 :: dst)
    past := false
    reads := chained (vs1 :: dst) vl
    mreads := [m]
    writes := dst
    mwrites := []
    e := e }

/-- What `vmomu` does (R158). -/
def momuEffect (u : UCsr) (vs1 vd : VReg5) (v : VEnv) (c : Ctx) : Ctx :=
  let (r1, r2) := momuRegs c vd
  let k := optcOf u
  let c' := (c.enabled v.m v.es v.vl).foldl (fun d i =>
    let r := momu k (c.fval vd i) (c.fval r1 i) (c.fval r2 i) (c.fval vs1 i)
    (((d.putElem vd 32 i r.1.1).putElem r1 32 i r.1.2.1).putElem r2 32 i r.1.2.2).addFlags r.2) c
  ((c'.fillReg vd).fillReg r1).fillReg r2

end Sys2Proof.Machine
end

