-- ==== Sys2Proof/Machine/VecRun.lean ====
section
/-! DEFINITION. Running a VIQ entry: the outcomes of an execution, the class check at execution (R95, R316), the frame
of checks and effect that every V-space form shares (R120), the entries of the configuration and SYNC groups, and the
binding of each V-space form to its operation. -/

namespace Sys2Proof.Machine

/-- What an execution of a VIQ entry comes to: done; it waits, having changed nothing; a vector fault with its stval
(the instruction word when none is given) and its first unfinished element; a device port. -/
inductive VOut where
  | done (s : State)
  | wait
  | fault (s : State) (cause : BitVec 6) (tval : Option Word) (ves : Nat)
  | port (a : Nat)
  deriving DecidableEq, Repr

/-! ## Classes at execution -/

/-- The Cable class of a tag TYPE (R95). -/
def cableTypeClass (t : Nat) : Option Nat :=
  match t with
  | 8 => some 16
  | 9 => some 17
  | 10 => some 17
  | 11 => some 18
  | 12 => some 18
  | 13 => some 19
  | 1 => some 20
  | 2 => some 20
  | 3 => some 20
  | 4 => some 20
  | _ => none

/-- The width in bits of a tag TYPE, for choosing the wider source. -/
def typeBits (t : Nat) : Nat :=
  match t with
  | 1 => 8
  | 2 => 8
  | 3 => 16
  | 4 => 16
  | 5 => 32
  | 6 => 32
  | 7 => 64
  | 8 => 32
  | 9 => 16
  | 10 => 16
  | 11 => 8
  | 12 => 8
  | 13 => 4
  | _ => 0

/-- SC of a header (R107). -/
def hdrSc (h : BitVec 192) : Bool := h.getLsbD 143

/-- The class of an entry as its tags stand (R95). -/
def entryClass (c : Ctx) (i : Instr) : Option Nat :=
  match (opAttr i).cls with
  | .none => none
  | .fixed k => some k
  | .byTag r int f32 f16 =>
    let t := tagType (c.vr r).tag
    if 1 ≤ t ∧ t ≤ 7 then some int else if t = 8 then some f32 else if t = 9 ∨ t = 10 then some f16 else none
  | .cable z a b =>
    if z then some 21
    else if hdrSc (c.vr a).hdr || hdrSc (c.vr b).hdr then some 23
    else
      let ta := tagType (c.vr a).tag
      let tb := tagType (c.vr b).tag
      cableTypeClass (if typeBits ta < typeBits tb then tb else ta)

/-- The FENCED check of an entry at execution or issue (R316). -/
def entryFenced (s : State) (i : Instr) : Bool := (entryClass s.ctx i).any s.fenced

/-! ## The frame of a V-space execution -/

/-- What an effect reads of its entry. A restarted entry goes on at its first unfinished element (R128). -/
def envOf (s : State) (en : VEntry) (m : MReg3) : VEnv :=
  { x := en.b
    vl := en.csr.vl.toNat
    vxctl := en.csr.vxctl
    es := en.start
    m := m
    draw := s.draws }

/-- One past the last element an execution reads of an elementwise source (R281): the last enabled one below VL. -/
def readBound (en : VEntry) (m : MReg3) (c : Ctx) : Nat :=
  ((c.enabled m en.start en.csr.vl.toNat).getLast?.map fun i => i + 1).getD 0

/-- Check, then perform (R120). -/
def vecRun (en : VEntry) (m : MReg3) (need : Ctx → Nat → Need) (eff : VEnv → Ctx → Ctx) (s : State) : VOut :=
  match needCheck s.ctx en.csr.vl.toNat (need s.ctx (readBound en m s.ctx)) with
  | .wait => .wait
  | .fault cause => .fault s cause none 0
  | .ok => .done { s.setCtx (eff (envOf s en m) s.ctx) with draws := s.draws + en.csr.vl.toNat }

def runBin (o : BinOp) (e : Bool) (vs1 vd : VReg5) (q : Src2) (m : MReg3) (en : VEntry) (s : State) : VOut :=
  vecRun en m (binNeed o e vs1 vd q m) (binEffect o vs1 vd q) s

def runCmp (e : Bool) (vs1 : VReg5) (q : Src2) (m md : MReg3) (cc : BitVec 2) (en : VEntry) (s : State) : VOut :=
  vecRun en m (cmpNeed e vs1 q m md) (cmpEffect cc vs1 q md) s

def runMerge (e : Bool) (vs1 vd : VReg5) (q : Src2) (m : MReg3) (en : VEntry) (s : State) : VOut :=
  vecRun en m (fun c _ => mergeNeed e vs1 vd q m en.start c en.csr.vl.toNat) (mergeEffect vs1 vd q) s

def runUnary (o : UnOp) (e : Bool) (vs1 : VReg5) (m : MReg3) (vd : VReg5) (en : VEntry) (s : State) : VOut :=
  vecRun en m (unaryNeed o e vs1 vd m) (unaryEffect o vs1 vd) s

/-- Forms that move values without computing (R142); cross-lane ones wait for the whole source (R281). -/
def runMove (chain : Bool) (eff : VEnv → Ctx → Ctx) (e : Bool) (vs1 : VReg5) (m : MReg3) (vd : VReg5) (en : VEntry)
    (s : State) : VOut :=
  vecRun en m (fun c vl => unNeed (movable c vd vs1) chain e vs1 vd m c vl) eff s

def runGather (e : Bool) (vs2 vs1 : VReg5) (m : MReg3) (vd : VReg5) (en : VEntry) (s : State) : VOut :=
  vecRun en m (fun c _ => gatherNeed e vs2 vs1 vd m c) (gatherEffect vs2 vs1 vd) s

def runSlideDown (amt : Int) (e : Bool) (vs1 : VReg5) (m : MReg3) (vd : VReg5) (en : VEntry) (s : State) : VOut :=
  runMove false (slideDownEffect amt vs1 vd) e vs1 m vd en s

def runSlideUp (amt : Nat) (e : Bool) (vs1 : VReg5) (m : MReg3) (vd : VReg5) (en : VEntry) (s : State) : VOut :=
  runMove false (slideUpEffect amt vs1 vd) e vs1 m vd en s

def runVid (e : Bool) (m : MReg3) (vd : VReg5) (eff : VEnv → Ctx → Ctx) (en : VEntry) (s : State) : VOut :=
  vecRun en m (fun c _ => vidNeed e vd m c) eff s

def runClass (e : Bool) (vs1 : VReg5) (m : MReg3) (vd : VReg5) (en : VEntry) (s : State) : VOut :=
  vecRun en m (fun c vl => unNeed (classTags c vd vs1) true e vs1 vd m c vl) (classEffect vs1 vd) s

def runCvt (o : CvtOp) (e : Bool) (vs1 : VReg5) (m : MReg3) (vd : VReg5) (en : VEntry) (s : State) : VOut :=
  vecRun en m (fun c vl => unNeed (cvtTags c vd vs1) true e vs1 vd m c vl) (cvtEffect o vs1 vd) s

/-- A write of a scale register waits until every older Cable instruction that reads it has copied its entries
(R167). -/
def qCopying (c : Ctx) (k : Nat) : Bool :=
  c.cable.any fun n => n.srcs.any fun t => !t.copied && decide (tagType t.tag = 13) && decide (tagQs t.tag = k)

/-- A `dout` of any form. -/
def isDout (i : Instr) : Bool :=
  match i with
  | .dout .. | .doutQ .. | .doutA .. | .doutAq .. | .doutB .. | .doutBq .. | .doutBa .. | .doutBaq .. => true
  | _ => false

/-- The register that a `dout.q` drains into. -/
def doutQReg (i : Instr) : Option VReg5 :=
  match i with
  | .doutQ _ _ vd _ | .doutAq _ _ vd _ | .doutBq _ _ vd _ | .doutBaq _ _ vd _ => some vd
  | _ => none

/-- An older `dout.q` still queued writes a scale register (R176, R231). -/
def qWriting (c : Ctx) (k : Nat) : Bool :=
  c.cable.any fun n => (doutQReg n.v.instr).any fun vd =>
    decide (tagType (c.vr vd).tag = 13) && decide (tagQs (c.vr vd).tag = k)

def runQuant (e : Bool) (vs1 : VReg5) (m : MReg3) (vd : VReg5) (en : VEntry) (s : State) : VOut :=
  match vecRun en m (fun c vl => unNeed (quantTags c vd vs1) true e vs1 vd m c vl) (quantEffect vs1 vd) s with
  | .done t => if qCopying s.ctx (tagQs (s.ctx.vr vd).tag) then .wait else .done t
  | .wait => .wait
  | .fault t cause tv ves => .fault t cause tv ves
  | .port a => .port a

def runRed (o : RedOp) (e : Bool) (vs1 : VReg5) (m : MReg3) (vd : VReg5) (en : VEntry) (s : State) : VOut :=
  vecRun en m (redNeed o e vs1 vd m) (redEffect o vs1 vd) s

def runMask (o : MaskOp) (e : Bool) (ma mb md : MReg3) (srcs : List MReg3) (en : VEntry) (s : State) : VOut :=
  vecRun en 0 (fun _ _ => maskNeed e srcs md) (maskEffect o ma mb md) s

def runMomu (e : Bool) (vs1 : VReg5) (m : MReg3) (vd : VReg5) (en : VEntry) (s : State) : VOut :=
  vecRun en m (momuNeed e vs1 vd m) (momuEffect en.csr vs1 vd) s

/-! ## Entries of the configuration group -/

/-- `vtag` (R123): the registers named are vd, vd + G, … -/
def vtagRegs (c : Ctx) (vd : VReg5) (x : Word) : List Nat :=
  (upFrom 0 ((x.extractLsb' 8 5).toNat + 1)).map fun j => vd.toNat + j * groupOf c

def runVtag (vd : VReg5) (en : VEntry) (s : State) : VOut :=
  let c := s.ctx
  let t : Byte := en.a.extractLsb' 0 8
  let rs := vtagRegs c vd en.a
  if !(rs.all fun n => decide (n < 32) && c.vrOk (BitVec.ofNat 5 n)) then .fault s cVlover none 0
  else if 14 ≤ tagType t || (decide (tagType t = 13) && decide (tagBl t = 3)) then .fault s cTag none 0
  else if rs.any fun n => c.dstWaits (BitVec.ofNat 5 n) then .wait
  else .done (s.setCtx (rs.foldl (fun d n => d.mapVr (BitVec.ofNat 5 n) fun v => { v with tag := t }) c))

/-- Header fields (R107). -/
def hdrOff (h : BitVec 192) : BitVec 32 := h.extractLsb' 0 32
def hdrAnc (h : BitVec 192) : BitVec 32 := h.extractLsb' 32 32
def hdrLen (h : BitVec 192) : BitVec 32 := h.extractLsb' 64 32
def hdrTs (h : BitVec 192) : BitVec 32 := h.extractLsb' 96 32
def hdrRowp (h : BitVec 192) : BitVec 5 := h.extractLsb' 128 5
def hdrColp (h : BitVec 192) : BitVec 5 := h.extractLsb' 133 5

/-- A header from its fields, reserved bits 0. -/
def mkHdr (off anc len ts : BitVec 32) (rowp colp : BitVec 5) (sc : Bool) : BitVec 192 :=
  0#48 ++ BitVec.ofBool sc ++ 0#5 ++ colp ++ rowp ++ ts ++ len ++ anc ++ off

/-- Change a header in VIQ order, whatever the register's state (R161). -/
def runHeader (vd : VReg5) (f : BitVec 192 → Option (BitVec 192)) (s : State) : VOut :=
  if !s.ctx.vrOk vd then .fault s cVlover none 0
  else match f (s.ctx.vr vd).hdr with
    | none => .fault s cOffset none 0
    | some h => .done (s.setCtx (s.ctx.mapVr vd fun v => { v with hdr := h }))

/-- `dset`: OFF, ANC and LEN, the LEN from the captured VL. -/
def dsetHdr (en : VEntry) (h : BitVec 192) : BitVec 192 :=
  mkHdr (lo32 en.a) (lo32 en.b) (lo32 en.csr.vl) (hdrTs h) (hdrRowp h) (hdrColp h) (hdrSc h)

/-- `dflip`: the transposed view, none where it traps OFFSET. -/
def dflipHdr (h : BitVec 192) : Option (BitVec 192) :=
  let off := (hdrOff h).toInt
  let row := (hdrAnc h).toNat + off
  if row < 0 ∨ 2 ^ 32 ≤ row ∨ off = -(2 ^ 31) then none
  else some (mkHdr (BitVec.ofInt 32 (-off)) (BitVec.ofInt 32 row) (hdrLen h) (hdrTs h) (hdrColp h) (hdrRowp h) (hdrSc h))

/-- `dscale`: TS, ROWP, COLP and SC. -/
def dscaleHdr (en : VEntry) (h : BitVec 192) : BitVec 192 :=
  mkHdr (hdrOff h) (hdrAnc h) (hdrLen h) (lo32 en.a) (en.b.extractLsb' 0 5) (en.b.extractLsb' 5 5) (en.b.getLsbD 15)

/-! ## Entries of the SYNC group -/

/-- The value `vxget` places (R136). -/
def vxgetValue (ty : ETy) (bits : Nat) : Word :=
  match ty with
  | .int t => BitVec.ofInt 64 (t.val bits)
  | .flt _ | .hx4 => BitVec.ofNat 64 bits

/-- Give the SRQ entry of a `vxget` its value. -/
def Ctx.srqPut (c : Ctx) (id : Nat) (v : Word) : Ctx :=
  { c with srq := updFirst (fun e => decide (e.src = id)) (fun e => { e with val := some v }) c.srq }

/-- `vxget` (R136). -/
def runVxget (e : Bool) (vs : VReg5) (en : VEntry) (s : State) : VOut :=
  let c := s.ctx
  if !c.vrOk vs then .fault s cVlover none 0
  else match c.ety vs with
    | none => .fault s cTag none 0
    | some ty =>
      if capBits c ty.bits ≤ en.b.toNat then .fault s cVlover none 0
      else if c.srcTraps e ⟨vs, some (en.b.toNat + 1)⟩ then .fault s cEmpty none 0
      else if c.srcWaits ⟨vs, some (en.b.toNat + 1)⟩ then .wait
      else .done (s.setCtx (c.srqPut en.id (vxgetValue ty (rawAt (c.vr vs).data ty.bits en.b.toNat))))

/-- `vxput` (R137). -/
def runVxput (vd : VReg5) (en : VEntry) (s : State) : VOut :=
  let c := s.ctx
  if !c.vrOk vd then .fault s cVlover none 0
  else match c.ety vd with
    | none => .fault s cTag none 0
    | some ty =>
      if capBits c ty.bits ≤ en.b.toNat then .fault s cVlover none 0
      else if c.dstWaits vd then .wait
      else .done (s.setCtx ((c.putElem vd ty.bits en.b.toNat (en.a.toNat % 2 ^ ty.bits)).fillReg vd))

/-- SRQ delivery (R136): in program order, each produced value into its xd. -/
def Ctx.srqDeliver (c : Ctx) : Ctx :=
  match c.srq with
  | ⟨xd, _, some v⟩ :: t => { (c.setX xd v) with srq := t }
  | ⟨_, _, none⟩ :: _ => c
  | [] => c

end Sys2Proof.Machine
end

