-- ==== Sys2Proof/Machine/Teller.lean ====
section
/-! DEFINITION. What a Teller executes: atomics (R241, R244 to R246), in-place commands (R247 to R250), purses and
arrivals (R322 to R327), barriers (R328, R329), level waits and cancels (R330, R331), and the steps of a bank that
other agents ask for. -/

namespace Sys2Proof.Machine

/-! ## Words and releases -/

/-- A Commons-window word an instruction names, by alignment, partition, mailbox and counter block (R252, R333, R388), once
no `qfence` holds it behind a store (R261) and the older scalar accesses of its bank are performed (R242). -/
def tellerPlace (va : Word) (align n : Nat) : M Nat := do
  let s ← get
  if barred s then throw .stall
  match commonsWord s s.pidx (dataPriv s) va align n with
  | some a =>
    if inCounterBlock s a then trapM cTeller va
    else
      let l : Loc := .phys a kindRC none
      let t := orderFor true true l n s
      if mustWait true true l n t then throw .stall
      set t
      return a
  | none => trapM cTeller va

/-- The poison check of a Teller operation: its trap value is xs1. -/
def tellerPoison (va : Word) (a n : Nat) : M Unit := do
  let s ← get
  let r := scrubRead s a n
  set r.2
  if r.1 then trapM cPoison va else return ()

/-- A word a Teller operation names, checked. -/
def tellerAddr (va : Word) (align n : Nat) : M Nat := do
  let a ← tellerPlace va align n
  tellerPoison va a n
  return a

/-- A Teller's write on behalf of the thread whose turn it is, in the thread's colour; a bit that is not software's to write
stays (R29). -/
def threadWrite (s : State) (a : Nat) (bs : List Byte) : State :=
  physWrite s s.pidx (colourNew s s.pidx s.ctx) (.agent (dataPriv s)) none a bs

/-- A release at chip scope (R265): older scalar and VIQ accesses, on any page kind, are performed first. Entries frozen
under a handler cannot be performed before its return (R272), and are not waited for. -/
def releaseM : M Unit := do
  let s ← get
  if s.ctx.viq.any memEntry then throw .stall
  let t := flushHeld s
  if t.core.priv = .user ∧ t.heldStores.any (Held.mine t) = true then throw .stall
  set t

/-- The result that a released wait of the instruction at the pc already has (R243). -/
def releasedNow (s : State) : Option Word :=
  match s.core.priv, s.core.strand with
  | .user, some r => ((findLaunch s s.pidx r.launch).bind fun l => findStrand l r.stage r.idx).bind fun t =>
      t.released.bind fun p => if p.1 = s.ctx.pc then some p.2 else none
  | .user, none | .supervisor, _ | .machine, _ => s.core.hwait.bind fun w =>
      if w.priv = s.core.priv ∧ w.pc = s.ctx.pc then w.got else none

/-- Start of an instruction that may wait: a BLOCKED strand whose instruction runs again is RUNNING (R37). Answers the
result of its wait where a request has already released it (R243). -/
def resumeM : M (Option Word) := do
  let s ← get
  set s.unblock
  return releasedNow s

/-- A wait's result goes to xd. -/
def resumeWith (rd : XReg) (r : Option Word) (go : M Unit) : M Unit :=
  match r with
  | some v => modify fun t => retire (t.setX rd v)
  | none => go

/-! ## Atomics (Table 11.2) -/

/-- Bytes of an atomic's width code. -/
def atomicBytes (w : BitVec 2) : Nat := if w = 1 then 8 else 4

/-- A float atomic on raw bits (R245). -/
def fltAtomic (op : Nat) (f : FFmt) (old b : Nat) : Nat :=
  let x := f.decode old
  let y := f.decode b
  match op with
  | 0 => (f.rne (fadd .rne x y).1).1
  | 1 => if x.isNan || y.isNan then f.nanBits else (f.rne (fminSel x y)).1
  | _ => if x.isNan || y.isNan then f.nanBits else (f.rne (fmaxSel x y)).1

/-- An integer atomic of w bits. -/
def intAtomic (op w : Nat) (signed : Bool) (old b : Nat) : Nat :=
  let t : IntTy := ⟨w, signed⟩
  match op with
  | 0 => (old + b) % 2 ^ w
  | 1 => if t.val old ≤ t.val b then old else b
  | _ => if t.val old ≤ t.val b then b else old

/-- The new word of Table 11.2. -/
def tellerNew (op : Nat) (w : BitVec 2) (old b expected : Nat) : Nat :=
  match op with
  | 3 => old &&& b
  | 4 => old ||| b
  | 5 => b
  | 6 => if old = expected then b else old
  | _ =>
    if w = 0 then intAtomic op 32 true old b
    else if w = 1 then intAtomic op 64 true old b
    else if w = 2 then fltAtomic op fp32 old b
    else fltAtomic op bf16 (old % 65536) (b % 65536) + 65536 * fltAtomic op bf16 (old / 65536) (b / 65536)

/-- The register value of an old word (R244). -/
def atomicResult (w : BitVec 2) (old : Nat) : Word :=
  if w = 0 then sext32 (BitVec.ofNat 32 old) else BitVec.ofNat 64 old

/-- One indivisible atomic at a bank (R241): the old word. -/
def bankAtomic (a n : Nat) (f : Nat → Nat) : M Nat := do
  let s ← get
  let old := getLe s.mem a n
  set (threadWrite s a (natBytes n (f old)))
  return old

/-- A scalar Teller atomic (R244 to R246). -/
def tellerAtomic (i : Instr) (op : Nat) (w : BitVec 2) (rs2 rs1 rd : XReg) (s : State) : Host.Outcome State Fault Refusal :=
  guarded i s fun s =>
    runM (withLevels do
      let va := s.x rs1
      let n := atomicBytes w
      if va.toNat % n ≠ 0 then trapM cMisStore va
      let a ← tellerAddr va n n
      let m := 2 ^ (8 * n)
      let old ← bankAtomic a n fun o => tellerNew op w o ((s.x rs2).toNat % m) ((s.x rd).toNat % m)
      modify fun t => retire (t.setX rd (atomicResult w old))) s

/-- TADD (R244). -/
def execTadd (w : BitVec 2) (rs2 rs1 rd : XReg) (s : State) : Host.Outcome State Fault Refusal :=
  tellerAtomic (.tadd w rs2 rs1 rd) 0 w rs2 rs1 rd s
/-- TMIN (R244). -/
def execTmin (w : BitVec 2) (rs2 rs1 rd : XReg) (s : State) : Host.Outcome State Fault Refusal :=
  tellerAtomic (.tmin w rs2 rs1 rd) 1 w rs2 rs1 rd s
/-- TMAX (R244). -/
def execTmax (w : BitVec 2) (rs2 rs1 rd : XReg) (s : State) : Host.Outcome State Fault Refusal :=
  tellerAtomic (.tmax w rs2 rs1 rd) 2 w rs2 rs1 rd s
/-- TAND (R244). -/
def execTand (w : BitVec 2) (rs2 rs1 rd : XReg) (s : State) : Host.Outcome State Fault Refusal :=
  tellerAtomic (.tand w rs2 rs1 rd) 3 w rs2 rs1 rd s
/-- TOR (R244). -/
def execTor (w : BitVec 2) (rs2 rs1 rd : XReg) (s : State) : Host.Outcome State Fault Refusal :=
  tellerAtomic (.tor w rs2 rs1 rd) 4 w rs2 rs1 rd s
/-- TXCHG (R244). -/
def execTxchg (w : BitVec 2) (rs2 rs1 rd : XReg) (s : State) : Host.Outcome State Fault Refusal :=
  tellerAtomic (.txchg w rs2 rs1 rd) 5 w rs2 rs1 rd s
/-- TCAS (R244): xd supplies the expected value. -/
def execTcas (w : BitVec 2) (rs2 rs1 rd : XReg) (s : State) : Host.Outcome State Fault Refusal :=
  tellerAtomic (.tcas w rs2 rs1 rd) 6 w rs2 rs1 rd s

/-! ## Purses (R322 to R327) -/

/-- The window address of a Commons physical address. -/
def windowVa (a : Nat) : Word := BitVec.ofNat 64 (a - Config.commonsBase + Config.windowBase)

/-- BAL of a purse word as a signed number. -/
def purseBal (w : Word) : Int := (w.extractLsb' 0 32).toInt

/-- A purse word from its fields; the reserved bits read 0 (R29, R322). -/
def mkPurse (bal : Int) (ovd err trp : Bool) : Word :=
  putBit (putBit (putBit ((BitVec.ofInt 32 bal).setWidth 64) 32 ovd) 33 err) 34 trp

/-- What an arrival makes of a purse word (R323). -/
def arrived (w : Word) (n : Nat) (err : Bool) : Word :=
  let bal := max (-(2 ^ 31)) (purseBal w - n)
  mkPurse bal (w.getLsbD 32 || decide (bal < 0)) (w.getLsbD 33 || err) (w.getLsbD 34)

/-- The live or saved context of a strand, updated. -/
def State.mapOwner (s : State) (k : Nat) (r : SRef) (f : Ctx → Ctx) : State :=
  match (findLaunch s k r.launch).bind fun l => findStrand l r.stage r.idx with
  | none => s
  | some t =>
    match t.core with
    | some n => s.mapCoreAt n fun c => { c with ctx := f c.ctx }
    | none => s.mapStrand k r fun t => { t with saved := t.saved.map f }

/-- A strand has exited, or is no strand of the partition. -/
def strandGone (s : State) (k : Nat) (r : SRef) : Bool :=
  match (findLaunch s k r.launch).bind fun l => findStrand l r.stage r.idx with
  | none => true
  | some t => decide (t.st = .exited)

/-- An overdraft of an operation of an owner (R324): pending on the strand, or an event when it has exited. -/
def raiseOverdraft (s : State) (k : Nat) (owner : Option SRef) (va : Word) : State :=
  match owner with
  | none => raiseEvent s k 0 0x0007 va 0
  | some r =>
    if strandGone s k r then raiseEvent s k 0 0x0007 va 0
    else s.mapOwner k r fun c => { c with overdraft := match c.overdraft with
      | some v => some v
      | none => some va }

/-- An arrival at the purse at a physical address (R323, R324). A poisoned purse stays poisoned: the withdrawal goes
into its raw data. -/
def arrive (s : State) (k a n : Nat) (err : Bool) (owner : Option SRef) (new : Bool) : State :=
  let w : Word := BitVec.ofNat 64 (getLe s.mem a 8)
  let w' := arrived w n err
  let t := physBytes s k new .device none a (natBytes 8 w'.toNat)
  if !w.getLsbD 32 && w'.getLsbD 32 && w.getLsbD 34 then raiseOverdraft t k owner (windowVa a) else t

/-- A purse named through the purse table (R276 step 2, R115): its physical address. `tv` gives the trap value of a
failed check, from the failing address. -/
def purseOf (pr : Priv) (pbase : Word) (p : Nat) (tv : Word → Word) : M Nat := do
  let s ← get
  let ent := pbase + BitVec.ofNat 64 (8 * p)
  match commonsWord s s.pidx pr ent 8 8 with
  | none => trapM cTeller (tv ent)
  | some e =>
    let bs ← readLoc (.phys e kindRC none) 8 (tv ent)
    let t ← get
    match commonsWord t t.pidx pr (leWord bs) 8 8 with
    | none => trapM cTeller (tv (leWord bs))
    | some a => if inCounterBlock t a then trapM cTeller (tv (leWord bs)) else return a

/-- The result layout of `pwait` and `ptest` (R326). -/
def purseResult (w : Word) (rdy : Bool) : Word :=
  (w.extractLsb' 0 32).setWidth 64 <<< 32 ||| boolWord rdy <<< 2 ||| boolWord (w.getLsbD 33) <<< 1 ||| boolWord (w.getLsbD 32)

/-- PSET (R325, R327). -/
def execPset (rs2 rs1 : XReg) (s : State) : Host.Outcome State Fault Refusal :=
  guarded (.pset rs2 rs1) s fun s =>
    runM (withLevels do
      let va := s.x rs1
      let d := s.x rs2
      let a ← tellerPlace va 8 8
      if d.extractLsb' 34 30 ≠ 0 ∨ d.getLsbD 31 = true then trapM cTeller d
      tellerPoison va a 8
      let t ← get
      let w : Word := BitVec.ofNat 64 (getLe t.mem a 8)
      let clr := d.getLsbD 32
      let bal := min (purseBal w + (d.extractLsb' 0 31).toNat) (2 ^ 31 - 1)
      let w' := mkPurse bal (w.getLsbD 32 && !clr) (w.getLsbD 33 && !clr) (d.getLsbD 33)
      set (retire (threadWrite t a (natBytes 8 w'.toNat)))) s

/-- PWAIT (R326): waits until BAL ≤ 0, then acquires. -/
def execPwait (rs1 rd : XReg) (s : State) : Host.Outcome State Fault Refusal :=
  guarded (.pwait rs1 rd) s fun s =>
    runM (do
      let r ← resumeM
      let va := s.x rs1
      resumeWith rd r do
        let a ← tellerAddr va 8 8
        let t ← get
        let w : Word := BitVec.ofNat 64 (getLe t.mem a 8)
        if purseBal w ≤ 0 then set (retire (t.setX rd (purseResult w true)))
        else throw (.block va .purse)) s

/-- PTEST (R326): never waits. -/
def execPtest (rs1 rd : XReg) (s : State) : Host.Outcome State Fault Refusal :=
  guarded (.ptest rs1 rd) s fun s =>
    runM (do
      let a ← tellerAddr (s.x rs1) 8 8
      let t ← get
      let w : Word := BitVec.ofNat 64 (getLe t.mem a 8)
      set (retire (t.setX rd (purseResult w (decide (purseBal w ≤ 0)))))) s

/-- OVERDRAFT (R324, R365): the pending trap is taken at a U-mode boundary; the instruction there has not executed. -/
def takeOverdraft (s : State) : State :=
  match s.ctx.overdraft with
  | some va => enterTrap (s.narrow.mapCtx fun c => { c with overdraft := none }) false cOverdraft va
  | none => s

/-! ## Barriers (R328, R329) -/

/-- The barrier word after an arrival with N parties. -/
def barArrive (w : Word) (n : Nat) : Word :=
  let arr := (w.extractLsb' 0 32).toNat
  let gen := w.extractLsb' 32 32
  if n ≤ arr + 1 then ((gen + 1).setWidth 64 <<< 32)
  else (gen.setWidth 64 <<< 32) ||| BitVec.ofNat 64 (arr + 1)

/-- GEN of a barrier word. -/
def barGenOf (w : Word) : BitVec 32 := w.extractLsb' 32 32

/-- BAR (R329): the arrival is made once; the wait resumes on the generation it found. -/
def execBar (rs2 rs1 rd : XReg) (s : State) : Host.Outcome State Fault Refusal :=
  guarded (.bar rs2 rs1 rd) s fun s =>
    runM (withLevels do
      let r ← resumeM
      let va := s.x rs1
      let n := s.x rs2
      let a ← tellerPlace va 8 8
      if n.extractLsb' 0 32 = 0 ∨ n.extractLsb' 32 32 ≠ 0 then trapM cTeller n
      tellerPoison va a 8
      let fresh := match s.ctx.barGen with
        | some p => decide (p.1 ≠ s.ctx.pc)
        | none => true
      if fresh then
        releaseM
        let t ← get
        let w : Word := BitVec.ofNat 64 (getLe t.mem a 8)
        let t := t.mapCtx fun c => { c with barGen := some (c.pc, barGenOf w) }
        set (threadWrite t a (natBytes 8 (barArrive w n.toNat).toNat))
      let t ← get
      let w : Word := BitVec.ofNat 64 (getLe t.mem a 8)
      match t.ctx.barGen with
      | some p =>
        if r.isNone && decide (barGenOf w = p.2) then throw (.block va (.barrier p.2))
        else
          let t := t.mapCtx fun c => { c with barGen := none }
          set (retire (t.setX rd (r.getD ((barGenOf w).setWidth 64))))
      | none => throw (.block va (.barrier (barGenOf w)))) s

/-! ## Level counters (R330, R331) -/

/-- LVLWAIT (R330). -/
def execLvlwait (rs1 rd : XReg) (s : State) : Host.Outcome State Fault Refusal :=
  guarded (.lvlwait rs1 rd) s fun s =>
    runM (do
      let r ← resumeM
      let va := s.x rs1
      resumeWith rd r do
        let a ← tellerAddr va 16 16
        let t ← get
        if levelOut t a = 0 then set (retire (t.setX rd (BitVec.ofNat 64 (levelCounter t a))))
        else throw (.block va .level)) s

/-- LVLCANCEL (R331). -/
def execLvlcancel (rs1 : XReg) (s : State) : Host.Outcome State Fault Refusal :=
  guarded (.lvlcancel rs1) s fun s =>
    runM (do
      let va := s.x rs1
      let _ ← tellerAddr va 16 16
      modify fun t => retire (cancelLevel t t.pidx va)) s

/-! ## In-place commands (R247 to R250) -/

/-- An element type a command may name: any tag but NONE, HX4 and the reserved ones. -/
def cmdTy (code : Nat) : Option ETy :=
  match etyOf (BitVec.ofNat 8 code) with
  | some .hx4 => none
  | some (.int t) => some (.int t)
  | some (.flt f) => some (.flt f)
  | none => none

/-- A command word's fields. -/
structure Tcmd where
  cmd : Nat
  sfmt : Nat
  dfmt : Nat
  count : Nat
  arg : Nat
  deriving DecidableEq, Repr

def tcmdOf (w : Word) : Tcmd :=
  ⟨(w.extractLsb' 60 4).toNat, (w.extractLsb' 56 4).toNat, (w.extractLsb' 52 4).toNat, (w.extractLsb' 32 20).toNat,
    (w.extractLsb' 0 32).toNat⟩

/-- A wide float: FP32, FP16, BF16. -/
def wideFlt (code : Nat) : Bool := (cmdTy code).any ETy.isArith

/-- A narrow format of QUANT and DEQUANT: E4M3, E5M2, INT8. -/
def narrowFmt (code : Nat) : Bool := decide (code = 11) || decide (code = 12) || decide (code = 1)

/-- The formats of Table 11.3. -/
def Tcmd.legal (t : Tcmd) : Bool :=
  match t.cmd with
  | 0 | 1 => (cmdTy t.sfmt).isSome && decide (t.dfmt = 0)
  | 2 => wideFlt t.sfmt && decide (t.dfmt = 0)
  | 3 => wideFlt t.sfmt && narrowFmt t.dfmt
  | 4 => narrowFmt t.sfmt && wideFlt t.dfmt
  | 5 => (cmdTy t.sfmt).isSome && (cmdTy t.dfmt).isSome
  | 6 => decide (t.sfmt = 0) && decide (t.dfmt = 0)
  | _ => false

/-- Byte width of a tag code, 0 for 0. -/
def codeBytes (code : Nat) : Nat := ((cmdTy code).map fun t => t.bits / 8).getD 0

/-- Width of a destination element: DFMT, or SFMT where DFMT is 0. -/
def Tcmd.dbytes (t : Tcmd) : Nat := if t.dfmt = 0 then codeBytes t.sfmt else codeBytes t.dfmt

/-- The bytes a command withdraws (R249): the destination bytes written. -/
def Tcmd.bytes (t : Tcmd) : Nat :=
  if t.count = 0 then 0
  else if t.cmd = 6 then (t.arg + t.count + 7) / 8 - t.arg / 8 else t.count * t.dbytes

/-- First byte from xs1 that a command touches, and how many bytes. -/
def Tcmd.first (t : Tcmd) : Nat := if t.cmd = 6 then t.arg / 8 else 0
def Tcmd.span (t : Tcmd) : Nat := if t.cmd = 6 then t.bytes else t.count * max (codeBytes t.sfmt) t.dbytes

/-- The bytes a command reads from its first byte on. -/
def Tcmd.sourceBytes (t : Tcmd) : Nat := if t.cmd = 6 then t.bytes else t.count * codeBytes t.sfmt

/-- The new bits of a destination element (Table 11.3). -/
def Tcmd.elem (t : Tcmd) (bits : Nat) : Nat :=
  let x := fp32.decode t.arg
  match t.cmd, cmdTy t.sfmt, cmdTy t.dfmt with
  | 0, _, _ => 0
  | 1, some s, _ => if s.bits = 64 then (IntTy.mk 64 true).bits ((IntTy.mk 32 true).val t.arg) else t.arg % 2 ^ s.bits
  | 2, some (.flt f), _ => (f.rne (fmul (f.decode bits) x).1).1
  | 3, some s, some (.flt g) => (g.round rnE true (fmul (fltOf s 0 bits) x).1 false).1
  | 3, some s, some (.int i) => (i.ofFloat rnE (fmul (fltOf s 0 bits) x).1).1
  | 4, some s, some (.flt g) => (g.rne (fmul (fltOf s 0 bits) x).1).1
  | 5, some s, some d => (cvtBits d s rnE false bits (intOf s bits) (fltOf s 0 bits)).1
  | _, _, _ => 0

/-- Bits lo to hi − 1 of a byte cleared. -/
def clearBits (b : Byte) (lo hi : Nat) : Byte :=
  BitVec.ofNat 8 ((upFrom 0 8).foldl (fun acc i => if b.getLsbD i && !(decide (lo ≤ i) && decide (i < hi)) then acc + 2 ^ i else acc) 0)

/-- What a command writes, element by element, from memory as it stands (R248): the orders of Table 11.3 make every
source be read before its bytes are overwritten. -/
def tcmdWrites (s : State) (a : Nat) (t : Tcmd) : List ElemWrite :=
  if t.cmd = 6 then
    (upFrom (t.arg / 8) t.bytes).map fun j =>
      { loc := .phys (a + j) kindRC none
        bytes := [clearBits (getByte s.mem (a + j)) (t.arg - 8 * j) (t.arg + t.count - 8 * j)]
        poison := (scrubRead s (a + j) 1).1 }
  else
    let sw := codeBytes t.sfmt
    (upFrom 0 t.count).map fun i =>
      { loc := .phys (a + i * t.dbytes) kindRC none
        bytes := natBytes t.dbytes (t.elem (getLe s.mem (a + i * sw) sw))
        poison := decide (2 ≤ t.cmd) && (scrubRead s (a + i * sw) sw).1 }

/-- Carry out a command and withdraw from its purse (R249): a poisoned source is one engine error. -/
def tcmdRun (s : State) (o : TcmdOp) (a : Nat) (t : Tcmd) : State :=
  let new := newColour s o.part o.colour
  let s := if 2 ≤ t.cmd then (scrubRead s (a + t.first) t.sourceBytes).2 else s
  let ws := tcmdWrites s a t
  let err := ws.any fun w => w.poison
  let s := performWrites s ⟨o.part, o.owner, o.colour, none⟩ (.agent o.priv) o.core ws
  let s := if err then bump s o.part ctrCpyErr 1 else s
  arrive s o.part o.purse o.bytes err o.owner new

/-- Commands a strand, or a core without one, has outstanding (R249). -/
def tcmdHeld (s : State) : Nat :=
  (s.tcmds.filter fun o => decide (o.part = s.pidx) && (match s.core.strand with
    | some r => decide (o.owner = some r)
    | none => o.owner.isNone && decide (o.core = s.core.id))).length

/-- Every byte of a run lies in a partition's Commons, none in a place an operation may not use (R211, R239, R333); a run
of no byte is in no such place. -/
def commonsRun (s : State) (k : Nat) (p : Priv) (o n : Nat) : Bool :=
  decide (n = 0) || (decide (o + n ≤ Config.commonsBytes)
    && ((upFrom (o / 4096) ((o + n - 1) / 4096 - o / 4096 + 1)).all fun u =>
      decide (u % 1024 / (1024 / s.nparts) = k))
    && !(decide (p = .user) && decide (mailboxOff s k < o + n) && decide (o < mailboxOff s k + 256))
    && !(decide (counterBlock s k < o + n) && decide (o < counterBlock s k + 4096)))

/-- Held scalar stores of the strand to the Commons, which a `tcmd` has performed before it issues (R249). -/
def commonsHeld (s : State) (h : Held) : Bool :=
  h.mine s && h.scalar && (locKeyOf h.loc).any isCommons

/-- TCMD (R247 to R249). -/
def execTcmd (rs2 rs1 : XReg) (p : BitVec 5) (s : State) : Host.Outcome State Fault Refusal :=
  guarded (.tcmd rs2 rs1 p) s fun s =>
    runM (do
      if barred s then throw .stall
      let va := s.x rs1
      let w := s.x rs2
      let t := tcmdOf w
      let o := va.toNat - Config.windowBase
      let al := if t.cmd = 6 then 8 else max (codeBytes t.sfmt) t.dbytes
      if t.legal = false then trapM cTeller va
      if va.toNat % al ≠ 0 then trapM cTeller va
      if t.span ≠ 0 ∧ (va.toNat < Config.windowBase ∨ commonsRun s s.pidx (dataPriv s) (o + t.first) t.span = false) then
        trapM cTeller va
      let purse ← purseOf (dataPriv s) s.ctx.u.pbase p.toNat fun _ => va
      let u ← get
      if 16 ≤ tcmdHeld u then throw .stall
      let u := flushWhere (commonsHeld u) u
      if u.heldStores.any (commonsHeld u) then throw .stall
      let op : TcmdOp :=
        { part := u.pidx
          owner := u.core.strand
          colour := u.ctx.snapCol
          core := u.core.id
          priv := dataPriv u
          cmd := t.cmd
          fields := [BitVec.ofNat 64 (Config.commonsBase + o), w]
          purse := purse
          bytes := t.bytes }
      if u.lag && decide (t.count ≠ 0) then set (retire { u with tcmds := u.tcmds ++ [op] })
      else set (retire (tcmdRun u op (Config.commonsBase + o) t))) s

/-- TCMD_COMPLETE (R249): the command at a position of the outstanding ones finishes. -/
def execTcmdComplete (pos : Nat) (s : State) : Host.Outcome State Fault Refusal :=
  match s.tcmds[pos]? with
  | none => .next s
  | some o =>
    let t := { s with tcmds := s.tcmds.eraseIdx pos }
    .next (tcmdRun t o (o.fields.getD 0 0).toNat (tcmdOf (o.fields.getD 1 0)))

/-! ## Steps of a bank for other agents -/

/-- A run of bytes cut at the 4 KiB boundaries between banks. -/
def bankPieces : Nat → Nat → List Byte → List (Nat × List Byte)
  | 0, _, _ => []
  | n + 1, off, bs =>
    if bs.isEmpty then []
    else
      let m := 4096 - off % 4096
      (off, bs.take m) :: bankPieces n (off + m) (bs.drop m)

/-- The partition that owns a Commons offset (R239). -/
def bankPart (s : State) (off : Nat) : Nat := off / 4096 % 1024 / (1024 / s.nparts)

/-- An agent's store to physical memory, 4 KiB unit by unit: a run that spans banks is one request to each (R240). -/
def agentStores (s : State) (w : Writer) (a : Nat) (bytes : List Byte) : State :=
  levelHook s ((bankPieces (bytes.length / 4096 + 2) a bytes).foldl (fun t p => physWrite t (ownerOf t p.1) true w none p.1 p.2) s)

/-- TELLER_REQUEST (R241): a bank performs one request of an agent other than a scalar thread, in its bank order. -/
def execTellerRequest (req : BankReq) (s : State) : Host.Outcome State Fault Refusal :=
  match req with
  | .store off bytes =>
    if off + bytes.length ≤ Config.commonsBytes then
      .next (agentStores s (.agent .supervisor) (Config.commonsBase + off) bytes)
    else .next s
  | .atomic op w off val expected =>
    let n := atomicBytes w
    let a := Config.commonsBase + off
    let k := bankPart s off
    if off % n = 0 ∧ off + n ≤ Config.commonsBytes ∧ inCounterBlock s a = false ∧ (scrubRead s a n).1 = false then
      let m := 2 ^ (8 * n)
      let v := tellerNew op.toNat w (getLe s.mem a n) (val.toNat % m) (expected.toNat % m)
      .next (levelHook s (physWrite s k true .device none a (natBytes n v)))
    else .next s
  | .arrival off bytes err =>
    if off % 8 = 0 ∧ off + 8 ≤ Config.commonsBytes ∧ inCounterBlock s (Config.commonsBase + off) = false then
      .next (arrive s (bankPart s off) (Config.commonsBase + off) bytes err none true)
    else .next s

/-- TELLER_REMAP (R253): the operation is done again from the bank's stored word; only the count shows. -/
def execTellerRemap (bank : Nat) (s : State) : Host.Outcome State Fault Refusal :=
  if bank < 1024 then .next { bump s (bank / (1024 / s.nparts)) ctrRemap 1 with remapped := addNew s.remapped bank }
  else .next s

end Sys2Proof.Machine
end

