-- ==== Sys2Proof/Machine/Rings.lean ====
section
/-! DEFINITION. Rings (R292 to R296) and posting a launch record (R287, R291). -/

namespace Sys2Proof.Machine

/-! ## Ring headers (Table 14.3) -/

/-- A ring header's fields. -/
structure Ring where
  base : Nat
  closed : Bool
  rsv : Nat
  prod : Nat
  count : Nat
  sb : Nat
  filled : Nat
  free : Nat
  put : Nat
  pub : Nat
  get : Nat
  rel : Nat
  deriving DecidableEq, Repr

/-- Read the header at a physical address. -/
def ringAt (s : State) (a : Nat) : Ring where
  base := getLe s.mem a 8 / 64 * 64
  sb := getLe s.mem (a + 8) 2
  count := getLe s.mem (a + 10) 2
  prod := getLe s.mem (a + 12) 2
  rsv := getLe s.mem (a + 14) 2 % 32768
  closed := decide (32768 ≤ getLe s.mem (a + 14) 2)
  free := getLe s.mem (a + 16) 4
  filled := getLe s.mem (a + 20) 4
  rel := getLe s.mem (a + 24) 2
  get := getLe s.mem (a + 26) 2
  pub := getLe s.mem (a + 28) 2
  put := getLe s.mem (a + 30) 2

/-- The bytes +8 to +31 of a header. -/
def Ring.bytes (r : Ring) : List Byte :=
  natBytes 2 r.sb ++ natBytes 2 r.count ++ natBytes 2 r.prod ++ natBytes 2 (r.rsv + if r.closed then 32768 else 0)
    ++ natBytes 4 r.free ++ natBytes 4 r.filled ++ natBytes 2 r.rel ++ natBytes 2 r.get ++ natBytes 2 r.pub
    ++ natBytes 2 r.put

/-- Slots acquired and not yet released (R292). -/
def Ring.held (r : Ring) : Nat := r.count - r.free - r.filled - r.rsv

/-- A valid header (R292) whose slots an access at a privilege may reach (R388). -/
def ringValid (s : State) (k : Nat) (p : Priv) (r : Ring) : Bool :=
  decide (1 ≤ r.count) && decide (r.count ≤ 32767) && decide (1 ≤ r.sb)
    && decide (r.free + r.filled + r.rsv ≤ r.count)
    && decide (r.put < r.count) && decide (r.pub < r.count) && decide (r.get < r.count) && decide (r.rel < r.count)
    && decide (Config.windowBase ≤ r.base)
    && commonsRun s k p (r.base - Config.windowBase) (64 * r.sb * r.count)

/-- The address of slot k. -/
def Ring.slot (r : Ring) (k : Nat) : Word := BitVec.ofNat 64 (r.base + 64 * r.sb * k)

/-- The next index modulo COUNT. -/
def Ring.next (r : Ring) (k : Nat) : Nat := (k + 1) % r.count

/-- The index of a slot address, none where `SlotIndex` fails (R294). -/
def Ring.index (r : Ring) (a : Word) : Option Nat :=
  if r.base ≤ a.toNat ∧ (a.toNat - r.base) % (64 * r.sb) = 0 ∧ (a.toNat - r.base) / (64 * r.sb) < r.count then
    some ((a.toNat - r.base) / (64 * r.sb))
  else none

/-- What a ring operation comes to: a new header with the value of xd, a wait, or a bad xs2. -/
inductive RingRes where
  | done (r : Ring) (xd : Word)
  | keep (xd : Word)
  | wait
  | bad
  deriving DecidableEq, Repr

/-- `rres` (R294). -/
def Ring.reserve (r : Ring) : RingRes :=
  if r.closed then .keep 0
  else if 0 < r.free then
    .done { r with put := r.next r.put, free := r.free - 1, rsv := r.rsv + 1 } (r.slot r.put)
  else .wait

/-- `rpub` (R294). -/
def Ring.publish (r : Ring) (a : Word) : RingRes :=
  match r.index a with
  | none => .bad
  | some k =>
    if r.rsv = 0 ∨ r.rsv ≤ (k + r.count - r.pub) % r.count then .bad
    else if r.pub = k then .done { r with pub := r.next r.pub, rsv := r.rsv - 1, filled := r.filled + 1 } 0
    else .wait

/-- `racq` (R294). -/
def Ring.acquire (r : Ring) : RingRes :=
  if 0 < r.filled then .done { r with get := r.next r.get, filled := r.filled - 1 } (r.slot r.get)
  else if r.closed then .keep 0
  else .wait

/-- `rrel` (R294). -/
def Ring.release (r : Ring) (a : Word) : RingRes :=
  match r.index a with
  | none => .bad
  | some k =>
    if r.held = 0 ∨ r.held ≤ (k + r.count - r.rel) % r.count then .bad
    else if r.rel = k then .done { r with rel := r.next r.rel, free := r.free + 1 } 0
    else .wait

/-- The checks of a ring instruction (R294): address, poison, validity. -/
def ringCheck (va : Word) : M Nat := do
  let a ← tellerAddr va 32 32
  let s ← get
  if ringValid s s.pidx .machine (ringAt s a) then return a else trapM cRing va

/-- A published slot takes the colour of its publication (R269, R354): `old` is the header before, `r` after. -/
def ringColour (s : State) (k : Nat) (col : Bool) (old r : Ring) : State :=
  let a := (old.slot old.pub).toNat
  if decide (old.filled < r.filled) && (col || !(s.part k).oddSlots.isEmpty) then
    s.mapPart k fun p => { p with oddSlots := (if col then [a] else []) ++ p.oddSlots.filter fun b => decide (b ≠ a) }
  else s

/-- The slot that an acquire takes next was published in the colour of the generation being taken (R269). -/
def slotNew (s : State) (k : Nat) (r : Ring) : Bool :=
  decide (0 < r.filled) && decide ((s.part k).oddSlots.contains (r.slot r.get).toNat = (s.part k).gen.getLsbD 0)

/-- What a waiting ring instruction would do (R294). -/
def WaitOp.ring : WaitOp → Ring → RingRes
  | .reserve => Ring.reserve
  | .acquire => Ring.acquire
  | .publish a => fun r => r.publish a
  | .release a => fun r => r.release a
  | .purse | .barrier _ | .level => fun _ => .bad

/-- Perform one ring operation on a header (R293, R294): a wait leaves the strand BLOCKED, a release's older accesses
performed first (R265). -/
def ringOp (i : Instr) (rel : Bool) (va xs2 : Word) (rd : XReg) (op : WaitOp) (s : State) :
    Host.Outcome State Fault Refusal :=
  guarded i s fun s =>
    runM (do
      let r ← resumeM
      resumeWith rd r do
        let a ← ringCheck va
        let t ← get
        match op.ring (ringAt t a) with
        | .bad => trapM cRing xs2
        | .wait =>
          if rel then releaseM
          throw (.block va op)
        | .keep v => set (retire (t.setX rd v))
        | .done r v =>
          if rel then releaseM
          let t ← get
          set (retire ((threadWrite (ringColour t t.pidx t.ctx.snapCol (ringAt t a) r) (a + 8) r.bytes).setX rd v))) s

/-- RRES (R294). -/
def execRres (rs1 rd : XReg) (s : State) : Host.Outcome State Fault Refusal :=
  ringOp (.rres rs1 rd) false (s.x rs1) 0 rd .reserve s

/-- RPUB (R294): a release. -/
def execRpub (rs2 rs1 : XReg) (s : State) : Host.Outcome State Fault Refusal :=
  ringOp (.rpub rs2 rs1) true (s.x rs1) (s.x rs2) 0 (.publish (s.x rs2)) s

/-- RACQ (R294). -/
def execRacq (rs1 rd : XReg) (s : State) : Host.Outcome State Fault Refusal :=
  ringOp (.racq rs1 rd) false (s.x rs1) 0 rd .acquire s

/-- RREL (R294): a release. -/
def execRrel (rs2 rs1 : XReg) (s : State) : Host.Outcome State Fault Refusal :=
  ringOp (.rrel rs2 rs1) true (s.x rs1) (s.x rs2) 0 (.release (s.x rs2)) s

/-- ROCC (R294): FILLED and FREE. -/
def execRocc (rs1 rd : XReg) (s : State) : Host.Outcome State Fault Refusal :=
  guarded (.rocc rs1 rd) s fun s =>
    runM (do
      let a ← ringCheck (s.x rs1)
      let t ← get
      let r := ringAt t a
      set (retire (t.setX rd (BitVec.ofNat 64 (r.filled * 2 ^ 32 + r.free))))) s

/-! ## wqpost (R291) -/

/-- WQPOST (R291). A control block or record slot that does not translate is taken as a queue that is not enabled
(log 13). -/
def execWqpost (rs2 rs1 rd : XReg) (s : State) : Host.Outcome State Fault Refusal :=
  guarded (.wqpost rs2 rs1 rd) s fun s =>
    runM (do
      let q := s.x rs1
      let va := s.x rs2
      if 16384 / s.nparts ≤ q.toNat then trapM cTeller q
      if va.toNat % 64 ≠ 0 then trapM cMisLoad va
      let ws ← loadWords va 8
      releaseM
      modify fun t => sysTouch t t.pidx (wqBlock t t.pidx q.toNat) 64
      let t ← get
      match sysAddr t t.pidx (wqBlock t t.pidx q.toNat) with
      | none => set (retire (t.setX rd 2))
      | some cb =>
        if wqEna t cb = false ∨ wqOwn t cb = false then set (retire (t.setX rd 2))
        else if wqUsed t cb = 2 ^ wqLsz t cb then set (retire (t.setX rd 1))
        else match sysLoc t t.pidx (wqRecord t cb (wqTail t cb)) with
        | none => set (retire (t.setX rd 2))
        | some (a, page) =>
          let new := colourNew t t.pidx t.ctx
          let u := putAD (fun v b bs => rawWrite v t.pidx new none none b bs) t t.pidx (wqRecord t cb (wqTail t cb))
          let u := physWrite u t.pidx new .device page a (ws.flatMap fun w => natBytes 8 w.toNat)
          let u := physWrite u u.pidx new .device none (cb + 16) (natBytes 4 ((wqTail t cb + 1) % 2 ^ 32))
          set (retire (u.setX rd 0))) s

end Sys2Proof.Machine
end

