-- ==== Sys2Proof/Machine/Waits.lean ====
section
/-! DEFINITION. Waits on Commons words (R37, R243): what the bank answers a waiting thread once a request has made its
condition true, and the re-evaluation of every wait after a request. -/

namespace Sys2Proof.Machine

/-- What a ring operation would come to is no wait. -/
def ringGoes (s : State) (k : Nat) (va : Word) (op : WaitOp) : Bool :=
  match commonsWord s k .machine va 32 32 with
  | some a => !ringValid s k .machine (ringAt s a) || (match op.ring (ringAt s a) with
    | .wait => false
    | .done _ _ | .keep _ | .bad => true)
  | none => true

/-- A wait holds no longer (R37): the instruction would complete or trap. -/
def waitOver (s : State) (k : Nat) (w : Wait) : Bool :=
  match w.op with
  | .purse => (commonsWord s k .machine w.va 8 8).all fun a => decide (purseBal (BitVec.ofNat 64 (getLe s.mem a 8)) ≤ 0)
  | .barrier g => (commonsWord s k .machine w.va 8 8).all fun a => decide (barGenOf (BitVec.ofNat 64 (getLe s.mem a 8)) ≠ g)
  | .level => (levelAddr s k w.va).all fun a => decide (levelOut s a = 0)
  | .reserve | .acquire | .publish _ | .release _ => ringGoes s k w.va w.op

/-- A waiting ring operation at the bank: the state it leaves and its result. A slot is taken at that moment (R293), and a
published one takes the colour of its producer. -/
def ringServe (s : State) (k : Nat) (col : Bool) (va : Word) (op : WaitOp) : Option (State × Word) :=
  (commonsWord s k .machine va 32 32).bind fun a =>
    if runBad s a 32 || !ringValid s k .machine (ringAt s a) then none
    else match op.ring (ringAt s a) with
      | .done r v => some (physWrite (ringColour s k col (ringAt s a) r) k (newColour s k col) .device none (a + 8) r.bytes, v)
      | .keep v => some (s, v)
      | .wait | .bad => none

/-- What the bank answers a wait of a thread of a colour once its condition holds (R243): the state after, and the result. -/
def waitServe (s : State) (k : Nat) (col : Bool) (w : Wait) : Option (State × Word) :=
  match w.op with
  | .purse => (commonsWord s k .machine w.va 8 8).bind fun a =>
      let p : Word := BitVec.ofNat 64 (getLe s.mem a 8)
      if runBad s a 8 = false ∧ purseBal p ≤ 0 then some (s, purseResult p true) else none
  | .barrier g => (commonsWord s k .machine w.va 8 8).bind fun a =>
      let n := barGenOf (BitVec.ofNat 64 (getLe s.mem a 8))
      if runBad s a 8 = false ∧ n ≠ g then some (s, n.setWidth 64) else none
  | .level => (levelAddr s k w.va).bind fun a =>
      if runBad s a 16 = false ∧ levelOut s a = 0 then some (s, BitVec.ofNat 64 (levelCounter s a)) else none
  | .reserve | .acquire | .publish _ | .release _ => ringServe s k col w.va w.op

/-- The wait of an uncut strand would be satisfied by a new-colour item: it cuts first, at its own turn (R269). -/
def waitNew (s : State) (k : Nat) (c : Ctx) (w : Wait) : Bool :=
  uncut (s.part k) c && (match w.op with
    | .acquire => (commonsWord s k .machine w.va 32 32).any fun a => slotNew s k (ringAt s a)
    | .purse | .barrier _ | .level => (commonsWord s k .machine w.va 8 8).any (newLine s k)
    | .reserve | .publish _ | .release _ => false)

/-- A thread that waits: a strand, or what a core runs besides its strand's own code. -/
inductive Waiter where
  | strand (part : Nat) (r : SRef)
  | thread (core : Nat)
  deriving DecidableEq, Repr

/-- Re-evaluate the wait of a strand (R243): a BLOCKED one is RUNNING again, with its result; a PARKED one becomes READY and
takes nothing (R38). -/
def releaseStrand (s : State) (k : Nat) (r : SRef) : State :=
  match (findLaunch s k r.launch).bind fun l => findStrand l r.stage r.idx with
  | none => s
  | some t =>
    match strandCtx s t, t.wait with
    | some c, some w =>
      match t.st with
      | .blocked =>
        match if waitNew s k c w then none else waitServe s k c.snapCol w with
        | some a => a.1.mapStrand k r fun t => { t with st := .running, wait := none, released := some (w.pc, a.2) }
        | none => s
      | .parked => if waitOver s k w then s.mapStrand k r fun t => { t with st := .ready, wait := none, waited := 0 } else s
      | .ready | .running | .exited => s
    | some _, none => s
    | none, _ => s

/-- Re-evaluate the wait of a handler, or of a core with no strand, that stands at its instruction (R243). -/
def releaseThread (s : State) (n : Nat) : State :=
  let c := s.coreAt n
  match c.hwait with
  | none => s
  | some w =>
    if w.got.isSome ∨ w.priv ≠ c.priv ∨ w.pc ≠ c.ctx.pc then s
    else match waitServe s (s.partOfCore n) c.ctx.snapCol w with
      | some a => a.1.mapCoreAt n fun c => { c with hwait := some { w with got := some a.2 } }
      | none => s

/-- Re-evaluate one wait. -/
def releaseOne (s : State) (w : Waiter) : State :=
  match w with
  | .strand k r => releaseStrand s k r
  | .thread n => releaseThread s n

/-- The waits to be re-evaluated: a strand that is to stop for a cancel has abandoned its own (R293). -/
def waiters (s : State) : List Waiter :=
  ((upFrom 0 s.nparts).flatMap fun k => (s.part k).launches.flatMap fun l =>
    (l.strands.filter fun t => t.wait.isSome && !t.core.any fun n => decide ((s.coreAt n).stop = some .cancel)).map fun t =>
      .strand k ⟨l.serial, t.stage, t.idx⟩)
    ++ (s.liveCores.filter fun n => (s.coreAt n).hwait.isSome).map .thread

/-- Every wait is re-evaluated after a request (R243); which of several waiters is served first is a free choice. -/
def releaseWaits (s : State) : State :=
  let ws := waiters s
  if ws.isEmpty then s
  else
    let n := Config.pick s.draws % ws.length
    (ws.drop n ++ ws.take n).foldl releaseOne { s with draws := s.draws + 1 }

/-- The waits re-evaluated after one of the requests that an instruction makes, `orig` being the state before the first
(R243). -/
def served (orig s : State) : State := if (waiters orig).isEmpty then s else releaseWaits s

end Sys2Proof.Machine
end

