-- ==== Sys2Proof/Machine/MSpace.lean ====
section
/-! DEFINITION. Vector memory access (R213, R221 to R234): element addresses and checks, loads and stores, `vldff`,
`vlwin`, `vstc`, scale registers, masks, register images, and the vector scatter atomics (R251). -/

namespace Sys2Proof.Machine

/-! ## Addresses and spaces -/

/-- An addressing mode (R222). -/
inductive MMode where
  | unit | strided
  | indexed (vs2 : VReg5)
  deriving DecidableEq, Repr

/-- Spaces of an entry's `mtyp` (Table 5.4, R116). -/
def ldSpace (en : VEntry) : Nat := (en.csr.mtyp.extractLsb' 0 3).toNat
def stSpace (en : VEntry) : Nat := (en.csr.mtyp.extractLsb' 4 3).toNat

/-- The address of element i at a width in bits (R222). -/
def elemAddr (mode : MMode) (w : Nat) (en : VEntry) (c : Ctx) (i : Nat) : Word :=
  match mode with
  | .unit => en.a + BitVec.ofNat 64 (if w = 4 then i / 2 else i * (w / 8))
  | .strided => en.a + BitVec.ofNat 64 i * en.b
  | .indexed vs2 => en.a + BitVec.ofInt 64 (c.ival vs2 i)

/-- Bytes an element access touches. -/
def elemBytes (w : Nat) : Nat := if w = 4 then 1 else w / 8

/-- The checks of Table 10.3 for one element, up to where it lands. -/
def elemLoc (acc : Acc) (space : Nat) (p : Priv) (w : Nat) (a : Word) : M Loc := do
  if a.toNat % elemBytes w ≠ 0 then trapM cVmem a
  resolveSpace space acc p a (elemBytes w)

/-- Perform elements in order; the first that fails stops at its index with its trap (R223, R224). DESIGN CHOICE (log 121): a
vector load performs its elements in ascending index, though R264 and R225 order only those that touch the same byte. -/
def elemLoop (f : Nat → M Unit) : List Nat → State → VOut
  | [], s => .done s
  | i :: t, s =>
    match (f i).run s with
    | (.ok (), s') => elemLoop f t s'
    | (.error (.trap cause tv), s') => .fault s' cause (some tv) i
    | (.error (.port a), _) => .port a
    | (.error .stall, _) => .wait
    | (.error (.block ..), _) => .wait

/-- Then go on from a completed execution. -/
def VOut.andThen (o : VOut) (f : State → VOut) : VOut :=
  match o with
  | .done s => f s
  | .wait => .wait
  | .fault s cause tv ves => .fault s cause tv ves
  | .port a => .port a

/-- Restart a whole form from its beginning: `ves` stays 0 (R224). -/
def VOut.whole (o : VOut) : VOut :=
  match o with
  | .fault s cause tv _ => .fault s cause tv 0
  | .done s => .done s
  | .wait => .wait
  | .port a => .port a

/-- The checks of an M-space entry: R120, then the space code (R116). -/
def memCheck (en : VEntry) (need : Need) (space : Nat) (s : State) (go : State → VOut) : VOut :=
  match needCheck s.ctx en.csr.vl.toNat need with
  | .wait => .wait
  | .fault cause => .fault s cause none 0
  | .ok => if 4 ≤ space then .fault s cVmem none 0 else go s

/-- Index registers legal for an access (R222). -/
def indexOk (c : Ctx) (mode : MMode) : Bool :=
  match mode with
  | .unit | .strided => true
  | .indexed vs2 => match c.ety vs2 with
    | some (.int t) => t.signed && decide (32 ≤ t.w)
    | _ => false

/-- A data tag legal for a mode: any type, HX4 at unit stride only (R221). -/
def dataOk (c : Ctx) (mode : MMode) (v : VReg5) : Bool :=
  match c.ety v with
  | none => false
  | some t => decide (mode = .unit) || decide (t ≠ .hx4)

/-- The index register of a mode. -/
def MMode.regs : MMode → List VReg5
  | .unit | .strided => []
  | .indexed vs2 => [vs2]

/-! ## Loads -/

/-- What a load needs. -/
def ldNeed (mode : MMode) (e : Bool) (m : MReg3) (vd : VReg5) (c : Ctx) : Need :=
  { regs := mode.regs ++ [vd]
    tagOk := dataOk c mode vd && indexOk c mode
    caps := ownCaps c (mode.regs ++ [vd])
    past := false
    reads := wholes mode.regs
    mreads := [m]
    writes := [vd]
    mwrites := []
    e := e }

/-- The raw bits of element i in the bytes read at its address. -/
def rawOfBytes (w i : Nat) (bs : List Byte) : Nat := if w = 4 then leNat bs / 16 ^ (i % 2) % 16 else leNat bs

/-- Load one element (R226). -/
def loadElem (mode : MMode) (vd : VReg5) (en : VEntry) (i : Nat) : M Unit := do
  let s ← get
  let w := s.ctx.width vd
  let a := elemAddr mode w en s.ctx i
  let l ← elemLoc .load (ldSpace en) en.priv w a
  let bs ← readVec l (elemBytes w) a
  modify fun t => t.mapCtx fun c => (c.putElem vd w i (rawOfBytes w i bs)).fillReg vd

/-- The elements an execution performs: a restarted entry goes on at its first unfinished one (R128). -/
def enabledFrom (m : MReg3) (en : VEntry) (s : State) : List Nat := s.ctx.enabled m en.start en.csr.vl.toNat

/-- A destination becomes FULL when its writer completes (R127). -/
def filled (vd : VReg5) (s : State) : VOut := .done (s.mapCtx fun c => c.fillReg vd)

/-- `vld` (R226). -/
def runVld (mode : MMode) (e : Bool) (m : MReg3) (vd : VReg5) (en : VEntry) (s : State) : VOut :=
  memCheck en (ldNeed mode e m vd s.ctx) (ldSpace en) s fun s =>
    (elemLoop (loadElem mode vd en) (enabledFrom m en s) s).andThen (filled vd)

/-- Resolve the references that VIQ entries and `vl` hold to a completed `vldff` (R228). -/
def Ctx.resolveVl (c : Ctx) (id : Nat) (vl : Word) : Ctx :=
  { c with
    u := if c.vlProv = some id then { c.u with vl := vl } else c.u
    vlProv := if c.vlProv = some id then none else c.vlProv
    viq := c.viq.map fun e => if e.vlRef = some id then { e with vlRef := none, csr := { e.csr with vl := vl } } else e }

/-- Completion of a `vldff` that trims at f, or not at all (R227, R228). -/
def vldffDone (en : VEntry) (trim : Option Nat) (s : State) : State :=
  s.mapCtx fun c =>
    let vl : Word := match trim with
      | some f => BitVec.ofNat 64 f
      | none => en.csr.vl
    let c := c.resolveVl en.id vl
    { c with u := { c.u with vffs := match trim with
      | some f => BitVec.ofNat 64 (2 * f + 1)
      | none => 0 } }

/-- `vldff` (R227): a fault past an enabled element trims VL. -/
def runVldff (mode : MMode) (e : Bool) (m : MReg3) (vd : VReg5) (en : VEntry) (s : State) : VOut :=
  memCheck en (ldNeed mode e m vd s.ctx) (ldSpace en) s fun s =>
    match elemLoop (loadElem mode vd en) (enabledFrom m en s) s with
    | .fault t cause tv f =>
      if (s.ctx.enabled m 0 f).isEmpty then .fault t cause tv f
      else .done (vldffDone en (some f) (t.mapCtx fun c => c.fillReg vd))
    | .done t => .done (vldffDone en none (t.mapCtx fun c => c.fillReg vd))
    | .wait => .wait
    | .port a => .port a

/-- What `vlwin` needs (R229): its mask field is an output. -/
def winNeed (e : Bool) (vs2 : VReg5) (m : MReg3) (vd : VReg5) (c : Ctx) : Need :=
  { ldNeed (.indexed vs2) e 0 vd c with mwrites := [m] }

/-- One element of `vlwin`. -/
def winElem (vs2 : VReg5) (m : MReg3) (vd : VReg5) (en : VEntry) (i : Nat) : M Unit := do
  let s ← get
  let w := s.ctx.width vd
  let o := s.ctx.ival vs2 i
  if 0 ≤ o ∧ o + elemBytes w ≤ mvlOf s.ctx then
    loadElem (.indexed vs2) vd en i
    modify fun t => t.mapCtx fun c => c.setMbit m i false
  else modify fun t => t.mapCtx fun c => c.setMbit m i true

/-- `vlwin` (R229). -/
def runVlwin (e : Bool) (vs2 : VReg5) (m : MReg3) (vd : VReg5) (en : VEntry) (s : State) : VOut :=
  memCheck en (winNeed e vs2 m vd s.ctx) (ldSpace en) s fun s =>
    (elemLoop (winElem vs2 m vd en) (upFrom (en.start) (en.csr.vl.toNat - en.start)) s).andThen (filled vd)

/-! ## Stores -/

/-- What a store needs. -/
def stNeed (mode : MMode) (e : Bool) (m : MReg3) (vs3 : VReg5) (c : Ctx) (vl : Nat) : Need :=
  { regs := mode.regs ++ [vs3]
    tagOk := dataOk c mode vs3 && indexOk c mode
    caps := ownCaps c (mode.regs ++ [vs3])
    past := false
    reads := wholes mode.regs ++ chained [vs3] vl
    mreads := [m]
    writes := []
    mwrites := []
    e := e }

/-- The store side of an element: checked, and stopped with LATEPF where the transit filter holds its frame (R268) or the
target chip refuses it (R223, R338). -/
def storeLoc (en : VEntry) (w : Nat) (a : Word) : M Loc := do
  let l ← elemLoc .store (stSpace en) en.priv w a
  let s ← get
  match locPort l with
  | some q => throw (.port q)
  | none =>
    if transitHit s s.pidx l then trapM cLatepf a
    else match l with
      | .peer _ _ =>
        set { s with draws := s.draws + 1 }
        if peerRefuses s then trapM cLatepf a else return l
      | .phys _ _ _ | .pocket _ => return l

/-- A byte at a location as a partial store merges it, without a read's checks; another chip's is a free value. The merge
follows the strand's held stores to that byte. -/
def peekByte (s : State) (l : Loc) : Byte :=
  match l with
  | .phys a _ _ => (seenBytes (heldSeen s.pidx s.core.strand s.core.id .vector) s a 1).getD 0 0
  | .pocket o => getByte s.ctx.pocket o
  | .peer _ _ => Config.freeByte s.draws

/-- The byte an HX4 store element leaves, with its neighbour where that is stored too. -/
def nibbleByte (old : Byte) (i v : Nat) (lower : Option Nat) : Byte :=
  if i % 2 = 0 then BitVec.ofNat 8 (old.toNat / 16 * 16 + v)
  else BitVec.ofNat 8 (v * 16 + lower.getD (old.toNat % 16))

/-- Check one store element and give its write. `pos` numbers its place in memory. -/
def storeElem (vs3 : VReg5) (en : VEntry) (lower : Nat → Option Nat) (addr : Ctx → Nat → Word) (i : Nat) : M ElemWrite := do
  let s ← get
  let w := s.ctx.width vs3
  let a := addr s.ctx i
  let l ← storeLoc en w a
  let v := s.ctx.raw vs3 i
  if w = 4 then
    let s ← get
    modify fun t => { t with draws := t.draws + 1 }
    return { loc := l, bytes := [nibbleByte (peekByte s l) i v (lower i)], whole := decide (i % 2 = 1) && (lower i).isSome }
  else return { loc := l, bytes := natBytes (w / 8) v }

/-- Check elements in order, collecting the writes of those that pass. -/
def storeScan (f : Nat → M ElemWrite) : List Nat → State → List ElemWrite → List ElemWrite × VOut
  | [], s, acc => (acc.reverse, .done s)
  | i :: t, s, acc =>
    match (f i).run s with
    | (.ok w, s') => storeScan f t s' (w :: acc)
    | (.error (.trap cause tv), s') =>
      if cause = cLatepf ∧ Config.pick s'.draws % 2 = 1 then
        let rest := t.filterMap fun j => match ((f j).run s').1 with
          | .ok w => some w
          | .error _ => none
        (acc.reverse ++ rest, .fault { s' with draws := s'.draws + 1 } cause (some tv) i)
      else (acc.reverse, .fault { s' with draws := s'.draws + 1 } cause (some tv) i)
    | (.error (.port a), _) => ([], .port a)
    | (.error .stall, _) => ([], .wait)
    | (.error (.block ..), _) => ([], .wait)

/-- A vector store element that the rib ordering point can hold: whole bytes of GLOBAL memory outside the Commons (R242, R255,
R268). The merge of a partial byte is one indivisible write at its home (R263). -/
def holdsElem (s : State) (w : ElemWrite) : Bool :=
  w.whole && !w.poison && holdable s w.loc w.bytes.length && !(locKeyOf w.loc).any isCommons

/-- The fences that a store of an entry re-armed behind a retired `qfence` still stands before (R261, R268). -/
def barrierMarks (s : State) (id : Nat) : List FenceMark :=
  match s.ctx.barrier with
  | some b => if b.entry = id then b.marks else []
  | none => []

/-- One store element of the strand whose turn it is, made by a VIQ entry: held at the rib ordering point while other agents lag
or while it must follow a store that is not performed, each element apart in the kind of its own page (R259, R263), or performed
after the held stores it follows (R256, R258). -/
def strandWrite (en : VEntry) (s : State) (w : ElemWrite) : State :=
  let t := orderFor true false w.loc w.bytes.length s
  if holdsElem s w && (s.lag || mustWait true false w.loc w.bytes.length t) then
    { s with heldStores := s.heldStores ++
        [⟨s.pidx, s.core.id, s.core.strand, s.ctx.snapCol, en.priv, w.loc, w.bytes, s.draws, some en.id, some en.id, [], 0, none,
          barrierMarks s en.id⟩] }
  else elemWrite t t.issuer (.agent en.priv) t.core.id w

/-- An entry learns the bytes it has written, for its granule writes (R219). With no condition anywhere and nothing held there is
nothing to learn. -/
def noteRuns (id : Nat) (rs : List RunWrite) (s : State) : State :=
  if s.ecc.isEmpty && !s.lag then s
  else s.mapCtx fun c => { c with viq := c.viq.map fun e => if e.id = id then { e with wrote := e.wrote ++ rs } else e }

/-- Perform writes for the strand whose turn it is, in its colour, at an entry's privilege. Their granules are written as the
entry completes (R219). -/
def strandWrites (en : VEntry) (s : State) (ws : List ElemWrite) : State :=
  levelHook s (noteRuns en.id (writeRuns s s.core.id ws) (ws.foldl (fun t w => served s (strandWrite en t w)) s))

/-- A store that the rib ordering point cannot hold must wait for one that is not performed. -/
def storeStuck (s : State) (ws : List ElemWrite) : Bool :=
  !s.heldStores.isEmpty && ws.any fun w =>
    !holdsElem s w && mustWait true false w.loc w.bytes.length (orderFor true false w.loc w.bytes.length s)

/-- Perform what a scan collected (R224): every element below a fault, and, after LATEPF, perhaps elements above. -/
def storeFinish (en : VEntry) (r : List ElemWrite × VOut) : VOut :=
  match r.2 with
  | .wait => .wait
  | .port a => .port a
  | .done s => if storeStuck s r.1 then .wait else .done (strandWrites en s r.1)
  | .fault s cause tv f => if storeStuck s r.1 then .wait else .fault (strandWrites en s r.1) cause tv f

/-- `vst` (R226). -/
def runVst (mode : MMode) (e : Bool) (m : MReg3) (vs3 : VReg5) (en : VEntry) (s : State) : VOut :=
  memCheck en (stNeed mode e m vs3 s.ctx (readBound en m s.ctx)) (stSpace en) s fun s =>
    let w := s.ctx.width vs3
    let from_ := en.start
    let lower (i : Nat) : Option Nat :=
      if i % 2 = 1 ∧ from_ + 1 ≤ i ∧ s.ctx.mbit m (i - 1) = true then some (s.ctx.raw vs3 (i - 1)) else none
    storeFinish en (storeScan (storeElem vs3 en lower (elemAddr mode w en)) (enabledFrom m en s) s [])

/-- `vstc` (R230): selected elements packed densely. -/
def runVstc (e : Bool) (m : MReg3) (vs3 : VReg5) (en : VEntry) (s : State) : VOut :=
  memCheck en (stNeed .strided e m vs3 s.ctx (readBound en m s.ctx)) (stSpace en) s fun s =>
    let w := s.ctx.width vs3
    let addr (c : Ctx) (i : Nat) : Word := en.a + BitVec.ofNat 64 ((c.enabled m 0 i).length * (w / 8))
    storeFinish en (storeScan (storeElem vs3 en (fun _ => none) addr) (enabledFrom m en s) s [])

/-! ## Scale registers and masks (R231, R232) -/

/-- A form that names no vector register. -/
def bareNeed (past : Bool) (e : Bool) (mreads mwrites : List MReg3) : Need :=
  { regs := [], tagOk := true, caps := [], past := past, reads := [], mreads := mreads, writes := [], mwrites := mwrites, e := e }

/-- The address of scale entry i. -/
def qAddr (mode : MMode) (en : VEntry) (i : Nat) : Word :=
  match mode with
  | .strided => en.a + BitVec.ofNat 64 i * en.b
  | .unit | .indexed _ => en.a + BitVec.ofNat 64 (2 * i)

/-- Load one scale entry. -/
def loadQ (mode : MMode) (n : BitVec 2) (en : VEntry) (i : Nat) : M Unit := do
  let a := qAddr mode en i
  let l ← elemLoc .load (ldSpace en) en.priv 16 a
  let bs ← readVec l 2 a
  modify fun t => t.mapCtx fun c => (c.setQ n.toNat i (leNat bs)).staleQ n.toNat

/-- `vqld` (R231). -/
def runVqld (mode : MMode) (n : BitVec 2) (en : VEntry) (s : State) : VOut :=
  memCheck en (bareNeed (decide (4096 < en.csr.vl.toNat)) false [] []) (ldSpace en) s fun s =>
    if qCopying s.ctx n.toNat then .wait
    else elemLoop (loadQ mode n en) (upFrom (en.start) (en.csr.vl.toNat - en.start)) s

/-- `vqst` (R231): it stores the entries as every older one leaves them. -/
def runVqst (mode : MMode) (n : BitVec 2) (en : VEntry) (s : State) : VOut :=
  memCheck en (bareNeed (decide (4096 < en.csr.vl.toNat)) false [] []) (stSpace en) s fun s =>
    if qWriting s.ctx n.toNat then .wait
    else
    let f (i : Nat) : M ElemWrite := do
      let l ← storeLoc en 16 (qAddr mode en i)
      let t ← get
      return { loc := l, bytes := natBytes 2 (t.ctx.qEntry n.toNat i) }
    storeFinish en (storeScan f (upFrom (en.start) (en.csr.vl.toNat - en.start)) s [])

/-- Words of a mask access (R232). -/
def maskWords (en : VEntry) : Nat := (en.csr.vl.toNat + 63) / 64

/-- The address of 8-byte word j of a run. -/
def wordAddr (en : VEntry) (j : Nat) : Word := en.a + BitVec.ofNat 64 (8 * j)

/-- Read n 8-byte words of a run, checked as elements. -/
def readWords (en : VEntry) (from_ : Nat) : Nat → M (List Byte)
  | 0 => return []
  | n + 1 => do
    let a := wordAddr en from_
    let l ← elemLoc .load (ldSpace en) en.priv 64 a
    let bs ← readVec l 8 a
    let t ← readWords en (from_ + 1) n
    return bs ++ t

/-- Write the bits 0 to VL − 1 of a mask from bytes. -/
def Ctx.maskFrom (c : Ctx) (k : MReg3) (vl : Nat) (bs : Bytes) : Ctx :=
  (upFrom 0 vl).foldl (fun d i => d.setMbit k i (getBit bs i)) c

/-- An M computation of a form re-executed whole. -/
def wholeM (m : M Unit) (s : State) : VOut := (elemLoop (fun _ => m) [0] s).whole

/-- `vmld` (R232): xs1 is a multiple of 8 whatever VL is. -/
def runVmld (k : MReg3) (en : VEntry) (s : State) : VOut :=
  memCheck en (bareNeed false false [] [k]) (ldSpace en) s fun s =>
    if en.a.toNat % 8 ≠ 0 then .fault s cVmem (some en.a) 0
    else wholeM (do
      let bs ← readWords en 0 (maskWords en)
      modify fun t => t.mapCtx fun c => c.maskFrom k en.csr.vl.toNat (setBytes [] 0 bs)) s

/-- Word j of a mask: m0 is all ones. -/
def maskWord (c : Ctx) (k : MReg3) (j : Nat) : Nat := if k = 0 then 2 ^ 64 - 1 else getLe c.m[k.toNat].bits (8 * j) 8

/-- One 8-byte word of a run to store. -/
def wordWrite (en : VEntry) (v : Ctx → Nat → List Byte) (j : Nat) : M ElemWrite := do
  let l ← storeLoc en 64 (wordAddr en j)
  let t ← get
  return { loc := l, bytes := v t.ctx j }

/-- `vmst` (R232). -/
def runVmst (e : Bool) (k : MReg3) (en : VEntry) (s : State) : VOut :=
  memCheck en (bareNeed false e [k] []) (stSpace en) s fun s =>
    if en.a.toNat % 8 ≠ 0 then .fault s cVmem (some en.a) 0
    else (storeFinish en (storeScan (wordWrite en fun c j => natBytes 8 (maskWord c k j)) (upFrom 0 (maskWords en)) s [])).whole

/-! ## Register images (R233, R234) -/

/-- The 64-byte head of a register image. -/
def imageHead (c : Ctx) (v : VReg) : List Byte :=
  let st := if v.st = .vacant then 0 else 1
  natBytes 8 (st * 65536 + v.tag.toNat) ++ natBytes 24 (v.hdr.toNat)
    ++ natBytes 8 (mvlOf c) ++ natBytes 24 0

/-- A head with a reserved bit set or a reserved ST. -/
def headBad (h : Nat) : Bool :=
  let f (lo n : Nat) : Nat := h / 2 ^ lo % 2 ^ n
  decide (f 18 46 ≠ 0) || decide (f 8 8 ≠ 0) || decide (2 ≤ f 16 2)
    || decide (f (64 * 3 + 16) 48 ≠ 0) || decide (f (64 * 3 + 10) 5 ≠ 0)
    || decide (f (64 * 4 + 32) 32 ≠ 0) || decide (f (64 * 5) 192 ≠ 0)

/-- A tag byte no instruction may write (R234). -/
def tagBad (t : Byte) : Bool := decide (14 ≤ tagType t) || (decide (tagType t = 13) && decide (tagBl t = 3))

/-- The header that an image head holds, as `vldr` writes it. -/
def headHdr (h : Nat) : BitVec 192 := BitVec.ofNat 192 (h / 2 ^ 64)

/-- `vldr` (R234): the head is checked before anything is written. -/
def runVldr (vd : VReg5) (en : VEntry) (s : State) : VOut :=
  memCheck en { bareNeed false false [] [] with regs := [vd], writes := [vd] } (ldSpace en) s fun s =>
    if en.a.toNat % 64 ≠ 0 then .fault s cVmem (some en.a) 0
    else
      match (readWords en 0 8).run s with
      | (.error (.trap cause tv), t) => .fault t cause (some tv) 0
      | (.error (.port a), _) => .port a
      | (.error .stall, _) => .wait
      | (.error (.block ..), _) => .wait
      | (.ok bs, t) =>
        let h := leNat bs
        let tag : Byte := BitVec.ofNat 8 h
        let full := decide (h / 65536 % 4 = 1)
        if headBad h then .fault t cVmem none 0
        else if tagBad tag then .fault t cTag none 0
        else if full && decide (h / 2 ^ 256 % 2 ^ 32 ≠ mvlOf t.ctx) then .fault t cVlover none 0
        else wholeM (do
          let data ← if full then readWords en 8 (mvlOf t.ctx / 8) else pure []
          modify fun u => u.mapCtx fun c => (c.setVr vd
            ⟨tag, headHdr h, if full then .full else .vacant, none, setBytes [] 0 data⟩).stale vd) t

/-- `vstr` (R234): waits while pending, EMPTY under E = 1; reads a LENT register. -/
def runVstr (e : Bool) (vs3 : VReg5) (en : VEntry) (s : State) : VOut :=
  let v := s.ctx.vr vs3
  if !s.ctx.vrOk vs3 then .fault s cVlover none 0
  else if v.st = .pending then (if e then .fault s cEmpty none 0 else .wait)
  else
    memCheck en (bareNeed false false [] []) (stSpace en) s fun s =>
      if en.a.toNat % 64 ≠ 0 then .fault s cVmem (some en.a) 0
      else
        let head := setBytes [] 0 (imageHead s.ctx v)
        let n := if v.st = .vacant then 8 else 8 + mvlOf s.ctx / 8
        let word (_ : Ctx) (j : Nat) : List Byte :=
          if j < 8 then getBytes head (8 * j) 8 else getBytes v.data (8 * (j - 8)) 8
        (storeFinish en (storeScan (wordWrite en word) (upFrom 0 n) s [])).whole

/-! ## Vector scatter atomics (R251) -/

/-- The tags of Table 11.4. -/
def scatterTag (t : ETy) : Bool :=
  match t with
  | .int i => decide (32 ≤ i.w)
  | .flt f => decide (f = fp32) || decide (f = bf16)
  | .hx4 => false

/-- The new value of an element's word (Table 11.4). -/
def scatterNew (op : Nat) (t : ETy) (old b : Nat) : Nat :=
  match t with
  | .int i => intAtomic op i.w i.signed old b
  | .flt f => fltAtomic op f old b
  | .hx4 => old

/-- One scatter atomic. -/
def scatterElem (op : Nat) (vs2 vs3 : VReg5) (en : VEntry) (i : Nat) : M Unit := do
  let s ← get
  match s.ctx.ety vs3 with
  | none => return ()
  | some t =>
    let n := t.bits / 8
    let a := elemAddr (.indexed vs2) t.bits en s.ctx i
    if a.toNat % n ≠ 0 then trapM cVmem a
    let l ← resolveSpace 1 .store en.priv a n
    match l with
    | .phys p _ _ =>
      let s ← get
      if inCounterBlock s p then trapM cVmem a
      let b := (s.ctx.raw vs3 i)
      let u := orderFor true false l n s
      if mustWait true false l n u then throw .stall
      set u
      let old ← readRaw .vector .load l n a
      modify fun u => served u (levelHook u (physWrite u u.pidx (colourNew u u.pidx u.ctx) (.agent en.priv) none p
        (natBytes n (scatterNew op t (leNat old) b))))
    | .pocket _ | .peer _ _ => trapM cVmem a

/-- `vtadd`, `vtmin`, `vtmax` (R251): op 0, 1, 2. -/
def runScatter (op : Nat) (e : Bool) (vs2 : VReg5) (m : MReg3) (vs3 : VReg5) (en : VEntry) (s : State) : VOut :=
  let need := { stNeed (.indexed vs2) e m vs3 s.ctx (readBound en m s.ctx) with
    tagOk := (s.ctx.ety vs3).any scatterTag && indexOk s.ctx (.indexed vs2) }
  memCheck en need 0 s fun s => elemLoop (scatterElem op vs2 vs3 en) (enabledFrom m en s) s

end Sys2Proof.Machine
end

