-- ==== Sys2Proof/Machine/Cable.lean ====
section
/-! DEFINITION. The Cable engine (spec/08): slots and the accumulator pool, the checks at issue (R166), the operand stash
(R167), the primitives of `dmac`, `dmsc`, `dmm` and `dop` (R169 to R173), slot moves (R174, R175), drains (R176, R177),
`atabld` (R178), `kfence` (R179), the Cable queue, and `vkld` and `vkst` (R235, R236). -/

namespace Sys2Proof.Machine

/-! ## Slots and the pool (R111, R162) -/

/-- A slot header. -/
def Ctx.slot (c : Ctx) (k : Nat) : Slot := c.slots.toList.getD k Slot.free

/-- Replace a slot header. -/
def Ctx.setSlot (c : Ctx) (k : Nat) (x : Slot) : Ctx := if h : k < 256 then { c with slots := c.slots.set k x } else c

/-- Replace the headers of consecutive slots. -/
def Ctx.setSlots (c : Ctx) (k : Nat) (xs : List Slot) : Ctx :=
  (xs.foldl (fun (p : Ctx × Nat) x => (p.1.setSlot p.2 x, p.2 + 1)) (c, k)).1

/-- A pool word. -/
def Ctx.poolWord (c : Ctx) (w : Nat) : Nat := getLe c.pool (4 * w) 4

/-- Write a pool word. -/
def Ctx.setPool (c : Ctx) (w v : Nat) : Ctx := { c with pool := setLe c.pool (4 * w) 4 v }

/-- First row, offset and length of a slot, and one past its last row. -/
def Slot.row0 (x : Slot) : Int := x.anc.toNat
def Slot.diag (x : Slot) : Int := x.off.toInt
def Slot.rows (x : Slot) : Int := x.len.toNat
def Slot.rowEnd (x : Slot) : Int := x.row0 + x.rows

/-- The pool word of row i. -/
def Slot.word (x : Slot) (i : Int) : Nat := x.base.toNat + (i - x.row0).toNat

/-- Zero the words of an allocated slot. -/
def Ctx.zeroSlot (c : Ctx) (x : Slot) : Ctx :=
  if x.alloc then { c with pool := clearBytes c.pool (4 * x.base.toNat) (4 * (x.base.toNat + x.len.toNat)) } else c

/-- A header keeps its columns from 0 and its rows and columns below 2^32 (R166 check 4). -/
def extentOk (off anc len : Int) : Bool :=
  decide (len ≤ 0) || (decide (0 ≤ anc + off) && decide (anc + len ≤ 2 ^ 32) && decide (anc + off + len ≤ 2 ^ 32))

def Slot.extentOk (x : Slot) : Bool := Machine.extentOk x.diag x.row0 x.rows

/-! ## Operand types (Table 8.3) -/

/-- A source tag the engine takes: some true for an integer, some false for a float. -/
def cableKind (c : Ctx) (r : VReg5) : Option Bool :=
  match c.ety r with
  | some (.int t) => if t.w ≤ 16 then some true else none
  | some (.flt _) => some false
  | some .hx4 => some false
  | none => none

/-- SC of a register's header. -/
def Ctx.scaled (c : Ctx) (r : VReg5) : Bool := hdrSc (c.vr r).hdr

/-- The kind of a pair of sources; none traps TAG. A scaled integer operand is refused. -/
def pairKind (c : Ctx) (a b : VReg5) : Option Bool :=
  match cableKind c a, cableKind c b with
  | some true, some true => if c.scaled a || c.scaled b then none else some true
  | some false, some false => some false
  | some true, some false => none
  | some false, some true => none
  | none, _ => none
  | some _, none => none

/-- An INT8-tagged register, as a plane must be. -/
def planeTag (c : Ctx) (r : VReg5) : Bool := decide (c.ety r = some (.int ⟨8, true⟩))

/-- The inner planes that a product of two sources uses: γ of the first and ρ of the second (R170). -/
def innerA (c : Ctx) (a : VReg5) : List VReg5 := if c.scaled a then [hdrColp (c.vr a).hdr] else []
def innerB (c : Ctx) (b : VReg5) : List VReg5 := if c.scaled b then [hdrRowp (c.vr b).hdr] else []

/-! ## The binding (R170) -/

/-- Two headers agree as A operands: (SC, TS, ROWP). DESIGN CHOICE (log 111): TS and ROWP count also where SC = 0. -/
def agreeA (h g : BitVec 192) : Bool := hdrSc h == hdrSc g && hdrTs h == hdrTs g && hdrRowp h == hdrRowp g

/-- Two headers agree as B operands: (SC, TS, COLP); log 111 as above. -/
def agreeB (h g : BitVec 192) : Bool := hdrSc h == hdrSc g && hdrTs h == hdrTs g && hdrColp h == hdrColp g

/-- The slot as a multiplying instruction leaves its binding; none traps OFFSET. -/
def bindOf (c : Ctx) (a b : VReg5) (x : Slot) : Option Slot :=
  if c.scaled a || c.scaled b then
    if x.uns then none
    else if x.bnd then
      if agreeA (c.vr a).hdr (c.vr x.ar).hdr && agreeB (c.vr b).hdr (c.vr x.br).hdr then some x else none
    else some { x with bnd := true, ar := a, br := b }
  else if x.bnd then none
  else some { x with uns := true }

/-- The bindings of a list of slots. -/
def bindAll (c : Ctx) (a b : VReg5) : List Slot → Option (List Slot)
  | [] => some []
  | x :: t =>
    match bindOf c a b x, bindAll c a b t with
    | some y, some r => some (y :: r)
    | some _, none => none
    | none, _ => none

/-! ## The operand stash (R167) -/

/-- Bytes of the stash. -/
def stashBytes : Nat := 131072

/-- What a capture of the first n elements of a register holds. -/
def stashOf (c : Ctx) (r : VReg5) (n : Nat) : Stash :=
  let v := c.vr r
  let w := ((c.ety r).map ETy.bits).getD 8
  let len := (n * w + 7) / 8
  { reg := r
    tag := v.tag
    hdr := v.hdr
    data := cutBytes v.data 0 len
    q := if w = 4 then cutBytes (c.q.toList.getD (tagQs v.tag) []) 0 (2 * ((n + 2 ^ blkLog v.tag - 1) / 2 ^ blkLog v.tag)) else []
    len := len
    copied := false
    live := true
    reused := false }

/-- The stash already holds the value of a capture: a copy at least as long, with no write to the register since. -/
def stashHas (c : Ctx) (x : Stash) : Bool :=
  c.cable.any fun n => n.srcs.any fun y =>
    y.copied && y.live && decide (y.reg = x.reg) && decide (y.tag = x.tag) && decide (x.len ≤ y.len)

/-- Capture a source: it becomes LENT until its copy is done, unless the stash holds its value. -/
def Ctx.lend (c : Ctx) (r : VReg5) (n : Nat) : Ctx × Stash :=
  let x := stashOf c r n
  if stashHas c x then (c, { x with copied := true, reused := true })
  else (c.mapVr r fun v => { v with st := match v.st with
    | .full => .lent
    | .lent => .lent
    | .pending => .pending
    | .vacant => .vacant }, x)

/-- Capture several sources. -/
def Ctx.lendAll (c : Ctx) : List (VReg5 × Nat) → Ctx × List Stash
  | [] => (c, [])
  | p :: t =>
    let a := c.lend p.1 p.2
    let b := a.1.lendAll t
    (b.1, a.2 :: b.2)

/-- LENT registers with no copy outstanding are FULL again (R108). -/
def Ctx.relend (c : Ctx) : Ctx :=
  { c with v := Vector.ofFn fun (i : Fin 32) =>
      if c.v[i].st = .lent ∧ (c.cable.any fun n => n.srcs.any fun x => decide (x.reg.toNat = i.val) && !x.copied) = false
      then { c.v[i] with st := .full } else c.v[i] }

/-- The copies the stash holds, oldest first, those that share an older one left out. -/
def heldCopies (xs : List Stash) : List Stash :=
  xs.foldl (fun acc x =>
    if !x.copied || (x.reused && acc.any fun y => decide (y.reg = x.reg) && decide (x.len ≤ y.len) && (y.live == x.live)) then acc
    else acc ++ [x]) []

/-- Bytes copied and still held. -/
def stashUsed (c : Ctx) : Nat := ((heldCopies (c.cable.flatMap fun n => n.srcs)).map fun x => x.len).sum

/-- Finish the first outstanding copy of a register that finds room (R167): a range above the stash's size stays LENT
until its entry completes. -/
def Ctx.copyDone (c : Ctx) (r : VReg5) : Ctx :=
  let ready (x : Stash) : Bool := decide (x.reg = r) && !x.copied && decide (stashUsed c + x.len ≤ stashBytes)
  let done (n : CEntry) : CEntry := { n with srcs := updFirst ready (fun x => { x with copied := true }) n.srcs }
  { c with cable := updFirst (fun n => n.srcs.any ready) done c.cable }.relend

/-- The type of a captured source. -/
def Stash.ty (x : Stash) : Option ETy := etyOf x.tag

/-- Raw bits, exact float and exact integer of a captured element. -/
def Stash.raw (x : Stash) (e : Nat) : Nat :=
  match x.ty with
  | some t => rawAt x.data t.bits e
  | none => 0

def Stash.entry (x : Stash) (e : Nat) : Nat := getLe x.q (2 * (e / 2 ^ blkLog x.tag)) 2

def Stash.flt (x : Stash) (e : Nat) : FVal :=
  match x.ty with
  | some t => fltOf t (x.entry e) (x.raw e)
  | none => .nan

def Stash.int (x : Stash) (e : Nat) : Int :=
  match x.ty with
  | some t => intOf t (x.raw e)
  | none => 0

/-- A captured element of value zero (R171). -/
def Stash.zero (x : Stash) (e : Nat) : Bool :=
  match x.ty with
  | some (.int _) => decide (x.int e = 0)
  | some (.flt _) => (x.flt e).isZero
  | some .hx4 => (x.flt e).isZero
  | none => false

/-- A plane's exponent at an index; no plane contributes none (R63). -/
def planeAt (p : Option Stash) (i : Int) : Int :=
  match p with
  | some x => x.int i.toNat
  | none => 0

/-! ## Primitives (R169) -/

/-- One primitive: its slot, the two diagonals by first row, length and first element, the shift from the row of x to
the row of y, and whether the inner planes are indexed at 0 (`dop`). -/
structure Prim where
  slot : Slot
  aRow : Int
  aLen : Int
  aAt : Int
  bRow : Int
  bLen : Int
  bAt : Int
  sh : Int
  outer : Bool
  deriving DecidableEq, Repr

/-- Rows [lo, hi) of a primitive. -/
def Prim.lo (p : Prim) : Int := max p.aRow (max (p.bRow - p.sh) p.slot.row0)
def Prim.hi (p : Prim) : Int := min (p.aRow + p.aLen) (min (p.bRow - p.sh + p.bLen) p.slot.rowEnd)

/-- INT32, the accumulator's integer type. -/
def accInt : IntTy := ⟨32, true⟩

/-- What a product needs: zero skipping, subtraction, the sources and the inner planes. -/
structure Feed where
  z : Bool
  neg : Bool
  a : Stash
  b : Stash
  ga : Option Stash
  rb : Option Stash
  deriving DecidableEq, Repr

/-- Row i of a primitive: one product into one accumulator element. -/
def Prim.row (f : Feed) (p : Prim) (c : Ctx) (i : Int) : Ctx :=
  let ea := (p.aAt + (i - p.aRow)).toNat
  let eb := (p.bAt + (i + p.sh - p.bRow)).toNat
  let w := p.slot.word i
  if f.z && f.a.zero ea then c
  else if p.slot.intCls then
    let m := f.a.int ea * f.b.int eb
    let r := accInt.wrap (accInt.val (c.poolWord w) + if f.neg then -m else m)
    (c.setPool w r.1).addFlags r.2
  else
    let k := if p.outer then 0 else i + p.sh
    let m := fmul (f.a.flt ea) (f.b.flt eb)
    let x := m.1.scale (planeAt f.ga k + planeAt f.rb k)
    let t := fadd .rne (fp32.decode (c.poolWord w)) (if f.neg then x.negate else x)
    let r := fp32.rne t.1
    (c.setPool w r.1).addFlags (m.2 ||| t.2 ||| r.2)

/-- A whole primitive, rows ascending. -/
def Prim.run (f : Feed) (c : Ctx) (p : Prim) : Ctx :=
  ((upFrom 0 (p.hi - p.lo).toNat).map fun j => p.lo + (j : Int)).foldl (p.row f) c

/-- L(d), lo(d) of a W × W shape, and Pk(d), the first element of packed diagonal d (R160, `dmm`). -/
def packLen (w : Nat) (d : Int) : Int := w - d.natAbs
def packRow (d : Int) : Int := max 0 (-d)
def packAt (w : Nat) (d : Int) : Int :=
  ((upFrom 0 (d + w - 1).toNat).map fun j => packLen w ((j : Int) - (w - 1))).sum

/-- The primitives of `dmm` into the slot of offset c, in the order of R172. -/
def dmmSlot (w : Nat) (x : Slot) (c : Int) : List Prim :=
  let lo := max (-(w - 1 : Int)) (c - (w - 1))
  let hi := min (w - 1 : Int) (c + w - 1)
  (upFrom 0 (hi - lo + 1).toNat).map fun j =>
    let a := lo + (j : Int)
    let b := c - a
    { slot := x
      aRow := packRow a
      aLen := packLen w a
      aAt := packAt w a
      bRow := packRow b
      bLen := packLen w b
      bAt := packAt w b
      sh := a
      outer := false }

/-- The primitives of `dmm` over its slots, offsets from −(W − 1). -/
def dmmPlan (w : Nat) : List Slot → Int → List Prim
  | [], _ => []
  | x :: t, c => dmmSlot w x c ++ dmmPlan w t (c + 1)

/-- Header fields as integers. -/
def offI (h : BitVec 192) : Int := (hdrOff h).toInt
def ancI (h : BitVec 192) : Int := (hdrAnc h).toNat
def lenI (h : BitVec 192) : Int := (hdrLen h).toNat

/-- The primitive of `dmac` and `dmsc` (R169). -/
def macPrim (ha hb : BitVec 192) (x : Slot) : Prim :=
  { slot := x
    aRow := ancI ha
    aLen := lenI ha
    aAt := 0
    bRow := ancI hb
    bLen := lenI hb
    bAt := 0
    sh := offI ha
    outer := false }

/-- One primitive of `dop` (R173). -/
def dopPrim (ha hb : BitVec 192) (x : Slot) : Prim := { macPrim ha hb x with sh := x.diag, outer := true }

/-! ## The multiplying forms -/

/-- The multiplying instructions. -/
inductive MulOp where
  | dmac | dmsc | dmm | dop
  deriving DecidableEq, Repr

/-- M, K and N as captured. -/
def shapeM (u : UCsr) : Nat := (u.cshapemk.extractLsb' 0 32).toNat
def shapeK (u : UCsr) : Nat := (u.cshapemk.extractLsb' 32 32).toNat
def shapeN (u : UCsr) : Nat := (u.cshapen.extractLsb' 0 32).toNat

/-- W of a `dmm`, none where the shape or the slot range is not one it takes. -/
def dmmShape (u : UCsr) (k : Nat) : Option Nat :=
  let w := shapeM u
  if w = shapeK u ∧ w = shapeN u ∧ 1 ≤ w ∧ w ≤ 128 ∧ k + 2 * w - 2 ≤ 255 then some w else none

/-- The slots a multiplying instruction names. -/
def mulSlots (o : MulOp) (u : UCsr) (k : Nat) : List Nat :=
  match o with
  | .dmac | .dmsc => [k]
  | .dmm => match dmmShape u k with
    | some w => upFrom k (2 * w - 1)
    | none => []
  | .dop => upFrom k u.kcnt.toNat

/-- Its primitives, in order. -/
def mulPlan (o : MulOp) (u : UCsr) (k : Nat) (ha hb : BitVec 192) (xs : List Slot) : List Prim :=
  match o with
  | .dmac | .dmsc => xs.map (macPrim ha hb)
  | .dop => xs.map (dopPrim ha hb)
  | .dmm => match dmmShape u k with
    | some w => dmmPlan w xs (-(w - 1 : Int))
    | none => []

/-- Elements read of each source: a header's LEN, or W² (R166 check 3). A `dmm` whose shape is no W × W names no
range. -/
def mulRange (o : MulOp) (u : UCsr) (k : Nat) (h : BitVec 192) : Nat :=
  match o with
  | .dmac | .dmsc | .dop => (hdrLen h).toNat
  | .dmm => match dmmShape u k with
    | some w => w * w
    | none => if shapeM u = shapeK u ∧ shapeM u = shapeN u then shapeM u * shapeM u else 0

/-- One past the largest inner plane index used. -/
def mulPlaneTop (o : MulOp) (u : UCsr) (k : Nat) (ps : List Prim) : Nat :=
  match o with
  | .dmac | .dmsc => (ps.map fun p => if p.lo < p.hi then (p.hi + p.sh).toNat else 0).foldl max 0
  | .dmm => match dmmShape u k with
    | some w => w
    | none => 0
  | .dop => if ps.isEmpty then 0 else 1

/-- Offsets and shape agree (R166 check 4, R169, R172, R173). -/
def mulAgrees (o : MulOp) (u : UCsr) (k : Nat) (ha hb : BitVec 192) (int : Bool) (xs : List Slot) : Bool :=
  (xs.all Slot.extentOk) && match o with
  | .dmac | .dmsc =>
    extentOk (offI ha) (ancI ha) (lenI ha) && extentOk (offI hb) (ancI hb) (lenI hb)
      && xs.all fun x => decide (x.diag = offI ha + offI hb)
  | .dop => extentOk 0 (ancI ha) (lenI ha) && extentOk 0 (ancI hb) (lenI hb)
  | .dmm => match dmmShape u k with
    | some w => (xs.zip (upFrom 0 xs.length)).all fun p =>
        p.1.alloc && decide (p.1.diag = (p.2 : Int) - (w - 1)) && decide (p.1.intCls = int)
    | none => false

/-- Sources that no wait would make readable trap EMPTY; pending ones wait (R166 check 5). -/
def cableState (c : Ctx) (e : Bool) (rs : List VReg5) : Chk :=
  let srcs := wholes rs
  if srcs.any (c.srcTraps e) then .fault cEmpty
  else if srcs.any c.srcWaits then .wait
  else .ok

/-- The checks of R166 for a multiplying instruction. -/
def mulCheck (o : MulOp) (e : Bool) (vs1 vs2 : VReg5) (k : Nat) (u : UCsr) (c : Ctx) : Chk :=
  let ha := (c.vr vs1).hdr
  let hb := (c.vr vs2).hdr
  let planes := innerA c vs1 ++ innerB c vs2
  let ks := mulSlots o u k
  let xs := ks.map c.slot
  let top := mulPlaneTop o u k (mulPlan o u k ha hb xs)
  if !((vs1 :: vs2 :: planes).all c.vrOk) then .fault cVlover
  else if decide (o ≠ .dmm) && !(ks.all fun n => decide (n ≤ 255) && (c.slot n).alloc) then .fault cOffset
  else match pairKind c vs1 vs2 with
    | none => .fault cTag
    | some int =>
      if !(planes.all (planeTag c)) || (decide (o ≠ .dmm) && xs.any fun x => decide (x.intCls ≠ int)) then .fault cTag
      else if !((ownCaps c [vs1]).all fun p => decide (mulRange o u k ha ≤ capBits c p.2))
          || !((ownCaps c [vs2]).all fun p => decide (mulRange o u k hb ≤ capBits c p.2))
          || (!planes.isEmpty && decide (capBits c 8 < top)) then .fault cVlover
      else if !(mulAgrees o u k ha hb int xs) || (bindAll c vs1 vs2 xs).isNone then .fault cOffset
      else cableState c e (vs1 :: vs2 :: planes)

/-- The sources a multiplying instruction copies, in the order vs1, vs2, γ, ρ. -/
def mulSources (o : MulOp) (vs1 vs2 : VReg5) (k : Nat) (u : UCsr) (c : Ctx) : List (VReg5 × Nat) :=
  let ha := (c.vr vs1).hdr
  let hb := (c.vr vs2).hdr
  let ps := mulPlan o u k ha hb ((mulSlots o u k).map c.slot)
  if ps.isEmpty then []
  else
    let top := mulPlaneTop o u k ps
    [(vs1, mulRange o u k ha), (vs2, mulRange o u k hb)] ++ (innerA c vs1 ++ innerB c vs2).map fun r => (r, top)

/-- Put an entry at the end of the Cable queue. -/
def Ctx.enqueue (c : Ctx) (en : VEntry) (srcs : List Stash) (slots : List Slot) : Ctx :=
  { c with cable := c.cable ++ [{ v := en, srcs := srcs, slots := slots, steps := 0 }] }

/-- The Cable queue holds 16 entries (R165). -/
def cableFull (c : Ctx) : Bool := decide (16 ≤ c.cable.length)

/-- Issue behind a check: wait for room, then check, then change headers and enter the queue (R165, R166). -/
def cableIssue (chk : Ctx → Chk) (go : Ctx → Ctx) (s : State) : VOut :=
  if cableFull s.ctx then .wait
  else match chk s.ctx with
    | .wait => .wait
    | .fault cause => .fault s cause none 0
    | .ok => .done (s.mapCtx go)

/-- Issue a multiplying instruction. -/
def mulIssue (o : MulOp) (vs1 vs2 : VReg5) (k : Nat) (en : VEntry) (c : Ctx) : Ctx :=
  let u := en.csr
  let ks := mulSlots o u k
  let xs := ks.map c.slot
  let bound := (bindAll c vs1 vs2 xs).getD xs
  let l := c.lendAll (mulSources o vs1 vs2 k u c)
  (l.1.setSlots k bound).enqueue en l.2 bound

def runMul (o : MulOp) (e : Bool) (vs2 vs1 : VReg5) (k : BitVec 8) (en : VEntry) (s : State) : VOut :=
  cableIssue (mulCheck o e vs1 vs2 k.toNat en.csr) (mulIssue o vs1 vs2 k.toNat en) s

/-- The primitives of an entry, from what its issue captured. -/
def mulPrims (o : MulOp) (vs1 vs2 : VReg5) (k : Nat) (n : CEntry) : List Prim :=
  let h (r : VReg5) : BitVec 192 := ((n.srcs.find? fun x => decide (x.reg = r)).map fun x => x.hdr).getD 0
  if n.srcs.isEmpty then [] else mulPlan o n.v.csr k (h vs1) (h vs2) n.slots

/-- What an entry's products read. -/
def mulFeed (o : MulOp) (z : Bool) (n : CEntry) : Option Feed :=
  match n.srcs with
  | a :: b :: planes =>
    let ga := if hdrSc a.hdr then planes.head? else none
    let rb := if hdrSc b.hdr then (if hdrSc a.hdr then planes.tail else planes).head? else none
    some ⟨z, decide (o = .dmsc), a, b, ga, rb⟩
  | [_] => none
  | [] => none

/-- Perform primitives numbered from the step index up to below `upto`. -/
def mulRun (o : MulOp) (z : Bool) (vs1 vs2 : VReg5) (k : Nat) (n : CEntry) (upto : Nat) (c : Ctx) : Ctx :=
  match mulFeed o z n with
  | none => c
  | some f => (((mulPrims o vs1 vs2 k n).take upto).drop n.steps).foldl (Prim.run f) c

/-! ## kalloc, kfree, kzero (R163, R164) -/

/-- First slot and number of slots of a range operand. -/
def slotFirst (x : Word) : Nat := (x.extractLsb' 0 8).toNat
def slotCount (x : Word) : Nat := (x.extractLsb' 8 8).toNat + 1

/-- L(d) of a shape (R160). -/
def diagLen (m n : Int) (d : Int) : Int := max 0 (min m (n - d) - max 0 (-d))

/-- The headers `kalloc` writes from offset d, pool word w onward, and the word after the last. -/
def allocRun (m n : Int) (cls : Bool) (d : Int) (w : Nat) : Nat → List Slot × Nat
  | 0 => ([], w)
  | j + 1 =>
    let len := (diagLen m n d).toNat
    let r := allocRun m n cls (d + 1) (w + len) j
    ({ alloc := true
       intCls := cls
       off := BitVec.ofInt 32 d
       anc := BitVec.ofInt 32 (max 0 (-d))
       len := BitVec.ofNat 32 len
       base := BitVec.ofNat 15 w
       bnd := false
       uns := false
       ar := 0
       br := 0 } :: r.1, r.2)

/-- The headers of an entry's `kalloc`. -/
def allocOf (en : VEntry) : List Slot × Nat :=
  allocRun (shapeM en.csr) (shapeN en.csr) (en.a.getLsbD 16) (lo32 en.b).toInt (en.a.extractLsb' 32 15).toNat (slotCount en.a)

/-- `kalloc` (R163). -/
def runKalloc (en : VEntry) (s : State) : VOut :=
  let f := slotFirst en.a
  let n := slotCount en.a
  let r := allocOf en
  cableIssue (fun c =>
    if decide (255 < f + n - 1) || ((upFrom f n).any fun k => (c.slot k).alloc)
        || decide (2 ^ 31 - 1 < (lo32 en.b).toInt + n - 1) then .fault cOffset
    else if c.accw < r.2 then .fault cVlover
    else .ok)
    (fun c => (c.setSlots f r.1).enqueue en [] r.1) s

/-- `kfree` (R164). -/
def runKfree (en : VEntry) (s : State) : VOut :=
  let f := slotFirst en.a
  let n := slotCount en.a
  cableIssue (fun _ => if 255 < f + n - 1 then .fault cOffset else .ok)
    (fun c => (c.setSlots f ((upFrom f n).map fun k => { c.slot k with alloc := false })).enqueue en [] []) s

/-- A slot as `kzero` leaves its header. -/
def Slot.unbind (x : Slot) : Slot := if x.alloc then { x with bnd := false, uns := false, ar := 0, br := 0 } else x

/-- `kzero` (R164). -/
def runKzero (en : VEntry) (s : State) : VOut :=
  let f := slotFirst en.a
  let n := slotCount en.a
  cableIssue (fun _ => if 255 < f + n - 1 then .fault cOffset else .ok)
    (fun c =>
      let xs := (upFrom f n).map fun k => (c.slot k).unbind
      (c.setSlots f xs).enqueue en [] xs) s

/-! ## kin and kadd (R174, R175) -/

/-- The checks of `kin`. -/
def kinCheck (e : Bool) (vs1 : VReg5) (k : Nat) (c : Ctx) : Chk :=
  let h := (c.vr vs1).hdr
  let x := c.slot k
  if !c.vrOk vs1 then .fault cVlover
  else if !x.alloc then .fault cOffset
  else if decide (cableKind c vs1 ≠ some x.intCls) || (x.intCls && c.scaled vs1) then .fault cTag
  else if !((ownCaps c [vs1]).all fun p => decide ((hdrLen h).toNat ≤ capBits c p.2)) then .fault cVlover
  else if decide (x.diag ≠ offI h) || c.scaled vs1 || !x.extentOk || !extentOk (offI h) (ancI h) (lenI h) then .fault cOffset
  else cableState c e [vs1]

def runKin (e : Bool) (vs1 : VReg5) (k : BitVec 8) (en : VEntry) (s : State) : VOut :=
  cableIssue (kinCheck e vs1 k.toNat)
    (fun c =>
      let l := c.lendAll [(vs1, (hdrLen (c.vr vs1).hdr).toNat)]
      l.1.enqueue en l.2 [c.slot k.toNat]) s

/-- Rows of two ranges in common. -/
def commonRows (lo1 hi1 lo2 hi2 : Int) : List Int :=
  (upFrom 0 (min hi1 hi2 - max lo1 lo2).toNat).map fun j => max lo1 lo2 + (j : Int)

/-- Write a diagonal into a slot. -/
def kinRun (n : CEntry) (c : Ctx) : Ctx :=
  match n.srcs, n.slots with
  | x :: _, y :: _ =>
    (commonRows (ancI x.hdr) (ancI x.hdr + lenI x.hdr) y.row0 y.rowEnd).foldl (fun d i =>
      let e := (i - ancI x.hdr).toNat
      if y.intCls then d.setPool (y.word i) (accInt.bits (x.int e))
      else
        let r := fp32.rne (x.flt e)
        (d.setPool (y.word i) r.1).addFlags r.2) c
  | [], _ => c
  | _ :: _, [] => c

/-- The checks of `kadd`. -/
def kaddCheck (j k : Nat) (c : Ctx) : Chk :=
  let x := c.slot k
  let y := c.slot j
  let h (r : VReg5) : BitVec 192 := (c.vr r).hdr
  if !x.alloc || !y.alloc then .fault cOffset
  else if decide (x.off ≠ y.off) || decide (x.intCls ≠ y.intCls) || decide (x.bnd ≠ y.bnd)
      || (x.bnd && !(agreeA (h x.ar) (h y.ar) && agreeB (h x.br) (h y.br)))
      || !x.extentOk || !y.extentOk then .fault cOffset
  else .ok

def runKadd (j k : BitVec 8) (en : VEntry) (s : State) : VOut :=
  cableIssue (kaddCheck j.toNat k.toNat)
    (fun c =>
      let x := c.slot k.toNat
      let y := c.slot j.toNat
      (c.setSlot k.toNat { x with uns := x.uns || y.uns }).enqueue en [] [x, y]) s

/-- Add one slot into another, rows ascending. -/
def kaddRun (n : CEntry) (c : Ctx) : Ctx :=
  match n.slots with
  | [x, y] =>
    (commonRows x.row0 x.rowEnd y.row0 y.rowEnd).foldl (fun d i =>
      let a := d.poolWord (x.word i)
      let b := d.poolWord (y.word i)
      if x.intCls then
        let r := accInt.wrap (accInt.val a + accInt.val b)
        (d.setPool (x.word i) r.1).addFlags r.2
      else
        let t := fadd .rne (fp32.decode a) (fp32.decode b)
        let r := fp32.rne t.1
        (d.setPool (x.word i) r.1).addFlags (t.2 ||| r.2)) c
  | [] => c
  | [_] => c
  | _ :: _ :: _ :: _ => c

/-! ## dout (R176, R177) -/

/-- The bits of a drain form. -/
structure DoutOp where
  b : Bool
  a : Bool
  q : Bool
  deriving DecidableEq, Repr

/-- An integer tag. -/
def isIntTag (c : Ctx) (r : VReg5) : Bool := (c.ety r).any ETy.isInt

/-- The integer path's condition, apart from vb's tag (R176). -/
def doutIntBase (o : DoutOp) (vd : VReg5) (x : Slot) (c : Ctx) : Bool := x.intCls && !o.a && !o.q && isIntTag c vd

/-- The outer planes a drain uses: ρ of AR and γ of BR (R170, R176). -/
def outerA (x : Slot) (c : Ctx) : List VReg5 :=
  if x.bnd && !x.intCls && c.scaled x.ar then [hdrRowp (c.vr x.ar).hdr] else []
def outerB (x : Slot) (c : Ctx) : List VReg5 :=
  if x.bnd && !x.intCls && c.scaled x.br then [hdrColp (c.vr x.br).hdr] else []

/-- One past the last column of a slot, 0 for an empty one. -/
def Slot.colEnd (x : Slot) : Nat := if x.len = 0 then 0 else (x.rowEnd + x.diag).toNat

/-- One past the last row of a slot, 0 for an empty one. -/
def Slot.rowTop (x : Slot) : Nat := if x.len = 0 then 0 else x.rowEnd.toNat

/-- The checks of `dout`. -/
def doutCheck (o : DoutOp) (e : Bool) (vb vd : VReg5) (k : Nat) (c : Ctx) : Chk :=
  let x := c.slot k
  let bs := if o.b || o.a then [vb] else []
  let pa := outerA x c
  let pb := outerB x c
  let wOf (r : VReg5) : Nat := ((c.ety r).map ETy.bits).getD 8
  if !((vd :: bs ++ pa ++ pb).all c.vrOk) then .fault cVlover
  else if !x.alloc then .fault cOffset
  else if (c.ety vd).isNone || (decide (c.ety vd = some .hx4) && !o.q)
      || (o.b && (c.ety vb).isNone) || (o.b && isIntTag c vb && !doutIntBase o vd x c)
      || !((pa ++ pb).all (planeTag c)) then .fault cTag
  else if decide (capBits c (wOf vd) < x.len.toNat) || (o.b && decide (capBits c (wOf vb) < x.colEnd))
      || (!pa.isEmpty && decide (capBits c 8 < x.rowTop)) || (!pb.isEmpty && decide (capBits c 8 < x.colEnd)) then
    .fault cVlover
  else if !x.extentOk then .fault cOffset
  else match cableState c e (bs ++ pa ++ pb) with
    | .ok => if (c.vr vd).st = .pending then .wait else .ok
    | .wait => .wait
    | .fault cause => .fault cause

/-- Issue a drain: capture vb (when its elements are read), ρ and γ; vd is pending until the write (R108, R168). -/
def doutIssue (o : DoutOp) (vb vd : VReg5) (k : Nat) (en : VEntry) (c : Ctx) : Ctx :=
  let x := c.slot k
  let srcs := (if o.b then [(vb, x.colEnd)] else []) ++ (outerA x c).map (fun r => (r, x.rowTop))
    ++ (outerB x c).map fun r => (r, x.colEnd)
  let l := c.lendAll srcs
  let bare (r : VReg5) : Stash := { stashOf c r 0 with copied := true, live := false }
  (l.1.mapVr vd fun v => { v with st := .pending, landed := none }).enqueue en (l.2 ++ [bare x.ar, bare x.br, bare vb]) [x]

def runDout (o : DoutOp) (e : Bool) (vb vd : VReg5) (k : BitVec 8) (en : VEntry) (s : State) : VOut :=
  cableIssue (doutCheck o e vb vd k.toNat) (doutIssue o vb vd k.toNat en) s

/-- Integer part of a finite value, toward minus infinity. -/
def floorVal (s : Bool) (m : Nat) (e : Int) : Int :=
  let x : Int := if s then -m else m
  if 0 ≤ e then x * 2 ^ e.toNat else x / 2 ^ (-e).toNat

/-- The clamp of a value that is not NaN to [0, 256], with its index Min(Floor(uc), 255) (R177). -/
def tableIndex (u : FVal) : FVal × Nat :=
  match u with
  | .nan => (.nan, 0)
  | .inf s => if s then (.fin false 0 0, 0) else (.fin false 256 0, 255)
  | .fin s m e =>
    let n := floorVal s m e
    if n < 0 then (.fin false 0 0, 0)
    else if 256 ≤ n then (.fin false 256 0, 255)
    else (.fin s m e, n.toNat)

/-- The activation step on FP32 bits: the table's words, BASE and INV (R177). -/
def actStep (tab : Bytes) (t : Nat) (atab : Word) (bits : Nat) : Nat × Flags :=
  let base := fp32.decode (atab.extractLsb' 0 32).toNat
  let inv := fp32.decode (atab.extractLsb' 32 32).toNat
  let d := fadd .rne (fp32.decode bits) base.negate
  let r1 := fp32.rne d.1
  let p := fmul (fp32.decode r1.1) inv
  let r2 := fp32.rne p.1
  let f := d.2 ||| r1.2 ||| p.2 ||| r2.2
  let u := fp32.decode r2.1
  if u.isNan then (fp32.nanBits, f ||| flNV)
  else
    let (uc, n) := tableIndex u
    let value := fp32.decode (getLe tab (2048 * t + 8 * n) 4)
    let slope := fp32.decode (getLe tab (2048 * t + 8 * n + 4) 4)
    let y := ffma .rne value slope (fadd .rne uc (FVal.ofInt n).negate).1
    let r := fp32.rne y.1
    (r.1, f ||| y.2 ||| r.2)

/-- What a drain reads beside its slot: the bias, the outer planes, the tile scales, the table. -/
structure Drain where
  op : DoutOp
  slot : Slot
  bias : Option Stash
  rho : Option Stash
  gam : Option Stash
  ta : FVal
  tb : FVal
  tab : Nat
  deriving DecidableEq, Repr

/-- The tile scale of a bound register: 1 when it is not scaled. -/
def tileOf (used : Bool) (h : BitVec 192) : FVal := if used && hdrSc h then fp32.decode (hdrTs h).toNat else .fin false 1 0

/-- The drain of an entry, from what its issue captured: the sources, then AR, BR and vb. -/
def drainOf (o : DoutOp) (n : CEntry) : Option Drain :=
  match n.slots, n.srcs.reverse with
  | x :: _, vb :: br :: ar :: rest =>
    let srcs := rest.reverse
    let used := x.bnd && !x.intCls
    let s1 := if o.b then srcs.tail else srcs
    let hasA := used && hdrSc ar.hdr
    let hasB := used && hdrSc br.hdr
    some
      { op := o
        slot := x
        bias := if o.b then srcs.head? else none
        rho := if hasA then s1.head? else none
        gam := if hasB then (if hasA then s1.tail else s1).head? else none
        ta := tileOf used ar.hdr
        tb := tileOf used br.hdr
        tab := tagType vb.tag % 2 }
  | [], _ => none
  | _ :: _, [] => none
  | _ :: _, [_] => none
  | _ :: _, [_, _] => none

/-- The FP32 value of an element before its final conversion, with flags (R176). -/
def Drain.value (d : Drain) (u : UCsr) (c : Ctx) (e : Nat) : Nat × Flags :=
  let i := d.slot.row0 + (e : Int)
  let j := i + d.slot.diag
  let w := c.poolWord (d.slot.word i)
  let s0 : Nat × Flags :=
    if d.slot.intCls then fp32.rne (FVal.ofInt (accInt.val w))
    else
      let p := fmul (fp32.decode w) d.ta
      let q := fmul p.1 d.tb
      let r := fp32.rne (q.1.scale (planeAt d.rho i + planeAt d.gam j))
      (r.1, p.2 ||| q.2 ||| r.2)
  let s1 : Nat × Flags :=
    match d.bias with
    | some b =>
      let t := fadd .rne (fp32.decode s0.1) (b.flt j.toNat)
      let r := fp32.rne t.1
      (r.1, s0.2 ||| t.2 ||| r.2)
    | none => s0
  if d.op.a then
    let r := actStep c.atab d.tab (if d.tab = 0 then u.atab0 else u.atab1) s1.1
    (r.1, s1.2 ||| r.2)
  else s1

/-- An element of the integer path. -/
def Drain.intElem (d : Drain) (t : IntTy) (c : Ctx) (e : Nat) : Nat × Flags :=
  let i := d.slot.row0 + (e : Int)
  let w := accInt.val (c.poolWord (d.slot.word i))
  let s : Nat × Flags :=
    match d.bias with
    | some b => accInt.wrap (w + b.int (i + d.slot.diag).toNat)
    | none => (accInt.bits w, 0)
  let r := t.wrap (accInt.val s.1)
  (r.1, s.2 ||| r.2)

/-- An element of the float path that is no HX4. -/
def Drain.elem (d : Drain) (t : ETy) (u : UCsr) (c : Ctx) (e : Nat) : Nat × Flags :=
  let v := d.value u c e
  let r : Nat × Flags :=
    if d.op.q then
      let p := fmul (fp32.decode v.1) (fp32.decode (u.qscl.extractLsb' 0 32).toNat)
      let x := cvtBits t (.flt fp32) (rndOf (rmodeOf u.vxctl) u.vxctl c.sr e) true 0 0 p.1
      (x.1, p.2 ||| x.2)
    else cvtBits t (.flt fp32) rnE false v.1 0 (fp32.decode v.1)
  (r.1, v.2 ||| r.2)

/-- Write a drain's elements into vd (R176). -/
def doutRun (o : DoutOp) (vd : VReg5) (n : CEntry) (c : Ctx) : Ctx :=
  match drainOf o n, c.ety vd with
  | some d, some t =>
    let u := n.v.csr
    let mode := rmodeOf u.vxctl
    let lk := d.slot.len.toNat
    let es := upFrom 0 lk
    let c' : Ctx := match t with
      | .hx4 =>
        let c1 := es.foldl (fun (x : Ctx) e => x.addFlags (d.value u c e).2) c
        let nb := 2 ^ blkLog (c.vr vd).tag
        (upFrom 0 ((lk + nb - 1) / nb)).foldl
          (fun x b => quantInto vd mode u.vxctl 0 lk (fun e => fp32.decode (d.value u c e).1) x b) c1
      | .int i =>
        if doutIntBase o vd d.slot c && (match d.bias with
            | some b => (b.ty.any ETy.isInt)
            | none => true)
        then emitAll vd i.w false (d.intElem i c) es c
        else emitAll vd i.w (o.q && decide (mode = RMode.sr)) (d.elem t u c) es c
      | .flt f => emitAll vd f.width (o.q && decide (mode = RMode.sr)) (d.elem t u c) es c
    let c2 := (c'.mapVr vd fun v => { v with st := .full, landed := none }).stale vd
    if t = .hx4 then c2.staleQ (tagQs (c.vr vd).tag) else c2
  | some _, none => c.mapVr vd fun v => { v with st := .full, landed := none }
  | none, _ => c

/-! ## atabld (R178) -/

/-- Read n words of GLOBAL memory, checked as elements. -/
def readGlobal (en : VEntry) (j : Nat) : Nat → M (List Byte)
  | 0 => return []
  | n + 1 => do
    let a := wordAddr en j
    let l ← elemLoc .load 0 en.priv 64 a
    let bs ← readVec l 8 a
    let t ← readGlobal en (j + 1) n
    return bs ++ t

/-- `atabld`: the table is read at the VIQ and written in Cable-queue order. -/
def runAtabld (en : VEntry) (s : State) : VOut :=
  if cableFull s.ctx then .wait
  else wholeM (do
    let bs ← readGlobal en 0 256
    let x : Stash := { reg := 0, tag := 0, hdr := 0, data := setBytes [] 0 bs, q := [], len := 0, copied := true, live := false, reused := false }
    modify fun t => t.mapCtx fun c => c.enqueue en [x] []) s

/-- Write table xs2[0] from the words an `atabld` read. -/
def atabRun (n : CEntry) (c : Ctx) : Ctx :=
  match n.srcs with
  | x :: _ =>
    { c with atab := setBytes c.atab (if n.v.b.getLsbD 0 then 2048 else 0) (getBytes x.data 0 2048) }
  | [] => c

/-! ## The Cable queue -/

/-- Number of primitives of an entry (R181's step index runs up to it). -/
def CEntry.prims (n : CEntry) : Nat :=
  match n.v.instr with
  | .dmac _ _ vs2 vs1 k => (mulPrims .dmac vs1 vs2 k.toNat n).length
  | .dmsc _ _ vs2 vs1 k => (mulPrims .dmsc vs1 vs2 k.toNat n).length
  | .dmm _ _ vs2 vs1 k => (mulPrims .dmm vs1 vs2 k.toNat n).length
  | .dop _ _ vs2 vs1 k => (mulPrims .dop vs1 vs2 k.toNat n).length
  | _ => 1

/-- Perform an entry from its step index up to below `upto`. A form that is no multiplication is one step. -/
def CEntry.run (n : CEntry) (upto : Nat) (c : Ctx) : Ctx :=
  let once (f : Ctx → Ctx) : Ctx := if n.steps = 0 ∧ 0 < upto then f c else c
  let drain (o : DoutOp) (vd : VReg5) : Ctx := once (doutRun o vd n)
  match n.v.instr with
  | .dmac z _ vs2 vs1 k => mulRun .dmac z vs1 vs2 k.toNat n upto c
  | .dmsc z _ vs2 vs1 k => mulRun .dmsc z vs1 vs2 k.toNat n upto c
  | .dmm z _ vs2 vs1 k => mulRun .dmm z vs1 vs2 k.toNat n upto c
  | .dop z _ vs2 vs1 k => mulRun .dop z vs1 vs2 k.toNat n upto c
  | .kin _ _ _ => once (kinRun n)
  | .kadd _ _ => once (kaddRun n)
  | .kalloc _ _ => once fun c => n.slots.foldl Ctx.zeroSlot c
  | .kzero _ => once fun c => n.slots.foldl Ctx.zeroSlot c
  | .atabld _ _ => once (atabRun n)
  | .dout _ _ vd _ => drain ⟨false, false, false⟩ vd
  | .doutQ _ _ vd _ => drain ⟨false, false, true⟩ vd
  | .doutA _ _ vd _ => drain ⟨false, true, false⟩ vd
  | .doutAq _ _ vd _ => drain ⟨false, true, true⟩ vd
  | .doutB _ _ vd _ => drain ⟨true, false, false⟩ vd
  | .doutBq _ _ vd _ => drain ⟨true, false, true⟩ vd
  | .doutBa _ _ vd _ => drain ⟨true, true, false⟩ vd
  | .doutBaq _ _ vd _ => drain ⟨true, true, true⟩ vd
  | _ => c

/-- The entry at the head completes and leaves the queue (R165). -/
def Ctx.cableFinish (c : Ctx) : Ctx :=
  match c.cable with
  | [] => c
  | n :: t => { (n.run n.prims c) with cable := t }.relend

/-- Complete the first n entries. -/
def Ctx.cableDrain (c : Ctx) : Nat → Ctx
  | 0 => c
  | n + 1 => c.cableFinish.cableDrain n

/-- Complete every entry, unless the Pattern sequencer is suspended (R181). -/
def Ctx.cableAll (c : Ctx) : Ctx := if c.cableSusp then c else c.cableDrain c.cable.length

/-- Perform primitives of the head entry up to a step index and leave it in the queue (R181, R183). -/
def Ctx.cablePause (c : Ctx) (upto : Nat) : Ctx :=
  match c.cable with
  | [] => c
  | n :: t =>
    let k := min n.prims (max n.steps upto)
    { (n.run k c) with cable := { n with steps := k } :: t }

/-- STASH_COPY_DONE (R167): the stash finishes copying a register's range. -/
def execStashCopyDone (v : VReg5) (s : State) : Host.Outcome State Fault Refusal := .next (s.mapCtx fun c => c.copyDone v)

/-- CABLE_ENTRY_COMPLETE (R165): the head entry finishes its primitives, merges its flags and leaves the queue. -/
def execCableEntryComplete (s : State) : Host.Outcome State Fault Refusal :=
  .next (if s.ctx.cableSusp then s else s.mapCtx Ctx.cableFinish)

/-! ## kfence, vkld and vkst -/

/-- `kfence` (R179). -/
def runKfence (s : State) : VOut := if s.ctx.cable.isEmpty then .done s else .wait

/-- The slots an entry touches. -/
def CEntry.touches (n : CEntry) (k : Nat) : Bool :=
  let u := n.v.csr
  let range : Bool := decide (slotFirst n.v.a ≤ k) && decide (k < slotFirst n.v.a + slotCount n.v.a)
  match n.v.instr with
  | .dmac _ _ _ _ j | .dmsc _ _ _ _ j => decide (k = j.toNat)
  | .dmm _ _ _ _ j => decide (k ∈ mulSlots .dmm u j.toNat)
  | .dop _ _ _ _ j => decide (k ∈ mulSlots .dop u j.toNat)
  | .kin _ _ j => decide (k = j.toNat)
  | .kadd i j => decide (k = i.toNat) || decide (k = j.toNat)
  | .kalloc _ _ | .kfree _ | .kzero _ => range
  | .dout _ _ _ j | .doutQ _ _ _ j | .doutA _ _ _ j | .doutAq _ _ _ j
  | .doutB _ _ _ j | .doutBq _ _ _ j | .doutBa _ _ _ j | .doutBaq _ _ _ j => decide (k = j.toNat)
  | _ => false

/-- The first checks of `vkld` and `vkst`: the slot range, then the space code, the address, then older entries. -/
def kimgCheck (en : VEntry) (space : Nat) (s : State) (go : State → VOut) : VOut :=
  let f := slotFirst en.b
  let n := slotCount en.b
  if 255 < f + n - 1 then .fault s cOffset none 0
  else if 4 ≤ space then .fault s cVmem none 0
  else if s.ctx.cable.any fun e => (upFrom f n).any e.touches then .wait
  else if en.a.toNat % 8 ≠ 0 then .fault s cVmem (some en.a) 0
  else go s

/-- The 32-byte head of a slot record (R235). -/
def slotHead (x : Slot) : List Byte :=
  let b (p : Bool) (n : Nat) : Nat := if p then 2 ^ n else 0
  let osb := b x.bnd 15 + b x.uns 14 + x.ar.toNat * 2 ^ 9 + x.br.toNat * 2 ^ 4
  natBytes 8 (x.base.toNat * 2 ^ 32 + osb * 2 ^ 16 + b x.intCls 1 + b x.alloc 0)
    ++ natBytes 4 x.off.toNat ++ natBytes 4 x.anc.toNat ++ natBytes 8 x.len.toNat ++ natBytes 8 0

/-- A reserved bit of a slot record's head is set. -/
def slotHeadBad (h : Nat) : Bool :=
  let f (lo n : Nat) : Nat := h / 2 ^ lo % 2 ^ n
  decide (f 47 17 ≠ 0) || decide (f 2 14 ≠ 0) || decide (f 16 4 ≠ 0) || decide (f (128 + 32) 32 ≠ 0) || decide (f 192 64 ≠ 0)

/-- The header a head holds. -/
def slotOfHead (h : Nat) : Slot :=
  let w : Word := BitVec.ofNat 64 h
  { alloc := w.getLsbD 0
    intCls := w.getLsbD 1
    off := BitVec.ofNat 32 (h / 2 ^ 64)
    anc := BitVec.ofNat 32 (h / 2 ^ 96)
    len := BitVec.ofNat 32 (h / 2 ^ 128)
    base := w.extractLsb' 32 15
    bnd := w.getLsbD 31
    uns := w.getLsbD 30
    ar := w.extractLsb' 25 5
    br := w.extractLsb' 20 5 }

/-- Bytes of a slot's words in a record. -/
def slotWords (x : Slot) : Nat := if x.alloc then (x.len.toNat + 1) / 2 else 0

/-- The record of a slot. -/
def slotRecord (c : Ctx) (x : Slot) : List Byte :=
  slotHead x ++ if x.alloc then
    getBytes c.pool (4 * x.base.toNat) (4 * x.len.toNat) ++ (if x.len.toNat % 2 = 1 then natBytes 4 0 else [])
  else []

/-- `vkst` (R236). -/
def runVkst (en : VEntry) (s : State) : VOut :=
  kimgCheck en (stSpace en) s fun s =>
    let c := s.ctx
    let image := setBytes [] 0 (((upFrom (slotFirst en.b) (slotCount en.b)).map fun k => slotRecord c (c.slot k)).flatten)
    let n := ((upFrom (slotFirst en.b) (slotCount en.b)).map fun k => 4 + slotWords (c.slot k)).sum
    (storeFinish en (storeScan (wordWrite en fun _ j => getBytes image (8 * j) 8) (upFrom 0 n) s [])).whole

/-- Read and check n slot records from word j on: the headers with their pool words. -/
def readSlots (en : VEntry) (j : Nat) : Nat → M (List (Slot × List Byte))
  | 0 => return []
  | n + 1 => do
    let hb ← readWords en j 4
    let h := leNat hb
    let x := slotOfHead h
    let s ← get
    if slotHeadBad h then trapM cVmem (en.word.setWidth 64)
    if x.alloc ∧ s.ctx.accw < x.base.toNat + x.len.toNat then trapM cVlover (en.word.setWidth 64)
    let ws ← readWords en (j + 4) (slotWords x)
    let t ← readSlots en (j + 4 + slotWords x) n
    return (x, ws) :: t

/-- `vkld` (R236): every record is read and checked before any slot changes. -/
def runVkld (en : VEntry) (s : State) : VOut :=
  kimgCheck en (ldSpace en) s fun s =>
    wholeM (do
      let rs ← readSlots en 0 (slotCount en.b)
      modify fun t => t.mapCtx fun c =>
        let c := c.setSlots (slotFirst en.b) (rs.map Prod.fst)
        rs.foldl (fun d r => if r.1.alloc then
          { d with pool := setBytes d.pool (4 * r.1.base.toNat) (r.2.take (4 * r.1.len.toNat)) } else d) c) s

end Sys2Proof.Machine
end

