-- ==== Sys2Proof/Machine/Copy.lean ====
section
/-! DEFINITION. The copy engine (R276 to R286): the checks at issue, the elements of each copy, performing and completing
them with their purse withdrawal, the landed prefix of `cpyv`, tiles and their descriptors, and `cring`. -/

namespace Sys2Proof.Machine

/-! ## The checks at issue (R276) -/

/-- Bytes of a width code. -/
def copyBytes (w : BitVec 2) : Nat := 2 ^ w.toNat

/-- Entries of the copy queue (R270). -/
def copyFull (s : State) : Bool := decide (32 ≤ s.core.copies.length)

/-- Step 1 for a register of n elements at w bytes: VLOVER, TAG, then VLOVER. -/
def copyRegBad (c : Ctx) (r : VReg5) (w n : Nat) : Option (BitVec 6) :=
  if !c.vrOk r then some cVlover
  else match c.ety r with
    | none => some cTag
    | some t => if t = .hx4 ∨ t.bits ≠ 8 * w then some cTag else if capBits c (8 * w) < n then some cVlover else none

/-- A PEER address that names a chip outside the job. -/
def peerOutside (s : State) (a : Word) : Bool :=
  decide (a.extractLsb' 52 12 ≠ s.chip) && !peerReach s s.pidx (a.extractLsb' 52 12)

/-- Step 4 for one address: aligned, valid in its space, its chip in the job. Translation comes later. -/
def copyAddr (acc : Acc) (space : Nat) (p : Priv) (w : Nat) (a : Word) : M Unit := do
  if a.toNat % w ≠ 0 then trapM cVmem a
  let s ← get
  match ((resolveSpace space acc p a w).run s).1 with
  | .ok _ => return ()
  | .error (.trap cause tv) =>
    if cause = cVmem ∨ (space = 3 ∧ cause = acc.accessCause ∧ peerOutside s a = true) then trapM cause tv
    else return ()
  | .error .stall => return ()
  | .error (.block ..) => return ()
  | .error (.port _) => return ()

/-- Step 4 for a list of addresses. -/
def copyAddrs (acc : Acc) (space : Nat) (p : Priv) (w : Nat) : List Word → M Unit
  | [] => return ()
  | a :: t => do
    copyAddr acc space p w a
    copyAddrs acc space p w t

/-- A source on another chip whose translation fails there (R338, Table 10.3); a store finds out when it is performed
(R277). -/
def peerSource (acc : Acc) (l : Loc) (a : Word) : M Unit := do
  let s ← get
  match acc, l with
  | .load, .peer _ _ => do
    set { s with draws := s.draws + 1 }
    if peerRefuses s then trapM cLoadPage a else return ()
  | _, _ => return ()

/-- Step 5 for a list of addresses, lowest element first. -/
def copyXlate (acc : Acc) (space : Nat) (p : Priv) (w : Nat) : List Word → M (List Loc)
  | [] => return []
  | a :: t => do
    let l ← resolveSpace space acc p a w
    peerSource acc l a
    match locPort l with
    | some q => throw (.port q)
    | none =>
      let r ← copyXlate acc space p w t
      return l :: r

/-- Steps 3 to 5: the sources, then the destinations. `word` is the trap value of an issue fault. A space is checked
where it is used. -/
def copyPlaces (p : Priv) (word : Word) (w lsp ssp : Nat) (useLd useSt : Bool) (srcs dsts : List Word) :
    M (List Loc × List Loc) := do
  if (useLd && decide (4 ≤ lsp)) || (useSt && decide (4 ≤ ssp)) then trapM cVmem word
  copyAddrs .load lsp p w srcs
  copyAddrs .store ssp p w dsts
  let a ← copyXlate .load lsp p w srcs
  let b ← copyXlate .store ssp p w dsts
  return (a, b)

/-! ## Performing elements (R277, R278) -/

/-- What a source holds as the engine reads it: whether it is poisoned, and its bytes. The engine sees the scalar stores of
the copy's strand that are held at the rib ordering point (R266). -/
def CopySrc.read (s : State) (k : Nat) (r : Option SRef) (w : Nat) (x : CopySrc) : Bool × List Byte :=
  match x with
  | .val bs bad => (bad, bs)
  | .zero => (false, List.replicate w 0)
  | .mem (.phys a _ _) => (runBad s a w, seenBytes (heldSeen k r s.core.id .engine) s a w)
  | .mem (.pocket o) => (runBad s (pocketKey s.core.id o) w, getBytes s.ctx.pocket o w)
  | .mem (.peer _ _) => (false, (upFrom s.draws w).map Config.freeByte)

/-- What reading a source leaves: scrubbed granules, or a request to another chip. -/
def CopySrc.touch (k w : Nat) (s : State) (x : CopySrc) : State :=
  match x with
  | .val _ _ | .zero => s
  | .mem (.phys a _ _) => (scrubRead s a w).2
  | .mem (.pocket o) => (scrubRead s (pocketKey s.core.id o) w).2
  | .mem (.peer chip va) => { s with outMsgs := s.outMsgs ++ [Msg.peerLoad k chip va w], draws := s.draws + w }

/-- The issuer of a copy. -/
def CopyOp.issuer (o : CopyOp) : Issuer := ⟨o.part, o.owner, o.colour, some o.id⟩

/-- A source of the copy as it reads now. -/
def CopyOp.reads (o : CopyOp) (s : State) (e : CopyElem) : Bool × List Byte := e.src.read s o.part o.owner o.width

/-- Where an element of a copy writes memory. -/
def CopyOp.place (o : CopyOp) (e : CopyElem) : Option Loc :=
  match e.dst with
  | .mem l => some l
  | .reg _ _ => none
  | .slot off => match o.form with
    | .ring _ (some a) => some (.phys (Config.commonsBase + (a.toNat - Config.windowBase) + off) kindRC none)
    | .ring _ none | .plain | .toReg _ _ | .tile _ _ _ _ => none

/-- A page whose store permission is gone since the copy was issued (R277). -/
def pageLost (s : State) (p : Priv) (l : Loc) : Bool :=
  match l with
  | .phys _ _ (some q) =>
    let w : Word := BitVec.ofNat 64 (getLe s.mem q.pte 8)
    !w.getLsbD 0 || !w.getLsbD 2 || (decide (p = .user) && !w.getLsbD 4)
  | .phys _ _ none | .pocket _ | .peer _ _ => false

/-- An element of a copy is not written: its page is lost, or its target chip refuses it, a free choice (R277, R338). -/
def CopyOp.lost (o : CopyOp) (s : State) (e : CopyElem) : Bool :=
  (o.place e).any fun l => pageLost s o.priv l || (match l with
    | .peer _ _ => peerRefuses s
    | .phys _ _ _ | .pocket _ => false)

/-- The elements of a copy that are still to be performed: `cpyv` lands by R280, every other copy in any order, but for
elements that write the same byte (R278). -/
def CopyOp.left (o : CopyOp) : List Nat := (upFrom 0 o.elems.length).filter fun i => !o.landed.contains i

/-- The engine waits for a destination page that the transit filter holds (R277). -/
def copyWaits (s : State) (o : CopyOp) : Bool := o.left.any fun i => (o.elems[i]?).any fun e => (o.place e).any (transitHit s o.part)

/-- Two elements of a copy write a common byte of memory or of a register. -/
def CopyOp.meets (o : CopyOp) (d e : CopyElem) : Bool :=
  match d.dst, e.dst with
  | .reg v i, .reg u j => decide (v = u) && decide (i = j)
  | _, _ => match o.place d, o.place e with
    | some l, some l' => overlaps l o.width l' o.width
    | some _, none => false
    | none, _ => false

/-- The place of a source in memory. -/
def CopySrc.loc (x : CopySrc) : Option Loc :=
  match x with
  | .mem l => some l
  | .val _ _ | .zero => none

/-- The reach that an element of a copy asks of a held store: older scalar stores of its strand to the bytes it writes, or to an
SO page it reads, are performed (R256, R266); what a `qfence` before the copy's issue orders reaches its scope (R261); and what
another core of the rib may have read of the bytes it writes is performed (R215). -/
def CopyOp.need (o : CopyOp) (core : Nat) (e : CopyElem) (h : Held) : Nat :=
  let n := h.bytes.length
  if h.by o.part o.owner core then
    if o.id < h.at_ then 0
    else
      let writes := (o.place e).any fun l => overlaps h.loc n l o.width
      let reads := e.src.loc.any fun l => overlaps h.loc n l o.width
      if h.scalar && (writes || (reads && decide (h.loc.kind = kindSO))) then 3
      else
        let f (l : Option Loc) : Nat := (l.map fun l => fenceNeed h false l.kind o.id).getD 0
        max (f (o.place e)) (f e.src.loc)
  else if decide (2 ≤ h.reach) && decide (ribOf h.core = ribOf core)
      && (o.place e).any (fun l => overlaps h.loc n l o.width) then 3
  else 0

/-- Bring the held stores to what an element asks of them. -/
def copyOrder (o : CopyOp) (e : CopyElem) (s : State) : State := settleHeld (o.need s.core.id e) s

/-- An element must still wait for a held store. -/
def copyStuck (o : CopyOp) (e : CopyElem) (s : State) : Bool :=
  s.heldStores.any fun h => decide (h.reach < o.need s.core.id e h)

/-- An element accesses an SO page. -/
def CopyOp.so (o : CopyOp) (e : CopyElem) : Bool :=
  e.src.loc.any (fun l => decide (l.kind = kindSO)) || (o.place e).any fun l => decide (l.kind = kindSO)

/-- The SO accesses of a copy lie in element order (R258): an element that makes one waits for every lower one that does. -/
def CopyOp.turn (o : CopyOp) (i : Nat) : Bool :=
  !(o.elems[i]?).any o.so || !(o.left.any fun j => decide (j < i) && (o.elems[j]?).any o.so)

/-- Write one element of a copy with bytes that its source held. -/
def copyPut (o : CopyOp) (core : Nat) (bad : Bool) (bs : List Byte) (s : State) (e : CopyElem) : State :=
  match o.place e, e.dst with
  | some l, _ => elemWrite s o.issuer (.agent o.priv) core { loc := l, bytes := bs, poison := bad }
  | none, .reg v i => s.mapCtx fun c => c.putElem v (8 * o.width) i (leNat bs)
  | none, .mem _ => s
  | none, .slot _ => s

/-- The bytes an element writes, for its granules. -/
def CopyOp.run (o : CopyOp) (s : State) (e : CopyElem) (bad : Bool) : List RunWrite :=
  match o.place e with
  | some l => writeRuns s s.core.id [{ loc := l, bytes := List.replicate o.width 0, poison := bad }]
  | none => []

/-- Perform element i: its source's bytes as they were in a state, or, by a free choice, as they are now (R278); an SO source
is read in its turn (R258). The copy notes what it has done. -/
def copyElem (orig : State) (p : State × CopyOp) (i : Nat) : State × CopyOp :=
  let (s, o) := p
  match o.elems[i]? with
  | none => p
  | some e =>
    let s := copyOrder o e s
    let lost := o.lost s e
    let was := o.reads (copyOrder o e orig) e
    let now := o.reads s e
    let fresh := e.src.loc.any (fun l => decide (l.kind = kindSO)) || decide (Config.pick (s.draws + 1) % 2 = 1)
    let bs := if fresh then now.2 else was.2
    let s := { s with draws := s.draws + 2 }
    let o := { o with landed := insertRising o.landed i, err := o.err || lost || was.1 }
    if lost then (s, o) else (copyPut o s.core.id was.1 bs s e, { o with wrote := o.wrote ++ o.run s e was.1 })

/-- A copy has made all its writes: its granules (R219). -/
def copyClose (p : State × CopyOp) : State × CopyOp :=
  (granuleBatch p.1 (fun _ => false) p.2.wrote, { p.2 with wrote := [] })

/-- Perform every element of a copy that is left, waits re-evaluated after each (R243). -/
def copyPerform (s : State) (o : CopyOp) : State × CopyOp :=
  let s1 := (o.left.filterMap fun i => o.elems[i]?).foldl (fun t e => e.src.touch o.part o.width t) s
  let r := copyClose (o.left.foldl (fun p i => let q := copyElem s p i; (served s q.1, q.2)) (s1, o))
  (levelHook s r.1, r.2)

/-- An element of a copy that is left waits for a held store that cannot be performed. -/
def copyHeld (s : State) (o : CopyOp) : Bool :=
  !s.heldStores.isEmpty && o.left.any fun i => (o.elems[i]?).any fun e => copyStuck o e (copyOrder o e s)

/-- Put a copy of the core's queue back. -/
def setCopy (s : State) (pos : Nat) (o : CopyOp) : State := { s with core := { s.core with copies := setAt s.core.copies pos o } }

/-- The engine reads the source of one element of a copy early (R278), one on an SO page in its turn (R258). -/
def copyReadOne (s : State) (pos i : Nat) : State :=
  match s.core.copies[pos]? with
  | none => s
  | some o => match o.elems[i]? with
    | none => s
    | some e =>
      let t := copyOrder o e s
      if o.turn i && !copyStuck o e t then
        let r := o.reads t e
        setCopy (e.src.touch o.part o.width t) pos { o with elems := setAt o.elems i { e with src := .val r.2 r.1 } }
      else s

/-- Perform one element of a copy ahead of the others, which two copies going on together and an element order of the
engine's own come to (R278). An element waits for every lower one that writes its bytes, and, on an SO page, for its turn
(R258); a `cpyv` lands by R280 and a `cring` writes in its own order (R286). -/
def copyOne (s : State) (pos i : Nat) : State :=
  match s.core.copies[pos]? with
  | none => s
  | some o => match o.form, o.elems[i]? with
    | .plain, some e | .tile _ _ _ _, some e =>
      if o.landed.contains i || (o.place e).any (transitHit s o.part) || !o.turn i || copyStuck o e (copyOrder o e s)
          || o.left.any (fun j => decide (j < i) && (o.elems[j]?).any fun d => o.meets d e) then s
      else
        let r := copyElem s (e.src.touch o.part o.width s, o) i
        levelHook s (setCopy r.1 pos r.2)
    | .toReg _ _, _ | .ring _ _, _ => s
    | .plain, none | .tile _ _ _ _, none => s

/-- A copy leaves the queue: its errors are counted, its purse's Teller withdraws the whole count (R277), and a ring
departure that waited for it is made (R296). -/
def copyLeave (s : State) (pos : Nat) (o : CopyOp) (err : Bool) : State :=
  let s := { s with core := { s.core with copies := s.core.copies.eraseIdx pos } }
  let s := if err then bump s o.part ctrCpyErr 1 else s
  let s := match o.purse with
    | some a => arrive s o.part a o.bytes err o.owner (newColour s o.part o.colour)
    | none => s
  match o.form, o.owner with
  | .ring _ _, some r => if strandGone s o.part r then leaveRings s o.part r else s
  | .ring _ _, none => s
  | .plain, _ => s
  | .toReg _ _, _ => s
  | .tile _ _ _ _, _ => s

/-! ## Completion by form -/

/-- A pending register or mask becomes FULL. -/
def VReg.filled (v : VReg) : VReg := { v with st := .full, landed := none }

/-- A tile's register, mask bits and states at completion (R285). -/
def tileDone (v : Option VReg5) (mask : MReg3) (bits : List Bool) (c : Ctx) : Ctx :=
  let c := match v with
    | some r => (c.mapVr r VReg.filled).stale r
    | none => c
  if mask = 0 then c
  else ((bits.zip (upFrom 0 bits.length)).foldl (fun (d : Ctx) p => d.setMbit mask p.2 p.1) c).setMst mask .full

/-- The unbroken run of landed elements from 0. -/
def prefixFrom (landed : List Nat) : Nat → Nat → Nat
  | 0, i => i
  | n + 1, i => if i ∈ landed then prefixFrom landed n (i + 1) else i

/-- The landed prefix of a `cpyv`. -/
def CopyOp.landedPrefix (o : CopyOp) (vl : Nat) : Nat := prefixFrom o.landed vl 0

/-- Finish a `cpyv` whose elements have all landed: FULL, and a poisoned element's trap is pending (R280). -/
def cpyvFinish (s : State) (pos : Nat) (o : CopyOp) (v : VReg5) : State :=
  let s := s.mapCtx fun c =>
    let c := (c.mapVr v VReg.filled).stale v
    match o.poisoned, c.cpyPoison with
    | some i, none => { c with cpyPoison := (o.elems[i]?).map fun e => e.addr }
    | some _, some _ => c
    | none, _ => c
  copyLeave s pos o false

/-- Put an updated `cpyv` back, or finish it. -/
def cpyvUpdate (s : State) (pos : Nat) (o : CopyOp) (v : VReg5) (vl : Nat) : State :=
  if o.landed.length = vl then cpyvFinish s pos o v
  else (setCopy s pos o).mapCtx fun c =>
    c.mapVr v fun r => { r with landed := some (o.landedPrefix vl) }

/-- Element i of a `cpyv` lands (R280): a poisoned one makes itself and every later element land as 0. -/
def cpyvLand (s : State) (pos : Nat) (o : CopyOp) (v : VReg5) (vl i : Nat) : State :=
  match o.elems[i]? with
  | none => s
  | some e =>
    let s1 := copyOrder o e s
    if i ∈ o.landed ∨ vl ≤ i ∨ o.turn i = false ∨ copyStuck o e s1 = true then s
    else
      let r := o.reads s1 e
      let t := e.src.touch o.part o.width s1
      if r.1 then
        let later := upFrom i (vl - i)
        let t := t.mapCtx fun c => later.foldl (fun (d : Ctx) j => d.putElem v (8 * o.width) j 0) c
        cpyvUpdate t pos { o with landed := later.foldl insertRising o.landed, poisoned := some i } v vl
      else
        let t := t.mapCtx fun c => c.putElem v (8 * o.width) i (leNat r.2)
        cpyvUpdate t pos { o with landed := insertRising o.landed i } v vl

/-- Land every element of a `cpyv` in order. -/
def cpyvLandAll (v : VReg5) (vl pos : Nat) : List Nat → State → State
  | [], s => s
  | i :: t, s =>
    match s.core.copies[pos]? with
    | some o => match o.form with
      | .toReg _ _ => cpyvLandAll v vl pos t (if o.poisoned.any (fun j => decide (j ≤ i)) then s else cpyvLand s pos o v vl i)
      | .plain | .tile _ _ _ _ | .ring _ _ => s
    | none => s

/-- The launch of a copy's strand has been cancelled. -/
def copyCancelled (s : State) (o : CopyOp) : Bool :=
  match o.owner with
  | some r => (findLaunch s o.part r.launch).any fun l => l.cancelled
  | none => false

/-- Physical address of a ring header's window address. -/
def ringPhys (hdr : Word) : Nat := Config.commonsBase + (hdr.toNat - Config.windowBase)

/-- A header an engine can work with for a copy: readable and valid, its slots none that the issuer may not write (R388). -/
def ringUsable (s : State) (o : CopyOp) (hdr : Word) : Bool :=
  !(scrubRead s (ringPhys hdr) 32).1 && ringValid s o.part o.priv (ringAt s (ringPhys hdr))

/-- A Teller operation of the engine on a ring header. -/
def ringPut (s : State) (o : CopyOp) (hdr : Word) (r : Ring) : State :=
  physWrite (ringColour s o.part o.colour (ringAt s (ringPhys hdr)) r) o.part (newColour s o.part o.colour) .device none
    (ringPhys hdr + 8) r.bytes

/-- The engine tries to reserve a slot for a `cring` (R286): a closed or unusable ring and a cancelled launch are copy
errors, a full ring is waited for. -/
def cringTry (s : State) (pos : Nat) (o : CopyOp) (hdr : Word) : State :=
  if copyCancelled s o || !ringUsable s o hdr then copyLeave s pos o true
  else match (ringAt s (ringPhys hdr)).reserve with
    | .done r slot =>
      let o' := { o with form := .ring hdr (some slot) }
      ringPut (setCopy s pos o') o hdr r
    | .keep _ => copyLeave s pos o true
    | .wait => s
    | .bad => s

/-- Write and publish a reserved slot; a publication that must wait for an older slot leaves the copy in the queue. -/
def cringWrite (s : State) (pos : Nat) (o : CopyOp) (hdr slot : Word) : State :=
  if ringUsable s o hdr then
    match (ringAt s (ringPhys hdr)).publish slot with
    | .wait => s
    | .done _ _ =>
      if copyHeld s o then s
      else
        let p := copyPerform s o
        match (ringAt p.1 (ringPhys hdr)).publish slot with
        | .done r _ => copyLeave (ringPut p.1 o hdr r) pos o p.2.err
        | .keep _ => copyLeave p.1 pos o true
        | .wait => copyLeave p.1 pos o true
        | .bad => copyLeave p.1 pos o true
    | .keep _ => copyLeave s pos o true
    | .bad => copyLeave s pos o true
  else copyLeave s pos o true

/-- A write of a copy to another chip has not landed. -/
def copyFlying (s : State) (o : CopyOp) : Bool := s.flights.any fun f => decide (f.by_.copy = some o.id)

/-- Perform what is left of a copy; it leaves the queue once its writes to other chips have landed too (R266). -/
def copyEnd (s : State) (pos : Nat) (o : CopyOp) (done : Ctx → Ctx) : State :=
  if copyWaits s o || copyHeld s o then s
  else
    let p := copyPerform s o
    if copyFlying p.1 o then setCopy p.1 pos p.2 else copyLeave (p.1.mapCtx done) pos o p.2.err

/-- Complete the copy at a position of the copy queue, where it can complete (R277). -/
def copyFinish (s : State) (pos : Nat) : State :=
  match s.core.copies[pos]? with
  | none => s
  | some o =>
    match o.form with
    | .toReg v vl =>
      if vl = 0 then cpyvFinish s pos o v else cpyvLandAll v vl pos (upFrom 0 vl) s
    | .plain => copyEnd s pos o id
    | .tile v mask _ bits => copyEnd s pos o (tileDone v mask bits)
    | .ring hdr none =>
      let t := cringTry s pos o hdr
      match t.core.copies[pos]? with
      | some o' => match o'.form with
        | .ring _ (some slot) => cringWrite t pos o' hdr slot
        | .ring _ none | .plain | .toReg _ _ | .tile _ _ _ _ => t
      | none => t
    | .ring hdr (some slot) => cringWrite s pos o hdr slot

/-- Try to complete the copies of a core from a position up, oldest first; one that must wait is passed over. -/
def copySettle : Nat → Nat → State → State
  | 0, _, s => s
  | n + 1, pos, s =>
    let t := copyFinish s pos
    copySettle n (if t.core.copies.length < s.core.copies.length then pos else pos + 1) t

/-- A copy enters the queue under a number of its own; with no lag it completes where it can. -/
def copyEnter (s : State) (o : CopyOp) : State :=
  let t := { s with
    core := { s.core with copies := s.core.copies ++ [{ o with id := s.draws }] }
    draws := s.draws + 1 }
  if s.lag then t else copyFinish t s.core.copies.length

/-- COPY_COMPLETE (R277): the copy at a position finishes its writes and its purse's Teller withdraws the count. -/
def execCopyComplete (pos : Nat) (s : State) : Host.Outcome State Fault Refusal := .next (copyFinish s pos)

/-- CPYV_ELEMENT_LAND (R280): an element of the `cpyv` at a position lands. -/
def execCpyvElementLand (pos elem : Nat) (s : State) : Host.Outcome State Fault Refusal :=
  match s.core.copies[pos]? with
  | none => .next s
  | some o => match o.form with
    | .toReg v vl => .next (cpyvLand s pos o v vl elem)
    | .plain | .tile _ _ _ _ | .ring _ _ => .next s

/-- CRING_RESERVE (R286): a `cring` waiting in the engine reserves a slot, or fails. -/
def execCringReserve (pos : Nat) (s : State) : Host.Outcome State Fault Refusal :=
  match s.core.copies[pos]? with
  | none => .next s
  | some o => match o.form with
    | .ring hdr none => .next (cringTry s pos o hdr)
    | .ring _ (some _) | .plain | .toReg _ _ | .tile _ _ _ _ => .next s

/-! ## Building copies -/

/-- A location in the pocket. -/
def Loc.isPocket : Loc → Bool
  | .pocket _ => true
  | .phys _ _ _ => false
  | .peer _ _ => false

/-- A copy of a strand's thread. -/
def copyOp (s : State) (p : Priv) (form : CopyForm) (w : Nat) (elems : List CopyElem) (purse : Option Nat) (n : Nat) : CopyOp :=
  let touches (e : CopyElem) : Bool :=
    (match e.src with
      | .mem l => l.isPocket
      | .val _ _ => false
      | .zero => false)
    || (match e.dst with
      | .mem l => l.isPocket
      | .reg _ _ => true
      | .slot _ => false)
  let own := match form with
    | .toReg _ _ | .tile _ _ _ _ => true
    | .plain | .ring _ _ => false
  { id := 0
    part := s.pidx
    owner := s.core.strand
    colour := s.ctx.snapCol
    priv := p
    form := form
    width := w
    elems := elems
    landed := []
    wrote := []
    poisoned := none
    purse := purse
    bytes := n
    err := false
    usesStrand := own || elems.any touches }

/-- Address i of a run with a byte stride. -/
def strideAddrs (a : Word) (st : Int) (n : Nat) : List Word := (upFrom 0 n).map fun i => a + BitVec.ofInt 64 (i * st)

/-- Elements from places to places. -/
def pairElems (as : List Word) (ls : List Loc) (ds : List CopyDst) : List CopyElem :=
  ((as.zip ls).zip ds).map fun p => { src := .mem p.1.2, dst := p.2, addr := p.1.1 }

/-- Space codes of the live `mtyp`. -/
def ldCode (u : UCsr) : Nat := (u.mtyp.extractLsb' 0 3).toNat
def stCode (u : UCsr) : Nat := (u.mtyp.extractLsb' 4 3).toNat

/-- A direct copy waits for a provisional `vl`, for room, and for a store that a `qfence` holds it behind (R228, R261, R270,
R271). -/
def directReady : M Unit := do
  let s ← get
  if s.ctx.vlProv.isSome || copyFull s || barred s then throw .stall

/-- A direct copy of VL elements with byte strides (R279). -/
def copyDirect (i : Instr) (w : BitVec 2) (src dst : Word) (sst dst_ : Int) (p : Nat) : M Unit := do
  directReady
  let s ← get
  let u := s.ctx.u
  let pr := dataPriv s
  let n := u.vl.toNat
  let b := copyBytes w
  let purse ← purseOf pr u.pbase p id
  let as := strideAddrs src sst n
  let r ← copyPlaces pr (instrWord i) b (ldCode u) (stCode u) true true as (strideAddrs dst dst_ n)
  modify fun t => retire (copyEnter t (copyOp t pr .plain b (pairElems as r.1 (r.2.map CopyDst.mem)) (some purse) (n * b)))

/-- CPY (R279). -/
def execCpy (w : BitVec 2) (rs2 rs1 : XReg) (p : BitVec 5) (s : State) : Host.Outcome State Fault Refusal :=
  guarded (.cpy w rs2 rs1 p) s fun s =>
    runM (copyDirect (.cpy w rs2 rs1 p) w (s.x rs2) (s.x rs1) (copyBytes w) (copyBytes w) p.toNat) s

/-- CPYS (R279): signed byte strides from `cpstr`. -/
def execCpys (w : BitVec 2) (rs2 rs1 : XReg) (p : BitVec 5) (s : State) : Host.Outcome State Fault Refusal :=
  guarded (.cpys w rs2 rs1 p) s fun s =>
    let st := s.ctx.u.cpstr
    runM (copyDirect (.cpys w rs2 rs1 p) w (s.x rs2) (s.x rs1) (lo32 st).toInt (st.extractLsb' 32 32).toInt p.toNat) s

/-- CRING (R286): the ring header and its slot size are checked first, then the copy by R276. -/
def execCring (w : BitVec 2) (rs2 rs1 : XReg) (p : BitVec 5) (s : State) : Host.Outcome State Fault Refusal :=
  guarded (.cring w rs2 rs1 p) s fun s =>
    runM (do
      directReady
      let hdr := s.x rs1
      let a ← tellerAddr hdr 32 32
      let t ← get
      let u := t.ctx.u
      let pr := dataPriv t
      let n := u.vl.toNat
      let b := copyBytes w
      let word := instrWord (.cring w rs2 rs1 p)
      if 64 * (ringAt t a).sb < n * b then trapM cVmem word
      if ringValid t t.pidx .machine (ringAt t a) && !ringValid t t.pidx pr (ringAt t a) then trapM cVmem word
      let purse ← purseOf pr u.pbase p.toNat id
      let as := strideAddrs (s.x rs2) b n
      let r ← copyPlaces pr word b (ldCode u) 0 true false as []
      let ds := (upFrom 0 n).map fun i => CopyDst.slot (i * b)
      modify fun t => retire (copyEnter t (copyOp t pr (.ring hdr none) b (pairElems as r.1 ds) (some purse) (n * b)))) s

/-! ## VIQ-routed copies -/

/-- An issue of a VIQ-routed copy: its M computation, whose traps are vector faults with `ves` 0. -/
def copyViq (m : M Unit) (s : State) : VOut := wholeM m s

/-- `cpyv` (R280). -/
def runCpyv (w : BitVec 2) (vd : VReg5) (en : VEntry) (s : State) : VOut :=
  let n := en.csr.vl.toNat
  let b := copyBytes w
  match copyRegBad s.ctx vd b n with
  | some cause => .fault s cause none 0
  | none =>
    if copyFull s || s.ctx.dstWaits vd then .wait
    else copyViq (do
      let st : Int := if en.b = 0 then b else en.b.toInt
      let as := strideAddrs en.a st n
      let r ← copyPlaces en.priv (en.word.setWidth 64) b (ldSpace en) 0 true false as []
      modify fun t =>
        let t := t.mapCtx fun c => c.mapVr vd fun v => { v with st := .pending, landed := some 0 }
        let ds := (upFrom 0 n).map fun i => CopyDst.reg vd i
        copyEnter t (copyOp t en.priv (.toReg vd n) b (pairElems as r.1 ds) none 0)) s

/-- `cpyvs` (R281): the register's elements are read at issue; R39 names it among the copies that `sexit` and a save wait
for. -/
def runCpyvs (w : BitVec 2) (vs : VReg5) (en : VEntry) (s : State) : VOut :=
  let n := en.csr.vl.toNat
  let b := copyBytes w
  match copyRegBad s.ctx vs b n with
  | some cause => .fault s cause none 0
  | none =>
    if copyFull s || s.ctx.srcWaits ⟨vs, some n⟩ then .wait
    else copyViq (do
      let word : Word := en.word.setWidth 64
      let purse ← purseOf en.priv en.csr.pbase (en.b.extractLsb' 0 5).toNat fun _ => word
      let as := strideAddrs en.a b n
      let r ← copyPlaces en.priv word b 0 (stSpace en) false true [] as
      let t ← get
      if (t.ctx.vr vs).st = .vacant then trapM cEmpty word
      let elems : List CopyElem := ((upFrom 0 n).zip (as.zip r.2)).map fun q =>
        { src := .val (natBytes b (t.ctx.raw vs q.1)) false, dst := .mem q.2.2, addr := q.2.1 }
      set (copyEnter t { copyOp t en.priv .plain b elems (some purse) (n * b) with usesStrand := true })) s

/-! ## ctile (R282 to R285) -/

/-- A field of a record's bytes: n bits from bit lo. -/
def recField (r : Nat) (lo n : Nat) : Nat := r / 2 ^ lo % 2 ^ n

/-- A descriptor and request pair as numbers. -/
structure Tile where
  base : Word
  rank : Nat
  tag : Byte
  dim0 : Nat
  dim1 : Nat
  dim2 : Nat
  str1 : Word
  str2 : Word
  c0 : Int
  c1 : Int
  c2 : Int
  e0 : Nat
  e1 : Nat
  e2 : Nat
  dk : Bool
  msk : MReg3
  dest : Nat
  deriving DecidableEq, Repr

/-- Read a tile from its 64-byte descriptor and 32-byte request. -/
def tileOfRec (bs : List Byte) : Tile :=
  let d := leNat (bs.take 64)
  let q := leNat (bs.drop 64)
  let rank := recField d 72 2
  let i32 (lo : Nat) : Int := (BitVec.ofNat 32 (recField q lo 32)).toInt
  { base := BitVec.ofNat 64 d
    rank := rank
    tag := BitVec.ofNat 8 (recField d 64 8)
    dim0 := recField d 128 32
    dim1 := if rank = 1 then 1 else recField d 160 32
    dim2 := if rank = 3 then recField d 192 32 else 1
    str1 := BitVec.ofNat 64 (recField d 256 64)
    str2 := BitVec.ofNat 64 (recField d 320 64)
    c0 := i32 0
    c1 := i32 32
    c2 := i32 64
    e0 := recField q 96 32
    e1 := recField q 128 32
    e2 := recField q 160 32
    dk := decide (recField q 255 1 = 1)
    msk := BitVec.ofNat 3 (recField q 224 3)
    dest := recField q 192 32 }

/-- A descriptor broken for a width (R282, R285). -/
def descBad (bs : List Byte) (w : Nat) : Bool :=
  let d := leNat (bs.take 64)
  let t := recField d 64 8
  decide (recField d 74 54 ≠ 0) || decide (recField d 224 32 ≠ 0) || decide (recField d 384 128 ≠ 0)
    || decide (recField d 72 2 = 0) || !(decide (1 ≤ t) && decide (t ≤ 12))
    || decide (recField d 0 64 % w ≠ 0) || decide (recField d 256 64 % w ≠ 0) || decide (recField d 320 64 % w ≠ 0)

/-- A request broken for a width (R283, R285). -/
def reqBad (bs : List Byte) (w : Nat) : Bool :=
  let q := leNat (bs.drop 64)
  decide (recField q 227 28 ≠ 0)
    || (if recField q 255 1 = 1 then decide (32 ≤ recField q 192 32) else decide (recField q 192 32 % w ≠ 0))

/-- Elements of a tile: index t, whether it is in range, its address. -/
def tileElems (x : Tile) (n0 w : Nat) : List (Nat × Bool × Word) :=
  (upFrom 0 x.e2).flatMap fun (c : Nat) => (upFrom 0 x.e1).flatMap fun (b : Nat) => (upFrom 0 n0).map fun (a : Nat) =>
    let x0 := x.c0 + (a : Int)
    let x1 := x.c1 + (b : Int)
    let x2 := x.c2 + (c : Int)
    let inr := decide (0 ≤ x0) && decide (x0 < x.dim0) && decide (0 ≤ x1) && decide (x1 < x.dim1)
      && decide (0 ≤ x2) && decide (x2 < x.dim2)
    (a + n0 * (b + x.e1 * c), inr, x.base + BitVec.ofInt 64 (x0 * w + x1 * x.str1.toInt + x2 * x.str2.toInt))

/-- Issue a tile copy behind step 1 (R285, R276): the purse, the space, the pocket range, the in-range elements. -/
def tileIssue (p : Priv) (word : Word) (tv : Word → Word) (u : UCsr) (pu w n0 : Nat) (x : Tile) : M Unit := do
  let n := n0 * x.e1 * x.e2
  let purse ← purseOf p u.pbase pu tv
  if 4 ≤ ldCode u then trapM cVmem word
  let s ← get
  if x.dk = false ∧ s.ctx.pocb < x.dest + n * w then trapM cVmem word
  let es := tileElems x n0 w
  let live := es.filter fun e => e.2.1
  let r ← copyPlaces p word w (ldCode u) 0 true false (live.map fun e => e.2.2) []
  let v : VReg5 := BitVec.ofNat 5 x.dest
  let dst (t : Nat) : CopyDst := if x.dk then .reg v t else .mem (.pocket (x.dest + t * w))
  let got : List CopyElem := (live.zip r.1).map fun q => { src := .mem q.2, dst := dst q.1.1, addr := q.1.2.2 }
  let out : List CopyElem := (es.filter fun e => !e.2.1).map fun e => { src := .zero, dst := dst e.1, addr := e.2.2 }
  let form : CopyForm := .tile (if x.dk then some v else none) x.msk n (es.map fun e => e.2.1)
  modify fun t =>
    let t := t.mapCtx fun c =>
      let c := if x.dk then c.mapVr v fun r => { r with st := .pending, landed := none } else c
      c.setMst x.msk .pending
    copyEnter t (copyOp t p form w (got ++ out) (some purse) (n * w))

/-- The step 1 faults of a tile: its register and its mask. -/
def tileRegBad (c : Ctx) (w n : Nat) (x : Tile) : Option (BitVec 6) :=
  match if x.dk then copyRegBad c (BitVec.ofNat 5 x.dest) w n else none with
  | some cause => some cause
  | none => if x.msk ≠ 0 ∧ 65536 < n then some cVlover else none

/-- A tile's destination register or mask has a write outstanding. -/
def tileWaits (c : Ctx) (x : Tile) : Bool := (x.dk && c.dstWaits (BitVec.ofNat 5 x.dest)) || c.maskPends x.msk

/-- A VIQ-routed `ctile` at issue (R285). -/
def runCtile (w : BitVec 2) (p : BitVec 5) (en : VEntry) (s : State) : VOut :=
  let x := tileOfRec en.tile
  let b := copyBytes w
  let n0 := min x.e0 en.csr.vl.toNat
  match tileRegBad s.ctx b (n0 * x.e1 * x.e2) x with
  | some cause => .fault s cause none 0
  | none =>
    if copyFull s || tileWaits s.ctx x then .wait
    else copyViq (tileIssue en.priv (en.word.setWidth 64) (fun _ => en.word.setWidth 64) en.csr p.toNat b n0 x) s

/-- The descriptor through the descriptor cache (R284): a hit serves the cached bytes; a miss fills an entry, whose
victim, when all 16 are taken, is a free choice. -/
def readDesc (a : Word) : M (List Byte) := do
  let s ← get
  match s.ctx.dcache.find? fun e => decide (e.1 = a) with
  | some e => return e.2
  | none =>
    if a.toNat % 64 ≠ 0 then trapM cMisLoad a
    let ws ← loadWords a 8
    let bs := (ws.map fun w => natBytes 8 w.toNat).flatten
    let d ← drawM
    modify fun t => t.mapCtx fun c =>
      let old := if 16 ≤ c.dcache.length then c.dcache.eraseIdx (Config.pick d % 16) else c.dcache
      { c with dcache := (a, bs) :: old }
    return bs

/-- The tile request (R283). -/
def readReq (a : Word) : M (List Byte) := do
  if a.toNat % 32 ≠ 0 then trapM cMisLoad a
  let ws ← loadWords a 4
  return (ws.map fun w => natBytes 8 w.toNat).flatten

/-- The checks of a tile's records at commit, and n0 with its trim (R285). The trimmed extent does not go below 0. -/
def tileCommit (x : Tile) (bs : List Byte) (word desc req : Word) (w vl : Nat) : M (Nat × Bool) := do
  if descBad bs w then trapM cVmem desc
  if reqBad bs w then trapM cVmem req
  if ((etyOf x.tag).map ETy.bits).getD 0 ≠ 8 * w then trapM cTag word
  let n0 := min x.e0 vl
  if 1 ≤ n0 ∧ (x.dim0 : Int) ≤ x.c0 then trapM cVmem req
  let trim := decide (0 ≤ x.c0) && decide ((x.dim0 : Int) < x.c0 + n0)
  let n0 := if trim then (x.dim0 - x.c0).toNat else n0
  if 2 ^ 24 < n0 * x.e1 * x.e2 then trapM cVmem req
  return (n0, trim)

end Sys2Proof.Machine
end

