-- ==== Sys2Proof/Machine/Viq.lean ====
section
/-! DEFINITION. The VIQ (R113, R120, R270 to R274): what each entry does when it reaches execution or issue, the vector
fault and its frozen entries, commit, and SRQ delivery (R136). -/

namespace Sys2Proof.Machine

/-- `vsrseed` (R75): a `dout` older than it draws on the old states, so it waits while one is queued. -/
def runVsrseed (en : VEntry) (s : State) : VOut :=
  if s.ctx.cable.any fun n => isDout n.v.instr then .wait
  else .done (s.mapCtx fun c => { c with sr := ⟨en.a, []⟩ })

/-- What an entry does when it reaches execution. An instruction that is never committed to the VIQ does nothing
here. -/
def viqRun (i : Instr) (en : VEntry) (s : State) : VOut :=
  match i with
  | .vtag _ vd => runVtag vd en s
  | .dset _ _ vd => runHeader vd (fun h => some (dsetHdr en h)) s
  | .dflip vd => runHeader vd dflipHdr s
  | .dscale _ _ vd => runHeader vd (fun h => some (dscaleHdr en h)) s
  | .kalloc _ _ => runKalloc en s
  | .kfree _ => runKfree en s
  | .kzero _ => runKzero en s
  | .vsrseed _ => runVsrseed en s
  | .atabld _ _ => runAtabld en s
  | .cpyv w _ _ vd => runCpyv w vd en s
  | .cpyvs w _ _ vs => runCpyvs w vs en s
  | .ctile w _ _ p => runCtile w p en s
  | .vxget e _ vs _ => runVxget e vs en s
  | .vxput _ _ vd => runVxput vd en s
  | .kfence => runKfence s
  | .vldUnit e _ m vd => runVld .unit e m vd en s
  | .vldStrided e _ _ m vd => runVld .strided e m vd en s
  | .vldIndexed e vs2 _ m vd => runVld (.indexed vs2) e m vd en s
  | .vstUnit e _ m vs3 => runVst .unit e m vs3 en s
  | .vstStrided e _ _ m vs3 => runVst .strided e m vs3 en s
  | .vstIndexed e vs2 _ m vs3 => runVst (.indexed vs2) e m vs3 en s
  | .vldffUnit e _ m vd => runVldff .unit e m vd en s
  | .vldffStrided e _ _ m vd => runVldff .strided e m vd en s
  | .vldffIndexed e vs2 _ m vd => runVldff (.indexed vs2) e m vd en s
  | .vlwin e vs2 _ m vd => runVlwin e vs2 m vd en s
  | .vstc e _ m vs3 => runVstc e m vs3 en s
  | .vqldUnit _ n => runVqld .unit n en s
  | .vqldStrided _ _ n => runVqld .strided n en s
  | .vqstUnit _ n => runVqst .unit n en s
  | .vqstStrided _ _ n => runVqst .strided n en s
  | .vmld _ k => runVmld k en s
  | .vmst e _ k => runVmst e k en s
  | .vldr _ vd => runVldr vd en s
  | .vstr e _ vs3 => runVstr e vs3 en s
  | .vtadd e vs2 _ m vs3 => runScatter 0 e vs2 m vs3 en s
  | .vtmin e vs2 _ m vs3 => runScatter 1 e vs2 m vs3 en s
  | .vtmax e vs2 _ m vs3 => runScatter 2 e vs2 m vs3 en s
  | .vkld _ _ => runVkld en s
  | .vkst _ _ => runVkst en s
  | .vaddVv e vs2 vs1 m vd => runBin .add e vs1 vd (.v vs2) m en s
  | .vaddVx e _ vs1 m vd => runBin .add e vs1 vd .x m en s
  | .vaddVi e imm vs1 m vd => runBin .add e vs1 vd (.i imm) m en s
  | .vsubVv e vs2 vs1 m vd => runBin .sub e vs1 vd (.v vs2) m en s
  | .vsubVx e _ vs1 m vd => runBin .sub e vs1 vd .x m en s
  | .vsubVi e imm vs1 m vd => runBin .sub e vs1 vd (.i imm) m en s
  | .vmulVv e vs2 vs1 m vd => runBin .mul e vs1 vd (.v vs2) m en s
  | .vmulVx e _ vs1 m vd => runBin .mul e vs1 vd .x m en s
  | .vmulVi e imm vs1 m vd => runBin .mul e vs1 vd (.i imm) m en s
  | .vmacVv e vs2 vs1 m vd => runBin .mac e vs1 vd (.v vs2) m en s
  | .vmacVx e _ vs1 m vd => runBin .mac e vs1 vd .x m en s
  | .vmacVi e imm vs1 m vd => runBin .mac e vs1 vd (.i imm) m en s
  | .vminVv e vs2 vs1 m vd => runBin .min e vs1 vd (.v vs2) m en s
  | .vminVx e _ vs1 m vd => runBin .min e vs1 vd .x m en s
  | .vminVi e imm vs1 m vd => runBin .min e vs1 vd (.i imm) m en s
  | .vmaxVv e vs2 vs1 m vd => runBin .max e vs1 vd (.v vs2) m en s
  | .vmaxVx e _ vs1 m vd => runBin .max e vs1 vd .x m en s
  | .vmaxVi e imm vs1 m vd => runBin .max e vs1 vd (.i imm) m en s
  | .vandVv e vs2 vs1 m vd => runBin .and e vs1 vd (.v vs2) m en s
  | .vandVx e _ vs1 m vd => runBin .and e vs1 vd .x m en s
  | .vandVi e imm vs1 m vd => runBin .and e vs1 vd (.i imm) m en s
  | .vorVv e vs2 vs1 m vd => runBin .or e vs1 vd (.v vs2) m en s
  | .vorVx e _ vs1 m vd => runBin .or e vs1 vd .x m en s
  | .vorVi e imm vs1 m vd => runBin .or e vs1 vd (.i imm) m en s
  | .vxorVv e vs2 vs1 m vd => runBin .xor e vs1 vd (.v vs2) m en s
  | .vxorVx e _ vs1 m vd => runBin .xor e vs1 vd .x m en s
  | .vxorVi e imm vs1 m vd => runBin .xor e vs1 vd (.i imm) m en s
  | .vshlVv e vs2 vs1 m vd => runBin .shl e vs1 vd (.v vs2) m en s
  | .vshlVx e _ vs1 m vd => runBin .shl e vs1 vd .x m en s
  | .vshlVi e imm vs1 m vd => runBin .shl e vs1 vd (.i imm) m en s
  | .vshrVv e vs2 vs1 m vd => runBin .shr e vs1 vd (.v vs2) m en s
  | .vshrVx e _ vs1 m vd => runBin .shr e vs1 vd .x m en s
  | .vshrVi e imm vs1 m vd => runBin .shr e vs1 vd (.i imm) m en s
  | .vdivVv e vs2 vs1 m vd => runBin .div e vs1 vd (.v vs2) m en s
  | .vdivVx e _ vs1 m vd => runBin .div e vs1 vd .x m en s
  | .vdivVi e imm vs1 m vd => runBin .div e vs1 vd (.i imm) m en s
  | .vcmpVv e vs2 vs1 m d c => runCmp e vs1 (.v vs2) m d c en s
  | .vcmpVx e _ vs1 m d c => runCmp e vs1 .x m d c en s
  | .vcmpVi e imm vs1 m d c => runCmp e vs1 (.i imm) m d c en s
  | .vmergeVv e vs2 vs1 m vd => runMerge e vs1 vd (.v vs2) m en s
  | .vmergeVx e _ vs1 m vd => runMerge e vs1 vd .x m en s
  | .vmergeVi e imm vs1 m vd => runMerge e vs1 vd (.i imm) m en s
  | .vpermGather e vs2 vs1 m vd => runGather e vs2 vs1 m vd en s
  | .vpermSlideVx e _ vs1 m vd => runSlideDown en.b.toInt e vs1 m vd en s
  | .vpermSlideVi e imm vs1 m vd => runSlideDown imm.toInt e vs1 m vd en s
  | .vslideupVx e _ vs1 m vd => runSlideUp en.b.toNat e vs1 m vd en s
  | .vslideupVi e imm vs1 m vd => runSlideUp imm.toNat e vs1 m vd en s
  | .vmov e vs1 m vd => runMove true (movEffect vs1 vd) e vs1 m vd en s
  | .vneg e vs1 m vd => runUnary .neg e vs1 m vd en s
  | .vabs e vs1 m vd => runUnary .abs e vs1 m vd en s
  | .vnot e vs1 m vd => runUnary .not e vs1 m vd en s
  | .vsqrt e vs1 m vd => runUnary .sqrt e vs1 m vd en s
  | .vrsqrt e vs1 m vd => runUnary (.special .rsqrt) e vs1 m vd en s
  | .vrcp e vs1 m vd => runUnary (.special .rcp) e vs1 m vd en s
  | .vexp2 e vs1 m vd => runUnary (.special .exp2) e vs1 m vd en s
  | .vlog2 e vs1 m vd => runUnary (.special .log2) e vs1 m vd en s
  | .vsin e vs1 m vd => runUnary (.special .sin) e vs1 m vd en s
  | .vcos e vs1 m vd => runUnary (.special .cos) e vs1 m vd en s
  | .vtanh e vs1 m vd => runUnary (.special .tanh) e vs1 m vd en s
  | .vsigm e vs1 m vd => runUnary (.special .sigm) e vs1 m vd en s
  | .vfloor e vs1 m vd => runUnary .floor e vs1 m vd en s
  | .vceil e vs1 m vd => runUnary .ceil e vs1 m vd en s
  | .vrnd e vs1 m vd => runUnary .rnd e vs1 m vd en s
  | .vclz e vs1 m vd => runUnary .clz e vs1 m vd en s
  | .vpopc e vs1 m vd => runUnary .popc e vs1 m vd en s
  | .vid e m vd => runVid e m vd (vidEffect vd) en s
  | .vbcast e vs1 m vd => runMove false (bcastEffect vs1 vd) e vs1 m vd en s
  | .vclass e vs1 m vd => runClass e vs1 m vd en s
  | .vcvt e vs1 m vd => runCvt ⟨none, false⟩ e vs1 m vd en s
  | .vcvtRz e vs1 m vd => runCvt ⟨some .rtz, false⟩ e vs1 m vd en s
  | .vcvtSr e vs1 m vd => runCvt ⟨some .sr, false⟩ e vs1 m vd en s
  | .vcvtSat e vs1 m vd => runCvt ⟨none, true⟩ e vs1 m vd en s
  | .vquant e vs1 m vd => runQuant e vs1 m vd en s
  | .vredsum e vs1 m vd => runRed .sum e vs1 m vd en s
  | .vredsumt e vs1 m vd => runRed .sumt e vs1 m vd en s
  | .vredmax e vs1 m vd => runRed .max e vs1 m vd en s
  | .vredmin e vs1 m vd => runRed .min e vs1 m vd en s
  | .vredand e vs1 m vd => runRed .and e vs1 m vd en s
  | .vredor e vs1 m vd => runRed .or e vs1 m vd en s
  | .vredxor e vs1 m vd => runRed .xor e vs1 m vd en s
  | .vcompress e vs1 m vd => runMove false (compressEffect vs1 vd) e vs1 m vd en s
  | .vexpand e vs1 m vd => runMove false (expandEffect vs1 vd) e vs1 m vd en s
  | .vmidx e m vd => runVid e m vd (midxEffect vd) en s
  | .vrev e vs1 m vd => runMove false (revEffect vs1 vd) e vs1 m vd en s
  | .vtr8 e vs1 m vd => runMove false (tr8Effect vs1 vd) e vs1 m vd en s
  | .mand e a b d => runMask .and e a b d [a, b] en s
  | .mor e a b d => runMask .or e a b d [a, b] en s
  | .mxor e a b d => runMask .xor e a b d [a, b] en s
  | .mandn e a b d => runMask .andn e a b d [a, b] en s
  | .mnot e a d => runMask .not e a 0 d [a] en s
  | .mbf e a d => runMask .bf e a 0 d [a] en s
  | .mif e a d => runMask .if_ e a 0 d [a] en s
  | .msof e a d => runMask .sof e a 0 d [a] en s
  | .mset d => runMask .set false 0 0 d [] en s
  | .mclr d => runMask .clr false 0 0 d [] en s
  | .vmomu e vs1 m vd => runMomu e vs1 m vd en s
  | .dmac _ e vs2 vs1 k => runMul .dmac e vs2 vs1 k en s
  | .dmsc _ e vs2 vs1 k => runMul .dmsc e vs2 vs1 k en s
  | .dmm _ e vs2 vs1 k => runMul .dmm e vs2 vs1 k en s
  | .dop _ e vs2 vs1 k => runMul .dop e vs2 vs1 k en s
  | .kin e vs1 k => runKin e vs1 k en s
  | .kadd j k => runKadd j k en s
  | .dout e vb vd k => runDout ⟨false, false, false⟩ e vb vd k en s
  | .doutQ e vb vd k => runDout ⟨false, false, true⟩ e vb vd k en s
  | .doutA e vb vd k => runDout ⟨false, true, false⟩ e vb vd k en s
  | .doutAq e vb vd k => runDout ⟨false, true, true⟩ e vb vd k en s
  | .doutB e vb vd k => runDout ⟨true, false, false⟩ e vb vd k en s
  | .doutBq e vb vd k => runDout ⟨true, false, true⟩ e vb vd k en s
  | .doutBa e vb vd k => runDout ⟨true, true, false⟩ e vb vd k en s
  | .doutBaq e vb vd k => runDout ⟨true, true, true⟩ e vb vd k en s
  | .baseAlu .. | .baseBranchJump .. | .baseLoad .. | .baseStore .. | .baseAmo .. | .baseLr ..
  | .baseSc .. | .fence .. | .fenceI .. | .ecall | .ebreak | .wfi
  | .sret | .mret | .csrWrite .. | .vlWrite .. | .vxflagsWrite .. | .ptrootWrite ..
  | .partitionSetup .. | .profileEnableWrite .. | .assayNoticeClear .. | .capWrite .. | .loop .. | .lexit ..
  | .lsave .. | .lrest .. | .lrd .. | .escOpen .. | .escCmp .. | .escClose
  | .escRet | .escAbort | .escStat .. | .guessRoutineEnd | .escrowHelperJoin .. | .escrowHelperReclaim ..
  | .escrowConflictSquash .. | .escrowDeferredResume | .vdecl .. | .vsetl .. | .vtagrd .. | .dshape ..
  | .cpy .. | .cpys .. | .cring .. | .cpyvElementLand .. | .copyComplete .. | .overdraft
  | .cringReserve .. | .tadd .. | .tmin .. | .tmax .. | .tand .. | .tor ..
  | .txchg .. | .tcas .. | .tcmd .. | .tcmdComplete .. | .pset .. | .pwait ..
  | .ptest .. | .rres .. | .rpub .. | .racq .. | .rrel .. | .rocc ..
  | .bar .. | .wqpost .. | .lvlwait .. | .lvlcancel .. | .sexit | .syield
  | .snapBegin .. | .snapStat .. | .snapRollback .. | .mint .. | .mintResult | .assayReq ..
  | .evt .. | .cho .. | .tlbinv .. | .invalidationPort .. | .vaultSwap .. | .hint
  | .srqDeliver | .vmpop .. | .vmfirst .. | .vmrd .. | .qfence .. | .efence ..
  | .stashCopyDone .. | .cableEntryComplete | .viqExecute | .vectorFault | .vldffComplete | .latepf ..
  | .storeAck | .trapEntry .. | .preempt .. | .rollbackEntry | .tellerRemap .. | .tellerRequest ..
  | .hostTailWrite .. | .wsTakeRecord .. | .launchAdmit .. | .markerComplete .. | .launchComplete .. | .dependenceRelease ..
  | .levelCancelStore .. | .placeStrand .. | .reallocationIntervalEnd .. | .preemption | .forcedPreemption | .park
  | .waitSatisfied .. | .placementEvent .. | .pipelineStallEvent .. | .ringProducerLeave .. | .assayCoreClaim .. | .assayComplete ..
  | .vaultSwapDeadline | .vaultSwapDone | .stitchMarker .. | .strandCut | .consumeFirstCut | .chipDone ..
  | .doneMessage .. | .abandonMessage .. | .rollbackMessage .. | .peerRequest .. | .chunkReceive .. | .collectiveComplete ..
  | .collectiveTimeout .. | .scrubGranule .. | .wearRowCopy .. | .linkCalibration .. | .telemetrySample .. | .clockStepDown
  | .clockStepUp | .thermalShutdown | .dbell .. | .mailboxSetTdp .. | .mailboxAttest .. | .mailboxReadMeasurements ..
  | .powerOnBoot .. | .hostWrite .. | .jobBlockWrite .. | .dirtyLineWriteBack .. | .chunkLandingAck .. => .done s

/-- The scalar register captured as xs1. -/
def captureA (i : Instr) : XReg :=
  match i with
  | .vtag rs1 _ => rs1
  | .dset _ rs1 _ => rs1
  | .dscale _ rs1 _ => rs1
  | .kalloc _ rs1 => rs1
  | .kfree rs1 => rs1
  | .kzero rs1 => rs1
  | .vsrseed rs1 => rs1
  | .atabld _ rs1 => rs1
  | .cpyv _ _ rs1 _ => rs1
  | .cpyvs _ _ rs1 _ => rs1
  | .ctile _ _ rs1 _ => rs1
  | .vxput _ rs1 _ => rs1
  | .vldUnit _ rs1 _ _ => rs1
  | .vldStrided _ _ rs1 _ _ => rs1
  | .vldIndexed _ _ rs1 _ _ => rs1
  | .vstUnit _ rs1 _ _ => rs1
  | .vstStrided _ _ rs1 _ _ => rs1
  | .vstIndexed _ _ rs1 _ _ => rs1
  | .vldffUnit _ rs1 _ _ => rs1
  | .vldffStrided _ _ rs1 _ _ => rs1
  | .vldffIndexed _ _ rs1 _ _ => rs1
  | .vlwin _ _ rs1 _ _ => rs1
  | .vstc _ rs1 _ _ => rs1
  | .vqldUnit rs1 _ => rs1
  | .vqldStrided _ rs1 _ => rs1
  | .vqstUnit rs1 _ => rs1
  | .vqstStrided _ rs1 _ => rs1
  | .vmld rs1 _ => rs1
  | .vmst _ rs1 _ => rs1
  | .vldr rs1 _ => rs1
  | .vstr _ rs1 _ => rs1
  | .vtadd _ _ rs1 _ _ => rs1
  | .vtmin _ _ rs1 _ _ => rs1
  | .vtmax _ _ rs1 _ _ => rs1
  | .vkld _ rs1 => rs1
  | .vkst _ rs1 => rs1
  | .baseAlu .. | .baseBranchJump .. | .baseLoad .. | .baseStore .. | .baseAmo .. | .baseLr ..
  | .baseSc .. | .fence .. | .fenceI .. | .ecall | .ebreak | .wfi
  | .sret | .mret | .csrWrite .. | .vlWrite .. | .vxflagsWrite .. | .ptrootWrite ..
  | .partitionSetup .. | .profileEnableWrite .. | .assayNoticeClear .. | .capWrite .. | .loop .. | .lexit ..
  | .lsave .. | .lrest .. | .lrd .. | .escOpen .. | .escCmp .. | .escClose
  | .escRet | .escAbort | .escStat .. | .guessRoutineEnd | .escrowHelperJoin .. | .escrowHelperReclaim ..
  | .escrowConflictSquash .. | .escrowDeferredResume | .vdecl .. | .vsetl .. | .vtagrd .. | .dflip ..
  | .dshape .. | .cpy .. | .cpys .. | .cring .. | .cpyvElementLand .. | .copyComplete ..
  | .overdraft | .cringReserve .. | .tadd .. | .tmin .. | .tmax .. | .tand ..
  | .tor .. | .txchg .. | .tcas .. | .tcmd .. | .tcmdComplete .. | .pset ..
  | .pwait .. | .ptest .. | .rres .. | .rpub .. | .racq .. | .rrel ..
  | .rocc .. | .bar .. | .wqpost .. | .lvlwait .. | .lvlcancel .. | .sexit
  | .syield | .snapBegin .. | .snapStat .. | .snapRollback .. | .mint .. | .mintResult
  | .assayReq .. | .evt .. | .cho .. | .tlbinv .. | .invalidationPort .. | .vaultSwap ..
  | .hint | .vxget .. | .srqDeliver | .vmpop .. | .vmfirst .. | .vmrd ..
  | .qfence .. | .efence .. | .kfence | .vaddVv .. | .vaddVx .. | .vaddVi ..
  | .vsubVv .. | .vsubVx .. | .vsubVi .. | .vmulVv .. | .vmulVx .. | .vmulVi ..
  | .vmacVv .. | .vmacVx .. | .vmacVi .. | .vminVv .. | .vminVx .. | .vminVi ..
  | .vmaxVv .. | .vmaxVx .. | .vmaxVi .. | .vandVv .. | .vandVx .. | .vandVi ..
  | .vorVv .. | .vorVx .. | .vorVi .. | .vxorVv .. | .vxorVx .. | .vxorVi ..
  | .vshlVv .. | .vshlVx .. | .vshlVi .. | .vshrVv .. | .vshrVx .. | .vshrVi ..
  | .vdivVv .. | .vdivVx .. | .vdivVi .. | .vcmpVv .. | .vcmpVx .. | .vcmpVi ..
  | .vmergeVv .. | .vmergeVx .. | .vmergeVi .. | .vpermGather .. | .vpermSlideVx .. | .vpermSlideVi ..
  | .vslideupVx .. | .vslideupVi .. | .vmov .. | .vneg .. | .vabs .. | .vnot ..
  | .vsqrt .. | .vrsqrt .. | .vrcp .. | .vexp2 .. | .vlog2 .. | .vsin ..
  | .vcos .. | .vtanh .. | .vsigm .. | .vfloor .. | .vceil .. | .vrnd ..
  | .vclz .. | .vpopc .. | .vid .. | .vbcast .. | .vclass .. | .vcvt ..
  | .vcvtRz .. | .vcvtSr .. | .vcvtSat .. | .vquant .. | .vredsum .. | .vredsumt ..
  | .vredmax .. | .vredmin .. | .vredand .. | .vredor .. | .vredxor .. | .vcompress ..
  | .vexpand .. | .vmidx .. | .vrev .. | .vtr8 .. | .mand .. | .mor ..
  | .mxor .. | .mandn .. | .mnot .. | .mbf .. | .mif .. | .msof ..
  | .mset .. | .mclr .. | .vmomu .. | .dmac .. | .dmsc .. | .dmm ..
  | .dop .. | .kin .. | .kadd .. | .dout .. | .doutQ .. | .doutA ..
  | .doutAq .. | .doutB .. | .doutBq .. | .doutBa .. | .doutBaq .. | .stashCopyDone ..
  | .cableEntryComplete | .viqExecute | .vectorFault | .vldffComplete | .latepf .. | .storeAck
  | .trapEntry .. | .preempt .. | .rollbackEntry | .tellerRemap .. | .tellerRequest .. | .hostTailWrite ..
  | .wsTakeRecord .. | .launchAdmit .. | .markerComplete .. | .launchComplete .. | .dependenceRelease .. | .levelCancelStore ..
  | .placeStrand .. | .reallocationIntervalEnd .. | .preemption | .forcedPreemption | .park | .waitSatisfied ..
  | .placementEvent .. | .pipelineStallEvent .. | .ringProducerLeave .. | .assayCoreClaim .. | .assayComplete .. | .vaultSwapDeadline
  | .vaultSwapDone | .stitchMarker .. | .strandCut | .consumeFirstCut | .chipDone .. | .doneMessage ..
  | .abandonMessage .. | .rollbackMessage .. | .peerRequest .. | .chunkReceive .. | .collectiveComplete .. | .collectiveTimeout ..
  | .scrubGranule .. | .wearRowCopy .. | .linkCalibration .. | .telemetrySample .. | .clockStepDown | .clockStepUp
  | .thermalShutdown | .dbell .. | .mailboxSetTdp .. | .mailboxAttest .. | .mailboxReadMeasurements .. | .powerOnBoot ..
  | .hostWrite .. | .jobBlockWrite .. | .dirtyLineWriteBack .. | .chunkLandingAck .. => 0

/-- The scalar register captured as xs2. -/
def captureB (i : Instr) : XReg :=
  match i with
  | .dset rs2 _ _ => rs2
  | .dscale rs2 _ _ => rs2
  | .kalloc rs2 _ => rs2
  | .atabld rs2 _ => rs2
  | .cpyv _ rs2 _ _ => rs2
  | .cpyvs _ rs2 _ _ => rs2
  | .ctile _ rs2 _ _ => rs2
  | .vxget _ rs2 _ _ => rs2
  | .vxput rs2 _ _ => rs2
  | .vldStrided _ rs2 _ _ _ => rs2
  | .vstStrided _ rs2 _ _ _ => rs2
  | .vldffStrided _ rs2 _ _ _ => rs2
  | .vqldStrided rs2 _ _ => rs2
  | .vqstStrided rs2 _ _ => rs2
  | .vkld rs2 _ => rs2
  | .vkst rs2 _ => rs2
  | .vaddVx _ rs2 _ _ _ => rs2
  | .vsubVx _ rs2 _ _ _ => rs2
  | .vmulVx _ rs2 _ _ _ => rs2
  | .vmacVx _ rs2 _ _ _ => rs2
  | .vminVx _ rs2 _ _ _ => rs2
  | .vmaxVx _ rs2 _ _ _ => rs2
  | .vandVx _ rs2 _ _ _ => rs2
  | .vorVx _ rs2 _ _ _ => rs2
  | .vxorVx _ rs2 _ _ _ => rs2
  | .vshlVx _ rs2 _ _ _ => rs2
  | .vshrVx _ rs2 _ _ _ => rs2
  | .vdivVx _ rs2 _ _ _ => rs2
  | .vcmpVx _ rs2 _ _ _ _ => rs2
  | .vmergeVx _ rs2 _ _ _ => rs2
  | .vpermSlideVx _ rs2 _ _ _ => rs2
  | .vslideupVx _ rs2 _ _ _ => rs2
  | .baseAlu .. | .baseBranchJump .. | .baseLoad .. | .baseStore .. | .baseAmo .. | .baseLr ..
  | .baseSc .. | .fence .. | .fenceI .. | .ecall | .ebreak | .wfi
  | .sret | .mret | .csrWrite .. | .vlWrite .. | .vxflagsWrite .. | .ptrootWrite ..
  | .partitionSetup .. | .profileEnableWrite .. | .assayNoticeClear .. | .capWrite .. | .loop .. | .lexit ..
  | .lsave .. | .lrest .. | .lrd .. | .escOpen .. | .escCmp .. | .escClose
  | .escRet | .escAbort | .escStat .. | .guessRoutineEnd | .escrowHelperJoin .. | .escrowHelperReclaim ..
  | .escrowConflictSquash .. | .escrowDeferredResume | .vdecl .. | .vsetl .. | .vtag .. | .vtagrd ..
  | .dflip .. | .dshape .. | .kfree .. | .kzero .. | .vsrseed .. | .cpy ..
  | .cpys .. | .cring .. | .cpyvElementLand .. | .copyComplete .. | .overdraft | .cringReserve ..
  | .tadd .. | .tmin .. | .tmax .. | .tand .. | .tor .. | .txchg ..
  | .tcas .. | .tcmd .. | .tcmdComplete .. | .pset .. | .pwait .. | .ptest ..
  | .rres .. | .rpub .. | .racq .. | .rrel .. | .rocc .. | .bar ..
  | .wqpost .. | .lvlwait .. | .lvlcancel .. | .sexit | .syield | .snapBegin ..
  | .snapStat .. | .snapRollback .. | .mint .. | .mintResult | .assayReq .. | .evt ..
  | .cho .. | .tlbinv .. | .invalidationPort .. | .vaultSwap .. | .hint | .srqDeliver
  | .vmpop .. | .vmfirst .. | .vmrd .. | .qfence .. | .efence .. | .kfence
  | .vldUnit .. | .vldIndexed .. | .vstUnit .. | .vstIndexed .. | .vldffUnit .. | .vldffIndexed ..
  | .vlwin .. | .vstc .. | .vqldUnit .. | .vqstUnit .. | .vmld .. | .vmst ..
  | .vldr .. | .vstr .. | .vtadd .. | .vtmin .. | .vtmax .. | .vaddVv ..
  | .vaddVi .. | .vsubVv .. | .vsubVi .. | .vmulVv .. | .vmulVi .. | .vmacVv ..
  | .vmacVi .. | .vminVv .. | .vminVi .. | .vmaxVv .. | .vmaxVi .. | .vandVv ..
  | .vandVi .. | .vorVv .. | .vorVi .. | .vxorVv .. | .vxorVi .. | .vshlVv ..
  | .vshlVi .. | .vshrVv .. | .vshrVi .. | .vdivVv .. | .vdivVi .. | .vcmpVv ..
  | .vcmpVi .. | .vmergeVv .. | .vmergeVi .. | .vpermGather .. | .vpermSlideVi .. | .vslideupVi ..
  | .vmov .. | .vneg .. | .vabs .. | .vnot .. | .vsqrt .. | .vrsqrt ..
  | .vrcp .. | .vexp2 .. | .vlog2 .. | .vsin .. | .vcos .. | .vtanh ..
  | .vsigm .. | .vfloor .. | .vceil .. | .vrnd .. | .vclz .. | .vpopc ..
  | .vid .. | .vbcast .. | .vclass .. | .vcvt .. | .vcvtRz .. | .vcvtSr ..
  | .vcvtSat .. | .vquant .. | .vredsum .. | .vredsumt .. | .vredmax .. | .vredmin ..
  | .vredand .. | .vredor .. | .vredxor .. | .vcompress .. | .vexpand .. | .vmidx ..
  | .vrev .. | .vtr8 .. | .mand .. | .mor .. | .mxor .. | .mandn ..
  | .mnot .. | .mbf .. | .mif .. | .msof .. | .mset .. | .mclr ..
  | .vmomu .. | .dmac .. | .dmsc .. | .dmm .. | .dop .. | .kin ..
  | .kadd .. | .dout .. | .doutQ .. | .doutA .. | .doutAq .. | .doutB ..
  | .doutBq .. | .doutBa .. | .doutBaq .. | .stashCopyDone .. | .cableEntryComplete | .viqExecute
  | .vectorFault | .vldffComplete | .latepf .. | .storeAck | .trapEntry .. | .preempt ..
  | .rollbackEntry | .tellerRemap .. | .tellerRequest .. | .hostTailWrite .. | .wsTakeRecord .. | .launchAdmit ..
  | .markerComplete .. | .launchComplete .. | .dependenceRelease .. | .levelCancelStore .. | .placeStrand .. | .reallocationIntervalEnd ..
  | .preemption | .forcedPreemption | .park | .waitSatisfied .. | .placementEvent .. | .pipelineStallEvent ..
  | .ringProducerLeave .. | .assayCoreClaim .. | .assayComplete .. | .vaultSwapDeadline | .vaultSwapDone | .stitchMarker ..
  | .strandCut | .consumeFirstCut | .chipDone .. | .doneMessage .. | .abandonMessage .. | .rollbackMessage ..
  | .peerRequest .. | .chunkReceive .. | .collectiveComplete .. | .collectiveTimeout .. | .scrubGranule .. | .wearRowCopy ..
  | .linkCalibration .. | .telemetrySample .. | .clockStepDown | .clockStepUp | .thermalShutdown | .dbell ..
  | .mailboxSetTdp .. | .mailboxAttest .. | .mailboxReadMeasurements .. | .powerOnBoot .. | .hostWrite .. | .jobBlockWrite ..
  | .dirtyLineWriteBack .. | .chunkLandingAck .. => 0

/-- The masks an entry writes (R108, R139). -/
def maskWrites (i : Instr) : List MReg3 :=
  match i with
  | .vlwin _ _ _ m _ => [m]
  | .vmld _ k => [k]
  | .vcmpVv _ _ _ _ d _ => [d]
  | .vcmpVx _ _ _ _ d _ => [d]
  | .vcmpVi _ _ _ _ d _ => [d]
  | .mand _ _ _ d => [d]
  | .mor _ _ _ d => [d]
  | .mxor _ _ _ d => [d]
  | .mandn _ _ _ d => [d]
  | .mnot _ _ d => [d]
  | .mbf _ _ d => [d]
  | .mif _ _ d => [d]
  | .msof _ _ d => [d]
  | .mset d => [d]
  | .mclr d => [d]
  | .baseAlu .. | .baseBranchJump .. | .baseLoad .. | .baseStore .. | .baseAmo .. | .baseLr ..
  | .baseSc .. | .fence .. | .fenceI .. | .ecall | .ebreak | .wfi
  | .sret | .mret | .csrWrite .. | .vlWrite .. | .vxflagsWrite .. | .ptrootWrite ..
  | .partitionSetup .. | .profileEnableWrite .. | .assayNoticeClear .. | .capWrite .. | .loop .. | .lexit ..
  | .lsave .. | .lrest .. | .lrd .. | .escOpen .. | .escCmp .. | .escClose
  | .escRet | .escAbort | .escStat .. | .guessRoutineEnd | .escrowHelperJoin .. | .escrowHelperReclaim ..
  | .escrowConflictSquash .. | .escrowDeferredResume | .vdecl .. | .vsetl .. | .vtag .. | .vtagrd ..
  | .dset .. | .dflip .. | .dscale .. | .dshape .. | .kalloc .. | .kfree ..
  | .kzero .. | .vsrseed .. | .atabld .. | .cpy .. | .cpys .. | .cpyv ..
  | .cpyvs .. | .ctile .. | .cring .. | .cpyvElementLand .. | .copyComplete .. | .overdraft
  | .cringReserve .. | .tadd .. | .tmin .. | .tmax .. | .tand .. | .tor ..
  | .txchg .. | .tcas .. | .tcmd .. | .tcmdComplete .. | .pset .. | .pwait ..
  | .ptest .. | .rres .. | .rpub .. | .racq .. | .rrel .. | .rocc ..
  | .bar .. | .wqpost .. | .lvlwait .. | .lvlcancel .. | .sexit | .syield
  | .snapBegin .. | .snapStat .. | .snapRollback .. | .mint .. | .mintResult | .assayReq ..
  | .evt .. | .cho .. | .tlbinv .. | .invalidationPort .. | .vaultSwap .. | .hint
  | .vxget .. | .srqDeliver | .vxput .. | .vmpop .. | .vmfirst .. | .vmrd ..
  | .qfence .. | .efence .. | .kfence | .vldUnit .. | .vldStrided .. | .vldIndexed ..
  | .vstUnit .. | .vstStrided .. | .vstIndexed .. | .vldffUnit .. | .vldffStrided .. | .vldffIndexed ..
  | .vstc .. | .vqldUnit .. | .vqldStrided .. | .vqstUnit .. | .vqstStrided .. | .vmst ..
  | .vldr .. | .vstr .. | .vtadd .. | .vtmin .. | .vtmax .. | .vkld ..
  | .vkst .. | .vaddVv .. | .vaddVx .. | .vaddVi .. | .vsubVv .. | .vsubVx ..
  | .vsubVi .. | .vmulVv .. | .vmulVx .. | .vmulVi .. | .vmacVv .. | .vmacVx ..
  | .vmacVi .. | .vminVv .. | .vminVx .. | .vminVi .. | .vmaxVv .. | .vmaxVx ..
  | .vmaxVi .. | .vandVv .. | .vandVx .. | .vandVi .. | .vorVv .. | .vorVx ..
  | .vorVi .. | .vxorVv .. | .vxorVx .. | .vxorVi .. | .vshlVv .. | .vshlVx ..
  | .vshlVi .. | .vshrVv .. | .vshrVx .. | .vshrVi .. | .vdivVv .. | .vdivVx ..
  | .vdivVi .. | .vmergeVv .. | .vmergeVx .. | .vmergeVi .. | .vpermGather .. | .vpermSlideVx ..
  | .vpermSlideVi .. | .vslideupVx .. | .vslideupVi .. | .vmov .. | .vneg .. | .vabs ..
  | .vnot .. | .vsqrt .. | .vrsqrt .. | .vrcp .. | .vexp2 .. | .vlog2 ..
  | .vsin .. | .vcos .. | .vtanh .. | .vsigm .. | .vfloor .. | .vceil ..
  | .vrnd .. | .vclz .. | .vpopc .. | .vid .. | .vbcast .. | .vclass ..
  | .vcvt .. | .vcvtRz .. | .vcvtSr .. | .vcvtSat .. | .vquant .. | .vredsum ..
  | .vredsumt .. | .vredmax .. | .vredmin .. | .vredand .. | .vredor .. | .vredxor ..
  | .vcompress .. | .vexpand .. | .vmidx .. | .vrev .. | .vtr8 .. | .vmomu ..
  | .dmac .. | .dmsc .. | .dmm .. | .dop .. | .kin .. | .kadd ..
  | .dout .. | .doutQ .. | .doutA .. | .doutAq .. | .doutB .. | .doutBq ..
  | .doutBa .. | .doutBaq .. | .stashCopyDone .. | .cableEntryComplete | .viqExecute | .vectorFault
  | .vldffComplete | .latepf .. | .storeAck | .trapEntry .. | .preempt .. | .rollbackEntry
  | .tellerRemap .. | .tellerRequest .. | .hostTailWrite .. | .wsTakeRecord .. | .launchAdmit .. | .markerComplete ..
  | .launchComplete .. | .dependenceRelease .. | .levelCancelStore .. | .placeStrand .. | .reallocationIntervalEnd .. | .preemption
  | .forcedPreemption | .park | .waitSatisfied .. | .placementEvent .. | .pipelineStallEvent .. | .ringProducerLeave ..
  | .assayCoreClaim .. | .assayComplete .. | .vaultSwapDeadline | .vaultSwapDone | .stitchMarker .. | .strandCut
  | .consumeFirstCut | .chipDone .. | .doneMessage .. | .abandonMessage .. | .rollbackMessage .. | .peerRequest ..
  | .chunkReceive .. | .collectiveComplete .. | .collectiveTimeout .. | .scrubGranule .. | .wearRowCopy .. | .linkCalibration ..
  | .telemetrySample .. | .clockStepDown | .clockStepUp | .thermalShutdown | .dbell .. | .mailboxSetTdp ..
  | .mailboxAttest .. | .mailboxReadMeasurements .. | .powerOnBoot .. | .hostWrite .. | .jobBlockWrite .. | .dirtyLineWriteBack ..
  | .chunkLandingAck .. => []

/-- The masks a queued entry writes: a VIQ-routed `ctile` names its own in the request it has read (R285). -/
def VEntry.masks (e : VEntry) : List MReg3 :=
  match e.instr with
  | .ctile .. => if (tileOfRec e.tile).msk = 0 then [] else [(tileOfRec e.tile).msk]
  | i => maskWrites i

/-! ## Element accesses -/

/-- What the access unit sees of an element-by-element M-space entry: whether it loads, its addressing mode, mask and data
register, and whether it is a first-fault load. -/
structure Access where
  load : Bool
  mode : MMode
  mask : MReg3
  reg : VReg5
  ff : Bool
  deriving DecidableEq, Repr

/-- The element accesses of an instruction. -/
def accessOf (i : Instr) : Option Access :=
  match i with
  | .vldUnit _ _ m vd => some ⟨true, .unit, m, vd, false⟩
  | .vldStrided _ _ _ m vd => some ⟨true, .strided, m, vd, false⟩
  | .vldIndexed _ vs2 _ m vd => some ⟨true, .indexed vs2, m, vd, false⟩
  | .vldffUnit _ _ m vd => some ⟨true, .unit, m, vd, true⟩
  | .vldffStrided _ _ _ m vd => some ⟨true, .strided, m, vd, true⟩
  | .vldffIndexed _ vs2 _ m vd => some ⟨true, .indexed vs2, m, vd, true⟩
  | .vstUnit _ _ m vs3 => some ⟨false, .unit, m, vs3, false⟩
  | .vstStrided _ _ _ m vs3 => some ⟨false, .strided, m, vs3, false⟩
  | .vstIndexed _ vs2 _ m vs3 => some ⟨false, .indexed vs2, m, vs3, false⟩
  | _ => none

/-- Where the enabled elements of an access from its first unfinished one up to below `hi` lie; what faults is left out. -/
def accessLocs (s : State) (en : VEntry) (x : Access) (hi : Nat) : List Loc :=
  (s.ctx.enabled x.mask en.start (min hi en.csr.vl.toNat)).filterMap fun i =>
    let w := s.ctx.width x.reg
    let space := if x.load then ldSpace en else stSpace en
    match ((elemLoc (if x.load then .load else .store) space en.priv w (elemAddr x.mode w en s.ctx i)).run s).1 with
    | .ok l => some l
    | .error _ => none

/-! ## New-colour items (R269) -/

/-- A location on such a line, or one on another chip, whose reply comes in a colour the model leaves free (log 127). -/
def newItem (s : State) (l : Loc) : Bool :=
  match l with
  | .phys a _ _ => newLine s s.pidx a
  | .pocket _ => false
  | .peer _ _ => decide (Config.pick s.draws % 2 = 1)

/-- A vector address on such a line. -/
def newElem (s : State) (space : Nat) (p : Priv) (va : Word) (n : Nat) : Bool :=
  match ((resolveSpace space .load p va n).run s).1 with
  | .ok l => newItem s l
  | .error _ => false

/-- A run of bytes in a space meets such a line. -/
def newRun (s : State) (space : Nat) (p : Priv) (va : Word) (n : Nat) : Bool :=
  decide (0 < n) && (upFrom 0 ((n + 127) / 128 + 1)).any fun j => newElem s space p (va + BitVec.ofNat 64 (min (128 * j) (n - 1))) 1

/-- An 8-byte word a load would read, for looking ahead only; none where it faults or leaves the chip. -/
def peekWord (s : State) (space : Nat) (p : Priv) (va : Word) : Option Nat :=
  match ((resolveSpace space .load p va 8).run s).1 with
  | .ok (.phys a _ _) => some (getLe s.mem a 8)
  | .ok (.pocket o) => some (getLe s.ctx.pocket o 8)
  | .ok (.peer _ _) | .error _ => none

/-- Words of n slot records from word j on (R235): each head says how many pool words follow it. -/
def kimgWords (s : State) (en : VEntry) (j : Nat) : Nat → Nat
  | 0 => j
  | n + 1 =>
    let w (i : Nat) : Nat := (peekWord s (ldSpace en) en.priv (wordAddr en (j + i))).getD 0
    kimgWords s en (j + 4 + slotWords (slotOfHead (w 0 + w 1 * 2 ^ 64 + w 2 * 2 ^ 128))) n

/-- An entry has a load element still to be read from such a line. -/
def entryNew (s : State) (en : VEntry) : Bool :=
  let n := en.csr.vl.toNat
  let left := upFrom en.start (n - en.start)
  let run (va : Word) (bytes : Nat) : Bool := newRun s (ldSpace en) en.priv va bytes
  match accessOf en.instr with
  | some x => x.load && (accessLocs s en x n).any (newItem s)
  | none => match en.instr with
    | .vlwin _ x _ _ vd =>
      let w := s.ctx.width vd
      (left.filter fun i => decide (0 ≤ s.ctx.ival x i) && decide (s.ctx.ival x i + elemBytes w ≤ mvlOf s.ctx)).any fun i =>
        newElem s (ldSpace en) en.priv (elemAddr (.indexed x) w en s.ctx i) 1
    | .vqldUnit _ _ => run (qAddr .unit en en.start) (2 * left.length)
    | .vqldStrided _ _ _ => left.any fun i => newElem s (ldSpace en) en.priv (qAddr .strided en i) 1
    | .vmld _ _ => run en.a (8 * maskWords en)
    | .vldr _ _ => run en.a (64 + mvlOf s.ctx)
    | .vkld _ _ => run en.a (8 * kimgWords s en 0 (slotCount en.b))
    | .atabld _ _ => newRun s 0 en.priv en.a 2048
    | .cpyvs _ _ _ _ => newRun s 0 en.priv (en.csr.pbase + BitVec.ofNat 64 (8 * (en.b.extractLsb' 0 5).toNat)) 8
    | .ctile _ _ _ p => newRun s 0 en.priv (en.csr.pbase + BitVec.ofNat 64 (8 * p.toNat)) 8
    | _ => false

/-- The strand has not cut, and an entry would consume a new-colour item: the cut is taken first (R269). -/
def entryConsumes (s : State) (en : VEntry) : Bool := uncut (s.part s.pidx) s.ctx && entryNew s en

/-- The head of the VIQ waits for its strand's cut (R269). -/
def queueConsumes (s : State) : Bool := s.ctx.viq.head?.any fun en => !en.frozen && entryConsumes s en

/-! ## Progress of the queue -/

/-- Deliver the produced values at the head of the SRQ (R136), into the serial thread's registers. -/
def srqSettle : Nat → Ctx → Ctx
  | 0, c => c
  | n + 1, c =>
    match c.srq with
    | ⟨xd, _, some v⟩ :: t =>
      let c := { c with srq := t }
      srqSettle n (match c.escActive with
        | some e =>
          if c.isSpec then
            let k := e.oldestPart
            match e.parts[k]? with
            | some p =>
              let x := if xd = 0 then p.x else p.x.set xd.toNat v
              { c with esc := some { e with parts := setAt e.parts k { p with x := x } } }
            | none => c
          else c.setX xd v
        | none => c.setX xd v)
    | ⟨_, _, none⟩ :: _ => c
    | [] => c

/-- Every value that can be delivered. -/
def Ctx.srqAll (c : Ctx) : Ctx := srqSettle c.srq.length c

/-- The vector register an entry's elements go to: bits [11:7] of its word. -/
def VEntry.dest (e : VEntry) : VReg5 := e.word.extractLsb' 7 5

/-- An entry that the access unit or the lanes have begun, past what it was armed at. -/
def VEntry.begun (e : VEntry) : Bool := decide (e.base < e.start)

/-- A begun entry is reset, its register as it was before the early start (R272). -/
def VEntry.reset (e : VEntry) : VEntry := if e.undo.isSome then { e with start := e.base, undo := none } else e

/-- Registers of begun entries as they were before their early start; younger starts are taken back first. -/
def undoStarts : List VEntry → Ctx → Ctx
  | [], c => c
  | e :: t, c =>
    let d := undoStarts t c
    match e.undo with
    | some v => (d.setVr e.dest v).stale e.dest
    | none => d

/-- A vector fault at position `pos` (R272, R273): younger entries that had begun are reset, the entry and every other one are
frozen, and the trap is pending with the `ves` and `vqpos` that name it. -/
def viqFault (s : State) (pos : Nat) (word : BitVec 32) (cause : BitVec 6) (tval : Option Word) (ves : Nat) : State :=
  s.mapCtx fun c =>
    let younger (n : Nat) : Bool := decide (pos < n)
    { undoStarts (c.viq.drop (pos + 1)) c with
      viq := (c.viq.zip (upFrom 0 c.viq.length)).map fun p =>
        { (if younger p.2 then p.1.reset else p.1) with frozen := true, faulting := decide (p.2 = pos) }
      vfault := some ⟨cause, tval.getD (word.setWidth 64), BitVec.ofNat 64 ves, BitVec.ofNat 64 pos⟩ }

/-- Stores that a `qfence` held behind an entry are held no longer, and come after what the entry itself has stored (R268). -/
def unholdBehind (id : Nat) (s : State) : State :=
  let mine (h : Held) : Bool := h.mine s && decide (h.behind = some id)
  if s.heldStores.any mine then
    { s with heldStores := s.heldStores.filter (fun h => !mine h)
        ++ (s.heldStores.filter mine).map fun h => { h with behind := none } }
  else s

/-- The granule writes of the entry at the head, which has made all its stores (R219). -/
def headGranules (en : VEntry) (s : State) : State :=
  match s.ctx.viq with
  | e :: _ => if e.wrote.isEmpty then s else closeGranules s (fun h => h.mine s && decide (h.entry = some en.id)) e.wrote
  | [] => s

/-- The head entry has completed and leaves the queue; `ves` and `vqpos` are cleared when it had faulted (Table 5.4), and
what was held behind its stores goes on (R268). -/
def viqLeave (en : VEntry) (s : State) : State :=
  unholdBehind en.id ((headGranules en s).mapCtx fun c =>
    { c with
      viq := c.viq.drop 1
      barrier := if c.barrier.any fun b => decide (b.entry = en.id) then none else c.barrier
      u := if en.faulting then { c.u with ves := 0, vqpos := 0 } else c.u })

/-- What follows a completed entry when nothing lags: the Cable queue runs and the SRQ delivers. -/
def viqAfter (s : State) : State := if s.lag then s else s.mapCtx fun c => c.cableAll.srqAll

/-- The FENCED check of an entry as its execution begins; past it, the entry goes on (R316). -/
def entryBarred (s : State) (en : VEntry) : Bool := !en.begun && !en.sent && entryFenced s en.instr

/-- The head entry's execution (R120, R316). -/
def viqHead (en : VEntry) (s : State) : VOut :=
  if entryBarred s en then .fault s cFenced none 0 else viqRun en.instr en s

/-- The store at the head has sent all its accesses, and the one at element f is not acknowledged yet (R261, R268). -/
def viqSent (f : Nat) (s : State) : State :=
  s.mapCtx fun c => { c with viq := match c.viq with
    | e :: t => { e with sent := true, start := max e.start f } :: t
    | [] => [] }

/-- A fault of the head entry is delivered; LATEPF, while agents lag, perhaps only later (R268). -/
def headFault (en : VEntry) (t : State) (cause : BitVec 6) (tval : Option Word) (ves : Nat) : State :=
  if t.lag && decide (cause = cLatepf) && decide (Config.pick t.draws % 2 = 1) then
    viqSent ves { t with draws := t.draws + 1 }
  else viqFault t 0 en.word cause tval ves

/-- Run the head entry where it is not frozen and no cut comes before it (R269): it completes, waits, or faults. -/
def viqStep (s : State) : Host.Outcome State Fault Refusal :=
  match s.ctx.viq with
  | [] => .next s
  | en :: _ =>
    if en.frozen || entryConsumes s en then .next s
    else match viqHead en s with
      | .done t => .next (viqAfter (viqLeave en t))
      | .wait => .next s
      | .fault t cause tval ves => .next (headFault en t cause tval ves)
      | .port a => .refused (.devicePort a)

/-- Run entries in order until one waits or faults. -/
def viqDrain : Nat → State → Host.Outcome State Fault Refusal
  | 0, s => .next s
  | n + 1, s =>
    match viqStep s with
    | .next t => if t.ctx.viq.length < s.ctx.viq.length then viqDrain n t else .next t
    | .fault r => .fault r
    | .refused r => .refused r

/-- Run every entry that can run. -/
def viqAll (s : State) : Host.Outcome State Fault Refusal := viqDrain s.ctx.viq.length s

/-! ## Commit -/

/-- A first-fault load, whose commit makes `vl` provisional (R228). -/
def isVldff (i : Instr) : Bool :=
  match i with
  | .vldffUnit .. | .vldffStrided .. | .vldffIndexed .. => true
  | _ => false

/-- The entry an instruction commits as, capturing its scalars and CSRs (R113). -/
def viqEntry (i : Instr) (tile : List Byte) (s : State) : VEntry :=
  let c := s.ctx
  { id := c.viqNext
    instr := i
    word := (encode i).getD 0
    pc := c.pc
    a := c.getX (captureA i)
    b := c.getX (captureB i)
    csr := c.u
    vlRef := c.vlProv
    tile := tile
    frozen := false
    faulting := false
    start := 0
    base := 0
    undo := none
    wrote := []
    sent := false
    priv := dataPriv s }

/-- Put an entry into the VIQ. -/
def viqPush (i : Instr) (tile : List Byte) (s : State) : State :=
  let en := viqEntry i tile s
  s.mapCtx fun c =>
    { c with
      viq := c.viq ++ [en]
      viqNext := c.viqNext + 1
      vlProv := if isVldff i then some en.id else c.vlProv }

/-- The VIQ holds 32 entries (R270). -/
def viqFull (c : Ctx) : Bool := decide (32 ≤ c.viq.length)

/-- Retire after a commit: with no lag the queue runs first. -/
def viqRetire (s : State) : Host.Outcome State Fault Refusal :=
  if s.lag then .next (retire s)
  else match viqAll s with
    | .next t => .next (retire t)
    | .fault r => .fault r
    | .refused r => .refused r

/-- Commit an instruction to the VIQ in program order; the scalar thread stalls while the queue is full (R270). -/
def viqCommit (i : Instr) (tile : List Byte) (s : State) : Host.Outcome State Fault Refusal :=
  guarded i s fun s => if viqFull s.ctx then .next s else viqRetire (viqPush i tile s)

/-! ## Steps of the queue's own -/

/-- VIQ_EXECUTE (R120): the head entry reaches execution, is checked and runs. -/
def execViqExecute (s : State) : Host.Outcome State Fault Refusal := viqStep s

/-- VLDFF_COMPLETE (R228): a `vldff` at the head completes, resolving the provisional `vl`. -/
def execVldffComplete (s : State) : Host.Outcome State Fault Refusal :=
  if s.ctx.viq.head?.any fun e => isVldff e.instr then viqStep s else .next s

/-! ## The access unit ahead of the head (R105, R226, R263, R264) -/

/-- V-space forms that the lanes perform element by element into vd. -/
def elemwise (i : Instr) : Bool :=
  match i with
  | .vaddVv .. | .vaddVx .. | .vaddVi .. | .vsubVv .. | .vsubVx .. | .vsubVi .. | .vmulVv .. | .vmulVx .. | .vmulVi ..
  | .vmacVv .. | .vmacVx .. | .vmacVi .. | .vminVv .. | .vminVx .. | .vminVi .. | .vmaxVv .. | .vmaxVx .. | .vmaxVi ..
  | .vandVv .. | .vandVx .. | .vandVi .. | .vorVv .. | .vorVx .. | .vorVi .. | .vxorVv .. | .vxorVx .. | .vxorVi ..
  | .vshlVv .. | .vshlVx .. | .vshlVi .. | .vshrVv .. | .vshrVx .. | .vshrVi .. | .vdivVv .. | .vdivVx .. | .vdivVi ..
  | .vmergeVv .. | .vmergeVx .. | .vmergeVi .. | .vmov .. | .vneg .. | .vabs .. | .vnot .. | .vsqrt .. | .vrsqrt .. | .vrcp ..
  | .vexp2 .. | .vlog2 .. | .vsin .. | .vcos .. | .vtanh .. | .vsigm .. | .vfloor .. | .vceil .. | .vrnd .. | .vclz ..
  | .vpopc .. | .vid .. | .vclass .. | .vcvt .. | .vcvtRz .. | .vcvtSr .. | .vcvtSat .. => true
  | _ => false

/-- Vector registers an entry names, the inner and outer planes that a Cable form reads among them (R167, R170); for the forms not
told apart here, those its word may name. -/
def entryRegs (c : Ctx) (en : VEntry) : List VReg5 :=
  let d : VReg5 := en.word.extractLsb' 7 5
  let s1 : VReg5 := en.word.extractLsb' 15 5
  let s2 : VReg5 := en.word.extractLsb' 20 5
  match accessOf en.instr with
  | some x => x.reg :: x.mode.regs
  | none =>
    match en.instr with
    | .dmac _ _ b a _ | .dmsc _ _ b a _ | .dmm _ _ b a _ | .dop _ _ b a _ => b :: a :: innerA c a ++ innerB c b
    | .dout _ b d k | .doutQ _ b d k | .doutA _ b d k | .doutAq _ b d k
    | .doutB _ b d k | .doutBq _ b d k | .doutBa _ b d k | .doutBaq _ b d k =>
      b :: d :: outerA (c.slot k.toNat) c ++ outerB (c.slot k.toNat) c
    | .kin _ a _ => [a]
    | .vid _ _ vd => [vd]
    | i => if elemwise i && decide (en.word.extractLsb' 25 2 ≠ 0) then [d, s1] else [d, s1, s2]

/-- Other forms performed element by element, which a stop at the head may leave part done (R128). -/
def byElement (i : Instr) : Bool :=
  match i with
  | .vlwin .. | .vstc .. | .vqldUnit .. | .vqldStrided .. | .vqstUnit .. | .vqstStrided .. | .vtadd .. | .vtmin .. | .vtmax .. => true
  | _ => false

/-- The mask an entry's elements are enabled by. -/
def VEntry.mask (e : VEntry) : MReg3 := e.word.extractLsb' 12 3

/-- Two accesses of VIQ entries keep program order: they meet in a byte (R225, R256), or both are to SO pages (R258). It is
asked element by element, each in the kind of its own page (R259). -/
def accessMeets (w : Nat) (l : Loc) (w' : Nat) (l' : Loc) : Bool :=
  overlaps l (elemBytes w) l' (elemBytes w') || (decide (l.kind = kindSO) && decide (l'.kind = kindSO))

/-- An older entry leaves a younger entry's elements below `hi` free to be performed: it names none of its registers, but
where both work element by element and it has done every one of those elements (R264); writes not its mask; has no access left
that comes before one of them; and, for a V-space entry, works element by element itself. -/
def lets (s : State) (o : VEntry) (en : VEntry) (hi : Nat) : Bool :=
  let part (e : VEntry) : Bool := elemwise e.instr || (accessOf e.instr).any fun y => !y.ff
  let shares := (entryRegs s.ctx o).any (entryRegs s.ctx en).contains
  !o.frozen && (!shares || (part o && decide (hi ≤ o.start))) && !o.masks.contains en.mask && (!elemwise en.instr || part o)
    && (match accessOf en.instr with
      | none => true
      | some x => !memInstr o.instr || (match accessOf o.instr with
        | some y => (accessLocs s o y o.csr.vl.toNat).all fun l => (accessLocs s en x hi).all fun l' =>
            !accessMeets (s.ctx.width y.reg) l (s.ctx.width x.reg) l'
        | none => false))

/-- Run in order, the entries complete: none of them can fault any more before a younger store (R272). -/
def soundAll : List VEntry → State → Bool
  | [], _ => true
  | o :: t, s => match viqRun o.instr o s with
    | .done u => soundAll t u
    | .wait => false
    | .fault _ _ _ _ => false
    | .port _ => false

/-- Loads the access unit holds beyond the commit point, older than the entry at a position (R105). -/
def loadsAhead (c : Ctx) (pos : Nat) : Nat :=
  (((c.viq.take pos).drop 1).filter fun e => (accessOf e.instr).any fun x => x.load).length

/-- Elements below `hi` of the entry at a position may be performed: the head's always; a younger one's where no `qfence` holds
it (R261) and every older entry lets it, for a load while fewer than NREG ÷ G loads are ahead (R105), and for a store where no
older entry can fault any more (R272). -/
def aheadOk (s : State) (pos : Nat) (en : VEntry) (hi : Nat) : Bool :=
  !en.frozen && !en.sent && en.vlRef.isNone && !entryConsumes s en && (decide (pos = 0)
    || (s.ctx.barrier.isNone && (s.ctx.viq.take pos).all (fun o => lets s o en hi)
      && (match accessOf en.instr with
        | some x => if x.load then decide (loadsAhead s.ctx pos < nregOf s.ctx / groupOf s.ctx)
            else soundAll (s.ctx.viq.take pos) s
        | none => elemwise en.instr)))

/-- An execution of the entry that performs every element below `hi`: it completes, or stops past them. -/
def reaches (hi : Nat) (o : VOut) : Bool :=
  match o with
  | .done _ => true
  | .fault _ _ _ f => decide (hi ≤ f)
  | .wait => false
  | .port _ => false

/-- Put back an entry of the VIQ. -/
def Ctx.setViq (c : Ctx) (pos : Nat) (e : VEntry) : Ctx := { c with viq := setAt c.viq pos e }

/-- Forms that a part of can be performed at a position. -/
def canPart (pos : Nat) (en : VEntry) : Bool :=
  elemwise en.instr || (accessOf en.instr).any (fun x => !x.ff) || (decide (pos = 0) && byElement en.instr)

/-- An early part of a younger entry changes its vector register only, which a fault of an older entry can take back (R272). -/
def quiet (s t : State) : Bool := decide (t.ctx.u = s.ctx.u) && decide (t.ctx.sr = s.ctx.sr)

/-- The entry after its elements below `hi` are performed; an early start remembers its register. -/
def VEntry.partDone (e : VEntry) (pos hi : Nat) (c : Ctx) : VEntry :=
  let writes := elemwise e.instr || (accessOf e.instr).any fun x => x.load
  { e with
    start := hi
    undo := if decide (pos ≠ 0) && writes && !e.begun then some (c.vr e.dest) else e.undo }

/-- The elements below `hi` of the entry at a position are performed, leaving it part done (R128, R263, R264). -/
def viqPart (pos hi : Nat) (s : State) : State :=
  match s.ctx.viq[pos]? with
  | none => s
  | some en =>
    if decide (hi ≤ en.start) || decide (en.csr.vl.toNat ≤ hi) || !canPart pos en || !aheadOk s pos en hi
        || entryBarred s en || !reaches hi (viqRun en.instr en s) then s
    else match viqRun en.instr { en with csr := { en.csr with vl := BitVec.ofNat 64 hi } } s with
      | .done t =>
        if pos ≠ 0 ∧ elemwise en.instr = true ∧ quiet s t = false then s
        else t.mapCtx fun c => match c.viq[pos]? with
          | some e => c.setViq pos (e.partDone pos hi s.ctx)
          | none => c
      | .wait => s
      | .fault _ _ _ _ => s
      | .port _ => s

/-- The fault that the access unit finds in a load it has begun early, with what its elements below the fault have
written (R272). -/
def aheadFault (s : State) (pos : Nat) (en : VEntry) : Option (State × BitVec 6 × Option Word × Nat) :=
  match accessOf en.instr with
  | none => none
  | some x =>
    if x.load && aheadOk s pos en en.csr.vl.toNat && !entryBarred s en then
      match viqRun en.instr en s with
      | .fault t cause tval f => some (t, cause, tval, f)
      | .done _ => none
      | .wait => none
      | .port _ => none
    else none

/-- The first entry behind a waiting head that the access unit finds faulting. -/
def findAhead (s : State) : Nat → List VEntry → Option (Nat × VEntry × State × BitVec 6 × Option Word × Nat)
  | _, [] => none
  | pos, en :: t =>
    match aheadFault s pos en with
    | some r => some (pos, en, r.1, r.2.1, r.2.2.1, r.2.2.2)
    | none => findAhead s (pos + 1) t

/-- VECTOR_FAULT (R272): an entry behind a waiting head faults first; older entries that have not started are frozen
with it, and one that is executing completes first. -/
def execVectorFault (s : State) : Host.Outcome State Fault Refusal :=
  match s.ctx.viq with
  | en :: t =>
    if en.frozen || entryConsumes s en then .next s
    else match viqHead en s, findAhead s 1 t with
      | .wait, some (pos, e, u, cause, tval, f) =>
        if (s.ctx.viq.take pos).any fun o => o.begun || o.sent then .next s
        else .next (viqFault u pos e.word cause tval f)
      | .wait, none => .next s
      | .done _, _ => .next s
      | .fault _ _ _ _, _ => viqStep s
      | .port a, _ => .refused (.devicePort a)
  | [] => .next s

/-- LATEPF (R268): the store at the head reports a late fault at an element. -/
def execLatepf (elem : Nat) (s : State) : Host.Outcome State Fault Refusal :=
  match s.ctx.viq with
  | en :: _ =>
    if en.frozen || entryConsumes s en then .next s
    else match viqHead en s with
      | .fault t cause tval ves =>
        if cause = cLatepf ∧ ves = elem then .next (viqFault t 0 en.word cause tval ves) else .next s
      | .done _ => .next s
      | .wait => .next s
      | .port _ => .next s
  | [] => .next s

/-- SRQ_DELIVER (R136): the value at the head of the SRQ is written into its xd. -/
def execSrqDeliver (s : State) : Host.Outcome State Fault Refusal := .next (s.mapCtx fun c => srqSettle 1 c)

/-- Positions of the held stores accepted from a core that may be performed: none that waits for an older one that is not
performed, and none that cannot be performed now (R257, R258, R261, R268). -/
def heldChoices (s : State) : List Held → List Held → Nat → List Nat
  | _, [], _ => []
  | older, h :: t, n =>
    let rest := heldChoices s (older ++ [h]) t (n + 1)
    let waits := older.any fun g =>
      decide (g.reach < heldNeed g h 3) && (decide (3 ≤ heldNeed g h 3) || heldStuck s g)
    if decide (h.core = s.core.id) && !heldStuck s h && !waits then n :: rest else rest

/-- STORE_ACK (R268): one store accepted at the rib ordering point is performed; which one is a free choice among those
that no rule orders after another. -/
def execStoreAck (s : State) : Host.Outcome State Fault Refusal :=
  let ps := heldChoices s [] s.heldStores 0
  match ps[Config.pick s.draws % max 1 ps.length]? with
  | none => .next s
  | some n =>
    match s.heldStores[n]? with
    | none => .next s
    | some h => .next (levelHook s (flushWhere (fun g => decide (g = h)) { s with draws := s.draws + 1 }))

/-- The held store at a position becomes readable in its rib (R255), and what a fence orders before it; one to an SO page keeps
its place in the chip's one SO order (R258), and one that cannot be performed is performed at no scope (R268). -/
def ribSees (n : Nat) (s : State) : State :=
  match s.heldStores[n]? with
  | some h =>
    if raisable h.loc then levelHook s (settleHeld (fun g => if g = h then 2 else 0) s) else s
  | none => s

end Sys2Proof.Machine
end

