-- ==== Sys2Proof/Machine/CableSpace.lean ====
section
/-! DEFINITION. C-space instructions (spec/08): each is committed to the VIQ and issued to the Cable queue there. -/

namespace Sys2Proof.Machine

/-- DMAC (R169): dmac adds the products of two diagonals into the slot of the summed offset; committed to the VIQ. -/
def execDmac (z e : Bool) (vs2 vs1 : VReg5) (k : BitVec 8) (s : State) : Host.Outcome State Fault Refusal :=
  viqCommit (.dmac z e vs2 vs1 k) [] s

/-- DMSC (R169): dmsc subtracts the products of two diagonals from the slot of the summed offset; committed to the VIQ. -/
def execDmsc (z e : Bool) (vs2 vs1 : VReg5) (k : BitVec 8) (s : State) : Host.Outcome State Fault Refusal :=
  viqCommit (.dmsc z e vs2 vs1 k) [] s

/-- DMM (R172): dmm multiplies two dense tiles held as packed diagonals; committed to the VIQ. -/
def execDmm (z e : Bool) (vs2 vs1 : VReg5) (k : BitVec 8) (s : State) : Host.Outcome State Fault Refusal :=
  viqCommit (.dmm z e vs2 vs1 k) [] s

/-- DOP (R173): dop adds an outer product into a run of slots; committed to the VIQ. -/
def execDop (z e : Bool) (vs2 vs1 : VReg5) (k : BitVec 8) (s : State) : Host.Outcome State Fault Refusal :=
  viqCommit (.dop z e vs2 vs1 k) [] s

/-- KIN (R174): kin writes a diagonal into a slot; committed to the VIQ. -/
def execKin (e : Bool) (vs1 : VReg5) (k : BitVec 8) (s : State) : Host.Outcome State Fault Refusal :=
  viqCommit (.kin e vs1 k) [] s

/-- KADD (R175): kadd adds one slot into another; committed to the VIQ. -/
def execKadd (j k : BitVec 8) (s : State) : Host.Outcome State Fault Refusal :=
  viqCommit (.kadd j k) [] s

/-- DOUT (R176): dout drains a slot into a vector register; committed to the VIQ. -/
def execDout (e : Bool) (vb vd : VReg5) (k : BitVec 8) (s : State) : Host.Outcome State Fault Refusal :=
  viqCommit (.dout e vb vd k) [] s

/-- DOUT_Q (R176): dout.q drains a slot with requantisation; committed to the VIQ. -/
def execDoutQ (e : Bool) (vb vd : VReg5) (k : BitVec 8) (s : State) : Host.Outcome State Fault Refusal :=
  viqCommit (.doutQ e vb vd k) [] s

/-- DOUT_A (R176): dout.a drains a slot through the activation table; committed to the VIQ. -/
def execDoutA (e : Bool) (vb vd : VReg5) (k : BitVec 8) (s : State) : Host.Outcome State Fault Refusal :=
  viqCommit (.doutA e vb vd k) [] s

/-- DOUT_AQ (R176): dout.aq drains a slot with activation and requantisation; committed to the VIQ. -/
def execDoutAq (e : Bool) (vb vd : VReg5) (k : BitVec 8) (s : State) : Host.Outcome State Fault Refusal :=
  viqCommit (.doutAq e vb vd k) [] s

/-- DOUT_B (R176): dout.b drains a slot with bias; committed to the VIQ. -/
def execDoutB (e : Bool) (vb vd : VReg5) (k : BitVec 8) (s : State) : Host.Outcome State Fault Refusal :=
  viqCommit (.doutB e vb vd k) [] s

/-- DOUT_BQ (R176): dout.bq drains a slot with bias and requantisation; committed to the VIQ. -/
def execDoutBq (e : Bool) (vb vd : VReg5) (k : BitVec 8) (s : State) : Host.Outcome State Fault Refusal :=
  viqCommit (.doutBq e vb vd k) [] s

/-- DOUT_BA (R176): dout.ba drains a slot with bias and activation; committed to the VIQ. -/
def execDoutBa (e : Bool) (vb vd : VReg5) (k : BitVec 8) (s : State) : Host.Outcome State Fault Refusal :=
  viqCommit (.doutBa e vb vd k) [] s

/-- DOUT_BAQ (R176): dout.baq drains a slot with bias, activation and requantisation; committed to the VIQ. -/
def execDoutBaq (e : Bool) (vb vd : VReg5) (k : BitVec 8) (s : State) : Host.Outcome State Fault Refusal :=
  viqCommit (.doutBaq e vb vd k) [] s

end Sys2Proof.Machine
end

