-- ==== Sys2Proof/Machine/MemSpace.lean ====
section
/-! DEFINITION. M-space instructions (spec/10, R251): each is committed to the VIQ and takes its effect there. -/

namespace Sys2Proof.Machine

/-- VLD_UNIT (R226): vld loads enabled elements at unit stride; committed to the VIQ. -/
def execVldUnit (e : Bool) (rs1 : XReg) (m : MReg3) (vd : VReg5) (s : State) : Host.Outcome State Fault Refusal :=
  viqCommit (.vldUnit e rs1 m vd) [] s

/-- VLD_STRIDED (R226): vld loads enabled elements at a byte stride; committed to the VIQ. -/
def execVldStrided (e : Bool) (rs2 rs1 : XReg) (m : MReg3) (vd : VReg5)
    (s : State) : Host.Outcome State Fault Refusal :=
  viqCommit (.vldStrided e rs2 rs1 m vd) [] s

/-- VLD_INDEXED (R226): vld loads enabled elements at indexed offsets; committed to the VIQ. -/
def execVldIndexed (e : Bool) (vs2 : VReg5) (rs1 : XReg) (m : MReg3) (vd : VReg5)
    (s : State) : Host.Outcome State Fault Refusal :=
  viqCommit (.vldIndexed e vs2 rs1 m vd) [] s

/-- VST_UNIT (R226): vst stores enabled elements at unit stride; committed to the VIQ. -/
def execVstUnit (e : Bool) (rs1 : XReg) (m : MReg3) (vs3 : VReg5) (s : State) : Host.Outcome State Fault Refusal :=
  viqCommit (.vstUnit e rs1 m vs3) [] s

/-- VST_STRIDED (R226): vst stores enabled elements at a byte stride; committed to the VIQ. -/
def execVstStrided (e : Bool) (rs2 rs1 : XReg) (m : MReg3) (vs3 : VReg5)
    (s : State) : Host.Outcome State Fault Refusal :=
  viqCommit (.vstStrided e rs2 rs1 m vs3) [] s

/-- VST_INDEXED (R226): vst stores enabled elements at indexed offsets; committed to the VIQ. -/
def execVstIndexed (e : Bool) (vs2 : VReg5) (rs1 : XReg) (m : MReg3) (vs3 : VReg5)
    (s : State) : Host.Outcome State Fault Refusal :=
  viqCommit (.vstIndexed e vs2 rs1 m vs3) [] s

/-- VLDFF_UNIT (R227): vldff loads at unit stride up to the first faulting element and trims VL; committed to the VIQ. -/
def execVldffUnit (e : Bool) (rs1 : XReg) (m : MReg3) (vd : VReg5) (s : State) : Host.Outcome State Fault Refusal :=
  viqCommit (.vldffUnit e rs1 m vd) [] s

/-- VLDFF_STRIDED (R227): vldff loads at a stride up to the first faulting element and trims VL; committed to the VIQ. -/
def execVldffStrided (e : Bool) (rs2 rs1 : XReg) (m : MReg3) (vd : VReg5)
    (s : State) : Host.Outcome State Fault Refusal :=
  viqCommit (.vldffStrided e rs2 rs1 m vd) [] s

/-- VLDFF_INDEXED (R227): vldff loads indexed elements up to the first faulting element and trims VL; committed to the VIQ. -/
def execVldffIndexed (e : Bool) (vs2 : VReg5) (rs1 : XReg) (m : MReg3) (vd : VReg5)
    (s : State) : Host.Outcome State Fault Refusal :=
  viqCommit (.vldffIndexed e vs2 rs1 m vd) [] s

/-- VLWIN (R229): vlwin gathers the elements whose offsets fall in the window and marks the rest outstanding; committed to the VIQ. -/
def execVlwin (e : Bool) (vs2 : VReg5) (rs1 : XReg) (m : MReg3) (vd : VReg5)
    (s : State) : Host.Outcome State Fault Refusal :=
  viqCommit (.vlwin e vs2 rs1 m vd) [] s

/-- VSTC (R230): vstc stores the selected elements densely; committed to the VIQ. -/
def execVstc (e : Bool) (rs1 : XReg) (m : MReg3) (vs3 : VReg5) (s : State) : Host.Outcome State Fault Refusal :=
  viqCommit (.vstc e rs1 m vs3) [] s

/-- VQLD_UNIT (R231): vqld loads scale-register entries at unit stride; committed to the VIQ. -/
def execVqldUnit (rs1 : XReg) (n : BitVec 2) (s : State) : Host.Outcome State Fault Refusal :=
  viqCommit (.vqldUnit rs1 n) [] s

/-- VQLD_STRIDED (R231): vqld loads scale-register entries at a stride; committed to the VIQ. -/
def execVqldStrided (rs2 rs1 : XReg) (n : BitVec 2) (s : State) : Host.Outcome State Fault Refusal :=
  viqCommit (.vqldStrided rs2 rs1 n) [] s

/-- VQST_UNIT (R231): vqst stores scale-register entries at unit stride; committed to the VIQ. -/
def execVqstUnit (rs1 : XReg) (n : BitVec 2) (s : State) : Host.Outcome State Fault Refusal :=
  viqCommit (.vqstUnit rs1 n) [] s

/-- VQST_STRIDED (R231): vqst stores scale-register entries at a stride; committed to the VIQ. -/
def execVqstStrided (rs2 rs1 : XReg) (n : BitVec 2) (s : State) : Host.Outcome State Fault Refusal :=
  viqCommit (.vqstStrided rs2 rs1 n) [] s

/-- VMLD (R232): vmld loads a mask from memory; committed to the VIQ. -/
def execVmld (rs1 : XReg) (k : MReg3) (s : State) : Host.Outcome State Fault Refusal :=
  viqCommit (.vmld rs1 k) [] s

/-- VMST (R232): vmst stores a mask to memory; committed to the VIQ. -/
def execVmst (e : Bool) (rs1 : XReg) (k : MReg3) (s : State) : Host.Outcome State Fault Refusal :=
  viqCommit (.vmst e rs1 k) [] s

/-- VLDR (R234): vldr restores a vector register with its tag, header and state; committed to the VIQ. -/
def execVldr (rs1 : XReg) (vd : VReg5) (s : State) : Host.Outcome State Fault Refusal :=
  viqCommit (.vldr rs1 vd) [] s

/-- VSTR (R234): vstr saves a vector register with its tag, header and state; committed to the VIQ. -/
def execVstr (e : Bool) (rs1 : XReg) (vs3 : VReg5) (s : State) : Host.Outcome State Fault Refusal :=
  viqCommit (.vstr e rs1 vs3) [] s

/-- VTADD (R251): vtadd applies one Teller add per enabled element at Commons offsets; committed to the VIQ. -/
def execVtadd (e : Bool) (vs2 : VReg5) (rs1 : XReg) (m : MReg3) (vs3 : VReg5)
    (s : State) : Host.Outcome State Fault Refusal :=
  viqCommit (.vtadd e vs2 rs1 m vs3) [] s

/-- VTMIN (R251): vtmin applies one Teller min per enabled element; committed to the VIQ. -/
def execVtmin (e : Bool) (vs2 : VReg5) (rs1 : XReg) (m : MReg3) (vs3 : VReg5)
    (s : State) : Host.Outcome State Fault Refusal :=
  viqCommit (.vtmin e vs2 rs1 m vs3) [] s

/-- VTMAX (R251): vtmax applies one Teller max per enabled element; committed to the VIQ. -/
def execVtmax (e : Bool) (vs2 : VReg5) (rs1 : XReg) (m : MReg3) (vs3 : VReg5)
    (s : State) : Host.Outcome State Fault Refusal :=
  viqCommit (.vtmax e vs2 rs1 m vs3) [] s

/-- VKLD (R236): vkld restores a range of slots and their pool words; committed to the VIQ. -/
def execVkld (rs2 rs1 : XReg) (s : State) : Host.Outcome State Fault Refusal :=
  viqCommit (.vkld rs2 rs1) [] s

/-- VKST (R236): vkst saves a range of slots and their pool words; committed to the VIQ. -/
def execVkst (rs2 rs1 : XReg) (s : State) : Host.Outcome State Fault Refusal :=
  viqCommit (.vkst rs2 rs1) [] s

end Sys2Proof.Machine
end

