-- ==== Sys2Proof/Machine/Cfg.lean ====
section
/-! DEFINITION. The configuration group, the SYNC group, the device fences, and the VIQ-routed copies (R104, R121 to R124,
R136 to R139, R161, R163, R164, R178, R179, R261, R262, R284, R285). -/

namespace Sys2Proof.Machine

/-- VTAG (R123): vtag writes a tag byte into one or more vector registers; committed to the VIQ. -/
def execVtag (rs1 : XReg) (vd : VReg5) (s : State) : Host.Outcome State Fault Refusal :=
  viqCommit (.vtag rs1 vd) [] s

/-- DSET (R161): dset writes the offset, anchor and length of a diagonal header; committed to the VIQ. -/
def execDset (rs2 rs1 : XReg) (vd : VReg5) (s : State) : Host.Outcome State Fault Refusal :=
  viqCommit (.dset rs2 rs1 vd) [] s

/-- DFLIP (R161): dflip rewrites a header as the transposed view and exchanges the plane bindings; committed to the VIQ. -/
def execDflip (vd : VReg5) (s : State) : Host.Outcome State Fault Refusal :=
  viqCommit (.dflip vd) [] s

/-- DSCALE (R161): dscale writes the tile scale, plane registers and scaled flag of a header; committed to the VIQ. -/
def execDscale (rs2 rs1 : XReg) (vd : VReg5) (s : State) : Host.Outcome State Fault Refusal :=
  viqCommit (.dscale rs2 rs1 vd) [] s

/-- KALLOC (R163): kalloc allocates a run of slots for consecutive offsets and zeroes their pool words; committed to the VIQ. -/
def execKalloc (rs2 rs1 : XReg) (s : State) : Host.Outcome State Fault Refusal :=
  viqCommit (.kalloc rs2 rs1) [] s

/-- KFREE (R164): kfree clears A in a run of slots; committed to the VIQ. -/
def execKfree (rs1 : XReg) (s : State) : Host.Outcome State Fault Refusal :=
  viqCommit (.kfree rs1) [] s

/-- KZERO (R164): kzero zeroes the words and clears the binding of a run of allocated slots; committed to the VIQ. -/
def execKzero (rs1 : XReg) (s : State) : Host.Outcome State Fault Refusal :=
  viqCommit (.kzero rs1) [] s

/-- VSRSEED (R75): vsrseed seeds every VP's stochastic-rounding generator; committed to the VIQ. -/
def execVsrseed (rs1 : XReg) (s : State) : Host.Outcome State Fault Refusal :=
  viqCommit (.vsrseed rs1) [] s

/-- ATABLD (R178): atabld loads an activation table from 2,048 bytes of GLOBAL memory; committed to the VIQ. -/
def execAtabld (rs2 rs1 : XReg) (s : State) : Host.Outcome State Fault Refusal :=
  viqCommit (.atabld rs2 rs1) [] s

/-- CPYV (R280): cpyv loads VL elements into a vector register with a landed prefix; committed to the VIQ. -/
def execCpyv (w : BitVec 2) (rs2 rs1 : XReg) (vd : VReg5) (s : State) : Host.Outcome State Fault Refusal :=
  viqCommit (.cpyv w rs2 rs1 vd) [] s

/-- CPYVS (R281): cpyvs reads a vector register into the engine and stores it to memory, with a purse; committed to the VIQ. -/
def execCpyvs (w : BitVec 2) (rs2 rs1 : XReg) (vs : VReg5) (s : State) : Host.Outcome State Fault Refusal :=
  viqCommit (.cpyvs w rs2 rs1 vs) [] s

/-- VXPUT (R137): vxput writes one vector element from a scalar register; committed to the VIQ. -/
def execVxput (rs2 rs1 : XReg) (vd : VReg5) (s : State) : Host.Outcome State Fault Refusal :=
  viqCommit (.vxput rs2 rs1 vd) [] s

/-- KFENCE (R179): kfence completes when every older Cable entry has completed and merged its flags; committed to the VIQ. -/
def execKfence (s : State) : Host.Outcome State Fault Refusal :=
  viqCommit .kfence [] s

/-! ## Scalar-thread forms of the configuration group -/

/-- The shape `vdecl` applies (R104). -/
def redeclare (code : Word) (c : Ctx) : Ctx :=
  { c with
    nc := code.extractLsb' 0 2
    gc := code.extractLsb' 2 2
    v := Vector.replicate 32 VReg.vacant
    m := Vector.replicate 8 MReg.clear
    u := { c.u with vl := 0, ves := 0 }
    vlProv := none
    sr := ⟨0, []⟩ }

/-- A copy of the strand that writes a register or a mask is outstanding (R104). -/
def regCopyOut (s : State) : Bool :=
  s.core.copies.any fun o => decide (o.owner = s.core.strand) && match o.form with
    | .toReg _ _ => true
    | .tile v m _ _ => v.isSome || decide (m ≠ 0)
    | .plain | .ring _ _ => false

/-- VDECL (R104, R121): replaces the strand's declared register shape. -/
def execVdecl (rs1 : XReg) (s : State) : Host.Outcome State Fault Refusal :=
  guarded (.vdecl rs1) s fun s =>
    let x := s.x rs1
    if !s.ctx.viq.isEmpty || !s.ctx.cable.isEmpty || !s.ctx.srq.isEmpty then .next s
    else if x.extractLsb' 0 2 = 3 ∨ s.ctx.slots.toList.any (fun k => k.alloc) ∨ regCopyOut s = true then
      .next (raiseTrap s cVlover (instrWord (.vdecl rs1)))
    else .next (retire (s.mapCtx (redeclare x)))

/-- VSETL (R122): grants VL as the minimum of the request and the capacity at width class w. -/
def execVsetl (w : BitVec 5) (rs1 rd : XReg) (s : State) : Host.Outcome State Fault Refusal :=
  guarded (.vsetl w rs1 rd) s fun s =>
    if 4 < w then illegal (.vsetl w rs1 rd) s
    else
      let vl : Word := BitVec.ofNat 64 (min (s.x rs1).toNat (capBits s.ctx (4 * 2 ^ w.toNat)))
      .next (retire ((writeVl s vl).setX rd vl))

/-- VTAGRD (R124): reads a register's tag once no older `vtag` or `vldr` is in the VIQ. -/
def execVtagrd (vs : VReg5) (rd : XReg) (s : State) : Host.Outcome State Fault Refusal :=
  guarded (.vtagrd vs rd) s fun s =>
    if !s.ctx.vrOk vs then .next (raiseTrap s cVlover (instrWord (.vtagrd vs rd)))
    else if s.ctx.viq.any fun e => match e.instr with
      | .vtag .. | .vldr .. => true
      | _ => false
    then .next s
    else .next (retire (s.setX rd ((s.ctx.vr vs).tag.setWidth 64)))

/-- DSHAPE (R161): a CSR write in the scalar thread. -/
def execDshape (rs2 rs1 : XReg) (s : State) : Host.Outcome State Fault Refusal :=
  guarded (.dshape rs2 rs1) s fun s =>
    .next (retire (s.mapU fun u => { u with cshapemk := s.x rs1, cshapen := (lo32 (s.x rs2)).setWidth 64 }))

/-! ## The SYNC group's direct reads (R138) -/

/-- A mask is pending for a direct read: its own state, or an entry in the VIQ that writes it (R108). -/
def maskBusy (c : Ctx) (k : MReg3) : Bool :=
  c.maskPends k || (decide (k ≠ 0) && c.viq.any fun e => !e.frozen && decide (k ∈ e.masks))

/-- A direct read of a mask: waits while it is pending, or traps EMPTY under E = 1. -/
def maskRead (i : Instr) (e : Bool) (k : MReg3) (needVl : Bool) (rd : XReg) (f : Ctx → Word) (s : State) :
    Host.Outcome State Fault Refusal :=
  if maskBusy s.ctx k then if e then .next (raiseTrap s cEmpty (instrWord i)) else .next s
  else if needVl && s.ctx.vlProv.isSome then .next s
  else .next (retire (s.setX rd (f s.ctx)))

/-- VMPOP (R138): counts the set bits of a mask below VL. -/
def execVmpop (e : Bool) (k : MReg3) (rd : XReg) (s : State) : Host.Outcome State Fault Refusal :=
  guarded (.vmpop e k rd) s fun s =>
    maskRead (.vmpop e k rd) e k true rd (fun c => BitVec.ofNat 64 (c.enabled k 0 c.u.vl.toNat).length) s

/-- VMFIRST (R138): the lowest set index below VL, or −1. -/
def execVmfirst (e : Bool) (k : MReg3) (rd : XReg) (s : State) : Host.Outcome State Fault Refusal :=
  guarded (.vmfirst e k rd) s fun s =>
    maskRead (.vmfirst e k rd) e k true rd (fun c => match (c.enabled k 0 c.u.vl.toNat).head? with
      | some i => BitVec.ofNat 64 i
      | none => -1) s

/-- VMRD (R138): 64 bits of a mask, whatever VL is. -/
def execVmrd (e : Bool) (rs2 : XReg) (k : MReg3) (rd : XReg) (s : State) : Host.Outcome State Fault Refusal :=
  guarded (.vmrd e rs2 k rd) s fun s =>
    let j := (s.x rs2).toNat
    if 1024 ≤ j then .next (raiseTrap s cVlover (instrWord (.vmrd e rs2 k rd)))
    else maskRead (.vmrd e rs2 k rd) e k false rd (fun c => BitVec.ofNat 64 (maskWord c k j)) s

/-- VXGET (R136): committed to the VIQ with an SRQ entry for xd; a ninth outstanding one stalls. -/
def execVxget (e : Bool) (rs2 : XReg) (vs : VReg5) (rd : XReg) (s : State) : Host.Outcome State Fault Refusal :=
  guarded (.vxget e rs2 vs rd) s fun s =>
    if viqFull s.ctx || decide (8 ≤ s.ctx.srq.length) then .next s
    else
      let id := s.ctx.viqNext
      viqRetire ((viqPush (.vxget e rs2 vs rd) [] s).mapCtx fun c => { c with srq := c.srq ++ [⟨rd, id, none⟩] })

/-! ## Tiles at commit (R284, R285) -/

/-- Write the trim of a `ctile` to `vl` and `vffs`. -/
def tileTrim (n0 : Nat) (trim : Bool) (u : UCsr) : UCsr :=
  if trim then { u with vl := BitVec.ofNat 64 n0, vffs := BitVec.ofNat 64 (2 * n0 + 1) } else { u with vffs := 0 }

/-- A direct `ctile`: step 1, room and its mask's state, then the issue. A pending mask or a full queue holds the
scalar thread. DESIGN CHOICE (log 106): older VIQ entries that name its mask are not waited for, and the mask is pending
at once. -/
def tileDirect (word : Word) (x : Tile) (b p n0 : Nat) (trim : Bool) : M Unit := do
  let s ← get
  match tileRegBad s.ctx b (n0 * x.e1 * x.e2) x with
  | some cause => trapM cause word
  | none =>
    if copyFull s || tileWaits s.ctx x || barred s then throw .stall
    else
      tileIssue (dataPriv s) word id (tileTrim n0 trim s.ctx.u) p b n0 x
      modify fun t => retire (t.mapU (tileTrim n0 trim))

/-- Route a checked tile to the VIQ (R271): its entry keeps the records the scalar thread has read. -/
def tileToViq (i : Instr) (bs : List Byte) (n0 : Nat) (trim : Bool) (s : State) : Host.Outcome State Fault Refusal :=
  if s.ctx.viq.any fun e => e.frozen then illegal i s
  else if viqFull s.ctx then .next s
  else viqRetire (viqPush i bs (s.mapU (tileTrim n0 trim)))

/-- CTILE (R285): copies a tile of a tensor to a register or the pocket, with an optional mask. -/
def execCtile (w : BitVec 2) (rs2 rs1 : XReg) (p : BitVec 5) (s : State) : Host.Outcome State Fault Refusal :=
  guarded (.ctile w rs2 rs1 p) s fun s =>
    let i := Instr.ctile w rs2 rs1 p
    let word := instrWord i
    let b := copyBytes w
    let desc := s.x rs1
    let req := s.x rs2
    let m : M (List Byte × Nat × Bool) := do
      let q ← readReq req
      if recField (leNat q) 255 1 = 1 ∧ (s.ctx.viq.any fun e => e.frozen) = true then trapM cIllegal word
      if s.ctx.vlProv.isSome then throw .stall
      if recField (leNat q) 255 1 = 0 ∧ s.fenced 25 = true then trapM cFenced word
      let d ← readDesc desc
      let r ← tileCommit (tileOfRec (d ++ q)) (d ++ q) word desc req b s.ctx.u.vl.toNat
      return (d ++ q, r.1, r.2)
    match m.run s with
    | (.ok (bs, n0, trim), t) =>
      let x := tileOfRec bs
      if x.dk then tileToViq i bs n0 trim t else runM (tileDirect word x b p.toNat n0 trim) t
    | (.error e, t) => runM (throw e) t

/-! ## The device fences (R261, R262) -/

/-- A fence's scope field (R261): 4 and above is ILLEGAL. -/
def scopeBad (scope : BitVec 5) : Bool := decide (4 ≤ scope.toNat)

/-- A PEER store of the strand has not landed (R261, R262: scope 3). -/
def inFlight (s : State) : Bool := s.flights.any fun f => decide (f.by_.part = s.pidx) && decide (f.by_.owner = s.core.strand)

/-- The sent store at the VIQ's head, when it is all that the strand's VIQ has left to access memory (R261). -/
def sentHead (s : State) : Option Nat :=
  match s.ctx.viq with
  | e :: t => if e.sent && !e.frozen && !t.any memEntry then some e.id else none
  | [] => none

/-- The accesses that the store at the VIQ's head still has outstanding are all to UN pages (R257). -/
def sentUn (s : State) : Bool :=
  match s.ctx.viq with
  | e :: _ => (accessOf e.instr).any fun x => (accessLocs s e x e.csr.vl.toNat).all fun l => decide (l.kind = kindUN)
  | [] => false

/-- A `qfence` of a scope retires behind a store of the VIQ that is not acknowledged: what it orders after that store (R261). -/
def addBarrier (scope : Nat) (s : State) : State :=
  match sentHead s with
  | none => s
  | some n =>
    if scope < 2 ∧ sentUn s = true then s
    else
      let f : FenceMark := ⟨s.draws + 1, if 2 ≤ scope then 3 else scope + 1⟩
      { s with draws := s.draws + 1 }.mapCtx fun c =>
        { c with barrier := some ⟨n, f :: (c.barrier.map Barrier.marks).getD []⟩ }

/-- What follows a `qfence` once every access before it has been sent: the accesses are performed at its scope or carry its mark,
younger ones are held behind a store that is not acknowledged, and the descriptor cache is dropped (R261, R284). -/
def qfenceDone (scope : Nat) (s : State) : State :=
  retire ((addBarrier scope (qfenceMarks scope s)).mapCtx fun c => { c with dcache := [] })

/-- QFENCE (R261): older scalar accesses and VIQ memory accesses come before every younger access. -/
def execQfence (scope : BitVec 5) (s : State) : Host.Outcome State Fault Refusal :=
  guarded (.qfence scope) s fun s =>
    if scopeBad scope then illegal (.qfence scope) s
    else if (s.ctx.viq.any memEntry && (sentHead s).isNone) || (decide (scope = 3) && inFlight s) then .next s
    else .next (qfenceDone scope.toNat s)

/-- A copy that its VIQ entry has not handed to the copy queue yet (R271). -/
def copyQueued (e : VEntry) : Bool :=
  !e.frozen && match e.instr with
  | .cpyv .. | .cpyvs .. | .ctile .. => true
  | _ => false

/-- The strand, or the core without one, has a copy, a command or a collective outstanding, on whatever core, or a copy still in
its VIQ (R262, R278). Entries frozen under a handler wait for its return. -/
def engineBusy (s : State) : Bool :=
  let mine (n : Nat) (o : CopyOp) : Bool :=
    decide (o.part = s.pidx) && decide (o.owner = s.core.strand) && (s.core.strand.isSome || decide (n = s.core.id))
  s.liveCores.any (fun n => (s.coreAt n).copies.any (mine n))
    || s.ctx.viq.any copyQueued
    || decide (tcmdHeld s ≠ 0)
    || s.colls.any fun c => decide (c.part = s.pidx) && decide (c.owner = s.core.strand)

/-- EFENCE (R262): waits until older engine operations are complete and the older scalar stores are performed at its scope. -/
def execEfence (scope : BitVec 5) (s : State) : Host.Outcome State Fault Refusal :=
  guarded (.efence scope) s fun s =>
    if scopeBad scope then illegal (.efence scope) s
    else
      let t := levelHook s (efenceStores scope.toNat s)
      if engineBusy t || efenceLeft scope.toNat t || (decide (scope = 3) && inFlight t) then .next t
      else .next (retire (t.mapCtx fun c => { c with dcache := [] }))

end Sys2Proof.Machine
end

