-- ==== Sys2Proof/Machine/Sm3.lean ====
section
/-! DEFINITION. The digest functions the spec names: SM3 (R312, R382, R389 to R391; the standard's definition, log 15)
and the CRC-64 of zero-elision chunks (R349). -/

namespace Sys2Proof.Machine

/-! ## SM3 -/

/-- The eight chaining words. -/
structure Sm3St where
  a : BitVec 32
  b : BitVec 32
  c : BitVec 32
  d : BitVec 32
  e : BitVec 32
  f : BitVec 32
  g : BitVec 32
  h : BitVec 32
  deriving DecidableEq, Repr

def sm3Init : Sm3St where
  a := 0x7380166F
  b := 0x4914B2B9
  c := 0x172442D7
  d := 0xDA8A0600
  e := 0xA96F30BC
  f := 0x163138AA
  g := 0xE38DEE4D
  h := 0xB0FB0E4E

def sm3P0 (x : BitVec 32) : BitVec 32 := x ^^^ x.rotateLeft 9 ^^^ x.rotateLeft 17
def sm3P1 (x : BitVec 32) : BitVec 32 := x ^^^ x.rotateLeft 15 ^^^ x.rotateLeft 23

/-- Extend the message words of one block, newest first, to n more words. -/
def sm3Extend : Nat → List (BitVec 32) → List (BitVec 32)
  | 0, ws => ws
  | n + 1, ws =>
    let w (k : Nat) := ws.getD (k - 1) 0
    sm3Extend n ((sm3P1 (w 16 ^^^ w 9 ^^^ (w 3).rotateLeft 15) ^^^ (w 13).rotateLeft 7 ^^^ w 6) :: ws)

/-- Round j with message words w and w'. -/
def sm3Round (s : Sm3St) (j : Nat) (w w' : BitVec 32) : Sm3St :=
  let t : BitVec 32 := if j < 16 then 0x79CC4519 else 0x7A879D8A
  let ss1 := (s.a.rotateLeft 12 + s.e + t.rotateLeft (j % 32)).rotateLeft 7
  let ss2 := ss1 ^^^ s.a.rotateLeft 12
  let ff := if j < 16 then s.a ^^^ s.b ^^^ s.c else (s.a &&& s.b) ||| (s.a &&& s.c) ||| (s.b &&& s.c)
  let gg := if j < 16 then s.e ^^^ s.f ^^^ s.g else (s.e &&& s.f) ||| (~~~s.e &&& s.g)
  { a := ff + s.d + ss2 + w'
    b := s.a
    c := s.b.rotateLeft 9
    d := s.c
    e := sm3P0 (gg + s.h + ss1 + w)
    f := s.e
    g := s.f.rotateLeft 19
    h := s.g }

/-- The rounds from j on over the message words, oldest first. -/
def sm3Rounds : Nat → Nat → List (BitVec 32) → Sm3St → Sm3St
  | 0, _, _, s => s
  | n + 1, j, ws, s => sm3Rounds n (j + 1) (ws.drop 1) (sm3Round s j (ws.getD 0 0) (ws.getD 0 0 ^^^ ws.getD 4 0))

/-- Big-endian words of a run of bytes. -/
def sm3Words : Nat → List Byte → List (BitVec 32)
  | 0, _ => []
  | n + 1, bs => (bs.getD 0 0 ++ bs.getD 1 0 ++ bs.getD 2 0 ++ bs.getD 3 0) :: sm3Words n (bs.drop 4)

/-- Compress one 64-byte block. -/
def sm3Block (s : Sm3St) (bs : List Byte) : Sm3St :=
  let ws := (sm3Extend 52 (sm3Words 16 bs).reverse).reverse
  let r := sm3Rounds 64 0 ws s
  { a := r.a ^^^ s.a
    b := r.b ^^^ s.b
    c := r.c ^^^ s.c
    d := r.d ^^^ s.d
    e := r.e ^^^ s.e
    f := r.f ^^^ s.f
    g := r.g ^^^ s.g
    h := r.h ^^^ s.h }

/-- Compress n blocks. -/
def sm3Blocks : Nat → List Byte → Sm3St → Sm3St
  | 0, _, s => s
  | n + 1, bs, s => sm3Blocks n (bs.drop 64) (sm3Block s (bs.take 64))

/-- The four bytes of a word, highest first. -/
def beBytes (x : BitVec 32) : List Byte := (natBytes 4 x.toNat).reverse

/-- The message with its padding: a 1 bit, zeros, and the bit length as 8 bytes, highest first. -/
def sm3Pad (bs : List Byte) : List Byte :=
  let n := bs.length
  bs ++ 0x80 :: List.replicate ((119 - n % 64) % 64) 0 ++ (natBytes 8 (8 * n)).reverse

/-- SM3 of a byte string: 32 bytes. -/
def sm3 (bs : List Byte) : List Byte :=
  let m := sm3Pad bs
  let r := sm3Blocks (m.length / 64) m sm3Init
  beBytes r.a ++ beBytes r.b ++ beBytes r.c ++ beBytes r.d ++ beBytes r.e ++ beBytes r.f ++ beBytes r.g ++ beBytes r.h

/-! ## CRC-64 (R349) -/

def crcPoly : BitVec 64 := 0x42F0E1EBA9EA3693

/-- Shift out n bits, highest first. -/
def crcBits : Nat → BitVec 64 → BitVec 64
  | 0, c => c
  | n + 1, c => crcBits n (if c.getLsbD 63 then (c <<< 1) ^^^ crcPoly else c <<< 1)

/-- The CRC of a byte string, no reflection, no final XOR. -/
def crc64 (bs : List Byte) : BitVec 64 :=
  bs.foldl (fun (c : BitVec 64) (b : Byte) => crcBits 8 (c ^^^ (b.setWidth 64 <<< 56))) 0

end Sys2Proof.Machine
end

