-- ==== Sys2Proof/Machine/Tables.lean ====
section
/-! DEFINITION. The capability list (R319 to R321) with the tables it names (R312, R314), and invalidating translations
(R310, R311). -/

namespace Sys2Proof.Machine

/-! ## The capability list -/

/-- The EN bits of the four profile entries follow PROF (R319, R321): IDs 1 to 4 are HV, HM, HQ, HG. -/
def showProfiles (s : State) (k : Nat) : State :=
  (upFrom 0 4).foldl (fun (t : State) i =>
    match capBody t k (i + 1) with
    | none => t
    | some b =>
      let w := sysLe t k b 1
      let v := w / 2 * 2 + (if (t.part k).prof.getLsbD i then 1 else 0)
      sysStore t k true b (natBytes 1 v)) s

/-! ## Invalidating translations (R311) -/

/-- Fields of a `tlbinv` command word. -/
def invMt (c : Word) : Bool := c.getLsbD 4
def invUt (c : Word) : Bool := c.getLsbD 3
def invTier (c : Word) : Bool := c.getLsbD 2
def invScope (c : Word) : Nat := (c.extractLsb' 0 2).toNat

/-- A command word that `tlbinv` refuses. -/
def invBad (c : Word) : Bool :=
  c.extractLsb' 5 59 != 0 || (invTier c && !invMt c) || decide (invScope c = 3) || (invMt c && invUt c)
    || ((invMt c || invUt c) && decide (invScope c ≠ 0))

/-- The filter entry that MT makes of a page, none where the walk faults or the leaf has no LOC = 10. -/
def transitOf (s : State) (k va : Nat) (tier : Bool) : Option TransitEntry :=
  if Config.windowBase ≤ va then none
  else match walk s k va with
    | .leaf _ w base size =>
      if leafLoc w = 2 ∧ !leafBad (w &&& ~~~(3#64 <<< 10)) then
        some ⟨base, (if tier then Config.tier2Base else 0) + leafFrame w * 65536, size⟩
      else none
    | .fault | .access | .poison _ => none

/-- Entries of the transit filter (R311). -/
def transitMax : Nat := 64

/-- A cached translation that an invalidation keeps. -/
def tlbKeeps (va scope : Nat) (e : TlbEntry) : Bool :=
  match scope with
  | 0 => !(decide (e.va ≤ va) && decide (va < e.va + e.size))
  | 1 => e.leaf.getLsbD 5
  | _ => false

/-- Drop translations from every TLB of a partition. -/
def tlbDrop (s : State) (k va scope : Nat) : State := s.mapPart k fun p => { p with tlb := p.tlb.filter (tlbKeeps va scope) }

/-- The partition's transit filter and TLBs after a command; none where MT fails. -/
def invalidate (s : State) (k : Nat) (va c : Word) : Option State :=
  let p := s.part k
  if invMt c then
    match transitOf s k va.toNat (invTier c) with
    | none => none
    | some t =>
      if transitMax ≤ p.transit.length then none
      else some (tlbDrop (s.mapPart k fun p => { p with transit := p.transit ++ [t] }) k va.toNat 0)
  else
    let s := if invUt c then s.mapPart k fun p => { p with
      transit := p.transit.filter fun t => !(decide (t.va ≤ va.toNat) && decide (va.toNat < t.va + t.size)) } else s
    some (tlbDrop s k va.toNat (invScope c))

/-- A translation that an invalidation drops was used to reach a location: its page is one of those dropped, or is not known
any more. -/
def dropped (va scope : Nat) (l : Loc) : Bool :=
  match l with
  | .phys _ _ (some p) => decide (scope ≠ 0) || (decide (p.va ≤ va) && decide (va < p.va + p.size))
  | .phys _ _ none => true
  | .pocket _ | .peer _ _ => false

/-- Run a step of the engine of another core. -/
def onCore (n : Nat) (f : State → State) (s : State) : State := (f (s.switchCore n)).switchCore s.core.id

/-- The accesses of a copy through dropped translations are performed: sources are read, and elements are written where the
transit filter does not hold them. -/
def copyDrops (va scope pos : Nat) (s : State) : State :=
  match s.core.copies[pos]? with
  | none => s
  | some o => o.left.foldl (fun (t : State) i =>
      match o.elems[i]? with
      | none => t
      | some e =>
        let t := match e.src with
          | .mem l => if dropped va scope l then copyReadOne t pos i else t
          | .val _ _ | .zero => t
        if (o.place e).any (dropped va scope) then copyOne t pos i else t) s

/-- Held stores that came through dropped translations are performed, where they can be. -/
def flushDropped (k va scope : Nat) (s : State) : State :=
  flushWhere (fun h => decide (h.part = k) && dropped va scope h.loc) s

/-- The accesses of the partition's copies that came through dropped translations are performed, but what the transit filter
holds at the memory side (R311). -/
def copiesDropped (k va scope : Nat) (s : State) : State :=
  (s.liveCores.filter fun n => !(s.coreAt n).copies.isEmpty && decide (s.partOfCore n = k)).foldl (fun (t : State) n =>
    onCore n (fun u => (upFrom 0 u.core.copies.length).foldl (fun v pos => copyDrops va scope pos v) u) t) s

/-- A speculative iteration holds an escrowed store that came through a dropped translation. -/
def escrowDropped (va scope : Nat) (p : EscPart) : Bool :=
  p.writes.any fun w => dropped va scope (.phys w.1 kindRC ((p.pages.find? fun q => decide (q.1 = w.1 / 128)).map Prod.snd))

/-- Such iterations of a partition, and those whose escrowed stores would reach a filtered frame (R309), restart and translate
again (DESIGN CHOICE, log 123). -/
def squashDropped (k va scope : Nat) (s : State) : State :=
  let bad (p : EscPart) : Bool := escrowDropped va scope p || p.writes.any fun w => transitHit s k (.phys w.1 kindRC none)
  let f (c : Core) : Core :=
    if s.partOfCore c.id = k ∧ c.ctx.escActive.isSome = true then { c with ctx := squashWhere bad false c.ctx } else c
  { s with core := f s.core, cores := s.cores.map fun p => (p.1, f p.2) }

/-- A place by the page table as it stands now, where its page is mapped on this chip. -/
def rewalk (s : State) (k : Nat) (l : Loc) : Loc :=
  match l with
  | .phys a kind (some p) =>
    match walk s k (p.va + a % p.size) with
    | .leaf pte w base size =>
      match leafBase w with
      | some b => if leafBad w then l else .phys (b + (p.va + a % p.size - base)) (leafKind w) (some ⟨pte, base, size⟩)
      | none => .phys a kind (some p)
    | .fault | .access | .poison _ => l
  | .phys _ _ none | .pocket _ | .peer _ _ => l

/-- A store that a `qfence` still holds back at the rib ordering point is translated again (DESIGN CHOICE, log 123). -/
def rewalkHeld (k va scope : Nat) (s : State) : State :=
  { s with heldStores := s.heldStores.map fun h =>
      if h.part = k ∧ h.behind.isSome = true ∧ dropped va scope h.loc = true then { h with loc := rewalk s k h.loc } else h }

/-- What an invalidation waits for once the entries are dropped (R311). -/
def performDropped (k va scope : Nat) (s : State) : State :=
  rewalkHeld k va scope (squashDropped k va scope (copiesDropped k va scope s))

/-- A place in a frame range that has moved. -/
def moveLoc (old size new : Nat) (kind : BitVec 2) (l : Loc) : Loc :=
  match l with
  | .phys a k p => if old ≤ a ∧ a < old + size then .phys (new + (a - old)) kind p else .phys a k p
  | .pocket _ | .peer _ _ => l

/-- A copy's places in a frame range that has moved. -/
def CopyOp.moved (f : Loc → Loc) (o : CopyOp) : CopyOp :=
  { o with elems := o.elems.map fun e => { e with
      src := match e.src with
        | .mem l => .mem (f l)
        | .val bs bad => .val bs bad
        | .zero => .zero
      dst := match e.dst with
        | .mem l => .mem (f l)
        | .reg v i => .reg v i
        | .slot off => .slot off } }

/-- A page leaves the transit filter: what waits for it, a collective's results, and what is held behind a `qfence`, go to the frame where the page lies
now (R311). -/
def retranslate (k : Nat) (t : TransitEntry) (s : State) : State :=
  match walk s k t.va with
  | .leaf _ w _ size =>
    match leafBase w with
    | some new =>
      if size = t.size ∧ leafBad w = false then
        let f := moveLoc t.base t.size new (leafKind w)
        let c (d : Core) : Core := { d with copies := d.copies.map fun o => if o.part = k then o.moved f else o }
        { s with
          core := c s.core
          cores := s.cores.map fun p => (p.1, c p.2)
          colls := s.colls.map fun o => if o.part = k then { o with recv := o.recv.map f } else o
          heldStores := s.heldStores.map fun h => if h.part = k then { h with loc := f h.loc } else h }
      else s
    | none => s
  | .fault | .access | .poison _ => s

/-- The whole operation of an invalidation (R311), none where MT fails: the older scalar stores of the core and the held stores
through the entries to be dropped first, then the filter and the TLBs, then the wait. -/
def invalidateAll (s : State) (va c : Word) : Option State :=
  let u := flushWhere (fun h => decide (h.core = s.core.id) && h.scalar) s
  let u := flushDropped u.pidx va.toNat (invScope c) u
  (invalidate u u.pidx va c).map fun t =>
    let gone := if invUt c then (u.part u.pidx).transit.filter fun e => !(t.part t.pidx).transit.contains e else []
    levelHook s (performDropped t.pidx va.toNat (invScope c) (gone.foldl (fun v e => retranslate u.pidx e v) t))

/-- TLBINV (R311). -/
def execTlbinv (rs2 rs1 : XReg) (s : State) : Host.Outcome State Fault Refusal :=
  guarded (.tlbinv rs2 rs1) s fun s =>
    if invBad (s.x rs2) then illegal (.tlbinv rs2 rs1) s
    else
      match invalidateAll s (s.x rs1) (s.x rs2) with
      | none => .next (raiseTrap s cStoreAccess (s.x rs1))
      | some t => .next (retire t)

/-- INVALIDATION_PORT (R311): the operation of `tlbinv` through the rib's port. The port has no trap to take: a command it
cannot carry out changes nothing (log 16). -/
def execInvalidationPort (va cmd : Word) (s : State) : Host.Outcome State Fault Refusal :=
  if invBad cmd then .next s
  else match invalidateAll s va cmd with
    | none => .next s
    | some t => .next t

end Sys2Proof.Machine
end

