-- ==== Sys2Proof/Machine/Context.lean ====
section
/-! DEFINITION. A strand's entry state (R27, R36), its context block (R371 to R374), and what a stop of a strand does:
pre-emption, parking, cancellation, a snapshot cut and a vault-swap stop (R38 to R40, R51, R181, R190, R203). -/

namespace Sys2Proof.Machine

/-! ## Entry state -/

/-- The context a strand begins with (Table 2.1, R27). -/
def entryCtx (s : State) (k : Nat) (l : Launch) (d : StageDecl) (stage idx : Nat) : Ctx :=
  { Ctx.reset with
    x := (Ctx.reset.x.set 10 l.arg).set 11 (BitVec.ofNat 64 idx)
    pc := d.entry
    nc := d.nc
    gc := d.gc
    accw := d.acc
    pocb := d.pocket
    snapGen := (s.part k).gen.setWidth 31
    snapCol := (s.part k).gen.getLsbD 0
    strandid := BitVec.ofNat 64 (l.serial * 2 ^ 32 + stage * 2 ^ 16 + idx)
    usemask := l.uuse }

/-! ## The context block (R372, R373) -/

/-- Bytes padded with zeros to a length. -/
def padTo (n : Nat) (bs : List Byte) : List Byte := bs ++ List.replicate (n - bs.length) 0

/-- Generators a strand holds (R72). -/
def genCount (c : Ctx) : Nat := min 65536 (2 * mvlOf c)

/-- Bytes of the stash image (R373). -/
def stashImage (c : Ctx) : Nat := if c.cableSusp then min stashBytes (stashUsed c) else 0

/-- SIZE of a context's block (R373). -/
def blockSize (c : Ctx) : Nat :=
  let r := nregOf c / groupOf c
  112640 + r * (64 + mvlOf c) + 8 * genCount c + 4 * c.accw + c.pocb + stashImage c

/-- The flag word at +0x18. -/
def blockFlags (c : Ctx) : Nat :=
  let b (p : Bool) (n : Nat) : Nat := if p then 2 ^ n else 0
  let mst := (upFrom 1 7).foldl (fun a i => a + b ((c.m.toList.getD i MReg.clear).st = .full) (15 + i)) 0
  c.viq.length * 2 ^ 40 + c.cable.length * 2 ^ 32 + (c.srq.filter fun e => e.val.isSome).length * 2 ^ 24 + mst
    + b c.rbEntry.isSome 10 + b c.esc.isSome 9 + b c.cableSusp 8 + b (c.viq.any fun e => e.frozen) 7
    + c.gc.toNat * 4 + c.nc.toNat

/-- A `vl` as the block holds it: a reference to a `vldff` by its place in the VIQ section (R228). -/
def blockVl (c : Ctx) (ref : Option Nat) (v : Word) : Word :=
  match ref.bind fun id => c.viq.findIdx? fun e => decide (e.id = id) with
  | some p => BitVec.ofNat 64 (2 ^ 63 + p)
  | none => v

/-- The 24 words of the CSR section. -/
def blockCsrs (c : Ctx) : List Word :=
  let u := c.u
  [blockVl c c.vlProv u.vl, u.ves, u.mtyp, u.vffs, u.vxflags, u.vxctl, u.cshapemk, u.cshapen, u.kcnt, u.cpstr, u.pbase,
    u.atab0, u.atab1, u.qscl, u.optc0, u.optc1, u.optc2, u.optc3, u.optc4, u.snaprb, u.vqpos, c.cycle, c.instret, escstOf c]

/-- The captured words of a VIQ entry. -/
def blockCapture (c : Ctx) (e : VEntry) : List Word :=
  let u := e.csr
  [e.a, e.b, blockVl c e.vlRef u.vl, u.mtyp, u.vxctl, u.kcnt, u.cpstr, u.pbase, u.cshapemk, u.cshapen, u.atab0, u.atab1,
    u.qscl, u.optc0, u.optc1, u.optc2, u.optc3, u.optc4]

/-- The words of the escrow section. -/
def blockEscrow (c : Ctx) : List Word :=
  match c.esc with
  | some e => [e.desc, BitVec.ofNat 64 e.oldest, e.ncom, e.nmis, e.ncon, e.ndef]
  | none => []

/-- Little-endian bytes of words. -/
def wordBytes (ws : List Word) : List Byte := ws.flatMap fun w => natBytes 8 w.toNat

/-- One VIQ entry of the block. -/
def blockViq (e : VEntry) : List Byte :=
  natBytes 8 (e.word.toNat + (if e.faulting then 2 ^ 32 else 0) + (if e.frozen then 2 ^ 33 else 0)) ++ natBytes 8 e.pc.toNat

/-- The fixed part (Table 18.2). `priv` gives the bytes of the sections private to the device. -/
def blockFixed (c : Ctx) (hidden : Nat → Byte) : List Byte :=
  let head := natBytes 8 (blockSize c * 2 ^ 32 + 1) ++ natBytes 8 c.pc.toNat ++ natBytes 8 c.strandid.toNat
    ++ natBytes 8 (blockFlags c) ++ natBytes 8 (c.accw * 2 ^ 32 + c.pocb) ++ natBytes 8 (stashImage c)
  let t := padTo 0x140 (padTo 0x40 head ++ wordBytes (c.x.toList.drop 1))
  let t := padTo 0x240 (t ++ wordBytes (blockCsrs c))
  let t := padTo 0x340 (t ++ wordBytes (loopImage c))
  let t := padTo 0x380 (t ++ wordBytes (blockEscrow c))
  let t := padTo 0x580 (t ++ c.viq.flatMap blockViq)
  let t := padTo 0x1780 (t ++ c.viq.flatMap fun e => wordBytes (blockCapture c e))
  let t := padTo 0x1800 (t ++ (c.srq.filter fun e => e.val.isSome).flatMap fun e =>
    natBytes 8 (e.val.getD 0).toNat ++ natBytes 8 e.xd.toNat)
  let t := padTo 0x2800 (t ++ (upFrom 0 (256 * c.cable.length)).map hidden)
  let t := t ++ (c.m.toList.drop 1).flatMap fun m => getBytes m.bits 0 8192
  let t := t ++ c.q.toList.flatMap fun q => getBytes q 0 8192
  t ++ getBytes c.atab 0 4096 ++ c.slots.toList.flatMap slotHead

/-- The registers the block saves: v0, vG, v2G and so on. -/
def blockRegs (c : Ctx) : List VReg :=
  (upFrom 0 (nregOf c / groupOf c)).map fun i => c.v.toList.getD (i * groupOf c) VReg.vacant

/-- The whole block. -/
def blockBytes (c : Ctx) (hidden : Nat → Byte) : List Byte :=
  blockFixed c hidden
    ++ (blockRegs c).flatMap (fun v => imageHead c v ++ getBytes v.data 0 (mvlOf c))
    ++ (upFrom 0 (genCount c)).flatMap (fun i => natBytes 8 (c.sr.state i).toNat)
    ++ getBytes c.pool 0 (4 * c.accw) ++ getBytes c.pocket 0 c.pocb
    ++ (upFrom 0 (stashImage c)).map fun i => hidden (4096 + i)

/-- A run of bytes in 64-byte pieces, each with its offset. -/
def pieces64 : Nat → Nat → List Byte → List (Nat × List Byte)
  | 0, _, _ => []
  | n + 1, off, bs => if bs.isEmpty then [] else (off, bs.take 64) :: pieces64 n (off + 64) (bs.drop 64)

/-- The lowest slot no strand of the partition holds. -/
def freeSlot (s : State) (k : Nat) : Nat :=
  let used := (s.part k).launches.flatMap fun l => l.strands.filterMap fun t => t.slot
  ((upFrom 0 (used.length + 1)).find? fun n => !used.contains n).getD used.length

/-- Write a context block at a GLOBAL address, highest piece first; none where a piece does not translate. -/
def writeBlock (s : State) (k : Nat) (new : Bool) (va : Nat) (c : Ctx) : Option State :=
  let ps := pieces64 24576 va (blockBytes c fun i => Config.freeByte (s.draws + i))
  if ps.all fun p => (sysLoc s k p.1).isSome then
    some { ps.foldr (fun p t => sysStore t k new p.1 p.2) s with draws := s.draws + 135168 }
  else none

/-- The user CSRs as the block in memory gives them, with the fields of each (R374); `vl` is given. -/
def csrsFrom (ws : List Word) (vl : Word) (u : UCsr) : UCsr :=
  let w (i : Nat) : Word := ws.getD i 0
  { u with
    vl := vl
    ves := w 1 &&& 0x1FFFF
    mtyp := w 2 &&& 0x77
    vffs := w 3
    vxflags := w 4 &&& 0x3F
    vxctl := writeVxctl u.vxctl (w 5)
    cshapemk := w 6
    cshapen := w 7 &&& 0xFFFFFFFF
    kcnt := if (w 8).toNat > 256 then 256 else w 8
    cpstr := w 9
    pbase := w 10 &&& ~~~7
    atab0 := w 11
    atab1 := w 12
    qscl := w 13 &&& 0xFFFFFFFF
    optc0 := w 14
    optc1 := w 15
    optc2 := w 16
    optc3 := w 17
    optc4 := w 18 &&& 0xFFFFFFFF
    snaprb := w 19 &&& 0xFFFFFFFF
    vqpos := w 20 &&& 0x1F }

/-- What a restored `vl` word comes to: a value, or the identity of the `vldff` it refers to; none where it fails (R374). -/
def vlFrom (c : Ctx) (w : Word) : Option (Word × Option Nat) :=
  if w.getLsbD 63 then
    match c.viq[(w &&& ~~~(1#64 <<< 63)).toNat]? with
    | some e => if isVldff e.instr then some (c.u.vl, some e.id) else none
    | none => none
  else some (if w.toNat > 65536 then 65536 else w, none)

/-- A word of a context block that the WS reads is poisoned (R218). -/
def blockBad (s : State) (k va : Nat) : Bool := (sysAddr s k va).any fun a => runBad s a 8

/-- The checks of a restore (R374): the header words are those of the context saved, and the register images pass the
checks of `vldr`; a poisoned word passes none (R218). -/
def blockOk (s : State) (k va : Nat) (c : Ctx) : Bool :=
  (s.ecc.isEmpty || (upFrom 0 72).all fun i => !blockBad s k (va + 8 * i))
    && decide (sysLe s k va 8 = blockSize c * 2 ^ 32 + 1) && decide (sysLe s k (va + 0x18) 8 = blockFlags c)
    && decide (sysLe s k (va + 0x20) 8 = c.accw * 2 ^ 32 + c.pocb)
    && (upFrom 0 (nregOf c / groupOf c)).all fun i =>
      let a := va + 112640 + i * (64 + mvlOf c)
      let h := leNat ((upFrom 0 8).flatMap fun j => natBytes 8 (sysLe s k (a + 8 * j) 8))
      (s.ecc.isEmpty || (upFrom 0 8).all fun j => !blockBad s k (a + 8 * j)) && !headBad h && !tagBad (BitVec.ofNat 8 h) && decide (h / 2 ^ 256 % 2 ^ 32 = mvlOf c)

/-- Restore a context from its block: PC, XREG and CSR from memory, the rest as saved (R374, log 17). -/
def restoreCtx (s : State) (k va : Nat) (c : Ctx) : Option Ctx :=
  let w (off : Nat) : Word := BitVec.ofNat 64 (sysLe s k (va + off) 8)
  let ws := (upFrom 0 24).map fun i => w (0x140 + 8 * i)
  if blockOk s k va c then
    (vlFrom c (w 0x140)).map fun vl =>
      { c with
        pc := w 8
        x := Vector.ofFn fun (i : Fin 32) => if i.val = 0 then 0 else w (0x38 + 8 * i.val)
        u := csrsFrom ws vl.1 c.u
        vlProv := vl.2
        viq := c.viq.map fun e => if !e.frozen && e.faulting && decide (e.start ≠ 0) then e.rearm (csrsFrom ws vl.1 c.u).ves else e
        cycle := ws.getD 21 0
        instret := ws.getD 22 0 }
  else none

/-! ## Where a stop may land (R40, R190, R369) -/

/-- A boundary where a stop may land as far as an escrow loop goes: the home strand's commit boundary (R40, R203), with
the new oldest iteration at its start. A stop that is due makes it so (`commitOnce`); one that comes after a commit that
confirmed the next iteration waits for the next boundary (log 99). -/
def escBoundary (c : Ctx) : Bool :=
  match c.escActive with
  | none => true
  | some e => !c.isSpec && c.atPoint && decide (c.pc = e.bodyStart c.loops) && decide (topLevel c.loops = c.escLevel)

/-- The strand's record on a core. -/
def coreStrand (s : State) : Option (SRef × Launch × Strand) :=
  match s.core.strand with
  | none => none
  | some r =>
    match findLaunch s s.pidx r.launch with
    | none => none
    | some l => (findStrand l r.stage r.idx).map fun t => (r, l, t)

/-- The strand of the core whose turn it is stands BLOCKED. -/
def isBlocked (s : State) : Bool := (coreStrand s).any fun p => decide (p.2.2.st = .blocked)

/-- A vault-swap stop past its deadline lands at any instruction boundary, and so does that of the strand whose handler issued
the swap (R303). -/
def vaultLate (s : State) : Bool := s.vault.busy && (s.vault.due || decide (s.vault.issuer = some s.core.id))

/-- An ordinary stop lets the executing VIQ entry complete (R128), and any younger store the access unit has begun. -/
def headDone (c : Ctx) : Bool :=
  (match c.viq.head? with
    | some e => e.frozen || (!e.begun && !e.sent)
    | none => true)
  && (c.viq.drop 1).all fun e => e.frozen || !e.begun || e.undo.isSome

/-- A stop of a kind may land at the boundary the core stands at (R40, R369). A BLOCKED strand is not pre-empted (Table
2.2), and one that a vault swap stops is saved as for parking (R38). -/
def stopLands (s : State) (w : Stop) : Bool :=
  let point := s.ctx.atPoint && escBoundary s.ctx
  decide (s.core.priv = .user) && match w with
    | .preempt | .forced => point && !isBlocked s
    | .cut => point
    | .cancel => isBlocked s || point
    | .vault => vaultLate s || (isBlocked s && escBoundary s.ctx) || point

/-- A strand that stands where a stop lands waits there for its executing VIQ entry, unless the stop is forced or cancels
it. -/
def stopReady (s : State) (w : Stop) : Bool :=
  match w with
  | .preempt | .cut => headDone s.ctx
  | .vault => vaultLate s || headDone s.ctx
  | .forced | .cancel => true

/-- What a context save or a cut waits for besides Cable work (R371). -/
def saveReady (s : State) : Bool := !s.core.copyHolds

/-! ## Saving -/

/-- An executing entry that a save leaves part done: `ves` and `vqpos` name it, and it goes on at element `ves` (R119,
R128). A younger entry begun early is saved unexecuted. -/
def Ctx.partDone (c : Ctx) : Ctx :=
  match c.viq with
  | e :: t =>
    let late (y : VEntry) : VEntry := if y.frozen then y else { y.reset with sent := false }
    let c := undoStarts (t.filter fun y => !y.frozen) c
    if !e.frozen && (decide (e.start ≠ 0) || e.sent) then
      { c with
        viq := { e with faulting := true, sent := false } :: t.map late
        u := { c.u with ves := BitVec.ofNat 64 e.start, vqpos := 0 } }
    else { c with viq := e :: t.map late }
  | [] => c

/-- A context as it is saved: LENT registers are FULL and their images complete, the reservation's line and the
descriptor cache are gone, and a fault not yet taken will be found again (R181, R274, R284, R371). The escrow loop, if
any, keeps its home strand alone (R203). -/
def Ctx.forSave (c : Ctx) : Ctx :=
  let c := c.narrow.partDone
  { c with
    v := c.v.map fun v => if v.st = .lent then { v with st := .full } else v
    cable := c.cable.map fun n => { n with srcs := n.srcs.map fun x => { x with copied := true } }
    vfault := none
    dcache := []
    esc := c.esc.map fun e => { e with parts := e.parts.filter fun p => p.home } }

/-- The context of a cut that its head VIQ entry takes (R269): that entry is unexecuted, and `ves` is 0. -/
def Ctx.headUnrun (c : Ctx) : Ctx :=
  match c.viq with
  | e :: t => { c with viq := { e with start := 0, sent := false } :: t, u := { c.u with ves := 0, vqpos := 0 } }
  | [] => c

/-- The conditions of a core's pocket granules, by offset. -/
def pocketConds (s : State) (n : Nat) : List (Nat × Ecc) :=
  s.ecc.filterMap fun p =>
    if pocketKey n 0 ≤ p.1 ∧ p.1 < pocketKey (n + 1) 0 then some (p.1 - pocketKey n 0, p.2) else none

/-- Replace the conditions of a core's pocket granules. -/
def putConds (s : State) (n : Nat) (es : List (Nat × Ecc)) : State :=
  let rest := s.ecc.filter fun p => !(decide (pocketKey n 0 ≤ p.1) && decide (p.1 < pocketKey (n + 1) 0))
  { s with ecc := es.map (fun p => (pocketKey n p.1, p.2)) ++ rest }

/-- The pocket bytes of a block carry the poison of the pocket's granules (R218). -/
def poisonBlock (s : State) (k va : Nat) (c : Ctx) : State :=
  let at_ := blockSize c - stashImage c - c.pocb
  c.pocketEcc.foldl (fun (t : State) p => match p.2, sysLoc t k (va + at_ + p.1) with
    | .correctable, _ => t
    | .uncorrectable, some (a, _) | .poisoned, some (a, _) => if p.1 < c.pocb then poisonRun t a 8 else t
    | .uncorrectable, none | .poisoned, none => t) s

/-- Write the block of a context that leaves, or is cut on, a core, with its pocket's poison. -/
def writeSave (s : State) (k va : Nat) (c : Ctx) : Option State :=
  (writeBlock s k (colourNew s k c) va c).map fun t => poisonBlock t k va c

/-- Cut a context to a generation: only `snapcol` changes (R51). -/
def Ctx.cutTo (c : Ctx) (gen : BitVec 32) : Ctx := { c with snapGen := gen.setWidth 31, snapCol := gen.getLsbD 0 }

/-- Cut a strand that holds no core, in place (R51): the image takes its context as it stands. -/
def cutSaved (s : State) (k : Nat) (r : SRef) : State :=
  match (findLaunch s k r.launch).bind fun l => findStrand l r.stage r.idx with
  | none => s
  | some t =>
    match t.core, t.saved with
    | none, some c =>
      if uncut (s.part k) c then
        let s := imageStrand s k r fun u => { u with st := t.st, core := none, saved := some c, wait := t.wait, released := t.released }
        s.mapStrand k r fun u => { u with saved := some (c.cutTo (s.part k).gen) }
      else s
    | none, none => s
    | some _, _ => s

/-- Save the strand of the core whose turn it is and free the core (R32, R38, R300, R371): its state becomes `st`. A
strand that is to stop for a cancel exits instead (R45). A context area that does not translate leaves nowhere to save to. -/
def saveStrand (s : State) (st : StrandSt) : Host.Outcome State Fault Refusal :=
  match coreStrand s with
  | none => .next s
  | some (r, _, t) =>
    let k := s.pidx
    if s.core.stop = some .cancel then .next (exitStrand s k r)
    else
      let n := s.core.id
      let c := { s.ctx.srqAll.forSave with pocketEcc := pocketConds s n }
      let slot := t.slot.getD (freeSlot s k)
      match writeSave s k (slotVa s k slot) c with
      | none => .fault (.controlBlock (slotVa s k slot))
      | some u =>
        let u := (putConds (u.freeHelpers n) n []).mapCoreAt n Core.idle
        let u := u.mapStrand k r fun t =>
          { t with st := st, core := none, saved := some c, slot := some slot, waited := 0, held := 0,
                   wait := if st = .parked then t.wait else none }
        .next (cutSaved u k r)

/-- Cut the strand of the core whose turn it is at this boundary (R51, R183): the engine pauses at a primitive boundary, a
free choice, its context is recorded in the image of the generation being taken, and it goes on in the new colour. -/
def cutStrand (s : State) : Host.Outcome State Fault Refusal :=
  match coreStrand s with
  | none => .next s
  | some (r, _, t) =>
    let k := s.pidx
    if uncut (s.part k) s.ctx then
      let s := { s.narrow with draws := s.draws + 1 }.mapCtx fun c => { c.srqAll.cablePause (Config.pick s.draws) with dcache := [] }
      let c := { s.ctx with cableSusp := !s.ctx.cable.isEmpty, pocketEcc := pocketConds s s.core.id }.forSave
      let c := if queueConsumes s then c.headUnrun else c
      let slot := t.slot.getD (freeSlot s k)
      match writeSave s k (slotVa s k slot) c with
      | none => .fault (.controlBlock (slotVa s k slot))
      | some u =>
        let u := imageStrand u k r fun t =>
          { t with st := .ready, core := none, saved := some c, slot := some slot, wait := none }
        let u := u.mapStrand k r fun t => { t with slot := some slot }
        let u := u.mapCtx fun d => d.cutTo (u.part k).gen
        .next { u with core := { u.core with resv := none, stop := if u.core.stop = some .cut then none else u.core.stop } }
    else .next { s with core := { s.core with stop := if s.core.stop = some .cut then none else s.core.stop } }

/-- Start the assay run at the head of a rib's queue when its core has no strand (R50, R317): the core's `snapcol`.GEN is
the generation in force when the run begins (R314). -/
def assayStart (s : State) (rib : Nat) : State :=
  match s.assayQ.find? fun p => decide (p.1 = rib) with
  | none => s
  | some p =>
    let n := p.2.core
    let c := s.coreAt n
    let busy := s.liveCores.any fun m => decide (ribOf m = rib) && (s.coreAt m).assay
    if busy || c.strand.isSome || c.helperOf.isSome || decide (s.core.id = n ∧ s.core.priv ≠ .user) then s
    else s.mapCoreAt n fun c => { c with
      assay := true
      ctx := { c.ctx with snapGen := (s.part (s.partOfCore n)).gen.setWidth 31 } }

/-- The stop that waits for the core whose turn it is lands, once what it waits for is done (R40, R45, R181, R303). -/
def landStop (s : State) : Host.Outcome State Fault Refusal :=
  match s.core.stop with
  | none => .next s
  | some w =>
    if !stopLands s w || !saveReady s || !stopReady s w then .next s
    else
      let save (s : State) : Host.Outcome State Fault Refusal :=
        match saveStrand s .ready with
        | .next t => .next (assayStart t (ribOf s.core.id))
        | .fault f => .fault f
        | .refused f => .refused f
      match w, coreStrand s with
      | .cut, _ => cutStrand s
      | _, none => .next { s with core := { s.core with stop := none } }
      | .cancel, some (r, _, _) => .next (exitStrand s s.pidx r)
      | .preempt, some _ => if s.ctx.cable.isEmpty then save s else .next s
      | .forced, some _ => save s
      | .vault, some _ =>
        if s.ctx.cable.isEmpty then save s
        else if vaultLate s then
          save ({ s with draws := s.draws + 1 }.mapCtx fun c => { c.cablePause (Config.pick s.draws) with cableSusp := true })
        else .next s

/-! ## Placing -/

/-- A context as it resumes on a core: entries saved frozen are re-armed on the return to U-mode, unless ROLLBACK_ENTRY is
taken first (R274, R360), and a suspended Pattern sequencer goes on (R181). -/
def Ctx.resume (c : Ctx) : Ctx :=
  let c := { c with cableSusp := false, pocketEcc := [] }
  if c.rbEntry.isSome then c else { c with viq := c.viq.map fun e => if e.frozen then e.rearm c.u.ves else e }

/-- An open escrow loop on the core that takes its strand: the home participant runs there, and the loop holds a way of
that core's rib if one is free (R195, R203). -/
def Escrow.homeOn (e : Escrow) (n : Nat) (way : Bool) : Escrow :=
  { e with
    parts := e.parts.map fun p => { p with core := n }
    focus := 0
    narrow := false
    way := way }

/-- Give a core to a strand. -/
def startOn (s : State) (k : Nat) (r : SRef) (n : Nat) (c : Ctx) : State :=
  let way := decide (waysUsed s (ribOf n) < 4)
  let s := (putConds s n c.pocketEcc).mapCoreAt n fun d => { d with
    priv := .user
    ctx := { c.resume with esc := c.esc.map fun e => e.homeOn n way }
    strand := some r
    resv := none
    stop := none
    gift := none
    migrate := false
    wfi := false }
  s.mapStrand k r fun t =>
    { t with st := .running, core := some n, saved := none, waited := 0, held := 0, wait := none }

/-- A launch fails (R301, R374): FAILED in its counter and event 0x0002. -/
def failLaunch (s : State) (k serial : Nat) (sid : Word) : State :=
  match findLaunch s k serial with
  | none => s
  | some l =>
    let s := match levelAddr s k l.lrec with
      | some a => setFailed s k a
      | none => s
    (raiseEvent s k l.queue 0x0002 l.lrec sid).mapLaunch k serial fun l => { l with failed := true }

/-- Place a READY strand on a core (R299, R300, R374): a strand that has never held one starts in its entry state; a block
that fails its checks ends the strand, and its launch fails. -/
def placeOn (s : State) (k : Nat) (r : SRef) (t : Strand) (n : Nat) : State :=
  match t.saved with
  | none => s
  | some c =>
    match t.slot with
    | none => startOn s k r n c
    | some slot =>
      match restoreCtx s k (slotVa s k slot) c with
      | some d => startOn s k r n d
      | none => failLaunch (exitStrand s k r) k r.launch c.strandid

end Sys2Proof.Machine
end

