-- ==== Sys2Proof/Machine/Work.lean ====
section
/-! DEFINITION. The Work Scheduler (R33 to R51, R287 to R300): work-queue records, launches and their levels, admission,
placement, scores, priority and spread, parking and waits, the events it raises, and `syield` and `sexit`. -/

namespace Sys2Proof.Machine

/-! ## Work queues (R287, R288) -/

/-- Work queues of a partition. -/
def queueCount (s : State) : Nat := 16384 / s.nparts

/-- Set ERR in a queue's control block, with the index of the refused record when there is one, and raise event 0x0005. -/
def queueError (s : State) (k q cb : Nat) (idx : Option Nat) : State :=
  let s := sysTouch s k (wqBlock s k q) 64
  let s := match idx with
    | some n => sysPut s k (cb + 32) 8 (2 ^ 63 + n)
    | none => sysPut s k (cb + 39) 1 ((getByte s.mem (cb + 39)).toNat ||| 0x80)
  raiseEvent s k 0 0x0005 (BitVec.ofNat 64 q) 0

/-- HOST_TAIL_WRITE (R287): a host write of TAIL posts records; a device-posted queue ignores it, and one past the ring is
refused. -/
def execHostTailWrite (k q : Nat) (val : BitVec 32) (s : State) : Host.Outcome State Fault Refusal :=
  if s.nparts ≤ k ∨ queueCount s ≤ q then .next s
  else match sysAddr s k (wqBlock s k q) with
  | none => .next s
  | some cb =>
    if wqOwn s cb then .next s
    else if 2 ^ wqLsz s cb < (val.toNat + 2 ^ 32 - wqHead s cb) % 2 ^ 32 then .next (queueError s k q cb none)
    else .next (sysPut (sysTouch s k (wqBlock s k q) 64) k (cb + 16) 4 val.toNat)

/-! ## Objects and stages a record names (R289, R290, R376) -/

/-- The object-table entry of a handle, none where it is not VALID or holds another handle (R312). -/
def objEntry (s : State) (k : Nat) (h : Word) : Option Nat :=
  match objTable s k with
  | none => none
  | some (base, n) =>
    let i := (h.extractLsb' 0 16).toNat
    let e := base + 128 * i
    if i < n ∧ sysLe s k (e + 16) 8 / 2 ^ 63 = 1 ∧ sysLe s k e 8 = h.toNat then some e else none

/-- The ring header a binding names (R295): the word of the argument block at the offset. -/
def boundRing (s : State) (k : Nat) (arg : Word) (word : Nat) : Option Word :=
  if 2 ^ 31 ≤ word then some (BitVec.ofNat 64 (sysLe s k (arg.toNat + word % 2 ^ 31) 8)) else none

/-- Stage i of an object's stage table (R376), with its rings. -/
def stageOf (s : State) (k : Nat) (e : Nat) (arg : Word) (i : Nat) : StageDecl :=
  let ibase := sysLe s k (e + 8) 8
  let a := ibase + sysLe s k (ibase + 56) 4 + 32 * i
  let w1 := sysLe s k (a + 8) 8
  let w3 := sysLe s k (a + 24) 8
  { min := w1 / 2 ^ 32 % 65536
    max := w1 / 2 ^ 48
    entry := BitVec.ofNat 64 (sysLe s k (e + 40) 8 + sysLe s k a 4)
    nc := BitVec.ofNat 2 w1
    gc := BitVec.ofNat 2 (w1 / 4)
    acc := sysLe s k (a + 16) 4
    pocket := sysLe s k (a + 20) 4
    rin := boundRing s k arg (w3 % 2 ^ 32)
    rout := boundRing s k arg (w3 / 2 ^ 32)
    score := 0
    scoreDen := 1 }

/-- The stages of an object. -/
def stagesOf (s : State) (k : Nat) (e : Nat) (arg : Word) : List StageDecl :=
  (upFrom 0 (sysLe s k (sysLe s k (e + 8) 8 + 60) 4)).map (stageOf s k e arg)

/-- A ring a stage binds passes its check (R292, R294, R295). -/
def ringBound (s : State) (k : Nat) (w : Word) : Bool :=
  match commonsWord s k .machine w 32 32 with
  | some a => !(scrubRead s a 32).1 && ringValid s k .machine (ringAt s a)
  | none => false

/-- Vector cores of a partition. -/
def coreCount (s : State) : Nat := 256 / s.nparts
def coresOf (s : State) (k : Nat) : List Nat := upFrom (k * coreCount s) (coreCount s)

/-- The sum of the stage mins. -/
def minSum (ds : List StageDecl) : Nat := (ds.map fun d => d.min).sum

/-! ## Taking a record (R290) -/

/-- A launch record's eight words. -/
structure Record where
  w0 : Word
  obj : Word
  arg : Word
  lrec : Word
  grec : Word
  dep0 : Word
  dep1 : Word
  w7 : Word
  deriving DecidableEq, Repr

/-- A record's 64 bytes at a physical address. -/
def recordAt (s : State) (a : Nat) : Record :=
  let w (i : Nat) : Word := BitVec.ofNat 64 (getLe s.mem (a + 8 * i) 8)
  { w0 := w 0
    obj := w 1
    arg := w 2
    lrec := w 3
    grec := w 4
    dep0 := w 5
    dep1 := w 6
    w7 := w 7 }

/-- A level-record address a record names is 0 or valid in the partition (R33, R290). -/
def levelOk (s : State) (k : Nat) (va : Word) : Bool := va == 0 || (levelAddr s k va).isSome

/-- The launch a record makes; a marker has no stages and ignores OBJ and ARG (R289). -/
def launchOf (s : State) (k q : Nat) (r : Record) : Launch :=
  let p := s.part k
  let e := if r.w0.extractLsb' 0 8 = 1 then none else objEntry s k r.obj
  { serial := p.nextSerial
    queue := q
    marker := decide (r.w0.extractLsb' 0 8 = 1)
    evc := r.w0.getLsbD 16
    pri := (r.w0.extractLsb' 8 3).toNat
    obj := r.obj
    arg := r.arg
    lrec := r.lrec
    grec := r.grec
    dep0 := r.dep0
    dep1 := r.dep1
    uuse := match e with
      | some a => BitVec.ofNat 32 (sysLe s k (a + 28) 4)
      | none => 0
    stages := match e with
      | some a => stagesOf s k a r.arg
      | none => []
    st := if r.dep0 = 0 ∧ r.dep1 = 0 then .released else .held
    strands := []
    waited := 0
    prods := []
    cancelled := false
    failed := false
    order := 0 }

/-- The refusals of R290 step 2. -/
def recordRefused (s : State) (k : Nat) (r : Record) (l : Launch) : Bool :=
  r.w0.extractLsb' 17 47 != 0 || r.w0.extractLsb' 11 5 != 0 || r.w7.extractLsb' 16 48 != 0
    || decide (1 < (r.w0.extractLsb' 0 8).toNat) || !r.w7.getLsbD k
    || (!l.marker && (objEntry s k r.obj).isNone)
    || !levelOk s k r.grec || !levelOk s k r.dep0 || !levelOk s k r.dep1
    || l.stages.any (fun d => d.rin.any (fun w => !ringBound s k w) || d.rout.any (fun w => !ringBound s k w))
    || decide (coreCount s < minSum l.stages)

/-- A child of the level at an address has finished (R43): its parent's outstanding count falls by 1 and takes FAILED. -/
def parentArrive (s : State) (k : Nat) (pva : Word) (failed : Bool) : State :=
  match levelAddr s k pva with
  | none => s
  | some p =>
    let s := if failed then setFailed s k p else s
    let out := levelOut s p
    if out = 0 then raiseEvent (setFailed s k p) k 0 0x0006 pva 0
    else
      let s := sysPut s k p 4 (out - 1)
      if out = 1 then levelPropagate s k p levelDepth else s

/-- A refused launch (R290): outstanding 0 and FAILED in LREC, event 0x0002, and the GREC parent decremented. -/
def refuseRecord (s : State) (k q a : Nat) (r : Record) : State :=
  let s := setFailed (sysPut s k a 4 0) k a
  let s := raiseEvent s k q 0x0002 r.lrec 0
  if r.grec = 0 then s else parentArrive s k r.grec true

/-- Producers join a ring (R295): PROD rises and CLOSED is cleared. -/
def ringJoin (s : State) (k : Nat) (ring : Word) (n : Nat) : State :=
  match commonsWord s k .machine ring 32 32 with
  | none => s
  | some a =>
    let s := sysPut s k (a + 12) 2 ((getLe s.mem (a + 12) 2 + n) % 65536)
    sysPut s k (a + 15) 1 ((getByte s.mem (a + 15)).toNat % 128)

/-- The producers a launch adds, by ring. -/
def launchProds (l : Launch) : List (Word × Nat) :=
  l.stages.filterMap fun d => d.rout.map fun w => (w, d.max)

/-- A record that passes its checks (R290 step 3): counted in its levels; completed at once under a cancel; otherwise its
ring producers are added and it is held. -/
def enterLaunch (s : State) (k a : Nat) (l : Launch) : State :=
  let s := sysPut (sysPut s k a 4 1) k (a + 8) 8 l.grec.toNat
  let s := s.mapPart k fun p => { p with launches := p.launches ++ [l], nextSerial := p.nextSerial + 1 }
  let under := levelCancelled s a || (levelChain s k l.grec levelDepth).any fun v => (levelAddr s k v).any (levelCancelled s)
  if under then completeCancelled s k l.serial
  else
    let ps := launchProds l
    let s := ps.foldl (fun (u : State) p => ringJoin u k p.1 p.2) s
    s.mapLaunch k l.serial fun l => { l with prods := ps }

/-- Check a record and take it (R290). -/
def takeRecord (s : State) (k q cb idx : Nat) (r : Record) : State :=
  match levelAddr s k r.lrec with
  | none => queueError s k q cb (some idx)
  | some a =>
    let l := launchOf s k q r
    if recordRefused s k r l then refuseRecord s k q a r else enterLaunch s k a l

/-- Launches that fill the holding queues (R288). -/
def heldLaunches (s : State) (k : Nat) : Nat :=
  ((s.part k).launches.filter fun l => decide (l.st = .held) || decide (l.st = .released)).length

/-- WS_TAKE_RECORD (R288, R290): the WS copies record HEAD into the holding queues, advances HEAD and checks it; a record
it cannot read is refused as a whole. -/
def execWsTakeRecord (k q : Nat) (s : State) : Host.Outcome State Fault Refusal :=
  if s.nparts ≤ k ∨ queueCount s ≤ q ∨ (s.part k).vaulted = true ∨ 4096 / s.nparts ≤ heldLaunches s k then .next s
  else match sysAddr s k (wqBlock s k q) with
  | none => .next s
  | some cb =>
    if wqEna s cb = false ∨ wqUsed s cb = 0 then .next s
    else
      let idx := wqHead s cb
      let t := sysPut (sysTouch s k (wqBlock s k q) 64) k (cb + 24) 4 ((idx + 1) % 2 ^ 32)
      match sysLoc s k (wqRecord s cb idx) with
      | none => .next (queueError t k q cb (some idx))
      | some (a, _) =>
        let rd := scrubRead t a 64
        if rd.1 then .next (queueError rd.2 k q cb (some idx))
        else .next (takeRecord rd.2 k q cb idx (recordAt rd.2 a))

/-- The addresses of the dependence records a launch names. -/
def launchDeps (s : State) (k : Nat) (l : Launch) : List Nat := [l.dep0, l.dep1].filterMap fun v => if v = 0 then none else levelAddr s k v

/-- DEPENDENCE_RELEASE (R44): every named counter has reached 0; a CANCELLED or FAILED one completes the launch CANCELLED.
DESIGN CHOICE (log 125): with two counters the model waits for both, also where the first is flagged when it reaches 0, and
takes the flags as they stand at the release. -/
def execDependenceRelease (serial : Nat) (s : State) : Host.Outcome State Fault Refusal :=
  let k := s.pidx
  match findLaunch s k serial with
  | none => .next s
  | some l =>
    let ds := launchDeps s k l
    if l.st ≠ .held ∨ (ds.any fun a => decide (levelOut s a ≠ 0)) = true then .next s
    else if ds.any fun a => levelCancelled s a || levelFailed s a then .next (completeCancelled s k serial)
    else .next (s.mapLaunch k serial fun l => { l with st := .released })

/-! ## Completion (R42, R289) -/

/-- An engine operation or store of a launch has not finished, or a packet of one has not landed (R42, R267). -/
def launchBusy (s : State) (k serial : Nat) : Bool :=
  let mine (r : Option SRef) : Bool := r.any fun x => decide (x.launch = serial)
  s.liveCores.any (fun n => (s.coreAt n).copies.any fun o => decide (o.part = k) && mine o.owner)
    || s.tcmds.any (fun o => decide (o.part = k) && mine o.owner)
    || s.colls.any (fun o => decide (o.part = k) && mine o.owner)
    || s.heldStores.any (fun h => decide (h.part = k) && mine h.owner)
    || s.flights.any fun f => decide (f.by_.part = k) && mine f.by_.owner

/-- A launch has completed: its outstanding count is 0, its levels propagate, EVC raises event 0x0001. -/
def finishLaunch (s : State) (k : Nat) (l : Launch) : State :=
  let s := levelFinish s k l.lrec
  let s := if l.evc then launchEvent s k l 0x0001 else s
  s.mapLaunch k l.serial fun l => { l with st := .done, strands := [], prods := [] }

/-- LAUNCH_COMPLETE (R42). -/
def execLaunchComplete (serial : Nat) (s : State) : Host.Outcome State Fault Refusal :=
  let k := s.pidx
  match findLaunch s k serial with
  | none => .next s
  | some l =>
    if l.st = .admitted ∧ (l.strands.all fun t => decide (t.st = .exited) && t.leaving.isEmpty) = true
        ∧ launchBusy s k serial = false then
      .next (finishLaunch s k l)
    else .next s

/-- MARKER_COMPLETE (R289): every launch taken earlier from the marker's queue has completed. -/
def execMarkerComplete (serial : Nat) (s : State) : Host.Outcome State Fault Refusal :=
  let k := s.pidx
  match findLaunch s k serial with
  | none => .next s
  | some l =>
    if l.marker = true ∧ l.st = .released ∧ ((s.part k).launches.all fun x =>
        decide (x.queue ≠ l.queue) || decide (serial ≤ x.serial) || decide (x.st = .done)) = true then
      .next (finishLaunch s k l)
    else .next s

/-! ## Priorities, cover and quantum (R297 to R299) -/

/-- The effective priority of a base priority after w interval ends of waiting (R297). -/
def effPri (pri waited : Nat) : Nat := min 7 (pri + waited / 64)

/-- A core goes to no strand while a rib's next assay run waits for it (R50). -/
def assayWants (s : State) (n : Nat) : Bool :=
  match s.assayQ.find? fun p => decide (p.1 = ribOf n) with
  | some p => decide (p.2.core = n)
  | none => false

/-- A core that can take a strand at once (R41, R49, R299). -/
def freeFor (s : State) (n : Nat) (use : BitVec 32) : Bool := idleCore s n && !assayWants s n && covers s n use

/-- A stop that takes the strand off its core. -/
def leaving : Option Stop → Bool
  | none | some .cut => false
  | some .preempt | some .forced | some .cancel | some .vault => true

/-- The strand of a core keeps it: no stop that takes it off the core waits for it. -/
def keepsCore (s : State) (n : Nat) : Bool := !leaving (s.coreAt n).stop

/-- Cores a stage holds, those its strands are leaving not counted (R34). -/
def stageCores (s : State) (l : Launch) (stage : Nat) : Nat :=
  (l.strands.filter fun t => decide (t.stage = stage) && t.core.any (keepsCore s)).length

/-- The stage min of a stage. -/
def stageMin (l : Launch) (stage : Nat) : Nat := ((l.stages[stage]?).map fun d => d.min).getD 0

/-- A strand that R299 may pre-empt for a strand of another stage: it has served its quantum and its stage stays at its
min (R34). -/
def canPreempt (s : State) (l : Launch) (t : Strand) (same : Bool) : Bool :=
  decide (t.st = .running) && decide (4 ≤ t.held) && (same || decide (stageMin l t.stage < stageCores s l t.stage))
    && t.core.any fun n => !leaving (s.coreAt n).stop

/-- The score of a stage as it stands. -/
def stageScore (l : Launch) (stage : Nat) : Int × Nat :=
  match l.stages[stage]? with
  | some d => (d.score, d.scoreDen)
  | none => (0, 1)

/-- One score is below another. -/
def scoreLt (a b : Int × Nat) : Bool := decide (a.1 * b.2 < b.1 * a.2)

/-- Running launches in the order they were admitted. -/
def runningLaunches (s : State) (k : Nat) : List Launch := (s.part k).launches.filter fun l => decide (l.st = .admitted)

/-- FILLED over COUNT of a ring. -/
def ringFill (s : State) (k : Nat) (w : Word) : Int × Nat :=
  match commonsWord s k .machine w 32 32 with
  | some a => let r := ringAt s a; if r.count = 0 then (0, 1) else (r.filled, r.count)
  | none => (0, 1)

/-- The score of a stage (R298): in − out, exactly. -/
def scoreOf (s : State) (k : Nat) (d : StageDecl) : Int × Nat :=
  let i := match d.rin with
    | some w => ringFill s k w
    | none => (1, 1)
  let o := match d.rout with
    | some w => ringFill s k w
    | none => (0, 1)
  (i.1 * o.2 - o.1 * i.2, i.2 * o.2)

/-! ## Admission (R34, R297) -/

/-- READY strands that the WS may place, with their launches. -/
def readyStrands (s : State) (k : Nat) : List (Launch × Strand) :=
  (runningLaunches s k).flatMap fun l => (l.strands.filter fun t => decide (t.st = .ready) && !t.vault).map fun t => (l, t)

/-- Idle and helper cores that a launch can have at once (R41, R49): READY strands that one covers take theirs first. -/
def idleFor (s : State) (k : Nat) (use : BitVec 32) : Nat :=
  let idle := (coresOf s k).filter fun n => freeFor s n use || ((s.coreAt n).helperOf.isSome && !assayWants s n && covers s n use)
  idle.length - ((readyStrands s k).filter fun x => idle.any fun n => covers s n x.1.uuse).length

/-- Cores of a running launch that can be pre-empted together for a launch: of each stage no more than it holds above its
min (R34). -/
def yieldable (s : State) (x : Launch) (use : BitVec 32) : Nat :=
  ((upFrom 0 x.stages.length).map fun i =>
    min (x.strands.filter fun t => decide (t.stage = i) && canPreempt s x t false && t.core.any fun n => covers s n use).length
      (stageCores s x i - stageMin x i)).sum

/-- Context slots are left for the strands of a launch (R371): as many as the partition has cores, and more as the context
area has room (log 68). -/
def slotsFor (s : State) (k : Nat) (l : Launch) : Bool :=
  let used := ((runningLaunches s k).map fun x => (x.strands.filter fun t => decide (t.st ≠ .exited)).length).sum
  let need := (l.stages.map fun d => d.max).sum
  decide (used + need ≤ coreCount s) || decide (used + need ≤ coreCount s + Config.contextSlots k)

/-- A launch gets its cores now: enough covering cores are idle or can be pre-empted for it, all at once (R34, R297), and there are
context slots for its strands (R371). -/
def admits (s : State) (k : Nat) (l : Launch) : Bool :=
  let ep := effPri l.pri l.waited
  let weaker := (runningLaunches s k).filter fun x => decide (effPri x.pri 0 < ep)
  decide (l.st = .released) && !l.marker && slotsFor s k l
    && decide (minSum l.stages ≤ idleFor s k l.uuse + (weaker.map fun x => yieldable s x l.uuse).sum)

/-- One held launch comes before another in the order of admission (R297). -/
def admitsBefore (s : State) (k : Nat) (a b : Launch) : Bool :=
  let ea := effPri a.pri a.waited
  let eb := effPri b.pri b.waited
  let n := queueCount s
  let turn (l : Launch) : Nat := (l.queue + n - (s.part k).rrQueue % n) % n
  decide (eb < ea) || (decide (ea = eb) && (decide (turn a < turn b) || (decide (turn a = turn b) && decide (a.serial < b.serial))))

/-- The strands of a launch at admission (R34), whose priority goes on from what the launch has waited (R297). -/
def newStrands (s : State) (k : Nat) (l : Launch) : List Strand :=
  (l.stages.zip (upFrom 0 l.stages.length)).flatMap fun p =>
    (upFrom 0 p.1.max).map fun i =>
      { stage := p.2
        idx := i
        st := .ready
        core := none
        saved := some (entryCtx s k l p.1 p.2 i)
        slot := none
        vault := false
        waited := l.waited
        held := 0
        wait := none
        released := none
        leaving := [] }

/-- LAUNCH_ADMIT (R34, R297): the WS admits a launch that can have its cores and that no other comes before. -/
def execLaunchAdmit (serial : Nat) (s : State) : Host.Outcome State Fault Refusal :=
  let k := s.pidx
  match findLaunch s k serial with
  | none => .next s
  | some l =>
    let p := s.part k
    if p.vaulted = false ∧ admits s k l = true
        ∧ (p.launches.all fun x => decide (x.serial = serial) || !admits s k x || admitsBefore s k l x) = true then
      let ts := newStrands s k l
      .next (s.mapPart k fun p =>
        { (p.mapLaunch serial fun l => { l with st := .admitted, strands := ts, order := p.nextOrder, prods := [] }) with
          nextOrder := p.nextOrder + 1
          rrQueue := l.queue + 1 })
    else .next s

/-! ## Placing strands (R299 step 1) -/

/-- One READY strand has precedence over another by R299 step 1: EP, score, stage index, launch order. -/
def readyBefore (a b : Launch × Strand) : Bool :=
  let ea := effPri a.1.pri a.2.waited
  let eb := effPri b.1.pri b.2.waited
  let sa := stageScore a.1 a.2.stage
  let sb := stageScore b.1 b.2.stage
  decide (eb < ea) || (decide (ea = eb) && (scoreLt sb sa || (!scoreLt sa sb &&
    (decide (a.2.stage < b.2.stage) || (decide (a.2.stage = b.2.stage) && decide (a.1.order < b.1.order))))))

/-- Cores the READY strands of a launch's stages below their mins still need (R34). -/
def minNeed (s : State) (l : Launch) : Nat :=
  ((upFrom 0 l.stages.length).map fun i =>
    min (l.strands.filter fun t => decide (t.stage = i ∧ t.st = .ready) && !t.vault).length (stageMin l i - stageCores s l i)).sum

/-- A READY strand may take a core without leaving a stage of its launch short of its min: its own stage is below its min,
or idle covering cores are left over (R34). -/
def leavesMins (s : State) (k : Nat) (l : Launch) (t : Strand) : Bool :=
  decide (stageCores s l t.stage < stageMin l t.stage)
    || decide (minNeed s l < ((coresOf s k).filter fun n => freeFor s n l.uuse).length)

/-- A READY strand is the one a core was promised to, or of the stage it was promised to. -/
def Gift.fits (g : Gift) (x : Launch × Strand) : Bool :=
  match g with
  | .strand r => decide (r = ⟨x.1.serial, x.2.stage, x.2.idx⟩)
  | .stage l i => decide (x.1.serial = l ∧ x.2.stage = i)

/-- A READY strand takes an idle core next: a core freed for a strand or a stage goes to it (R299 steps 2 and 3), any other
to the READY strand that no other it covers comes before (step 1). -/
def takesCore (s : State) (k n : Nat) (x : Launch × Strand) : Bool :=
  let ready := (readyStrands s k).filter fun q => covers s n q.1.uuse && leavesMins s k q.1 q.2
  match (s.coreAt n).gift with
  | some g => if ready.any g.fits then g.fits x else ready.all fun q => !readyBefore q x
  | none => ready.all fun q => !readyBefore q x

/-- PLACE_STRAND (R299 step 1, R41): an idle covering core goes to the READY strand that takes it next; among several such
cores the choice is free. -/
def execPlaceStrand (serial stage idx : Nat) (s : State) : Host.Outcome State Fault Refusal :=
  let k := s.pidx
  match (readyStrands s k).find? fun p => decide (p.1.serial = serial ∧ p.2.stage = stage ∧ p.2.idx = idx) with
  | none => .next s
  | some (l, t) =>
    let cores := (coresOf s k).filter fun n => freeFor s n l.uuse && leavesMins s k l t && takesCore s k n (l, t)
    if (s.part k).vaulted then .next s
    else match cores[Config.pick s.draws % max 1 cores.length]? with
      | some n => .next (placeOn { s with draws := s.draws + 1 } k ⟨serial, stage, idx⟩ t n)
      | none => .next s

/-! ## The reallocation interval (R297 to R299) -/

/-- Scores, ages and quanta at an interval end. -/
def ageLaunch (s : State) (k : Nat) (l : Launch) : Launch :=
  match l.st with
  | .held | .released => { l with waited := l.waited + 1 }
  | .admitted =>
    { l with
      stages := l.stages.map fun d => { d with score := (scoreOf s k d).1, scoreDen := (scoreOf s k d).2 }
      strands := l.strands.map fun t =>
        { t with
          waited := if t.st = .ready then t.waited + 1 else t.waited
          held := if t.core.isSome then t.held + 1 else t.held } }
  | .done => l

/-- No idle core covers a strand's launch. -/
def unserved (s : State) (k : Nat) (l : Launch) : Bool := (coresOf s k).all fun n => !freeFor s n l.uuse

/-- The better of two victims of R299 step 2: lower EP, lower score, higher stage index, launch admitted later. -/
def victimBefore (a b : Launch × Strand) : Bool :=
  let sa := stageScore a.1 a.2.stage
  let sb := stageScore b.1 b.2.stage
  decide (effPri a.1.pri 0 < effPri b.1.pri 0) || (decide (effPri a.1.pri 0 = effPri b.1.pri 0) && (scoreLt sa sb || (!scoreLt sb sa &&
    (decide (b.2.stage < a.2.stage) || (decide (a.2.stage = b.2.stage) && decide (b.1.order < a.1.order))))))

/-- Ask the strand on a core to stop for another, to which the core is promised. -/
def askPreempt (s : State) (t : Strand) (g : Gift) : State :=
  match t.core with
  | some n => s.mapCoreAt n fun c => { c with stop := some .preempt, gift := some g }
  | none => s

/-- A core is already being freed for a READY strand. -/
def promised (s : State) (k : Nat) (r : SRef) : Bool :=
  (coresOf s k).any fun n => (s.coreAt n).stop.isSome && decide ((s.coreAt n).gift = some (.strand r))

/-- A free choice among the strands that R48 leaves open. -/
def pickStrand (s : State) (ts : List (Launch × Strand)) : Option (Launch × Strand) := ts[Config.chooseStrand s.draws % max 1 ts.length]?

/-- R299 step 2 for one READY strand: the pre-emptible RUNNING strand of lowest EP below its own is asked to stop. -/
def priorityFor (s : State) (k : Nat) (x : Launch × Strand) : State :=
  let r : SRef := ⟨x.1.serial, x.2.stage, x.2.idx⟩
  if !unserved s k x.1 || promised s k r then s
  else
    let all := (runningLaunches s k).flatMap fun l => l.strands.map fun t => (l, t)
    let ok := all.filter fun v =>
      canPreempt s v.1 v.2 (decide (v.1.serial = x.1.serial ∧ v.2.stage = x.2.stage))
        && decide (effPri v.1.pri 0 < effPri x.1.pri x.2.waited) && v.2.core.any fun n => covers s n x.1.uuse
    let best := ok.filter fun v => ok.all fun w => !victimBefore w v
    match pickStrand s best with
    | some v => askPreempt { s with draws := s.draws + 1 } v.2 (.strand r)
    | none => s

/-- R299 step 2 for every READY strand, the highest EP first. -/
def priorityStep (s : State) (k : Nat) : State :=
  (upFrom 0 8).foldl (fun (t : State) i =>
    ((readyStrands t k).filter fun x => decide (effPri x.1.pri x.2.waited = 7 - i)).foldl (fun (u : State) x => priorityFor u k x) t) s

/-- R299 step 3 for one launch: the spread between its highest-scoring stage with an unserved READY strand and its
lowest-scoring stage above its min. -/
def spreadFor (s : State) (k : Nat) (l : Launch) : State :=
  let wants := (l.strands.filter fun t => decide (t.st = .ready) && !t.vault).map fun t => t.stage
  let gives := (l.strands.filter fun t => decide (stageMin l t.stage < stageCores s l t.stage) && canPreempt s l t false
    && t.core.any fun n => covers s n l.uuse).map fun t => t.stage
  let above (a b : Nat) : Bool := scoreLt (stageScore l b) (stageScore l a) || (!scoreLt (stageScore l a) (stageScore l b) && decide (a < b))
  let below (a b : Nat) : Bool := scoreLt (stageScore l a) (stageScore l b) || (!scoreLt (stageScore l b) (stageScore l a) && decide (b < a))
  match wants.find? fun a => wants.all fun b => decide (a = b) || above a b,
        gives.find? fun a => gives.all fun b => decide (a = b) || below a b with
  | some hi, some lo =>
    let h := stageScore l hi
    let g := stageScore l lo
    if unserved s k l ∧ (h.2 : Int) * g.2 ≤ 2 * (h.1 * g.2 - g.1 * h.2) then
      match pickStrand s ((l.strands.filter fun t => decide (t.stage = lo) && canPreempt s l t false
          && t.core.any fun n => covers s n l.uuse).map fun t => (l, t)) with
      | some v => askPreempt { s with draws := s.draws + 1 } v.2 (.stage l.serial hi)
      | none => s
    else s
  | some _, none => s
  | none, _ => s

/-- REALLOCATION_INTERVAL_END (R297 to R299). -/
def execReallocationIntervalEnd (k : Nat) (s : State) : Host.Outcome State Fault Refusal :=
  if s.nparts ≤ k ∨ (s.part k).vaulted = true then .next s
  else
    let s := s.mapPart k fun p => { p with launches := p.launches.map (ageLaunch s k) }
    let s := priorityStep s k
    .next ((runningLaunches s k).foldl (fun (t : State) l => spreadFor t k l) s)

/-! ## Pre-emption and parking (R38, R40, R181) -/

/-- PREEMPTION (R40, R300): the pending stop of the core whose turn it is lands where it may. -/
def execPreemption (s : State) : Host.Outcome State Fault Refusal := landStop s

/-- A BLOCKED strand may be parked at the boundary it stands at (R38): in an escrow loop only the home strand, at its commit
boundary. One whose wait has just been released is not parked. -/
def parkPoint (s : State) : Bool :=
  isBlocked s && decide (s.core.priv = .user) && escBoundary s.ctx && saveReady s
    && (coreStrand s).any fun p => p.2.2.released.isNone

/-- Suspend the Pattern sequencer at a primitive boundary, a free choice (R181). -/
def suspendCable (s : State) : State :=
  { s with draws := s.draws + 1 }.mapCtx fun c => { c.cablePause (Config.pick s.draws) with cableSusp := true }

/-- FORCED_PREEMPTION (R181): the Cable queue has not emptied in 65,536 cycles of a pre-emption or a parking, so the Pattern
sequencer is suspended and the queue is saved with the context; an executing VIQ entry is left part done (R128). -/
def execForcedPreemption (s : State) : Host.Outcome State Fault Refusal :=
  if s.ctx.cable.isEmpty then .next s
  else if s.core.stop = some .preempt ∧ stopLands s .forced = true ∧ saveReady s = true then
    let t := suspendCable s
    landStop { t with core := { t.core with stop := some .forced } }
  else if parkPoint s then saveStrand (suspendCable s) .parked
  else .next s

/-- PARK (R38): a strand BLOCKED for 8,192 cycles is saved at the boundary before its blocking instruction, and its core
is freed, once its Cable work and its executing VIQ entry are done. -/
def execPark (s : State) : Host.Outcome State Fault Refusal :=
  if parkPoint s ∧ s.ctx.cable.isEmpty = true ∧ headDone s.ctx = true then saveStrand s .parked else .next s

/-! ## Waits (R37, R243) -/

/-- WAIT_SATISFIED (R37, R38): the awaited word has changed so that the wait holds: a BLOCKED strand is RUNNING and a
PARKED one READY; the blocking instruction executes again from its start. -/
def execWaitSatisfied (serial stage idx : Nat) (s : State) : Host.Outcome State Fault Refusal :=
  let k := s.pidx
  match (findLaunch s k serial).bind fun l => findStrand l stage idx with
  | none => .next s
  | some t =>
    if (t.wait.any (waitOver s k)) = false then .next s
    else match t.st with
      | .blocked => .next (s.mapStrand k ⟨serial, stage, idx⟩ fun t => { t with st := .running, wait := none })
      | .parked => .next (s.mapStrand k ⟨serial, stage, idx⟩ fun t => { t with st := .ready, wait := none, waited := 0 })
      | .ready | .running | .exited => .next s

/-! ## Events of the WS (R41, R47) -/

/-- PLACEMENT_EVENT (R41): a released launch finds fewer covering cores in the partition than its mins sum to. -/
def execPlacementEvent (serial : Nat) (s : State) : Host.Outcome State Fault Refusal :=
  let k := s.pidx
  match findLaunch s k serial with
  | none => .next s
  | some l =>
    if l.st = .released ∧ ((coresOf s k).filter fun n => covers s n l.uuse).length < minSum l.stages then
      .next (launchEvent s k l 0x0003)
    else .next s

/-- PIPELINE_STALL_EVENT (R47): every strand of the launch that has not exited is BLOCKED or PARKED. -/
def execPipelineStallEvent (serial : Nat) (s : State) : Host.Outcome State Fault Refusal :=
  let k := s.pidx
  match findLaunch s k serial with
  | none => .next s
  | some l =>
    let live := l.strands.filter fun t => decide (t.st ≠ .exited)
    if l.st = .admitted ∧ live.isEmpty = false ∧ (live.all fun t => decide (t.st = .blocked) || decide (t.st = .parked)) = true then
      .next (launchEvent s k l 0x0004)
    else .next s

/-! ## sexit and syield (R301, R302) -/

/-- What `sexit` waits for (R39). -/
def exitReady (s : State) : Bool := s.ctx.viq.isEmpty && s.ctx.cable.isEmpty && saveReady s

/-- End the strand on the core whose turn it is; a core without a strand idles. -/
def endStrand (s : State) : State :=
  match s.core.strand with
  | some r => exitStrand s s.pidx r
  | none => { s.freeHelpers s.core.id with core := s.core.idle }

/-- A privilege in which `sexit` ends the strand whose trap is served (R301). -/
def servesStrand (s : State) : Bool :=
  match s.core.priv with
  | .user => false
  | .supervisor => !s.core.csr.mstatus.getLsbD bitSPP
  | .machine => decide (mppOf s.core.csr.mstatus = .user)

/-- SEXIT (R39, R301). -/
def execSexit (s : State) : Host.Outcome State Fault Refusal :=
  guarded .sexit s fun s =>
    if s.core.priv = .user then
      if s.ctx.esc.isSome then .next (raiseTrap s cEscrow (instrWord .sexit))
      else if exitReady s then .next (endStrand (tick s)) else .next s
    else if servesStrand s then
      let t := s.narrow.mapCtx fun c => { c with viq := c.viq.filter fun e => !e.frozen, vfault := none, esc := none }
      let t := t.freeHelpers t.core.id
      if exitReady t then
        match coreStrand t with
        | some (r, _, _) => .next (failLaunch (endStrand (tick t)) t.pidx r.launch t.ctx.strandid)
        | none => .next (endStrand (tick t))
      else .next t
    else illegal .sexit s

/-- The strand on the core gives way at `syield` (R302): a pre-emption waits for it, or a READY strand of equal or higher
EP that no idle core covers, after its quantum, and of another stage only where its own stays at its min (R34). -/
def yields (s : State) : Bool :=
  match coreStrand s with
  | none => false
  | some (_, l, t) =>
    decide (4 ≤ t.held) && (readyStrands s s.pidx).any fun x =>
      decide (effPri l.pri 0 ≤ effPri x.1.pri x.2.waited) && unserved s s.pidx x.1
        && (decide (x.1.serial = l.serial ∧ x.2.stage = t.stage) || decide (stageMin l t.stage < stageCores s l t.stage))

/-- SYIELD (R302): a pre-emption point wherever it stands. -/
def execSyield (s : State) : Host.Outcome State Fault Refusal :=
  guarded .syield s fun s =>
    if s.core.priv ≠ .user then illegal .syield s
    else
      let t := (retire s).mapCtx fun c => { c with atPoint := true }
      if leaving t.core.stop = false ∧ yields s = true then .next { t with core := { t.core with stop := some .preempt } } else .next t

end Sys2Proof.Machine
end

