-- ==== Sys2Proof/Machine/BaseMem.lean ====
section
/-! DEFINITION. The base instructions that access memory (R83, R86, R216), with the invalidation port and the CAP words
that M-mode stores reach (R311, R314), `sret` with MIGRATE (R317, R370), and the two instructions that write their
records with scalar stores, `lsave` (R191) and `esc.close` (R206). -/

namespace Sys2Proof.Machine

/-! ## CAP (R315) -/

/-- CAP_WRITE (R315): M-mode firmware writes a core's CAP. -/
def execCapWrite (core : Nat) (cap : BitVec 32) (s : State) : Host.Outcome State Fault Refusal :=
  if core < 256 then
    let k := s.partOfCore core
    let t := match capRecord s k core with
      | some v => sysStore s k true v (natBytes 4 (cap &&& 0x7FFFFFFF).toNat)
      | none => s
    .next (setCap t core cap)
  else .next s

/-! ## The invalidation port (R311, Table 15.2) -/

/-- A word stored to a rib's invalidation port: the first is kept, the second performs the operation. -/
def portStore (s : State) (v : Word) : State :=
  let rib := ribOf s.core.id
  let rest := s.invPort.filter fun p => decide (p.1 ≠ rib)
  match s.invPort.find? fun p => decide (p.1 = rib) with
  | none => { s with invPort := (rib, v) :: rest }
  | some p =>
    let t := { s with invPort := rest }
    if invBad v then t else (invalidateAll t p.2 v).getD t

/-- A scalar load, the invalidation port reading 0: its operation has ended. -/
def loadAny (va : Word) (n : Nat) : M (List Byte) :=
  tryCatch (scalarLoad va n) fun e =>
    match e with
    | .port a => do
      let s ← get
      if invPortAddr s s.pidx = some a then return List.replicate n 0 else throw (.port a)
    | .trap cause tval => throw (.trap cause tval)
    | .stall => throw .stall
    | .block a op => throw (.block a op)

/-- A store, the invalidation port taking its two words. -/
def storeAny (go : M Unit) (bs : List Byte) : M Unit :=
  tryCatch go fun e =>
    match e with
    | .port a => do
      let s ← get
      if invPortAddr s s.pidx = some a then set (portStore s (leWord bs)) else throw (.port a)
    | .trap cause tval => throw (.trap cause tval)
    | .stall => throw .stall
    | .block a op => throw (.block a op)

/-! ## Loads and stores -/

/-- BASE_LOAD (R83, R216). -/
def execBaseLoad (op : LoadOp) (rd rs1 : XReg) (imm : BitVec 12) (s : State) : Host.Outcome State Fault Refusal :=
  guarded (.baseLoad op rd rs1 imm) s fun s =>
    runM (do
      let bs ← loadAny (s.x rs1 + simm12 imm) (loadBytes op)
      modify fun t => retire (t.setX rd (loadValue op bs))) s

/-- BASE_STORE (R83, R216, R268). -/
def execBaseStore (op : StoreOp) (rs2 rs1 : XReg) (imm : BitVec 12) (s : State) : Host.Outcome State Fault Refusal :=
  guarded (.baseStore op rs2 rs1 imm) s fun s =>
    runM (withLevels do
      let bs := natBytes (storeBytes op) (s.x rs2).toNat
      storeAny (scalarStore (s.x rs1 + simm12 imm) bs) bs
      modify retire) s

/-! ## Atomics (R86) -/

/-- Bytes of an atomic. -/
def amoBytes (dbl : Bool) : Nat := if dbl then 8 else 4

/-- A value of an atomic's width as a register holds it. -/
def amoReg (dbl : Bool) (v : Nat) : Word := if dbl then BitVec.ofNat 64 v else sext32 (BitVec.ofNat 32 v)

/-- The new value of an AMO. -/
def amoNew (op : AmoOp) (dbl : Bool) (old : Nat) (b : Word) : Nat :=
  if dbl then (amoOp op (BitVec.ofNat 64 old) b).toNat else (amoOp op (BitVec.ofNat 32 old) (lo32 b)).toNat

/-- The line of a location, where a reservation on it is possible (R86). -/
def resvLine (core : Nat) (l : Loc) : Option Nat := (locKey core l).map fun a => a / 128

/-- A location in the Commons. -/
def locCommons (l : Loc) : Bool :=
  match l with
  | .phys a _ _ => isCommons a
  | .pocket _ => false
  | .peer _ _ => false

/-- A location in a counter block (R333). -/
def locCounter (s : State) (l : Loc) : Bool :=
  match l with
  | .phys a _ _ => inCounterBlock s a
  | .pocket _ => false
  | .peer _ _ => false

/-- What an atomic's place asks of it before its access: it waits as a scalar access does; the held stores that it follows are
performed, those that rl orders before it among them unless its own page is UN (R86, R257, R260), and, where it stores, what
its rib reads of other strands' stores to its bytes (R215, R263). -/
def atomicOrder (store rl : Bool) (l : Loc) (n : Nat) : M Unit := do
  let s ← get
  if scalarWaits s l then throw .stall
  let ord := rl && decide (l.kind ≠ kindUN)
  let t := orderFor store true l n (if ord then flushFence s else s)
  let left := ord && decide (t.core.priv = .user) && t.heldStores.any fun h => h.mine t && h.scalar && decide (h.loc.kind ≠ kindUN)
  if left || mustWait store true l n t then throw .stall
  set t

/-- What an atomic's store does before it: descriptor-cache entries it touches are dropped (R284); the transit filter refuses
it (R268). -/
def atomicReady (va : Word) (n : Nat) (l : Loc) : M Unit := do
  modify fun s => s.mapCtx (dropDesc va n)
  let s ← get
  if transitHit s s.pidx l then trapM cStorePage va else return ()

/-- BASE_AMO (R86, R216): in the Commons the bank's Teller performs it; a counter block refuses it (R333). -/
def execBaseAmo (op : AmoOp) (dbl aq rl : Bool) (rd rs1 rs2 : XReg) (s : State) : Host.Outcome State Fault Refusal :=
  guarded (.baseAmo op dbl aq rl rd rs1 rs2) s fun s =>
    runM (withLevels do
      let va := s.x rs1
      let n := amoBytes dbl
      let l ← scalarLoc .store va n
      let t ← get
      if locCounter t l then trapM cStoreAccess va
      atomicOrder true rl l n
      atomicReady va n l
      let bs ← readLoc l n va
      writeLoc l (natBytes n (amoNew op dbl (leNat bs) (s.x rs2))) va
      modify fun t => retire (t.setX rd (amoReg dbl (leNat bs)))) s

/-- BASE_LR (R86, R216): takes the reservation of its 128-byte line; the Commons refuses it. -/
def execBaseLr (dbl aq rl : Bool) (rd rs1 : XReg) (s : State) : Host.Outcome State Fault Refusal :=
  guarded (.baseLr dbl aq rl rd rs1) s fun s =>
    runM (do
      let va := s.x rs1
      let n := amoBytes dbl
      let l ← scalarLoc .load va n
      if locCommons l then trapM cLoadAccess va
      atomicOrder false rl l n
      let bs ← readLoc l n va
      modify fun t =>
        let t := { t with core := { t.core with resv := resvLine t.core.id l } }
        retire (t.setX rd (amoReg dbl (leNat bs)))) s

/-- BASE_SC (R86, R216): stores and answers 0 only while the reservation of its line holds; otherwise answers 1. The
reservation is gone either way. -/
def execBaseSc (dbl aq rl : Bool) (rd rs1 rs2 : XReg) (s : State) : Host.Outcome State Fault Refusal :=
  guarded (.baseSc dbl aq rl rd rs1 rs2) s fun s =>
    runM (withLevels do
      let va := s.x rs1
      let n := amoBytes dbl
      let l ← scalarLoc .store va n
      if locCommons l then trapM cStoreAccess va
      atomicOrder true rl l n
      let t ← get
      let holds := t.core.resv.isSome && decide (t.core.resv = resvLine t.core.id l)
      if holds then
        atomicReady va n l
        writeLoc l (natBytes n (s.x rs2).toNat) va
      modify fun u =>
        let u := { u with core := { u.core with resv := none } }
        retire (u.setX rd (boolWord (!holds)))) s

/-! ## sret -/

/-- The strand leaves its core at the handler's `sret` (R317): saved as pre-empted with pc `sepc`, its frozen entries
still frozen, once the rest of what a save waits for is done (R371). -/
def migrateOut (s : State) : Host.Outcome State Fault Refusal :=
  if s.ctx.cable.isEmpty && saveReady s then
    saveStrand ((tick (returnS s)).mapCtx fun c => { c with viq := s.ctx.viq, atPoint := true }) .ready
  else .next s

/-- SRET (R370, R317): to sepc; a target that is not a multiple of 4 traps on the instruction (R81); the base's TSR bit
makes it illegal in S. -/
def execSret (s : State) : Host.Outcome State Fault Refusal :=
  guarded .sret s fun s =>
    if s.core.priv = .supervisor ∧ s.core.csr.mstatus.getLsbD bitTSR = true then illegal .sret s
    else if misaligned s.core.csr.sepc then .next (raiseTrap s cMisFetch s.core.csr.sepc)
    else if s.core.migrate = true ∧ s.core.csr.mstatus.getLsbD bitSPP = false ∧ s.core.strand.isSome = true then migrateOut s
    else .next (tick (returnS s))

/-! ## lsave and esc.close -/

/-- Places of 8-byte scalar stores at ascending addresses, up to the first that is refused, with what refuses it (R191). -/
def wordPlaces (a : Word) : List Word → M (List (Loc × List Byte × Word) × Option Exc)
  | [] => return ([], none)
  | w :: t => do
    let bs := natBytes 8 w.toNat
    let r ← tryCatch ((storePlace a 8).map Except.ok) fun e => return Except.error e
    match r with
    | .error e => return ([], some e)
    | .ok l =>
      let q ← wordPlaces (a + 8) t
      return ((l, bs, a) :: q.1, q.2)

/-- Accept the stores of one instruction in order, as one group of granule writes; answers what stops them. -/
def acceptWords (group : Nat) : List (Loc × List Byte × Word) → M (Option Exc)
  | [] => return none
  | (l, bs, a) :: t => do
    let r ← tryCatch ((storeAny (acceptStore (some group) l bs a) bs).map fun _ => none) fun e => return some e
    match r with
    | some e => return some e
    | none => acceptWords group t

/-- Write words in ascending order from an address by scalar stores (R191, R206): the bytes they put into one granule are
one granule write (R219). A refused one leaves those below it written. -/
def storeWords (a : Word) (ws : List Word) : M Unit := do
  let r ← wordPlaces a ws
  let g := (← get).draws
  let e ← acceptWords g r.1
  if e = some .stall then throw .stall
  modify fun s =>
    let t := closeGranules s (fun h => h.mine s && decide (h.group = some g) && h.scalar)
      (writeRuns s s.core.id (r.1.map fun p => { loc := p.1, bytes := p.2.1 }))
    if t.heldStores.isEmpty then t else { t with draws := t.draws + 1 }
  match e.orElse fun _ => r.2 with
  | some e => throw e
  | none => return ()

/-- LSAVE (R191): the 25 words of the loop stack, by 8-byte scalar stores in ascending address. -/
def execLsave (rs1 : XReg) (s : State) : Host.Outcome State Fault Refusal :=
  guarded (.lsave rs1) s fun s =>
    runM (withLevels do
      storeWords (s.x rs1) (loopImage s.ctx)
      modify retire) s

/-- Add a closed loop's counters to the partition's totals (R206, Table 16.2). -/
def bumpEscrow (s : State) (k : Nat) (e : Escrow) : State :=
  bump (bump (bump (bump s k 0x38 e.ncom.toNat) k 0x40 e.nmis.toNat) k 0x48 e.ncon.toNat) k 0x50 e.ndef.toNat

/-- ESC_CMP (R198, R205): a speculative iteration waits until it is the oldest; the oldest's is the commit boundary, where
every store of its iteration has been performed (R199). While the next iteration's guess routine runs, the turn is that
participant's. -/
def execEscCmp (rd : XReg) (s : State) : Host.Outcome State Fault Refusal :=
  guarded (.escCmp rd) s fun s =>
    if !atEscEnd s.ctx then .next (raiseTrap s cEscrow (instrWord (.escCmp rd)))
    else if s.ctx.isSpec then
      .next (s.mapCtx fun c => match c.esc with
        | some e => match e.focusPart with
          | some p => { c with esc := some { e with parts := setAt e.parts e.focus { p with waiting := true } } }
          | none => c
        | none => c)
    else if s.ctx.viq.any memEntry then .next s
    else
      let due := boundaryDue s
      let s := flushHeld s
      if s.heldStores.any (Held.mine s) then .next s
      else match (if due then none else s.ctx.esc.bind fun e => e.guessAhead (e.oldest + 1)) with
      | some k => .next (s.mapCtx fun c => c.focusOn k)
      | none =>
        let r := commitAll s rd due 9
        let t := capsHook s r.1
        if r.2 then .next ((retireTo t (s.ctx.pc + 4)).mapCtx fun c => { c with atPoint := true })
        else
          .next (t.mapCtx fun c => { c with
            atPoint := true
            esc := c.esc.map fun e => if due then e else e.fill c.loops e.parts.length 0 })

/-- ESC_CLOSE (R206): the four counters go to the descriptor, and the loop is closed. -/
def execEscClose (s : State) : Host.Outcome State Fault Refusal :=
  guarded .escClose s fun s =>
    match s.ctx.esc with
    | none => .next (raiseTrap s cEscrow (instrWord .escClose))
    | some e =>
      if e.done then
        runM (withLevels do
          storeWords (e.desc + 32) [e.ncom, e.nmis, e.ncon, e.ndef]
          modify fun t => retire (((bumpEscrow t t.pidx e).freeHelpers t.core.id).mapCtx fun c =>
            { c with esc := none, escLast := ⟨e.ncom, e.nmis, e.ncon, e.ndef⟩ })) s
      else .next (raiseTrap s cEscrow (instrWord .escClose))

end Sys2Proof.Machine
end

