-- ==== Sys2Proof/Machine/Boundary.lean ====
section
/-! DEFINITION. What lands at an instruction boundary of the core whose turn it is besides an instruction (R366, R369):
ROLLBACK_ENTRY, OVERDRAFT, a trap, the PREEMPT pending bit, and a strand's cut at a pre-emption point or by the
consume-first rule (R51, R269); with the hint and the user event. -/

namespace Sys2Proof.Machine

/-- HINT (R101): retires with no effect. -/
def execHint (s : State) : Host.Outcome State Fault Refusal := guarded .hint s fun s => .next (retire s)

/-- OVERDRAFT (R324, R365): a pending overdraft is taken at a U-mode boundary, after what R366 puts before it. -/
def execOverdraft (s : State) : Host.Outcome State Fault Refusal :=
  .next (if decide (s.core.priv = .user) && s.ctx.rbEntry.isNone && s.ctx.vfault.isNone && s.ctx.cpyPoison.isNone then takeOverdraft s else s)

/-- A cause that Table 18.1 has a core raise in a mode (R364, R365): an `ecall` cause in its own mode, ROLLBACK_ENTRY in U-mode,
and on a clerk core the base's causes and OBJECT alone. -/
def causeRaised (s : State) (cause : BitVec 6) : Bool :=
  let c := cause.toNat
  let base := decide (c ≤ 7) || decide (c = 12) || decide (c = 13) || decide (c = 15) || (match s.core.priv with
    | .user => decide (c = 8)
    | .supervisor => decide (c = 9)
    | .machine => decide (c = 11))
  base || decide (c = 50) || (!isClerk s.core.id && ((decide (24 ≤ c) && decide (c ≤ 31)) || (decide (48 ≤ c) && decide (c ≤ 53))
    || (decide (c = 54) && decide (s.core.priv = .user)) || decide (c = 55)))

/-- TRAP_ENTRY (R369): the core enters the handler for a cause, the speculative iterations of an escrow loop squashed
(R202). A code that is never raised there is none (R365). -/
def execTrapEntry (cause : BitVec 6) (tval : Word) (s : State) : Host.Outcome State Fault Refusal :=
  .next (if causeRaised s cause then enterTrap s.narrow false cause tval else s)

/-- The stop of a core once a pre-emption is asked for, or withdrawn: any other stop stays. -/
def stopAsked (pending : Bool) (w : Option Stop) : Option Stop :=
  match w with
  | none => if pending then some .preempt else none
  | some .preempt => if pending then some .preempt else none
  | some .forced => if pending then some .forced else none
  | some .cancel => some .cancel
  | some .cut => some .cut
  | some .vault => some .vault

/-- The core may be taken from its strand: the strand's stage holds more than its min, or the core is to serve that stage
(R34). -/
def mayPreempt (s : State) : Bool :=
  match coreStrand s with
  | none => true
  | some (_, l, t) => decide (stageMin l t.stage < stageCores s l t.stage)
      || (readyStrands s s.pidx).any fun x => decide (x.1.serial = l.serial ∧ x.2.stage = t.stage)

/-- PREEMPT (R417): a pre-emption waits for a U-mode boundary, or is withdrawn; a cut that is due still waits then (R51). -/
def execPreempt (pending : Bool) (s : State) : Host.Outcome State Fault Refusal :=
  let w := if pending && !mayPreempt s then s.core.stop else stopAsked pending s.core.stop
  let w := if w.isNone && uncut (s.part s.pidx) s.ctx && s.core.strand.isSome then some .cut else w
  .next { s with core := { s.core with stop := w } }

/-- `snaprb` at rollback entry: RB and the generation. -/
def rollbackWord (g : BitVec 32) : Word := 0x80000000 ||| (g.setWidth 31).setWidth 64

/-- Take ROLLBACK_ENTRY for a generation (R360): `sepc` is the cut pc, stval the generation. -/
def takeRollback (s : State) (g : BitVec 32) : State :=
  enterTrap (s.narrow.mapCtx fun c => { c with rbEntry := none, u := { c.u with snaprb := rollbackWord g } })
    false cRollback (g.setWidth 64)

/-- ROLLBACK_ENTRY (R360, R366): taken before the strand's first instruction after placement. -/
def execRollbackEntry (s : State) : Host.Outcome State Fault Refusal :=
  match s.ctx.rbEntry with
  | some g => .next (if s.core.priv = .user then takeRollback s g else s)
  | none => .next s

/-- STRAND_CUT (R51): at the first pre-emption point. -/
def execStrandCut (s : State) : Host.Outcome State Fault Refusal :=
  if stopLands s .cut && saveReady s && stopReady s .cut then cutStrand s else .next s

/-- The event queue of the strand on the core: its launch's, or queue 0 (R340). -/
def strandQueue (s : State) : Nat :=
  match coreStrand s with
  | some (_, l, _) => l.queue
  | none => 0

/-- EVT (R342): a release at chip scope, then event 0x0100. -/
def execEvt (rs1 : XReg) (s : State) : Host.Outcome State Fault Refusal :=
  guarded (.evt rs1) s fun s =>
    runM (do
      releaseM
      modify fun t => retire (raiseEvent t t.pidx (strandQueue t) 0x0100 (s.x rs1) t.ctx.strandid)) s

/-! ## What consumes a new-colour item (R269) -/

/-- A scalar address on such a line. -/
def newScalar (s : State) (va : Word) (n : Nat) : Bool :=
  match ((scalarLoc .load va n).run s).1 with
  | .ok l => newItem s l
  | .error _ => false

/-- The entry of the purse table that a handle names (R115). -/
def purseWord (c : Ctx) (p : BitVec 5) : Word × Nat := (c.u.pbase + BitVec.ofNat 64 (8 * p.toNat), 8)

/-- n 8-byte words from an address. -/
def wordsFrom (a : Word) (n : Nat) : List (Word × Nat) := (upFrom 0 n).map fun j => (a + BitVec.ofNat 64 (8 * j), 8)

/-- What a `cho` reads: its descriptor, its group record (R343, R344), and its purse's entry. -/
def choReads (s : State) (d : Word) : List (Word × Nat) :=
  let word (a : Word) : Word := match ((loadWords a 1).run s).1 with
    | .ok ws => ws.getD 0 0
    | .error _ => 0
  let g := word (d + 32)
  wordsFrom d 8 ++ wordsFrom g (1 + (min 4096 ((word g).extractLsb' 0 13).toNat + 3) / 4)
    ++ [purseWord s.ctx ((word d).extractLsb' 32 5)]

/-- The scalar words an instruction reads, or waits on: an address and a size. -/
def scalarReads (s : State) (i : Instr) : List (Word × Nat) :=
  let c := s.ctx
  match i with
  | .baseLoad op _ rs1 imm => [(c.getX rs1 + simm12 imm, loadBytes op)]
  | .baseAmo _ d _ _ _ rs1 _ => [(c.getX rs1, amoBytes d)]
  | .baseLr d _ _ _ rs1 => [(c.getX rs1, amoBytes d)]
  | .lrest rs1 => wordsFrom (c.getX rs1) 25
  | .escOpen rs1 => [(c.getX rs1, 8)]
  | .ctile _ rs2 rs1 p => [(c.getX rs1, 8), (c.getX rs2, 8), purseWord c p]
  | .cpy _ _ _ p => [purseWord c p]
  | .cpys _ _ _ p => [purseWord c p]
  | .cring _ _ rs1 p => [(c.getX rs1, 8), purseWord c p]
  | .tcmd _ _ p => [purseWord c p]
  | .mint rs1 _ => wordsFrom (c.getX rs1) 4
  | .wqpost rs2 _ _ => wordsFrom (c.getX rs2) 8
  | .cho _ rs1 _ => choReads s (c.getX rs1)
  | .tadd _ _ rs1 _ => [(c.getX rs1, 4)]
  | .tmin _ _ rs1 _ => [(c.getX rs1, 4)]
  | .tmax _ _ rs1 _ => [(c.getX rs1, 4)]
  | .tand _ _ rs1 _ => [(c.getX rs1, 4)]
  | .tor _ _ rs1 _ => [(c.getX rs1, 4)]
  | .txchg _ _ rs1 _ => [(c.getX rs1, 4)]
  | .tcas _ _ rs1 _ => [(c.getX rs1, 4)]
  | .pwait rs1 _ => [(c.getX rs1, 8)]
  | .ptest rs1 _ => [(c.getX rs1, 8)]
  | .bar _ rs1 _ => [(c.getX rs1, 8)]
  | .lvlwait rs1 _ => [(c.getX rs1, 8)]
  | _ => []

/-- The slot that an `racq` would acquire was published in the new colour. -/
def newSlot (s : State) (i : Instr) : Bool :=
  match i with
  | .racq rs1 _ => (commonsWord s s.pidx .machine (s.x rs1) 32 32).any fun a => slotNew s s.pidx (ringAt s a)
  | _ => false

/-- The next instruction of an uncut strand would consume a new-colour item (R269): what it reads itself, or as a VIQ
entry. -/
def consumesNew (s : State) (i : Instr) : Bool :=
  uncut (s.part s.pidx) s.ctx && decide (s.core.priv = .user)
    && ((scalarReads s i).any (fun p => newScalar s p.1 p.2) || newSlot s i || entryNew s (viqEntry i [] s))

/-- The consume-first rule at a boundary (R269): an uncut strand in U-mode cuts there once its copies let it, and waits
until then. -/
def consumeFirst (s : State) : Host.Outcome State Fault Refusal :=
  if saveReady s && decide (s.core.priv = .user) then cutStrand s else .next s

/-- The instruction at the pc, where one can be fetched. -/
def nextInstr (s : State) : Option Instr :=
  match (fetchM.run s).1 with
  | .ok w => decode w
  | .error _ => none

/-- CONSUME_FIRST_CUT (R269): at the boundary before an instruction, or a VIQ entry, that would consume a new-colour item, also
inside a loop body or an escrow body. -/
def execConsumeFirstCut (s : State) : Host.Outcome State Fault Refusal :=
  if queueConsumes s || (nextInstr s).any (consumesNew s) then consumeFirst s else .next s

/-! ## The order of a boundary (R366) -/

/-- A pending vector fault is taken (R272, R273): `ves` and `vqpos` name it from its entry on (R365). -/
def takeVFault (s : State) : State :=
  match s.ctx.vfault with
  | some f =>
    let at_ (c : Ctx) : Ctx := { c with vfault := none, u := { c.u with ves := f.ves, vqpos := f.vqpos } }
    enterTrap (s.narrow.mapCtx at_) false f.cause f.tval
  | none => s

/-- POISON from a `cpyv` is taken (R280). -/
def takeCpyPoison (s : State) : State :=
  match s.ctx.cpyPoison with
  | some v => enterTrap (s.narrow.mapCtx fun c => { c with cpyPoison := none }) false cPoison v
  | none => s

/-- A RUNNING strand that its core no longer covers is to be pre-empted, where no other stop waits (R316). -/
def uncovered (s : State) : Bool :=
  decide (s.core.priv = .user) && s.core.stop.isNone && !covers s s.core.id s.ctx.usemask
    && (coreStrand s).any fun p => decide (p.2.2.st = .running)

/-- The escrow level is suspended: a handler runs (R184). -/
def escSuspended (c : Ctx) : Bool := c.escLevel.any fun k => (c.loops.toList.getD k Level.off).susp

/-- An interrupt the core takes at this boundary: in an escrow body that is not suspended, at a commit boundary alone (R202,
R364). -/
def dueInt (s : State) : Option (BitVec 6) :=
  if (decide (s.core.priv ≠ .user) && escSuspended s.ctx) || escBoundary s.ctx then pendingInt s s.core else none

/-- What is due at the boundary before the next instruction, one thing at a time (R366): in U-mode ROLLBACK_ENTRY, a stop
that lands, a vector fault, POISON, OVERDRAFT; then an interrupt. -/
def boundary (s : State) : Option (Host.Outcome State Fault Refusal) :=
  let u := decide (s.core.priv = .user)
  if u && s.ctx.rbEntry.isSome then s.ctx.rbEntry.map fun g => .next (takeRollback s g)
  else if uncovered s then some (.next { s with core := { s.core with stop := some .preempt } })
  else if s.core.stop.any (stopLands s) then some (landStop s)
  else if u && s.ctx.vfault.isSome then some (.next (takeVFault s))
  else if u && s.ctx.cpyPoison.isSome then some (.next (takeCpyPoison s))
  else if u && s.ctx.overdraft.isSome then some (.next (takeOverdraft s))
  else (dueInt s).map fun i => .next (enterTrap s.narrow true i 0)

/-- A core with no strand idles in U-mode (R39). -/
def idles (s : State) : Bool := decide (s.core.priv = .user) && s.core.strand.isNone && !isClerk s.core.id

/-- The core executes nothing: the module is in reset (R389) or shut down (R387), an assay has the core (R317), or it
helps another core's loop (R195). -/
def coreHeld (s : State) : Bool :=
  s.inReset || (s.halted && !isClerk s.core.id) || s.core.assay || s.core.helperOf.isSome

/-- The core waits in `wfi` (the base): until an interrupt it enables in `mie` is pending. -/
def sleeps (s : State) : Bool := s.core.wfi && (mipOf s s.core &&& s.core.csr.mie) == 0

/-- The iteration the core's thread stands at cannot go on until it is the oldest (R198, R200, R201), or there is none. -/
def focusHeld (c : Ctx) : Bool :=
  c.isSpec && (c.esc.bind fun e => e.focusPart).any fun p => p.waiting || p.stalled || p.trapped || p.iter.isNone

/-- What runs beside the scalar thread when nothing lags: the VIQ, the Cable queue, the SRQ and the copies. -/
def settle (s : State) : Host.Outcome State Fault Refusal :=
  if s.lag || (s.ctx.viq.isEmpty && s.ctx.cable.isEmpty && s.ctx.srq.isEmpty && s.core.copies.isEmpty) then .next s
  else match viqAll s with
    | .next t =>
      let t := t.mapCtx fun c => c.cableAll.srqAll
      .next (copySettle t.core.copies.length 0 t)
    | .fault f => .fault f
    | .refused f => .refused f

end Sys2Proof.Machine
end

