-- ==== Sys2Proof/Machine/Assay.lean ====
section
/-! DEFINITION. The rib assay (R50, R314, R315, R317): `assay.req`, taking a core for a run, and the end of one class run
with its capability record. -/

namespace Sys2Proof.Machine

/-! ## Capability records (R314) -/

/-- A class's record on a core. -/
def assayRec (s : State) (n cls : Nat) : AssayRec :=
  (s.assayRecs.find? fun r => decide (r.core = n ∧ r.cls = cls)).getD ⟨n, cls, 0, 0, 0, 0⟩

/-- Replace a class's record, in memory too. -/
def putAssayRec (s : State) (r : AssayRec) : State :=
  let s := { s with assayRecs := r :: s.assayRecs.filter fun q => decide (¬(q.core = r.core ∧ q.cls = r.cls)) }
  let k := s.partOfCore r.core
  match capRecord s k r.core with
  | some v =>
    sysStore s k true (v + 64 + 16 * r.cls)
      (natBytes 4 r.fail ++ natBytes 4 r.pass ++ natBytes 4 r.cons ++ natBytes 4 r.lggen)
  | none => s

/-- Completed assay runs of a core. -/
def assayRunsOf (s : State) (n : Nat) : Nat := ((s.assayRuns.find? fun p => decide (p.1 = n)).map Prod.snd).getD 0

/-- The record after one run of its class; GEN is the generation in force when the run began. -/
def ranClass (r : AssayRec) (pass : Bool) (gen : Nat) : AssayRec :=
  if pass then { r with pass := min (r.pass + 1) 0xFFFFFFFF, lggen := gen, cons := 0 }
  else { r with fail := min (r.fail + 1) 0xFFFFFFFF, cons := min (r.cons + 1) 255 }

/-- A class whose failed runs reach its limit is fenced (R315). -/
def fenceDue (r : AssayRec) : Bool := decide (3 ≤ r.cons) || (decide (16 ≤ r.cls) && decide (r.cls ≤ 22) && decide (1 ≤ r.cons))

/-- Fence a class on a core: its bit leaves CAP and `assaycap`. -/
def fenceClass (s : State) (n cls : Nat) : State :=
  let cap := (s.coreAt n).assaycap
  if cap.getLsbD cls then
    let new := cap &&& ~~~(1#32 <<< cls)
    let k := s.partOfCore n
    let s := match capRecord s k n with
      | some v => sysStore s k true v (natBytes 4 (new &&& 0x7FFFFFFF).toNat)
      | none => s
    setCap s n new
  else s

/-! ## The queue (R317) -/

/-- Requests in a rib's 16-entry queue; a background run holds none of its entries. -/
def ribRequests (s : State) (rib : Nat) : Nat := (s.assayQ.filter fun p => decide (p.1 = rib) && p.2.asked).length

/-- ASSAY_REQ (R317). -/
def execAssayReq (rs1 : XReg) (s : State) : Host.Outcome State Fault Refusal :=
  guarded (.assayReq rs1) s fun s =>
    let x := s.x rs1
    let op := x.extractLsb' 0 2
    if x.extractLsb' 8 24 ≠ 0 ∨ x.extractLsb' 2 2 ≠ 0 ∨ 2 ≤ op.toNat then illegal (.assayReq rs1) s
    else if op = 1 then
      if s.core.csr.mstatus.getLsbD bitSPP then illegal (.assayReq rs1) s
      else
        let t := retire s
        .next { t with core := { t.core with migrate := true } }
    else
      let rib := ribOf s.core.id
      if 16 ≤ ribRequests s rib then .next s
      else
        let cls : BitVec 32 := x.extractLsb' 32 31 |>.setWidth 32
        let r : AssayReq := ⟨if cls = 0 then 0x7FFFFFFF else cls, rib * 16 + (x.extractLsb' 4 4).toNat, true⟩
        .next (retire (assayStart { s with assayQ := s.assayQ ++ [(rib, r)] } rib))

/-- A RUNNING strand on a rib that is not held as a stage min (R50). -/
def aboveMin (s : State) (rib : Nat) (l : Launch) (t : Strand) : Bool :=
  t.core.any (fun n => decide (ribOf n = rib) && keepsCore s n) && decide (t.st = .running)
    && decide (stageMin l t.stage < stageCores s l t.stage)

/-- The strands of the lowest-scoring stage among a rib's that are not held as a stage min (R50). -/
def lowestOnRib (s : State) (k : Nat) (rib : Nat) : List (Launch × Strand) :=
  let all := (runningLaunches s k).flatMap fun l => (l.strands.filter (aboveMin s rib l)).map fun t => (l, t)
  all.filter fun x => all.all fun y => !scoreLt (stageScore y.1 y.2.stage) (stageScore x.1 x.2.stage)

/-- Ask the strand on a core to stop for an assay run. -/
def stopForRun (s : State) (n : Nat) : State := s.mapCoreAt n fun c => { c with stop := some .preempt, gift := none }

/-- A background run of a rib (R50, R393): a core with no strand, or else a strand of the lowest-scoring stage that is not
held as a stage min, which is pre-empted; every class is run. Which of several is taken is a free choice. DESIGN CHOICE (log 128):
a core that serves as an escrow helper is no core with no strand. -/
def backgroundRun (s : State) (rib : Nat) : State :=
  let k := s.partOfCore (rib * 16)
  let free := (upFrom (rib * 16) 16).filter (idleCore s)
  let add (t : State) (n : Nat) : State := { t with draws := t.draws + 1, assayQ := t.assayQ ++ [(rib, ⟨0x7FFFFFFF, n, false⟩)] }
  match free[Config.pick s.draws % max 1 free.length]? with
  | some n => assayStart (add s n) rib
  | none =>
    let low := lowestOnRib s k rib
    match low[Config.pick s.draws % max 1 low.length]? with
    | some x => match x.2.core with
      | some n => stopForRun (add s n) n
      | none => s
    | none => s

/-- ASSAY_CORE_CLAIM (R50): the controller takes a core for the rib's next run. A request's run is for the core it names, and
takes it by R50 (DEDUCED, log 108): when that has no strand, or, once no core of the rib is without one, when its strand is of
the lowest-scoring stage that is not held as a min, which is pre-empted. With no request the controller's background run
takes one. -/
def execAssayCoreClaim (rib : Nat) (s : State) : Host.Outcome State Fault Refusal :=
  if 16 ≤ rib then .next s
  else match s.assayQ.find? fun p => decide (p.1 = rib) with
  | none => .next (backgroundRun s rib)
  | some p =>
    let n := p.2.core
    match (s.coreAt n).strand with
    | none => .next (assayStart s rib)
    | some r =>
      let busy := (upFrom (rib * 16) 16).all fun m => !idleCore s m
      let low := (lowestOnRib s (s.partOfCore n) rib).any fun x => decide (r = ⟨x.1.serial, x.2.stage, x.2.idx⟩)
      .next (if busy && low && !leaving (s.coreAt n).stop then stopForRun s n else s)

/-- A run whose last class is done: RUNS and ASRUN count it, and the core is free (R317, Table 16.2). -/
def endAssay (s : State) (n : Nat) : State :=
  let k := s.partOfCore n
  let runs := assayRunsOf s n + 1
  let s := { s with assayRuns := (n, runs) :: s.assayRuns.filter fun p => decide (p.1 ≠ n) }
  let s := match capRecord s k n with
    | some v => sysStore s k true (v + 8) (natBytes 8 runs)
    | none => s
  bump (s.mapCoreAt n fun c => { c with assay := false }) k ctrAsRun 1

/-- ASSAY_COMPLETE (R314, R315, R317): one class of the run on a core ends; the request leaves the queue with its last. -/
def execAssayComplete (core cls : Nat) (pass : Bool) (s : State) : Host.Outcome State Fault Refusal :=
  let rib := ribOf core
  match s.assayQ.find? fun p => decide (p.1 = rib) with
  | none => .next s
  | some p =>
    if core < 256 ∧ p.2.core = core ∧ (s.coreAt core).assay = true ∧ cls < 31 ∧ p.2.cls.getLsbD cls = true then
      let r := ranClass (assayRec s core cls) pass (s.coreAt core).ctx.snapGen.toNat
      let s := putAssayRec s r
      let s := if !pass && fenceDue r then fenceClass s core cls else s
      let left := p.2.cls &&& ~~~(1#32 <<< cls)
      if left = 0 then
        let s := endAssay s core
        .next { s with assayQ := s.assayQ.eraseP fun q => decide (q.1 = rib) }
      else .next { s with assayQ := updFirst (fun q => decide (q.1 = rib)) (fun q => (q.1, { q.2 with cls := left })) s.assayQ }
    else .next s

end Sys2Proof.Machine
end

