-- ==== Sys2Proof/Machine/Vault.lean ====
section
/-! DEFINITION. The shadow vault (R303): `vault.swap`, its deadline, and the end of a swap out or in. The image of a
strand is its saved context, marked as held in the vault. -/

namespace Sys2Proof.Machine

/-- Cores that hold strands of a partition. -/
def strandCores (s : State) (k : Nat) : List Nat :=
  s.liveCores.filter fun n => decide (s.partOfCore n = k) && (s.coreAt n).strand.isSome

/-- Ask every strand of a partition that holds a core to stop for a swap; a cancellation stop stays what it is, unless
the deadline has passed. -/
def askVault (s : State) (k : Nat) (late : Bool) : State :=
  (strandCores s k).foldl (fun (t : State) n => t.mapCoreAt n fun c =>
    { c with stop := if c.stop = some .cancel ∧ late = false then some .cancel else some .vault }) s

/-- The refusals of R303. -/
def swapRefused (s : State) (x : Word) : Bool :=
  let p := (x.extractLsb' 0 4).toNat
  s.vault.busy || decide (s.nparts ≤ p) || x.extractLsb' 48 16 != 0 || x.extractLsb' 5 11 != 0
    || (x.getLsbD 4 != (s.part p).vaulted)

/-- VAULT_SWAP (R303). -/
def execVaultSwap (rs1 : XReg) (s : State) : Host.Outcome State Fault Refusal :=
  guarded (.vaultSwap rs1) s fun s =>
    let x := s.x rs1
    if swapRefused s x then .next (retire { s with vault := { s.vault with err := true } })
    else
      let p := (x.extractLsb' 0 4).toNat
      let s := retire { s with vault := { s.vault with busy := true, dir := x.getLsbD 4, pidx := p, dl := decide (x.extractLsb' 16 32 ≠ 0), due := false, issuer := if s.pidx = p then some s.core.id else none } }
      if x.getLsbD 4 then .next s
      else .next (askVault (s.mapPart p fun q => { q with vaulted := true }) p false)

/-- VAULT_SWAP_DEADLINE (R303): DL cycles have passed, and every strand not yet stopped stops at its next instruction
boundary; a swap with DL = 0 has no deadline. -/
def execVaultSwapDeadline (s : State) : Host.Outcome State Fault Refusal :=
  if s.vault.busy && s.vault.dl && !s.vault.dir then
    .next (askVault { s with vault := { s.vault with due := true } } s.vault.pidx true)
  else .next s

/-- Engine operations of a partition that the swap waits for. -/
def engineOut (s : State) (k : Nat) : Bool :=
  s.liveCores.any (fun n => (s.coreAt n).copies.any fun o => decide (o.part = k))
    || s.tcmds.any (fun o => decide (o.part = k))
    || s.colls.any (fun o => decide (o.part = k) && o.issued)
    || s.heldStores.any fun h => decide (h.part = k)

/-- Saved contexts of a partition's strands. -/
def savedCtxs (s : State) (k : Nat) : List Ctx := (s.part k).launches.flatMap fun l => l.strands.filterMap fun t => t.saved

/-- Bytes of the image: every context block; the WS's own records have no stated size. -/
def imageBytes (s : State) (k : Nat) : Nat := ((savedCtxs s k).map blockSize).sum

/-- A partition's share of the vault: 192 MiB over the partitions. -/
def vaultShare (s : State) : Nat := 201326592 / s.nparts

/-- Mark the strands of a partition as held in the vault, or not. -/
def markVault (s : State) (k : Nat) (b : Bool) : State :=
  s.mapPart k fun p => { p with
    vaulted := b
    launches := p.launches.map fun l => { l with strands := l.strands.map fun t => { t with vault := b && t.saved.isSome } } }

/-- A cancelled launch's strands exit once they have stopped (R45). -/
def exitCancelled (s : State) (k : Nat) : State :=
  (s.part k).launches.foldl (fun (t : State) l =>
    if l.cancelled && decide (l.st = .admitted) then
      l.strands.foldl (fun (u : State) x => cancelStrand u k ⟨l.serial, x.stage, x.idx⟩ x) t
    else t) s

/-- The swap ends: BUSY clears, and the host is told (R303, Table 17.2). -/
def endSwap (s : State) (err : Bool) : State :=
  let s := { s with vault := { s.vault with busy := false, dl := false, due := false, issuer := none, err := s.vault.err || err } }
  raiseEvent s s.vault.pidx 0 0x0011 (vaultctlOf s) 0

/-- VAULT_SWAP_DONE (R303): the image is written once every strand has stopped and the engine operations are complete, or
the image is restored and freed. An image over the share sets ERR, and the strands resume. -/
def execVaultSwapDone (s : State) : Host.Outcome State Fault Refusal :=
  let k := s.vault.pidx
  if !s.vault.busy then .next s
  else if s.vault.dir then .next (endSwap (markVault s k false) false)
  else if !(strandCores s k).isEmpty || engineOut s k then .next s
  else
    let s := exitCancelled s k
    if vaultShare s < imageBytes s k then .next (endSwap (markVault s k false) true)
    else .next (endSwap (markVault s k true) false)

end Sys2Proof.Machine
end

