-- ==== Sys2Proof/Machine/Snap.lean ====
section
/-! DEFINITION. Snapshots (R51, R353 to R363): adopting a generation, its manifest, the old-colour count, done and sealed,
abandoning, rolling back, and the three instructions. -/

namespace Sys2Proof.Machine

/-! ## The job block and the manifest area (R336, R358) -/

/-- Chips of the job: NCHIP + 1. -/
def jobChips (s : State) (k : Nat) : Nat := ((jobWord s k 0).extractLsb' 32 12).toNat + 1

/-- RET, snapshots retained: 1 to 4. -/
def retained (s : State) (k : Nat) : Nat := min 4 (max 1 ((jobWord s k 56).extractLsb' 0 3).toNat)

/-- Where generation g's manifest lies: the area in RET + 1 equal parts, taken in turn. -/
def manifestRoom (s : State) (k g : Nat) : Nat × Nat :=
  let n := retained s k + 1
  let len := (jobWord s k 32).toNat / n / 64 * 64
  ((jobWord s k 24).toNat / 64 * 64 + g % n * len, len)

/-- The header of a manifest as memory shows it (R358): CLS once a newer generation is adopted. -/
def showManifest (s : State) (k : Nat) (m : Manifest) (prev : Nat) : State :=
  let closed := decide (m.gen ≠ (s.part k).gen)
  let nctx := (m.launches.map fun l => l.strands.length).sum
  let flags := (if m.sealed then 2 else 0) + (if closed then 1 else 0)
  let s := sysTouch s k m.va 64
  match sysAddr s k m.va with
  | none => s
  | some a =>
    devWrite s k a (natBytes 8 m.gen.toNat ++ natBytes 8 prev ++ natBytes 8 m.pages.length ++ natBytes 8 nctx
      ++ natBytes 8 ((m.tables.head?.map fun t => t.2.2).getD 0) ++ natBytes 8 m.ctxva ++ natBytes 8 0 ++ natBytes 8 flags)

/-- Every manifest's header, oldest first, each naming the one before it. -/
def showManifests (s : State) (k : Nat) : State :=
  let ms := (s.part k).manifests
  (ms.zip (0 :: ms.map fun m => m.va)).foldl (fun t p => showManifest t k p.1 p.2) s

/-- Update the manifest of a generation. -/
def State.mapManifest (s : State) (k : Nat) (g : BitVec 32) (f : Manifest → Manifest) : State :=
  s.mapPart k fun p => { p with manifests := updFirst (fun m => decide (m.gen = g)) f p.manifests }

/-- The manifest of a generation. -/
def findManifest (s : State) (k : Nat) (g : BitVec 32) : Option Manifest :=
  (s.part k).manifests.find? fun m => decide (m.gen = g)

/-- The job's links (R337). -/
def jobLinks (s : State) (k : Nat) : List Nat := (s.links.filter fun p => decide (jobEntry s k p.2 ≠ 0)).map Prod.fst

/-- The virtual channels of the job's links (R335). -/
def jobVcs (s : State) (k : Nat) : List (Nat × Nat) := (jobLinks s k).flatMap fun l => (upFrom 0 5).map fun v => (l, v)

/-- A packet of a colour cannot come on a link's virtual channel as the chip stands, since a channel keeps its order (R335,
R339): an old-colour one after the channel's marker, or one of the next generation before that generation's marker. -/
def outOfOrder (s : State) (k link vc : Nat) (col : Bool) : Bool :=
  let p := s.part k
  snapEnabled s k && (if p.taking then p.markers.contains (link, vc) && !newColour s k col
    else decide (col ≠ p.gen.getLsbD 0))

/-! ## The page tables as they stand (R353 step 1) -/

/-- Entry numbers of a table that have any byte. -/
def tableEntries (m : Bytes) (base size : Nat) : List Nat :=
  (cutBytes m base (base + size)).foldl (fun (xs : List Nat) c => addNew xs ((c.1 - base) / 8)) []

/-- The tables reached from one, with its own place and size. -/
def tableRuns (s : State) : Nat → Nat → Nat → List (Nat × Nat)
  | 0, base, size => [(base, size)]
  | n + 1, base, size =>
    (base, size) :: (tableEntries s.mem base size).flatMap fun i =>
      let w : Word := BitVec.ofNat 64 (getLe s.mem (base + 8 * i) 8)
      if w.getLsbD 0 && w.extractLsb' 1 3 == 0 && pointerOk w then
        tableRuns s n ((w.extractLsb' 22 42).toNat * 65536 + (w.extractLsb' 8 8).toNat * 256) 256
      else []

/-- The pieces of a GLOBAL run that lie in one 64 KiB block each: offset and length. -/
def blockPieces (va : Nat) : Nat → Nat → Nat → List (Nat × Nat)
  | 0, _, _ => []
  | n + 1, off, size =>
    if off < size then
      let len := min (size - off) (65536 - (va + off) % 65536)
      (off, len) :: blockPieces va n (off + len) size
    else []

/-- The pieces of the copy of a table. -/
def tablePieces (size va : Nat) : List (Nat × Nat) := blockPieces va (size / 65536 + 2) 0 size

/-- Copy `n` bytes of memory into a partition's manifest area, with the poison they carry (R218). -/
def moveRun (s : State) (k src dst n : Nat) : State :=
  let cells := cutBytes s.mem src (src + n)
  let mem := cells.foldl (fun (t : Bytes) c => setByte t (c.1 - src + dst) c.2) (clearBytes s.mem dst (dst + n))
  let t := copyEcc { s with mem := mem, ecc := s.ecc.filter fun g => !(decide (dst ≤ g.1) && decide (g.1 < dst + n)) } src n dst
  escrowSees (breakResv (paintLines t k true dst n) none dst n) dst n

/-- Copy a table to a GLOBAL address; none where the manifest area does not translate. -/
def copyTable (s : State) (k : Nat) (base size va : Nat) : Option State :=
  (tablePieces size va).foldl (fun (o : Option State) p => o.bind fun t => (sysAddr s k (va + p.1)).map fun a =>
    moveRun t k (base + p.1) a p.2) (some s)

/-- The partition's page tables, each with the GLOBAL address of its copy, the first at `va` (R353). -/
def placeTables (s : State) (k : Nat) (va : Nat) : List (Nat × Nat × Nat) :=
  ((tableRuns s 3 (s.part k).ptroot.toNat 262144).foldl
    (fun (acc : List (Nat × Nat × Nat) × Nat) r => (acc.1 ++ [(r.1, r.2, acc.2)], acc.2 + r.2)) ([], va)).1

/-- Bytes of the partition's page tables. -/
def tableBytes (s : State) (k : Nat) : Nat := ((tableRuns s 3 (s.part k).ptroot.toNat 262144).map Prod.snd).sum

/-! ## Adopting (R353) -/

/-- Abandon the current generation (R359): flooded, with event 0x0021. -/
def abandonGen (s : State) (k : Nat) : State :=
  let g := (s.part k).gen
  let s := abandonAll { s with outMsgs := s.outMsgs ++ [Msg.abandon k g] } k
  raiseEvent s k 0 0x0021 (g.setWidth 64) 0

/-- Ask one strand to cut (R51): in place where it holds no core, at a pre-emption point where it does. -/
def askCut (s : State) (k : Nat) (r : SRef) (t : Strand) : State :=
  match t.core with
  | none => cutSaved s k r
  | some n => s.mapCoreAt n fun c => { c with stop := match c.stop with
    | some w => some w
    | none => some .cut }

/-- Bytes of the context and WS records of launches: 64 for each launch and each strand (DESIGN CHOICE, log 129). -/
def recordBytes (ls : List Launch) : Nat := 64 * (ls.map fun l => 1 + l.strands.length).sum

/-- The chip adopts generation g for a partition's job: the page tables are copied to the end of the manifest's room
(DESIGN CHOICE, log 109), the context and WS records get the room before them (log 129), markers go out on every virtual channel
of the job's links, and the image begins with the launches, strands and collective instances as they stand. An area that is
full or does not translate loses the generation (R359). -/
def adopt (s : State) (k : Nat) (g : BitVec 32) : State :=
  let room := manifestRoom s k g.toNat
  let at_ := (room.1 + room.2 - tableBytes s k) / 256 * 256
  let recs := (at_ - recordBytes (s.part k).launches) / 64 * 64
  let tables := placeTables s k at_
  let m : Manifest :=
    { gen := g
      sealed := false
      va := room.1
      len := recs - room.1
      pages := []
      tables := tables
      ctxva := recs
      launches := (s.part k).launches
      colls := s.colls.filter fun c => decide (c.part = k) }
  let copied := tables.foldl (fun (o : Option State) r => o.bind fun t => copyTable t k r.1 r.2.1 r.2.2) (some s)
  let s := (copied.getD s).mapPart k fun p => { p with
    gen := g
    taking := true
    markers := []
    rolled := none
    manifests := p.manifests ++ [m] }
  let s := showJobState { s with outMsgs := s.outMsgs ++ (jobVcs s k).map fun c => Msg.marker k g c.1 c.2 } k
  if decide (room.2 < 64 + recordBytes m.launches + 64 + tableBytes s k + 256) || copied.isNone then abandonGen s k
  else
    let s := showManifests s k
    (s.part k).launches.foldl (fun (t : State) l =>
      if l.st = .admitted then l.strands.foldl (fun (u : State) x => askCut u k ⟨l.serial, x.stage, x.idx⟩ x) t else t) s

/-- SNAP_BEGIN (R361): where it starts a generation, its own strand cuts at the boundary after it, so it waits for what the
cut waits for (R371). From a handler the cut waits for the strand's own boundary (R369). -/
def execSnapBegin (rd : XReg) (s : State) : Host.Outcome State Fault Refusal :=
  guarded (.snapBegin rd) s fun s =>
    let k := s.pidx
    let p := s.part k
    if !snapEnabled s k then .next (retire (s.setX rd 0))
    else if p.taking then .next (retire (s.setX rd (0x8000000000000000 ||| p.gen.setWidth 64)))
    else if s.core.priv ≠ .user then .next (adopt (retire (s.setX rd ((p.gen + 1).setWidth 64))) k (p.gen + 1))
    else if !saveReady s then .next s
    else cutStrand (adopt (retire (s.setX rd ((p.gen + 1).setWidth 64))) k (p.gen + 1))

/-- STITCH_MARKER (R353, R357): a marker for a newer generation is adopted and forwarded; one for the generation held is
noted by its link and virtual channel. -/
def execStitchMarker (part : Nat) (gen : BitVec 32) (on : OnLink Nat) (s : State) : Host.Outcome State Fault Refusal :=
  if s.nparts ≤ part ∨ snapEnabled s part = false then .next s
  else
    let note (t : State) : State := t.mapPart part fun p => { p with
      markers := if p.markers.contains (on.link, on.msg) then p.markers else p.markers ++ [(on.link, on.msg)] }
    if (s.part part).gen < gen then .next (note (adopt s part gen))
    else if (s.part part).gen = gen then .next (note s)
    else .next s

/-! ## The old-colour count (R354, Table 16.2) -/

/-- Old-colour operations of a partition that are outstanding, with its old-colour packets that have not landed. -/
def oldOps (s : State) (k : Nat) : Nat :=
  let old (part : Nat) (c : Bool) : Bool := decide (part = k) && !newColour s k c
  ((s.liveCores.map fun n => ((s.coreAt n).copies.filter fun o => old o.part o.colour).length).sum)
    + (s.tcmds.filter fun o => old o.part o.colour).length
    + ((s.colls.filter fun o => o.issued && old o.part o.colour).map fun o => 1 + (o.outbox.filter fun r => !r.sent).length).sum
    + (s.heldStores.filter fun h => old h.part h.colour).length
    + (s.flights.filter fun f => old f.by_.part f.by_.colour).length

/-- OCO: chip-wide. -/
def ocoOf (s : State) : Nat := ((upFrom 0 s.nparts).map (oldOps s)).sum

/-- The counter blocks show OCO as it stands (Table 16.2). -/
def showOco (s : State) : State :=
  let n := ocoOf s
  (upFrom 0 s.nparts).foldl (fun (t : State) k =>
    let a := Config.commonsBase + counterBlock t k
    if getLe t.mem a 8 = n then t else devWrite t k a (natBytes 8 n)) s

/-! ## Done and sealed (R357, R359) -/

/-- Every strand of a partition has cut. -/
def allCut (s : State) (k : Nat) : Bool :=
  (s.part k).launches.all fun l => l.strands.all fun t => decide (t.st = .exited) || (strandCtx s t).all fun c => !uncut (s.part k) c

/-- Drop the oldest sealed manifests beyond RET (R359). -/
def dropOldest (s : State) (k : Nat) : Nat → State
  | 0 => s
  | n + 1 =>
    let held := (s.part k).manifests.filter fun m => m.sealed
    if held.length ≤ retained s k then s
    else match held with
      | m :: _ => dropOldest (dropManifest s k m) k n
      | [] => s

/-- DONE messages held for a generation. -/
def donesFor (s : State) (k : Nat) (g : BitVec 32) : Nat := ((s.part k).doneMsgs.filter fun p => decide (p.1 = g)).length

/-- Seal the generation once DONE from every chip of the job is held (R357). -/
def trySeal (s : State) (k : Nat) : State :=
  let p := s.part k
  if p.taking ∧ jobChips s k ≤ donesFor s k p.gen then
    let s := s.mapManifest k p.gen fun m => { m with sealed := true }
    let s := showJobState (s.mapPart k fun q => { q with sealed := p.gen, taking := false }) k
    let s := raiseEvent (showManifests s k) k 0 0x0020 (p.gen.setWidth 64) 0
    dropOldest s k (p.manifests.length + 1)
  else s

/-- Note a DONE message. -/
def noteDone (s : State) (k : Nat) (g : BitVec 32) (chip : BitVec 12) : State :=
  s.mapPart k fun p => { p with doneMsgs := p.doneMsgs ++ [(g, chip)] }

/-- The chip writes its context records and the WS's launches and scores into a generation's manifest (R357): free bytes, since
R358 gives the records no layout (log 129); the image takes the scores as they stand. -/
def writeRecords (s : State) (k : Nat) (g : BitVec 32) : State :=
  match findManifest s k g with
  | none => s
  | some m =>
    let scored (l : Launch) : Launch := match findLaunch s k l.serial with
      | some x => { l with stages := (l.stages.zip x.stages).map fun d => { d.1 with score := d.2.score, scoreDen := d.2.scoreDen } }
      | none => l
    let s := s.mapManifest k g fun m => { m with launches := m.launches.map scored }
    (tablePieces (recordBytes m.launches) m.ctxva).foldl (fun (t : State) p =>
      let t := sysTouch t k (m.ctxva + p.1) p.2
      match sysAddr t k (m.ctxva + p.1) with
      | some a => devWrite { t with draws := t.draws + p.2 } k a ((upFrom (t.draws + 1) p.2).map Config.freeByte)
      | none => t) s

/-- CHIP_DONE (R357): every strand has cut, OCO is 0 and the marker has come on every virtual channel of every job link; the
records are written, and DONE is flooded. -/
def execChipDone (part : Nat) (s : State) : Host.Outcome State Fault Refusal :=
  let p := s.part part
  if part < s.nparts ∧ p.taking = true ∧ allCut s part = true ∧ ocoOf s = 0
      ∧ ((jobVcs s part).all fun c => p.markers.contains c) = true
      ∧ p.doneMsgs.contains (p.gen, s.chip) = false then
    let s := writeRecords s part p.gen
    let s := noteDone { s with outMsgs := s.outMsgs ++ [Msg.done part p.gen s.chip] } part p.gen s.chip
    .next (trySeal s part)
  else .next s

/-- DONE_MESSAGE (R357): each is held and forwarded once. -/
def execDoneMessage (part : Nat) (gen : BitVec 32) (chip : BitVec 12) (s : State) : Host.Outcome State Fault Refusal :=
  if s.nparts ≤ part ∨ (s.part part).doneMsgs.contains (gen, chip) = true then .next s
  else .next (trySeal (noteDone { s with outMsgs := s.outMsgs ++ [Msg.done part gen chip] } part gen chip) part)

/-- ABANDON_MESSAGE (R359): manifest G and every retained image are lost; the message is passed on. A chip that has adopted a
newer generation goes on with it. -/
def execAbandonMessage (part : Nat) (gen : BitVec 32) (s : State) : Host.Outcome State Fault Refusal :=
  let p := s.part part
  let lost := p.manifests.filter fun m => m.sealed || decide (m.gen = gen)
  if s.nparts ≤ part ∨ lost.isEmpty = true then .next s
  else if p.gen = gen then .next (abandonGen s part)
  else
    let s := lost.foldl (fun t m => dropManifest t part m) { s with outMsgs := s.outMsgs ++ [Msg.abandon part gen] }
    .next (raiseEvent s part 0 0x0021 (gen.setWidth 64) 0)

/-! ## Rollback (R360) -/

/-- Split a list into runs of k. -/
def runsOf {α : Type} (k : Nat) : Nat → List α → List (List α)
  | 0, _ => []
  | n + 1, xs => if xs.isEmpty then [] else xs.take k :: runsOf k n (xs.drop k)

/-- The bytes of a chunk of 1,024 words; `elide` is CMP 3. -/
def chunkBytes (elide : Bool) (ws : List Nat) : List Byte :=
  let ws := ws ++ List.replicate (1024 - ws.length) 0
  let raw := ws.flatMap (natBytes 4)
  let live := ws.filter fun w => decide (w ≠ 0)
  let nz := live.length
  let head (kind : Byte) := [kind, 0] ++ natBytes 2 nz ++ [0, 0, 0, 0] ++ natBytes 8 (crc64 raw).toNat
  if elide && decide (nz < 988) then
    let bits := (runsOf 8 128 ws).map fun b => BitVec.ofNat 8 (b.foldr (fun w acc => (if w = 0 then 0 else 1) + 2 * acc) 0)
    head 1 ++ bits ++ live.flatMap (natBytes 4)
  else head 0 ++ raw

/-- Where a run of a collective goes: the next member of the ring, or the block's member for all-to-all (R347). -/
def Coll.target (c : Coll) (seg : Nat) : Nat :=
  c.shape.chips.getD (if c.shape.op = 3 then seg else (c.rank + 1) % c.shape.chips.length) 0

/-- One chunk of an instance as a message, in its colour (R354). The segment it names is the sender's block for
all-to-all. -/
def Coll.message (c : Coll) (r : ChunkRec) : Msg :=
  .chunk c.part (c.target r.seg)
    { tag := c.tag
      shape := c.shape
      seg := if c.shape.op = 3 then c.rank else r.seg
      final := r.final
      first := r.first
      bytes := chunkBytes (decide (c.shape.cmp = 3)) r.words
      err := .none
      poison := r.poison
      ends := false
      colour := c.colour }

/-- The chunks of an instance that are recorded as unsent (R352). -/
def Coll.unsent (c : Coll) : List Msg := (c.outbox.filter fun r => !r.sent).map c.message

/-- Put a page's copy back where the page lies, with the poison it carries (R218, R359). -/
def restorePage (s : State) (r : PageRec) : State :=
  let cells := cutBytes s.mem r.copy (r.copy + r.size)
  let mem := cells.foldl (fun (t : Bytes) c => setByte t (c.1 - r.copy + r.base) c.2) (clearBytes s.mem r.base (r.base + r.size))
  copyEcc { s with mem := mem, ecc := s.ecc.filter fun g => !(decide (r.base ≤ g.1) && decide (g.1 < r.base + r.size)) }
    r.copy r.size r.base

/-- The bytes of a manifest's page tables, by the addresses they go back to; a copy that no longer translates gives none. -/
def tableImage (s : State) (k : Nat) (m : Manifest) : List (Nat × Nat × Bytes) :=
  m.tables.flatMap fun r => (tablePieces r.2.1 r.2.2).filterMap fun p => (sysAddr s k (r.2.2 + p.1)).map fun a =>
    (r.1 + p.1, p.2, (cutBytes s.mem a (a + p.2)).map fun c => (c.1 - a + (r.1 + p.1), c.2))

/-- Put a run of a page table back. -/
def restoreTable (s : State) (t : Nat × Nat × Bytes) : State :=
  { s with mem := t.2.2.foldl (fun (m : Bytes) c => setByte m c.1 c.2) (clearBytes s.mem t.1 (t.1 + t.2.1)) }

/-- The pages of a manifest are SPLIT for it (R355). -/
def remark (s : State) (k : Nat) (m : Manifest) : State :=
  m.pages.foldl (fun (t : State) r =>
    let pte := if isCommons r.base then none else match walk t k (r.pva.toNat / 65536 * 65536) with
      | .leaf a _ _ _ => some a
      | .fault | .access | .poison _ => none
    if isCommons r.base || pte.isSome then markPage t k r.base pte (some m.gen.toNat) else t) s

/-- Step 1: the partition's strands leave their cores, and its engine operations are dropped. -/
def stopAll (s : State) (k : Nat) : State :=
  let s := (s.liveCores.filter fun n => decide (s.partOfCore n = k)).foldl (fun (t : State) n =>
    t.mapCoreAt n fun c =>
      let c := { c with copies := c.copies.filter fun o => decide (o.part ≠ k), helperOf := none }
      if c.strand.isSome then c.idle else c) s
  { s with
    tcmds := s.tcmds.filter fun o => decide (o.part ≠ k)
    colls := s.colls.filter fun o => decide (o.part ≠ k)
    heldStores := s.heldStores.filter fun h => decide (h.part ≠ k)
    flights := s.flights.filter fun f => decide (f.by_.part ≠ k) }

/-- A strand of an image as it comes back: READY, with ROLLBACK_ENTRY pending. A slot its wait had taken is still its own. -/
def Strand.rolled (t : Strand) (g : BitVec 32) : Strand :=
  if t.st = .exited then t
  else { t with
    st := .ready
    core := none
    vault := false
    wait := none
    waited := 0
    held := 0
    saved := t.saved.map fun c => { c.cutTo g with rbEntry := some g } }

/-- Write the context blocks of an image's strands again (R371). -/
def rewriteBlocks (s : State) (k : Nat) : State :=
  (s.part k).launches.foldl (fun (t : State) l => l.strands.foldl (fun (u : State) x =>
    match x.slot, x.saved with
    | some n, some c => (writeBlock u k true (slotVa u k n) c).getD u
    | some _, none => u
    | none, _ => u) t) s

/-- Roll a partition back to a sealed generation. -/
def rollback (s : State) (k : Nat) (m : Manifest) : State :=
  let tables := tableImage s k m
  let s := stopAll s k
  let newer := (s.part k).manifests.filter fun n => decide (m.gen < n.gen)
  let s := (m :: newer).reverse.foldl (fun (t : State) n => n.pages.foldl restorePage t) s
  let s := newer.foldl (fun (t : State) n => dropManifest t k n) s
  let s := tables.foldl restoreTable s
  let s := remark s k m
  let s := s.mapPart k fun p => { p with
    tlb := []
    gen := m.gen
    sealed := m.gen
    taking := false
    markers := []
    mints := []
    doneMsgs := p.doneMsgs.filter fun d => decide (d.1 ≤ m.gen)
    vaulted := false
    launches := m.launches.map fun l => { l with strands := l.strands.map fun t => t.rolled m.gen } }
  let s := rewriteBlocks { s with colls := s.colls ++ m.colls, outMsgs := s.outMsgs ++ m.colls.flatMap Coll.unsent } k
  raiseEvent (showManifests (showJobState s k) k) k 0 0x0022 (m.gen.setWidth 64) 0

/-- The manifest a rollback may name: sealed and retained, with SNEN set (R363). -/
def rollbackTo (s : State) (k : Nat) (g : BitVec 32) : Option Manifest :=
  if snapEnabled s k then (findManifest s k g).filter fun m => m.sealed else none

/-- Note the generation a partition has rolled back to, and the links its message has come on. -/
def noteRolled (s : State) (k : Nat) (g : BitVec 32) (links : List Nat) : State :=
  s.mapPart k fun p => { p with rolled := some (g, links) }

/-- SNAP_ROLLBACK (R363). A strand of the partition in whose handler it runs stops with the others. -/
def execSnapRollback (rs1 : XReg) (s : State) : Host.Outcome State Fault Refusal :=
  guarded (.snapRollback rs1) s fun s =>
    let k := s.pidx
    match rollbackTo s k (lo32 (s.x rs1)) with
    | none => illegal (.snapRollback rs1) s
    | some m =>
      let t := retire s
      .next (noteRolled (rollback { t with outMsgs := t.outMsgs ++ [Msg.rollback k m.gen] } k m) k m.gen [])

/-- ROLLBACK_MESSAGE (R360): a chip acts once on the flood of one rollback, whose message comes once on each link. DESIGN CHOICE
(log 130): a message for the same generation on a link it has come on already is that of a later rollback. -/
def execRollbackMessage (part : Nat) (m : OnLink (BitVec 32)) (s : State) : Host.Outcome State Fault Refusal :=
  let gen := m.msg
  if s.nparts ≤ part then .next s
  else match rollbackTo s part gen with
    | none => .next s
    | some x =>
      match (s.part part).rolled.filter fun r => decide (r.1 = gen) && !r.2.contains m.link with
      | some r => .next (noteRolled s part gen (m.link :: r.2))
      | none => .next (noteRolled (rollback { s with outMsgs := s.outMsgs ++ [Msg.rollback part gen] } part x) part gen [m.link])

/-! ## snap.stat (R362) -/

/-- The state of a generation on this chip. -/
def snapState (s : State) (k : Nat) (g : BitVec 32) : Nat :=
  match findManifest s k g with
  | none => 0
  | some m => if m.sealed then 2 else if (s.part k).taking && decide ((s.part k).gen = g) then 1 else 0

/-- SNAP_STAT (R362). -/
def execSnapStat (rs1 rd : XReg) (s : State) : Host.Outcome State Fault Refusal :=
  guarded (.snapStat rs1 rd) s fun s =>
    let k := s.pidx
    let g := if s.x rs1 = 0 then (s.part k).gen else lo32 (s.x rs1)
    .next (retire (s.setX rd (BitVec.ofNat 64
      (g.toNat * 2 ^ 32 + donesFor s k g % 65536 * 65536 + snapState s k g))))

end Sys2Proof.Machine
end

