-- ==== Sys2Proof/WellFormed.lean ====
section
/-! DEFINITION. Well-formedness: the ranges that R94 and Table 4.3 to Table 4.6 give the fields, and the ranges of
the numbers that name an agent (R31, Table 2.1). The checks are about the instruction as syntax. -/

namespace Sys2Proof

/-- The check as a decision. -/
def Instr.wf (i : Instr) : Bool :=
  match i with
  | .baseAlu _
  | .baseBranchJump _
  | .baseLoad _ _ _ _
  | .baseStore _ _ _ _
  | .baseAmo _ _ _ _ _ _ _
  | .baseLr _ _ _ _ _
  | .baseSc _ _ _ _ _ _
  | .fence _ _ _ _ _
  | .fenceI _ _ _
  | .ecall
  | .ebreak
  | .wfi
  | .sret
  | .mret => true
  | .csrWrite _ csr _ _ => decide (csr ≠ csrVl ∧ csr ≠ csrVxflags ∧ csr ≠ csrPtroot ∧ csr ≠ csrMip ∧ csr ≠ csrSip ∧ csr ≠ csrPcfg)
  | .vlWrite _ _ _
  | .vxflagsWrite _ _ _
  | .ptrootWrite _ _ _ => true
  | .partitionSetup op src _ => decide (pcfgProfOnly op src = false)
  | .profileEnableWrite op src _ => decide (pcfgProfOnly op src = true)
  | .assayNoticeClear _ _ _ _ => true
  | .capWrite core _ => decide (core < 272)
  | .loop i _ l => decide (i ≠ 0 ∧ l.toNat < 6)
  | .lexit l => decide (l.toNat < 6)
  | .lsave _
  | .lrest _ => true
  | .lrd sel _ => decide (sel.toNat < 24)
  | .escOpen _
  | .escCmp _
  | .escClose
  | .escRet
  | .escAbort
  | .escStat _
  | .guessRoutineEnd => true
  | .escrowHelperJoin core => decide (core < 256)
  | .escrowHelperReclaim core => decide (core < 256)
  | .escrowConflictSquash _ _
  | .escrowDeferredResume
  | .vdecl _ => true
  | .vsetl w _ _ => decide (w.toNat < 5)
  | .vtag _ _
  | .vtagrd _ _
  | .dset _ _ _
  | .dflip _
  | .dscale _ _ _
  | .dshape _ _
  | .kalloc _ _
  | .kfree _
  | .kzero _
  | .vsrseed _
  | .atabld _ _
  | .cpy _ _ _ _
  | .cpys _ _ _ _
  | .cpyv _ _ _ _
  | .cpyvs _ _ _ _
  | .ctile _ _ _ _
  | .cring _ _ _ _ => true
  | .cpyvElementLand pos elem => decide (pos < 4 ∧ elem < 65536)
  | .copyComplete pos => decide (pos < 4)
  | .overdraft => true
  | .cringReserve pos => decide (pos < 4)
  | .tadd _ _ _ _
  | .tmin _ _ _ _
  | .tmax _ _ _ _
  | .tand _ _ _ _
  | .tor _ _ _ _
  | .txchg _ _ _ _
  | .tcas _ _ _ _
  | .tcmd _ _ _
  | .tcmdComplete _
  | .pset _ _
  | .pwait _ _
  | .ptest _ _
  | .rres _ _
  | .rpub _ _
  | .racq _ _
  | .rrel _ _
  | .rocc _ _
  | .bar _ _ _
  | .wqpost _ _ _
  | .lvlwait _ _
  | .lvlcancel _
  | .sexit
  | .syield
  | .snapBegin _
  | .snapStat _ _
  | .snapRollback _
  | .mint _ _
  | .mintResult
  | .assayReq _
  | .evt _
  | .cho _ _ _
  | .tlbinv _ _
  | .invalidationPort _ _
  | .vaultSwap _
  | .hint
  | .vxget _ _ _ _
  | .srqDeliver
  | .vxput _ _ _
  | .vmpop _ _ _
  | .vmfirst _ _ _
  | .vmrd _ _ _ _ => true
  | .qfence scope => decide (scope.toNat < 4)
  | .efence scope => decide (scope.toNat < 4)
  | .kfence
  | .vldUnit _ _ _ _
  | .vldStrided _ _ _ _ _
  | .vldIndexed _ _ _ _ _
  | .vstUnit _ _ _ _
  | .vstStrided _ _ _ _ _
  | .vstIndexed _ _ _ _ _
  | .vldffUnit _ _ _ _
  | .vldffStrided _ _ _ _ _
  | .vldffIndexed _ _ _ _ _
  | .vlwin _ _ _ _ _
  | .vstc _ _ _ _
  | .vqldUnit _ _
  | .vqldStrided _ _ _
  | .vqstUnit _ _
  | .vqstStrided _ _ _
  | .vmld _ _
  | .vmst _ _ _
  | .vldr _ _
  | .vstr _ _ _
  | .vtadd _ _ _ _ _
  | .vtmin _ _ _ _ _
  | .vtmax _ _ _ _ _
  | .vkld _ _
  | .vkst _ _
  | .vaddVv _ _ _ _ _
  | .vaddVx _ _ _ _ _
  | .vaddVi _ _ _ _ _
  | .vsubVv _ _ _ _ _
  | .vsubVx _ _ _ _ _
  | .vsubVi _ _ _ _ _
  | .vmulVv _ _ _ _ _
  | .vmulVx _ _ _ _ _
  | .vmulVi _ _ _ _ _
  | .vmacVv _ _ _ _ _
  | .vmacVx _ _ _ _ _
  | .vmacVi _ _ _ _ _
  | .vminVv _ _ _ _ _
  | .vminVx _ _ _ _ _
  | .vminVi _ _ _ _ _
  | .vmaxVv _ _ _ _ _
  | .vmaxVx _ _ _ _ _
  | .vmaxVi _ _ _ _ _
  | .vandVv _ _ _ _ _
  | .vandVx _ _ _ _ _
  | .vandVi _ _ _ _ _
  | .vorVv _ _ _ _ _
  | .vorVx _ _ _ _ _
  | .vorVi _ _ _ _ _
  | .vxorVv _ _ _ _ _
  | .vxorVx _ _ _ _ _
  | .vxorVi _ _ _ _ _
  | .vshlVv _ _ _ _ _
  | .vshlVx _ _ _ _ _
  | .vshlVi _ _ _ _ _
  | .vshrVv _ _ _ _ _
  | .vshrVx _ _ _ _ _
  | .vshrVi _ _ _ _ _
  | .vdivVv _ _ _ _ _
  | .vdivVx _ _ _ _ _
  | .vdivVi _ _ _ _ _ => true
  | .vcmpVv _ _ _ _ d _ => decide (d ≠ 0)
  | .vcmpVx _ _ _ _ d _ => decide (d ≠ 0)
  | .vcmpVi _ _ _ _ d _ => decide (d ≠ 0)
  | .vmergeVv _ _ _ _ _
  | .vmergeVx _ _ _ _ _
  | .vmergeVi _ _ _ _ _
  | .vpermGather _ _ _ _ _
  | .vpermSlideVx _ _ _ _ _
  | .vpermSlideVi _ _ _ _ _
  | .vslideupVx _ _ _ _ _ => true
  | .vslideupVi _ imm _ _ _ => decide (imm.toNat < 16)
  | .vmov _ _ _ _
  | .vneg _ _ _ _
  | .vabs _ _ _ _
  | .vnot _ _ _ _
  | .vsqrt _ _ _ _
  | .vrsqrt _ _ _ _
  | .vrcp _ _ _ _
  | .vexp2 _ _ _ _
  | .vlog2 _ _ _ _
  | .vsin _ _ _ _
  | .vcos _ _ _ _
  | .vtanh _ _ _ _
  | .vsigm _ _ _ _
  | .vfloor _ _ _ _
  | .vceil _ _ _ _
  | .vrnd _ _ _ _
  | .vclz _ _ _ _
  | .vpopc _ _ _ _
  | .vid _ _ _
  | .vbcast _ _ _ _
  | .vclass _ _ _ _
  | .vcvt _ _ _ _
  | .vcvtRz _ _ _ _
  | .vcvtSr _ _ _ _
  | .vcvtSat _ _ _ _
  | .vquant _ _ _ _
  | .vredsum _ _ _ _
  | .vredsumt _ _ _ _
  | .vredmax _ _ _ _
  | .vredmin _ _ _ _
  | .vredand _ _ _ _
  | .vredor _ _ _ _
  | .vredxor _ _ _ _
  | .vcompress _ _ _ _
  | .vexpand _ _ _ _
  | .vmidx _ _ _
  | .vrev _ _ _ _
  | .vtr8 _ _ _ _
  | .mand _ _ _ _
  | .mor _ _ _ _
  | .mxor _ _ _ _
  | .mandn _ _ _ _
  | .mnot _ _ _
  | .mbf _ _ _
  | .mif _ _ _
  | .msof _ _ _
  | .mset _
  | .mclr _
  | .vmomu _ _ _ _
  | .dmac _ _ _ _ _
  | .dmsc _ _ _ _ _
  | .dmm _ _ _ _ _
  | .dop _ _ _ _ _
  | .kin _ _ _
  | .kadd _ _
  | .dout _ _ _ _
  | .doutQ _ _ _ _
  | .doutA _ _ _ _
  | .doutAq _ _ _ _
  | .doutB _ _ _ _
  | .doutBq _ _ _ _
  | .doutBa _ _ _ _
  | .doutBaq _ _ _ _
  | .stashCopyDone _
  | .cableEntryComplete
  | .viqExecute
  | .vectorFault
  | .vldffComplete => true
  | .latepf elem => decide (elem < 65536)
  | .storeAck
  | .trapEntry _ _
  | .preempt _
  | .rollbackEntry => true
  | .tellerRemap bank => decide (bank < 1024)
  | .tellerRequest _ => true
  | .hostTailWrite part q _ => decide (part < 16 ∧ q < 16384)
  | .wsTakeRecord part q => decide (part < 16 ∧ q < 16384)
  | .launchAdmit _
  | .markerComplete _
  | .launchComplete _
  | .dependenceRelease _
  | .levelCancelStore _ _ => true
  | .placeStrand _ stage idx => decide (stage < 256 ∧ idx < 512)
  | .reallocationIntervalEnd part => decide (part < 16)
  | .preemption
  | .forcedPreemption
  | .park => true
  | .waitSatisfied _ stage idx => decide (stage < 256 ∧ idx < 512)
  | .placementEvent _
  | .pipelineStallEvent _ => true
  | .ringProducerLeave part _ => decide (part < 16)
  | .assayCoreClaim rib => decide (rib < 16)
  | .assayComplete core cls _ => decide (core < 256 ∧ cls < 31)
  | .vaultSwapDeadline
  | .vaultSwapDone => true
  | .stitchMarker part _ on => decide (part < 16 ∧ on.link < 26 ∧ on.msg < 5)
  | .strandCut
  | .consumeFirstCut => true
  | .chipDone part => decide (part < 16)
  | .doneMessage part _ _ => decide (part < 16)
  | .abandonMessage part _ => decide (part < 16)
  | .rollbackMessage part m => decide (part < 16 ∧ m.link < 26)
  | .peerRequest m => decide (m.link < 26)
  | .chunkReceive m => decide (m.link < 26)
  | .collectiveComplete _
  | .collectiveTimeout _
  | .scrubGranule _ _
  | .wearRowCopy _ _ => true
  | .linkCalibration link => decide (link < 26)
  | .telemetrySample _ _
  | .clockStepDown
  | .clockStepUp
  | .thermalShutdown => true
  | .dbell part => decide (part < 16)
  | .mailboxSetTdp part => decide (part < 16)
  | .mailboxAttest part => decide (part < 16)
  | .mailboxReadMeasurements part => decide (part < 16)
  | .powerOnBoot _
  | .hostWrite _ _ => true
  | .jobBlockWrite part _ _ => decide (part < 16)
  | .dirtyLineWriteBack _
  | .chunkLandingAck _ _ => true

/-- The instruction's fields are in range. -/
abbrev Instr.WellFormed (i : Instr) : Prop := i.wf = true

end Sys2Proof
end

