-- ==== Sys2Proof/Machine/Mint.lean ====
section
/-! DEFINITION. Minting (R312, R375 to R377, R381 to R385): the checks of an image in their order, sealing it, removing a
sealed object, and `mint` with the clerk core's result. -/

namespace Sys2Proof.Machine

/-- The first number from i on, of n, that fails a test. -/
def firstBad (ok : Nat → Bool) : Nat → Nat → Option Nat
  | 0, _ => none
  | n + 1, i => if ok i then firstBad ok n (i + 1) else some i

/-- A failed mint's value (R382). -/
def mintFail (info code : Nat) : Word := BitVec.ofNat 64 (2 ^ 63 + info % 2 ^ 47 * 65536 + code)

/-- A request (R381). -/
structure MintReq where
  base : Nat
  len : Nat
  rem : Bool
  resv : Bool
  prof : Nat
  rhnd : Word
  deriving DecidableEq, Repr

/-- Read a request from its four words. -/
def mintReqOf (ws : List Word) : MintReq where
  base := (ws.getD 0 0).toNat
  len := (ws.getD 1 0).toNat
  rem := (ws.getD 2 0).getLsbD 63
  resv := (ws.getD 2 0).extractLsb' 4 59 != 0
  prof := ((ws.getD 2 0).extractLsb' 0 4).toNat
  rhnd := ws.getD 3 0

/-! ## Pages (R382 step 1) -/

/-- A frame of a sealed object's data region, of any partition (R382). -/
def frameData (s : State) (a : Nat) : Bool := s.parts.any fun p => p.objs.any fun o => decide (a / 65536 ∈ o.dataFrames)

/-- The leaf of a page and its frame number in the physical space, where it may be minted. -/
def mintPage (s : State) (k va : Nat) : Option (Nat × Word × Nat) :=
  if Config.windowBase ≤ va then none
  else match walk s k va with
    | .leaf pte w base _ =>
      let a := (if leafLoc w = 1 then Config.tier2Base else 0) + leafFrame w * 65536 + (va - base)
      if w.getLsbD 4 && w.getLsbD 1 && w.getLsbD 2 && !leafBad w && decide (leafLoc w = 0 ∨ leafLoc w = 1)
          && physOk a 65536 && !frameProtected s a && !frameData s a then some (pte, w, a / 65536) else none
    | .fault | .access | .poison _ => none

/-- Pages of an image, by 64 KiB. -/
def mintPages (q : MintReq) : Nat := (q.len + 65535) / 65536

/-- Step 1: the offset of the first page that fails. -/
def mintStep1 (s : State) (k : Nat) (q : MintReq) : Option Nat :=
  (firstBad (fun i => (mintPage s k (q.base + 65536 * i)).isSome) (mintPages q) 0).map fun i => 65536 * i

/-! ## Header and tables (R375 to R377) -/

/-- The n-byte number at an image offset. -/
def imgLe (s : State) (k : Nat) (q : MintReq) (off n : Nat) : Nat := sysLe s k (q.base + off) n

/-- What the header says. -/
structure Head where
  toff : Nat
  tlen : Nat
  coff : Nat
  clen : Nat
  doff : Nat
  dlen : Nat
  nstg : Nat
  stg : Nat
  nsym : Nat
  sym : Nat
  nrel : Nat
  rel : Nat
  ngot : Nat
  got : Nat
  nimp : Nat
  imp : Nat
  prof : Nat
  pver : Nat
  deriving DecidableEq, Repr

/-- Read the header. -/
def headOf (s : State) (k : Nat) (q : MintReq) : Head :=
  let r (off : Nat) := imgLe s k q off 4
  { toff := r 32, tlen := r 36, coff := r 40, clen := r 44, doff := r 48, dlen := r 52
    stg := r 56, nstg := r 60, sym := r 64, nsym := r 68, rel := r 72, nrel := r 76
    got := r 80, ngot := r 84, imp := r 88, nimp := r 92, prof := r 8 % 16, pver := r 12 }

/-- A table of n records of a size lies in the head, after the header; an empty one lies nowhere. -/
def inHead (h : Head) (off n size : Nat) : Bool :=
  decide (n = 0) || decide (128 ≤ off) && decide (off + n * size ≤ h.toff) && decide (off % 8 = 0)

/-- The header's checks in the order of its words: the offset of the first that fails. -/
def headBadAt (s : State) (k : Nat) (q : MintReq) (h : Head) : Option Nat :=
  let w (off : Nat) := imgLe s k q off 8
  let region (off len next : Nat) : Bool := decide (off % 65536 = 0) && decide (off + 65536 ≤ next) && decide (off + len ≤ next)
  let checks : List (Nat × Bool) :=
    [(0, decide (w 0 = 2 ^ 32 + 0x474F5645)),
     (8, decide (w 8 % 2 ^ 32 < 16)),
     (16, decide (w 16 % 65536 = 0)),
     (24, decide (w 24 = q.len)),
     (32, decide (65536 ≤ h.toff) && region h.toff h.tlen h.coff && decide (h.tlen % 4 = 0)),
     (40, region h.coff h.clen h.doff),
     (48, region h.doff h.dlen q.len),
     (56, decide (1 ≤ h.nstg) && decide (h.nstg ≤ 16) && inHead h h.stg h.nstg 32),
     (64, inHead h h.sym h.nsym 16),
     (72, inHead h h.rel h.nrel 16),
     (80, decide (h.ngot = 0) || (decide (h.coff ≤ h.got) && decide (h.got + 8 * h.ngot ≤ h.doff) && decide (h.got % 8 = 0))),
     (88, decide (h.nimp ≤ 16) && inHead h h.imp h.nimp 16),
     (96, decide (w 96 = 0) && decide (w 104 = 0) && decide (w 112 = 0) && decide (w 120 = 0))]
  (checks.find? fun c => !c.2).map Prod.fst

/-- A name ends with a NUL in the head (R377). -/
def nameGood (s : State) (k : Nat) (q : MintReq) (h : Head) (off : Nat) : Bool :=
  (firstBad (fun i => decide (imgLe s k q i 1 ≠ 0)) (h.toff - off) off).isSome

/-- A stage-table entry is well formed (R376). -/
def stageGood (s : State) (k : Nat) (q : MintReq) (h : Head) (a : Nat) : Bool :=
  let w0 := imgLe s k q a 8
  let w1 := imgLe s k q (a + 8) 8
  let w2 := imgLe s k q (a + 16) 8
  decide (w0 / 2 ^ 32 < h.nsym) && decide (w0 % 4 = 0) && decide (w1 % 2 ^ 32 < 16) && decide (w1 % 4 ≠ 3)
    && decide (1 ≤ w1 / 2 ^ 32 % 65536) && decide (w1 / 2 ^ 32 % 65536 ≤ w1 / 2 ^ 48) && decide (w1 / 2 ^ 48 ≤ 256)
    && decide (w2 % 2 ^ 32 ≤ 32768) && decide (w2 / 2 ^ 32 % 64 = 0) && decide (w2 / 2 ^ 32 ≤ 262144)

/-- A symbol is well formed (R377). -/
def symGood (s : State) (k : Nat) (q : MintReq) (h : Head) (a : Nat) : Bool :=
  let v := imgLe s k q a 8
  let w := imgLe s k q (a + 8) 8
  let und := decide (w / 2 ^ 40 % 2 = 1)
  nameGood s k q h (w % 2 ^ 32) && decide (w / 2 ^ 32 % 256 ≤ 3) && decide (w / 2 ^ 42 % 64 = 0)
    && (if und then decide (v = 0) && decide (w / 2 ^ 48 < h.nimp) else decide (v ≤ q.len) && decide (w / 2 ^ 48 = 0))

/-- A relocation is well formed (R377, R379). -/
def relGood (s : State) (k : Nat) (q : MintReq) (h : Head) (a : Nat) : Bool :=
  let w := imgLe s k q a 8
  let x := imgLe s k q (a + 8) 8
  let off := w % 2 ^ 32
  let ty := w / 2 ^ 32 % 256
  decide (w / 2 ^ 40 = 0) && decide (x < h.nsym) && decide (1 ≤ ty) && decide (ty ≤ 8)
    && (if ty = 1 then decide (h.coff ≤ off) && decide (off + 8 ≤ q.len)
        else decide (h.toff ≤ off) && decide (off + 4 ≤ h.toff + h.tlen) && decide (off % 4 = 0))

/-- An import is well formed (R377). -/
def impGood (s : State) (k : Nat) (q : MintReq) (h : Head) (a : Nat) : Bool := nameGood s k q h (imgLe s k q (a + 8) 4)

/-- The records of a table in order: the offset of the first that fails. -/
def tableBadAt (off n size : Nat) (ok : Nat → Bool) : Option Nat :=
  (firstBad (fun i => ok (off + size * i)) n 0).map fun i => off + size * i

/-- Step 2: the offset of the first word or record that fails. The head's GOT table has no offset in the header, and none of its
words is read (DEDUCED, log 131). -/
def mintStep2 (s : State) (k : Nat) (q : MintReq) (h : Head) : Option Nat :=
  (headBadAt s k q h).or <|
    (tableBadAt h.stg h.nstg 32 (stageGood s k q h)).or <|
    (tableBadAt h.sym h.nsym 16 (symGood s k q h)).or <|
    (tableBadAt h.rel h.nrel 16 (relGood s k q h)).or <|
    tableBadAt h.imp h.nimp 16 (impGood s k q h)

/-- Step 3: the first profile bit that fails: claimed and declared differ, or a declared one has another version than 1.0
(Table 0.2), or is not enabled. -/
def mintStep3 (s : State) (k : Nat) (q : MintReq) (h : Head) : Option Nat :=
  firstBad (fun i =>
    let d := h.prof.testBit i
    let v := h.pver / 256 ^ i % 256
    decide (d = q.prof.testBit i) && (if d then decide (v = 0x10) && (s.part k).prof.getLsbD i else decide (v = 0))) 4 0

/-- The handle of an import. -/
def importHnd (s : State) (k : Nat) (q : MintReq) (h : Head) (i : Nat) : Word := BitVec.ofNat 64 (imgLe s k q (h.imp + 16 * i) 8)

/-- Step 4: the first import whose handle is not VALID. -/
def mintStep4 (s : State) (k : Nat) (q : MintReq) (h : Head) : Option Nat :=
  firstBad (fun i => (objEntry s k (importHnd s k q h i)).isSome) h.nimp 0

/-! ## The text (steps 5 and 6) -/

/-- A text word. -/
def textWord (s : State) (k : Nat) (q : MintReq) (h : Head) (i : Nat) : Option Instr :=
  decode (BitVec.ofNat 32 (imgLe s k q (h.toff + 4 * i) 4))

/-- A CSR access that U-mode could make: a listed user address, written only where it may be (R82, R87). -/
def csrOpen (s : State) (op : CsrOp) (a : BitVec 12) (src : XReg) : Bool :=
  decide (a.extractLsb' 8 2 = 0) && (a == 0xC00 || a == 0xC02 || (readCsr s a).isSome)
    && !(csrWrites op src && a.extractLsb' 10 2 == 3)

/-- A word that an object of these profiles may hold (R382 step 5). -/
def wordGood (s : State) (prof : Nat) (i : Instr) : Bool :=
  i.wf && match i with
  | .hint => true
  | .csrWrite op a src _ => csrOpen s op a src
  | .vlWrite _ _ _ => true
  | .vxflagsWrite _ _ _ => true
  | .ptrootWrite _ _ _ => false
  | .partitionSetup _ _ _ => false
  | .profileEnableWrite _ _ _ => false
  | .assayNoticeClear _ _ _ _ => false
  | _ =>
    let a := opAttr i
    let scope : Bool := match i with
      | .qfence sc | .efence sc => !scopeBad sc
      | _ => true
    scope && decide (a.priv = .user) && (match a.prof with
      | some b => prof.testBit b
      | none => decide (a.group = .base))

/-- Step 5: the text offset of the first word that fails. -/
def mintStep5 (s : State) (k : Nat) (q : MintReq) (h : Head) : Option Nat :=
  (firstBad (fun i => (textWord s k q h i).any (wordGood s h.prof)) (h.tlen / 4) 0).map fun i => 4 * i

/-- The direct target of the word at a text offset. -/
def directTarget (i : Instr) (off : Nat) : Option Int :=
  match i with
  | .baseBranchJump (.jal _ imm) => some (off + (jumpOffset imm).toInt)
  | .baseBranchJump (.branch _ _ _ imm) => some (off + (branchOffset imm).toInt)
  | .loop n _ _ => some (off + 4 * n.toNat + 4)
  | _ => none

/-- Step 6: the text offset of the first word, or of the first stage entry, whose target is not in text. -/
def mintStep6 (s : State) (k : Nat) (q : MintReq) (h : Head) : Option Nat :=
  ((firstBad (fun i => (textWord s k q h i).all fun w => (directTarget w (4 * i)).all fun (t : Int) =>
      decide (0 ≤ t) && decide (t < (h.tlen : Int))) (h.tlen / 4) 0).map fun i => 4 * i).or
    ((firstBad (fun i => decide (imgLe s k q (h.stg + 32 * i) 4 < h.tlen)) h.nstg 0).map fun i => imgLe s k q (h.stg + 32 * i) 4)

/-- An address lies in the text of an import. -/
def inImports (s : State) (k : Nat) (q : MintReq) (h : Head) (a : Nat) : Bool :=
  (upFrom 0 h.nimp).any fun i => (objEntry s k (importHnd s k q h i)).any fun e =>
    decide (sysLe s k (e + 40) 8 ≤ a) && decide (a < sysLe s k (e + 40) 8 + sysLe s k (e + 48) 4)

/-- Step 7: the first GOT entry that holds neither an address of the image nor one of an import's text. -/
def mintStep7 (s : State) (k : Nat) (q : MintReq) (h : Head) : Option Nat :=
  firstBad (fun i =>
    let a := imgLe s k q (h.got + 8 * i) 8
    (decide (q.base ≤ a) && decide (a < q.base + q.len)) || inImports s k q h a) h.ngot 0

/-- Step 8: the lowest free entry of the object table. -/
def freeEntry (s : State) (k : Nat) : Option (Nat × Nat) :=
  match objTable s k with
  | none => none
  | some (base, n) => (firstBad (fun i => decide (sysLe s k (base + 128 * i + 16) 8 / 2 ^ 63 = 1)) n 0).map fun i => (i, base + 128 * i)

/-! ## Sealing (R382, R383) -/

/-- Every class an instruction can take (R95). -/
def classesOf (i : Instr) : BitVec 32 :=
  let b (n : Nat) : BitVec 32 := 1#32 <<< n
  match (opAttr i).cls with
  | .none => 0
  | .fixed c => b c
  | .byTag _ x y z => b x ||| b y ||| b z
  | .cable z _ _ => if z then b 21 else b 16 ||| b 17 ||| b 18 ||| b 19 ||| b 20 ||| b 23

/-- USE of an image's text. -/
def useOf (s : State) (k : Nat) (q : MintReq) (h : Head) : BitVec 32 :=
  (upFrom 0 (h.tlen / 4)).foldl (fun (u : BitVec 32) i => match textWord s k q h i with
    | some w => u ||| classesOf w
    | none => u) 0

/-- UUSE: with the UUSE of every import. -/
def uuseOf (s : State) (k : Nat) (q : MintReq) (h : Head) (use : BitVec 32) : BitVec 32 :=
  (upFrom 0 h.nimp).foldl (fun (u : BitVec 32) i => match objEntry s k (importHnd s k q h i) with
    | some e => u ||| BitVec.ofNat 32 (sysLe s k (e + 28) 4)
    | none => u) use

/-- Bytes of an image from an offset. -/
def imgBytes (s : State) (k : Nat) (q : MintReq) (off n : Nat) : List Byte :=
  (upFrom 0 n).map fun i => BitVec.ofNat 8 (imgLe s k q (off + i) 1)

/-- Set the permission bits of every leaf of a run of pages. DESIGN CHOICE (log 112): a leaf larger than 64 KiB that spans
two regions is set for each of them in turn, and keeps the bits set last. -/
def setLeaves (s : State) (k va n : Nat) (f : Word → Word) : State :=
  (upFrom 0 n).foldl (fun (t : State) i => match walk t k (va + 65536 * i) with
    | .leaf pte w _ _ => devWrite t k pte (natBytes 8 (f w).toNat)
    | .fault | .access | .poison _ => t) s

/-- A leaf with its R, W and X bits replaced. -/
def leafRwx (r w x : Bool) (l : Word) : Word := putBit (putBit (putBit l 1 r) 2 w) 3 x

/-- Frames of a run of pages. -/
def framesOf (s : State) (k va n : Nat) : List Nat :=
  (upFrom 0 n).filterMap fun i => match walk s k (va + 65536 * i) with
    | .leaf _ w base _ =>
      some (((if leafLoc w = 1 then Config.tier2Base else 0) + leafFrame w * 65536 + (va + 65536 * i - base)) / 65536)
    | .fault | .access | .poison _ => none

/-- A location in one of a list of 64 KiB frames. -/
def locIn (fs : List Nat) (l : Loc) : Bool :=
  match l with
  | .phys a _ _ => fs.contains (a / 65536)
  | .pocket _ | .peer _ _ => false

/-- Drop the translations of n pages as `tlbinv` does (R311, R382): the accesses that came through them are performed. -/
def dropImage (s : State) (k va n : Nat) : State :=
  let pages := (upFrom 0 n).map fun i => va + 65536 * i
  let t := pages.foldl (fun u a => flushDropped k a 0 u) s
  let t := pages.foldl (fun u a => tlbDrop u k a 0) t
  levelHook s (pages.foldl (fun u a => performDropped k a 0 u) t)

/-- Speculative iterations of any core that have escrowed a store to one of some frames restart (R383). -/
def squashFrames (fs : List Nat) (s : State) : State :=
  let bad (p : EscPart) : Bool := p.writes.any fun w => fs.contains (w.1 / 65536)
  let f (c : Core) : Core := if c.ctx.escActive.isSome then { c with ctx := squashWhere bad false c.ctx } else c
  { s with core := f s.core, cores := s.cores.map fun p => (p.1, f p.2) }

/-- A store that has been accepted is still to reach one of some frames: the check waits for it (R311, R382, R383). -/
def framesBusy (s : State) (fs : List Nat) : Bool :=
  s.heldStores.any (fun h => locIn fs h.loc)
    || (s.liveCores.any fun n => (s.coreAt n).copies.any fun o =>
        (o.left.filterMap fun i => o.elems[i]?).any fun e => (o.place e).any (locIn fs))
    || s.colls.any fun c => c.recv.any (locIn fs)

/-- Seal a checked image in an object-table entry: its handle. The regions' leaves are set in the order text, head, const,
data (R22, R382; log 112). -/
def sealImage (s : State) (k : Nat) (q : MintReq) (h : Head) (idx e : Nat) : Word × State :=
  let serial := (s.part k).objSerial + 1
  let hnd : Word := BitVec.ofNat 64 (serial % 2 ^ 32 * 65536 + idx)
  let use := useOf s k q h
  let uuse := uuseOf s k q h use
  let digest := sm3 (imgBytes s k q 0 h.toff ++ imgBytes s k q h.toff h.tlen ++ imgBytes s k q h.coff h.clen)
  let pages (lo hi : Nat) : Nat := (hi - lo + 65535) / 65536
  let r : ObjRec :=
    { handle := hnd
      textVa := q.base + h.toff
      textLen := h.tlen
      textFrames := framesOf s k (q.base + h.toff) (pages h.toff h.coff)
      otherFrames := framesOf s k q.base (pages 0 h.toff) ++ framesOf s k (q.base + h.coff) (pages h.coff h.doff)
      dataFrames := framesOf s k (q.base + h.doff) (pages h.doff q.len)
      imports := (upFrom 0 h.nimp).map (importHnd s k q h) }
  let body := natBytes 8 q.base ++ natBytes 8 q.len ++ natBytes 8 (uuse.toNat * 2 ^ 32 + use.toNat) ++ natBytes 8 h.prof
    ++ natBytes 8 (q.base + h.toff) ++ natBytes 8 (h.nimp * 2 ^ 32 + h.tlen) ++ natBytes 8 0 ++ digest ++ List.replicate 32 0
  let s := setLeaves s k (q.base + h.toff) (pages h.toff h.coff) (leafRwx false false true)
  let s := setLeaves s k q.base (pages 0 h.toff) (leafRwx true false false)
  let s := setLeaves s k (q.base + h.coff) (pages h.coff h.doff) (leafRwx true false false)
  let s := setLeaves s k (q.base + h.doff) (pages h.doff q.len) fun w => putBit (putBit w 1 true) 2 true
  let s := sysStore s k true e (natBytes 8 hnd.toNat)
  let s := sysStore s k true (e + 8) body
  let s := sysStore s k true (e + 16) (natBytes 8 (2 ^ 63 + q.len % 2 ^ 32))
  (hnd, s.mapPart k fun p => { p with objSerial := serial, objs := p.objs ++ [r] })

/-- The leaves of an image's pages with W replaced. -/
def setW (s : State) (k : Nat) (q : MintReq) (w : Bool) : State := setLeaves s k q.base (mintPages q) fun l => putBit l 2 w

/-- The clerk core's first step on a request with REM = 0 (R382 step 1): a failure's value, or the frames it has protected.
Translations are dropped either way, and a page that failed keeps W. -/
def mintBegin (s : State) (k : Nat) (q : MintReq) : Except Word (List Nat) × State :=
  if q.resv || q.rhnd != 0 || decide (q.base % 65536 ≠ 0) then (.error (mintFail 0 1), s)
  else match mintStep1 s k q with
  | some i => (.error (mintFail i 7), dropImage s k q.base (i / 65536))
  | none =>
    let fs := framesOf s k q.base (mintPages q)
    (.ok fs, squashFrames fs (dropImage (setW s k q false) k q.base (mintPages q)))

/-- The checks on a write-protected image, in their order (R382 steps 2 to 8): what fails, or the free entry. -/
def mintCheck (s : State) (k : Nat) (q : MintReq) : Except Word (Nat × Nat) :=
  let h := headOf s k q
  match mintStep2 s k q h with
  | some i => .error (mintFail i 1)
  | none => match mintStep3 s k q h with
    | some i => .error (mintFail i 2)
    | none => match mintStep4 s k q h with
      | some i => .error (mintFail i 3)
      | none => match mintStep5 s k q h with
        | some i => .error (mintFail i 4)
        | none => match mintStep6 s k q h with
          | some i => .error (mintFail i 5)
          | none => match mintStep7 s k q h with
            | some i => .error (mintFail i 6)
            | none => match freeEntry s k with
              | none => .error (mintFail 0 8)
              | some e => .ok e

/-- The end of a check: the image is sealed, or W is restored on every page of it (R382). -/
def mintFinish (s : State) (k : Nat) (q : MintReq) : Word × State :=
  match mintCheck s k q with
  | .ok e => sealImage s k q (headOf s k q) e.1 e.2
  | .error v => (v, setW s k q true)

/-! ## Removing (R384) -/

/-- An object in use: a launch names it, a record still in a work queue does, or a VALID object imports it. -/
def objInUse (s : State) (k : Nat) (h : Word) : Bool :=
  (s.part k).launches.any (fun l => decide (l.obj = h) && !l.marker && decide (l.st ≠ .done))
    || ((queuedRecs s k).any fun a => decide (sysLe s k a 1 = 0) && decide (sysLe s k (a + 8) 8 = h.toNat))
    || (s.part k).objs.any fun o => o.imports.contains h

/-- The clerk core's work on a request with REM = 1. -/
def mintRemove (s : State) (k : Nat) (q : MintReq) : Word × State :=
  if q.resv then (mintFail 0 1, s)
  else match objEntry s k q.rhnd with
  | none => (mintFail 0 9, s)
  | some e =>
    if objInUse s k q.rhnd then (mintFail 0 9, s)
    else
      let ibase := sysLe s k (e + 8) 8
      let len := sysLe s k (ibase + 48) 4
      let s := sysStore s k true (e + 16) (natBytes 8 (sysLe s k (e + 16) 8 % 2 ^ 63))
      let s := setLeaves s k ibase (len / 65536) fun w => putBit (putBit w 2 true) 3 false
      let s := s.mapPart k fun p => { p with objs := p.objs.filter fun o => decide (o.handle ≠ q.rhnd) }
      (0, levelHook s (performDropped k 0 2 (tlbDrop (flushDropped k 0 2 s) k 0 2)))

/-- A whole request with nothing beside it: xd and the state after, or the frames under check where an accepted store is still to
reach one. -/
def mintDo (s : State) (k : Nat) (ws : List Word) : Except (List Nat) Word × State :=
  let q := mintReqOf ws
  if q.rem then
    let r := mintRemove s k q
    (.ok r.1, r.2)
  else match mintBegin s k q with
  | (.error v, t) => (.ok v, t)
  | (.ok fs, t) =>
    if framesBusy t fs then (.error fs, t)
    else
      let r := mintFinish t k q
      (.ok r.1, r.2)

/-! ## The instruction -/

/-- The job that answers a request of the thread whose turn it is at an address (R385): its strand's, or, with no strand, its
core's. -/
def mintJob (s : State) (a : Word) : Option MintJob :=
  (s.part s.pidx).mints.find? fun j => decide (j.owner = s.core.strand) && decide (j.addr = a)
    && (j.owner.isSome || decide (j.core = s.core.id))

/-- Hand a request to the clerk core. -/
def mintHand (s : State) (a : Word) (ws : List Word) (frames : Option (List Nat)) : State :=
  s.mapPart s.pidx fun p => { p with mints := p.mints ++ [⟨s.core.id, s.core.strand, a, ws, frames, none⟩] }

/-- Replace a job of a partition. -/
def setMint (s : State) (k : Nat) (j j' : MintJob) : State :=
  s.mapPart k fun p => { p with mints := updFirst (fun i => decide (i = j)) (fun _ => j') p.mints }

/-- The clerk core goes on with a job by one step: the write-protection, or, once nothing is still to reach the image, the
checks and their end. -/
def mintAdvance (s : State) (k : Nat) (j : MintJob) : State :=
  let q := mintReqOf j.words
  match j.frames with
  | some fs =>
    if framesBusy s fs then s
    else
      let r := mintFinish s k q
      setMint r.2 k j { j with frames := none, result := some r.1 }
  | none =>
    if q.rem then
      let r := mintRemove s k q
      setMint r.2 k j { j with result := some r.1 }
    else match mintBegin s k q with
    | (.error v, t) => setMint t k j { j with result := some v }
    | (.ok fs, t) => setMint t k j { j with frames := some fs }

/-- The thread waits for the clerk core: a stop that is due lands at the boundary before `mint` (R385). -/
def mintStall : M Unit := do
  modify fun t => t.mapCtx fun c => { c with atPoint := true }
  throw .stall

/-- MINT (R381 to R385): a release, the request by scalar loads, then the wait for the clerk core, which does the whole of it in
this step where nothing lags and no accepted store is still to reach the image. -/
def execMint (rs1 rd : XReg) (s : State) : Host.Outcome State Fault Refusal :=
  guarded (.mint rs1 rd) s fun s =>
    runM (do
      releaseM
      let a := s.x rs1
      let ws ← loadWords a 4
      let t ← get
      if (mintReqOf ws).rem && decide (t.core.priv = .user) then trapM cIllegal (instrWord (.mint rs1 rd))
      match mintJob t a with
      | some j =>
        match j.result with
        | some v =>
          let u := t.mapPart t.pidx fun p => { p with mints := p.mints.filter fun i => decide (i ≠ j) }
          set (retire (u.setX rd v))
        | none =>
          if t.lag = false then set (mintAdvance t t.pidx j)
          mintStall
      | none =>
        if t.lag then
          set (mintHand t a ws none)
          mintStall
        else
          match mintDo t t.pidx ws with
          | (.ok v, u) => set (retire (u.setX rd v))
          | (.error fs, u) =>
            set (mintHand u a ws (some fs))
            mintStall) s

/-- MINT_RESULT (R385): the clerk core of the rib of the core whose turn it is goes on with the oldest request it has not
finished. -/
def execMintResult (s : State) : Host.Outcome State Fault Refusal :=
  let k := s.pidx
  match (s.part k).mints.find? fun j => decide (ribOf j.core = ribOf s.core.id) && j.result.isNone with
  | none => .next s
  | some j => .next (mintAdvance s k j)

end Sys2Proof.Machine
end

