-- ==== Sys2Proof/Machine/Clearing.lean ====
section
/-! DEFINITION. The Clearing House (R343 to R352): the collective descriptor and `cho`, the wire forms and their
roundings, segments round the ring, chunks with their encoding and errors, completion; and PEER requests from other chips
(R338). -/

namespace Sys2Proof.Machine

/-! ## Shapes (R344 to R347, Table 17.3) -/

/-- Members of a collective. -/
def collN (h : CollShape) : Nat := h.chips.length

/-- The element type. -/
def collTy (h : CollShape) : ETy := (cmdTy h.etag).getD (.int ⟨32, true⟩)

/-- Bytes of an element. -/
def collW (h : CollShape) : Nat := codeBytes h.etag

/-- Elements of a member's SEND. -/
def collSends (h : CollShape) (rank : Nat) : Nat :=
  match h.op with
  | 0 | 2 => h.count
  | 1 | 3 => (collN h) * h.count
  | _ => if rank = h.root then h.count else 0

/-- Elements of a member's RECV. -/
def collRecvs (h : CollShape) : Nat := if h.op = 2 ∨ h.op = 3 then (collN h) * h.count else h.count

/-- Elements of one segment or block: the first, counted over SEND for a reduction, and how many (R347). -/
def collSegment (h : CollShape) (s : Nat) : Nat × Nat :=
  if h.op = 0 then
    let l := (h.count + (collN h) - 1) / (collN h)
    (s * l, min l (h.count - s * l))
  else (s * h.count, h.count)

/-! ## Wide values and their reduction (R347) -/

/-- Widen: exact, into FP32 or the integer type. -/
def widen (t : ETy) (bits : Nat) : Nat :=
  match t with
  | .flt f => (fp32.rne (f.decode bits)).1
  | .int _ => bits
  | .hx4 => bits

/-- A final value rounded RNE into ETAG. -/
def narrowTo (t : ETy) (bits : Nat) : Nat :=
  match t with
  | .flt f => (f.rne (fp32.decode bits)).1
  | .int _ => bits
  | .hx4 => bits

/-- Combine: sum, max or min of an own element and an incoming partial. -/
def combine (t : ETy) (red own inc : Nat) : Nat :=
  let op := if red = 0 then 0 else if red = 1 then 2 else 1
  match t with
  | .flt _ => fltAtomic op fp32 own inc
  | .int i => intAtomic op i.w i.signed own inc
  | .hx4 => own

/-! ## Wire forms (R348) -/

/-- The rounding of element e, and the generators after it. -/
def collRnd (rnd : Bool) (k : Nat) (g : SrGen) (e : Nat) : Rnd × SrGen :=
  if rnd then (⟨.sr, k, (srStep (g.state e)).toNat / 2 ^ (64 - k)⟩, g.step e) else (rnE, g)

/-- The roundings of a run of elements. -/
def collRnds (rnd : Bool) (k : Nat) : SrGen → List Nat → List Rnd × SrGen
  | g, [] => ([], g)
  | g, e :: t =>
    let r := collRnd rnd k g e
    let q := collRnds rnd k r.2 t
    (r.1 :: q.1, q.2)

/-- The E8M0 scale of a block of wide floats (R348). -/
def blockScale (xs : List FVal) : Nat :=
  if xs.any FVal.isNan || xs.any FVal.isInf then 255
  else match maxMag xs (.fin false 0 0) with
  | .fin _ m e => if m = 0 then 127 else (max 0 (min 254 (e + m.log2 - 7 + 127))).toNat
  | .nan => 255
  | .inf _ => 255

/-- The E4M3 code of an element under a scale. -/
def blockCode (x : Nat) (rd : Rnd) (v : FVal) : Nat := if x = 255 then e4m3.nanBits else (e4m3.round rd true (v.scale (127 - x)) false).1

/-- The FP32 value of a code under a scale. -/
def blockValue (x code : Nat) : Nat := if x = 255 then fp32.nanBits else (fp32.rne ((e4m3.decode code).scale (x - 127))).1

/-- Pack codes of `bits` bits into 32-bit words, first code lowest. -/
def packWords (bits : Nat) (cs : List Nat) : List Nat :=
  (runsOf (32 / bits) cs.length cs).map fun r => r.foldr (fun c acc => c + 2 ^ bits * acc) 0

/-- Unpack n codes of `bits` bits. -/
def unpackWords (bits n : Nat) (ws : List Nat) : List Nat :=
  (upFrom 0 n).map fun i => ws.getD (i * bits / 32) 0 / 2 ^ (i * bits % 32) % 2 ^ bits

/-- Bits of one element on the wire, but for blocks. -/
def collWireBits (h : CollShape) : Nat :=
  match h.cmp with
  | 1 => 16
  | 2 => 8
  | _ => match (collTy h) with
    | .int t => max 32 t.w
    | .flt _ => 32
    | .hx4 => 32

/-- Words of a run of n elements: blocks of 256 codes with their scale word for CMP 2. -/
def collRunWords (h : CollShape) (n : Nat) : Nat :=
  if h.cmp = 2 then ((runsOf 256 n (upFrom 0 n)).map fun b => (b.length + 3) / 4 + 1).sum
  else (n * (collWireBits h) + 31) / 32

/-- The word that holds element i of a run, and the scale word of its block for CMP 2. -/
def collWordsAt (h : CollShape) (n i : Nat) : List Nat :=
  if h.cmp = 2 then
    let b := i / 256
    [65 * b + i % 256 / 4, 65 * b + (min 256 (n - 256 * b) + 3) / 4]
  else if (collWireBits h) = 64 then [2 * i, 2 * i + 1] else [i * (collWireBits h) / 32]

/-- The words of a run of wide values (R348). -/
def encodeRun (h : CollShape) (rds : List Rnd) (xs : List Nat) : List Nat :=
  match h.cmp with
  | 1 => packWords 16 ((rds.zip xs).map fun p => (bf16.round p.1 false (fp32.decode p.2) false).1)
  | 2 => (runsOf 256 xs.length (rds.zip xs)).flatMap fun b =>
      let vs := b.map fun p => fp32.decode p.2
      let x := blockScale vs
      packWords 8 ((b.zip vs).map fun p => blockCode x p.1.1 p.2) ++ [x]
  | _ => if (collWireBits h) = 64 then xs.flatMap fun x => [x % 2 ^ 32, x / 2 ^ 32] else xs

/-- The wide values of a run's words: Expand (R348). -/
def decodeRun (h : CollShape) (n : Nat) (ws : List Nat) : List Nat :=
  match h.cmp with
  | 1 => (unpackWords 16 n ws).map fun c => (fp32.rne (bf16.decode c)).1
  | 2 => (upFrom 0 n).map fun i =>
      let at_ := (collWordsAt h) n i
      blockValue (ws.getD (at_.getD 1 0) 0 % 256) (ws.getD (at_.getD 0 0) 0 / 2 ^ (8 * (i % 4)) % 256)
  | _ => if (collWireBits h) = 64 then (upFrom 0 n).map fun i => ws.getD (2 * i) 0 + 2 ^ 32 * ws.getD (2 * i + 1) 0 else ws.take n

/-- Poisoned words of a run whose elements carry poison. -/
def wordPoison (h : CollShape) (n : Nat) (bad : List Nat) : List Nat := (bad.flatMap fun i => ((collWordsAt h) n i).take 2).foldl addNew []

/-- Elements that poisoned words poison. -/
def elemPoison (h : CollShape) (n : Nat) (bad : List Nat) : List Nat := (upFrom 0 n).filter fun i => ((collWordsAt h) n i).any bad.contains

/-! ## Chunks (R349) -/

/-- The words of 4-byte runs. -/
def bytesWords (n : Nat) (bs : List Byte) : List Nat := (runsOf 4 n bs).map leNat

/-- Put the non-zero words back at their places. -/
def spreadWords : List Bool → List Nat → List Nat
  | [], _ => []
  | false :: t, ws => 0 :: spreadWords t ws
  | true :: t, w :: ws => w :: spreadWords t ws
  | true :: t, [] => 0 :: spreadWords t []

/-- A chunk's 1,024 words, and whether its CRC matches. -/
def chunkWords (bs : List Byte) : List Nat × Bool :=
  let crc := leNat ((bs.drop 8).take 8)
  let ws :=
    if bs.getD 0 0 = 1 then
      let bits := (upFrom 0 1024).map fun i => (bs.getD (16 + i / 8) 0).getLsbD (i % 8)
      spreadWords bits (bytesWords 1024 (bs.drop 144))
    else bytesWords 1024 (bs.drop 16)
  let ws := ws ++ List.replicate (1024 - ws.length) 0
  (ws, decide ((crc64 (ws.flatMap (natBytes 4))).toNat = crc))

/-! ## Sending -/

/-- The chunks of a run. -/
def runChunks (seg : Nat) (final : Bool) (ws bad : List Nat) : List ChunkRec :=
  ((runsOf 1024 ws.length ws).zip (upFrom 0 ws.length)).map fun p =>
    { seg := seg
      final := final
      first := 1024 * p.2
      words := p.1
      poison := (bad.filter fun i => decide (1024 * p.2 ≤ i) && decide (i < 1024 * (p.2 + 1))).map fun i => i - 1024 * p.2
      sent := false }

/-- What an instance has to do next: itself, and the messages it sends. -/
abbrev CollOut := Coll × List Msg

/-- Send a run. -/
def sendRun (c : Coll) (seg : Nat) (final : Bool) (ws bad : List Nat) : CollOut :=
  let rs := runChunks seg final ws bad
  ({ c with outbox := c.outbox ++ rs }, rs.map c.message)

/-- Wire(x) of a run of wide values that starts at SEND element `start`: the words, their poison, the instance with its
generators stepped. CMP 0 and 3 round nothing. -/
def quantise (c : Coll) (start : Nat) (xs bad : List Nat) : List Nat × List Nat × Coll :=
  let es := upFrom start xs.length
  let r := if c.shape.cmp = 1 ∨ c.shape.cmp = 2 then collRnds c.rnd (c.srk + 1) ⟨c.seed, c.gens⟩ es
    else (es.map fun _ => rnE, ⟨c.seed, c.gens⟩)
  (encodeRun c.shape r.1 xs, wordPoison c.shape xs.length bad, { c with gens := r.2.moved })

/-- Own elements of a run, widened, and those that are poisoned. -/
def ownRun (c : Coll) (start n : Nat) : List Nat × List Nat :=
  ((upFrom start n).map fun e => widen (collTy c.shape) (c.send.getD e 0),
    (upFrom 0 n).filter fun i => c.sendBad.contains (start + i))

/-- Take a run's words into RECV from element `start` on. -/
def takeRun (c : Coll) (start n : Nat) (ws bad : List Nat) : Coll :=
  let vs := decodeRun c.shape n ws
  { c with
    got := ((upFrom 0 n).map fun i => (start + i, narrowTo (collTy c.shape) (vs.getD i 0))) ++ c.got
    gotBad := ((elemPoison c.shape n bad).map fun i => start + i) ++ c.gotBad }

/-- The blocks this member sends of its own, by OP (R347). -/
def startOps (c : Coll) : CollOut :=
  let h := c.shape
  let n := (collN h)
  match h.op with
  | 0 | 1 =>
    let s := (c.rank + n - 1) % n
    let g := (collSegment h) s
    let own := ownRun c g.1 g.2
    let q := quantise c g.1 own.1 own.2
    sendRun q.2.2 s false q.1 q.2.1
  | 2 =>
    let own := ownRun c 0 h.count
    let q := quantise c 0 own.1 own.2
    sendRun (takeRun q.2.2 (c.rank * h.count) h.count q.1 q.2.1) c.rank true q.1 q.2.1
  | 3 =>
    (upFrom 0 n).foldl (fun (o : CollOut) d =>
      let own := ownRun o.1 (d * h.count) h.count
      let q := quantise o.1 (d * h.count) own.1 own.2
      if d = c.rank then (takeRun q.2.2 (d * h.count) h.count q.1 q.2.1, o.2)
      else
        let r := sendRun q.2.2 d true q.1 q.2.1
        (r.1, o.2 ++ r.2)) (c, [])
  | _ =>
    if c.rank = h.root then
      let own := ownRun c 0 h.count
      let q := quantise c 0 own.1 own.2
      sendRun (takeRun q.2.2 0 h.count q.1 q.2.1) 0 true q.1 q.2.1
    else (c, [])

/-! ## Receiving -/

/-- Elements of a run that arrives under a segment number, and the RECV or SEND element it starts at. -/
def Coll.runOf (c : Coll) (seg : Nat) : Nat × Nat :=
  if c.shape.op = 4 then (0, c.shape.count) else (collSegment c.shape) seg

/-- The words of a whole run, with its poison, once every chunk of it is here. -/
def gather (c : Coll) (seg : Nat) (final : Bool) (need : Nat) : Option (List Nat × List Nat) :=
  let mine := c.inbox.filter fun r => decide (r.seg = seg) && (r.final == final)
  let at_ (i : Nat) : Option (Nat × Bool) := (mine.find? fun r => decide (r.first ≤ i) && decide (i < r.first + r.words.length)).map fun r =>
    (r.words.getD (i - r.first) 0, r.poison.contains (i - r.first))
  let ws := (upFrom 0 need).map at_
  if ws.all Option.isSome then
    some (ws.map fun x => (x.getD (0, false)).1, (upFrom 0 need).filter fun i => ((ws.getD i none).getD (0, false)).2)
  else none

/-- The member a final run began at: it is not passed on to it. -/
def Coll.origin (c : Coll) (seg : Nat) : Nat := if c.shape.op = 4 then c.shape.root else seg

/-- A whole run has arrived: the next hop of the ring (R347). -/
def hop (c : Coll) (seg : Nat) (final : Bool) (ws bad : List Nat) : CollOut :=
  let h := c.shape
  let g := c.runOf seg
  if final then
    let c := takeRun c g.1 g.2 ws bad
    if h.op = 3 ∨ (c.rank + 1) % (collN h) = c.origin seg then (c, []) else sendRun c seg true ws bad
  else
    let own := ownRun c g.1 g.2
    let inc := decodeRun h g.2 ws
    let acc := (own.1.zip inc).map fun p => combine (collTy h) h.red p.1 p.2
    let q := quantise c g.1 acc ((own.2 ++ elemPoison h g.2 bad).foldl addNew [])
    if c.rank = seg then
      if h.op = 0 then sendRun (takeRun q.2.2 g.1 g.2 q.1 q.2.1) seg true q.1 q.2.1
      else (takeRun q.2.2 0 g.2 q.1 q.2.1, [])
    else sendRun q.2.2 seg false q.1 q.2.1

/-- Runs that chunks in the inbox belong to. -/
def inboxRuns (c : Coll) : List (Nat × Bool) :=
  c.inbox.foldl (fun (acc : List (Nat × Bool)) r => if acc.contains (r.seg, r.final) then acc else acc ++ [(r.seg, r.final)]) []

/-- Work off every whole run in the inbox of an issued instance. -/
def progress (c : Coll) : CollOut :=
  (inboxRuns c).foldl (fun (o : CollOut) p =>
    match gather o.1 p.1 p.2 ((collRunWords c.shape) (c.runOf p.1).2) with
    | none => o
    | some w =>
      let kept := { o.1 with inbox := o.1.inbox.filter fun r => !(decide (r.seg = p.1) && (r.final == p.2)) }
      let r := hop kept p.1 p.2 w.1 w.2
      (r.1, o.2 ++ r.2)) (c, [])

/-- Put an instance back at its position, with the messages it sends. -/
def putColl (s : State) (pos : Nat) (o : CollOut) : State :=
  { s with colls := setAt s.colls pos o.1, outMsgs := s.outMsgs ++ o.2 }

/-- Raise event 0x0018 for an instance (R350, R351). -/
def collEvent (s : State) (c : Coll) : State := raiseEvent s c.part 0 0x0018 c.desc 0

/-! ## cho (R344, R345) -/

/-- A descriptor's words, checked apart from the group. -/
def descGood (ws : List Word) : Bool :=
  let w (i : Nat) : Word := ws.getD i 0
  let op := ((w 0).extractLsb' 0 8).toNat
  let red := ((w 0).extractLsb' 8 8).toNat
  let etag := ((w 0).extractLsb' 16 4).toNat
  let cmp := ((w 0).extractLsb' 20 4).toNat
  decide (op ≤ 4) && (decide (2 ≤ op) || decide (red ≤ 2)) && decide (5 ≤ etag) && decide (etag ≤ 10) && decide (cmp ≤ 3)
    && (w 0).extractLsb' 30 2 == 0 && (w 0).extractLsb' 37 27 == 0 && (w 1).extractLsb' 32 32 == 0
    && decide (((w 1).extractLsb' 0 32).toNat ≤ 2 ^ 28) && (w 5).extractLsb' 12 52 == 0 && w 7 == 0
    && !((decide (cmp = 1) || decide (cmp = 2)) && decide (etag < 8))

/-- A group record's first word, checked. -/
def groupGood (g : Word) : Bool :=
  let n := (g.extractLsb' 0 13).toNat
  g.extractLsb' 32 32 == 0 && g.extractLsb' 29 3 == 0 && g.extractLsb' 13 3 == 0
    && decide (2 ≤ n) && decide (n ≤ 4096) && decide ((g.extractLsb' 16 13).toNat < n)

/-- Read n half words in ascending order. -/
def loadHalfs (a : Word) : Nat → M (List Nat)
  | 0 => return []
  | n + 1 => do
    let bs ← scalarLoad a 2
    let t ← loadHalfs (a + 2) n
    return leNat bs :: t

/-- The shape a descriptor and its chip list make. -/
def shapeOf (ws : List Word) (chips : List Nat) : CollShape :=
  let w (i : Nat) : Word := ws.getD i 0
  { op := ((w 0).extractLsb' 0 8).toNat
    red := ((w 0).extractLsb' 8 8).toNat
    etag := ((w 0).extractLsb' 16 4).toNat
    cmp := ((w 0).extractLsb' 20 4).toNat
    count := ((w 1).extractLsb' 0 32).toNat
    root := ((w 5).extractLsb' 0 12).toNat
    chips := chips }

/-- RECV elements that overlap SEND other than by coinciding exactly in an all-reduce or a broadcast (R346). -/
def looseElems (h : CollShape) (same : Bool) (send recv : List Loc) : List Nat :=
  if same && (decide (h.op = 0) || decide (h.op = 4)) then []
  else
    let meets (x y : Loc) : Bool := match x, y with
      | .phys a _ _, .phys b _ _ => decide (a < b + (collW h)) && decide (b < a + (collW h))
      | .pocket a, .pocket b => decide (a < b + (collW h)) && decide (b < a + (collW h))
      | _, _ => false
    (upFrom 0 recv.length).filter fun i => (recv[i]?).any fun r => send.any (meets r)

/-- Room that a partition's instances take in its collective area, with one more of some bytes (R352, log 18). -/
def collRoom (s : State) (k bytes : Nat) : Bool :=
  let used := ((s.colls.filter fun c => decide (c.part = k)).map fun c => (Config.collNeed c.bytes).toNat).sum
  decide (used + (Config.collNeed bytes).toNat ≤ (jobWord s k 48).toNat)

/-- An issued instance whose SEND is read sends its own blocks, and goes on as far as it can. -/
def startIn (c : Coll) : CollOut :=
  if c.unread.isEmpty then
    let a := startOps c
    let b := progress a.1
    (b.1, a.2 ++ b.2)
  else (c, [])

/-- Issue an instance among those of the chip: it takes over the chunks that have come for it. -/
def issueIn (c : Coll) (cs : List Coll) : List Coll × List Msg :=
  let early := cs.find? fun o => !o.issued && decide (o.tag = c.tag)
  let c := match early with
    | some o => { c with inbox := o.inbox, err := c.err || o.err, mismatch := o.mismatch || decide (o.shape ≠ c.shape) }
    | none => c
  let b := startIn c
  (cs.filter (fun o => !(!o.issued && decide (o.tag = c.tag))) ++ [b.1], b.2)

/-- An old-colour step of the Clearing House is made on the image of the generation being taken too (R352, R354). -/
def imageColls (s : State) (k : Nat) (new : Bool) (f : List Coll → List Coll) : State :=
  if new then s
  else s.mapPart k fun p => { p with
    manifests := updFirst (fun m => decide (m.gen = p.gen)) (fun m => { m with colls := f m.colls }) p.manifests }

/-- Issue an instance in its colour. -/
def issueColl (s : State) (c : Coll) : State :=
  let r := issueIn c s.colls
  imageColls { s with colls := r.1, outMsgs := s.outMsgs ++ r.2 } c.part (newColour s c.part c.colour) fun cs => (issueIn c cs).1

/-- Two instances are one: the same TAG and chip list. -/
def Coll.is (c o : Coll) : Bool := decide (o.tag = c.tag) && decide (o.shape.chips = c.shape.chips)

/-- A write of the Clearing House to the collective area, in a colour (R352): where in the area it lies and what it holds are
the device's own (DESIGN CHOICE, log 110). -/
def landArea (s : State) (k : Nat) (new : Bool) (n : Nat) : State :=
  let base := (jobWord s k 40).toNat / 4096 * 4096
  let len := (jobWord s k 48).toNat
  if base < Config.windowBase ∨ Config.windowBase + Config.commonsBytes < base + len ∨ len < n then s
  else
    let a := Config.commonsBase + (base - Config.windowBase) + Config.pick s.draws % (len - n + 1)
    (bankPieces (n / 4096 + 2) a ((upFrom (s.draws + 1) n).map Config.freeByte)).foldl
      (fun (t : State) p => physWrite t k new .device none p.1 p.2) { s with draws := s.draws + 1 + n }

/-- Bytes of an instance's own record in the area, and of one chunk's (log 110). -/
def collRecord : Nat := 64
def chunkRecord : Nat := 8

/-- What the Clearing House sees of held stores: the older scalar ones of the issuing strand (R266). -/
def collSees (c : Coll) (h : Held) : Bool :=
  decide (h.part = c.part) && c.owner.isSome && decide (h.owner = c.owner) && h.behind.isNone && decide (h.loc.kind ≠ kindSO)
    && (h.scalar || decide (1 ≤ h.reach))

/-- Read one send element (R345): whether it is poisoned, its bits, and what the read leaves. -/
def collElem (s : State) (c : Coll) (l : Loc) : (Bool × Nat) × State :=
  let w := collW c.shape
  match l with
  | .phys a _ _ =>
    let r := scrubRead s a w
    ((r.1, leNat (seenBytes (collSees c) r.2 a w)), r.2)
  | .pocket _ => ((false, 0), s)
  | .peer chip va =>
    ((false, leNat ((upFrom s.draws w).map Config.freeByte)),
      { s with outMsgs := s.outMsgs ++ [Msg.peerLoad c.part chip va w], draws := s.draws + w })

/-- An instance that has read a send element. -/
def Coll.took (c : Coll) (i : Nat) (x : Bool × Nat) : Coll :=
  { c with
    send := setAt c.send i x.2
    sendBad := if x.1 then c.sendBad ++ [i] else c.sendBad
    err := c.err || x.1
    unread := c.unread.filter fun u => decide (u.1 ≠ i) }

/-- Read what is left of SEND, in order. -/
def readSend (s : State) (c : Coll) : Coll × State :=
  c.unread.foldl (fun (p : Coll × State) u =>
    let r := collElem p.2 p.1 u.2
    (p.1.took u.1 r.1, r.2)) (c, s)

/-- CHO (R345): the engine reads SEND after the issue, and at once where nothing lags. -/
def execCho (rs2 rs1 rd : XReg) (s : State) : Host.Outcome State Fault Refusal :=
  guarded (.cho rs2 rs1 rd) s fun s =>
    runM (do
      let d := s.x rs1
      if d.toNat % 64 ≠ 0 then trapM cMisLoad d
      let ws ← loadWords d 8
      let g ← loadWords (ws.getD 4 0) 1
      let gw := g.getD 0 0
      let halfs ← loadHalfs (ws.getD 4 0 + 8) (min 4096 (gw.extractLsb' 0 13).toNat)
      let t ← get
      let k := t.pidx
      let rank := (gw.extractLsb' 16 13).toNat
      let h := shapeOf ws halfs
      if !descGood ws || !groupGood gw || halfs.any (fun c => decide (4096 ≤ c)) || decide (halfs.getD rank 4096 ≠ t.chip.toNat)
          || (decide (h.op = 4) && decide ((collN h) ≤ h.root)) || decide (jobWord t k 40 = 0) then trapM cTeller d
      let pr := dataPriv t
      let purse ← purseOf pr t.ctx.u.pbase ((ws.getD 0 0).extractLsb' 32 5).toNat id
      let word := instrWord (.cho rs2 rs1 rd)
      let sends := strideAddrs (ws.getD 2 0) (collW h) ((collSends h) rank)
      let r ← copyPlaces pr word (collW h) 0 0 true true sends (strideAddrs (ws.getD 3 0) (collW h) (collRecvs h))
      let u ← get
      if u.colls.any fun c => c.issued && decide (c.tag = ws.getD 6 0) && decide (c.shape.chips = h.chips) then trapM cTeller d
      let bytes := (collRecvs h) * (collW h)
      if 64 ≤ (u.colls.filter fun c => decide (c.part = k) && c.issued).length ∨ collRoom u k bytes = false then
        set (retire (u.setX rd 1))
      else
        let c : Coll :=
          { part := k
            owner := u.core.strand
            colour := u.ctx.snapCol
            priv := pr
            tag := ws.getD 6 0
            shape := h
            issued := true
            rnd := (ws.getD 0 0).getLsbD 24
            srk := ((ws.getD 0 0).extractLsb' 25 5).toNat
            rank := rank
            seed := s.x rs2
            gens := []
            send := List.replicate r.1.length 0
            sendBad := []
            unread := (upFrom 0 r.1.length).zip r.1
            recv := r.2
            loose := looseElems h (decide (ws.getD 2 0 = ws.getD 3 0)) r.1 r.2
            purse := purse
            bytes := bytes
            desc := d
            err := false
            mismatch := false
            timed := false
            outbox := []
            inbox := []
            got := []
            gotBad := [] }
        let p := if u.lag then (c, u) else readSend u c
        set (retire ((landArea (issueColl p.2 p.1) k (newColour u k c.colour) collRecord).setX rd 0))) s

/-! ## Steps of the Clearing House -/

/-- The words of an arriving chunk, cut to its run, with poison, and whether ERR is set (R350). -/
def arrivingChunk (m : ChunkMsg) (need : Nat) : ChunkRec × Bool :=
  let r := match m.err with
    | .head => (List.replicate 1024 0, false)
    | .none => chunkWords m.bytes
    | .words => chunkWords m.bytes
  let bad := match m.err with
    | .head => upFrom 0 1024
    | .none => m.poison
    | .words => m.poison
  let err := match m.err with
    | .head => true
    | .none => !r.2
    | .words => true
  ({ seg := m.seg, final := m.final, first := m.first, words := r.1.take (need - m.first), poison := bad, sent := true }, err)

/-- The instance a chunk belongs to: of its TAG, and of its chip list where several have that TAG. -/
def chunkColl (cs : List Coll) (m : ChunkMsg) : Option Nat :=
  (cs.findIdx? fun c => decide (c.tag = m.tag) && decide (c.shape.chips = m.shape.chips)).or
    (cs.findIdx? fun c => decide (c.tag = m.tag))

/-- An instance not yet issued on this chip: it only keeps chunks (R352). -/
def emptyColl (k : Nat) (m : ChunkMsg) (rank : Nat) : Coll :=
  { part := k
    owner := none
    colour := false
    priv := .user
    tag := m.tag
    shape := m.shape
    issued := false
    rnd := false
    srk := 0
    rank := rank
    seed := 0
    gens := []
    send := []
    sendBad := []
    unread := []
    recv := []
    loose := []
    purse := 0
    bytes := 0
    desc := 0
    err := false
    mismatch := false
    timed := false
    outbox := []
    inbox := []
    got := []
    gotBad := [] }

/-- The chip of the next rank of an instance's ring. -/
def Coll.next (c : Coll) : Nat := c.shape.chips.getD ((c.rank + 1) % collN c.shape) 0

/-- A chunk lands among the instances of the chip (R350, R351): it is checked, kept, and worked off where its instance is
issued here and has read its SEND. One of another shape, or one that says that members disagree, ends the instance, here and,
passed on round the ring, at the other members (log 132). Answers the instance whose error raises event 0x0018. -/
def landChunk (k : Nat) (chip : BitVec 12) (m : ChunkMsg) (cs : List Coll) : List Coll × List Msg × Option Coll :=
  let pos := (chunkColl cs m).getD cs.length
  let c := (cs[pos]?).getD (emptyColl k m ((m.shape.chips.findIdx? fun x => decide (x = chip.toNat)).getD 0))
  let cs := if pos < cs.length then cs else cs ++ [c]
  if m.ends || decide (m.shape ≠ c.shape) then
    (setAt cs pos { c with mismatch := true },
      if c.mismatch then []
      else [Msg.chunk c.part c.next { m with ends := true, colour := if c.issued then c.colour else m.colour }], none)
  else if (collN m.shape) ≤ m.seg then (cs, [], none)
  else
    let r := arrivingChunk m ((collRunWords m.shape) (c.runOf m.seg).2)
    let c := { c with inbox := c.inbox ++ [r.1], err := c.err || r.2 }
    let o := if c.issued && c.unread.isEmpty then progress c else (c, [])
    (setAt cs pos o.1, o.2, if r.2 then some c else none)

/-- CHUNK_RECEIVE (R350 to R352): on COLL, in the order of its link (R335). -/
def execChunkReceive (on : OnLink ChunkMsg) (s : State) : Host.Outcome State Fault Refusal :=
  let m := on.msg
  let k := (((chunkColl s.colls m).bind fun i => s.colls[i]?).map fun c => c.part).getD s.pidx
  if outOfOrder s k on.link 3 m.colour then .next s
  else
    let new := newColour s k m.colour
    let r := landChunk k s.chip m s.colls
    let t := imageColls { s with colls := r.1, outMsgs := s.outMsgs ++ r.2.1 } k new fun cs => (landChunk k s.chip m cs).1
    let t := landArea t k new m.bytes.length
    .next (match r.2.2 with
      | some c => collEvent t c
      | none => t)

/-- Every RECV element of an instance has its value. -/
def Coll.full (c : Coll) : Bool := (upFrom 0 (collRecvs c.shape)).all fun i => c.got.any fun p => decide (p.1 = i)

/-- The RECV writes of an instance: free bytes where its members disagree or its buffers overlap (R346, R351). -/
def collWrites (s : State) (c : Coll) : List ElemWrite :=
  ((upFrom 0 c.recv.length).zip c.recv).map fun p =>
    { loc := p.2
      bytes :=
        if c.mismatch || c.loose.contains p.1 then (upFrom (s.draws + (collW c.shape) * p.1) (collW c.shape)).map Config.freeByte
        else natBytes (collW c.shape) (((c.got.find? fun g => decide (g.1 = p.1)).map Prod.snd).getD 0)
      poison := !c.mismatch && c.gotBad.contains p.1 }

/-- COLLECTIVE_COMPLETE (R351): the RECV writes, then one withdrawal in full. A result in a frame of the transit filter waits
(R311). Chunks whose landing is not acknowledged are packets still under way (R354). -/
def execCollectiveComplete (pos : Nat) (s : State) : Host.Outcome State Fault Refusal :=
  match s.colls[pos]? with
  | none => .next s
  | some c =>
    if c.issued && (c.mismatch || c.full) && !(c.recv.any (transitHit s c.part)) then
      let new := newColour s c.part c.colour
      let ws := collWrites s c
      let o : Issuer := ⟨c.part, c.owner, c.colour, none⟩
      let t := { s with
        colls := s.colls.eraseIdx pos
        flights := s.flights ++ (c.outbox.filter fun r => !r.sent).map fun r => ⟨o, 3, c.target r.seg⟩
        draws := s.draws + (collW c.shape) * c.recv.length }
      let t := imageColls t c.part new fun cs => cs.filter fun d => !(d.issued && c.is d)
      let t := performWrites t o (.agent c.priv) t.core.id ws
      let t := arrive t c.part c.purse c.bytes (c.err || c.mismatch) c.owner new
      .next (if c.mismatch then collEvent t c else t)
    else .next s

/-- Change one instance, in the image too where the step is of the old colour. -/
def mapColl (s : State) (pos : Nat) (c : Coll) (f : Coll → Coll) : State :=
  imageColls { s with colls := setAt s.colls pos (f c) } c.part (newColour s c.part c.colour)
    fun cs => updFirst (fun d => d.issued && c.is d) f cs

/-- The Clearing House reads one send element of an issued instance; with the last the instance starts (R345). -/
def collReadOne (s : State) (pos elem : Nat) : State :=
  match s.colls[pos]? with
  | none => s
  | some c => match c.unread.find? fun u => decide (u.1 = elem) with
    | none => s
    | some u =>
      let r := collElem s c u.2
      let b := startIn (c.took elem r.1)
      mapColl { r.2 with outMsgs := r.2.outMsgs ++ b.2 } pos c fun d => (startIn (d.took elem r.1)).1

/-- COLLECTIVE_TIMEOUT (R351): once, for an instance that some member never issues. -/
def execCollectiveTimeout (pos : Nat) (s : State) : Host.Outcome State Fault Refusal :=
  match s.colls[pos]? with
  | none => .next s
  | some c =>
    if c.issued && !c.timed && !c.full then .next (collEvent (mapColl s pos c fun d => { d with timed := true }) c)
    else .next s

/-- CHUNK_LANDING_ACK (R352): the sender records a chunk as sent. -/
def execChunkLandingAck (pos chunk : Nat) (s : State) : Host.Outcome State Fault Refusal :=
  match s.colls[pos]? with
  | none => .next s
  | some c =>
    let t := mapColl s pos c fun d => { d with outbox := d.outbox.modify chunk fun r => { r with sent := true } }
    .next (landArea t c.part (newColour s c.part c.colour) chunkRecord)

/-! ## PEER requests from other chips (R338) -/

/-- The partition whose job block holds a non-zero JOBID. -/
def jobPart (s : State) (job : BitVec 32) : Option Nat :=
  if job = 0 then none else (upFrom 0 s.nparts).find? fun k => decide (jobId s k = job)

/-- Translate a PEER request with U-mode permission, with what the walk leaves; none where it fails. -/
def peerXlate (s : State) (k : Nat) (acc : Acc) (va : Word) : Option Loc × State :=
  if Config.windowBase ≤ va.toNat then (none, s)
  else match xlate s k va.toNat acc .user false false with
  | .leaf w base page t =>
    let a := leafFrame w * 65536 + (va.toNat - base)
    if leafLoc w = 0 ∧ a < Config.hbmBytes then (some (.phys a (leafKind w) page), t)
    else if leafLoc w = 1 ∧ a < Config.tier2Bytes then (some (.phys (Config.tier2Base + a) (leafKind w) page), t)
    else (none, t)
  | .fault t | .access t | .poison _ t => (none, t)

/-- PEER_REQUEST (R338): performed by the partition that holds the JOBID, or refused; a store in its packet's colour (R354). It
comes on PREQ of a Kyotrix link, which no Ethernet port carries (R339), in the order of that channel (R335). -/
def execPeerRequest (m : OnLink PeerReq) (s : State) : Host.Outcome State Fault Refusal :=
  let refuse (t : State) : Host.Outcome State Fault Refusal := .next { t with outMsgs := t.outMsgs ++ [Msg.peerRefuse] }
  if 18 ≤ m.link then .next s
  else match m.msg with
  | .load job va size =>
    match jobPart s job with
    | none => refuse s
    | some k => match peerXlate s k .load va with
      | (some (.phys a _ _), t) =>
        let r := scrubRead t a size
        if r.1 || !physOk a size then refuse r.2
        else .next { r.2 with outMsgs := r.2.outMsgs ++ [Msg.peerReply (getBytes r.2.mem a size)] }
      | (some (.pocket _), t) | (some (.peer _ _), t) | (none, t) => refuse t
  | .store job va bytes colour =>
    match jobPart s job with
    | none => refuse s
    | some k =>
      if outOfOrder s k m.link 1 colour then .next s
      else match peerXlate s k .store va with
      | (some (.phys a kind page), t) =>
        if frameProtected t a || transitHit t k (.phys a kind page) || !physOk a bytes.length then refuse t
        else .next (levelHook t (physWrite t k (newColour t k colour) (.agent .user) page a bytes))
      | (some (.pocket _), t) | (some (.peer _ _), t) | (none, t) => refuse t

end Sys2Proof.Machine
end

