-- ==== Sys2Proof/Machine/Platform.lean ====
section
/-! DEFINITION. The platform (R386 to R393, R414): partition set-up and profiles, host writes on HREQ, the job block, the
mailbox, boot and measurements, clock steps and thermal shutdown, and the background work on memory (R217, R220). -/

namespace Sys2Proof.Machine

/-! ## Physical writes by no thread -/

/-- HOST_WRITE (R243, R355, R219): the bytes are written at their banks or memory, with page splitting, granule merging and
the cancels of R332; fields that are not the host's to write stay (R29). An address outside the installed memories changes nothing. -/
def execHostWrite (addr : Nat) (bytes : List Byte) (s : State) : Host.Outcome State Fault Refusal :=
  if isPort addr then .refused (.devicePort addr)
  else if physOk addr bytes.length then .next (agentStores s (.agent .user) addr bytes)
  else .next s

/-- JOB_BLOCK_WRITE (R336, R337): an 8-byte field of the job block is written; a field that is not RW, and any write while
SNEN = 1 or a collective is outstanding, is ignored; SNEN or JOBID makes the fabric logic read the job chip map. -/
def execJobBlockWrite (part off : Nat) (val : Word) (s : State) : Host.Outcome State Fault Refusal :=
  match jobBlock s part with
  | some j =>
    if off + 8 ≤ 256 then .next (physWrite s part true (.agent .supervisor) none (j + off) (natBytes 8 val.toNat)) else .next s
  | none => .next s

/-! ## ECC in the background (R217, R220) -/

/-- A background read of one granule: a correctable error is corrected and written back, an uncorrectable one poisons. -/
def scrubOne (s : State) (g : Nat) : State :=
  match eccAt s g with
  | none | some .poisoned => s
  | some .correctable => bumpEcc (setEcc s g none) g ctrCorr
  | some .uncorrectable => bumpEcc (setEcc s g (some .poisoned)) g ctrUncorr

/-- SCRUB_GRANULE (R220): what the scrubber finds in a granule is corrected or poisoned. -/
def execScrubGranule (addr : Nat) (found : EccFind) (s : State) : Host.Outcome State Fault Refusal :=
  if physOk addr 1 then
    let g := granuleOf addr
    let t := match found, eccAt s g with
      | .clean, _ => s
      | .correctable, none => setEcc s g (some .correctable)
      | .uncorrectable, none | .uncorrectable, some .correctable => setEcc s g (some .uncorrectable)
      | .correctable, some _ | .uncorrectable, some _ => s
    .next (scrubOne t g)
  else .next s

/-- WEAR_ROW_COPY (R220): a row's granules are read, copied with their poison, and remapped: at the addresses programs use,
only an error the read meets shows. -/
def execWearRowCopy (src bytes : Nat) (s : State) : Host.Outcome State Fault Refusal :=
  if physOk src bytes then .next ((granulesOf src bytes).foldl scrubOne s) else .next s

/-- DIRTY_LINE_WRITE_BACK (R217): a dirty 128-byte line with an uncorrectable error is written back with its granules
poisoned. -/
def execDirtyLineWriteBack (line : Nat) (s : State) : Host.Outcome State Fault Refusal :=
  let a := line / 128 * 128
  if physOk a 128 then
    .next ((granulesOf a 128).foldl (fun (t : State) g =>
      if eccAt t g = some .poisoned then t else bumpEcc (setEcc t g (some .poisoned)) g ctrUncorr) s)
  else .next s

/-- LINK_CALIBRATION (R393): the link pauses; queued packets wait and keep their order, so no state changes. -/
def execLinkCalibration (_link : Nat) (s : State) : Host.Outcome State Fault Refusal := .next s

/-! ## Telemetry, clock and temperature (R334, R387) -/

/-- Put a 64-bit value into every partition's counter block. -/
def showAll (s : State) (off v : Nat) : State :=
  (upFrom 0 s.nparts).foldl (fun (t : State) k => devWrite t k (Config.commonsBase + counterBlock t k + off) (natBytes 8 v)) s

/-- A core runs a thread that can give its rib's engines work: a strand's, or a handler's. -/
def coreRuns (s : State) (n : Nat) : Bool := (s.coreAt n).strand.isSome || decide ((s.coreAt n).priv ≠ .user)

/-- An engine of a rib can have had work since the last sample: 0 to 2 where a core of the rib runs a thread, 3 where one serves
as an escrow helper (Table 16.2). -/
def ribWorked (s : State) (rib e : Nat) : Bool :=
  (upFrom (rib * 16) 16).any fun n => if e = 3 then (s.coreAt n).helperOf.isSome else coreRuns s n

/-- BUSY counters of one partition advance by amounts the spec leaves open (log 5), those of engines that have had work. -/
def advanceBusy (s : State) (k : Nat) : State :=
  (upFrom 0 (64 / s.nparts)).foldl (fun (t : State) i =>
    let rib := k * (16 / t.nparts) + i / 4
    if ribWorked t rib (i % 4) then
      bump { t with draws := t.draws + 1 } k (0x100 + 8 * (i % 4) + 32 * rib) (Config.freeWord t.draws).toNat
    else t) s

/-- TELEMETRY_SAMPLE (R334): PWR and TEMP are sampled, and BUSY catches up with the work it counts. -/
def execTelemetrySample (pwr temp : Word) (s : State) : Host.Outcome State Fault Refusal :=
  let t := showAll (showAll s 0x058 pwr.toNat) 0x060 temp.toNat
  .next ((upFrom 0 t.nparts).foldl advanceBusy t)

/-- PWR in mW and TEMP in m°C, as last sampled (Table 16.2). -/
def pwrOf (s : State) : Nat := getLe s.mem (Config.commonsBase + counterBlock s 0 + 0x058) 8
def tempOf (s : State) : Nat := getLe s.mem (Config.commonsBase + counterBlock s 0 + 0x060) 8

/-- The module is over its power limit or its throttle point (R387). -/
def runsHot (s : State) : Bool := decide (1000 * s.tdp.toNat < pwrOf s) || decide (105000 < tempOf s)

/-- It is below 95 % of its limit and below 100 °C (R387). -/
def runsCool (s : State) : Bool := decide (pwrOf s < 950 * s.tdp.toNat) && decide (tempOf s < 100000)

/-- CLOCK_STEP_DOWN (R387): `clock` counts the steps below 2.25 GHz; 1.00 GHz is the fifth and last. DESIGN CHOICE (log 133): the
last sample stands for the cycles over which the condition must hold. -/
def execClockStepDown (s : State) : Host.Outcome State Fault Refusal :=
  .next (if runsHot s then { s with clock := min 5 (s.clock + 1) } else s)

/-- CLOCK_STEP_UP (R387; log 133). -/
def execClockStepUp (s : State) : Host.Outcome State Fault Refusal :=
  .next (if runsCool s then { s with clock := s.clock - 1 } else s)

/-- THERMAL_SHUTDOWN (R387): at 115 °C every vector core stops, and each mailbox shows CODE 0x0F with DBELL. -/
def execThermalShutdown (s : State) : Host.Outcome State Fault Refusal :=
  if tempOf s < 115000 then .next s
  else .next ((upFrom 0 s.nparts).foldl (fun (t : State) k =>
    sysPut (sysPut t k (mailboxAt t k) 2 0x0F) k (mailboxAt t k + 0x40) 8 1) { s with halted := true })

/-! ## The mailbox (R388, R390, R391) -/

/-- DBELL (R388): the host's store sets DBELL; one set before STAT is written is ignored. HOST is pending while it is 1. -/
def execDbell (part : Nat) (s : State) : Host.Outcome State Fault Refusal :=
  if part < s.nparts ∧ part ∉ s.mboxWait then .next (sysPut s part (mailboxAt s part + 0x40) 8 1) else .next s

/-- The request a mailbox holds: CODE, where DBELL is set. -/
def mailRequest (s : State) (k : Nat) : Option Nat :=
  if k < s.nparts ∧ dbellSet s k then some (getLe s.mem (mailboxAt s k) 2) else none

/-- Firmware clears DBELL, does the work, and writes STAT last. -/
def mailServe (s : State) (k : Nat) (work : State → State) (stat : Nat) : State :=
  sysPut (work (sysPut s k (mailboxAt s k + 0x40) 8 0)) k (mailboxAt s k + 0x80) 8 stat

/-- MAILBOX_SET_TDP (R388): code 1; in force and in the counter blocks before STAT = 0; STAT = 2 for a value out of its
range or off its step. -/
def execMailboxSetTdp (part : Nat) (s : State) : Host.Outcome State Fault Refusal :=
  if mailRequest s part = some 1 then
    let w := getLe s.mem (mailboxAt s part + 8) 2
    if 1400 ≤ w ∧ w ≤ 2200 ∧ w % 50 = 0 then
      .next (mailServe s part (fun t => showAll { t with tdp := BitVec.ofNat 64 w } 0x068 w) 0)
    else .next (mailServe s part id 2)
  else .next s

/-- A measurement register as its 32 digest bytes, first byte first. -/
def measureBytes (m : BitVec 256) : List Byte := natBytes 32 m.toNat

/-- The bytes of M0 to M3. -/
def allMeasures (s : State) : List Byte := s.measure.toList.flatMap measureBytes

/-- The signature of a quote over a nonce (R391), 64 bytes. -/
def quote (s : State) (nonce : List Byte) : List Byte :=
  let sig := Config.sm2Sign (sm3 (nonce ++ allMeasures s ++ natBytes 2 s.chip.toNat))
  (sig ++ List.replicate 64 0).take 64

/-- MAILBOX_ATTEST (R391): code 2. -/
def execMailboxAttest (part : Nat) (s : State) : Host.Outcome State Fault Refusal :=
  if mailRequest s part = some 2 then
    let nonce := getBytes s.mem (mailboxAt s part + 8) 32
    .next (mailServe s part (fun t => sysWrite t part (mailboxAt t part + 0x88) (quote t nonce)) 0)
  else .next s

/-- MAILBOX_READ_MEASUREMENTS (R390): code 3; RSP has 120 bytes, so it holds the first 120 of the 128. -/
def execMailboxReadMeasurements (part : Nat) (s : State) : Host.Outcome State Fault Refusal :=
  if mailRequest s part = some 3 then
    .next (mailServe s part (fun t => sysWrite t part (mailboxAt t part + 0x88) ((allMeasures t).take 120)) 0)
  else .next s

/-! ## Boot and measurement (R389, R390, R414) -/

/-- Mi := SM3(Mi ‖ digest). -/
def extendM (s : State) (i : Fin 4) (digest : List Byte) : State :=
  { s with measure := s.measure.set i (BitVec.ofNat 256 (leNat (sm3 (measureBytes (s.measure.get i) ++ digest)))) }

/-- A stage verifies (R389): its key is the one whose SM3 digest is fused in the die, and its signature is that key's over the
digest of its image (DESIGN CHOICE, log 122: each later stage is checked against the fused digest too). -/
def stageVerifies (x : BootStage) : Bool :=
  decide (sm3 x.key = Config.fusedKey) && Config.sm2Verify x.key x.sig (sm3 x.image)

/-- The register a stage is measured in (R390): machine firmware M0, partition firmware M1, every later stage, a supervisor,
M2. -/
def stageReg (i : Nat) : Fin 4 := if i = 0 then 0 else if i = 1 then 1 else 2

/-- Verify, measure and run the stages in their order, up to the first that fails (R389, R390); answers whether all run. -/
def bootStages : Nat → List BootStage → State → Bool × State
  | _, [], s => (true, s)
  | i, x :: t, s => if stageVerifies x then bootStages (i + 1) t (extendM s (stageReg i) (sm3 x.image)) else (false, s)

/-- POWER_ON_BOOT (R389, R390, R414): a chip number its domain already holds, no image, or a stage that does not verify leaves
the module in reset and is reported on HREQ. -/
def execPowerOnBoot (boot : BootReport) (s : State) : Host.Outcome State Fault Refusal :=
  let r := bootStages 0 boot.stages s
  if r.1 && !boot.stages.isEmpty && !boot.taken then .next { r.2 with inReset := false, chip := boot.chip, links := boot.links }
  else .next { r.2 with inReset := true, outMsgs := r.2.outMsgs ++ [Msg.bootFailure] }

/-! ## Partition set-up and profiles (R100, R319, R392) -/

/-- A partition holds a strand, a launch, a vault image or an outstanding collective (R392). -/
def partitionBusy (s : State) (k : Nat) : Bool :=
  !(strandCores s k).isEmpty || (s.part k).launches.any (fun l => decide (l.st ≠ .done)) || (s.part k).vaulted
    || s.colls.any fun c => decide (c.part = k)

/-- A partition after its set-up: its registers and PROF are as firmware has them, and it holds no work, object or
translation. -/
def freshPartition (p : Partition) : Partition :=
  { Partition.reset with
    ptroot := p.ptroot
    wqbase := p.wqbase
    ctxbase := p.ctxbase
    evqbase := p.evqbase
    caplist := p.caplist
    prof := p.prof }

/-- The job block of a partition is zeroed (R392 step 4, R336). -/
def clearJob (s : State) (k : Nat) : State :=
  match jobBlock s k with
  | some j => devWrite s k j (List.replicate 256 0)
  | none => s

/-- Repartition the chip (R392 step 1): the Commons, and with it every counter block, is zeroed, and every partition starts with
no work and an empty job block. The power limit shows in the new counter blocks (Table 16.2). What firmware then writes is
`setupPart`. -/
def repartition (s : State) (n : BitVec 3) : State :=
  let s := { s with
    pcnt := n
    mem := clearBytes s.mem Config.commonsBase (Config.commonsBase + Config.commonsBytes)
    ecc := s.ecc.filter fun g => !isCommons g.1
    commonsSnap := []
    mboxWait := []
    parts := s.parts.map freshPartition }
  (upFrom 0 s.nparts).foldl clearJob (showAll s 0x068 s.tdp.toNat)

/-- A write of PCNT takes effect only while no partition holds work; a count past 16 partitions is no count (Table 5.6). -/
def writePcnt (s : State) (n : BitVec 3) : State :=
  if 4 < n ∨ (upFrom 0 s.nparts).any (partitionBusy s) then s else repartition s n

/-- A write of PROF (R100), shown in the EN bits of the capability list (R319). -/
def writeProf (s : State) (v : BitVec 4) : State := showProfiles (s.mapPart s.pidx fun p => { p with prof := v }) s.pidx

/-- The capability table shows every core of a partition as the assay controller has it (R314). -/
def showCaps (s : State) (k : Nat) : State :=
  (coresOf s k).foldl (fun (t : State) n => match capRecord t k n with
    | some v => sysStore t k true v (natBytes 4 (t.coreAt n).assaycap.toNat)
    | none => t) s

/-- The fabric entry holds the chip's number (R319, R414). -/
def showChip (s : State) (k : Nat) : State :=
  match capBody s k 0x0011 with
  | none => s
  | some b => sysStore s k true b (natBytes 2 (sysLe s k b 2 / 4096 * 4096 + s.chip.toNat))

/-- The object table is cleared (R392 step 3). -/
def clearObjects (s : State) (k : Nat) : State :=
  match objTable s k with
  | none => s
  | some (base, n) => (upFrom 0 n).foldl (fun (t : State) i => sysStore t k true (base + 128 * i) (List.replicate 128 0)) s

/-- The job block is written: its RW fields as firmware has them, its other fields as the fabric logic does (R392 step 4, R336,
R337). -/
def setJob (s : State) (k : Nat) (job : List Byte) : State :=
  match jobBlock s k with
  | none => s
  | some j => showJobState (physWrite (clearJob s k) k true (.agent .supervisor) none j (job.take 256)) k

/-- What M3 is extended with at a set-up, in one string (DESIGN CHOICE, log 134). -/
def setupBytes (cfg : SetupCfg) : List Byte :=
  natBytes 8 cfg.ptroot.toNat ++ natBytes 8 cfg.wqbase.toNat ++ natBytes 8 cfg.ctxbase.toNat ++ natBytes 8 cfg.evqbase.toNat
    ++ natBytes 8 cfg.caplist.toNat ++ cfg.job.take 256

/-- Machine firmware prepares a partition (R392 steps 2 to 5): its registers, the capability list with PROF, the chip's number
and the capability table as they are (R314, R319, R414), an empty object table, the job block, and the digest in M3. It does so
before the partition has any work. -/
def setupPart (k : Nat) (cfg : SetupCfg) (s : State) : State :=
  if s.nparts ≤ k ∨ partitionBusy s k = true then s
  else
    let s := s.mapPart k fun p => { p with
      ptroot := cfg.ptroot &&& ~~~0xFFFF
      wqbase := cfg.wqbase &&& ~~~0x3F
      ctxbase := cfg.ctxbase &&& ~~~0x3F
      evqbase := cfg.evqbase &&& ~~~0x3F
      caplist := cfg.caplist
      tlb := []
      objs := [] }
    let s := clearObjects (showCaps (showChip (showProfiles s k) k) k) k
    extendM (setJob s k cfg.job) 3 (sm3 (setupBytes cfg))

/-- Whether a Zicsr form writes PCNT: a set or clear only where its mask reaches the field. -/
def pcntWritten (op : CsrOp) (src : XReg) (c : Ctx) : Bool :=
  match op with
  | .rw | .rwi => true
  | .rs | .rc | .rsi | .rci => (csrSource op src c).extractLsb' 4 3 != 0

/-- PARTITION_SETUP (R392): a write of `pcfg` that can reach PCNT. -/
def execPartitionSetup (op : CsrOp) (src rd : XReg) (s : State) : Host.Outcome State Fault Refusal :=
  csrAccess (.partitionSetup op src rd) op csrPcfg src rd (fun t v =>
    let t' := writeProf t (v.extractLsb' 0 4)
    some (if pcntWritten op src t.ctx then writePcnt t' (v.extractLsb' 4 3) else t')) s

/-- PROFILE_ENABLE_WRITE (R100): a write of `pcfg` that reaches PROF only. -/
def execProfileEnableWrite (op : CsrOp) (src rd : XReg) (s : State) : Host.Outcome State Fault Refusal :=
  csrAccess (.profileEnableWrite op src rd) op csrPcfg src rd (fun t v => some (writeProf t (v.extractLsb' 0 4))) s

end Sys2Proof.Machine
end

