-- ==== Sys2Proof/Machine/VecSpace.lean ====
section
/-! DEFINITION. V-space instructions (spec/06, spec/07): each is committed to the VIQ and takes its effect there. -/

namespace Sys2Proof.Machine

/-- VADD_VV (R129): vadd adds elementwise, vector source; committed to the VIQ. -/
def execVaddVv (e : Bool) (vs2 vs1 : VReg5) (m : MReg3) (vd : VReg5) (s : State) : Host.Outcome State Fault Refusal :=
  viqCommit (.vaddVv e vs2 vs1 m vd) [] s

/-- VADD_VX (R129): vadd adds elementwise, scalar source; committed to the VIQ. -/
def execVaddVx (e : Bool) (rs2 : XReg) (vs1 : VReg5) (m : MReg3) (vd : VReg5)
    (s : State) : Host.Outcome State Fault Refusal :=
  viqCommit (.vaddVx e rs2 vs1 m vd) [] s

/-- VADD_VI (R129): vadd adds elementwise, immediate source; committed to the VIQ. -/
def execVaddVi (e : Bool) (imm : BitVec 5) (vs1 : VReg5) (m : MReg3) (vd : VReg5)
    (s : State) : Host.Outcome State Fault Refusal :=
  viqCommit (.vaddVi e imm vs1 m vd) [] s

/-- VSUB_VV (R129): vsub subtracts elementwise, vector source; committed to the VIQ. -/
def execVsubVv (e : Bool) (vs2 vs1 : VReg5) (m : MReg3) (vd : VReg5) (s : State) : Host.Outcome State Fault Refusal :=
  viqCommit (.vsubVv e vs2 vs1 m vd) [] s

/-- VSUB_VX (R129): vsub subtracts elementwise, scalar source; committed to the VIQ. -/
def execVsubVx (e : Bool) (rs2 : XReg) (vs1 : VReg5) (m : MReg3) (vd : VReg5)
    (s : State) : Host.Outcome State Fault Refusal :=
  viqCommit (.vsubVx e rs2 vs1 m vd) [] s

/-- VSUB_VI (R129): vsub subtracts elementwise, immediate source; committed to the VIQ. -/
def execVsubVi (e : Bool) (imm : BitVec 5) (vs1 : VReg5) (m : MReg3) (vd : VReg5)
    (s : State) : Host.Outcome State Fault Refusal :=
  viqCommit (.vsubVi e imm vs1 m vd) [] s

/-- VMUL_VV (R129): vmul multiplies elementwise, vector source; committed to the VIQ. -/
def execVmulVv (e : Bool) (vs2 vs1 : VReg5) (m : MReg3) (vd : VReg5) (s : State) : Host.Outcome State Fault Refusal :=
  viqCommit (.vmulVv e vs2 vs1 m vd) [] s

/-- VMUL_VX (R129): vmul multiplies elementwise, scalar source; committed to the VIQ. -/
def execVmulVx (e : Bool) (rs2 : XReg) (vs1 : VReg5) (m : MReg3) (vd : VReg5)
    (s : State) : Host.Outcome State Fault Refusal :=
  viqCommit (.vmulVx e rs2 vs1 m vd) [] s

/-- VMUL_VI (R129): vmul multiplies elementwise, immediate source; committed to the VIQ. -/
def execVmulVi (e : Bool) (imm : BitVec 5) (vs1 : VReg5) (m : MReg3) (vd : VReg5)
    (s : State) : Host.Outcome State Fault Refusal :=
  viqCommit (.vmulVi e imm vs1 m vd) [] s

/-- VMAC_VV (R129): vmac multiply-adds into vd, fused, vector source; committed to the VIQ. -/
def execVmacVv (e : Bool) (vs2 vs1 : VReg5) (m : MReg3) (vd : VReg5) (s : State) : Host.Outcome State Fault Refusal :=
  viqCommit (.vmacVv e vs2 vs1 m vd) [] s

/-- VMAC_VX (R129): vmac multiply-adds into vd, fused, scalar source; committed to the VIQ. -/
def execVmacVx (e : Bool) (rs2 : XReg) (vs1 : VReg5) (m : MReg3) (vd : VReg5)
    (s : State) : Host.Outcome State Fault Refusal :=
  viqCommit (.vmacVx e rs2 vs1 m vd) [] s

/-- VMAC_VI (R129): vmac multiply-adds into vd, fused, immediate source; committed to the VIQ. -/
def execVmacVi (e : Bool) (imm : BitVec 5) (vs1 : VReg5) (m : MReg3) (vd : VReg5)
    (s : State) : Host.Outcome State Fault Refusal :=
  viqCommit (.vmacVi e imm vs1 m vd) [] s

/-- VMIN_VV (R129): vmin takes the elementwise minimum, vector source; committed to the VIQ. -/
def execVminVv (e : Bool) (vs2 vs1 : VReg5) (m : MReg3) (vd : VReg5) (s : State) : Host.Outcome State Fault Refusal :=
  viqCommit (.vminVv e vs2 vs1 m vd) [] s

/-- VMIN_VX (R129): vmin takes the elementwise minimum, scalar source; committed to the VIQ. -/
def execVminVx (e : Bool) (rs2 : XReg) (vs1 : VReg5) (m : MReg3) (vd : VReg5)
    (s : State) : Host.Outcome State Fault Refusal :=
  viqCommit (.vminVx e rs2 vs1 m vd) [] s

/-- VMIN_VI (R129): vmin takes the elementwise minimum, immediate source; committed to the VIQ. -/
def execVminVi (e : Bool) (imm : BitVec 5) (vs1 : VReg5) (m : MReg3) (vd : VReg5)
    (s : State) : Host.Outcome State Fault Refusal :=
  viqCommit (.vminVi e imm vs1 m vd) [] s

/-- VMAX_VV (R129): vmax takes the elementwise maximum, vector source; committed to the VIQ. -/
def execVmaxVv (e : Bool) (vs2 vs1 : VReg5) (m : MReg3) (vd : VReg5) (s : State) : Host.Outcome State Fault Refusal :=
  viqCommit (.vmaxVv e vs2 vs1 m vd) [] s

/-- VMAX_VX (R129): vmax takes the elementwise maximum, scalar source; committed to the VIQ. -/
def execVmaxVx (e : Bool) (rs2 : XReg) (vs1 : VReg5) (m : MReg3) (vd : VReg5)
    (s : State) : Host.Outcome State Fault Refusal :=
  viqCommit (.vmaxVx e rs2 vs1 m vd) [] s

/-- VMAX_VI (R129): vmax takes the elementwise maximum, immediate source; committed to the VIQ. -/
def execVmaxVi (e : Bool) (imm : BitVec 5) (vs1 : VReg5) (m : MReg3) (vd : VReg5)
    (s : State) : Host.Outcome State Fault Refusal :=
  viqCommit (.vmaxVi e imm vs1 m vd) [] s

/-- VAND_VV (R129): vand ANDs elementwise, vector source; committed to the VIQ. -/
def execVandVv (e : Bool) (vs2 vs1 : VReg5) (m : MReg3) (vd : VReg5) (s : State) : Host.Outcome State Fault Refusal :=
  viqCommit (.vandVv e vs2 vs1 m vd) [] s

/-- VAND_VX (R129): vand ANDs elementwise, scalar source; committed to the VIQ. -/
def execVandVx (e : Bool) (rs2 : XReg) (vs1 : VReg5) (m : MReg3) (vd : VReg5)
    (s : State) : Host.Outcome State Fault Refusal :=
  viqCommit (.vandVx e rs2 vs1 m vd) [] s

/-- VAND_VI (R129): vand ANDs elementwise, immediate source; committed to the VIQ. -/
def execVandVi (e : Bool) (imm : BitVec 5) (vs1 : VReg5) (m : MReg3) (vd : VReg5)
    (s : State) : Host.Outcome State Fault Refusal :=
  viqCommit (.vandVi e imm vs1 m vd) [] s

/-- VOR_VV (R129): vor ORs elementwise, vector source; committed to the VIQ. -/
def execVorVv (e : Bool) (vs2 vs1 : VReg5) (m : MReg3) (vd : VReg5) (s : State) : Host.Outcome State Fault Refusal :=
  viqCommit (.vorVv e vs2 vs1 m vd) [] s

/-- VOR_VX (R129): vor ORs elementwise, scalar source; committed to the VIQ. -/
def execVorVx (e : Bool) (rs2 : XReg) (vs1 : VReg5) (m : MReg3) (vd : VReg5)
    (s : State) : Host.Outcome State Fault Refusal :=
  viqCommit (.vorVx e rs2 vs1 m vd) [] s

/-- VOR_VI (R129): vor ORs elementwise, immediate source; committed to the VIQ. -/
def execVorVi (e : Bool) (imm : BitVec 5) (vs1 : VReg5) (m : MReg3) (vd : VReg5)
    (s : State) : Host.Outcome State Fault Refusal :=
  viqCommit (.vorVi e imm vs1 m vd) [] s

/-- VXOR_VV (R129): vxor XORs elementwise, vector source; committed to the VIQ. -/
def execVxorVv (e : Bool) (vs2 vs1 : VReg5) (m : MReg3) (vd : VReg5) (s : State) : Host.Outcome State Fault Refusal :=
  viqCommit (.vxorVv e vs2 vs1 m vd) [] s

/-- VXOR_VX (R129): vxor XORs elementwise, scalar source; committed to the VIQ. -/
def execVxorVx (e : Bool) (rs2 : XReg) (vs1 : VReg5) (m : MReg3) (vd : VReg5)
    (s : State) : Host.Outcome State Fault Refusal :=
  viqCommit (.vxorVx e rs2 vs1 m vd) [] s

/-- VXOR_VI (R129): vxor XORs elementwise, immediate source; committed to the VIQ. -/
def execVxorVi (e : Bool) (imm : BitVec 5) (vs1 : VReg5) (m : MReg3) (vd : VReg5)
    (s : State) : Host.Outcome State Fault Refusal :=
  viqCommit (.vxorVi e imm vs1 m vd) [] s

/-- VSHL_VV (R129): vshl shifts left elementwise, vector amount; committed to the VIQ. -/
def execVshlVv (e : Bool) (vs2 vs1 : VReg5) (m : MReg3) (vd : VReg5) (s : State) : Host.Outcome State Fault Refusal :=
  viqCommit (.vshlVv e vs2 vs1 m vd) [] s

/-- VSHL_VX (R129): vshl shifts left elementwise, scalar amount; committed to the VIQ. -/
def execVshlVx (e : Bool) (rs2 : XReg) (vs1 : VReg5) (m : MReg3) (vd : VReg5)
    (s : State) : Host.Outcome State Fault Refusal :=
  viqCommit (.vshlVx e rs2 vs1 m vd) [] s

/-- VSHL_VI (R129): vshl shifts left elementwise, immediate amount; committed to the VIQ. -/
def execVshlVi (e : Bool) (imm : BitVec 5) (vs1 : VReg5) (m : MReg3) (vd : VReg5)
    (s : State) : Host.Outcome State Fault Refusal :=
  viqCommit (.vshlVi e imm vs1 m vd) [] s

/-- VSHR_VV (R129): vshr shifts right elementwise, vector amount; committed to the VIQ. -/
def execVshrVv (e : Bool) (vs2 vs1 : VReg5) (m : MReg3) (vd : VReg5) (s : State) : Host.Outcome State Fault Refusal :=
  viqCommit (.vshrVv e vs2 vs1 m vd) [] s

/-- VSHR_VX (R129): vshr shifts right elementwise, scalar amount; committed to the VIQ. -/
def execVshrVx (e : Bool) (rs2 : XReg) (vs1 : VReg5) (m : MReg3) (vd : VReg5)
    (s : State) : Host.Outcome State Fault Refusal :=
  viqCommit (.vshrVx e rs2 vs1 m vd) [] s

/-- VSHR_VI (R129): vshr shifts right elementwise, immediate amount; committed to the VIQ. -/
def execVshrVi (e : Bool) (imm : BitVec 5) (vs1 : VReg5) (m : MReg3) (vd : VReg5)
    (s : State) : Host.Outcome State Fault Refusal :=
  viqCommit (.vshrVi e imm vs1 m vd) [] s

/-- VDIV_VV (R129): vdiv divides elementwise, vector divisor; committed to the VIQ. -/
def execVdivVv (e : Bool) (vs2 vs1 : VReg5) (m : MReg3) (vd : VReg5) (s : State) : Host.Outcome State Fault Refusal :=
  viqCommit (.vdivVv e vs2 vs1 m vd) [] s

/-- VDIV_VX (R129): vdiv divides elementwise, scalar divisor; committed to the VIQ. -/
def execVdivVx (e : Bool) (rs2 : XReg) (vs1 : VReg5) (m : MReg3) (vd : VReg5)
    (s : State) : Host.Outcome State Fault Refusal :=
  viqCommit (.vdivVx e rs2 vs1 m vd) [] s

/-- VDIV_VI (R129): vdiv divides elementwise, immediate divisor; committed to the VIQ. -/
def execVdivVi (e : Bool) (imm : BitVec 5) (vs1 : VReg5) (m : MReg3) (vd : VReg5)
    (s : State) : Host.Outcome State Fault Refusal :=
  viqCommit (.vdivVi e imm vs1 m vd) [] s

/-- VCMP_VV (R131): vcmp compares elementwise into a mask, vector source; committed to the VIQ. -/
def execVcmpVv (e : Bool) (vs2 vs1 : VReg5) (m d : MReg3) (c : BitVec 2)
    (s : State) : Host.Outcome State Fault Refusal :=
  viqCommit (.vcmpVv e vs2 vs1 m d c) [] s

/-- VCMP_VX (R131): vcmp compares elementwise into a mask, scalar source; committed to the VIQ. -/
def execVcmpVx (e : Bool) (rs2 : XReg) (vs1 : VReg5) (m d : MReg3) (c : BitVec 2)
    (s : State) : Host.Outcome State Fault Refusal :=
  viqCommit (.vcmpVx e rs2 vs1 m d c) [] s

/-- VCMP_VI (R131): vcmp compares elementwise into a mask, immediate source; committed to the VIQ. -/
def execVcmpVi (e : Bool) (imm : BitVec 5) (vs1 : VReg5) (m d : MReg3) (c : BitVec 2)
    (s : State) : Host.Outcome State Fault Refusal :=
  viqCommit (.vcmpVi e imm vs1 m d c) [] s

/-- VMERGE_VV (R132): vmerge selects elementwise between two vectors under a mask; committed to the VIQ. -/
def execVmergeVv (e : Bool) (vs2 vs1 : VReg5) (m : MReg3) (vd : VReg5)
    (s : State) : Host.Outcome State Fault Refusal :=
  viqCommit (.vmergeVv e vs2 vs1 m vd) [] s

/-- VMERGE_VX (R132): vmerge selects elementwise between a vector and a scalar under a mask; committed to the VIQ. -/
def execVmergeVx (e : Bool) (rs2 : XReg) (vs1 : VReg5) (m : MReg3) (vd : VReg5)
    (s : State) : Host.Outcome State Fault Refusal :=
  viqCommit (.vmergeVx e rs2 vs1 m vd) [] s

/-- VMERGE_VI (R132): vmerge selects elementwise between a vector and an immediate under a mask; committed to the VIQ. -/
def execVmergeVi (e : Bool) (imm : BitVec 5) (vs1 : VReg5) (m : MReg3) (vd : VReg5)
    (s : State) : Host.Outcome State Fault Refusal :=
  viqCommit (.vmergeVi e imm vs1 m vd) [] s

/-- VPERM_GATHER (R146): vperm gathers elements of vs1 by vs2 indices; committed to the VIQ. -/
def execVpermGather (e : Bool) (vs2 vs1 : VReg5) (m : MReg3) (vd : VReg5)
    (s : State) : Host.Outcome State Fault Refusal :=
  viqCommit (.vpermGather e vs2 vs1 m vd) [] s

/-- VPERM_SLIDE_VX (R147): vperm slides elements down by a signed scalar amount; committed to the VIQ. -/
def execVpermSlideVx (e : Bool) (rs2 : XReg) (vs1 : VReg5) (m : MReg3) (vd : VReg5)
    (s : State) : Host.Outcome State Fault Refusal :=
  viqCommit (.vpermSlideVx e rs2 vs1 m vd) [] s

/-- VPERM_SLIDE_VI (R147): vperm slides elements down by a signed immediate; committed to the VIQ. -/
def execVpermSlideVi (e : Bool) (imm : BitVec 5) (vs1 : VReg5) (m : MReg3) (vd : VReg5)
    (s : State) : Host.Outcome State Fault Refusal :=
  viqCommit (.vpermSlideVi e imm vs1 m vd) [] s

/-- VSLIDEUP_VX (R148): vslideup slides elements up by an unsigned scalar amount; committed to the VIQ. -/
def execVslideupVx (e : Bool) (rs2 : XReg) (vs1 : VReg5) (m : MReg3) (vd : VReg5)
    (s : State) : Host.Outcome State Fault Refusal :=
  viqCommit (.vslideupVx e rs2 vs1 m vd) [] s

/-- VSLIDEUP_VI (R148): vslideup slides elements up by an immediate 0 to 15; committed to the VIQ. -/
def execVslideupVi (e : Bool) (imm : BitVec 5) (vs1 : VReg5) (m : MReg3) (vd : VReg5)
    (s : State) : Host.Outcome State Fault Refusal :=
  viqCommit (.vslideupVi e imm vs1 m vd) [] s

/-- VMOV (R144): vmov moves elements by the move rule; committed to the VIQ. -/
def execVmov (e : Bool) (vs1 : VReg5) (m : MReg3) (vd : VReg5) (s : State) : Host.Outcome State Fault Refusal :=
  viqCommit (.vmov e vs1 m vd) [] s

/-- VNEG (R144): vneg negates elements; committed to the VIQ. -/
def execVneg (e : Bool) (vs1 : VReg5) (m : MReg3) (vd : VReg5) (s : State) : Host.Outcome State Fault Refusal :=
  viqCommit (.vneg e vs1 m vd) [] s

/-- VABS (R144): vabs takes absolute values; committed to the VIQ. -/
def execVabs (e : Bool) (vs1 : VReg5) (m : MReg3) (vd : VReg5) (s : State) : Host.Outcome State Fault Refusal :=
  viqCommit (.vabs e vs1 m vd) [] s

/-- VNOT (R144): vnot inverts integer bits; committed to the VIQ. -/
def execVnot (e : Bool) (vs1 : VReg5) (m : MReg3) (vd : VReg5) (s : State) : Host.Outcome State Fault Refusal :=
  viqCommit (.vnot e vs1 m vd) [] s

/-- VSQRT (R144): vsqrt takes correctly rounded square roots; committed to the VIQ. -/
def execVsqrt (e : Bool) (vs1 : VReg5) (m : MReg3) (vd : VReg5) (s : State) : Host.Outcome State Fault Refusal :=
  viqCommit (.vsqrt e vs1 m vd) [] s

/-- VRSQRT (R144): vrsqrt takes approximate reciprocal square roots; committed to the VIQ. -/
def execVrsqrt (e : Bool) (vs1 : VReg5) (m : MReg3) (vd : VReg5) (s : State) : Host.Outcome State Fault Refusal :=
  viqCommit (.vrsqrt e vs1 m vd) [] s

/-- VRCP (R144): vrcp takes approximate reciprocals; committed to the VIQ. -/
def execVrcp (e : Bool) (vs1 : VReg5) (m : MReg3) (vd : VReg5) (s : State) : Host.Outcome State Fault Refusal :=
  viqCommit (.vrcp e vs1 m vd) [] s

/-- VEXP2 (R144): vexp2 computes 2 to the power of each element; committed to the VIQ. -/
def execVexp2 (e : Bool) (vs1 : VReg5) (m : MReg3) (vd : VReg5) (s : State) : Host.Outcome State Fault Refusal :=
  viqCommit (.vexp2 e vs1 m vd) [] s

/-- VLOG2 (R144): vlog2 computes base-2 logarithms; committed to the VIQ. -/
def execVlog2 (e : Bool) (vs1 : VReg5) (m : MReg3) (vd : VReg5) (s : State) : Host.Outcome State Fault Refusal :=
  viqCommit (.vlog2 e vs1 m vd) [] s

/-- VSIN (R144): vsin computes sines; committed to the VIQ. -/
def execVsin (e : Bool) (vs1 : VReg5) (m : MReg3) (vd : VReg5) (s : State) : Host.Outcome State Fault Refusal :=
  viqCommit (.vsin e vs1 m vd) [] s

/-- VCOS (R144): vcos computes cosines; committed to the VIQ. -/
def execVcos (e : Bool) (vs1 : VReg5) (m : MReg3) (vd : VReg5) (s : State) : Host.Outcome State Fault Refusal :=
  viqCommit (.vcos e vs1 m vd) [] s

/-- VTANH (R144): vtanh computes hyperbolic tangents; committed to the VIQ. -/
def execVtanh (e : Bool) (vs1 : VReg5) (m : MReg3) (vd : VReg5) (s : State) : Host.Outcome State Fault Refusal :=
  viqCommit (.vtanh e vs1 m vd) [] s

/-- VSIGM (R144): vsigm computes logistic sigmoids; committed to the VIQ. -/
def execVsigm (e : Bool) (vs1 : VReg5) (m : MReg3) (vd : VReg5) (s : State) : Host.Outcome State Fault Refusal :=
  viqCommit (.vsigm e vs1 m vd) [] s

/-- VFLOOR (R144): vfloor rounds down to integral values; committed to the VIQ. -/
def execVfloor (e : Bool) (vs1 : VReg5) (m : MReg3) (vd : VReg5) (s : State) : Host.Outcome State Fault Refusal :=
  viqCommit (.vfloor e vs1 m vd) [] s

/-- VCEIL (R144): vceil rounds up to integral values; committed to the VIQ. -/
def execVceil (e : Bool) (vs1 : VReg5) (m : MReg3) (vd : VReg5) (s : State) : Host.Outcome State Fault Refusal :=
  viqCommit (.vceil e vs1 m vd) [] s

/-- VRND (R144): vrnd rounds to integral values in RM; committed to the VIQ. -/
def execVrnd (e : Bool) (vs1 : VReg5) (m : MReg3) (vd : VReg5) (s : State) : Host.Outcome State Fault Refusal :=
  viqCommit (.vrnd e vs1 m vd) [] s

/-- VCLZ (R144): vclz counts leading zero bits; committed to the VIQ. -/
def execVclz (e : Bool) (vs1 : VReg5) (m : MReg3) (vd : VReg5) (s : State) : Host.Outcome State Fault Refusal :=
  viqCommit (.vclz e vs1 m vd) [] s

/-- VPOPC (R144): vpopc counts set bits; committed to the VIQ. -/
def execVpopc (e : Bool) (vs1 : VReg5) (m : MReg3) (vd : VReg5) (s : State) : Host.Outcome State Fault Refusal :=
  viqCommit (.vpopc e vs1 m vd) [] s

/-- VID (R144): vid writes each element's index; committed to the VIQ. -/
def execVid (e : Bool) (m : MReg3) (vd : VReg5) (s : State) : Host.Outcome State Fault Refusal :=
  viqCommit (.vid e m vd) [] s

/-- VBCAST (R144): vbcast broadcasts element 0 of vs1; committed to the VIQ. -/
def execVbcast (e : Bool) (vs1 : VReg5) (m : MReg3) (vd : VReg5) (s : State) : Host.Outcome State Fault Refusal :=
  viqCommit (.vbcast e vs1 m vd) [] s

/-- VCLASS (R145): vclass classifies float elements into a one-hot integer; committed to the VIQ. -/
def execVclass (e : Bool) (vs1 : VReg5) (m : MReg3) (vd : VReg5) (s : State) : Host.Outcome State Fault Refusal :=
  viqCommit (.vclass e vs1 m vd) [] s

/-- VCVT (R156): vcvt converts elements rounding in RM; committed to the VIQ. -/
def execVcvt (e : Bool) (vs1 : VReg5) (m : MReg3) (vd : VReg5) (s : State) : Host.Outcome State Fault Refusal :=
  viqCommit (.vcvt e vs1 m vd) [] s

/-- VCVT_RZ (R156): vcvt.rz converts elements rounding toward zero; committed to the VIQ. -/
def execVcvtRz (e : Bool) (vs1 : VReg5) (m : MReg3) (vd : VReg5) (s : State) : Host.Outcome State Fault Refusal :=
  viqCommit (.vcvtRz e vs1 m vd) [] s

/-- VCVT_SR (R156): vcvt.sr converts elements with stochastic rounding; committed to the VIQ. -/
def execVcvtSr (e : Bool) (vs1 : VReg5) (m : MReg3) (vd : VReg5) (s : State) : Host.Outcome State Fault Refusal :=
  viqCommit (.vcvtSr e vs1 m vd) [] s

/-- VCVT_SAT (R156): vcvt.sat converts elements with saturation; committed to the VIQ. -/
def execVcvtSat (e : Bool) (vs1 : VReg5) (m : MReg3) (vd : VReg5) (s : State) : Host.Outcome State Fault Refusal :=
  viqCommit (.vcvtSat e vs1 m vd) [] s

/-- VQUANT (R157): vquant quantises a float vector into HX4 blocks and writes their scale entries; committed to the VIQ. -/
def execVquant (e : Bool) (vs1 : VReg5) (m : MReg3) (vd : VReg5) (s : State) : Host.Outcome State Fault Refusal :=
  viqCommit (.vquant e vs1 m vd) [] s

/-- VREDSUM (R134): vredsum sums enabled elements in ascending order; committed to the VIQ. -/
def execVredsum (e : Bool) (vs1 : VReg5) (m : MReg3) (vd : VReg5) (s : State) : Host.Outcome State Fault Refusal :=
  viqCommit (.vredsum e vs1 m vd) [] s

/-- VREDSUMT (R134): vredsumt sums enabled elements by lane partials and a fixed tree; committed to the VIQ. -/
def execVredsumt (e : Bool) (vs1 : VReg5) (m : MReg3) (vd : VReg5) (s : State) : Host.Outcome State Fault Refusal :=
  viqCommit (.vredsumt e vs1 m vd) [] s

/-- VREDMAX (R134): vredmax reduces to the maximum; committed to the VIQ. -/
def execVredmax (e : Bool) (vs1 : VReg5) (m : MReg3) (vd : VReg5) (s : State) : Host.Outcome State Fault Refusal :=
  viqCommit (.vredmax e vs1 m vd) [] s

/-- VREDMIN (R134): vredmin reduces to the minimum; committed to the VIQ. -/
def execVredmin (e : Bool) (vs1 : VReg5) (m : MReg3) (vd : VReg5) (s : State) : Host.Outcome State Fault Refusal :=
  viqCommit (.vredmin e vs1 m vd) [] s

/-- VREDAND (R134): vredand reduces by AND; committed to the VIQ. -/
def execVredand (e : Bool) (vs1 : VReg5) (m : MReg3) (vd : VReg5) (s : State) : Host.Outcome State Fault Refusal :=
  viqCommit (.vredand e vs1 m vd) [] s

/-- VREDOR (R134): vredor reduces by OR; committed to the VIQ. -/
def execVredor (e : Bool) (vs1 : VReg5) (m : MReg3) (vd : VReg5) (s : State) : Host.Outcome State Fault Refusal :=
  viqCommit (.vredor e vs1 m vd) [] s

/-- VREDXOR (R134): vredxor reduces by XOR; committed to the VIQ. -/
def execVredxor (e : Bool) (vs1 : VReg5) (m : MReg3) (vd : VReg5) (s : State) : Host.Outcome State Fault Refusal :=
  viqCommit (.vredxor e vs1 m vd) [] s

/-- VCOMPRESS (R149): vcompress packs the selected elements densely; committed to the VIQ. -/
def execVcompress (e : Bool) (vs1 : VReg5) (m : MReg3) (vd : VReg5) (s : State) : Host.Outcome State Fault Refusal :=
  viqCommit (.vcompress e vs1 m vd) [] s

/-- VEXPAND (R150): vexpand spreads dense elements into the selected positions; committed to the VIQ. -/
def execVexpand (e : Bool) (vs1 : VReg5) (m : MReg3) (vd : VReg5) (s : State) : Host.Outcome State Fault Refusal :=
  viqCommit (.vexpand e vs1 m vd) [] s

/-- VMIDX (R151): vmidx writes the indices of the selected elements densely; committed to the VIQ. -/
def execVmidx (e : Bool) (m : MReg3) (vd : VReg5) (s : State) : Host.Outcome State Fault Refusal :=
  viqCommit (.vmidx e m vd) [] s

/-- VREV (R152): vrev reverses the elements below VL; committed to the VIQ. -/
def execVrev (e : Bool) (vs1 : VReg5) (m : MReg3) (vd : VReg5) (s : State) : Host.Outcome State Fault Refusal :=
  viqCommit (.vrev e vs1 m vd) [] s

/-- VTR8 (R153): vtr8 transposes each 8 × 8 tile; committed to the VIQ. -/
def execVtr8 (e : Bool) (vs1 : VReg5) (m : MReg3) (vd : VReg5) (s : State) : Host.Outcome State Fault Refusal :=
  viqCommit (.vtr8 e vs1 m vd) [] s

/-- MAND (R133): mand ANDs two masks; committed to the VIQ. -/
def execMand (e : Bool) (a b d : MReg3) (s : State) : Host.Outcome State Fault Refusal :=
  viqCommit (.mand e a b d) [] s

/-- MOR (R133): mor ORs two masks; committed to the VIQ. -/
def execMor (e : Bool) (a b d : MReg3) (s : State) : Host.Outcome State Fault Refusal :=
  viqCommit (.mor e a b d) [] s

/-- MXOR (R133): mxor XORs two masks; committed to the VIQ. -/
def execMxor (e : Bool) (a b d : MReg3) (s : State) : Host.Outcome State Fault Refusal :=
  viqCommit (.mxor e a b d) [] s

/-- MANDN (R133): mandn ANDs a mask with the complement of another; committed to the VIQ. -/
def execMandn (e : Bool) (a b d : MReg3) (s : State) : Host.Outcome State Fault Refusal :=
  viqCommit (.mandn e a b d) [] s

/-- MNOT (R133): mnot complements a mask; committed to the VIQ. -/
def execMnot (e : Bool) (a d : MReg3) (s : State) : Host.Outcome State Fault Refusal :=
  viqCommit (.mnot e a d) [] s

/-- MBF (R133): mbf sets bits before the first set bit; committed to the VIQ. -/
def execMbf (e : Bool) (a d : MReg3) (s : State) : Host.Outcome State Fault Refusal :=
  viqCommit (.mbf e a d) [] s

/-- MIF (R133): mif sets bits up to and including the first set bit; committed to the VIQ. -/
def execMif (e : Bool) (a d : MReg3) (s : State) : Host.Outcome State Fault Refusal :=
  viqCommit (.mif e a d) [] s

/-- MSOF (R133): msof sets only the first set bit; committed to the VIQ. -/
def execMsof (e : Bool) (a d : MReg3) (s : State) : Host.Outcome State Fault Refusal :=
  viqCommit (.msof e a d) [] s

/-- MSET (R133): mset sets every mask bit below VL; committed to the VIQ. -/
def execMset (d : MReg3) (s : State) : Host.Outcome State Fault Refusal :=
  viqCommit (.mset d) [] s

/-- MCLR (R133): mclr clears every mask bit below VL; committed to the VIQ. -/
def execMclr (d : MReg3) (s : State) : Host.Outcome State Fault Refusal :=
  viqCommit (.mclr d) [] s

/-- VMOMU (R158): vmomu performs one AdamW-style update of parameters and both moments; committed to the VIQ. -/
def execVmomu (e : Bool) (vs1 : VReg5) (m : MReg3) (vd : VReg5) (s : State) : Host.Outcome State Fault Refusal :=
  viqCommit (.vmomu e vs1 m vd) [] s

end Sys2Proof.Machine
end

