-- ==== Sys2Proof/Machine/Dispatch.lean ====
section
/-! DEFINITION. One arm for every instruction of the table: a direct call of its meaning. -/

namespace Sys2Proof.Machine

def exec (i : Instr) (s : State) : Host.Outcome State Fault Refusal :=
  match i with
  | .baseAlu f => Sys2Proof.Machine.execBaseAlu f s
  | .baseBranchJump f => Sys2Proof.Machine.execBaseBranchJump f s
  | .baseLoad op rd rs1 imm => Sys2Proof.Machine.execBaseLoad op rd rs1 imm s
  | .baseStore op rs2 rs1 imm => Sys2Proof.Machine.execBaseStore op rs2 rs1 imm s
  | .baseAmo op dbl aq rl rd rs1 rs2 => Sys2Proof.Machine.execBaseAmo op dbl aq rl rd rs1 rs2 s
  | .baseLr dbl aq rl rd rs1 => Sys2Proof.Machine.execBaseLr dbl aq rl rd rs1 s
  | .baseSc dbl aq rl rd rs1 rs2 => Sys2Proof.Machine.execBaseSc dbl aq rl rd rs1 rs2 s
  | .fence fm pred succ rs1 rd => Sys2Proof.Machine.execFence fm pred succ rs1 rd s
  | .fenceI imm rs1 rd => Sys2Proof.Machine.execFenceI imm rs1 rd s
  | .ecall => Sys2Proof.Machine.execEcall s
  | .ebreak => Sys2Proof.Machine.execEbreak s
  | .wfi => Sys2Proof.Machine.execWfi s
  | .sret => Sys2Proof.Machine.execSret s
  | .mret => Sys2Proof.Machine.execMret s
  | .csrWrite op csr src rd => Sys2Proof.Machine.execCsrWrite op csr src rd s
  | .vlWrite op src rd => Sys2Proof.Machine.execVlWrite op src rd s
  | .vxflagsWrite op src rd => Sys2Proof.Machine.execVxflagsWrite op src rd s
  | .ptrootWrite op src rd => Sys2Proof.Machine.execPtrootWrite op src rd s
  | .partitionSetup op src rd => Sys2Proof.Machine.execPartitionSetup op src rd s
  | .profileEnableWrite op src rd => Sys2Proof.Machine.execProfileEnableWrite op src rd s
  | .assayNoticeClear op mach src rd => Sys2Proof.Machine.execAssayNoticeClear op mach src rd s
  | .capWrite core cap => Sys2Proof.Machine.execCapWrite core cap s
  | .loop i0 rs1 l => Sys2Proof.Machine.execLoop i0 rs1 l s
  | .lexit l => Sys2Proof.Machine.execLexit l s
  | .lsave rs1 => Sys2Proof.Machine.execLsave rs1 s
  | .lrest rs1 => Sys2Proof.Machine.execLrest rs1 s
  | .lrd sel rd => Sys2Proof.Machine.execLrd sel rd s
  | .escOpen rs1 => Sys2Proof.Machine.execEscOpen rs1 s
  | .escCmp rd => Sys2Proof.Machine.execEscCmp rd s
  | .escClose => Sys2Proof.Machine.execEscClose s
  | .escRet => Sys2Proof.Machine.execEscRet s
  | .escAbort => Sys2Proof.Machine.execEscAbort s
  | .escStat rd => Sys2Proof.Machine.execEscStat rd s
  | .guessRoutineEnd => Sys2Proof.Machine.execGuessRoutineEnd s
  | .escrowHelperJoin core => Sys2Proof.Machine.execEscrowHelperJoin core s
  | .escrowHelperReclaim core => Sys2Proof.Machine.execEscrowHelperReclaim core s
  | .escrowConflictSquash addr val => Sys2Proof.Machine.execEscrowConflictSquash addr val s
  | .escrowDeferredResume => Sys2Proof.Machine.execEscrowDeferredResume s
  | .vdecl rs1 => Sys2Proof.Machine.execVdecl rs1 s
  | .vsetl w rs1 rd => Sys2Proof.Machine.execVsetl w rs1 rd s
  | .vtag rs1 vd => Sys2Proof.Machine.execVtag rs1 vd s
  | .vtagrd vs rd => Sys2Proof.Machine.execVtagrd vs rd s
  | .dset rs2 rs1 vd => Sys2Proof.Machine.execDset rs2 rs1 vd s
  | .dflip vd => Sys2Proof.Machine.execDflip vd s
  | .dscale rs2 rs1 vd => Sys2Proof.Machine.execDscale rs2 rs1 vd s
  | .dshape rs2 rs1 => Sys2Proof.Machine.execDshape rs2 rs1 s
  | .kalloc rs2 rs1 => Sys2Proof.Machine.execKalloc rs2 rs1 s
  | .kfree rs1 => Sys2Proof.Machine.execKfree rs1 s
  | .kzero rs1 => Sys2Proof.Machine.execKzero rs1 s
  | .vsrseed rs1 => Sys2Proof.Machine.execVsrseed rs1 s
  | .atabld rs2 rs1 => Sys2Proof.Machine.execAtabld rs2 rs1 s
  | .cpy w rs2 rs1 p => Sys2Proof.Machine.execCpy w rs2 rs1 p s
  | .cpys w rs2 rs1 p => Sys2Proof.Machine.execCpys w rs2 rs1 p s
  | .cpyv w rs2 rs1 vd => Sys2Proof.Machine.execCpyv w rs2 rs1 vd s
  | .cpyvs w rs2 rs1 vs => Sys2Proof.Machine.execCpyvs w rs2 rs1 vs s
  | .ctile w rs2 rs1 p => Sys2Proof.Machine.execCtile w rs2 rs1 p s
  | .cring w rs2 rs1 p => Sys2Proof.Machine.execCring w rs2 rs1 p s
  | .cpyvElementLand pos elem => Sys2Proof.Machine.execCpyvElementLand pos elem s
  | .copyComplete pos => Sys2Proof.Machine.execCopyComplete pos s
  | .overdraft => Sys2Proof.Machine.execOverdraft s
  | .cringReserve pos => Sys2Proof.Machine.execCringReserve pos s
  | .tadd w rs2 rs1 rd => Sys2Proof.Machine.execTadd w rs2 rs1 rd s
  | .tmin w rs2 rs1 rd => Sys2Proof.Machine.execTmin w rs2 rs1 rd s
  | .tmax w rs2 rs1 rd => Sys2Proof.Machine.execTmax w rs2 rs1 rd s
  | .tand w rs2 rs1 rd => Sys2Proof.Machine.execTand w rs2 rs1 rd s
  | .tor w rs2 rs1 rd => Sys2Proof.Machine.execTor w rs2 rs1 rd s
  | .txchg w rs2 rs1 rd => Sys2Proof.Machine.execTxchg w rs2 rs1 rd s
  | .tcas w rs2 rs1 rd => Sys2Proof.Machine.execTcas w rs2 rs1 rd s
  | .tcmd rs2 rs1 p => Sys2Proof.Machine.execTcmd rs2 rs1 p s
  | .tcmdComplete pos => Sys2Proof.Machine.execTcmdComplete pos s
  | .pset rs2 rs1 => Sys2Proof.Machine.execPset rs2 rs1 s
  | .pwait rs1 rd => Sys2Proof.Machine.execPwait rs1 rd s
  | .ptest rs1 rd => Sys2Proof.Machine.execPtest rs1 rd s
  | .rres rs1 rd => Sys2Proof.Machine.execRres rs1 rd s
  | .rpub rs2 rs1 => Sys2Proof.Machine.execRpub rs2 rs1 s
  | .racq rs1 rd => Sys2Proof.Machine.execRacq rs1 rd s
  | .rrel rs2 rs1 => Sys2Proof.Machine.execRrel rs2 rs1 s
  | .rocc rs1 rd => Sys2Proof.Machine.execRocc rs1 rd s
  | .bar rs2 rs1 rd => Sys2Proof.Machine.execBar rs2 rs1 rd s
  | .wqpost rs2 rs1 rd => Sys2Proof.Machine.execWqpost rs2 rs1 rd s
  | .lvlwait rs1 rd => Sys2Proof.Machine.execLvlwait rs1 rd s
  | .lvlcancel rs1 => Sys2Proof.Machine.execLvlcancel rs1 s
  | .sexit => Sys2Proof.Machine.execSexit s
  | .syield => Sys2Proof.Machine.execSyield s
  | .snapBegin rd => Sys2Proof.Machine.execSnapBegin rd s
  | .snapStat rs1 rd => Sys2Proof.Machine.execSnapStat rs1 rd s
  | .snapRollback rs1 => Sys2Proof.Machine.execSnapRollback rs1 s
  | .mint rs1 rd => Sys2Proof.Machine.execMint rs1 rd s
  | .mintResult => Sys2Proof.Machine.execMintResult s
  | .assayReq rs1 => Sys2Proof.Machine.execAssayReq rs1 s
  | .evt rs1 => Sys2Proof.Machine.execEvt rs1 s
  | .cho rs2 rs1 rd => Sys2Proof.Machine.execCho rs2 rs1 rd s
  | .tlbinv rs2 rs1 => Sys2Proof.Machine.execTlbinv rs2 rs1 s
  | .invalidationPort va cmd => Sys2Proof.Machine.execInvalidationPort va cmd s
  | .vaultSwap rs1 => Sys2Proof.Machine.execVaultSwap rs1 s
  | .hint => Sys2Proof.Machine.execHint s
  | .vxget e rs2 vs rd => Sys2Proof.Machine.execVxget e rs2 vs rd s
  | .srqDeliver => Sys2Proof.Machine.execSrqDeliver s
  | .vxput rs2 rs1 vd => Sys2Proof.Machine.execVxput rs2 rs1 vd s
  | .vmpop e k rd => Sys2Proof.Machine.execVmpop e k rd s
  | .vmfirst e k rd => Sys2Proof.Machine.execVmfirst e k rd s
  | .vmrd e rs2 k rd => Sys2Proof.Machine.execVmrd e rs2 k rd s
  | .qfence scope => Sys2Proof.Machine.execQfence scope s
  | .efence scope => Sys2Proof.Machine.execEfence scope s
  | .kfence => Sys2Proof.Machine.execKfence s
  | .vldUnit e rs1 m vd => Sys2Proof.Machine.execVldUnit e rs1 m vd s
  | .vldStrided e rs2 rs1 m vd => Sys2Proof.Machine.execVldStrided e rs2 rs1 m vd s
  | .vldIndexed e vs2 rs1 m vd => Sys2Proof.Machine.execVldIndexed e vs2 rs1 m vd s
  | .vstUnit e rs1 m vs3 => Sys2Proof.Machine.execVstUnit e rs1 m vs3 s
  | .vstStrided e rs2 rs1 m vs3 => Sys2Proof.Machine.execVstStrided e rs2 rs1 m vs3 s
  | .vstIndexed e vs2 rs1 m vs3 => Sys2Proof.Machine.execVstIndexed e vs2 rs1 m vs3 s
  | .vldffUnit e rs1 m vd => Sys2Proof.Machine.execVldffUnit e rs1 m vd s
  | .vldffStrided e rs2 rs1 m vd => Sys2Proof.Machine.execVldffStrided e rs2 rs1 m vd s
  | .vldffIndexed e vs2 rs1 m vd => Sys2Proof.Machine.execVldffIndexed e vs2 rs1 m vd s
  | .vlwin e vs2 rs1 m vd => Sys2Proof.Machine.execVlwin e vs2 rs1 m vd s
  | .vstc e rs1 m vs3 => Sys2Proof.Machine.execVstc e rs1 m vs3 s
  | .vqldUnit rs1 n => Sys2Proof.Machine.execVqldUnit rs1 n s
  | .vqldStrided rs2 rs1 n => Sys2Proof.Machine.execVqldStrided rs2 rs1 n s
  | .vqstUnit rs1 n => Sys2Proof.Machine.execVqstUnit rs1 n s
  | .vqstStrided rs2 rs1 n => Sys2Proof.Machine.execVqstStrided rs2 rs1 n s
  | .vmld rs1 k => Sys2Proof.Machine.execVmld rs1 k s
  | .vmst e rs1 k => Sys2Proof.Machine.execVmst e rs1 k s
  | .vldr rs1 vd => Sys2Proof.Machine.execVldr rs1 vd s
  | .vstr e rs1 vs3 => Sys2Proof.Machine.execVstr e rs1 vs3 s
  | .vtadd e vs2 rs1 m vs3 => Sys2Proof.Machine.execVtadd e vs2 rs1 m vs3 s
  | .vtmin e vs2 rs1 m vs3 => Sys2Proof.Machine.execVtmin e vs2 rs1 m vs3 s
  | .vtmax e vs2 rs1 m vs3 => Sys2Proof.Machine.execVtmax e vs2 rs1 m vs3 s
  | .vkld rs2 rs1 => Sys2Proof.Machine.execVkld rs2 rs1 s
  | .vkst rs2 rs1 => Sys2Proof.Machine.execVkst rs2 rs1 s
  | .vaddVv e vs2 vs1 m vd => Sys2Proof.Machine.execVaddVv e vs2 vs1 m vd s
  | .vaddVx e rs2 vs1 m vd => Sys2Proof.Machine.execVaddVx e rs2 vs1 m vd s
  | .vaddVi e imm vs1 m vd => Sys2Proof.Machine.execVaddVi e imm vs1 m vd s
  | .vsubVv e vs2 vs1 m vd => Sys2Proof.Machine.execVsubVv e vs2 vs1 m vd s
  | .vsubVx e rs2 vs1 m vd => Sys2Proof.Machine.execVsubVx e rs2 vs1 m vd s
  | .vsubVi e imm vs1 m vd => Sys2Proof.Machine.execVsubVi e imm vs1 m vd s
  | .vmulVv e vs2 vs1 m vd => Sys2Proof.Machine.execVmulVv e vs2 vs1 m vd s
  | .vmulVx e rs2 vs1 m vd => Sys2Proof.Machine.execVmulVx e rs2 vs1 m vd s
  | .vmulVi e imm vs1 m vd => Sys2Proof.Machine.execVmulVi e imm vs1 m vd s
  | .vmacVv e vs2 vs1 m vd => Sys2Proof.Machine.execVmacVv e vs2 vs1 m vd s
  | .vmacVx e rs2 vs1 m vd => Sys2Proof.Machine.execVmacVx e rs2 vs1 m vd s
  | .vmacVi e imm vs1 m vd => Sys2Proof.Machine.execVmacVi e imm vs1 m vd s
  | .vminVv e vs2 vs1 m vd => Sys2Proof.Machine.execVminVv e vs2 vs1 m vd s
  | .vminVx e rs2 vs1 m vd => Sys2Proof.Machine.execVminVx e rs2 vs1 m vd s
  | .vminVi e imm vs1 m vd => Sys2Proof.Machine.execVminVi e imm vs1 m vd s
  | .vmaxVv e vs2 vs1 m vd => Sys2Proof.Machine.execVmaxVv e vs2 vs1 m vd s
  | .vmaxVx e rs2 vs1 m vd => Sys2Proof.Machine.execVmaxVx e rs2 vs1 m vd s
  | .vmaxVi e imm vs1 m vd => Sys2Proof.Machine.execVmaxVi e imm vs1 m vd s
  | .vandVv e vs2 vs1 m vd => Sys2Proof.Machine.execVandVv e vs2 vs1 m vd s
  | .vandVx e rs2 vs1 m vd => Sys2Proof.Machine.execVandVx e rs2 vs1 m vd s
  | .vandVi e imm vs1 m vd => Sys2Proof.Machine.execVandVi e imm vs1 m vd s
  | .vorVv e vs2 vs1 m vd => Sys2Proof.Machine.execVorVv e vs2 vs1 m vd s
  | .vorVx e rs2 vs1 m vd => Sys2Proof.Machine.execVorVx e rs2 vs1 m vd s
  | .vorVi e imm vs1 m vd => Sys2Proof.Machine.execVorVi e imm vs1 m vd s
  | .vxorVv e vs2 vs1 m vd => Sys2Proof.Machine.execVxorVv e vs2 vs1 m vd s
  | .vxorVx e rs2 vs1 m vd => Sys2Proof.Machine.execVxorVx e rs2 vs1 m vd s
  | .vxorVi e imm vs1 m vd => Sys2Proof.Machine.execVxorVi e imm vs1 m vd s
  | .vshlVv e vs2 vs1 m vd => Sys2Proof.Machine.execVshlVv e vs2 vs1 m vd s
  | .vshlVx e rs2 vs1 m vd => Sys2Proof.Machine.execVshlVx e rs2 vs1 m vd s
  | .vshlVi e imm vs1 m vd => Sys2Proof.Machine.execVshlVi e imm vs1 m vd s
  | .vshrVv e vs2 vs1 m vd => Sys2Proof.Machine.execVshrVv e vs2 vs1 m vd s
  | .vshrVx e rs2 vs1 m vd => Sys2Proof.Machine.execVshrVx e rs2 vs1 m vd s
  | .vshrVi e imm vs1 m vd => Sys2Proof.Machine.execVshrVi e imm vs1 m vd s
  | .vdivVv e vs2 vs1 m vd => Sys2Proof.Machine.execVdivVv e vs2 vs1 m vd s
  | .vdivVx e rs2 vs1 m vd => Sys2Proof.Machine.execVdivVx e rs2 vs1 m vd s
  | .vdivVi e imm vs1 m vd => Sys2Proof.Machine.execVdivVi e imm vs1 m vd s
  | .vcmpVv e vs2 vs1 m d c => Sys2Proof.Machine.execVcmpVv e vs2 vs1 m d c s
  | .vcmpVx e rs2 vs1 m d c => Sys2Proof.Machine.execVcmpVx e rs2 vs1 m d c s
  | .vcmpVi e imm vs1 m d c => Sys2Proof.Machine.execVcmpVi e imm vs1 m d c s
  | .vmergeVv e vs2 vs1 m vd => Sys2Proof.Machine.execVmergeVv e vs2 vs1 m vd s
  | .vmergeVx e rs2 vs1 m vd => Sys2Proof.Machine.execVmergeVx e rs2 vs1 m vd s
  | .vmergeVi e imm vs1 m vd => Sys2Proof.Machine.execVmergeVi e imm vs1 m vd s
  | .vpermGather e vs2 vs1 m vd => Sys2Proof.Machine.execVpermGather e vs2 vs1 m vd s
  | .vpermSlideVx e rs2 vs1 m vd => Sys2Proof.Machine.execVpermSlideVx e rs2 vs1 m vd s
  | .vpermSlideVi e imm vs1 m vd => Sys2Proof.Machine.execVpermSlideVi e imm vs1 m vd s
  | .vslideupVx e rs2 vs1 m vd => Sys2Proof.Machine.execVslideupVx e rs2 vs1 m vd s
  | .vslideupVi e imm vs1 m vd => Sys2Proof.Machine.execVslideupVi e imm vs1 m vd s
  | .vmov e vs1 m vd => Sys2Proof.Machine.execVmov e vs1 m vd s
  | .vneg e vs1 m vd => Sys2Proof.Machine.execVneg e vs1 m vd s
  | .vabs e vs1 m vd => Sys2Proof.Machine.execVabs e vs1 m vd s
  | .vnot e vs1 m vd => Sys2Proof.Machine.execVnot e vs1 m vd s
  | .vsqrt e vs1 m vd => Sys2Proof.Machine.execVsqrt e vs1 m vd s
  | .vrsqrt e vs1 m vd => Sys2Proof.Machine.execVrsqrt e vs1 m vd s
  | .vrcp e vs1 m vd => Sys2Proof.Machine.execVrcp e vs1 m vd s
  | .vexp2 e vs1 m vd => Sys2Proof.Machine.execVexp2 e vs1 m vd s
  | .vlog2 e vs1 m vd => Sys2Proof.Machine.execVlog2 e vs1 m vd s
  | .vsin e vs1 m vd => Sys2Proof.Machine.execVsin e vs1 m vd s
  | .vcos e vs1 m vd => Sys2Proof.Machine.execVcos e vs1 m vd s
  | .vtanh e vs1 m vd => Sys2Proof.Machine.execVtanh e vs1 m vd s
  | .vsigm e vs1 m vd => Sys2Proof.Machine.execVsigm e vs1 m vd s
  | .vfloor e vs1 m vd => Sys2Proof.Machine.execVfloor e vs1 m vd s
  | .vceil e vs1 m vd => Sys2Proof.Machine.execVceil e vs1 m vd s
  | .vrnd e vs1 m vd => Sys2Proof.Machine.execVrnd e vs1 m vd s
  | .vclz e vs1 m vd => Sys2Proof.Machine.execVclz e vs1 m vd s
  | .vpopc e vs1 m vd => Sys2Proof.Machine.execVpopc e vs1 m vd s
  | .vid e m vd => Sys2Proof.Machine.execVid e m vd s
  | .vbcast e vs1 m vd => Sys2Proof.Machine.execVbcast e vs1 m vd s
  | .vclass e vs1 m vd => Sys2Proof.Machine.execVclass e vs1 m vd s
  | .vcvt e vs1 m vd => Sys2Proof.Machine.execVcvt e vs1 m vd s
  | .vcvtRz e vs1 m vd => Sys2Proof.Machine.execVcvtRz e vs1 m vd s
  | .vcvtSr e vs1 m vd => Sys2Proof.Machine.execVcvtSr e vs1 m vd s
  | .vcvtSat e vs1 m vd => Sys2Proof.Machine.execVcvtSat e vs1 m vd s
  | .vquant e vs1 m vd => Sys2Proof.Machine.execVquant e vs1 m vd s
  | .vredsum e vs1 m vd => Sys2Proof.Machine.execVredsum e vs1 m vd s
  | .vredsumt e vs1 m vd => Sys2Proof.Machine.execVredsumt e vs1 m vd s
  | .vredmax e vs1 m vd => Sys2Proof.Machine.execVredmax e vs1 m vd s
  | .vredmin e vs1 m vd => Sys2Proof.Machine.execVredmin e vs1 m vd s
  | .vredand e vs1 m vd => Sys2Proof.Machine.execVredand e vs1 m vd s
  | .vredor e vs1 m vd => Sys2Proof.Machine.execVredor e vs1 m vd s
  | .vredxor e vs1 m vd => Sys2Proof.Machine.execVredxor e vs1 m vd s
  | .vcompress e vs1 m vd => Sys2Proof.Machine.execVcompress e vs1 m vd s
  | .vexpand e vs1 m vd => Sys2Proof.Machine.execVexpand e vs1 m vd s
  | .vmidx e m vd => Sys2Proof.Machine.execVmidx e m vd s
  | .vrev e vs1 m vd => Sys2Proof.Machine.execVrev e vs1 m vd s
  | .vtr8 e vs1 m vd => Sys2Proof.Machine.execVtr8 e vs1 m vd s
  | .mand e a b d => Sys2Proof.Machine.execMand e a b d s
  | .mor e a b d => Sys2Proof.Machine.execMor e a b d s
  | .mxor e a b d => Sys2Proof.Machine.execMxor e a b d s
  | .mandn e a b d => Sys2Proof.Machine.execMandn e a b d s
  | .mnot e a d => Sys2Proof.Machine.execMnot e a d s
  | .mbf e a d => Sys2Proof.Machine.execMbf e a d s
  | .mif e a d => Sys2Proof.Machine.execMif e a d s
  | .msof e a d => Sys2Proof.Machine.execMsof e a d s
  | .mset d => Sys2Proof.Machine.execMset d s
  | .mclr d => Sys2Proof.Machine.execMclr d s
  | .vmomu e vs1 m vd => Sys2Proof.Machine.execVmomu e vs1 m vd s
  | .dmac z e vs2 vs1 k => Sys2Proof.Machine.execDmac z e vs2 vs1 k s
  | .dmsc z e vs2 vs1 k => Sys2Proof.Machine.execDmsc z e vs2 vs1 k s
  | .dmm z e vs2 vs1 k => Sys2Proof.Machine.execDmm z e vs2 vs1 k s
  | .dop z e vs2 vs1 k => Sys2Proof.Machine.execDop z e vs2 vs1 k s
  | .kin e vs1 k => Sys2Proof.Machine.execKin e vs1 k s
  | .kadd j k => Sys2Proof.Machine.execKadd j k s
  | .dout e vb vd k => Sys2Proof.Machine.execDout e vb vd k s
  | .doutQ e vb vd k => Sys2Proof.Machine.execDoutQ e vb vd k s
  | .doutA e vb vd k => Sys2Proof.Machine.execDoutA e vb vd k s
  | .doutAq e vb vd k => Sys2Proof.Machine.execDoutAq e vb vd k s
  | .doutB e vb vd k => Sys2Proof.Machine.execDoutB e vb vd k s
  | .doutBq e vb vd k => Sys2Proof.Machine.execDoutBq e vb vd k s
  | .doutBa e vb vd k => Sys2Proof.Machine.execDoutBa e vb vd k s
  | .doutBaq e vb vd k => Sys2Proof.Machine.execDoutBaq e vb vd k s
  | .stashCopyDone v => Sys2Proof.Machine.execStashCopyDone v s
  | .cableEntryComplete => Sys2Proof.Machine.execCableEntryComplete s
  | .viqExecute => Sys2Proof.Machine.execViqExecute s
  | .vectorFault => Sys2Proof.Machine.execVectorFault s
  | .vldffComplete => Sys2Proof.Machine.execVldffComplete s
  | .latepf elem => Sys2Proof.Machine.execLatepf elem s
  | .storeAck => Sys2Proof.Machine.execStoreAck s
  | .trapEntry cause tval => Sys2Proof.Machine.execTrapEntry cause tval s
  | .preempt pending => Sys2Proof.Machine.execPreempt pending s
  | .rollbackEntry => Sys2Proof.Machine.execRollbackEntry s
  | .tellerRemap bank => Sys2Proof.Machine.execTellerRemap bank s
  | .tellerRequest req => Sys2Proof.Machine.execTellerRequest req s
  | .hostTailWrite part q val => Sys2Proof.Machine.execHostTailWrite part q val s
  | .wsTakeRecord part q => Sys2Proof.Machine.execWsTakeRecord part q s
  | .launchAdmit serial => Sys2Proof.Machine.execLaunchAdmit serial s
  | .markerComplete serial => Sys2Proof.Machine.execMarkerComplete serial s
  | .launchComplete serial => Sys2Proof.Machine.execLaunchComplete serial s
  | .dependenceRelease serial => Sys2Proof.Machine.execDependenceRelease serial s
  | .levelCancelStore addr val => Sys2Proof.Machine.execLevelCancelStore addr val s
  | .placeStrand serial stage idx => Sys2Proof.Machine.execPlaceStrand serial stage idx s
  | .reallocationIntervalEnd part => Sys2Proof.Machine.execReallocationIntervalEnd part s
  | .preemption => Sys2Proof.Machine.execPreemption s
  | .forcedPreemption => Sys2Proof.Machine.execForcedPreemption s
  | .park => Sys2Proof.Machine.execPark s
  | .waitSatisfied serial stage idx => Sys2Proof.Machine.execWaitSatisfied serial stage idx s
  | .placementEvent serial => Sys2Proof.Machine.execPlacementEvent serial s
  | .pipelineStallEvent serial => Sys2Proof.Machine.execPipelineStallEvent serial s
  | .ringProducerLeave part ring => Sys2Proof.Machine.execRingProducerLeave part ring s
  | .assayCoreClaim rib => Sys2Proof.Machine.execAssayCoreClaim rib s
  | .assayComplete core cls pass => Sys2Proof.Machine.execAssayComplete core cls pass s
  | .vaultSwapDeadline => Sys2Proof.Machine.execVaultSwapDeadline s
  | .vaultSwapDone => Sys2Proof.Machine.execVaultSwapDone s
  | .stitchMarker part gen on => Sys2Proof.Machine.execStitchMarker part gen on s
  | .strandCut => Sys2Proof.Machine.execStrandCut s
  | .consumeFirstCut => Sys2Proof.Machine.execConsumeFirstCut s
  | .chipDone part => Sys2Proof.Machine.execChipDone part s
  | .doneMessage part gen chip => Sys2Proof.Machine.execDoneMessage part gen chip s
  | .abandonMessage part gen => Sys2Proof.Machine.execAbandonMessage part gen s
  | .rollbackMessage part m => Sys2Proof.Machine.execRollbackMessage part m s
  | .peerRequest m => Sys2Proof.Machine.execPeerRequest m s
  | .chunkReceive m => Sys2Proof.Machine.execChunkReceive m s
  | .collectiveComplete pos => Sys2Proof.Machine.execCollectiveComplete pos s
  | .collectiveTimeout pos => Sys2Proof.Machine.execCollectiveTimeout pos s
  | .scrubGranule addr found => Sys2Proof.Machine.execScrubGranule addr found s
  | .wearRowCopy src bytes => Sys2Proof.Machine.execWearRowCopy src bytes s
  | .linkCalibration link => Sys2Proof.Machine.execLinkCalibration link s
  | .telemetrySample pwr temp => Sys2Proof.Machine.execTelemetrySample pwr temp s
  | .clockStepDown => Sys2Proof.Machine.execClockStepDown s
  | .clockStepUp => Sys2Proof.Machine.execClockStepUp s
  | .thermalShutdown => Sys2Proof.Machine.execThermalShutdown s
  | .dbell part => Sys2Proof.Machine.execDbell part s
  | .mailboxSetTdp part => Sys2Proof.Machine.execMailboxSetTdp part s
  | .mailboxAttest part => Sys2Proof.Machine.execMailboxAttest part s
  | .mailboxReadMeasurements part => Sys2Proof.Machine.execMailboxReadMeasurements part s
  | .powerOnBoot boot => Sys2Proof.Machine.execPowerOnBoot boot s
  | .hostWrite addr bytes => Sys2Proof.Machine.execHostWrite addr bytes s
  | .jobBlockWrite part off val => Sys2Proof.Machine.execJobBlockWrite part off val s
  | .dirtyLineWriteBack line => Sys2Proof.Machine.execDirtyLineWriteBack line s
  | .chunkLandingAck pos chunk => Sys2Proof.Machine.execChunkLandingAck pos chunk s

end Sys2Proof.Machine
end

