-- ==== Sys2Proof/Machine/Turn.lean ====
section
/-! DEFINITION. What one step is made of: the fetch, decode and run of an instruction, the turn of a core with what is due at
its boundary (R366), the acts of the schedule, and where the next instruction is fetched. -/

namespace Sys2Proof.Machine

/-- Fetch, decode and run the instruction at the pc (R81, R99). A word that decodes to nothing traps ILLEGAL; an uncut
strand cuts before an instruction that would consume a new-colour item (R269). -/
def fetchRun (s : State) : Host.Outcome State Fault Refusal :=
  match fetchM.run s with
  | (.ok w, t) =>
    match decode w with
    | some i => if consumesNew t i then consumeFirst t else exec i t
    | none => .next (raiseTrap (loseExpected t) cIllegal (w.setWidth 64))
  | (.error e, t) => runM (throw e) t

/-- The turn of one core. -/
def turn (s : State) : Host.Outcome State Fault Refusal :=
  if coreHeld s || sleeps s then .next s
  else
    match settle s with
    | .fault f => .fault f
    | .refused f => .refused f
    | .next s =>
      let s := { s with core := { s.core with wfi := false } }
      match boundary s with
      | some o => o
      | none =>
        if idles s then .next s
        else if focusHeld s.ctx then execEscrowDeferredResume s
        else if decide (s.core.priv = .user) && queueConsumes s then consumeFirst s
        else fetchRun s

/-- Give the turn to core n; a helper core's turn is its participant's in the loop of its home core, and a home core's
turn its own participant's (R196). -/
def giveTurn (s : State) (n : Nat) : State :=
  if n < 272 then
    let home := (s.coreAt n).helperOf.getD n
    let t := s.switchCore home
    t.mapCtx fun c =>
      match c.escActive with
      | some e => match e.parts.findIdx? fun p => decide (p.core = n) with
        | some k => c.focusOn k
        | none => c
      | none => c
  else s

/-- The one event of a module in reset. -/
def isBoot (i : Instr) : Bool :=
  match i with
  | .powerOnBoot _ => true
  | _ => false

/-- An event row acts; an instruction of the instruction stream is no event. -/
def runEvent (i : Instr) (s : State) : Host.Outcome State Fault Refusal :=
  match (opAttr i).group with
  | .event =>
    if s.inReset && !isBoot i then .next s else exec i s
  | .base | .seq | .cfg | .copy | .teller | .sys | .sync | .fence | .mem | .vec | .cable | .hint => .next s

/-- A packet lands: packets on one virtual channel to one chip land in the order sent (R335). -/
def landFlight (n : Nat) (s : State) : State :=
  match s.flights[n]? with
  | none => s
  | some f =>
    if (s.flights.take n).any fun g => decide (g.vc = f.vc ∧ g.chip = f.chip) then s
    else { s with flights := s.flights.eraseIdx n }

/-- One act of the schedule. -/
def runAct (a : Act) (s : State) : Host.Outcome State Fault Refusal :=
  match a with
  | .event i => runEvent i s
  | .core n => .next (giveTurn s n)
  | .lag b => .next { s with lag := b }
  | .rib n => .next (ribSees n s)
  | .part pos upTo => .next (viqPart pos upTo s)
  | .copyRead pos elem => .next (copyReadOne s pos elem)
  | .copyElem pos elem => .next (copyOne s pos elem)
  | .collRead pos elem => .next (collReadOne s pos elem)
  | .landed n => .next (landFlight n s)
  | .setup k cfg => .next (setupPart k cfg s)

/-- Every wait is re-evaluated after the requests of a step (R243), and OCO is shown as it stands (R354). -/
def settled (o : Host.Outcome State Fault Refusal) : Host.Outcome State Fault Refusal :=
  match o with
  | .next t => .next (showOco (releaseWaits t))
  | .fault f => .fault f
  | .refused r => .refused r

/-! ## Placing a program -/

/-- Where the core whose turn it is fetches its next instruction, none where a fetch does not reach memory. -/
def fetchPlace (s : State) : Option Nat :=
  match ((resolveGlobal .fetch s.core.priv cFetchAccess s.ctx.pc 4).run s).1 with
  | .ok (.phys a _ _) => some a
  | .ok (.pocket _) => none
  | .ok (.peer _ _) => none
  | .error _ => none

/-- Place the word w of an opcode-table row where the next instruction is fetched, low byte first, with no act of another
agent before it and no older word of that address in the instruction cache. -/
def placeWord (s : State) (nbits w : Nat) : State :=
  match fetchPlace s with
  | some a =>
    { s with
      mem := setLe s.mem a 4 (w % 2 ^ nbits)
      agenda := []
      core := { s.core with icache := s.core.icache.filter fun p => decide (p.1 ≠ a) } }
  | none => s

end Sys2Proof.Machine
end

