-- ==== Sys2Proof/Machine/Step.lean ====
section
/-! DEFINITION. One step of the chip, and how the word of an instruction is placed for it. -/

namespace Sys2Proof.Machine

/-- One step: the schedule's next act, or the turn of the current core; then the waits are re-evaluated. -/
def step (s : State) : Host.Outcome State Fault Refusal :=
  match s.agenda with
  | a :: rest => settled (runAct a { s with agenda := rest })
  | [] => settled (turn s)

/-- The word w of an opcode-table row placed where the next step fetches, low byte first, with no act of another agent
before it. -/
def State.withFetchWord (s : State) (nbits w : Nat) : State := placeWord s nbits w

end Sys2Proof.Machine
end

