-- ==== Sys2Proof/Safety.lean ====
section
/-! DEFINITION. What a safe run is, in the terms the statements use: the canonical form of memory as an invariant, when an
instruction meets none of the stops that come before its own effect (Table 4.7), and the states in which no other agent
takes part in a store. -/

namespace Sys2Proof.Machine

/-- The canonical form of a byte store (log 9). -/
def Memory.wf (m : Bytes) : Bool := wfBytes m

/-- Every byte store of a context is canonical. -/
def Ctx.storesWf (c : Ctx) : Bool :=
  Memory.wf c.pool && Memory.wf c.pocket && Memory.wf c.atab && c.v.toList.all (fun v => Memory.wf v.data)
    && c.m.toList.all (fun m => Memory.wf m.bits) && c.q.toList.all Memory.wf

/-- The invariant: physical memory is canonical. -/
def State.MemWf (s : State) : Prop := Memory.wf s.mem = true

/-- Nothing older and nothing speculative stands before an instruction: nothing lags, the queues are empty, no `qfence` still
orders anything and holds no store, and no escrow loop is open. -/
abbrev State.Clear (s : State) : Prop :=
  s.lag = false ∧ s.ctx.viq = [] ∧ s.ctx.cable = [] ∧ s.ctx.srq = [] ∧ s.ctx.esc = none ∧ s.ctx.barrier = none
    ∧ s.heldStores.all (fun h => h.behind.isNone) = true

/-- The mode, the profile and the assay classes let the instruction through (R87, R100, R316). -/
abbrev Permitted (i : Instr) (s : State) : Prop :=
  privOk s (opAttr i) = true ∧ profOk s (opAttr i) = true ∧ (decodeClass i).any s.fenced = false
    ∧ entryFenced s i = false

/-- An instruction meets none of the stops that come before its own checks. -/
abbrev Ready (i : Instr) (s : State) : Prop := s.Clear ∧ Permitted i s

/-- A partition with no job, no capability list, no snapshot, no launch, no object sealed or under check and no filter (R336,
R353, R311, R383). -/
def Partition.still (p : Partition) : Bool :=
  decide (p.ctxbase = 0) && decide (p.gen = 0) && !p.taking && p.manifests.isEmpty && p.transit.isEmpty && p.objs.isEmpty
    && decide (p.caplist = 0) && p.launches.isEmpty && p.oddLines.isEmpty && p.mints.isEmpty

/-- A still partition with no queues either, so no store of software meets a control structure but the mailboxes (R287,
R340). -/
def Partition.calm (p : Partition) : Bool := p.still && decide (p.wqbase = 0) && decide (p.evqbase = 0)

/-- No other agent takes part in a write of the device: no granule condition, no store held at the ordering point, no mailbox
request, every partition still, no escrow loop on another core, and no thread that waits on the Commons. -/
abbrev State.Still (s : State) : Prop :=
  s.ecc = [] ∧ s.heldStores = [] ∧ s.mboxWait = [] ∧ s.parts.all Partition.still = true
    ∧ s.cores.all (fun c => c.2.ctx.esc.isNone) = true ∧ waiters s = []

/-- No other agent takes part in an access: as `Still`, with every partition calm. -/
abbrev State.Calm (s : State) : Prop :=
  s.ecc = [] ∧ s.heldStores = [] ∧ s.mboxWait = [] ∧ s.parts.all Partition.calm = true
    ∧ s.cores.all (fun c => c.2.ctx.esc.isNone) = true ∧ waiters s = []

/-- An access of the core whose turn it is to plain physical memory, untranslated: M-mode with MPRV clear, the run inside
one installed memory and outside the Commons, aligned (R83, R415, R416). -/
abbrev PlainAccess (s : State) (va : Word) (n : Nat) : Prop :=
  s.core.priv = .machine ∧ s.core.csr.mstatus.getLsbD bitMPRV = false ∧ va.toNat % n = 0
    ∧ physOk va.toNat n = true ∧ isCommons va.toNat = false

/-- A U-mode access of n aligned bytes at an address that the page tables map (R304, R307, R416): the walk from memory, with no
cached leaf, ends at a leaf that permits it, and its bytes lie in HBM. -/
abbrev UserLeaf (s : State) (va n : Nat) (acc : Acc) (pte base size : Nat) (w : Word) : Prop :=
  s.core.priv = .user ∧ va % n = 0 ∧ va < Config.windowBase ∧ (s.part s.pidx).tlb = []
    ∧ walk s s.pidx va = .leaf pte w base size ∧ leafBad w = false ∧ w.getLsbD 4 = true
    ∧ w.getLsbD (if acc = .store then 2 else 1) = true ∧ leafLoc w = 0 ∧ leafFrame w * 65536 + (va - base) < Config.hbmBytes

/-- Memory once the walk has set A, and D for a store, in the leaf entry (R308). -/
def markedMem (s : State) (pte : Nat) (w : Word) (acc : Acc) : Bytes :=
  if leafAD w acc = w then s.mem else setLe s.mem pte 8 (leafAD w acc).toNat

/-- Every byte outside a run of n bytes, and outside the leaf entry, is as before. -/
abbrev OnlyRun (s t : State) (a n pte : Nat) : Prop :=
  ∀ b : Nat, (b < a ∨ a + n ≤ b) → (b < pte ∨ pte + 8 ≤ b) → getByte t.mem b = getByte s.mem b

/-- Memory and every other agent's state are as before. -/
abbrev SameElsewhere (s t : State) : Prop :=
  t.mem = s.mem ∧ t.ecc = s.ecc ∧ t.parts = s.parts ∧ t.cores = s.cores ∧ t.tcmds = s.tcmds ∧ t.heldStores = s.heldStores
    ∧ t.colls = s.colls ∧ t.outMsgs = s.outMsgs ∧ t.measure = s.measure ∧ t.vault = s.vault ∧ t.pcnt = s.pcnt

/-- The core keeps its mode, its S and M registers, its strand, its copies and its pending bits. -/
abbrev SameCore (s t : State) : Prop :=
  t.core.id = s.core.id ∧ t.core.priv = s.core.priv ∧ t.core.csr = s.core.csr ∧ t.core.mipSoft = s.core.mipSoft
    ∧ t.core.strand = s.core.strand ∧ t.core.assaycap = s.core.assaycap ∧ t.core.copies = s.core.copies
    ∧ t.core.stop = s.core.stop

/-- Every part of the strand's state but the scalar registers, the user CSRs, the pc, the loop stack and the counters. -/
abbrev SameVector (s t : State) : Prop :=
  t.ctx.v = s.ctx.v ∧ t.ctx.m = s.ctx.m ∧ t.ctx.q = s.ctx.q ∧ t.ctx.slots = s.ctx.slots ∧ t.ctx.pool = s.ctx.pool
    ∧ t.ctx.pocket = s.ctx.pocket ∧ t.ctx.sr = s.ctx.sr ∧ t.ctx.atab = s.ctx.atab ∧ t.ctx.nc = s.ctx.nc
    ∧ t.ctx.gc = s.ctx.gc ∧ t.ctx.cable = s.ctx.cable ∧ t.ctx.srq = s.ctx.srq

/-! ## Tables of forms: the instructions one statement covers, with what tells them apart -/

/-- A V-space form: its mask, what it needs (R120), and what it does to the context from its VIQ entry. -/
structure VecForm where
  m : MReg3
  need : Ctx → Nat → Need
  eff : VEntry → VEnv → Ctx → Ctx

/-- The V-space forms of Tables 6.2, 6.3 and 7.1, each with its operation; none for an instruction of another space. -/
def vecForm (i : Instr) : Option VecForm :=
  match i with
  | .vaddVv e vs2 vs1 m vd => some ⟨m, binNeed .add e vs1 vd (.v vs2) m, fun _ => binEffect .add vs1 vd (.v vs2)⟩
  | .vaddVx e _ vs1 m vd => some ⟨m, binNeed .add e vs1 vd .x m, fun _ => binEffect .add vs1 vd .x⟩
  | .vaddVi e imm vs1 m vd => some ⟨m, binNeed .add e vs1 vd (.i imm) m, fun _ => binEffect .add vs1 vd (.i imm)⟩
  | .vsubVv e vs2 vs1 m vd => some ⟨m, binNeed .sub e vs1 vd (.v vs2) m, fun _ => binEffect .sub vs1 vd (.v vs2)⟩
  | .vsubVx e _ vs1 m vd => some ⟨m, binNeed .sub e vs1 vd .x m, fun _ => binEffect .sub vs1 vd .x⟩
  | .vsubVi e imm vs1 m vd => some ⟨m, binNeed .sub e vs1 vd (.i imm) m, fun _ => binEffect .sub vs1 vd (.i imm)⟩
  | .vmulVv e vs2 vs1 m vd => some ⟨m, binNeed .mul e vs1 vd (.v vs2) m, fun _ => binEffect .mul vs1 vd (.v vs2)⟩
  | .vmulVx e _ vs1 m vd => some ⟨m, binNeed .mul e vs1 vd .x m, fun _ => binEffect .mul vs1 vd .x⟩
  | .vmulVi e imm vs1 m vd => some ⟨m, binNeed .mul e vs1 vd (.i imm) m, fun _ => binEffect .mul vs1 vd (.i imm)⟩
  | .vmacVv e vs2 vs1 m vd => some ⟨m, binNeed .mac e vs1 vd (.v vs2) m, fun _ => binEffect .mac vs1 vd (.v vs2)⟩
  | .vmacVx e _ vs1 m vd => some ⟨m, binNeed .mac e vs1 vd .x m, fun _ => binEffect .mac vs1 vd .x⟩
  | .vmacVi e imm vs1 m vd => some ⟨m, binNeed .mac e vs1 vd (.i imm) m, fun _ => binEffect .mac vs1 vd (.i imm)⟩
  | .vminVv e vs2 vs1 m vd => some ⟨m, binNeed .min e vs1 vd (.v vs2) m, fun _ => binEffect .min vs1 vd (.v vs2)⟩
  | .vminVx e _ vs1 m vd => some ⟨m, binNeed .min e vs1 vd .x m, fun _ => binEffect .min vs1 vd .x⟩
  | .vminVi e imm vs1 m vd => some ⟨m, binNeed .min e vs1 vd (.i imm) m, fun _ => binEffect .min vs1 vd (.i imm)⟩
  | .vmaxVv e vs2 vs1 m vd => some ⟨m, binNeed .max e vs1 vd (.v vs2) m, fun _ => binEffect .max vs1 vd (.v vs2)⟩
  | .vmaxVx e _ vs1 m vd => some ⟨m, binNeed .max e vs1 vd .x m, fun _ => binEffect .max vs1 vd .x⟩
  | .vmaxVi e imm vs1 m vd => some ⟨m, binNeed .max e vs1 vd (.i imm) m, fun _ => binEffect .max vs1 vd (.i imm)⟩
  | .vandVv e vs2 vs1 m vd => some ⟨m, binNeed .and e vs1 vd (.v vs2) m, fun _ => binEffect .and vs1 vd (.v vs2)⟩
  | .vandVx e _ vs1 m vd => some ⟨m, binNeed .and e vs1 vd .x m, fun _ => binEffect .and vs1 vd .x⟩
  | .vandVi e imm vs1 m vd => some ⟨m, binNeed .and e vs1 vd (.i imm) m, fun _ => binEffect .and vs1 vd (.i imm)⟩
  | .vorVv e vs2 vs1 m vd => some ⟨m, binNeed .or e vs1 vd (.v vs2) m, fun _ => binEffect .or vs1 vd (.v vs2)⟩
  | .vorVx e _ vs1 m vd => some ⟨m, binNeed .or e vs1 vd .x m, fun _ => binEffect .or vs1 vd .x⟩
  | .vorVi e imm vs1 m vd => some ⟨m, binNeed .or e vs1 vd (.i imm) m, fun _ => binEffect .or vs1 vd (.i imm)⟩
  | .vxorVv e vs2 vs1 m vd => some ⟨m, binNeed .xor e vs1 vd (.v vs2) m, fun _ => binEffect .xor vs1 vd (.v vs2)⟩
  | .vxorVx e _ vs1 m vd => some ⟨m, binNeed .xor e vs1 vd .x m, fun _ => binEffect .xor vs1 vd .x⟩
  | .vxorVi e imm vs1 m vd => some ⟨m, binNeed .xor e vs1 vd (.i imm) m, fun _ => binEffect .xor vs1 vd (.i imm)⟩
  | .vshlVv e vs2 vs1 m vd => some ⟨m, binNeed .shl e vs1 vd (.v vs2) m, fun _ => binEffect .shl vs1 vd (.v vs2)⟩
  | .vshlVx e _ vs1 m vd => some ⟨m, binNeed .shl e vs1 vd .x m, fun _ => binEffect .shl vs1 vd .x⟩
  | .vshlVi e imm vs1 m vd => some ⟨m, binNeed .shl e vs1 vd (.i imm) m, fun _ => binEffect .shl vs1 vd (.i imm)⟩
  | .vshrVv e vs2 vs1 m vd => some ⟨m, binNeed .shr e vs1 vd (.v vs2) m, fun _ => binEffect .shr vs1 vd (.v vs2)⟩
  | .vshrVx e _ vs1 m vd => some ⟨m, binNeed .shr e vs1 vd .x m, fun _ => binEffect .shr vs1 vd .x⟩
  | .vshrVi e imm vs1 m vd => some ⟨m, binNeed .shr e vs1 vd (.i imm) m, fun _ => binEffect .shr vs1 vd (.i imm)⟩
  | .vdivVv e vs2 vs1 m vd => some ⟨m, binNeed .div e vs1 vd (.v vs2) m, fun _ => binEffect .div vs1 vd (.v vs2)⟩
  | .vdivVx e _ vs1 m vd => some ⟨m, binNeed .div e vs1 vd .x m, fun _ => binEffect .div vs1 vd .x⟩
  | .vdivVi e imm vs1 m vd => some ⟨m, binNeed .div e vs1 vd (.i imm) m, fun _ => binEffect .div vs1 vd (.i imm)⟩
  | .vcmpVv e vs2 vs1 m d c => some ⟨m, cmpNeed e vs1 (.v vs2) m d, fun _ => cmpEffect c vs1 (.v vs2) d⟩
  | .vcmpVx e _ vs1 m d c => some ⟨m, cmpNeed e vs1 .x m d, fun _ => cmpEffect c vs1 .x d⟩
  | .vcmpVi e imm vs1 m d c => some ⟨m, cmpNeed e vs1 (.i imm) m d, fun _ => cmpEffect c vs1 (.i imm) d⟩
  | .vmergeVv e vs2 vs1 m vd => some ⟨m, mergeNeed e vs1 vd (.v vs2) m 0, fun _ => mergeEffect vs1 vd (.v vs2)⟩
  | .vmergeVx e _ vs1 m vd => some ⟨m, mergeNeed e vs1 vd .x m 0, fun _ => mergeEffect vs1 vd .x⟩
  | .vmergeVi e imm vs1 m vd => some ⟨m, mergeNeed e vs1 vd (.i imm) m 0, fun _ => mergeEffect vs1 vd (.i imm)⟩
  | .vpermGather e vs2 vs1 m vd => some ⟨m, fun c _ => gatherNeed e vs2 vs1 vd m c, fun _ => gatherEffect vs2 vs1 vd⟩
  | .vpermSlideVx e _ vs1 m vd => some ⟨m, fun c vl => unNeed (movable c vd vs1) false e vs1 vd m c vl, fun en => slideDownEffect (en.b.toInt) vs1 vd⟩
  | .vpermSlideVi e imm vs1 m vd => some ⟨m, fun c vl => unNeed (movable c vd vs1) false e vs1 vd m c vl, fun _ => slideDownEffect (imm.toInt) vs1 vd⟩
  | .vslideupVx e _ vs1 m vd => some ⟨m, fun c vl => unNeed (movable c vd vs1) false e vs1 vd m c vl, fun en => slideUpEffect (en.b.toNat) vs1 vd⟩
  | .vslideupVi e imm vs1 m vd => some ⟨m, fun c vl => unNeed (movable c vd vs1) false e vs1 vd m c vl, fun _ => slideUpEffect (imm.toNat) vs1 vd⟩
  | .vmov e vs1 m vd => some ⟨m, fun c vl => unNeed (movable c vd vs1) true e vs1 vd m c vl, fun _ => movEffect vs1 vd⟩
  | .vneg e vs1 m vd => some ⟨m, unaryNeed .neg e vs1 vd m, fun _ => unaryEffect .neg vs1 vd⟩
  | .vabs e vs1 m vd => some ⟨m, unaryNeed .abs e vs1 vd m, fun _ => unaryEffect .abs vs1 vd⟩
  | .vnot e vs1 m vd => some ⟨m, unaryNeed .not e vs1 vd m, fun _ => unaryEffect .not vs1 vd⟩
  | .vsqrt e vs1 m vd => some ⟨m, unaryNeed .sqrt e vs1 vd m, fun _ => unaryEffect .sqrt vs1 vd⟩
  | .vrsqrt e vs1 m vd => some ⟨m, unaryNeed (.special .rsqrt) e vs1 vd m, fun _ => unaryEffect (.special .rsqrt) vs1 vd⟩
  | .vrcp e vs1 m vd => some ⟨m, unaryNeed (.special .rcp) e vs1 vd m, fun _ => unaryEffect (.special .rcp) vs1 vd⟩
  | .vexp2 e vs1 m vd => some ⟨m, unaryNeed (.special .exp2) e vs1 vd m, fun _ => unaryEffect (.special .exp2) vs1 vd⟩
  | .vlog2 e vs1 m vd => some ⟨m, unaryNeed (.special .log2) e vs1 vd m, fun _ => unaryEffect (.special .log2) vs1 vd⟩
  | .vsin e vs1 m vd => some ⟨m, unaryNeed (.special .sin) e vs1 vd m, fun _ => unaryEffect (.special .sin) vs1 vd⟩
  | .vcos e vs1 m vd => some ⟨m, unaryNeed (.special .cos) e vs1 vd m, fun _ => unaryEffect (.special .cos) vs1 vd⟩
  | .vtanh e vs1 m vd => some ⟨m, unaryNeed (.special .tanh) e vs1 vd m, fun _ => unaryEffect (.special .tanh) vs1 vd⟩
  | .vsigm e vs1 m vd => some ⟨m, unaryNeed (.special .sigm) e vs1 vd m, fun _ => unaryEffect (.special .sigm) vs1 vd⟩
  | .vfloor e vs1 m vd => some ⟨m, unaryNeed .floor e vs1 vd m, fun _ => unaryEffect .floor vs1 vd⟩
  | .vceil e vs1 m vd => some ⟨m, unaryNeed .ceil e vs1 vd m, fun _ => unaryEffect .ceil vs1 vd⟩
  | .vrnd e vs1 m vd => some ⟨m, unaryNeed .rnd e vs1 vd m, fun _ => unaryEffect .rnd vs1 vd⟩
  | .vclz e vs1 m vd => some ⟨m, unaryNeed .clz e vs1 vd m, fun _ => unaryEffect .clz vs1 vd⟩
  | .vpopc e vs1 m vd => some ⟨m, unaryNeed .popc e vs1 vd m, fun _ => unaryEffect .popc vs1 vd⟩
  | .vid e m vd => some ⟨m, fun c _ => vidNeed e vd m c, fun _ => vidEffect vd⟩
  | .vbcast e vs1 m vd => some ⟨m, fun c vl => unNeed (movable c vd vs1) false e vs1 vd m c vl, fun _ => bcastEffect vs1 vd⟩
  | .vclass e vs1 m vd => some ⟨m, fun c vl => unNeed (classTags c vd vs1) true e vs1 vd m c vl, fun _ => classEffect vs1 vd⟩
  | .vcvt e vs1 m vd => some ⟨m, fun c vl => unNeed (cvtTags c vd vs1) true e vs1 vd m c vl, fun _ => cvtEffect ⟨none, false⟩ vs1 vd⟩
  | .vcvtRz e vs1 m vd => some ⟨m, fun c vl => unNeed (cvtTags c vd vs1) true e vs1 vd m c vl, fun _ => cvtEffect ⟨some .rtz, false⟩ vs1 vd⟩
  | .vcvtSr e vs1 m vd => some ⟨m, fun c vl => unNeed (cvtTags c vd vs1) true e vs1 vd m c vl, fun _ => cvtEffect ⟨some .sr, false⟩ vs1 vd⟩
  | .vcvtSat e vs1 m vd => some ⟨m, fun c vl => unNeed (cvtTags c vd vs1) true e vs1 vd m c vl, fun _ => cvtEffect ⟨none, true⟩ vs1 vd⟩
  | .vquant e vs1 m vd => some ⟨m, fun c vl => unNeed (quantTags c vd vs1) true e vs1 vd m c vl, fun _ => quantEffect vs1 vd⟩
  | .vredsum e vs1 m vd => some ⟨m, redNeed .sum e vs1 vd m, fun _ => redEffect .sum vs1 vd⟩
  | .vredsumt e vs1 m vd => some ⟨m, redNeed .sumt e vs1 vd m, fun _ => redEffect .sumt vs1 vd⟩
  | .vredmax e vs1 m vd => some ⟨m, redNeed .max e vs1 vd m, fun _ => redEffect .max vs1 vd⟩
  | .vredmin e vs1 m vd => some ⟨m, redNeed .min e vs1 vd m, fun _ => redEffect .min vs1 vd⟩
  | .vredand e vs1 m vd => some ⟨m, redNeed .and e vs1 vd m, fun _ => redEffect .and vs1 vd⟩
  | .vredor e vs1 m vd => some ⟨m, redNeed .or e vs1 vd m, fun _ => redEffect .or vs1 vd⟩
  | .vredxor e vs1 m vd => some ⟨m, redNeed .xor e vs1 vd m, fun _ => redEffect .xor vs1 vd⟩
  | .vcompress e vs1 m vd => some ⟨m, fun c vl => unNeed (movable c vd vs1) false e vs1 vd m c vl, fun _ => compressEffect vs1 vd⟩
  | .vexpand e vs1 m vd => some ⟨m, fun c vl => unNeed (movable c vd vs1) false e vs1 vd m c vl, fun _ => expandEffect vs1 vd⟩
  | .vmidx e m vd => some ⟨m, fun c _ => vidNeed e vd m c, fun _ => midxEffect vd⟩
  | .vrev e vs1 m vd => some ⟨m, fun c vl => unNeed (movable c vd vs1) false e vs1 vd m c vl, fun _ => revEffect vs1 vd⟩
  | .vtr8 e vs1 m vd => some ⟨m, fun c vl => unNeed (movable c vd vs1) false e vs1 vd m c vl, fun _ => tr8Effect vs1 vd⟩
  | .mand e a b d => some ⟨0, fun _ _ => maskNeed e [a, b] d, fun _ => maskEffect .and a b d⟩
  | .mor e a b d => some ⟨0, fun _ _ => maskNeed e [a, b] d, fun _ => maskEffect .or a b d⟩
  | .mxor e a b d => some ⟨0, fun _ _ => maskNeed e [a, b] d, fun _ => maskEffect .xor a b d⟩
  | .mandn e a b d => some ⟨0, fun _ _ => maskNeed e [a, b] d, fun _ => maskEffect .andn a b d⟩
  | .mnot e a d => some ⟨0, fun _ _ => maskNeed e [a] d, fun _ => maskEffect .not a 0 d⟩
  | .mbf e a d => some ⟨0, fun _ _ => maskNeed e [a] d, fun _ => maskEffect .bf a 0 d⟩
  | .mif e a d => some ⟨0, fun _ _ => maskNeed e [a] d, fun _ => maskEffect .if_ a 0 d⟩
  | .msof e a d => some ⟨0, fun _ _ => maskNeed e [a] d, fun _ => maskEffect .sof a 0 d⟩
  | .mset d => some ⟨0, fun _ _ => maskNeed false [] d, fun _ => maskEffect .set 0 0 d⟩
  | .mclr d => some ⟨0, fun _ _ => maskNeed false [] d, fun _ => maskEffect .clr 0 0 d⟩
  | .vmomu e vs1 m vd => some ⟨m, momuNeed e vs1 vd m, fun en => momuEffect en.csr vs1 vd⟩
  | _ => none

/-- How many elements of its elementwise sources a V-space form needs (R281): a merge is asked for all of VL, of which
`mergeNeed` takes what the mask selects; any other form for those up to the last enabled one. -/
def readLimit (i : Instr) (en : VEntry) (m : MReg3) (c : Ctx) : Nat :=
  match i with
  | .vmergeVv _ _ _ _ _ => en.csr.vl.toNat
  | .vmergeVx _ _ _ _ _ => en.csr.vl.toNat
  | .vmergeVi _ _ _ _ _ => en.csr.vl.toNat
  | _ => readBound en m c

/-- A V-space effect writes the elements of a list, each with its result at vd's width, and raises their flags; every other
element of vd is as before (R127, R129). -/
abbrev WritesElems (c d : Ctx) (vd : VReg5) (w : Nat) (is : List Nat) (f : Nat → Nat × Flags) : Prop :=
  (∀ i ∈ is, d.raw vd i = (f i).1 % 2 ^ w) ∧ (∀ i : Nat, i ∉ is → d.raw vd i = c.raw vd i)
    ∧ ∀ k : Nat, k < 6 → d.u.vxflags.getLsbD k = (c.u.vxflags.getLsbD k || is.any fun i => (f i).2.getLsbD k)

/-- The number that a finite value is. -/
def FVal.rat (v : FVal) : Rat :=
  match v with
  | .fin s m e => (if s then -1 else 1) * (m : Rat) * (2 : Rat) ^ e
  | .nan => 0
  | .inf _ => 0

/-- A finite value. -/
def FVal.finite (v : FVal) : Bool := !v.isNan && !v.isInf

/-- The vector registers a V-space form writes. -/
def vecDests (c : Ctx) (i : Instr) : List VReg5 :=
  match i with
  | .vaddVv _ _ _ _ vd => [vd]
  | .vaddVx _ _ _ _ vd => [vd]
  | .vaddVi _ _ _ _ vd => [vd]
  | .vsubVv _ _ _ _ vd => [vd]
  | .vsubVx _ _ _ _ vd => [vd]
  | .vsubVi _ _ _ _ vd => [vd]
  | .vmulVv _ _ _ _ vd => [vd]
  | .vmulVx _ _ _ _ vd => [vd]
  | .vmulVi _ _ _ _ vd => [vd]
  | .vmacVv _ _ _ _ vd => [vd]
  | .vmacVx _ _ _ _ vd => [vd]
  | .vmacVi _ _ _ _ vd => [vd]
  | .vminVv _ _ _ _ vd => [vd]
  | .vminVx _ _ _ _ vd => [vd]
  | .vminVi _ _ _ _ vd => [vd]
  | .vmaxVv _ _ _ _ vd => [vd]
  | .vmaxVx _ _ _ _ vd => [vd]
  | .vmaxVi _ _ _ _ vd => [vd]
  | .vandVv _ _ _ _ vd => [vd]
  | .vandVx _ _ _ _ vd => [vd]
  | .vandVi _ _ _ _ vd => [vd]
  | .vorVv _ _ _ _ vd => [vd]
  | .vorVx _ _ _ _ vd => [vd]
  | .vorVi _ _ _ _ vd => [vd]
  | .vxorVv _ _ _ _ vd => [vd]
  | .vxorVx _ _ _ _ vd => [vd]
  | .vxorVi _ _ _ _ vd => [vd]
  | .vshlVv _ _ _ _ vd => [vd]
  | .vshlVx _ _ _ _ vd => [vd]
  | .vshlVi _ _ _ _ vd => [vd]
  | .vshrVv _ _ _ _ vd => [vd]
  | .vshrVx _ _ _ _ vd => [vd]
  | .vshrVi _ _ _ _ vd => [vd]
  | .vdivVv _ _ _ _ vd => [vd]
  | .vdivVx _ _ _ _ vd => [vd]
  | .vdivVi _ _ _ _ vd => [vd]
  | .vmergeVv _ _ _ _ vd => [vd]
  | .vmergeVx _ _ _ _ vd => [vd]
  | .vmergeVi _ _ _ _ vd => [vd]
  | .vpermGather _ _ _ _ vd => [vd]
  | .vpermSlideVx _ _ _ _ vd => [vd]
  | .vpermSlideVi _ _ _ _ vd => [vd]
  | .vslideupVx _ _ _ _ vd => [vd]
  | .vslideupVi _ _ _ _ vd => [vd]
  | .vmov _ _ _ vd => [vd]
  | .vneg _ _ _ vd => [vd]
  | .vabs _ _ _ vd => [vd]
  | .vnot _ _ _ vd => [vd]
  | .vsqrt _ _ _ vd => [vd]
  | .vrsqrt _ _ _ vd => [vd]
  | .vrcp _ _ _ vd => [vd]
  | .vexp2 _ _ _ vd => [vd]
  | .vlog2 _ _ _ vd => [vd]
  | .vsin _ _ _ vd => [vd]
  | .vcos _ _ _ vd => [vd]
  | .vtanh _ _ _ vd => [vd]
  | .vsigm _ _ _ vd => [vd]
  | .vfloor _ _ _ vd => [vd]
  | .vceil _ _ _ vd => [vd]
  | .vrnd _ _ _ vd => [vd]
  | .vclz _ _ _ vd => [vd]
  | .vpopc _ _ _ vd => [vd]
  | .vid _ _ vd => [vd]
  | .vbcast _ _ _ vd => [vd]
  | .vclass _ _ _ vd => [vd]
  | .vcvt _ _ _ vd => [vd]
  | .vcvtRz _ _ _ vd => [vd]
  | .vcvtSr _ _ _ vd => [vd]
  | .vcvtSat _ _ _ vd => [vd]
  | .vquant _ _ _ vd => [vd]
  | .vredsum _ _ _ vd => [vd]
  | .vredsumt _ _ _ vd => [vd]
  | .vredmax _ _ _ vd => [vd]
  | .vredmin _ _ _ vd => [vd]
  | .vredand _ _ _ vd => [vd]
  | .vredor _ _ _ vd => [vd]
  | .vredxor _ _ _ vd => [vd]
  | .vcompress _ _ _ vd => [vd]
  | .vexpand _ _ _ vd => [vd]
  | .vmidx _ _ vd => [vd]
  | .vrev _ _ _ vd => [vd]
  | .vtr8 _ _ _ vd => [vd]
  | .vmomu _ _ _ vd => [vd, (momuRegs c vd).1, (momuRegs c vd).2]
  | _ => []

/-- An instruction that is committed to the VIQ as it stands (R113, R271). -/
def viqForm (i : Instr) : Bool :=
  match (opAttr i).group with
  | .vec | .mem | .cable => true
  | .base | .seq | .cfg | .copy | .teller | .sys | .sync | .fence | .hint | .event => match i with
    | .vtag _ _ | .dset _ _ _ | .dflip _ | .dscale _ _ _ | .kalloc _ _ | .kfree _ | .kzero _ | .vsrseed _ | .atabld _ _
    | .cpyv _ _ _ _ | .cpyvs _ _ _ _ | .vxput _ _ _ | .kfence => true
    | _ => false

/-- The loads `vld` and `vldff`: mode, E, mask, destination. -/
def loadForm (i : Instr) : Option (MMode × Bool × MReg3 × VReg5) :=
  match i with
  | .vldUnit e _ m vd => some (.unit, e, m, vd)
  | .vldStrided e _ _ m vd => some (.strided, e, m, vd)
  | .vldIndexed e vs2 _ m vd => some (.indexed vs2, e, m, vd)
  | .vldffUnit e _ m vd => some (.unit, e, m, vd)
  | .vldffStrided e _ _ m vd => some (.strided, e, m, vd)
  | .vldffIndexed e vs2 _ m vd => some (.indexed vs2, e, m, vd)
  | _ => none

/-- The stores `vst` and `vstc`: the mode their data tag is checked for, E, mask, source. -/
def storeForm (i : Instr) : Option (MMode × Bool × MReg3 × VReg5) :=
  match i with
  | .vstUnit e _ m vs3 => some (.unit, e, m, vs3)
  | .vstStrided e _ _ m vs3 => some (.strided, e, m, vs3)
  | .vstIndexed e vs2 _ m vs3 => some (.indexed vs2, e, m, vs3)
  | .vstc e _ m vs3 => some (.strided, e, m, vs3)
  | _ => none

/-- Where a store puts element k: its mode's address, or, for `vstc`, the place after the selected elements below k (R230). -/
def storeAddr (i : Instr) (mode : MMode) (w : Nat) (en : VEntry) (c : Ctx) (m : MReg3) (k : Nat) : Word :=
  match i with
  | .vstc _ _ _ _ => en.a + BitVec.ofNat 64 ((c.enabled m 0 k).length * (w / 8))
  | _ => elemAddr mode w en c k

/-- `vqld` and `vqst`: the scale register and the byte stride of its entries (R231). -/
def qLoadForm (i : Instr) (c : Ctx) : Option (BitVec 2 × Word) :=
  match i with
  | .vqldUnit _ n => some (n, 2)
  | .vqldStrided rs2 _ n => some (n, c.getX rs2)
  | _ => none

def qStoreForm (i : Instr) (c : Ctx) : Option (BitVec 2 × Word) :=
  match i with
  | .vqstUnit _ n => some (n, 2)
  | .vqstStrided rs2 _ n => some (n, c.getX rs2)
  | _ => none

/-- The scatter atomics: operation, E, index register, mask, source (R251). -/
def scatterForm (i : Instr) : Option (Nat × Bool × VReg5 × MReg3 × VReg5) :=
  match i with
  | .vtadd e vs2 _ m vs3 => some (0, e, vs2, m, vs3)
  | .vtmin e vs2 _ m vs3 => some (1, e, vs2, m, vs3)
  | .vtmax e vs2 _ m vs3 => some (2, e, vs2, m, vs3)
  | _ => none

/-- The C-space forms: the checks of R166 and what their issue does. -/
def cableForm (i : Instr) (en : VEntry) : Option ((Ctx → Chk) × (Ctx → Ctx)) :=
  let mul (o : MulOp) (e : Bool) (vs2 vs1 : VReg5) (k : BitVec 8) : Option ((Ctx → Chk) × (Ctx → Ctx)) :=
    some (mulCheck o e vs1 vs2 k.toNat en.csr, mulIssue o vs1 vs2 k.toNat en)
  let drain (o : DoutOp) (e : Bool) (vb vd : VReg5) (k : BitVec 8) : Option ((Ctx → Chk) × (Ctx → Ctx)) :=
    some (doutCheck o e vb vd k.toNat, doutIssue o vb vd k.toNat en)
  match i with
  | .dmac _ e vs2 vs1 k => mul .dmac e vs2 vs1 k
  | .dmsc _ e vs2 vs1 k => mul .dmsc e vs2 vs1 k
  | .dmm _ e vs2 vs1 k => mul .dmm e vs2 vs1 k
  | .dop _ e vs2 vs1 k => mul .dop e vs2 vs1 k
  | .kin e vs1 k => some (kinCheck e vs1 k.toNat, fun c =>
      let l := c.lendAll [(vs1, (hdrLen (c.vr vs1).hdr).toNat)]
      l.1.enqueue en l.2 [c.slot k.toNat])
  | .kadd j k => some (kaddCheck j.toNat k.toNat, fun c =>
      let x := c.slot k.toNat
      let y := c.slot j.toNat
      (c.setSlot k.toNat { x with uns := x.uns || y.uns }).enqueue en [] [x, y])
  | .dout e vb vd k => drain ⟨false, false, false⟩ e vb vd k
  | .doutQ e vb vd k => drain ⟨false, false, true⟩ e vb vd k
  | .doutA e vb vd k => drain ⟨false, true, false⟩ e vb vd k
  | .doutAq e vb vd k => drain ⟨false, true, true⟩ e vb vd k
  | .doutB e vb vd k => drain ⟨true, false, false⟩ e vb vd k
  | .doutBq e vb vd k => drain ⟨true, false, true⟩ e vb vd k
  | .doutBa e vb vd k => drain ⟨true, true, false⟩ e vb vd k
  | .doutBaq e vb vd k => drain ⟨true, true, true⟩ e vb vd k
  | _ => none

/-- The vector register that a drain writes. -/
def drainDests (i : Instr) : List VReg5 :=
  match i with
  | .dout _ _ vd _ => [vd]
  | .doutQ _ _ vd _ => [vd]
  | .doutA _ _ vd _ => [vd]
  | .doutAq _ _ vd _ => [vd]
  | .doutB _ _ vd _ => [vd]
  | .doutBq _ _ vd _ => [vd]
  | .doutBa _ _ vd _ => [vd]
  | .doutBaq _ _ vd _ => [vd]
  | _ => []

/-- The direct copies: width, source, destination, their byte strides, purse index (R279). -/
def copyForm (i : Instr) (s : State) : Option (BitVec 2 × Word × Word × Int × Int × BitVec 5) :=
  match i with
  | .cpy w rs2 rs1 p => some (w, s.x rs2, s.x rs1, copyBytes w, copyBytes w, p)
  | .cpys w rs2 rs1 p => some (w, s.x rs2, s.x rs1, (lo32 s.ctx.u.cpstr).toInt, (s.ctx.u.cpstr.extractLsb' 32 32).toInt, p)
  | _ => none

/-- The scalar Teller atomics: operation, width, xs2, xs1, xd (R244). -/
def tellerForm (i : Instr) : Option (Nat × BitVec 2 × XReg × XReg × XReg) :=
  match i with
  | .tadd w rs2 rs1 rd => some (0, w, rs2, rs1, rd)
  | .tmin w rs2 rs1 rd => some (1, w, rs2, rs1, rd)
  | .tmax w rs2 rs1 rd => some (2, w, rs2, rs1, rd)
  | .tand w rs2 rs1 rd => some (3, w, rs2, rs1, rd)
  | .tor w rs2 rs1 rd => some (4, w, rs2, rs1, rd)
  | .txchg w rs2 rs1 rd => some (5, w, rs2, rs1, rd)
  | .tcas w rs2 rs1 rd => some (6, w, rs2, rs1, rd)
  | _ => none

/-- The ring instructions that may wait: header register, xd, and the operation, with the number of slots it names (R294). -/
def ringForm (i : Instr) (s : State) : Option (XReg × XReg × WaitOp) :=
  match i with
  | .rres rs1 rd => some (rs1, rd, .reserve)
  | .rpub rs2 rs1 => some (rs1, 0, .publish (s.x rs2))
  | .racq rs1 rd => some (rs1, rd, .acquire)
  | .rrel rs2 rs1 => some (rs1, 0, .release (s.x rs2))
  | _ => none

/-- The purse that index p of a purse table names (R115, R276 step 2), none where a check of it fails. -/
def purseAt (s : State) (pr : Priv) (pbase : Word) (p : Nat) : Option Nat :=
  match commonsWord s s.pidx pr (pbase + BitVec.ofNat 64 (8 * p)) 8 8 with
  | none => none
  | some e => match commonsWord s s.pidx pr (leWord (getBytes s.mem e 8)) 8 8 with
    | none => none
    | some a => if inCounterBlock s a then none else some a

/-- A run of Commons bytes that meets no counter block and no mailbox (R333, R388). -/
abbrev PlainCommons (s : State) (a n : Nat) : Prop :=
  ∀ b : Nat, a ≤ b → b < a + n → inCounterBlock s b = false
    ∧ ∀ k : Nat, k < s.nparts → b < mailboxAt s k ∨ mailboxAt s k + 256 ≤ b

/-- No control structure of the chip meets a run of n bytes, so every bit of it is software's to write (R29). -/
abbrev SoftRun (s : State) (a n : Nat) : Prop := ∀ r ∈ ctlRuns s, a + n ≤ r.phys ∨ r.phys + r.len ≤ a

/-- The page of a control structure's GLOBAL address has A and D set already, so the hardware's write of it sets neither
(R308). -/
def pageMarked (s : State) (k va : Nat) : Bool :=
  decide (Config.windowBase ≤ va) || (match walk s k va with
    | .leaf _ w _ _ => decide (leafAD w .store = w)
    | .fault | .access | .poison _ => true)

/-- The slot address that a waiting ring operation names (R294). -/
def WaitOp.slotWord (w : WaitOp) : Word :=
  match w with
  | .publish a => a
  | .release a => a
  | .reserve | .acquire | .purse | .level => 0
  | .barrier _ => 0

/-- A thread that is no strand in U-mode waits: a handler, or a core with no strand, whose wait stands with the core (log
124). -/
abbrev Strandless (s : State) : Prop := (s.core.strand = none ∨ s.core.priv ≠ .user) ∧ s.core.hwait = none

/-- The core stands at its instruction with a wait on a Commons word. -/
def State.standing (s : State) (va : Word) (op : WaitOp) : State :=
  { s with core := { s.core with hwait := some ⟨s.core.priv, s.ctx.pc, va, op, none⟩ } }

/-- A Zicsr access that the base allows: the privilege of the address, and no write of a read-only one (R82, R118). -/
abbrev CsrAllowed (s : State) (op : CsrOp) (csr : BitVec 12) (src : XReg) : Prop :=
  csrPrivOk s.core.priv csr = true ∧ (csrWrites op src = true → csr.extractLsb' 10 2 ≠ 3)

end Sys2Proof.Machine
end

