-- ==== Sys2Proof/Certificates/Slice0/Obligations.lean ====
section
/-! DEFINITION. The statements for the provers. -/

open Sys2Proof Sys2Proof.Machine

/-! ## Encoding -/

/-- R98 with the encoding tables of spec/04: decoding the word of a well-formed instruction gives it back. -/
def Obligations.DecodeOfEncode : Prop :=
  ∀ (i : Instr) (w : BitVec 32), i.wf = true → encode i = some w → decode w = some i

/-- R98: a word that decodes is the one word of a well-formed instruction, so no reserved bit is ignored and no two words
are one instruction. -/
def Obligations.EncodeOfDecode : Prop :=
  ∀ (w : BitVec 32) (i : Instr), decode w = some i → i.wf = true ∧ encode i = some w

/-- Words written out from the encoding tables, one for each family, and words that R98 makes ILLEGAL. -/
def Obligations.DecodeSampleWords : Prop :=
  decode 0x00500093 = some (.baseAlu (.opImm .addi 1 0 5))
  ∧ decode 0x00C3000B = some (.loop 12 6 0)
  ∧ decode 0x040FA08B = some (.vtag 31 1)
  ∧ decode 0xC0A5B00B = some (.cpy 3 10 11 0)
  ∧ decode 0x0097C00B = some (.tadd 0 9 15 0)
  ∧ decode 0x0600500B = some .sexit
  ∧ decode 0xFE00500B = some .hint
  ∧ decode 0x0400EF0B = some (.vmpop false 1 30)
  ∧ decode 0x0020700B = some (.qfence 2)
  ∧ decode 0x000600AB = some (.vldUnit false 12 0 1)
  ∧ decode 0x05E081DB = some (.vaddVi false 30 1 0 3)
  ∧ decode 0x028032FB = some (.kadd 40 3)
  ∧ decode 0xF02080DB = none
  ∧ decode 0xFE00510B = none
  ∧ decode 0x00000000 = none

/-! ## A step, reset and the invariant -/

/-- R81: a step of a core at which nothing is due fetches the word at the pc and, where it decodes to i, is `exec i`; where
it decodes to nothing, it traps ILLEGAL with the word as stval (R98). After each step the waits of strands are re-evaluated
(R243) and OCO is shown as it stands (R354), which changes nothing where nothing waits and OCO is as shown. The second clause names the plain case: M-mode, untranslated, nothing
queued. R98: a word that decodes to nothing traps ILLEGAL, stval the word. -/
def Obligations.StepRunsDecoded : Prop :=
  ((∀ (s t : State) (w : BitVec 32) (i : Instr), s.agenda = [] → coreHeld s = false → sleeps s = false → s.core.wfi = false →
      settle s = .next s → boundary s = none → idles s = false → focusHeld s.ctx = false → queueConsumes s = false →
      fetchM.run s = (.ok w, t) → decode w = some i → consumesNew t i = false → step s = settled (exec i t))
    ∧ (∀ (s : State) (i : Instr), s.agenda = [] → s.Clear → s.core.copies = [] → coreHeld s = false → s.core.wfi = false →
      boundary s = none → s.core.priv = .machine → physOk s.ctx.pc.toNat 4 = true → s.ecc = [] → s.heldStores = [] →
      decode (BitVec.ofNat 32 (getLe s.mem s.ctx.pc.toNat 4)) = some i → step s = settled (exec i s)))
  ∧ (∀ (s t : State) (w : BitVec 32), s.agenda = [] → coreHeld s = false → sleeps s = false → s.core.wfi = false →
      settle s = .next s → boundary s = none → idles s = false → focusHeld s.ctx = false → queueConsumes s = false →
      fetchM.run s = (.ok w, t) → decode w = none →
      step s = settled (.next (raiseTrap (loseExpected t) cIllegal (w.setWidth 64))))
  ∧ (∀ t : State, waiters t = [] → settled (.next t) = .next (showOco t)
      ∧ ((∀ k : Nat, k < t.nparts → getLe t.mem (Config.commonsBase + counterBlock t k) 8 = ocoOf t) →
          settled (.next t) = .next t))

/-- At reset memory is in its one canonical form. The form (log 9) and the empty memory (log 82) are the model's own choices,
no rule of the spec. -/
def Obligations.ResetMemoryCanonical : Prop := State.reset.MemWf

/-- The model's own invariant (log 9): every step keeps memory in its one canonical form, so equal memories are equal data. -/
def Obligations.StepKeepsMemoryCanonical : Prop :=
  ∀ (s t : State), s.MemWf → step s = .next t → t.MemWf

/-- A read after a write gives the bytes written, and every other byte is as before (log 9). -/
def Obligations.MemoryReadAfterWrite : Prop :=
  ∀ (m : Bytes) (a : Nat) (bs : List Byte) (x : Nat), Memory.wf m = true →
    getByte (setBytes m a bs) x = (if a ≤ x ∧ x < a + bs.length then bs.getD (x - a) 0 else getByte m x)
    ∧ Memory.wf (setBytes m a bs) = true

/-- Table 2.1 and R87: what a core holds after reset; where the spec gives no reset value, the model's own choice (log 2). -/
def Obligations.ResetContextValues : Prop :=
  State.reset.core.priv = .machine ∧ State.reset.core.csr.mstatus.getLsbD bitMIE = false
  ∧ State.reset.core.csr.mstatus.getLsbD bitMPRV = false ∧ State.reset.core.strand = none
  ∧ (∀ r : VReg5, (State.reset.ctx.vr r).st = .vacant) ∧ (∀ (k : MReg3) (i : Nat), k ≠ 0 → State.reset.ctx.mbit k i = false)
  ∧ (∀ n : Fin 256, State.reset.ctx.slots[n].alloc = false) ∧ topLevel State.reset.ctx.loops = none
  ∧ State.reset.ctx.viq = [] ∧ State.reset.ctx.srq = [] ∧ State.reset.ctx.cable = [] ∧ State.reset.core.copies = []

/-! ## The checks before an instruction, taking an exception, and returning -/

/-- R99: an instruction of the mode, the profile and the classes it may have, with nothing queued and no escrow loop, passes
every check that comes before its own. R87, R100, R316 in the order of Table 4.7: a privileged form below its mode and a
custom form on a clerk core trap ILLEGAL; then a form of a disabled profile in U-mode traps PROFILE; then a form whose class
is fenced traps FENCED; each with the word as stval. -/
def Obligations.ChecksInOrder : Prop :=
  (∀ (i : Instr) (s : State), Ready i s → gate i s = .pass)
  ∧ (∀ (i : Instr) (s : State), s.Clear →
      (privOk s (opAttr i) = false → gate i s = .trap cIllegal (instrWord i))
      ∧ (privOk s (opAttr i) = true → profOk s (opAttr i) = false → gate i s = .trap cProfile (instrWord i))
      ∧ (privOk s (opAttr i) = true → profOk s (opAttr i) = true → (decodeClass i).any s.fenced = true →
          gate i s = .trap cFenced (instrWord i)))

/-- R364, R369: a trap saves the pc, the cause and stval, stacks the interrupt enable and the mode, sets S on every active
level, drops the descriptor cache and the reservation, and goes to the vector base; it is taken in S when it is delegated
from U or S, in M otherwise. -/
def Obligations.TrapEntrySavesState : Prop :=
  ∀ (s : State) (isInt : Bool) (cause : BitVec 6) (tval : Word),
    let t := enterTrap s isInt cause tval
    let m := s.core.csr.mstatus
    (trapTarget s.core isInt cause = .supervisor →
      t.core.priv = .supervisor ∧ t.ctx.pc = s.core.csr.stvec ∧ t.core.csr.sepc = s.ctx.pc ∧ t.core.csr.stval = tval
      ∧ t.core.csr.scause = causeWord isInt cause ∧ t.core.csr.mstatus.getLsbD bitSPIE = m.getLsbD bitSIE
      ∧ t.core.csr.mstatus.getLsbD bitSIE = false ∧ t.core.csr.mstatus.getLsbD bitSPP = decide (s.core.priv ≠ .user)
      ∧ t.core.csr.mepc = s.core.csr.mepc ∧ t.core.csr.mcause = s.core.csr.mcause ∧ t.core.csr.mtval = s.core.csr.mtval)
    ∧ (trapTarget s.core isInt cause = .machine →
      t.core.priv = .machine ∧ t.ctx.pc = s.core.csr.mtvec ∧ t.core.csr.mepc = s.ctx.pc ∧ t.core.csr.mtval = tval
      ∧ t.core.csr.mcause = causeWord isInt cause ∧ t.core.csr.mstatus.getLsbD bitMPIE = m.getLsbD bitMIE
      ∧ t.core.csr.mstatus.getLsbD bitMIE = false ∧ mppOf t.core.csr.mstatus = s.core.priv
      ∧ t.core.csr.sepc = s.core.csr.sepc ∧ t.core.csr.scause = s.core.csr.scause ∧ t.core.csr.stval = s.core.csr.stval)
    ∧ t.core.resv = none ∧ t.ctx.dcache = []
    ∧ (∀ n : Fin 6, t.ctx.loops[n] = { s.ctx.loops[n] with susp := s.ctx.loops[n].act })
    ∧ t.ctx.x = s.ctx.x ∧ SameElsewhere s t ∧ SameVector s t

/-- R87: `ecall` takes cause 8, 9 or 11 by the mode with stval 0, and `ebreak` cause 3 with stval the pc; TRAP_ENTRY takes
the cause it names (R369), and nothing happens for a code that is never raised in the core's mode (R365). -/
def Obligations.CallsTakeTheirTrap : Prop :=
  (∀ s : State, Ready .ecall s → exec .ecall s = .next (enterTrap s false
    (match s.core.priv with
      | .user => 8
      | .supervisor => 9
      | .machine => 11) 0))
  ∧ (∀ s : State, Ready .ebreak s → exec .ebreak s = .next (enterTrap s false 3 s.ctx.pc))
  ∧ (∀ (s : State) (cause : BitVec 6) (tval : Word),
    (s.ctx.esc = none → causeRaised s cause = true →
      exec (.trapEntry cause tval) s = .next (enterTrap s false cause tval))
    ∧ (causeRaised s cause = false → exec (.trapEntry cause tval) s = .next s))

/-- R370 and the base: `mret` and `sret` go to the saved pc and mode, unstack the enable, clear S on every level, and re-arm
frozen entries on a return to U-mode with no fault still pending; MPP and SPP become the core's least privileged mode (R87), which on
a clerk core is S by the model's own choice (log 43). R274, R370: a return to U-mode re-arms every frozen entry, the faulting one to start at `ves`; one to S or M
leaves them frozen. -/
def Obligations.ReturnsRestoreState : Prop :=
  ((∀ s : State, Ready .mret s → s.core.csr.mepc.extractLsb' 0 2 = 0 →
      ∃ t, exec .mret s = .next t ∧ t.ctx.pc = s.core.csr.mepc ∧ t.core.priv = mppOf s.core.csr.mstatus
        ∧ t.core.csr.mstatus.getLsbD bitMIE = s.core.csr.mstatus.getLsbD bitMPIE ∧ t.core.csr.mstatus.getLsbD bitMPIE = true
        ∧ mppOf t.core.csr.mstatus = lowestPriv s.core.id ∧ (∀ n : Fin 6, t.ctx.loops[n] = { s.ctx.loops[n] with susp := false })
        ∧ t.ctx.x = s.ctx.x ∧ SameElsewhere s t ∧ SameVector s t)
    ∧ (∀ s : State, Ready .sret s → s.core.csr.sepc.extractLsb' 0 2 = 0 → s.core.migrate = false →
      (s.core.priv = .supervisor → s.core.csr.mstatus.getLsbD bitTSR = false) →
      ∃ t, exec .sret s = .next t ∧ t.ctx.pc = s.core.csr.sepc
        ∧ t.core.priv = (if s.core.csr.mstatus.getLsbD bitSPP then .supervisor else .user)
        ∧ t.core.csr.mstatus.getLsbD bitSIE = s.core.csr.mstatus.getLsbD bitSPIE ∧ t.core.csr.mstatus.getLsbD bitSPIE = true
        ∧ t.core.csr.mstatus.getLsbD bitSPP = isClerk s.core.id ∧ (∀ n : Fin 6, t.ctx.loops[n] = { s.ctx.loops[n] with susp := false })
        ∧ t.ctx.x = s.ctx.x ∧ SameElsewhere s t ∧ SameVector s t))
  ∧ (∀ s : State, s.ctx.vfault = none →
      (mppOf s.core.csr.mstatus = .user → (returnM s).ctx.viq = s.ctx.viq.map fun e =>
        let n := if e.faulting then s.ctx.u.ves.toNat else e.start
        if e.frozen then { e with frozen := false, start := n, base := n, undo := none } else e)
      ∧ (mppOf s.core.csr.mstatus ≠ .user → (returnM s).ctx.viq = s.ctx.viq))

/-! ## The base instructions -/

/-- R93: x0 reads 0 and discards writes; any other register reads what was written last. -/
def Obligations.ScalarRegisterFile : Prop :=
  ∀ (s : State) (r q : XReg) (v : Word), s.x 0 = 0 ∧ s.setX 0 v = s
    ∧ (r ≠ 0 → (s.setX r v).x r = v) ∧ (q ≠ r → (s.setX r v).x q = s.x q)

/-- R184, R186: retiring moves the pc past the instruction where no active, unsuspended level ends its body there, or, at the
body end of the innermost such level, counts its iteration: to the body start while iterations remain; at the last the level is
popped, and an outer level whose body ends there counts its own. The instruction is counted once, by instret or, in an iteration that may still be squashed, by its participant (R88); nothing else
changes. -/
def Obligations.RetireEndsIterations : Prop :=
  ∀ s : State,
    let ends (k : Fin 6) : Prop :=
      s.ctx.loops[k].act = true ∧ s.ctx.loops[k].susp = false ∧ s.ctx.loops[k].stop = s.ctx.pc
    let popped (k : Fin 6) : Level :=
      { s.ctx.loops[k] with rem := 0, idx := s.ctx.loops[k].idx + 1, act := false, susp := false }
    let next (k : Fin 6) : Level :=
      { s.ctx.loops[k] with rem := s.ctx.loops[k].rem - 1, idx := s.ctx.loops[k].idx + 1 }
    ((∀ k : Fin 6, ¬ends k) → (retire s).ctx.pc = s.ctx.pc + 4 ∧ (retire s).ctx.loops = s.ctx.loops)
    ∧ (∀ k : Fin 6, s.ctx.esc = none → ends k → (∀ j : Fin 6, k < j → ¬ends j) →
        (s.ctx.loops[k].rem ≠ 1 →
          (retire s).ctx.pc = s.ctx.loops[k].start ∧ (retire s).ctx.loops = s.ctx.loops.set k.val (next k))
        ∧ (s.ctx.loops[k].rem = 1 → (∀ j : Fin 6, j < k → ¬ends j) →
          (retire s).ctx.pc = s.ctx.pc + 4 ∧ (retire s).ctx.loops = s.ctx.loops.set k.val (popped k))
        ∧ (∀ j : Fin 6, s.ctx.loops[k].rem = 1 → j < k → ends j → (∀ i : Fin 6, j < i → i < k → ¬ends i) →
          s.ctx.loops[j].rem ≠ 1 → (retire s).ctx.pc = s.ctx.loops[j].start
            ∧ (retire s).ctx.loops = (s.ctx.loops.set k.val (popped k)).set j.val (next j)))
    ∧ (retire s).ctx.instret = (if s.ctx.isSpec then s.ctx.instret else s.ctx.instret + 1) ∧ (retire s).ctx.x = s.ctx.x ∧ (retire s).ctx.u = s.ctx.u
    ∧ SameElsewhere s (retire s) ∧ SameCore s (retire s) ∧ SameVector s (retire s)

/-- R4, R96: a base arithmetic form writes its result to rd and retires. The base's arithmetic as numbers: sums and
differences wrap at 64 bits, the high products are the products' high halves, shifts take their amount modulo the width,
division rounds toward zero and by zero, or overflowing, has its stated result, and the 32-bit forms work on the low words and
sign-extend. What each form applies them to is its registers, its immediate and the pc. -/
def Obligations.BaseAluCompletes : Prop :=
  (∀ (f : AluForm) (s : State), Ready (.baseAlu f) s →
      exec (.baseAlu f) s = .next (retire (s.setX (aluResult f s.ctx).1 (aluResult f s.ctx).2)))
  ∧ (∀ a b : Word,
      (regOp .add a b).toNat = (a.toNat + b.toNat) % 2 ^ 64
      ∧ (regOp .sub a b).toNat = (a.toNat + (2 ^ 64 - b.toNat)) % 2 ^ 64
      ∧ (regOp .mul a b).toNat = a.toNat * b.toNat % 2 ^ 64
      ∧ (regOp .mulhu a b).toNat = a.toNat * b.toNat / 2 ^ 64
      ∧ (regOp .mulh a b).toInt = a.toInt * b.toInt / 2 ^ 64
      ∧ (regOp .mulhsu a b).toInt = a.toInt * b.toNat / 2 ^ 64
      ∧ (regOp .slt a b = if a.toInt < b.toInt then 1 else 0)
      ∧ (regOp .sltu a b = if a.toNat < b.toNat then 1 else 0)
      ∧ (regOp .sra a b).toInt = a.toInt / 2 ^ (b.toNat % 64)
      ∧ (b = 0 → regOp .div a b = -1 ∧ regOp .rem a b = a ∧ regOp .divu a b = -1 ∧ regOp .remu a b = a)
      ∧ (b ≠ 0 → (regOp .divu a b).toNat = a.toNat / b.toNat ∧ (regOp .remu a b).toNat = a.toNat % b.toNat)
      ∧ (a.toInt = -(2 ^ 63) → b = -1 → regOp .div a b = a ∧ regOp .rem a b = 0)
      ∧ (b ≠ 0 → (regOp .rem a b).toInt = a.toInt.tmod b.toInt
          ∧ (¬(a.toInt = -(2 ^ 63) ∧ b = -1) → (regOp .div a b).toInt = a.toInt.tdiv b.toInt))
      ∧ (regOp .sll a b).toNat = a.toNat * 2 ^ (b.toNat % 64) % 2 ^ 64
      ∧ (regOp .srl a b).toNat = a.toNat / 2 ^ (b.toNat % 64)
      ∧ regOp .and a b = a &&& b ∧ regOp .or a b = a ||| b ∧ regOp .xor a b = a ^^^ b
      ∧ (regWOp .addw a b).toInt = (((a.toNat + b.toNat) % 2 ^ 32 : Nat) : Int) - (if 2 ^ 31 ≤ (a.toNat + b.toNat) % 2 ^ 32 then 2 ^ 32 else 0))
  ∧ (∀ a b : Word,
      let x := lo32 a
      let y := lo32 b
      let n := b.toNat % 32
      (regWOp .subw a b).toInt = Int.bmod (x.toInt - y.toInt) (2 ^ 32)
      ∧ (regWOp .mulw a b).toInt = Int.bmod (x.toInt * y.toInt) (2 ^ 32)
      ∧ (regWOp .sllw a b).toInt = Int.bmod ((x.toNat * 2 ^ n : Nat) : Int) (2 ^ 32)
      ∧ (regWOp .srlw a b).toInt = Int.bmod ((x.toNat / 2 ^ n : Nat) : Int) (2 ^ 32)
      ∧ (regWOp .sraw a b).toInt = x.toInt / 2 ^ n
      ∧ (y = 0 → regWOp .divw a b = -1 ∧ regWOp .divuw a b = -1 ∧ (regWOp .remw a b).toInt = x.toInt
          ∧ (regWOp .remuw a b).toInt = x.toInt)
      ∧ (y ≠ 0 → (regWOp .divw a b).toInt = Int.bmod (x.toInt.tdiv y.toInt) (2 ^ 32)
          ∧ (regWOp .remw a b).toInt = x.toInt.tmod y.toInt
          ∧ (regWOp .divuw a b).toInt = Int.bmod ((x.toNat / y.toNat : Nat) : Int) (2 ^ 32)
          ∧ (regWOp .remuw a b).toInt = Int.bmod ((x.toNat % y.toNat : Nat) : Int) (2 ^ 32)))
  ∧ (∀ (c : Ctx) (rd rs1 rs2 : XReg),
      (∀ o : RegOp, aluResult (.op o rd rs1 rs2) c = (rd, regOp o (c.getX rs1) (c.getX rs2)))
      ∧ (∀ o : RegWOp, aluResult (.opW o rd rs1 rs2) c = (rd, regWOp o (c.getX rs1) (c.getX rs2)))
      ∧ (∀ imm : BitVec 20, (aluResult (.lui rd imm) c).1 = rd ∧ (aluResult (.lui rd imm) c).2.toInt = imm.toInt * 4096
          ∧ aluResult (.auipc rd imm) c = (rd, c.pc + (aluResult (.lui rd imm) c).2))
      ∧ (∀ imm : BitVec 12,
          let v := simm12 imm
          v.toInt = imm.toInt
          ∧ aluResult (.opImm .addi rd rs1 imm) c = (rd, regOp .add (c.getX rs1) v)
          ∧ aluResult (.opImm .slti rd rs1 imm) c = (rd, regOp .slt (c.getX rs1) v)
          ∧ aluResult (.opImm .sltiu rd rs1 imm) c = (rd, regOp .sltu (c.getX rs1) v)
          ∧ aluResult (.opImm .xori rd rs1 imm) c = (rd, regOp .xor (c.getX rs1) v)
          ∧ aluResult (.opImm .ori rd rs1 imm) c = (rd, regOp .or (c.getX rs1) v)
          ∧ aluResult (.opImm .andi rd rs1 imm) c = (rd, regOp .and (c.getX rs1) v)
          ∧ aluResult (.addiw rd rs1 imm) c = (rd, regWOp .addw (c.getX rs1) v))
      ∧ (∀ sh : BitVec 6,
          let v := sh.setWidth 64
          aluResult (.shImm .sll rd rs1 sh) c = (rd, regOp .sll (c.getX rs1) v)
          ∧ aluResult (.shImm .srl rd rs1 sh) c = (rd, regOp .srl (c.getX rs1) v)
          ∧ aluResult (.shImm .sra rd rs1 sh) c = (rd, regOp .sra (c.getX rs1) v))
      ∧ (∀ sh : BitVec 5,
          let v := sh.setWidth 64
          aluResult (.shImmW .sll rd rs1 sh) c = (rd, regWOp .sllw (c.getX rs1) v)
          ∧ aluResult (.shImmW .srl rd rs1 sh) c = (rd, regWOp .srlw (c.getX rs1) v)
          ∧ aluResult (.shImmW .sra rd rs1 sh) c = (rd, regWOp .sraw (c.getX rs1) v)))

/-- R81, R187: a branch not taken retires; a taken branch or jump to a target that is not a multiple of 4 traps cause 0 on
itself, stval the target; any other writes its link and goes to the target. R187: a taken jump pops the lowest active,
unsuspended level whose body does not hold the target, unless the body of a higher level holds it, and every level above; with
no such level the stack stays, and so it does in a guess routine (R197). -/
def Obligations.BranchJumpCompletes : Prop :=
  (∀ (f : JumpForm) (s : State), Ready (.baseBranchJump f) s →
      (jumpTarget f s.ctx = none → exec (.baseBranchJump f) s = .next (retire s))
      ∧ (∀ tgt : Word, jumpTarget f s.ctx = some tgt → tgt.extractLsb' 0 2 ≠ 0 →
          exec (.baseBranchJump f) s = .next (enterTrap s false cMisFetch tgt))
      ∧ (∀ tgt : Word, jumpTarget f s.ctx = some tgt → tgt.extractLsb' 0 2 = 0 →
          exec (.baseBranchJump f) s = .next (retireJump (s.setX (jumpLink f) (s.ctx.pc + 4)) tgt)))
  ∧ (∀ (s : State) (tgt : Word),
      let holds (n : Fin 6) : Prop := s.ctx.loops[n].act = true ∧ s.ctx.loops[n].start.toNat ≤ tgt.toNat
        ∧ tgt.toNat ≤ s.ctx.loops[n].stop.toNat
      let stays (n : Fin 6) : Prop := s.ctx.loops[n].act = false ∨ s.ctx.loops[n].susp = true ∨ ∃ j : Fin 6, n ≤ j ∧ holds j
      (retireJump s tgt).ctx.pc = tgt
      ∧ ((∀ n : Fin 6, stays n) → (retireJump s tgt).ctx.loops = s.ctx.loops)
      ∧ (s.ctx.isGuess = true → (retireJump s tgt).ctx.loops = s.ctx.loops)
      ∧ (∀ n : Fin 6, s.ctx.isGuess = false → ¬stays n → (∀ j : Fin 6, j < n → stays j) →
          ∀ j : Fin 6, (retireJump s tgt).ctx.loops[j] =
            if j < n then s.ctx.loops[j] else { s.ctx.loops[j] with act := false, susp := false })
      ∧ (retireJump s tgt).ctx.x = s.ctx.x ∧ SameElsewhere s (retireJump s tgt) ∧ SameCore s (retireJump s tgt))

/-- R83, R416: an aligned load of plain memory in M-mode writes the extended value to rd; it changes no byte. R304, R307,
R308, R416: a U-mode load of an aligned address whose walk ends at a leaf that permits it, with A set, reads the frame's
bytes; with A clear the walk sets it first. -/
def Obligations.ScalarLoadsComplete : Prop :=
  (∀ (op : LoadOp) (rd rs1 : XReg) (imm : BitVec 12) (s : State), Ready (.baseLoad op rd rs1 imm) s → s.ecc = [] →
      s.heldStores = [] → PlainAccess s (s.x rs1 + simm12 imm) (loadBytes op) →
      exec (.baseLoad op rd rs1 imm) s = .next (retire (s.setX rd
        (loadValue op (getBytes s.mem (s.x rs1 + simm12 imm).toNat (loadBytes op))))))
  ∧ (∀ (op : LoadOp) (rd rs1 : XReg) (imm : BitVec 12) (s : State) (pte base size : Nat) (w : Word),
      let va := (s.x rs1 + simm12 imm).toNat
      Ready (.baseLoad op rd rs1 imm) s → s.ecc = [] → s.heldStores = [] → s.core.priv = .user →
      va % loadBytes op = 0 → va < Config.windowBase → (s.part s.pidx).tlb = [] →
      walk s s.pidx va = .leaf pte w base size → leafBad w = false → w.getLsbD 4 = true → w.getLsbD 1 = true →
      w.getLsbD 6 = true → leafLoc w = 0 → leafFrame w * 65536 + (va - base) < Config.hbmBytes →
      ∃ t, exec (.baseLoad op rd rs1 imm) s = .next t ∧ t.mem = s.mem
        ∧ t.ctx.x = (s.setX rd (loadValue op (getBytes s.mem (leafFrame w * 65536 + (va - base)) (loadBytes op)))).ctx.x
        ∧ SameCore s t ∧ SameVector s t)
  ∧ (∀ (op : LoadOp) (rd rs1 : XReg) (imm : BitVec 12) (s : State) (pte base size : Nat) (w : Word),
      let va := (s.x rs1 + simm12 imm).toNat
      Ready (.baseLoad op rd rs1 imm) s → s.Calm → s.MemWf → UserLeaf s va (loadBytes op) .load pte base size w →
      ∃ t, exec (.baseLoad op rd rs1 imm) s = .next t ∧ t.mem = markedMem s pte w .load
        ∧ t.ctx.x = (s.setX rd (loadValue op (getBytes (markedMem s pte w .load) (leafFrame w * 65536 + (va - base))
            (loadBytes op)))).ctx.x
        ∧ (∀ b : Nat, b < pte ∨ pte + 8 ≤ b → getByte t.mem b = getByte s.mem b)
        ∧ t.ctx.u = s.ctx.u ∧ SameCore s t ∧ SameVector s t)

/-- R83, R219, R416: an aligned store to plain memory in M-mode writes its bytes, low byte lowest, and nothing else: every
byte outside them, every register, every CSR and every vector register is as before. R86, R416: an aligned AMO on plain
memory in M-mode answers the old value and stores the new one. R304, R307, R308: in U-mode a store and an AMO go to the frame of a leaf
that permits them, whose A and D the walk sets first. R83: a misaligned scalar access traps before anything else:
cause 4 for a load, 6 for a store or an atomic, stval the address; nothing is read or written. -/
def Obligations.ScalarStoresComplete : Prop :=
  (∀ (op : StoreOp) (rs2 rs1 : XReg) (imm : BitVec 12) (s : State), Ready (.baseStore op rs2 rs1 imm) s → s.Calm → s.MemWf →
      PlainAccess s (s.x rs1 + simm12 imm) (storeBytes op) →
      let a := (s.x rs1 + simm12 imm).toNat
      ∃ t, exec (.baseStore op rs2 rs1 imm) s = .next t
        ∧ t.mem = setBytes s.mem a (natBytes (storeBytes op) (s.x rs2).toNat)
        ∧ (∀ b : Nat, b < a ∨ a + storeBytes op ≤ b → getByte t.mem b = getByte s.mem b)
        ∧ t.ctx.x = s.ctx.x ∧ t.ctx.u = s.ctx.u ∧ t.ctx.pc = (retire s).ctx.pc ∧ t.ctx.loops = (retire s).ctx.loops
        ∧ t.parts = s.parts ∧ SameCore s t ∧ SameVector s t)
  ∧ (∀ (op : AmoOp) (dbl aq rl : Bool) (rd rs1 rs2 : XReg) (s : State), Ready (.baseAmo op dbl aq rl rd rs1 rs2) s → s.Calm →
      s.MemWf → PlainAccess s (s.x rs1) (amoBytes dbl) →
      let a := (s.x rs1).toNat
      let old := getLe s.mem a (amoBytes dbl)
      ∃ t, exec (.baseAmo op dbl aq rl rd rs1 rs2) s = .next t
        ∧ t.mem = setLe s.mem a (amoBytes dbl) (amoNew op dbl old (s.x rs2))
        ∧ (∀ b : Nat, b < a ∨ a + amoBytes dbl ≤ b → getByte t.mem b = getByte s.mem b)
        ∧ t.ctx.x = (s.setX rd (amoReg dbl old)).ctx.x ∧ t.ctx.u = s.ctx.u ∧ t.parts = s.parts ∧ SameCore s t ∧ SameVector s t)
  ∧ ((∀ (op : StoreOp) (rs2 rs1 : XReg) (imm : BitVec 12) (s : State) (pte base size : Nat) (w : Word),
      let va := (s.x rs1 + simm12 imm).toNat
      let a := leafFrame w * 65536 + (va - base)
      Ready (.baseStore op rs2 rs1 imm) s → s.Calm → s.MemWf → UserLeaf s va (storeBytes op) .store pte base size w →
      ∃ t, exec (.baseStore op rs2 rs1 imm) s = .next t
        ∧ t.mem = setBytes (markedMem s pte w .store) a (natBytes (storeBytes op) (s.x rs2).toNat)
        ∧ OnlyRun s t a (storeBytes op) pte ∧ t.ctx.x = s.ctx.x ∧ t.ctx.u = s.ctx.u ∧ SameCore s t ∧ SameVector s t)
    ∧ (∀ (op : AmoOp) (dbl aq rl : Bool) (rd rs1 rs2 : XReg) (s : State) (pte base size : Nat) (w : Word),
      let va := (s.x rs1).toNat
      let n := amoBytes dbl
      let a := leafFrame w * 65536 + (va - base)
      let old := getLe (markedMem s pte w .store) a n
      Ready (.baseAmo op dbl aq rl rd rs1 rs2) s → s.Calm → s.MemWf → UserLeaf s va n .store pte base size w →
      ∃ t, exec (.baseAmo op dbl aq rl rd rs1 rs2) s = .next t
        ∧ t.mem = setLe (markedMem s pte w .store) a n (amoNew op dbl old (s.x rs2))
        ∧ OnlyRun s t a n pte ∧ t.ctx.x = (s.setX rd (amoReg dbl old)).ctx.x ∧ t.ctx.u = s.ctx.u ∧ SameCore s t ∧ SameVector s t))
  ∧ ((∀ (op : LoadOp) (rd rs1 : XReg) (imm : BitVec 12) (s : State), Ready (.baseLoad op rd rs1 imm) s →
      (s.x rs1 + simm12 imm).toNat % loadBytes op ≠ 0 →
      exec (.baseLoad op rd rs1 imm) s = .next (enterTrap s false cMisLoad (s.x rs1 + simm12 imm)))
    ∧ (∀ (op : StoreOp) (rs2 rs1 : XReg) (imm : BitVec 12) (s : State), Ready (.baseStore op rs2 rs1 imm) s → s.Calm →
      (s.x rs1 + simm12 imm).toNat % storeBytes op ≠ 0 →
      exec (.baseStore op rs2 rs1 imm) s = .next (enterTrap s false cMisStore (s.x rs1 + simm12 imm)))
    ∧ (∀ (op : AmoOp) (dbl aq rl : Bool) (rd rs1 rs2 : XReg) (s : State), Ready (.baseAmo op dbl aq rl rd rs1 rs2) s → s.Calm →
      (s.x rs1).toNat % amoBytes dbl ≠ 0 →
      exec (.baseAmo op dbl aq rl rd rs1 rs2) s = .next (enterTrap s false cMisStore (s.x rs1)))
    ∧ (∀ (dbl aq rl : Bool) (rd rs1 : XReg) (s : State), Ready (.baseLr dbl aq rl rd rs1) s → (s.x rs1).toNat % amoBytes dbl ≠ 0 →
      exec (.baseLr dbl aq rl rd rs1) s = .next (enterTrap s false cMisLoad (s.x rs1)))
    ∧ (∀ (dbl aq rl : Bool) (rd rs1 rs2 : XReg) (s : State), Ready (.baseSc dbl aq rl rd rs1 rs2) s → s.Calm →
      (s.x rs1).toNat % amoBytes dbl ≠ 0 →
      exec (.baseSc dbl aq rl rd rs1 rs2) s = .next (enterTrap s false cMisStore (s.x rs1))))

/-- R86: `lr` answers the value and takes the reservation of its 128-byte line; `sc` stores and answers 0 while the core
holds the reservation of that line, answers 1 and stores nothing otherwise, and leaves no reservation. In U-mode both act on the frame of the leaf (R307, R308). -/
def Obligations.LoadReservedStoreConditional : Prop :=
  (∀ (dbl aq rl : Bool) (rd rs1 : XReg) (s : State), Ready (.baseLr dbl aq rl rd rs1) s → s.Calm →
    PlainAccess s (s.x rs1) (amoBytes dbl) →
    ∃ t, exec (.baseLr dbl aq rl rd rs1) s = .next t ∧ t.core.resv = some ((s.x rs1).toNat / 128)
      ∧ t.ctx.x = (s.setX rd (amoReg dbl (getLe s.mem (s.x rs1).toNat (amoBytes dbl)))).ctx.x ∧ t.mem = s.mem
      ∧ SameCore s t ∧ SameVector s t)
  ∧ (∀ (dbl aq rl : Bool) (rd rs1 rs2 : XReg) (s : State), Ready (.baseSc dbl aq rl rd rs1 rs2) s → s.Calm → s.MemWf →
    PlainAccess s (s.x rs1) (amoBytes dbl) → s.core.resv = some ((s.x rs1).toNat / 128) →
    ∃ t, exec (.baseSc dbl aq rl rd rs1 rs2) s = .next t ∧ t.core.resv = none ∧ t.ctx.x = (s.setX rd 0).ctx.x
      ∧ t.mem = setBytes s.mem (s.x rs1).toNat (natBytes (amoBytes dbl) (s.x rs2).toNat)
      ∧ (∀ b : Nat, b < (s.x rs1).toNat ∨ (s.x rs1).toNat + amoBytes dbl ≤ b → getByte t.mem b = getByte s.mem b)
      ∧ SameCore s t ∧ SameVector s t)
  ∧ (∀ (dbl aq rl : Bool) (rd rs1 rs2 : XReg) (s : State), Ready (.baseSc dbl aq rl rd rs1 rs2) s → s.Calm →
    PlainAccess s (s.x rs1) (amoBytes dbl) → s.core.resv ≠ some ((s.x rs1).toNat / 128) →
    ∃ t, exec (.baseSc dbl aq rl rd rs1 rs2) s = .next t ∧ t.core.resv = none ∧ t.ctx.x = (s.setX rd 1).ctx.x
      ∧ t.mem = s.mem ∧ SameCore s t ∧ SameVector s t)
  ∧ (∀ (dbl aq rl : Bool) (rd rs1 : XReg) (s : State) (pte base size : Nat) (w : Word),
    let va := (s.x rs1).toNat
    let a := leafFrame w * 65536 + (va - base)
    Ready (.baseLr dbl aq rl rd rs1) s → s.Calm → s.MemWf → UserLeaf s va (amoBytes dbl) .load pte base size w →
    ∃ t, exec (.baseLr dbl aq rl rd rs1) s = .next t ∧ t.core.resv = some (a / 128) ∧ t.mem = markedMem s pte w .load
      ∧ t.ctx.x = (s.setX rd (amoReg dbl (getLe (markedMem s pte w .load) a (amoBytes dbl)))).ctx.x
      ∧ (∀ b : Nat, b < pte ∨ pte + 8 ≤ b → getByte t.mem b = getByte s.mem b) ∧ SameCore s t ∧ SameVector s t)
  ∧ (∀ (dbl aq rl : Bool) (rd rs1 rs2 : XReg) (s : State) (pte base size : Nat) (w : Word),
    let va := (s.x rs1).toNat
    let n := amoBytes dbl
    let a := leafFrame w * 65536 + (va - base)
    Ready (.baseSc dbl aq rl rd rs1 rs2) s → s.Calm → s.MemWf → UserLeaf s va n .store pte base size w →
    (s.core.resv = some (a / 128) → leafAD w .store = w →
      ∃ t, exec (.baseSc dbl aq rl rd rs1 rs2) s = .next t ∧ t.core.resv = none ∧ t.ctx.x = (s.setX rd 0).ctx.x
        ∧ t.mem = setBytes s.mem a (natBytes n (s.x rs2).toNat)
        ∧ (∀ b : Nat, b < a ∨ a + n ≤ b → getByte t.mem b = getByte s.mem b) ∧ SameCore s t ∧ SameVector s t)
    ∧ (s.core.resv ≠ some (a / 128) →
      ∃ t, exec (.baseSc dbl aq rl rd rs1 rs2) s = .next t ∧ t.core.resv = none ∧ t.ctx.x = (s.setX rd 1).ctx.x
        ∧ t.mem = markedMem s pte w .store ∧ OnlyRun s t pte 8 pte ∧ SameCore s t ∧ SameVector s t))

/-- R84, R85, R101, R82: a fence with no store accepted and not yet performed, and `hint` only retire; `fence.i` invalidates
the core's I$ and retires; `wfi` retires into the wait. -/
def Obligations.FencesAndHintsRetire : Prop :=
  (∀ (fm p q : BitVec 4) (rs1 rd : XReg) (s : State), Ready (.fence fm p q rs1 rd) s → s.heldStores = [] →
    exec (.fence fm p q rs1 rd) s = .next (retire s))
  ∧ (∀ (imm : BitVec 12) (rs1 rd : XReg) (s : State), Ready (.fenceI imm rs1 rd) s →
    exec (.fenceI imm rs1 rd) s = .next (retire { s with core := { s.core with icache := [] } }))
  ∧ (∀ s : State, Ready .hint s → exec .hint s = .next (retire s))
  ∧ (∀ s : State, Ready .wfi s → (s.core.priv = .supervisor → s.core.csr.mstatus.getLsbD bitTW = false) →
    exec .wfi s = .next { retire s with core := { (retire s).core with wfi := true } })

/-! ## Control and status registers -/

/-- Table 4.1, R82, R113, R118: an allowed Zicsr access writes the CSR's old value to rd; `csrrw`, and a set or clear whose
source is not x0 or 0, writes the new value under the CSR's fields, and the others write nothing. -/
def Obligations.CsrAccessCompletes : Prop :=
  ∀ (op : CsrOp) (csr : BitVec 12) (src rd : XReg) (s : State) (old : Word), Ready (.csrWrite op csr src rd) s →
    CsrAllowed s op csr src → s.ctx.vlProv = none → readCsr s csr = some old →
    (csrWrites op src = false → exec (.csrWrite op csr src rd) s = .next (retire (s.setX rd old)))
    ∧ (∀ t, csrWrites op src = true → writeCsr s csr (csrNew op old (csrSource op src s.ctx)) = some t →
        exec (.csrWrite op csr src rd) s = .next (retire (t.setX rd old)))

/-- R115, R228: a write of `vl` stores at most 65,536 and ends a provisional VL. R70: a write of `vxflags` stores its six
flags. R304: one of `ptroot` sets the partition's root, 64 KiB aligned. R417: one of `mip` or `sip` sets the writable
software bits and clears ASSAY_NOTICE where a 0 is written to it. Each writes the old value to rd. R417: what a write of
`mip` leaves in the software bits: bits outside the mask are kept, SSIP, STIP and SEIP take the written value, and bit 17
(ASSAY_NOTICE) is cleared by a 0 and not set by a 1. R100, R392, Table 5.6: a write of `pcfg` in M-mode sets the partition's
profiles; one that reaches PCNT also sets the partition count while no partition holds work. -/
def Obligations.SpecialCsrWrites : Prop :=
  (∀ (op : CsrOp) (src rd : XReg) (s : State),
      (Ready (.vlWrite op src rd) s → csrWrites op src = true → s.ctx.vlProv = none →
        let v := csrNew op s.ctx.u.vl (csrSource op src s.ctx)
        exec (.vlWrite op src rd) s = .next (retire ((s.mapCtx fun c =>
          { c with u := { c.u with vl := if v.toNat > 65536 then 65536 else v }, vlProv := none }).setX rd s.ctx.u.vl)))
      ∧ (Ready (.vxflagsWrite op src rd) s → csrWrites op src = true →
        let v := csrNew op s.ctx.u.vxflags (csrSource op src s.ctx)
        exec (.vxflagsWrite op src rd) s = .next (retire ((s.mapU fun u => { u with vxflags := v &&& 0x3F }).setX rd s.ctx.u.vxflags)))
      ∧ (Ready (.ptrootWrite op src rd) s → s.core.priv ≠ .user → csrWrites op src = true →
        let old := (s.part s.pidx).ptroot
        let v := csrNew op old (csrSource op src s.ctx)
        exec (.ptrootWrite op src rd) s =
          .next (retire ((s.mapPart s.pidx fun p => { p with ptroot := v &&& ~~~0xFFFF }).setX rd old)))
      ∧ (Ready (.assayNoticeClear op true src rd) s → s.core.priv = .machine → csrWrites op src = true →
        let old := mipOf s s.core
        exec (.assayNoticeClear op true src rd) s = .next (retire ({ s with core := { s.core with
          mipSoft := writeMip s.core.mipSoft (csrNew op old (csrSource op src s.ctx)) 0x20222 } }.setX rd old)))
      ∧ (Ready (.assayNoticeClear op false src rd) s → s.core.priv ≠ .user → csrWrites op src = true →
        let old := mipOf s s.core &&& s.core.csr.mideleg
        exec (.assayNoticeClear op false src rd) s = .next (retire ({ s with core := { s.core with
          mipSoft := writeMip s.core.mipSoft (csrNew op old (csrSource op src s.ctx)) (s.core.csr.mideleg &&& 0x20002) } }.setX rd old))))
  ∧ (∀ (soft v : Word), (writeMip soft v 0x20222).getLsbD 17 = (soft.getLsbD 17 && v.getLsbD 17)
      ∧ (∀ i : Nat, i = 1 ∨ i = 5 ∨ i = 9 → (writeMip soft v 0x20222).getLsbD i = v.getLsbD i)
      ∧ (∀ i : Nat, i < 64 → i ≠ 1 → i ≠ 5 → i ≠ 9 → i ≠ 17 → (writeMip soft v 0x20222).getLsbD i = soft.getLsbD i))
  ∧ (∀ (op : CsrOp) (src rd : XReg) (s : State), s.core.priv = .machine → csrWrites op src = true →
      let v := csrNew op (pcfgOf s) (csrSource op src s.ctx)
      let t := writeProf s (v.extractLsb' 0 4)
      (Ready (.profileEnableWrite op src rd) s →
        exec (.profileEnableWrite op src rd) s = .next (retire (t.setX rd (pcfgOf s))))
      ∧ (Ready (.partitionSetup op src rd) s → pcntWritten op src s.ctx = true → (v.extractLsb' 4 3).toNat ≤ 4 →
        (upFrom 0 t.nparts).any (partitionBusy t) = false →
        exec (.partitionSetup op src rd) s = .next (retire ((repartition t (v.extractLsb' 4 3)).setX rd (pcfgOf s)))))

/-! ## The sequencer -/

/-- R185: `loop` whose checks pass pushes its level with the count, the body and index 0, and goes to the body; a zero count
goes past the body. R188: `lexit` pops levels N and above. R192: `lrd` reads a field of a level, 0 for an inactive one. -/
def Obligations.LoopFormsComplete : Prop :=
  (∀ (i : BitVec 12) (rs1 : XReg) (l : BitVec 3) (s : State) (h : l.toNat < 6), Ready (.loop i rs1 l) s →
    let start := s.ctx.pc + 4
    let stop := s.ctx.pc + 4 * i.setWidth 64
    (∀ cause, loopCheck s.ctx l.toNat start stop = some cause →
      exec (.loop i rs1 l) s = .next (enterTrap s false cause (instrWord (.loop i rs1 l))))
    ∧ (loopCheck s.ctx l.toNat start stop = none → s.x rs1 = 0 → exec (.loop i rs1 l) s = .next (retireTo s (stop + 4)))
    ∧ (loopCheck s.ctx l.toNat start stop = none → s.x rs1 ≠ 0 → exec (.loop i rs1 l) s = .next (retireAt (s.mapCtx fun c =>
        { c with loops := c.loops.set l.toNat ⟨s.x rs1, start, stop, 0, true, false⟩ }) start)))
  ∧ (∀ (l : BitVec 3) (s : State), Ready (.lexit l) s →
    exec (.lexit l) s = .next (retire (s.mapCtx fun c => { c with loops := popFrom c.loops l.toNat })))
  ∧ (∀ (sel : BitVec 5) (rd : XReg) (s : State), Ready (.lrd sel rd) s →
    exec (.lrd sel rd) s =
      .next (retire (s.setX rd (levelField (s.ctx.loops.toList.getD (sel.toNat / 4) Level.off) (sel.toNat % 4)))))

/-- R191: `lsave` stores the 25 words of the loop stack in ascending address and nothing else; `lrest` of an image that
passes the checks replaces the whole stack and retires under it, and of any other traps LOOP; an image gives back each active level. -/
def Obligations.LoopImageRoundTrip : Prop :=
  (∀ (rs1 : XReg) (s : State), Ready (.lsave rs1) s → s.Calm → s.MemWf → PlainAccess s (s.x rs1) 8 →
    physOk (s.x rs1).toNat 200 = true →
    ∃ t, exec (.lsave rs1) s = .next t
      ∧ t.mem = setBytes s.mem (s.x rs1).toNat ((loopImage s.ctx).flatMap fun w => natBytes 8 w.toNat)
      ∧ t.ctx.x = s.ctx.x ∧ t.ctx.pc = (retire s).ctx.pc ∧ t.ctx.loops = (retire s).ctx.loops ∧ SameCore s t ∧ SameVector s t)
  ∧ (∀ (rs1 : XReg) (s : State), Ready (.lrest rs1) s → s.ecc = [] → s.heldStores = [] → PlainAccess s (s.x rs1) 8 →
    physOk (s.x rs1).toNat 200 = true →
    let ws := (upFrom 0 25).map fun k => leWord (getBytes s.mem ((s.x rs1).toNat + 8 * k) 8)
    (imageOk s.ctx ws = true → exec (.lrest rs1) s = .next (retire (s.mapCtx fun c =>
      { c with loops := Vector.ofFn fun (i : Fin 6) => imageLevel ws i.val })))
    ∧ (imageOk s.ctx ws = false → exec (.lrest rs1) s = .next (enterTrap s false cLoop (instrWord (.lrest rs1)))))
  ∧ (∀ (c : Ctx) (n : Fin 6), imageLevel (loopImage c) n.val = if c.loops[n].act then c.loops[n] else Level.off)

/-! ## Escrow loops -/

/-- R204: `esc.open` of a 64-byte-aligned descriptor that passes the checks opens the loop at width 1 with zeroed counters
and waits for its `loop`; a misaligned descriptor traps cause 4. R208: `esc.stat` reads the last closed loop's counters;
R205 to R208: `esc.cmp`, `esc.close`, `esc.ret` and `esc.abort` with no loop open trap ESCROW. R195 to R197, R199, R200: the
steps of an escrow loop's other agents: a guess routine ends with the carries it started with; an idle covering core of the
rib joins; the WS takes a helper back, also after the loop's end (R49); a write by another agent reaches every loop's read sets; and the turn goes to the
oldest iteration, which performs what it deferred. -/
def Obligations.EscrowFormsComplete : Prop :=
  ((∀ (rs1 : XReg) (s : State), Ready (.escOpen rs1) s → s.ecc = [] → s.heldStores = [] → anySusp s.ctx.loops = false →
      PlainAccess s (s.x rs1) 64 →
      let w (k : Nat) : Word := leWord (getBytes s.mem ((s.x rs1).toNat + 8 * k) 8)
      escDescOk s (w 0) (w 1) (w 2) = true →
      ∃ t e, exec (.escOpen rs1) s = .next t ∧ t.ctx.esc = some e ∧ e.desc = s.x rs1 ∧ e.expectLoop = true ∧ e.level = none
        ∧ e.cmask = (w 0).extractLsb' 0 32 ∧ e.want = ((w 0).extractLsb' 32 4).toNat ∧ e.gpc = w 1
        ∧ e.cmode = (w 2).extractLsb' 0 16 ∧ e.ncom = 0 ∧ e.nmis = 0 ∧ e.ncon = 0 ∧ e.ndef = 0
        ∧ t.ctx.x = s.ctx.x ∧ SameElsewhere s t ∧ SameCore s t ∧ SameVector s t)
    ∧ (∀ (rs1 : XReg) (s : State), Ready (.escOpen rs1) s → (s.x rs1).toNat % 64 ≠ 0 →
      exec (.escOpen rs1) s = .next (enterTrap s false cMisLoad (s.x rs1)))
    ∧ (∀ (rd : XReg) (s : State), Ready (.escStat rd) s → exec (.escStat rd) s = .next (retire (s.setX rd
        (BitVec.ofNat 64 (sat16 s.ctx.escLast.ndef * 2 ^ 48 + sat16 s.ctx.escLast.ncon * 2 ^ 32 + sat16 s.ctx.escLast.nmis * 2 ^ 16
          + sat16 s.ctx.escLast.ncom)))))
    ∧ (∀ (i : Instr) (s : State), (i = .escClose ∨ i = .escRet ∨ i = .escAbort ∨ ∃ rd, i = .escCmp rd) → Ready i s →
      exec i s = .next (enterTrap s false cEscrow (instrWord i))))
  ∧ ((∀ (s : State) (e : Escrow) (p : EscPart), s.ctx.escActive = some e → e.focusPart = some p → p.guessing = true →
      ∃ t, exec .guessRoutineEnd s = .next t ∧ t.ctx.x = p.guess ∧ t.ctx.pc = e.bodyStart s.ctx.loops ∧ t.ctx.isGuess = false)
    ∧ (∀ (n : Nat) (s : State) (e : Escrow), s.ctx.escActive = some e → e.way = true → e.narrow = false →
      e.parts.length < e.want → n ≠ s.core.id → ribOf n = ribOf s.core.id → idleCore s n = true →
      covers s n s.ctx.usemask = true →
      ∃ t, exec (.escrowHelperJoin n) s = .next t ∧ (t.coreAt n).helperOf = some s.core.id
        ∧ t.ctx.esc.map (fun e' => e'.parts.length) = some (e.parts.length + 1))
    ∧ (∀ (n k : Nat) (s : State) (e : Escrow), s.ctx.esc = some e →
      (e.parts.findIdx? fun p => decide (p.core = n) && !p.home) = some k →
      ∃ t, exec (.escrowHelperReclaim n) s = .next t ∧ (t.coreAt n).helperOf = none)
    ∧ (∀ (a : Word) (v : Byte) (s : State), physOk a.toNat 1 = true →
      exec (.escrowConflictSquash a v) s = .next (physWrite s s.pidx true (.agent .supervisor) none a.toNat [v]))
    ∧ (∀ (s : State) (e : Escrow) (p : EscPart), s.ctx.escActive = some e →
      (s.ctx.storeFocus e).parts[e.oldestPart]? = some p →
      ∃ t, exec .escrowDeferredResume s = .next t ∧ t.ctx.x = p.x ∧ t.ctx.pc = p.pc))

/-- R198: at the body end the oldest iteration commits. With no iteration running ahead and more to come, xd is 1 and the next
one starts as the oldest with the carries of this one and the entry values of every other register; at the last, xd is 1, the
loop ends, and the carries are this iteration's. R206: `esc.close` of an ended loop writes the four counters to the
descriptor, adds them to the partition's totals, and closes it. What the registers outside the carries hold at a commit, and
what the counters count, are the model's own reading (logs 98 and 37). R203, R208: `esc.abort` ends the loop. R197: `esc.ret` ends a guess
routine, keeping the carries it set. -/
def Obligations.EscrowCommits : Prop :=
  (∀ (rd : XReg) (s : State) (e : Escrow) (q : EscPart), gate (.escCmp rd) s = .pass → s.ctx.esc = some e →
    atEscEnd s.ctx = true → s.ctx.isSpec = false → s.heldStores = [] → s.ctx.viq = [] → boundaryDue s = false →
    e.focusPart = some q → e.partOf (e.oldest + 1) = none →
    (e.oldest + 1 ≠ e.trip.toNat → ∃ t e', exec (.escCmp rd) s = .next t ∧ t.ctx.pc = e.bodyStart s.ctx.loops
      ∧ (rd ≠ 0 → t.x rd = 1)
      ∧ (∀ i : Fin 32, i.val ≠ rd.toNat → t.ctx.x[i] = if e.cmask.getLsbD i.val then s.ctx.x[i] else e.entryX[i])
      ∧ t.ctx.esc = some e' ∧ e'.oldest = e.oldest + 1 ∧ e'.ncom = e.ncom + 1 ∧ e'.nmis = e.nmis)
    ∧ (e.oldest + 1 = e.trip.toNat → ∃ t e', exec (.escCmp rd) s = .next t ∧ t.ctx.esc = some e' ∧ e'.done = true
      ∧ e'.ncom = e.ncom + 1 ∧ (rd ≠ 0 → t.x rd = 1) ∧ (∀ r : XReg, r ≠ rd → e.cmask.getLsbD r.toNat = true → t.x r = s.x r)
      ∧ (e.level = some 0 → t.ctx.pc = s.ctx.pc + 4)))
  ∧ (∀ (s : State) (e : Escrow), gate .escClose s = .pass → s.ctx.esc = some e → e.done = true → s.lag = false → s.Calm → s.MemWf →
    PlainAccess s (e.desc + 32) 32 →
    ∃ t, exec .escClose s = .next t ∧ t.ctx.esc = none ∧ t.ctx.escLast = ⟨e.ncom, e.nmis, e.ncon, e.ndef⟩
      ∧ (∀ k : Fin 4, getLe t.mem ((e.desc + 32).toNat + 8 * k.val) 8 = ([e.ncom, e.nmis, e.ncon, e.ndef].getD k.val 0).toNat)
      ∧ (∀ b : Nat, b < (e.desc + 32).toNat ∨ (e.desc + 32).toNat + 32 ≤ b → isCommons b = false → getByte t.mem b = getByte s.mem b)
      ∧ (∀ k : Fin 4, let a := Config.commonsBase + counterBlock s s.pidx + 0x38 + 8 * k.val
          getLe t.mem a 8 = (getLe s.mem a 8 + ([e.ncom, e.nmis, e.ncon, e.ndef].getD k 0).toNat) % 2 ^ 64)
      ∧ t.ctx.x = s.ctx.x)
  ∧ (∀ (s : State) (e : Escrow), gate .escAbort s = .pass → s.ctx.esc = some e → s.ctx.isGuess = false →
    exec .escAbort s = .next (retire (if e.done then s else finishEscrow s)))
  ∧ (∀ (s : State) (e : Escrow) (p : EscPart), gate .escRet s = .pass → s.ctx.escActive = some e → e.focusPart = some p →
    p.guessing = true → ∃ t, exec .escRet s = .next t ∧ t.ctx.pc = e.bodyStart s.ctx.loops ∧ t.ctx.isGuess = false
      ∧ (∀ i : Fin 32, t.ctx.x[i] = if e.cmask.getLsbD i.val then s.ctx.x[i] else e.entryX[i]))

/-- R198: at the body end, where iteration j + 1 runs ahead and its guess is there, `esc.cmp` confirms it (xd 1, and it goes on
from where it stands) or starts it again with the true carries (xd 0, counted as mispredicted). R206: `esc.close` of an ended
loop closes it, keeps its counters and frees its helpers. R203: `esc.abort` ends an open loop, its level popped and every
speculative iteration gone, and of an ended one retires. R197, R207: `esc.ret` ends a guess routine at the body's start. The
registers outside the carries and what the counters count are the model's own reading (logs 98 and 37). -/
def Obligations.EscrowInstructionsComplete : Prop :=
  (∀ (rd : XReg) (s : State) (e : Escrow) (q p : EscPart) (k : Nat), gate (.escCmp rd) s = .pass → s.ctx.esc = some e →
    atEscEnd s.ctx = true → s.ctx.isSpec = false → s.heldStores = [] → s.ctx.viq = [] → boundaryDue s = false →
    e.focusPart = some q → e.partOf (e.oldest + 1) = some k → e.parts[k]? = some p → p.guessing = false → p.waiting = false →
    e.oldest + 1 ≠ e.trip.toNat →
    (s.Calm → carriesEqual e p.guess s.ctx.x = true → ∃ t e', exec (.escCmp rd) s = .next t ∧ t.ctx.esc = some e'
      ∧ e'.oldest = e.oldest + 1 ∧ e'.ncom = e.ncom + 1 ∧ e'.nmis = e.nmis ∧ t.ctx.pc = p.pc ∧ (rd ≠ 0 → t.x rd = 1)
      ∧ ∀ r : XReg, r ≠ rd → r ≠ 0 → t.x r = p.x[r.toNat])
    ∧ (carriesEqual e p.guess s.ctx.x = false → ∃ t e', exec (.escCmp rd) s = .next t ∧ t.ctx.esc = some e'
      ∧ e'.oldest = e.oldest + 1 ∧ e'.ncom = e.ncom + 1 ∧ e'.nmis = e.nmis + 1 ∧ t.ctx.pc = e.bodyStart s.ctx.loops
      ∧ (rd ≠ 0 → t.x rd = 0)
      ∧ ∀ r : XReg, r ≠ rd → r ≠ 0 → t.x r = if e.cmask.getLsbD r.toNat then s.ctx.x[r.toNat] else e.entryX[r.toNat]))
  ∧ (∀ (s : State) (e : Escrow), gate .escClose s = .pass → s.ctx.esc = some e → e.done = true → s.lag = false → s.Calm →
    s.MemWf → PlainAccess s (e.desc + 32) 32 →
    ∃ t, exec .escClose s = .next t ∧ t.ctx.esc = none ∧ t.ctx.escLast = ⟨e.ncom, e.nmis, e.ncon, e.ndef⟩
      ∧ (∀ n : Nat, (t.coreAt n).helperOf ≠ some s.core.id))
  ∧ (∀ (s : State) (e : Escrow), gate .escAbort s = .pass → s.ctx.esc = some e → s.ctx.isGuess = false →
    (e.done = true → exec .escAbort s = .next (retire s))
    ∧ (e.done = false → ∃ t e', exec .escAbort s = .next t ∧ t.ctx.esc = some e' ∧ e'.done = true
      ∧ (∀ p ∈ e'.parts, p.iter = none) ∧ ∀ l : Fin 6, e.level = some (BitVec.ofNat 3 l.val) → t.ctx.loops[l].act = false))
  ∧ (∀ (s : State) (e : Escrow) (p : EscPart), gate .escRet s = .pass → s.ctx.escActive = some e → e.focusPart = some p →
    p.guessing = true → ∃ t, exec .escRet s = .next t ∧ t.ctx.pc = e.bodyStart s.ctx.loops ∧ t.ctx.isGuess = false
      ∧ ∀ i : Fin 32, t.ctx.x[i] = if e.cmask.getLsbD i.val then s.ctx.x[i] else e.entryX[i])

/-! ## The VIQ -/

/-- R113, R270: an instruction committed to the VIQ waits while its 32 entries are full; otherwise it joins the end with its
scalars and CSRs as they stand, and retires: where the queue lags, with nothing else done. R120, R228, R272, R273, R268:
VIQ_EXECUTE runs the head entry, unless a cut comes before it (R269); it leaves the queue when it completes and freezes the
queue when it faults, where a LATEPF may come only later; VLDFF_COMPLETE does so for a `vldff`; VECTOR_FAULT freezes the queue
for an entry behind a waiting head, with what that has written, once no older entry is executing; LATEPF reports a late fault at an element; and STORE_ACK
performs a held store. A fault leaves the trap pending with its stval, the
entry's place and the element, which `vqpos` and `ves` hold from the trap's entry on (R365). -/
def Obligations.QueueCommits : Prop :=
  (∀ (i : Instr) (s : State), viqForm i = true → gate i s = .pass → s.ctx.isGuess = false →
      (32 ≤ s.ctx.viq.length → exec i s = .next s)
      ∧ (s.ctx.viq.length < 32 → s.lag = true → exec i s = .next (retire (viqPush i [] s))))
  ∧ ((∀ (s t : State) (en : VEntry) (rest : List VEntry), s.ctx.viq = en :: rest → en.frozen = false →
      entryConsumes s en = false → viqHead en s = .done t →
      exec .viqExecute s = .next (viqAfter (viqLeave en t))
      ∧ (isVldff en.instr = true → exec .vldffComplete s = .next (viqAfter (viqLeave en t))))
    ∧ (∀ (s t : State) (en : VEntry) (rest : List VEntry) (cause : BitVec 6) (tval : Option Word) (ves : Nat),
      s.ctx.viq = en :: rest → en.frozen = false → entryConsumes s en = false → viqHead en s = .fault t cause tval ves →
      exec .viqExecute s = .next (headFault en t cause tval ves)
      ∧ (t.lag = false ∨ cause ≠ cLatepf → headFault en t cause tval ves = viqFault t 0 en.word cause tval ves)
      ∧ (cause = cLatepf → exec (.latepf ves) s = .next (viqFault t 0 en.word cause tval ves)))
    ∧ (∀ (s u : State) (en e : VEntry) (rest : List VEntry) (pos f : Nat) (cause : BitVec 6) (tval : Option Word),
      s.ctx.viq = en :: rest → en.frozen = false → entryConsumes s en = false → viqHead en s = .wait →
      findAhead s 1 rest = some (pos, e, u, cause, tval, f) → ((s.ctx.viq.take pos).any fun o => o.begun || o.sent) = false →
      exec .vectorFault s = .next (viqFault u pos e.word cause tval f))
    ∧ (∀ (s : State) (pos : Nat) (word : BitVec 32) (cause : BitVec 6) (tval : Option Word) (ves : Nat),
      let t := viqFault s pos word cause tval ves
      (∀ e ∈ t.ctx.viq, e.frozen = true) ∧ t.ctx.viq.length = s.ctx.viq.length
        ∧ t.ctx.vfault = some ⟨cause, tval.getD (word.setWidth 64), BitVec.ofNat 64 ves, BitVec.ofNat 64 pos⟩ ∧ t.ctx.u = s.ctx.u
        ∧ t.ctx.pc = s.ctx.pc ∧ t.ctx.x = s.ctx.x ∧ ((∀ e ∈ s.ctx.viq.drop (pos + 1), e.undo = none) → t.ctx.v = s.ctx.v)
        ∧ SameElsewhere s t)
    ∧ (∀ (s : State) (f : VFault), s.ctx.vfault = some f → s.ctx.esc = none →
      let t := takeVFault s
      t = enterTrap (s.mapCtx fun c => { c with vfault := none, u := { c.u with ves := f.ves, vqpos := f.vqpos } }) false
          f.cause f.tval
        ∧ t.ctx.u.ves = f.ves ∧ t.ctx.u.vqpos = f.vqpos ∧ t.ctx.vfault = none)
    ∧ (∀ (s : State) (h : Held) (a : Nat) (kind : BitVec 2), s.heldStores = [h] → h.core = s.core.id → h.behind = none →
      h.loc = .phys a kind none → h.bytes ≠ [] → { s with heldStores := [] }.Calm → s.ctx.esc = none → s.MemWf → physOk a h.bytes.length = true →
      isCommons a = false →
      ∃ t, exec .storeAck s = .next t ∧ t.heldStores = [] ∧ t.mem = setBytes s.mem a h.bytes ∧ t.ctx = s.ctx))

/-- R120: a V-space instruction whose checks pass performs its effect, leaves the queue and retires. R127, R129: what a
V-space instruction leaves as it is: every vector register but its destination, every mask but the one it writes, the scale
registers (but for `vquant`), the scalar registers, the slots and the pool, the pocket, every CSR but `vxflags`, whose flags
only rise, memory, and every other agent. -/
def Obligations.VectorFormsComplete : Prop :=
  (∀ (i : Instr) (f : VecForm) (s : State), vecForm i = some f → Ready i s →
      let en := viqEntry i [] s
      let p := viqPush i [] s
      needCheck p.ctx s.ctx.u.vl.toNat (f.need p.ctx (readLimit i en f.m p.ctx)) = .ok →
      exec i s = .next (retire (viqAfter (viqLeave en
        { p.setCtx (f.eff en (envOf p en f.m) p.ctx) with draws := p.draws + s.ctx.u.vl.toNat }))))
  ∧ (∀ (i : Instr) (f : VecForm) (s : State), vecForm i = some f → Ready i s →
      let p := viqPush i [] s
      needCheck p.ctx s.ctx.u.vl.toNat (f.need p.ctx (readLimit i (viqEntry i [] s) f.m p.ctx)) = .ok →
      ∃ t, exec i s = .next t ∧ (∀ r : VReg5, r ∉ vecDests s.ctx i → t.ctx.vr r = s.ctx.vr r)
        ∧ (∀ k : MReg3, k ∉ maskWrites i → ∀ n : Nat, t.ctx.mbit k n = s.ctx.mbit k n)
        ∧ ((∀ e vs1 m vd, i ≠ .vquant e vs1 m vd) → t.ctx.q = s.ctx.q)
        ∧ (∀ r : VReg5, (t.ctx.vr r).tag = (s.ctx.vr r).tag ∧ (t.ctx.vr r).hdr = (s.ctx.vr r).hdr)
        ∧ { t.ctx.u with vxflags := s.ctx.u.vxflags } = s.ctx.u ∧ s.ctx.u.vxflags &&& ~~~t.ctx.u.vxflags = 0
        ∧ t.ctx.x = s.ctx.x ∧ t.ctx.slots = s.ctx.slots ∧ t.ctx.pool = s.ctx.pool ∧ t.ctx.pocket = s.ctx.pocket
        ∧ t.ctx.atab = s.ctx.atab ∧ t.ctx.viq = [] ∧ SameElsewhere s t ∧ SameCore s t)

/-- R57, R129, Table 6.2: the integer result of every binary form: each enabled element below VL is the exact result wrapped
to vd's type, with IO where it does not fit, and every other element is as before. R57, Table 3.3, Table 6.2: what the
integer operations compute: sums, differences, products and multiply-accumulates wrap modulo 2^w and set IO where the exact
result does not fit; minima and maxima set no flag; division by zero gives all ones with DZ, the overflowing division sets IO
and any other sets no flag; the shift amount is taken modulo the width. R129, R130, R132, R142, R144, R156: the floating
binary forms, the unary forms, merges, moves and conversions write the result of their operation in the same way. R66 to R70:
the floating operations are exact sums, products, quotients and roots, rounded once: a representable value stays as it is,
RDN never gives more and RUP never less. That no flag but those of the tables is raised, by a minimum, a maximum, a division or
a shift, is the model's reading (log 12). -/
def Obligations.IntElementResult : Prop :=
  (∀ (o : BinOp) (vs1 vd : VReg5) (q : Src2) (v : VEnv) (c : Ctx) (t : IntTy), c.ety vd = some (.int t) → v.es = 0 →
      Memory.wf (c.vr vd).data = true →
      let d := binEffect o vs1 vd q v c
      (∀ i : Nat, i < v.vl → c.mbit v.m i = true →
        d.raw vd i = (intBin o t (c.ival vs1 i) (q.int c v t i) (c.ival vd i)).1)
      ∧ (∀ i : Nat, v.vl ≤ i ∨ c.mbit v.m i = false → d.raw vd i = c.raw vd i)
      ∧ (d.u.vxflags.getLsbD 5 = (c.u.vxflags.getLsbD 5 || (c.enabled v.m 0 v.vl).any fun i =>
          (intBin o t (c.ival vs1 i) (q.int c v t i) (c.ival vd i)).2.getLsbD 5)))
  ∧ (∀ (t : IntTy) (a b d : Int), 1 ≤ t.w →
      ((intBin .add t a b d).1 : Int) = (a + b) % 2 ^ t.w
      ∧ ((intBin .sub t a b d).1 : Int) = (a - b) % 2 ^ t.w
      ∧ ((intBin .mul t a b d).1 : Int) = a * b % 2 ^ t.w
      ∧ ((intBin .mac t a b d).1 : Int) = (d + a * b) % 2 ^ t.w
      ∧ (intBin .add t a b d).2 = (if t.min ≤ a + b ∧ a + b ≤ t.max then 0 else flIO)
      ∧ (intBin .mac t a b d).2 = (if t.min ≤ d + a * b ∧ d + a * b ≤ t.max then 0 else flIO)
      ∧ (b = 0 → intBin .div t a b d = (2 ^ t.w - 1, flDZ))
      ∧ (intBin .min t a b d).2 = 0 ∧ (intBin .max t a b d).2 = 0
      ∧ (b ≠ 0 → ((intBin .div t a b d).1 : Int) = a.tdiv b % 2 ^ t.w)
      ∧ (b ≠ 0 → ¬(t.signed = true ∧ a = t.min ∧ b = -1) → (intBin .div t a b d).2 = 0)
      ∧ (a = t.min → b = -1 → t.signed = true → intBin .div t a b d = (2 ^ (t.w - 1), flIO))
      ∧ ((intBin .shl t a b d).1 : Int) = a * 2 ^ (b % t.w).toNat % 2 ^ t.w)
  ∧ (∀ (vs1 vd : VReg5) (q : Src2) (v : VEnv) (c : Ctx), Memory.wf (c.vr vd).data = true →
      let is := c.enabled v.m v.es v.vl
      (∀ (o : BinOp) (f : FFmt), c.ety vd = some (.flt f) → WritesElems c (binEffect o vs1 vd q v c) vd f.width is fun i =>
          fltBin o f (rndOf v.mode v.vxctl c.sr i) (c.fval vs1 i) (q.flt c v f i) (c.fval vd i))
      ∧ (∀ (o : UnOp) (t : IntTy), c.ety vd = some (.int t) → WritesElems c (unaryEffect o vs1 vd v c) vd t.w is fun i =>
          intUn o t (c.ival vs1 i))
      ∧ (∀ (o : UnOp) (f : FFmt), c.ety vd = some (.flt f) → WritesElems c (unaryEffect o vs1 vd v c) vd f.width is fun i =>
          fltUn o f (rndOf v.mode v.vxctl c.sr i) (Config.pick (v.draw + i)) (c.fval vs1 i))
      ∧ (∀ t : IntTy, c.ety vd = some (.int t) → WritesElems c (mergeEffect vs1 vd q v c) vd t.w (upFrom v.es (v.vl - v.es))
          fun i => (t.bits (if c.mbit v.m i then c.ival vs1 i else q.int c v t i), 0))
      ∧ (∀ f : FFmt, c.ety vd = some (.flt f) → WritesElems c (mergeEffect vs1 vd q v c) vd f.width
          (upFrom v.es (v.vl - v.es)) fun i => f.rne (if c.mbit v.m i then c.fval vs1 i else q.flt c v f i))
      ∧ ((c.ety vd).isSome = true → WritesElems c (movEffect vs1 vd v c) vd (c.width vd) is (moveElem c vd vs1))
      ∧ (∀ o : CvtOp, (c.ety vd).isSome = true → WritesElems c (cvtEffect o vs1 vd v c) vd (c.width vd) is fun i =>
          cvtElem c vd vs1 (rndOf (o.mode.getD v.mode) v.vxctl c.sr i) o.sat i))
  ∧ (∀ (t u : IntTy) (a : Int) (rd : Rnd) (b : Nat) (fv : FVal), 1 ≤ t.w →
      intUn .neg t a = (t.bits (-a), if t.fits (-a) then 0 else flIO)
      ∧ intUn .abs t a = (t.bits a.natAbs, if t.fits a.natAbs then 0 else flIO)
      ∧ (intUn .not t a).1 = 2 ^ t.w - 1 - t.bits a
      ∧ (intUn .popc t a).1 = ((upFrom 0 t.w).filter fun i => (t.bits a).testBit i).length
      ∧ (t.bits a = 0 → (intUn .clz t a).1 = t.w)
      ∧ (t.bits a ≠ 0 → 2 ^ (t.w - 1 - (intUn .clz t a).1) ≤ t.bits a ∧ t.bits a < 2 ^ (t.w - (intUn .clz t a).1))
      ∧ cvtBits (.int t) (.int u) rd false b a fv = (t.bits a, if t.fits a then 0 else flIO)
      ∧ cvtBits (.int t) (.int u) rd true b a fv = (t.bits (max t.min (min t.max a)), if t.fits a then 0 else flIO))
  ∧ (∀ (t : IntTy) (f g : FFmt) (rd : Rnd) (b : Nat) (a : Int) (s : Bool) (m : Nat) (e : Int), 1 ≤ t.w →
      rd.r < 2 ^ rd.k →
      cvtBits (.int t) (.flt g) rd false b a .nan = (0, flNV)
      ∧ (0 ≤ e → let x : Int := (if s then -1 else 1) * (m * 2 ^ e.toNat)
          cvtBits (.int t) (.flt g) rd false b a (.fin s m e) =
            (t.bits (max t.min (min t.max x)), if t.fits x then 0 else flNV))
      ∧ (e < 0 → rd.mode = .rtz → let x : Int := (if s then -1 else 1) * (m / 2 ^ (-e).toNat : Nat)
          cvtBits (.int t) (.flt g) rd false b a (.fin s m e) = (t.bits (max t.min (min t.max x)),
            if t.fits x then if m % 2 ^ (-e).toNat = 0 then 0 else flNX else flNV))
      ∧ cvtBits (.flt f) (.int t) rd false b a .nan = f.round rd false (FVal.ofInt a) false
      ∧ cvtBits (.flt f) (.flt f) rd false b a .nan = (f.nanBits, 0)
      ∧ cvtBits (.flt f) (.flt f) rd false b a (.fin s m e) = (b, 0))
  ∧ (∀ (md : RMode) (a b d : FVal), a.finite = true → b.finite = true → d.finite = true →
      ((fadd md a b).1.rat = a.rat + b.rat ∧ (fadd md a b).1.finite = true)
      ∧ ((fmul a b).1.rat = a.rat * b.rat ∧ (fmul a b).1.finite = true)
      ∧ ((ffma md d a b).1.rat = d.rat + a.rat * b.rat ∧ (ffma md d a b).1.finite = true)
      ∧ a.negate.rat = -a.rat ∧ (b.isZero = true → a.isZero = false → (fdiv a b).2.2 = flDZ ∧ (fdiv a b).1.isInf = true))
  ∧ (∀ n : Nat, let r := isqrt n (n.log2 / 2 + 1) 0
      r * r ≤ n ∧ n < (r + 1) * (r + 1))
  ∧ (∀ (f : FFmt) (rd : Rnd) (b : Nat) (v : FVal) (a : FVal) (ch : Nat), f ∈ [fp32, bf16, fp16, e5m2] → rd.r < 2 ^ rd.k →
      (b < 2 ^ f.width → (f.decode b).finite = true → f.round rd false (f.decode b) false = (b, 0))
      ∧ f.round rd false .nan false = (f.nanBits, 0)
      ∧ (v.finite = true → fcmp (f.decode (f.round ⟨.rdn, 0, 0⟩ false v false).1) v ≠ .gt
          ∧ fcmp (f.decode (f.round ⟨.rup, 0, 0⟩ false v false).1) v ≠ .lt)
      ∧ (b < 2 ^ f.width → (f.decode b).finite = true →
          fltUn .neg f rd ch (f.decode b) = ((b + 2 ^ (f.width - 1)) % 2 ^ f.width, 0)
          ∧ fltUn .abs f rd ch (f.decode b) = (b % 2 ^ (f.width - 1), 0))
      ∧ (a.finite = true → fcmp (f.decode (fltUn .floor f rd ch a).1) a ≠ .gt
          ∧ fcmp (f.decode (fltUn .ceil f rd ch a).1) a ≠ .lt)
      ∧ (a.finite = true → a.isZero = false → a.neg? = true → (fltUn .sqrt f rd ch a) = (f.nanBits, flNV)))

/-- R131, Table 6.3: a compare writes the condition's bit of each enabled element below VL into md and leaves every other bit;
a floating lt or le of a NaN is false with NV, and an eq of one is false. The mask operations write the bits below VL: `mbf`,
`mif` and `msof` those before, up to and at the first set bit. m0 reads all ones and discards writes (R93). R134, R135: a
reduction writes element 0 alone. R146 to R153: permutes, slides, compress, expand and reversal move the elements they
name. R61, R157: `vquant` of one block writes its codes and its entry. -/
def Obligations.CompareAndMaskBits : Prop :=
  (∀ (cc : BitVec 2) (vs1 : VReg5) (q : Src2) (md : MReg3) (v : VEnv) (c : Ctx) (t : IntTy), c.ety vs1 = some (.int t) →
    v.es = 0 → Memory.wf c.m[md.toNat].bits = true → ∀ i : Nat, (cmpEffect cc vs1 q md v c).mbit md i =
      if md ≠ 0 ∧ i < v.vl ∧ c.mbit v.m i = true then intCond cc (c.ival vs1 i) (q.int c v t i) else c.mbit md i)
  ∧ (∀ (ma mb md : MReg3) (v : VEnv) (c : Ctx) (i : Nat), v.es = 0 → md ≠ 0 → Memory.wf c.m[md.toNat].bits = true →
    (maskEffect .and ma mb md v c).mbit md i = (if i < v.vl then c.mbit ma i && c.mbit mb i else c.mbit md i)
    ∧ (maskEffect .or ma mb md v c).mbit md i = (if i < v.vl then c.mbit ma i || c.mbit mb i else c.mbit md i)
    ∧ (maskEffect .xor ma mb md v c).mbit md i = (if i < v.vl then c.mbit ma i != c.mbit mb i else c.mbit md i)
    ∧ (maskEffect .andn ma mb md v c).mbit md i = (if i < v.vl then c.mbit ma i && !c.mbit mb i else c.mbit md i)
    ∧ (maskEffect .not ma mb md v c).mbit md i = (if i < v.vl then !c.mbit ma i else c.mbit md i)
    ∧ (maskEffect .set ma mb md v c).mbit md i = (if i < v.vl then true else c.mbit md i)
    ∧ (maskEffect .clr ma mb md v c).mbit md i = (if i < v.vl then false else c.mbit md i))
  ∧ (∀ (ma md : MReg3) (v : VEnv) (c : Ctx) (i f : Nat), v.es = 0 → md ≠ 0 → Memory.wf c.m[md.toNat].bits = true →
    f ≤ v.vl → (f < v.vl → c.mbit ma f = true) → (∀ j : Nat, j < f → c.mbit ma j = false) →
    (maskEffect .bf ma 0 md v c).mbit md i = (if i < v.vl then decide (i < f) else c.mbit md i)
    ∧ (maskEffect .if_ ma 0 md v c).mbit md i = (if i < v.vl then decide (i ≤ f) else c.mbit md i)
    ∧ (maskEffect .sof ma 0 md v c).mbit md i = (if i < v.vl then decide (i = f) else c.mbit md i))
  ∧ (∀ (cc : BitVec 2) (vs1 : VReg5) (q : Src2) (md : MReg3) (v : VEnv) (c : Ctx) (f : FFmt), c.ety vs1 = some (.flt f) →
    v.es = 0 → Memory.wf c.m[md.toNat].bits = true →
    let r (i : Nat) := fltCond cc (c.fval vs1 i) (q.flt c v f i)
    (∀ i : Nat, (cmpEffect cc vs1 q md v c).mbit md i =
      if md ≠ 0 ∧ i < v.vl ∧ c.mbit v.m i = true then (r i).1 else c.mbit md i)
    ∧ (cmpEffect cc vs1 q md v c).u.vxflags.getLsbD 4 =
        (c.u.vxflags.getLsbD 4 || (c.enabled v.m 0 v.vl).any fun i => (r i).2.getLsbD 4))
  ∧ (∀ a b : FVal,
    (a.isNan = true ∨ b.isNan = true → fltCond 0 a b = (false, 0) ∧ fltCond 1 a b = (true, 0) ∧ fltCond 2 a b = (false, flNV)
      ∧ fltCond 3 a b = (false, flNV))
    ∧ (a.finite = true → b.finite = true →
      fltCond 0 a b = (decide (a.rat = b.rat), 0) ∧ fltCond 1 a b = (decide (a.rat ≠ b.rat), 0)
      ∧ fltCond 2 a b = (decide (a.rat < b.rat), 0) ∧ fltCond 3 a b = (decide (a.rat ≤ b.rat), 0)))
  ∧ (∀ (o : MaskOp) (ma mb : MReg3) (v : VEnv) (c : Ctx), maskEffect o ma mb 0 v c = c)
  ∧ (∀ (vs1 vd : VReg5) (v : VEnv) (c : Ctx), Memory.wf (c.vr vd).data = true → v.vl ≠ 0 →
    let is := c.enabled v.m 0 v.vl
    (∀ (o : RedOp) (t : IntTy), c.ety vd = some (.int t) → WritesElems c (redEffect o vs1 vd v c) vd t.w [0] fun _ =>
        intRed o t (is.map fun i => c.ival vs1 i))
    ∧ (∀ (o : RedOp) (f : FFmt), c.ety vd = some (.flt f) → WritesElems c (redEffect o vs1 vd v c) vd f.width [0] fun _ =>
        fltRed o f (is.map fun i => (i, c.fval vs1 i))))
  ∧ (∀ (t : IntTy) (xs : List Int),
    intRed .sum t xs = (t.bits xs.sum, if t.fits xs.sum then 0 else flIO)
    ∧ (xs ≠ [] → (∃ x ∈ xs, (∀ y ∈ xs, y ≤ x) ∧ intRed .max t xs = (t.bits x, 0))
        ∧ ∃ x ∈ xs, (∀ y ∈ xs, x ≤ y) ∧ intRed .min t xs = (t.bits x, 0))
    ∧ (intRed .max t []).1 = t.bits t.min ∧ (intRed .min t []).1 = t.bits t.max
    ∧ ∀ k : Nat, k < t.w → (intRed .and t xs).1.testBit k = (xs.all fun x => (t.bits x).testBit k)
        ∧ (intRed .or t xs).1.testBit k = (xs.any fun x => (t.bits x).testBit k)
        ∧ (intRed .xor t xs).1.testBit k = decide ((xs.filter fun x => (t.bits x).testBit k).length % 2 = 1))
  ∧ (∀ (f : FFmt) (xs : List FVal) (x : FVal), sumUp f (xs ++ [x]) = fplus f (sumUp f xs) (some x, 0)
    ∧ sumUp f [] = (none, 0) ∧ fltRed .sum f [] = (0, 0) ∧ fltRed .sumt f [] = (0, 0))
  ∧ (∀ (vs1 vs2 vd : VReg5) (v : VEnv) (c : Ctx), Memory.wf (c.vr vd).data = true → (c.ety vd).isSome = true →
    let w := c.width vd
    let is := c.enabled v.m 0 v.vl
    WritesElems c (gatherEffect vs2 vs1 vd v c) vd w is (fun i =>
        if c.raw vs2 i < capBits c (c.width vs1) then moveElem c vd vs1 (c.raw vs2 i) else (0, 0))
    ∧ (∀ s : Int, WritesElems c (slideDownEffect s vs1 vd v c) vd w is fun i =>
        if 0 ≤ (i : Int) + s ∧ (i : Int) + s < v.vl then moveElem c vd vs1 ((i : Int) + s).toNat else (0, 0))
    ∧ (∀ s : Nat, WritesElems c (slideUpEffect s vs1 vd v c) vd w (is.filter fun i => decide (s ≤ i)) fun i =>
        moveElem c vd vs1 (i - s))
    ∧ WritesElems c (revEffect vs1 vd v c) vd w is (fun i => moveElem c vd vs1 (v.vl - 1 - i))
    ∧ WritesElems c (tr8Effect vs1 vd v c) vd w is (fun i =>
        moveElem c vd vs1 (if tr8Partner i < v.vl then tr8Partner i else i))
    ∧ (v.vl ≠ 0 → WritesElems c (bcastEffect vs1 vd v c) vd w is fun _ => moveElem c vd vs1 0)
    ∧ WritesElems c (compressEffect vs1 vd v c) vd w (upFrom 0 is.length) (fun k => moveElem c vd vs1 (is.getD k 0))
    ∧ WritesElems c (expandEffect vs1 vd v c) vd w is (fun i =>
        if (c.enabled v.m 0 i).length < capBits c (c.width vs1) then moveElem c vd vs1 (c.enabled v.m 0 i).length else (0, 0))
    ∧ (∀ t : IntTy, c.ety vd = some (.int t) → WritesElems c (midxEffect vd v c) vd t.w (upFrom 0 is.length) fun k =>
        t.wrap (is.getD k 0))
    ∧ ∀ t : IntTy, c.ety vd = some (.int t) → v.es = 0 → WritesElems c (vidEffect vd v c) vd t.w is fun i => t.wrap i)
  ∧ (∀ (vs1 vd : VReg5) (v : VEnv) (c : Ctx), c.ety vd = some .hx4 → v.es = 0 → Memory.wf (c.vr vd).data = true →
    Memory.wf (c.q.toList.getD (tagQs (c.vr vd).tag) []) = true → 0 < v.vl → v.vl ≤ 2 ^ blkLog (c.vr vd).tag →
    let is := c.enabled v.m 0 v.vl
    let xs := is.map fun i => c.fval vs1 i
    let r := quantBlock (is.map fun i => rndOf v.mode v.vxctl c.sr i) xs
    let d := quantEffect vs1 vd v c
    d.qEntry (tagQs (c.vr vd).tag) 0 = r.1 % 2 ^ 16
    ∧ (∀ k : Nat, k < is.length → d.raw vd (is.getD k 0) = r.2.1.getD k 0 % 16)
    ∧ ((xs.any fun x => x.isNan || x.isInf) = false → (∀ i : Nat, i < v.vl → c.mbit v.m i = false → d.raw vd i = c.raw vd i)
        ∧ ∀ i : Nat, v.vl ≤ i → i < 2 ^ blkLog (c.vr vd).tag → d.raw vd i = 0)
    ∧ ((xs.any fun x => x.isNan || x.isInf) = true → r.1 = 0x00FF
        ∧ (∀ i : Nat, i < 2 ^ blkLog (c.vr vd).tag → d.raw vd i = 0))
    ∧ ((∀ x ∈ xs, x.isZero = true) → r.1 = 127 ∧ ∀ n ∈ r.2.1, n = 0))

/-! ## Configuration and SYNC -/

/-- R104, R121 to R124, R161: `vdecl` of a legal code with no slot allocated replaces the shape, vacates every vector register
and clears every mask and VL; `vsetl` grants the smaller of the request and the capacity, and no word decodes to one with w
above 4; `vtagrd` reads a tag, and traps VLOVER on an invalid register; `dshape`
writes the shape CSRs; `vtag` writes the tag of each named register; `dset`, `dflip` and `dscale` rewrite their header
fields; `vsrseed` seeds the generators (R75). -/
def Obligations.ShapeFormsComplete : Prop :=
  (∀ (rs1 : XReg) (s : State), Ready (.vdecl rs1) s → (s.x rs1).extractLsb' 0 2 ≠ 3 →
    s.ctx.slots.toList.any (fun k => k.alloc) = false → s.core.copies = [] →
    ∃ t, exec (.vdecl rs1) s = .next t ∧ t.ctx.nc = (s.x rs1).extractLsb' 0 2 ∧ t.ctx.gc = (s.x rs1).extractLsb' 2 2
      ∧ (∀ r : VReg5, t.ctx.vr r = VReg.vacant) ∧ t.ctx.m = Vector.replicate 8 MReg.clear ∧ t.ctx.u.vl = 0
      ∧ t.ctx.x = s.ctx.x ∧ SameElsewhere s t ∧ SameCore s t)
  ∧ (∀ (rs1 : XReg) (s : State), Ready (.vdecl rs1) s →
    ((s.x rs1).extractLsb' 0 2 = 3 ∨ s.ctx.slots.toList.any (fun k => k.alloc) = true) →
    exec (.vdecl rs1) s = .next (enterTrap s false cVlover (instrWord (.vdecl rs1))))
  ∧ (∀ (w : BitVec 5) (rs1 rd : XReg) (s : State), Ready (.vsetl w rs1 rd) s → w.toNat ≤ 4 →
    let vl : Word := BitVec.ofNat 64 (min (s.x rs1).toNat (capBits s.ctx (4 * 2 ^ w.toNat)))
    exec (.vsetl w rs1 rd) s = .next (retire ((s.mapCtx fun c =>
      { c with u := { c.u with vl := vl }, vlProv := none }).setX rd vl)))
  ∧ (∀ (w : BitVec 5) (rs1 rd : XReg) (u : BitVec 32), 4 < w.toNat → decode u ≠ some (.vsetl w rs1 rd))
  ∧ (∀ (c : Ctx) (w : Nat), capBits c w = min 65536 (mvlOf c * 8 / w))
  ∧ (∀ (vs : VReg5) (rd : XReg) (s : State), Ready (.vtagrd vs rd) s → s.ctx.vrOk vs = false →
    exec (.vtagrd vs rd) s = .next (enterTrap s false cVlover (instrWord (.vtagrd vs rd))))
  ∧ (∀ (vs : VReg5) (rd : XReg) (s : State), Ready (.vtagrd vs rd) s → s.ctx.vrOk vs = true →
    exec (.vtagrd vs rd) s = .next (retire (s.setX rd ((s.ctx.vr vs).tag.setWidth 64))))
  ∧ (∀ (rs2 rs1 : XReg) (s : State), Ready (.dshape rs2 rs1) s → exec (.dshape rs2 rs1) s = .next (retire (s.mapU fun u =>
      { u with cshapemk := s.x rs1, cshapen := ((s.x rs2).extractLsb' 0 32).setWidth 64 })))
  ∧ (∀ (rs1 : XReg) (vd : VReg5) (s : State), Ready (.vtag rs1 vd) s →
    let tag : Byte := (s.x rs1).extractLsb' 0 8
    let rs := vtagRegs s.ctx vd (s.x rs1)
    (∀ n ∈ rs, n < 32 ∧ s.ctx.vrOk (BitVec.ofNat 5 n) = true ∧ s.ctx.dstWaits (BitVec.ofNat 5 n) = false) →
    (etyOf tag).isSome = true ∨ tagType tag = 0 →
    ∃ t, exec (.vtag rs1 vd) s = .next t
      ∧ (∀ r : VReg5, t.ctx.vr r = if r.toNat ∈ rs then { s.ctx.vr r with tag := tag } else s.ctx.vr r)
      ∧ t.ctx.x = s.ctx.x ∧ SameElsewhere s t ∧ SameCore s t)
  ∧ (∀ (rs2 rs1 : XReg) (vd : VReg5) (s : State), Ready (.dset rs2 rs1 vd) s → s.ctx.vrOk vd = true →
    ∃ t, exec (.dset rs2 rs1 vd) s = .next t ∧ (t.ctx.vr vd).hdr = mkHdr (lo32 (s.x rs1)) (lo32 (s.x rs2)) (lo32 s.ctx.u.vl)
        (hdrTs (s.ctx.vr vd).hdr) (hdrRowp (s.ctx.vr vd).hdr) (hdrColp (s.ctx.vr vd).hdr) (hdrSc (s.ctx.vr vd).hdr)
      ∧ (∀ r : VReg5, r ≠ vd → t.ctx.vr r = s.ctx.vr r) ∧ t.ctx.x = s.ctx.x ∧ SameElsewhere s t ∧ SameCore s t)
  ∧ (∀ (vd : VReg5) (s : State) (h : BitVec 192), Ready (.dflip vd) s → s.ctx.vrOk vd = true →
    dflipHdr (s.ctx.vr vd).hdr = some h →
    ∃ t, exec (.dflip vd) s = .next t ∧ (t.ctx.vr vd).hdr = h ∧ (∀ r : VReg5, r ≠ vd → t.ctx.vr r = s.ctx.vr r)
      ∧ t.ctx.x = s.ctx.x ∧ SameElsewhere s t ∧ SameCore s t)
  ∧ (∀ (rs2 rs1 : XReg) (vd : VReg5) (s : State), Ready (.dscale rs2 rs1 vd) s → s.ctx.vrOk vd = true →
    ∃ t, exec (.dscale rs2 rs1 vd) s = .next t ∧ (t.ctx.vr vd).hdr = mkHdr (hdrOff (s.ctx.vr vd).hdr) (hdrAnc (s.ctx.vr vd).hdr)
        (hdrLen (s.ctx.vr vd).hdr) (lo32 (s.x rs1)) ((s.x rs2).extractLsb' 0 5) ((s.x rs2).extractLsb' 5 5) ((s.x rs2).getLsbD 15)
      ∧ (∀ r : VReg5, r ≠ vd → t.ctx.vr r = s.ctx.vr r) ∧ t.ctx.x = s.ctx.x ∧ SameElsewhere s t ∧ SameCore s t)
  ∧ (∀ (rs1 : XReg) (s : State), Ready (.vsrseed rs1) s →
    ∃ t, exec (.vsrseed rs1) s = .next t ∧ t.ctx.sr = ⟨s.x rs1, []⟩ ∧ t.ctx.v = s.ctx.v ∧ t.ctx.x = s.ctx.x
      ∧ SameElsewhere s t ∧ SameCore s t)

/-- R136 to R138, R261, R262: `vxget` of a readable element delivers its value to xd; `vxput` writes one element; the mask
reads answer a count, a first index or −1, and 64 bits; `qfence` and `efence` with nothing outstanding retire; SRQ_DELIVER
writes the value at the head into its xd. -/
def Obligations.SyncFormsComplete : Prop :=
  (∀ (e : Bool) (rs2 : XReg) (vs : VReg5) (rd : XReg) (s : State) (ty : ETy), Ready (.vxget e rs2 vs rd) s →
    s.ctx.vrOk vs = true → s.ctx.ety vs = some ty → (s.x rs2).toNat < capBits s.ctx ty.bits → (s.ctx.vr vs).st = .full →
    ∃ t, exec (.vxget e rs2 vs rd) s = .next t
      ∧ t.ctx.x = (s.setX rd (vxgetValue ty (s.ctx.raw vs (s.x rs2).toNat))).ctx.x ∧ t.ctx.srq = [] ∧ t.ctx.v = s.ctx.v
      ∧ SameElsewhere s t ∧ SameCore s t)
  ∧ (∀ (rs2 rs1 : XReg) (vd : VReg5) (s : State) (ty : ETy), Ready (.vxput rs2 rs1 vd) s → s.ctx.vrOk vd = true →
    s.ctx.ety vd = some ty → (s.x rs2).toNat < capBits s.ctx ty.bits → s.ctx.dstWaits vd = false →
    Memory.wf (s.ctx.vr vd).data = true →
    ∃ t, exec (.vxput rs2 rs1 vd) s = .next t ∧ t.ctx.raw vd (s.x rs2).toNat = (s.x rs1).toNat % 2 ^ ty.bits
      ∧ (∀ k : Nat, k ≠ (s.x rs2).toNat → t.ctx.raw vd k = s.ctx.raw vd k) ∧ (t.ctx.vr vd).st = .full
      ∧ (∀ r : VReg5, r ≠ vd → t.ctx.vr r = s.ctx.vr r) ∧ t.ctx.x = s.ctx.x ∧ SameElsewhere s t ∧ SameCore s t)
  ∧ (∀ (e : Bool) (k : MReg3) (rd : XReg) (s : State), s.ctx.maskPends k = false → s.ctx.vlProv = none →
    (Ready (.vmpop e k rd) s → exec (.vmpop e k rd) s =
      .next (retire (s.setX rd (BitVec.ofNat 64 (s.ctx.enabled k 0 s.ctx.u.vl.toNat).length))))
    ∧ (Ready (.vmfirst e k rd) s → exec (.vmfirst e k rd) s = .next (retire (s.setX rd
      (match (s.ctx.enabled k 0 s.ctx.u.vl.toNat).head? with
        | some i => BitVec.ofNat 64 i
        | none => -1)))))
  ∧ (∀ (e : Bool) (rs2 : XReg) (k : MReg3) (rd : XReg) (s : State), Ready (.vmrd e rs2 k rd) s → s.ctx.maskPends k = false →
    ((s.x rs2).toNat < 1024 →
      exec (.vmrd e rs2 k rd) s = .next (retire (s.setX rd (BitVec.ofNat 64 (maskWord s.ctx k (s.x rs2).toNat)))))
    ∧ (1024 ≤ (s.x rs2).toNat →
      exec (.vmrd e rs2 k rd) s = .next (enterTrap s false cVlover (instrWord (.vmrd e rs2 k rd)))))
  ∧ (∀ (sc : BitVec 5) (s : State), Ready (.qfence sc) s → sc.toNat < 4 → s.heldStores = [] →
    (sc = 3 → inFlight s = false) →
    exec (.qfence sc) s = .next (retire (s.mapCtx fun c => { c with dcache := [] })))
  ∧ (∀ (sc : BitVec 5) (s : State), Ready (.efence sc) s → sc.toNat < 4 → s.heldStores = [] → engineBusy s = false →
    (sc = 3 → inFlight s = false) →
    exec (.efence sc) s = .next (retire (s.mapCtx fun c => { c with dcache := [] })))
  ∧ (∀ (sc : BitVec 5) (s : State), 4 ≤ sc.toNat →
    (Ready (.qfence sc) s → exec (.qfence sc) s = .next (enterTrap s false cIllegal (instrWord (.qfence sc))))
    ∧ (Ready (.efence sc) s → exec (.efence sc) s = .next (enterTrap s false cIllegal (instrWord (.efence sc)))))
  ∧ (∀ (s : State) (xd : XReg) (n : Nat) (v : Word) (rest : List SrqEntry), s.ctx.esc = none →
    s.ctx.srq = ⟨xd, n, some v⟩ :: rest →
    exec .srqDeliver s = .next (s.mapCtx fun c => { (c.setX xd v) with srq := rest }))

/-! ## Vector memory -/

/-- R222, R226, R227: a `vld` or `vldff` whose checks pass and whose enabled elements lie aligned in the pocket loads each of
them and leaves the other elements and registers; an untrimmed `vldff` reports no fault and keeps VL. That the register is
FULL also where VL is 0 or nothing is enabled is log 21's choice, which the spec does not settle. -/
def Obligations.VectorLoadsComplete : Prop :=
  ∀ (i : Instr) (mode : MMode) (e : Bool) (m : MReg3) (vd : VReg5) (s : State), loadForm i = some (mode, e, m, vd) → Ready i s →
    s.ecc = [] → Memory.wf (s.ctx.vr vd).data = true →
    let en := viqEntry i [] s
    let w := s.ctx.width vd
    let vl := s.ctx.u.vl.toNat
    let adr (k : Nat) := (elemAddr mode w en s.ctx k).toNat
    needCheck s.ctx vl (ldNeed mode e m vd s.ctx) = .ok → ldSpace en = 2 →
    (∀ k ∈ s.ctx.enabled m 0 vl, adr k % elemBytes w = 0 ∧ adr k + elemBytes w ≤ s.ctx.pocb) →
    ∃ t, exec i s = .next t
      ∧ (∀ k ∈ s.ctx.enabled m 0 vl, rawAt (t.ctx.vr vd).data w k = rawOfBytes w k (getBytes s.ctx.pocket (adr k) (elemBytes w)))
      ∧ (∀ k : Nat, k ∉ s.ctx.enabled m 0 vl → rawAt (t.ctx.vr vd).data w k = rawAt (s.ctx.vr vd).data w k)
      ∧ (t.ctx.vr vd).st = .full ∧ (t.ctx.vr vd).tag = (s.ctx.vr vd).tag ∧ (∀ r : VReg5, r ≠ vd → t.ctx.vr r = s.ctx.vr r)
      ∧ t.ctx.u = (if isVldff i then { s.ctx.u with vffs := 0 } else s.ctx.u) ∧ t.ctx.pocket = s.ctx.pocket
      ∧ t.ctx.x = s.ctx.x ∧ SameElsewhere s t ∧ SameCore s t

/-- R221, R222, R226, R230: a `vst` or `vstc` whose checks pass and whose enabled elements lie aligned in the pocket stores
each of them at its address, in ascending order, and writes no other byte; two HX4 elements of a byte are stored as its
halves. -/
def Obligations.VectorStoresComplete : Prop :=
  ∀ (i : Instr) (mode : MMode) (e : Bool) (m : MReg3) (vs3 : VReg5) (s : State), storeForm i = some (mode, e, m, vs3) →
    Ready i s → s.Calm →
    let en := viqEntry i [] s
    let w := s.ctx.width vs3
    let vl := s.ctx.u.vl.toNat
    let adr (k : Nat) := (storeAddr i mode w en s.ctx m k).toNat
    needCheck s.ctx vl (stNeed mode e m vs3 s.ctx (readBound en m s.ctx)) = .ok → stSpace en = 2 →
    (∀ k ∈ s.ctx.enabled m 0 vl, adr k % elemBytes w = 0 ∧ adr k + elemBytes w ≤ s.ctx.pocb) →
    ∃ t, exec i s = .next t
      ∧ (w ≠ 4 → t.ctx.pocket = (s.ctx.enabled m 0 vl).foldl (fun p k => setBytes p (adr k) (natBytes (w / 8) (s.ctx.raw vs3 k)))
          s.ctx.pocket)
      ∧ (w = 4 → Memory.wf s.ctx.pocket = true → ∀ k ∈ s.ctx.enabled m 0 vl,
          (getNibble t.ctx.pocket (2 * adr k + k % 2)).toNat = s.ctx.raw vs3 k)
      ∧ (Memory.wf s.ctx.pocket = true → ∀ b : Nat, (∀ k ∈ s.ctx.enabled m 0 vl, b < adr k ∨ adr k + elemBytes w ≤ b) →
          getByte t.ctx.pocket b = getByte s.ctx.pocket b)
      ∧ t.ctx.v = s.ctx.v ∧ t.ctx.m = s.ctx.m ∧ t.ctx.x = s.ctx.x ∧ t.mem = s.mem ∧ t.parts = s.parts ∧ SameCore s t

/-- R229: `vlwin` loads the elements whose offsets fall in the window, clears their mask bits, and sets the bits of the
others. R231: `vqld` and `vqst` move the first VL entries of a scale register. R232: `vmld` and `vmst` move the first VL
bits of a mask in 8-byte words. R233, R234: `vstr` stores the 64-byte head and, unless the register is vacant, its span;
`vldr` of a head with no reserved bit, a legal tag and a fitting capacity writes tag, header, state and span. R235, R236:
`vkst` stores the records of a slot range; `vkld` of records that pass their checks replaces the headers. -/
def Obligations.WindowAndImageMoves : Prop :=
  ((∀ (e : Bool) (vs2 : VReg5) (rs1 : XReg) (m : MReg3) (vd : VReg5) (s : State), Ready (.vlwin e vs2 rs1 m vd) s → s.ecc = [] →
      let en := viqEntry (.vlwin e vs2 rs1 m vd) [] s
      let w := s.ctx.width vd
      let vl := s.ctx.u.vl.toNat
      let hit (k : Nat) : Bool := decide (0 ≤ s.ctx.ival vs2 k) && decide (s.ctx.ival vs2 k + elemBytes w ≤ mvlOf s.ctx)
      let adr (k : Nat) := (s.x rs1 + BitVec.ofInt 64 (s.ctx.ival vs2 k)).toNat
      Memory.wf (s.ctx.vr vd).data = true → Memory.wf s.ctx.m[m.toNat].bits = true →
      needCheck s.ctx vl (winNeed e vs2 m vd s.ctx) = .ok → ldSpace en = 2 →
      (∀ k : Nat, k < vl → hit k = true → adr k % elemBytes w = 0 ∧ adr k + elemBytes w ≤ s.ctx.pocb) →
      ∃ t, exec (.vlwin e vs2 rs1 m vd) s = .next t
        ∧ (∀ k : Nat, k < vl → hit k = true → rawAt (t.ctx.vr vd).data w k = leNat (getBytes s.ctx.pocket (adr k) (elemBytes w)))
        ∧ (m ≠ 0 → ∀ k : Nat, t.ctx.mbit m k = if k < vl then !hit k else s.ctx.mbit m k)
        ∧ (∀ r : VReg5, r ≠ vd → t.ctx.vr r = s.ctx.vr r) ∧ t.ctx.x = s.ctx.x ∧ SameElsewhere s t ∧ SameCore s t)
    ∧ (∀ (i : Instr) (n : BitVec 2) (st : Word) (s : State), qLoadForm i s.ctx = some (n, st) → Ready i s → s.ecc = [] →
      let en := viqEntry i [] s
      let vl := s.ctx.u.vl.toNat
      let adr (k : Nat) := (en.a + BitVec.ofNat 64 k * st).toNat
      vl ≤ 4096 → ldSpace en = 2 → (∀ k : Nat, k < vl → adr k % 2 = 0 ∧ adr k + 2 ≤ s.ctx.pocb) →
      Memory.wf s.ctx.q[n.toNat] = true →
      ∃ t, exec i s = .next t ∧ (∀ k : Nat, t.ctx.qEntry n.toNat k =
          if k < vl then getLe s.ctx.pocket (adr k) 2 else s.ctx.qEntry n.toNat k)
        ∧ (∀ j : Nat, j ≠ n.toNat → ∀ k : Nat, t.ctx.qEntry j k = s.ctx.qEntry j k)
        ∧ t.ctx.v = s.ctx.v ∧ t.ctx.x = s.ctx.x ∧ SameElsewhere s t ∧ SameCore s t)
    ∧ (∀ (i : Instr) (n : BitVec 2) (st : Word) (s : State), qStoreForm i s.ctx = some (n, st) → Ready i s → s.Calm →
      let en := viqEntry i [] s
      let vl := s.ctx.u.vl.toNat
      let adr (k : Nat) := (en.a + BitVec.ofNat 64 k * st).toNat
      vl ≤ 4096 → stSpace en = 2 → (∀ k : Nat, k < vl → adr k % 2 = 0 ∧ adr k + 2 ≤ s.ctx.pocb) →
      ∃ t, exec i s = .next t ∧ t.ctx.pocket = (upFrom 0 vl).foldl (fun p k =>
          setBytes p (adr k) (natBytes 2 (s.ctx.qEntry n.toNat k))) s.ctx.pocket
        ∧ t.ctx.v = s.ctx.v ∧ t.ctx.q = s.ctx.q ∧ t.ctx.x = s.ctx.x ∧ t.mem = s.mem ∧ SameCore s t)
    ∧ (∀ (rs1 : XReg) (k : MReg3) (s : State), Ready (.vmld rs1 k) s → s.ecc = [] →
      let vl := s.ctx.u.vl.toNat
      let a := (s.x rs1).toNat
      s.ctx.maskPends k = false → ldSpace (viqEntry (.vmld rs1 k) [] s) = 2 → a % 8 = 0 → a + 8 * ((vl + 63) / 64) ≤ s.ctx.pocb →
      s.ctx.pocb ≤ 2 ^ 63 → Memory.wf s.ctx.m[k.toNat].bits = true →
      ∃ t, exec (.vmld rs1 k) s = .next t ∧ (∀ n : Nat, t.ctx.mbit k n =
          if k ≠ 0 ∧ n < vl then (getByte s.ctx.pocket (a + n / 8)).getLsbD (n % 8) else s.ctx.mbit k n)
        ∧ (∀ j : MReg3, j ≠ k → ∀ n : Nat, t.ctx.mbit j n = s.ctx.mbit j n) ∧ t.ctx.v = s.ctx.v ∧ t.ctx.x = s.ctx.x
        ∧ SameElsewhere s t ∧ SameCore s t)
    ∧ (∀ (e : Bool) (rs1 : XReg) (k : MReg3) (s : State), Ready (.vmst e rs1 k) s → s.Calm →
      let vl := s.ctx.u.vl.toNat
      let a := (s.x rs1).toNat
      s.ctx.maskPends k = false → stSpace (viqEntry (.vmst e rs1 k) [] s) = 2 → a % 8 = 0 →
      a + 8 * ((vl + 63) / 64) ≤ s.ctx.pocb → s.ctx.pocb ≤ 2 ^ 63 →
      ∃ t, exec (.vmst e rs1 k) s = .next t ∧ t.ctx.pocket = (upFrom 0 ((vl + 63) / 64)).foldl (fun p j =>
          setBytes p (a + 8 * j) (natBytes 8 (maskWord s.ctx k j))) s.ctx.pocket
        ∧ t.ctx.v = s.ctx.v ∧ t.ctx.m = s.ctx.m ∧ t.ctx.x = s.ctx.x ∧ t.mem = s.mem ∧ SameCore s t))
  ∧ ((∀ (e : Bool) (rs1 : XReg) (vs3 : VReg5) (s : State), Ready (.vstr e rs1 vs3) s → s.Calm →
      let v := s.ctx.vr vs3
      let a := (s.x rs1).toNat
      let bytes := imageHead s.ctx v ++ (if v.st = .vacant then [] else getBytes v.data 0 (mvlOf s.ctx / 8 * 8))
      s.ctx.vrOk vs3 = true → v.st ≠ .pending → stSpace (viqEntry (.vstr e rs1 vs3) [] s) = 2 → a % 64 = 0 →
      a + bytes.length ≤ s.ctx.pocb → s.ctx.pocb ≤ 2 ^ 63 →
      ∃ t, exec (.vstr e rs1 vs3) s = .next t ∧ t.ctx.pocket = setBytes s.ctx.pocket a bytes ∧ t.ctx.v = s.ctx.v
        ∧ t.ctx.x = s.ctx.x ∧ t.mem = s.mem ∧ SameCore s t)
    ∧ (∀ (rs1 : XReg) (vd : VReg5) (s : State), Ready (.vldr rs1 vd) s → s.ecc = [] →
      let a := (s.x rs1).toNat
      let h := leNat (getBytes s.ctx.pocket a 64)
      let full := decide (h / 65536 % 4 = 1)
      s.ctx.vrOk vd = true → s.ctx.dstWaits vd = false → ldSpace (viqEntry (.vldr rs1 vd) [] s) = 2 → a % 64 = 0 →
      a + 64 + (if full then mvlOf s.ctx else 0) ≤ s.ctx.pocb → s.ctx.pocb ≤ 2 ^ 63 → headBad h = false →
      tagBad (BitVec.ofNat 8 h) = false → (full = true → h / 2 ^ 256 % 2 ^ 32 = mvlOf s.ctx) →
      ∃ t, exec (.vldr rs1 vd) s = .next t ∧ (t.ctx.vr vd).tag = BitVec.ofNat 8 h ∧ (t.ctx.vr vd).hdr = headHdr h
        ∧ (t.ctx.vr vd).st = (if full then .full else .vacant)
        ∧ (∀ b : Nat, b < mvlOf s.ctx / 8 * 8 → getByte (t.ctx.vr vd).data b = if full then getByte s.ctx.pocket (a + 64 + b) else 0)
        ∧ (∀ r : VReg5, r ≠ vd → t.ctx.vr r = s.ctx.vr r) ∧ t.ctx.x = s.ctx.x ∧ SameElsewhere s t ∧ SameCore s t)
    ∧ (∀ (rs2 rs1 : XReg) (s : State), Ready (.vkst rs2 rs1) s → s.Calm →
      let f := slotFirst (s.x rs2)
      let n := slotCount (s.x rs2)
      let a := (s.x rs1).toNat
      let bytes := ((upFrom f n).map fun k => slotRecord s.ctx (s.ctx.slot k)).flatten
      f + n ≤ 256 → stSpace (viqEntry (.vkst rs2 rs1) [] s) = 2 → a % 8 = 0 → a + bytes.length ≤ s.ctx.pocb → s.ctx.pocb ≤ 2 ^ 63 →
      ∃ t, exec (.vkst rs2 rs1) s = .next t ∧ t.ctx.pocket = setBytes s.ctx.pocket a bytes ∧ t.ctx.slots = s.ctx.slots
        ∧ t.ctx.pool = s.ctx.pool ∧ t.ctx.x = s.ctx.x ∧ t.mem = s.mem ∧ SameCore s t)
    ∧ (∀ (rs2 rs1 : XReg) (s : State) (rs : List (Slot × List Byte)), Ready (.vkld rs2 rs1) s → s.ecc = [] →
      let f := slotFirst (s.x rs2)
      let n := slotCount (s.x rs2)
      let en := viqEntry (.vkld rs2 rs1) [] s
      f + n ≤ 256 → ldSpace en = 2 → (s.x rs1).toNat % 8 = 0 →
      ((readSlots en 0 n).run (viqPush (.vkld rs2 rs1) [] s)).1 = .ok rs →
      ∃ t, exec (.vkld rs2 rs1) s = .next t ∧ t.ctx.slots = (s.ctx.setSlots f (rs.map Prod.fst)).slots
        ∧ t.ctx.v = s.ctx.v ∧ t.ctx.x = s.ctx.x ∧ SameElsewhere s t ∧ SameCore s t))

/-- R251: a scatter atomic combines each enabled element, in ascending index, with the Commons word its offset names, and
writes no other byte. -/
def Obligations.ScatterAtomicsComplete : Prop :=
  ∀ (i : Instr) (op : Nat) (e : Bool) (vs2 : VReg5) (m : MReg3) (vs3 : VReg5) (s : State) (ty : ETy),
    scatterForm i = some (op, e, vs2, m, vs3) → Ready i s → s.Calm → s.MemWf → s.ctx.ety vs3 = some ty → scatterTag ty = true →
    let en := viqEntry i [] s
    let vl := s.ctx.u.vl.toNat
    let n := ty.bits / 8
    let adr (k : Nat) := (elemAddr (.indexed vs2) ty.bits en s.ctx k).toNat
    let word (k : Nat) := Config.commonsBase + adr k
    needCheck s.ctx vl { stNeed (.indexed vs2) e m vs3 s.ctx (readBound en m s.ctx) with
      tagOk := (s.ctx.ety vs3).any scatterTag && indexOk s.ctx (.indexed vs2) } = .ok →
    (∀ k ∈ s.ctx.enabled m 0 vl, adr k % n = 0 ∧ commonsOk s s.pidx (dataPriv s) (adr k) n = true
      ∧ inCounterBlock s (word k) = false ∧ SoftRun s (word k) n) →
    ∃ t, exec i s = .next t
      ∧ t.mem = (s.ctx.enabled m 0 vl).foldl (fun q k =>
          setBytes q (word k) (natBytes n (scatterNew op ty (getLe q (word k) n) (s.ctx.raw vs3 k)))) s.mem
      ∧ (∀ b : Nat, (∀ k ∈ s.ctx.enabled m 0 vl, b < word k ∨ word k + n ≤ b) → getByte t.mem b = getByte s.mem b)
      ∧ t.ctx.pc = (retire s).ctx.pc ∧ t.ctx.v = s.ctx.v ∧ t.ctx.m = s.ctx.m ∧ t.ctx.u = s.ctx.u ∧ t.ctx.x = s.ctx.x
      ∧ t.ctx.pocket = s.ctx.pocket ∧ SameCore s t

/-! ## The Cable -/

/-- R160, R163, R164: `kalloc` of free slots that fit the pool allocates their headers and zeroes their words; `kfree` clears
A; `kzero` zeroes the words of allocated slots and their bindings; both fault OFFSET past slot 255. R178: `atabld` loads a table of 2,048 bytes. R179: `kfence`
with no entry before it retires. -/
def Obligations.SlotFormsComplete : Prop :=
  (∀ (rs2 rs1 : XReg) (s : State), Ready (.kalloc rs2 rs1) s →
    let en := viqEntry (.kalloc rs2 rs1) [] s
    let f := slotFirst (s.x rs1)
    let n := slotCount (s.x rs1)
    f + n ≤ 256 → (∀ k : Nat, f ≤ k → k < f + n → (s.ctx.slot k).alloc = false) →
    (lo32 (s.x rs2)).toInt + n - 1 ≤ 2 ^ 31 - 1 → (allocOf en).2 ≤ s.ctx.accw →
    ∃ t, exec (.kalloc rs2 rs1) s = .next t ∧ t.ctx.slots = (s.ctx.setSlots f (allocOf en).1).slots
      ∧ (s.ctx.cableSusp = false → ∀ x ∈ (allocOf en).1, ∀ w : Nat, x.base.toNat ≤ w → w < x.base.toNat + x.len.toNat →
          t.ctx.poolWord w = 0)
      ∧ t.ctx.x = s.ctx.x ∧ SameElsewhere s t ∧ SameCore s t)
  ∧ (∀ (rs1 : XReg) (s : State), Ready (.kfree rs1) s → slotFirst (s.x rs1) + slotCount (s.x rs1) ≤ 256 →
    ∃ t, exec (.kfree rs1) s = .next t
      ∧ (∀ k : Nat, k < 256 → t.ctx.slot k = if slotFirst (s.x rs1) ≤ k ∧ k < slotFirst (s.x rs1) + slotCount (s.x rs1) then
          { s.ctx.slot k with alloc := false } else s.ctx.slot k)
      ∧ t.ctx.pool = s.ctx.pool ∧ t.ctx.x = s.ctx.x ∧ SameElsewhere s t ∧ SameCore s t)
  ∧ (∀ (i : Instr) (rs1 : XReg) (s : State), (i = .kfree rs1 ∨ i = .kzero rs1) → Ready i s →
    256 < slotFirst (s.x rs1) + slotCount (s.x rs1) →
    ∃ t, exec i s = .next t ∧ t.ctx.vfault = some ⟨cOffset, instrWord i, 0, 0⟩ ∧ t.ctx.slots = s.ctx.slots ∧ t.ctx.pool = s.ctx.pool)
  ∧ (∀ (rs1 : XReg) (s : State), Ready (.kzero rs1) s → slotFirst (s.x rs1) + slotCount (s.x rs1) ≤ 256 →
    ∃ t, exec (.kzero rs1) s = .next t
      ∧ (∀ k : Nat, k < 256 → t.ctx.slot k = if slotFirst (s.x rs1) ≤ k ∧ k < slotFirst (s.x rs1) + slotCount (s.x rs1)
            ∧ (s.ctx.slot k).alloc = true then { s.ctx.slot k with bnd := false, uns := false, ar := 0, br := 0 } else s.ctx.slot k)
      ∧ (s.ctx.cableSusp = false → ∀ k : Nat, slotFirst (s.x rs1) ≤ k → k < slotFirst (s.x rs1) + slotCount (s.x rs1) →
          (s.ctx.slot k).alloc = true → ∀ w : Nat, (s.ctx.slot k).base.toNat ≤ w →
          w < (s.ctx.slot k).base.toNat + (s.ctx.slot k).len.toNat → t.ctx.poolWord w = 0)
      ∧ t.ctx.x = s.ctx.x ∧ SameElsewhere s t ∧ SameCore s t)
  ∧ (∀ (rs2 rs1 : XReg) (s : State), Ready (.atabld rs2 rs1) s → s.ecc = [] → s.heldStores = [] →
    PlainAccess s (s.x rs1) 8 → physOk (s.x rs1).toNat 2048 = true → s.ctx.cableSusp = false →
    ∃ t, exec (.atabld rs2 rs1) s = .next t ∧ t.ctx.atab = setBytes s.ctx.atab (if (s.x rs2).getLsbD 0 then 2048 else 0)
        (getBytes s.mem (s.x rs1).toNat 2048)
      ∧ t.ctx.x = s.ctx.x ∧ SameElsewhere s t ∧ SameCore s t)
  ∧ (∀ s : State, Ready .kfence s → ∃ t, exec .kfence s = .next t ∧ t.ctx.pc = (retire s).ctx.pc ∧ t.ctx.x = s.ctx.x
      ∧ SameElsewhere s t ∧ SameCore s t ∧ SameVector s t)

/-- R165 to R177: a multiplying instruction, `kin`, `kadd` or a drain whose checks of R166 pass is issued: its headers change
and it joins the Cable queue; unless the Pattern sequencer is suspended, its primitives are performed and it leaves the queue
at once. No vector register but a drain's vd changes, no byte of memory, and no scalar register. -/
def Obligations.CableFormsComplete : Prop :=
  ∀ (i : Instr) (chk : Ctx → Chk) (go : Ctx → Ctx) (s : State), cableForm i (viqEntry i [] s) = some (chk, go) →
    Ready i s → chk (viqPush i [] s).ctx = .ok →
    let en := viqEntry i [] s
    let u := (viqPush i [] s).mapCtx go
    let t := retire (viqLeave en u |>.mapCtx fun c => if c.cableSusp then c else c.cableFinish)
    exec i s = .next t ∧ (∀ r : VReg5, r ∉ drainDests i → (t.ctx.vr r).data = (s.ctx.vr r).data ∧ (t.ctx.vr r).tag = (s.ctx.vr r).tag
        ∧ (t.ctx.vr r).hdr = (s.ctx.vr r).hdr)
      ∧ t.ctx.m = s.ctx.m ∧ t.ctx.q = s.ctx.q ∧ t.ctx.pocket = s.ctx.pocket ∧ t.ctx.x = s.ctx.x ∧ t.ctx.pc = (retire s).ctx.pc
      ∧ SameElsewhere s t ∧ SameCore s t

/-- R165, R167: STASH_COPY_DONE ends the first outstanding copy of a register that finds room, and CABLE_ENTRY_COMPLETE
performs the head entry, which leaves the queue, unless the sequencer is suspended. R169, R171: what one row of a primitive
does: with zero skipping and a zero element of x nothing; otherwise its one pool word takes the sum (or difference) of its
old value and the product, wrapped to INT32 in an integer slot, and rounded once in FP32 after an exact product in a float
slot. -/
def Obligations.CableEngineSteps : Prop :=
  ((∀ (v : VReg5) (s : State), exec (.stashCopyDone v) s = .next (s.mapCtx fun c => c.copyDone v))
    ∧ (∀ s : State, s.ctx.cableSusp = false → exec .cableEntryComplete s = .next (s.mapCtx Ctx.cableFinish)))
  ∧ (∀ (f : Feed) (p : Prim) (c : Ctx) (i : Int), Memory.wf c.pool = true →
      let ea := (p.aAt + (i - p.aRow)).toNat
      let eb := (p.bAt + (i + p.sh - p.bRow)).toNat
      let w := p.slot.word i
      let d := p.row f c i
      (f.z = true → f.a.zero ea = true → d = c)
      ∧ ((f.z && f.a.zero ea) = false → p.slot.intCls = true →
          (accInt.val (d.poolWord w) - (accInt.val (c.poolWord w)
            + (if f.neg then -(f.a.int ea * f.b.int eb) else f.a.int ea * f.b.int eb))) % 2 ^ 32 = 0)
      ∧ ((f.z && f.a.zero ea) = false → p.slot.intCls = false → f.ga = none → f.rb = none →
          d.poolWord w = (fp32.rne (fadd .rne (fp32.decode (c.poolWord w)) (if f.neg then
            ((fmul (f.a.flt ea) (f.b.flt eb)).1.scale 0).negate else (fmul (f.a.flt ea) (f.b.flt eb)).1.scale 0)).1).1 % 2 ^ 32)
      ∧ (∀ n : Nat, n ≠ w → d.poolWord n = c.poolWord n) ∧ d.v = c.v ∧ d.slots = c.slots)

/-! ## The copy engine -/

/-- R276 to R279: a direct copy from the pocket to the pocket whose purse and addresses pass the checks copies VL elements,
writes no other pocket byte, and its purse's Teller withdraws the bytes copied. -/
def Obligations.DirectCopiesComplete : Prop :=
  ∀ (i : Instr) (w : BitVec 2) (src dst : Word) (sst dst_ : Int) (p : BitVec 5) (s : State) (a : Nat),
    copyForm i s = some (w, src, dst, sst, dst_, p) → Ready i s → s.Calm → s.MemWf → s.core.copies = [] → s.flights = [] → s.ctx.vlProv = none →
    let n := s.ctx.u.vl.toNat
    let b := copyBytes w
    let from_ (k : Nat) := (src + BitVec.ofInt 64 (k * sst)).toNat
    let to_ (k : Nat) := (dst + BitVec.ofInt 64 (k * dst_)).toNat
    purseAt s (dataPriv s) s.ctx.u.pbase p.toNat = some a → ldCode s.ctx.u = 2 → stCode s.ctx.u = 2 →
    (∀ k : Nat, k < n → from_ k % b = 0 ∧ from_ k + b ≤ s.ctx.pocb ∧ to_ k % b = 0 ∧ to_ k + b ≤ s.ctx.pocb) →
    let pw : Word := BitVec.ofNat 64 (getLe s.mem a 8)
    pw.getLsbD 34 = false →
    ∃ t, exec i s = .next t ∧ t.core.copies = [] ∧ t.mem = setLe s.mem a 8 (arrived pw (n * b) false).toNat
      ∧ ((∀ k j : Nat, k < n → j < n → to_ j + b ≤ from_ k ∨ from_ k + b ≤ to_ j) →
          t.ctx.pocket = (upFrom 0 n).foldl (fun q k => setBytes q (to_ k) (getBytes s.ctx.pocket (from_ k) b)) s.ctx.pocket)
      ∧ (Memory.wf s.ctx.pocket = true → ∀ x : Nat, (∀ k : Nat, k < n → x < to_ k ∨ to_ k + b ≤ x) →
          getByte t.ctx.pocket x = getByte s.ctx.pocket x)
      ∧ t.ctx.pc = (retire s).ctx.pc ∧ t.ctx.v = s.ctx.v ∧ t.ctx.x = s.ctx.x ∧ t.core.csr = s.core.csr ∧ t.core.priv = s.core.priv

/-- R280, R281: `cpyv` fills the register with VL elements, from the pocket or from untranslated memory; `cpyvs` stores VL
elements of the register to the pocket or to untranslated memory, and its purse's Teller withdraws the bytes. R282 to R285: a
`ctile` whose descriptor and request stand in plain memory and pass every check copies its in-range elements from the pocket
into a register or the pocket, writes 0 for the others, sets the mask bits of the elements in range and clears the others',
trims VL where the tile runs past dimension 0, and withdraws its bytes. That a `cpyv` of VL 0 leaves its register FULL is log
21's choice, which the spec does not settle. -/
def Obligations.RegisterCopiesComplete : Prop :=
  ((∀ (w : BitVec 2) (rs2 rs1 : XReg) (vd : VReg5) (s : State), Ready (.cpyv w rs2 rs1 vd) s → s.Calm → s.core.copies = [] →
      s.flights = [] →
      let en := viqEntry (.cpyv w rs2 rs1 vd) [] s
      let n := s.ctx.u.vl.toNat
      let b := copyBytes w
      let st : Int := if s.x rs2 = 0 then b else (s.x rs2).toInt
      let from_ (k : Nat) := s.x rs1 + BitVec.ofInt 64 (k * st)
      copyRegBad s.ctx vd b n = none → s.ctx.dstWaits vd = false → Memory.wf (s.ctx.vr vd).data = true →
      (ldSpace en = 2 ∧ ∀ k : Nat, k < n → (from_ k).toNat % b = 0 ∧ (from_ k).toNat + b ≤ s.ctx.pocb)
        ∨ (ldSpace en = 0 ∧ ∀ k : Nat, k < n → PlainAccess s (from_ k) b) →
      let src := if ldSpace en = 2 then s.ctx.pocket else s.mem
      ∃ t, exec (.cpyv w rs2 rs1 vd) s = .next t ∧ t.core.copies = [] ∧ (t.ctx.vr vd).st = .full
        ∧ (∀ k : Nat, k < n → rawAt (t.ctx.vr vd).data (8 * b) k = leNat (getBytes src (from_ k).toNat b))
        ∧ (∀ k : Nat, n ≤ k → rawAt (t.ctx.vr vd).data (8 * b) k = rawAt (s.ctx.vr vd).data (8 * b) k)
        ∧ (∀ r : VReg5, r ≠ vd → t.ctx.vr r = s.ctx.vr r) ∧ t.ctx.pc = (retire s).ctx.pc ∧ t.ctx.pocket = s.ctx.pocket
        ∧ t.ctx.x = s.ctx.x ∧ t.mem = s.mem)
    ∧ (∀ (w : BitVec 2) (rs2 rs1 : XReg) (vs : VReg5) (s : State) (a : Nat), Ready (.cpyvs w rs2 rs1 vs) s → s.Calm → s.MemWf →
      s.core.copies = [] → s.flights = [] →
      let en := viqEntry (.cpyvs w rs2 rs1 vs) [] s
      let n := s.ctx.u.vl.toNat
      let b := copyBytes w
      let to_ (k : Nat) := s.x rs1 + BitVec.ofInt 64 (k * b)
      copyRegBad s.ctx vs b n = none → (s.ctx.vr vs).st = .full →
      purseAt s (dataPriv s) s.ctx.u.pbase ((s.x rs2).extractLsb' 0 5).toNat = some a →
      let pw : Word := BitVec.ofNat 64 (getLe s.mem a 8)
      let moved (m : Bytes) := (upFrom 0 n).foldl (fun q k => setBytes q (to_ k).toNat (natBytes b (s.ctx.raw vs k))) m
      pw.getLsbD 34 = false →
      (stSpace en = 2 ∧ ∀ k : Nat, k < n → (to_ k).toNat % b = 0 ∧ (to_ k).toNat + b ≤ s.ctx.pocb)
        ∨ (stSpace en = 0 ∧ ∀ k : Nat, k < n → PlainAccess s (to_ k) b) →
      ∃ t, exec (.cpyvs w rs2 rs1 vs) s = .next t ∧ t.core.copies = []
        ∧ t.mem = setLe (if stSpace en = 2 then s.mem else moved s.mem) a 8 (arrived pw (n * b) false).toNat
        ∧ t.ctx.pocket = (if stSpace en = 2 then moved s.ctx.pocket else s.ctx.pocket)
        ∧ t.ctx.pc = (retire s).ctx.pc ∧ t.ctx.v = s.ctx.v ∧ t.ctx.x = s.ctx.x))
  ∧ (∀ (w : BitVec 2) (rs2 rs1 : XReg) (p : BitVec 5) (s : State) (a : Nat), Ready (.ctile w rs2 rs1 p) s → s.Calm → s.MemWf →
      s.core.copies = [] → s.flights = [] → s.ctx.vlProv = none → s.ctx.dcache = [] →
      PlainAccess s (s.x rs1) 64 → PlainAccess s (s.x rs2) 32 →
      let bs := getBytes s.mem (s.x rs1).toNat 64 ++ getBytes s.mem (s.x rs2).toNat 32
      let x := tileOfRec bs
      let b := copyBytes w
      let vl := s.ctx.u.vl.toNat
      let m := min x.e0 vl
      let trim := decide (0 ≤ x.c0) && decide ((x.dim0 : Int) < x.c0 + m)
      let n0 := if trim then (x.dim0 - x.c0).toNat else m
      let n := n0 * x.e1 * x.e2
      let vd : VReg5 := BitVec.ofNat 5 x.dest
      let value (e : Nat × Bool × Word) : List Byte := if e.2.1 then getBytes s.ctx.pocket e.2.2.toNat b else List.replicate b 0
      descBad bs b = false → reqBad bs b = false → ((etyOf x.tag).map ETy.bits).getD 0 = 8 * b → (1 ≤ m → x.c0 < x.dim0) →
      n ≤ 2 ^ 24 → tileRegBad s.ctx b n x = none → tileWaits s.ctx x = false → ldCode s.ctx.u = 2 →
      purseAt s (dataPriv s) s.ctx.u.pbase p.toNat = some a → (x.dk = false → x.dest + n * b ≤ s.ctx.pocb) →
      (∀ e ∈ tileElems x n0 b, e.2.1 = true → e.2.2.toNat % b = 0 ∧ e.2.2.toNat + b ≤ s.ctx.pocb) →
      let pw : Word := BitVec.ofNat 64 (getLe s.mem a 8)
      pw.getLsbD 34 = false →
      ∃ t, exec (.ctile w rs2 rs1 p) s = .next t ∧ t.core.copies = []
        ∧ t.mem = setLe s.mem a 8 (arrived pw (n * b) false).toNat
        ∧ t.ctx.u.vl = (if trim then BitVec.ofNat 64 n0 else s.ctx.u.vl)
        ∧ t.ctx.u.vffs = (if trim then BitVec.ofNat 64 (2 * n0 + 1) else 0)
        ∧ (x.dk = true → (t.ctx.vr vd).st = .full ∧ t.ctx.pocket = s.ctx.pocket ∧ (Memory.wf (s.ctx.vr vd).data = true →
            (∀ e ∈ tileElems x n0 b, rawAt (t.ctx.vr vd).data (8 * b) e.1 = leNat (value e))
            ∧ ∀ k : Nat, n ≤ k → rawAt (t.ctx.vr vd).data (8 * b) k = rawAt (s.ctx.vr vd).data (8 * b) k))
        ∧ (x.dk = false → t.ctx.v = s.ctx.v ∧ (Memory.wf s.ctx.pocket = true →
            (∀ k : Nat, (k < x.dest ∨ x.dest + n * b ≤ k) → getByte t.ctx.pocket k = getByte s.ctx.pocket k)
            ∧ ((∀ e ∈ tileElems x n0 b, e.2.1 = true → e.2.2.toNat + b ≤ x.dest ∨ x.dest + n * b ≤ e.2.2.toNat) →
                ∀ e ∈ tileElems x n0 b, getBytes t.ctx.pocket (x.dest + e.1 * b) b = value e)))
        ∧ (x.msk ≠ 0 → t.ctx.maskPends x.msk = false ∧ (Memory.wf s.ctx.m[x.msk.toNat].bits = true →
            ∀ e ∈ tileElems x n0 b, t.ctx.mbit x.msk e.1 = e.2.1))
        ∧ (∀ k : MReg3, k ≠ x.msk → t.ctx.m[k.toNat] = s.ctx.m[k.toNat])
        ∧ t.ctx.pc = (retire s).ctx.pc ∧ t.ctx.x = s.ctx.x)

/-- R286: a `cring` into an open ring with a free slot and no older reservation outstanding reserves the slot, fills it with
VL elements from the pocket and publishes it. -/
def Obligations.RingCopyCompletes : Prop :=
  ∀ (w : BitVec 2) (rs2 rs1 : XReg) (p : BitVec 5) (s : State) (h a : Nat), Ready (.cring w rs2 rs1 p) s → s.Calm → s.MemWf →
    s.core.copies = [] → s.flights = [] → s.ctx.vlProv = none → commonsWord s s.pidx (dataPriv s) (s.x rs1) 32 32 = some h →
    inCounterBlock s h = false →
    let r := ringAt s h
    let n := s.ctx.u.vl.toNat
    let b := copyBytes w
    let from_ (k : Nat) := (s.x rs2 + BitVec.ofInt 64 (k * (b : Int))).toNat
    let place (q : Nat) := Config.commonsBase + (q - Config.windowBase)
    ringValid s s.pidx (dataPriv s) r = true → r.closed = false → 0 < r.free → r.rsv = 0 → r.pub = r.put → n * b ≤ 64 * r.sb →
    purseAt s (dataPriv s) s.ctx.u.pbase p.toNat = some a → ldCode s.ctx.u = 2 →
    (∀ k : Nat, k < n → from_ k % b = 0 ∧ from_ k + b ≤ s.ctx.pocb) →
    (h + 32 ≤ place r.base ∨ place r.base + 64 * r.sb * r.count ≤ h) →
    (a + 8 ≤ h ∨ h + 32 ≤ a) → (a + 8 ≤ place r.base ∨ place r.base + 64 * r.sb * r.count ≤ a) →
    PlainCommons s h 32 → PlainCommons s a 8 → PlainCommons s (place r.base) (64 * r.sb * r.count) →
    ∃ t, exec (.cring w rs2 rs1 p) s = .next t ∧ t.core.copies = []
      ∧ ringAt t h = { r with put := r.next r.put, pub := r.next r.pub, free := r.free - 1, filled := r.filled + 1 }
      ∧ (∀ k : Nat, k < n → getBytes t.mem (place (r.base + 64 * r.sb * r.put + k * b)) b = getBytes s.ctx.pocket (from_ k) b)
      ∧ t.ctx.x = s.ctx.x ∧ t.ctx.pocket = s.ctx.pocket

/-- R277, R280, R286, R324: the steps of the copy engine. A copy that waits for nothing completes and leaves its queue; an
element of a `cpyv` lands in its register; a `cring` in the engine reserves a slot of an open ring; and a pending overdraft
is taken at a U-mode boundary. -/
def Obligations.CopyEngineSteps : Prop :=
  (∀ (pos : Nat) (s : State) (o : CopyOp), s.Calm → s.ctx.esc = none → s.core.copies[pos]? = some o → o.form = .plain →
    copyWaits s o = false → s.flights = [] → (∀ e ∈ o.elems, ∀ chip va, e.dst ≠ .mem (.peer chip va)) →
    ∃ t, exec (.copyComplete pos) s = .next t ∧ t.core.copies = s.core.copies.eraseIdx pos)
  ∧ (∀ (pos k : Nat) (s : State) (o : CopyOp) (v : VReg5) (vl : Nat) (e : CopyElem) (bs : List Byte),
    s.core.copies[pos]? = some o → o.form = .toReg v vl → k < vl → k ∉ o.landed → o.elems[k]? = some e → o.reads s e = (false, bs) →
    o.turn k = true → s.heldStores = [] → o.width ∈ [1, 2, 4, 8] → bs.length = o.width → Memory.wf (s.ctx.vr v).data = true →
    ∃ t, exec (.cpyvElementLand pos k) s = .next t ∧ rawAt (t.ctx.vr v).data (8 * o.width) k = leNat bs
      ∧ (∀ j : Nat, j ≠ k → rawAt (t.ctx.vr v).data (8 * o.width) j = rawAt (s.ctx.vr v).data (8 * o.width) j))
  ∧ (∀ (pos : Nat) (s : State) (o : CopyOp) (hdr slot : Word) (r : Ring), s.core.copies[pos]? = some o →
    o.form = .ring hdr none → copyCancelled s o = false → ringUsable s o hdr = true →
    (ringAt s (ringPhys hdr)).reserve = .done r slot →
    exec (.cringReserve pos) s = .next (ringPut (setCopy s pos { o with form := .ring hdr (some slot) }) o hdr r))
  ∧ (∀ (s : State) (va : Word), s.core.priv = .user → s.ctx.esc = none → s.ctx.overdraft = some va →
    s.ctx.rbEntry = none → s.ctx.vfault = none → s.ctx.cpyPoison = none →
    exec .overdraft s = .next (enterTrap (s.mapCtx fun c => { c with overdraft := none }) false cOverdraft va))

/-! ## The Commons -/

/-- R241, R244 to R246: a Teller atomic answers the old word and writes the combined one, and no other byte; the new word is
Table 11.2's. A misaligned word traps cause 6, one outside the partition's Commons TELLER. R244, Table 11.2: the integer
Teller operations as numbers, and compare-and-swap. -/
def Obligations.TellerAtomicsComplete : Prop :=
  ((∀ (i : Instr) (op : Nat) (w : BitVec 2) (rs2 rs1 rd : XReg) (s : State) (a : Nat), tellerForm i = some (op, w, rs2, rs1, rd) →
      Ready i s → s.Still → s.MemWf →
      let n := atomicBytes w
      commonsWord s s.pidx (dataPriv s) (s.x rs1) n n = some a → inCounterBlock s a = false → SoftRun s a n →
      let old := getLe s.mem a n
      ∃ t, exec i s = .next t
        ∧ t.mem = setBytes s.mem a (natBytes n (tellerNew op w old ((s.x rs2).toNat % 2 ^ (8 * n)) ((s.x rd).toNat % 2 ^ (8 * n))))
        ∧ (∀ b : Nat, b < a ∨ a + n ≤ b → getByte t.mem b = getByte s.mem b)
        ∧ t.ctx.x = (s.setX rd (atomicResult w old)).ctx.x ∧ t.ctx.u = s.ctx.u ∧ SameCore s t ∧ SameVector s t)
    ∧ (∀ (i : Instr) (op : Nat) (w : BitVec 2) (rs2 rs1 rd : XReg) (s : State), tellerForm i = some (op, w, rs2, rs1, rd) →
      Ready i s → s.Still →
      ((s.x rs1).toNat % atomicBytes w ≠ 0 → exec i s = .next (enterTrap s false cMisStore (s.x rs1)))
      ∧ ((s.x rs1).toNat % atomicBytes w = 0 → commonsWord s s.pidx (dataPriv s) (s.x rs1) (atomicBytes w) (atomicBytes w) = none →
          exec i s = .next (enterTrap s false cTeller (s.x rs1)))))
  ∧ (∀ (w : BitVec 2) (old b e : Nat),
      (w = 0 → tellerNew 0 w old b e = (old + b) % 2 ^ 32) ∧ (w = 1 → tellerNew 0 w old b e = (old + b) % 2 ^ 64)
      ∧ (w = 0 → tellerNew 1 w old b e = if (⟨32, true⟩ : IntTy).val old ≤ (⟨32, true⟩ : IntTy).val b then old else b)
      ∧ (w = 1 → tellerNew 2 w old b e = if (⟨64, true⟩ : IntTy).val old ≤ (⟨64, true⟩ : IntTy).val b then b else old)
      ∧ tellerNew 3 w old b e = old &&& b ∧ tellerNew 4 w old b e = old ||| b ∧ tellerNew 5 w old b e = b
      ∧ (old = e → tellerNew 6 w old b e = b) ∧ (old ≠ e → tellerNew 6 w old b e = old))

/-- R323 to R327: `pset` adds its amount to BAL, at most 2^31 − 1, sets TRP to TEN, and clears OVD and ERR where CLR is set;
`ptest` answers the purse at once; `pwait` answers it when BAL is at or below 0 and otherwise waits with nothing done: its
strand is BLOCKED (R37), and the wait of a handler or of a core with no strand stands with the core (log 124). An
arrival lowers BAL, not below −2^31, and sets ERR on an error and OVD where the result is below 0. The last three clauses
say which bits of a purse word and of xd these are. -/
def Obligations.PurseFormsComplete : Prop :=
  (∀ (rs2 rs1 : XReg) (s : State) (a : Nat), Ready (.pset rs2 rs1) s → s.Still → s.MemWf →
    commonsWord s s.pidx (dataPriv s) (s.x rs1) 8 8 = some a → inCounterBlock s a = false → SoftRun s a 8 →
    let d := s.x rs2
    let w : Word := BitVec.ofNat 64 (getLe s.mem a 8)
    d.extractLsb' 34 30 = 0 → d.getLsbD 31 = false →
    ∃ t, exec (.pset rs2 rs1) s = .next t
      ∧ t.mem = setLe s.mem a 8 (mkPurse (min (purseBal w + (d.extractLsb' 0 31).toNat) (2 ^ 31 - 1))
          (w.getLsbD 32 && !d.getLsbD 32) (w.getLsbD 33 && !d.getLsbD 32) (d.getLsbD 33)).toNat
      ∧ (∀ b : Nat, b < a ∨ a + 8 ≤ b → getByte t.mem b = getByte s.mem b) ∧ t.ctx.x = s.ctx.x ∧ SameCore s t ∧ SameVector s t)
  ∧ (∀ (rs1 rd : XReg) (s : State) (a : Nat), commonsWord s s.pidx (dataPriv s) (s.x rs1) 8 8 = some a →
    inCounterBlock s a = false → s.Still →
    let w : Word := BitVec.ofNat 64 (getLe s.mem a 8)
    (Ready (.ptest rs1 rd) s → exec (.ptest rs1 rd) s = .next (retire (s.setX rd (purseResult w (decide (purseBal w ≤ 0))))))
    ∧ (Ready (.pwait rs1 rd) s → Strandless s → purseBal w ≤ 0 →
        exec (.pwait rs1 rd) s = .next (retire (s.setX rd (purseResult w true))))
    ∧ (Ready (.pwait rs1 rd) s → Strandless s → 0 < purseBal w → exec (.pwait rs1 rd) s = .next (s.standing (s.x rs1) .purse)))
  ∧ (∀ (rs1 rd : XReg) (s : State) (a : Nat) (r : SRef) (l : Launch) (t : Strand), Ready (.pwait rs1 rd) s → s.ecc = [] →
    s.heldStores = [] → commonsWord s s.pidx (dataPriv s) (s.x rs1) 8 8 = some a → inCounterBlock s a = false →
    s.core.priv = .user → coreStrand s = some (r, l, t) → t.st = .running → t.released = none →
    0 < purseBal (BitVec.ofNat 64 (getLe s.mem a 8)) →
    ∃ u l', exec (.pwait rs1 rd) s = .next u ∧ findLaunch u s.pidx r.launch = some l'
      ∧ findStrand l' r.stage r.idx = some { t with st := .blocked, wait := some ⟨.user, s.ctx.pc, s.x rs1, .purse, none⟩ }
      ∧ u.ctx = s.ctx ∧ u.mem = s.mem ∧ u.core.priv = s.core.priv)
  ∧ (∀ (bal : Int) (o e p : Bool), -(2 ^ 31) ≤ bal → bal < 2 ^ 31 →
    let v := mkPurse bal o e p
    purseBal v = bal ∧ v.getLsbD 32 = o ∧ v.getLsbD 33 = e ∧ v.getLsbD 34 = p ∧ v.extractLsb' 35 29 = 0)
  ∧ (∀ (w : Word) (n : Nat) (err : Bool),
    let v := arrived w n err
    purseBal v = max (-(2 ^ 31)) (purseBal w - n) ∧ v.getLsbD 33 = (w.getLsbD 33 || err)
    ∧ v.getLsbD 32 = (w.getLsbD 32 || decide (purseBal w < n)) ∧ v.getLsbD 34 = w.getLsbD 34)
  ∧ (∀ (w : Word) (rdy : Bool), (purseResult w rdy).extractLsb' 32 32 = w.extractLsb' 0 32 ∧ (purseResult w rdy).getLsbD 2 = rdy
    ∧ (purseResult w rdy).getLsbD 1 = w.getLsbD 33 ∧ (purseResult w rdy).getLsbD 0 = w.getLsbD 32
    ∧ (purseResult w rdy).extractLsb' 3 29 = 0)

/-- R292 to R294: on a valid ring, `rres` and `racq` answer the next slot's address and move their index, `rpub` and `rrel`
move theirs over the slot whose turn it is, and `rocc` answers FILLED and FREE; only the header's bytes change. An operation
that must wait leaves the instruction where it is, the wait of a handler or of a core with no strand standing with the core
(log 124); a slot address that is none traps RING. R293, R294: the ring operations
keep the counts: a reservation moves one slot from FREE to RSV, a publication from RSV to FILLED, an acquisition takes one
from FILLED, a release gives one to FREE; and a valid ring's indexes stay below COUNT. -/
def Obligations.RingFormsComplete : Prop :=
  (∀ (i : Instr) (rs1 : XReg) (rd : XReg) (op : WaitOp) (s : State) (a : Nat),
      ringForm i s = some (rs1, rd, op) → Ready i s → s.Still → s.MemWf → Strandless s →
      commonsWord s s.pidx (dataPriv s) (s.x rs1) 32 32 = some a → inCounterBlock s a = false → SoftRun s a 32 →
      ringValid s s.pidx .machine (ringAt s a) = true →
      (∀ r v, op.ring (ringAt s a) = .done r v → ∃ t, exec i s = .next t ∧ t.mem = setBytes s.mem (a + 8) r.bytes
        ∧ (∀ b : Nat, b < a + 8 ∨ a + 32 ≤ b → getByte t.mem b = getByte s.mem b)
        ∧ t.ctx.x = (s.setX rd v).ctx.x ∧ SameCore s t ∧ SameVector s t)
      ∧ (∀ v, op.ring (ringAt s a) = .keep v → exec i s = .next (retire (s.setX rd v)))
      ∧ (op.ring (ringAt s a) = .wait → exec i s = .next (s.standing (s.x rs1) op))
      ∧ (op.ring (ringAt s a) = .bad → exec i s = .next (enterTrap s false cRing op.slotWord)))
  ∧ (∀ (rs1 rd : XReg) (s : State) (a : Nat), Ready (.rocc rs1 rd) s → s.Still →
      commonsWord s s.pidx (dataPriv s) (s.x rs1) 32 32 = some a → inCounterBlock s a = false →
      ringValid s s.pidx .machine (ringAt s a) = true →
      exec (.rocc rs1 rd) s = .next (retire (s.setX rd (BitVec.ofNat 64 ((ringAt s a).filled * 2 ^ 32 + (ringAt s a).free)))))
  ∧ (∀ (r r' : Ring) (a v : Word), r.put < r.count → r.pub < r.count → r.get < r.count → r.rel < r.count →
      (r.reserve = .done r' v → r'.free + 1 = r.free ∧ r'.rsv = r.rsv + 1 ∧ r'.put < r.count ∧ v = r.slot r.put)
      ∧ (r.publish a = .done r' v → r'.rsv + 1 = r.rsv ∧ r'.filled = r.filled + 1 ∧ r'.pub < r.count ∧ r'.free = r.free)
      ∧ (r.acquire = .done r' v → r'.filled + 1 = r.filled ∧ r'.free = r.free ∧ r'.get < r.count ∧ v = r.slot r.get)
      ∧ (r.release a = .done r' v → r'.free = r.free + 1 ∧ r'.filled = r.filled ∧ r'.rel < r.count ∧ 0 < r.held))

/-- R329 to R331: `bar` with fewer arrivals than parties counts its own and waits; the last arrival zeroes ARR, moves GEN on
and answers the new GEN. `lvlwait` of a level with nothing outstanding answers its counter, and otherwise waits; `lvlcancel`
cancels the level. That the arrival of a `bar` is kept with its pc until the release is log 29's reading, and where the wait
of a core with no strand stands is log 124's. -/
def Obligations.BarrierAndLevels : Prop :=
  (∀ (rs2 rs1 rd : XReg) (s : State) (a : Nat), Ready (.bar rs2 rs1 rd) s → s.Still → s.MemWf → Strandless s →
    commonsWord s s.pidx (dataPriv s) (s.x rs1) 8 8 = some a → inCounterBlock s a = false → SoftRun s a 8 →
    s.ctx.barGen = none →
    let n := s.x rs2
    let arr := getLe s.mem a 4
    let gen : BitVec 32 := BitVec.ofNat 32 (getLe s.mem (a + 4) 4)
    n.extractLsb' 0 32 ≠ 0 → n.extractLsb' 32 32 = 0 →
    (n.toNat ≤ arr + 1 → ∃ t, exec (.bar rs2 rs1 rd) s = .next t ∧ t.mem = setLe s.mem a 8 ((gen + 1).toNat * 2 ^ 32)
      ∧ t.ctx.x = (s.setX rd ((gen + 1).setWidth 64)).ctx.x ∧ t.ctx.pc = (retire s).ctx.pc ∧ t.ctx.barGen = none
      ∧ SameCore s t ∧ SameVector s t)
    ∧ (arr + 1 < n.toNat → ∃ t, exec (.bar rs2 rs1 rd) s = .next t ∧ t.ctx.pc = s.ctx.pc ∧ t.ctx.x = s.ctx.x
      ∧ t.mem = setLe s.mem a 8 (gen.toNat * 2 ^ 32 + (arr + 1)) ∧ t.ctx.barGen = some (s.ctx.pc, gen)
      ∧ t.core.hwait = some ⟨s.core.priv, s.ctx.pc, s.x rs1, .barrier gen, none⟩))
  ∧ (∀ (rs1 rd : XReg) (s : State) (a : Nat), Ready (.lvlwait rs1 rd) s → s.Still → Strandless s →
    commonsWord s s.pidx (dataPriv s) (s.x rs1) 16 16 = some a → inCounterBlock s a = false →
    (getLe s.mem a 4 = 0 → exec (.lvlwait rs1 rd) s = .next (retire (s.setX rd (BitVec.ofNat 64 (getLe s.mem a 8)))))
    ∧ (getLe s.mem a 4 ≠ 0 → exec (.lvlwait rs1 rd) s = .next (s.standing (s.x rs1) .level)))
  ∧ (∀ (rs1 : XReg) (s : State) (a : Nat), Ready (.lvlcancel rs1) s → s.ecc = [] → s.heldStores = [] →
    commonsWord s s.pidx (dataPriv s) (s.x rs1) 16 16 = some a → inCounterBlock s a = false →
    exec (.lvlcancel rs1) s = .next (retire (cancelLevel s s.pidx (s.x rs1))))

/-- R247 to R250: a `tcmd` whose word, run and purse pass the checks is carried out, or, where the Teller lags, joins the
commands outstanding; TCMD_COMPLETE carries out the command at its position. R249: ZERO zeroes its run. -/
def Obligations.TellerCommandsComplete : Prop :=
  (∀ (rs2 rs1 : XReg) (p : BitVec 5) (s : State) (purse : Nat), Ready (.tcmd rs2 rs1 p) s →
    let va := s.x rs1
    let t := tcmdOf (s.x rs2)
    let o := va.toNat - Config.windowBase
    t.legal = true → va.toNat % (if t.cmd = 6 then 8 else max (codeBytes t.sfmt) t.dbytes) = 0 →
    Config.windowBase ≤ va.toNat → commonsRun s s.pidx (dataPriv s) (o + t.first) t.span = true →
    s.ecc = [] → s.heldStores = [] → purseAt s (dataPriv s) s.ctx.u.pbase p.toNat = some purse → tcmdHeld s < 16 →
    exec (.tcmd rs2 rs1 p) s = .next (retire (tcmdRun s
      { part := s.pidx, owner := s.core.strand, colour := s.ctx.snapCol, core := s.core.id, priv := dataPriv s, cmd := t.cmd,
        fields := [BitVec.ofNat 64 (Config.commonsBase + o), s.x rs2], purse := purse, bytes := t.bytes }
      (Config.commonsBase + o) t)))
  ∧ (∀ (pos : Nat) (s : State) (o : TcmdOp), s.tcmds[pos]? = some o → exec (.tcmdComplete pos) s =
    .next (tcmdRun { s with tcmds := s.tcmds.eraseIdx pos } o (o.fields.getD 0 0).toNat (tcmdOf (o.fields.getD 1 0))))
  ∧ (∀ (s : State) (a : Nat) (t : Tcmd), t.cmd = 0 → ∀ w ∈ tcmdWrites s a t, w.bytes = List.replicate t.dbytes 0 ∧ w.poison = false)

/-- R239, R241, R253: a bank performs a request of another agent in its order: a store writes its bytes, an atomic combines its
word; a repaired bank counts the repair. R287, R291: `wqpost` into an enabled queue with room writes the record and moves the
tail, and answers 0; into a full one it answers 1; into one not enabled 2. -/
def Obligations.BankRequestsAndPosts : Prop :=
  (∀ (off : Nat) (bytes : List Byte) (s : State), s.Calm → s.ctx.esc = none →
    off + bytes.length ≤ Config.commonsBytes → PlainCommons s (Config.commonsBase + off) bytes.length →
    ∃ t, exec (.tellerRequest (.store off bytes)) s = .next t ∧ t.mem = setBytes s.mem (Config.commonsBase + off) bytes
      ∧ t.ctx = s.ctx)
  ∧ (∀ (op : BitVec 3) (w : BitVec 2) (off : Nat) (v e : Word) (s : State), s.Still → s.ctx.esc = none →
    off % atomicBytes w = 0 → off + atomicBytes w ≤ Config.commonsBytes → inCounterBlock s (Config.commonsBase + off) = false →
    let n := atomicBytes w
    let a := Config.commonsBase + off
    ∃ t, exec (.tellerRequest (.atomic op w off v e)) s = .next t ∧ t.ctx = s.ctx
      ∧ t.mem = setBytes s.mem a (natBytes n (tellerNew op.toNat w (getLe s.mem a n) (v.toNat % 2 ^ (8 * n)) (e.toNat % 2 ^ (8 * n)))))
  ∧ (∀ (bank : Nat) (s : State), bank < 1024 → exec (.tellerRemap bank) s =
    .next { bump s (bank / (1024 / s.nparts)) ctrRemap 1 with remapped := addNew s.remapped bank })
  ∧ (∀ (rs2 rs1 rd : XReg) (s : State) (cb : Nat), Ready (.wqpost rs2 rs1 rd) s → s.Still → s.MemWf →
    PlainAccess s (s.x rs2) 64 → (s.x rs1).toNat < 16384 / s.nparts → sysAddr s s.pidx (wqBlock s s.pidx (s.x rs1).toNat) = some cb →
    isCommons cb = false → isCommons (cb + 16) = false → pageMarked s s.pidx (wqBlock s s.pidx (s.x rs1).toNat) = true →
    (wqEna s cb = false ∨ wqOwn s cb = false → exec (.wqpost rs2 rs1 rd) s = .next (retire (s.setX rd 2)))
    ∧ (wqEna s cb = true → wqOwn s cb = true → wqUsed s cb = 2 ^ wqLsz s cb →
        exec (.wqpost rs2 rs1 rd) s = .next (retire (s.setX rd 1)))
    ∧ (∀ (a : Nat) (page : Option PageRef), wqEna s cb = true → wqOwn s cb = true → wqUsed s cb ≠ 2 ^ wqLsz s cb →
        sysLoc s s.pidx (wqRecord s cb (wqTail s cb)) = some (a, page) → isCommons a = false →
        pageMarked s s.pidx (wqRecord s cb (wqTail s cb)) = true →
        ∃ t, exec (.wqpost rs2 rs1 rd) s = .next t
          ∧ t.mem = setBytes (setBytes s.mem a (getBytes s.mem (s.x rs2).toNat 64)) (cb + 16)
              (natBytes 4 ((wqTail s cb + 1) % 2 ^ 32))
          ∧ t.ctx.x = (s.setX rd 0).ctx.x ∧ SameCore s t ∧ SameVector s t))

/-! ## Strands and what lands at a boundary -/

/-- R39, R301: `sexit` in U-mode with no copy of its registers outstanding ends the strand, which is EXITED and holds no
core; in a handler that serves no strand it is ILLEGAL. R302: `syield` retires at a pre-emption point, and asks for a stop
where a READY strand has a claim on the core. R342: `evt` raises event 0x0100 with its argument and the strand's identity,
and retires. -/
def Obligations.StrandFormsComplete : Prop :=
  (∀ (s : State) (r : SRef) (l : Launch) (t : Strand), Ready .sexit s → s.core.priv = .user → coreStrand s = some (r, l, t) →
    s.core.copyHolds = false → exec .sexit s = .next (exitStrand (tick s) s.pidx r))
  ∧ (∀ s : State, Ready .sexit s → s.core.priv ≠ .user → servesStrand s = false →
    exec .sexit s = .next (enterTrap s false cIllegal (instrWord .sexit)))
  ∧ (∀ (s : State) (k : Nat) (r : SRef) (l : Launch) (t : Strand), findLaunch s k r.launch = some l →
    findStrand l r.stage r.idx = some t → stageOut l r.stage = none →
    ∃ l' t', findLaunch (exitStrand s k r) k r.launch = some l' ∧ findStrand l' r.stage r.idx = some t'
      ∧ t'.st = .exited ∧ t'.core = none ∧ t'.saved = none ∧ t'.leaving = [])
  ∧ (∀ s : State, Ready .syield s → s.core.priv = .user →
    let t := (retire s).mapCtx fun c => { c with atPoint := true }
    (leaving s.core.stop = false → yields s = true →
      exec .syield s = .next { t with core := { t.core with stop := some .preempt } })
    ∧ (leaving s.core.stop = true ∨ yields s = false → exec .syield s = .next t))
  ∧ (∀ (rs1 : XReg) (s : State), Ready (.evt rs1) s → s.heldStores = [] →
    exec (.evt rs1) s = .next (retire (raiseEvent s s.pidx (strandQueue s) 0x0100 (s.x rs1) s.ctx.strandid)))

/-- R360, R366, R417, R40, R181, R38, R51, R269: what lands at a U-mode boundary. A pre-emption becomes pending where no stop
is and the strand's stage may lose the core (R34), or is withdrawn, any other stop staying; a cut that is due waits on when it
is withdrawn;
ROLLBACK_ENTRY is taken with `sepc` at the cut pc, stval the generation and RB in `snaprb`; a pre-emption, a forced one and a
parking save the strand and free its core; a cut moves the strand to the generation being taken and drops the reservation. -/
def Obligations.BoundaryEventsComplete : Prop :=
  (∀ (b : Bool) (s : State),
      let cut := uncut (s.part s.pidx) s.ctx && s.core.strand.isSome
      ((b = false ∨ mayPreempt s = true) → cut = false →
        exec (.preempt b) s = .next { s with core := { s.core with stop := stopAsked b s.core.stop } })
      ∧ (b = true → mayPreempt s = false → cut = false → exec (.preempt b) s = .next s)
      ∧ (b = false → cut = true → s.core.stop = none ∨ s.core.stop = some .preempt ∨ s.core.stop = some .forced →
        exec (.preempt b) s = .next { s with core := { s.core with stop := some .cut } }))
  ∧ stopAsked true none = some .preempt ∧ stopAsked false none = none ∧ (∀ w : Stop, stopAsked true (some w) = some w
      ∧ stopAsked false (some w) = if w = .preempt ∨ w = .forced then none else some w)
  ∧ (∀ (s : State) (g : BitVec 32), s.ctx.rbEntry = some g → s.core.priv = .user → s.ctx.esc = none →
    ∃ t, exec .rollbackEntry s = .next t ∧ t.core.priv = .supervisor ∧ t.core.csr.sepc = s.ctx.pc
      ∧ t.core.csr.scause = causeWord false cRollback ∧ t.core.csr.stval = g.setWidth 64 ∧ t.ctx.pc = s.core.csr.stvec
      ∧ t.ctx.rbEntry = none ∧ t.ctx.u.snaprb = rollbackWord g ∧ t.ctx.x = s.ctx.x ∧ SameElsewhere s t)
  ∧ (∀ (s u : State) (r : SRef) (l : Launch) (t : Strand), s.core.stop = some .preempt → stopLands s .preempt = true →
    saveReady s = true → coreStrand s = some (r, l, t) → s.ctx.cable = [] → headDone s.ctx = true →
    saveStrand s .ready = .next u →
    exec .preemption s = .next (assayStart u (ribOf s.core.id)))
  ∧ (∀ (s u : State) (r : SRef) (l : Launch) (t : Strand), s.core.stop = some .preempt → stopLands s .forced = true →
    saveReady s = true → coreStrand s = some (r, l, t) → s.ctx.cable ≠ [] →
    let p := suspendCable s
    saveStrand { p with core := { p.core with stop := some .forced } } .ready = .next u →
    exec .forcedPreemption s = .next (assayStart u (ribOf s.core.id)))
  ∧ (∀ (s u : State) (r : SRef) (l : Launch) (t : Strand), isBlocked s = true → s.core.priv = .user →
    escBoundary s.ctx = true → saveReady s = true → coreStrand s = some (r, l, t) → t.released = none →
    (s.ctx.cable = [] → headDone s.ctx = true → saveStrand s .parked = .next u → exec .park s = .next u)
    ∧ (s.ctx.cable ≠ [] → s.core.stop ≠ some .preempt → saveStrand (suspendCable s) .parked = .next u →
        exec .forcedPreemption s = .next u))
  ∧ (∀ (s u : State) (st : StrandSt) (r : SRef) (l : Launch) (t : Strand), coreStrand s = some (r, l, t) →
    s.core.stop ≠ some .cancel → saveStrand s st = .next u → (u.coreAt s.core.id).strand = none ∧ (u.coreAt s.core.id).priv = .user
      ∧ ∀ l' t', findLaunch u s.pidx r.launch = some l' → findStrand l' r.stage r.idx = some t' →
        t'.st = st ∧ t'.core = none ∧ t'.saved.isSome = true)
  ∧ (∀ (s u : State) (r : SRef) (l : Launch) (t : Strand), s.core.priv = .user → saveReady s = true →
    coreStrand s = some (r, l, t) → uncut (s.part s.pidx) s.ctx = true → cutStrand s = .next u →
    (stopLands s .cut = true → headDone s.ctx = true → exec .strandCut s = .next u) 
      ∧ ((queueConsumes s || (nextInstr s).any (consumesNew s)) = true → exec .consumeFirstCut s = .next u)
      ∧ u.ctx.snapGen = (u.part s.pidx).gen.setWidth 31 ∧ u.core.resv = none ∧ u.core.strand = s.core.strand)

/-! ## The queue's own steps -/

/-! ## The Work Scheduler -/

/-- R287, R290, R44, R34, R289, R42, R332, R296: the steps that take a launch from its record to its end. A host TAIL write in
range posts records; a record that can be read is taken and checked; a held launch whose counters are all 0 is released; an
admitted launch gets its strands, READY in their entry state; a launch whose strands have exited, and a marker behind which
nothing earlier is left, complete; a store of a level's counter word that sets CANCELLED cancels the level; and an exited
strand leaves its ring, PROD falling by 1 and CLOSED being set as it reaches 0. -/
def Obligations.LaunchStepsComplete : Prop :=
  (∀ (k q : Nat) (val : BitVec 32) (s : State) (cb : Nat), k < s.nparts → q < queueCount s →
    sysAddr s k (wqBlock s k q) = some cb → wqOwn s cb = false →
    (val.toNat + 2 ^ 32 - wqHead s cb) % 2 ^ 32 ≤ 2 ^ wqLsz s cb →
    exec (.hostTailWrite k q val) s = .next (sysPut (sysTouch s k (wqBlock s k q) 64) k (cb + 16) 4 val.toNat))
  ∧ (∀ (k q : Nat) (s : State) (cb a : Nat) (page : Option PageRef), k < s.nparts → q < queueCount s →
    (s.part k).vaulted = false → heldLaunches s k < 4096 / s.nparts → sysAddr s k (wqBlock s k q) = some cb →
    wqEna s cb = true → wqUsed s cb ≠ 0 →
    let t := sysPut (sysTouch s k (wqBlock s k q) 64) k (cb + 24) 4 ((wqHead s cb + 1) % 2 ^ 32)
    let u := (scrubRead t a 64).2
    sysLoc s k (wqRecord s cb (wqHead s cb)) = some (a, page) → (scrubRead t a 64).1 = false →
    exec (.wsTakeRecord k q) s = .next (takeRecord u k q cb (wqHead s cb) (recordAt u a)))
  ∧ (∀ (serial : Nat) (s : State) (l : Launch), findLaunch s s.pidx serial = some l → l.st = .held →
    (∀ a ∈ launchDeps s s.pidx l, levelOut s a = 0 ∧ levelCancelled s a = false ∧ levelFailed s a = false) →
    ∃ t, exec (.dependenceRelease serial) s = .next t ∧ findLaunch t s.pidx serial = some { l with st := .released }
      ∧ t.mem = s.mem ∧ t.core = s.core)
  ∧ (∀ (serial : Nat) (s : State) (l : Launch), findLaunch s s.pidx serial = some l → (s.part s.pidx).vaulted = false →
    admits s s.pidx l = true →
    (∀ x ∈ (s.part s.pidx).launches, x.serial = serial ∨ admits s s.pidx x = false ∨ admitsBefore s s.pidx l x = true) →
    ∃ t, exec (.launchAdmit serial) s = .next t ∧ t.mem = s.mem ∧ t.core = s.core
      ∧ findLaunch t s.pidx serial = some { l with
          st := .admitted, strands := newStrands s s.pidx l, order := (s.part s.pidx).nextOrder, prods := [] }
      ∧ (newStrands s s.pidx l).length = (l.stages.map fun d => d.max).sum
      ∧ ∀ x ∈ newStrands s s.pidx l, x.st = .ready ∧ x.core = none ∧ ∃ c, x.saved = some c ∧ c.x[10] = l.arg
        ∧ c.x[11] = BitVec.ofNat 64 x.idx ∧ c.usemask = l.uuse)
  ∧ (∀ (serial : Nat) (s : State) (l : Launch), findLaunch s s.pidx serial = some l → l.st = .admitted →
    (∀ x ∈ l.strands, x.st = .exited ∧ x.leaving = []) → launchBusy s s.pidx serial = false →
    exec (.launchComplete serial) s = .next (finishLaunch s s.pidx l))
  ∧ (∀ (serial : Nat) (s : State) (l : Launch), findLaunch s s.pidx serial = some l → l.st = .released → l.marker = true →
    (∀ x ∈ (s.part s.pidx).launches, x.queue ≠ l.queue ∨ serial ≤ x.serial ∨ x.st = .done) →
    exec (.markerComplete serial) s = .next (finishLaunch s s.pidx l))
  ∧ (∀ (addr val : Word) (s : State) (a : Nat), levelAddr s s.pidx addr = some a →
    let t := sysPut s s.pidx a 8 val.toNat
    (levelCancelled s a = true ∨ val.getLsbD 62 = false → exec (.levelCancelStore addr val) s = .next t)
    ∧ (levelCancelled s a = false → val.getLsbD 62 = true →
      exec (.levelCancelStore addr val) s = .next (cancelLevel t s.pidx addr)))
  ∧ (∀ (k : Nat) (ring : Word) (s : State) (r : SRef),
    ((s.part k).launches.flatMap fun l => (l.strands.filter fun t => decide (t.st = .exited) && t.leaving.contains ring).map
      fun t => (⟨l.serial, t.stage, t.idx⟩ : SRef)) = [r] →
    exec (.ringProducerLeave k ring) s = .next (leaveRings s k r))
  ∧ (∀ (k : Nat) (ring : Word) (s : State) (a : Nat), commonsWord s k .machine ring 32 32 = some a → s.Still → s.MemWf →
    s.ctx.esc = none → PlainCommons s a 32 →
    let prod := getLe s.mem (a + 12) 2
    getLe (ringLeave s k ring).mem (a + 12) 2 = prod - 1
      ∧ (getByte (ringLeave s k ring).mem (a + 15)).getLsbD 7 = (decide (prod ≤ 1) || (getByte s.mem (a + 15)).getLsbD 7)
      ∧ ∀ b : Nat, b < a + 12 ∨ a + 16 ≤ b → getByte (ringLeave s k ring).mem b = getByte s.mem b)

/-- R41, R299, R298, R37, R38, R47: the steps that give cores to strands. An idle covering core goes to the READY strand that takes it next, of one whose launch's
stages keep their mins, in its entry or saved context; the end of an interval ages every launch and strand and scores every
stage; a wait that holds no longer makes a BLOCKED strand RUNNING and a PARKED one READY; and a launch that too few cores
cover, or whose strands all wait, raises its event. -/
def Obligations.SchedulingStepsComplete : Prop :=
  (∀ (serial stage idx n : Nat) (s : State) (l : Launch) (t : Strand) (c : Ctx), (s.part s.pidx).vaulted = false →
    ((readyStrands s s.pidx).find? fun p => decide (p.1.serial = serial ∧ p.2.stage = stage ∧ p.2.idx = idx)) = some (l, t) →
    t.saved = some c → t.slot = none →
    let cores := (coresOf s s.pidx).filter fun m => freeFor s m l.uuse && leavesMins s s.pidx l t && takesCore s s.pidx m (l, t)
    cores[Config.pick s.draws % max 1 cores.length]? = some n →
    ∃ u, exec (.placeStrand serial stage idx) s = .next u ∧ (u.coreAt n).priv = .user
      ∧ (u.coreAt n).ctx = { c.resume with esc := c.esc.map fun e => e.homeOn n (decide (waysUsed s (ribOf n) < 4)) }
      ∧ (u.coreAt n).strand = some ⟨serial, stage, idx⟩ ∧ (u.coreAt n).resv = none ∧ u.mem = s.mem)
  ∧ (∀ (k : Nat) (s : State), k < s.nparts → s.parts.length = 16 → (s.part k).vaulted = false →
    ∃ u, exec (.reallocationIntervalEnd k) s = .next u ∧ (u.part k).launches = (s.part k).launches.map (ageLaunch s k)
      ∧ u.mem = s.mem ∧ u.ctx = s.ctx)
  ∧ (∀ (serial stage idx : Nat) (s : State) (l : Launch) (t : Strand) (w : Wait), findLaunch s s.pidx serial = some l →
    findStrand l stage idx = some t → t.wait = some w → waitOver s s.pidx w = true →
    (t.st = .blocked → ∃ u l', exec (.waitSatisfied serial stage idx) s = .next u ∧ findLaunch u s.pidx serial = some l'
      ∧ findStrand l' stage idx = some { t with st := .running, wait := none } ∧ u.mem = s.mem ∧ u.core = s.core)
    ∧ (t.st = .parked → ∃ u l', exec (.waitSatisfied serial stage idx) s = .next u ∧ findLaunch u s.pidx serial = some l'
      ∧ findStrand l' stage idx = some { t with st := .ready, wait := none, waited := 0 } ∧ u.mem = s.mem ∧ u.core = s.core))
  ∧ (∀ (serial : Nat) (s : State) (l : Launch), findLaunch s s.pidx serial = some l → l.st = .released →
    ((coresOf s s.pidx).filter fun n => covers s n l.uuse).length < minSum l.stages →
    exec (.placementEvent serial) s = .next (launchEvent s s.pidx l 0x0003))
  ∧ (∀ (serial : Nat) (s : State) (l : Launch), findLaunch s s.pidx serial = some l → l.st = .admitted →
    (∃ t ∈ l.strands, t.st ≠ .exited) → (∀ t ∈ l.strands, t.st = .exited ∨ t.st = .blocked ∨ t.st = .parked) →
    exec (.pipelineStallEvent serial) s = .next (launchEvent s s.pidx l 0x0004))

/-! ## Assay, vault, translations -/

/-- R317, R50, R314, R315: an assay request joins its rib's queue and waits while 16 are held; OP 1 asks for a new core; a
reserved field is ILLEGAL. The controller takes the head run's core once it has no strand; that a request's run is for the
core it names is log 108's reading. A class run's end counts in
its record, and a class that is fenced leaves CAP with ASSAY_NOTICE pending, one that a store to CAP clears too (log 70). R303, R310, R311: `vault.swap` of a word it refuses sets ERR, also
while a swap is under way, whose fields it keeps (log 75); a swap in begins at
once, a swap out also asks every strand of the partition to stop; the deadline of a swap that has one makes every stop due;
the swap's end clears BUSY. `tlbinv` of a bad command is ILLEGAL, one that the filter cannot take traps cause 7, any other
drops the translations of its scope; the port does the same. -/
def Obligations.AssayAndVaultComplete : Prop :=
  ((∀ (rs1 : XReg) (s : State), Ready (.assayReq rs1) s →
      let x := s.x rs1
      let rib := ribOf s.core.id
      (x.extractLsb' 8 24 ≠ 0 ∨ x.extractLsb' 2 2 ≠ 0 ∨ 2 ≤ (x.extractLsb' 0 2).toNat →
        exec (.assayReq rs1) s = .next (enterTrap s false cIllegal (instrWord (.assayReq rs1))))
      ∧ (x.extractLsb' 8 24 = 0 → x.extractLsb' 0 4 = 0 →
        (16 ≤ ribRequests s rib → exec (.assayReq rs1) s = .next s)
        ∧ (ribRequests s rib < 16 → exec (.assayReq rs1) s = .next (retire (assayStart { s with assayQ := s.assayQ ++
            [(rib, ⟨if x.extractLsb' 32 31 = 0 then 0x7FFFFFFF else (x.extractLsb' 32 31).setWidth 32,
              rib * 16 + (x.extractLsb' 4 4).toNat, true⟩)] } rib))))
      ∧ (x.extractLsb' 8 24 = 0 → x.extractLsb' 0 4 = 1 → s.core.csr.mstatus.getLsbD bitSPP = false →
        exec (.assayReq rs1) s = .next { retire s with core := { (retire s).core with migrate := true } }))
    ∧ (∀ (rib : Nat) (s : State) (p : Nat × AssayReq), rib < 16 → (s.assayQ.find? fun q => decide (q.1 = rib)) = some p →
      (s.coreAt p.2.core).strand = none → exec (.assayCoreClaim rib) s = .next (assayStart s rib))
    ∧ (∀ (core cls : Nat) (pass : Bool) (s : State) (p : Nat × AssayReq), core < 256 → cls < 31 →
      (s.assayQ.find? fun q => decide (q.1 = ribOf core)) = some p → p.2.core = core → (s.coreAt core).assay = true →
      p.2.cls.getLsbD cls = true →
      let r := assayRec s core cls
      ∃ t, exec (.assayComplete core cls pass) s = .next t
        ∧ (pass = true → (assayRec t core cls).pass = min (r.pass + 1) 0xFFFFFFFF ∧ (assayRec t core cls).cons = 0
          ∧ (assayRec t core cls).fail = r.fail ∧ (assayRec t core cls).lggen = (s.coreAt core).ctx.snapGen.toNat)
        ∧ (pass = false → (assayRec t core cls).fail = min (r.fail + 1) 0xFFFFFFFF
          ∧ (assayRec t core cls).cons = min (r.cons + 1) 255 ∧ (assayRec t core cls).pass = r.pass
          ∧ (3 ≤ r.cons + 1 ∨ (16 ≤ cls ∧ cls ≤ 22) → (t.coreAt core).assaycap.getLsbD cls = false)))
    ∧ (∀ (core : Nat) (cap : BitVec 32) (s : State), core < 256 → ∃ t, exec (.capWrite core cap) s = .next t
      ∧ (t.coreAt core).assaycap = cap &&& 0x7FFFFFFF
      ∧ ∀ cls : Nat, cls < 31 → (s.coreAt core).assaycap.getLsbD cls = true → cap.getLsbD cls = false →
        (t.coreAt core).mipSoft.getLsbD 17 = true))
  ∧ ((∀ (rs1 : XReg) (s : State), Ready (.vaultSwap rs1) s →
      let x := s.x rs1
      let p := (x.extractLsb' 0 4).toNat
      (swapRefused s x = true → exec (.vaultSwap rs1) s = .next (retire { s with vault := { s.vault with err := true } }))
      ∧ (swapRefused s x = false → x.getLsbD 4 = true → exec (.vaultSwap rs1) s = .next (retire { s with
          vault := { s.vault with busy := true, dir := true, pidx := p, dl := decide (x.extractLsb' 16 32 ≠ 0), due := false } }))
      ∧ (swapRefused s x = false → x.getLsbD 4 = false → exec (.vaultSwap rs1) s = .next (askVault ((retire { s with
          vault := { s.vault with busy := true, dir := false, pidx := p, dl := decide (x.extractLsb' 16 32 ≠ 0), due := false } }).mapPart
            p fun q => { q with vaulted := true }) p false)))
    ∧ (∀ s : State, s.vault.busy = true → s.vault.dir = false →
      (s.vault.dl = true → exec .vaultSwapDeadline s =
        .next (askVault { s with vault := { s.vault with due := true } } s.vault.pidx true))
      ∧ (s.vault.dl = false → exec .vaultSwapDeadline s = .next s))
    ∧ (∀ s : State, s.vault.busy = true →
      (s.vault.dir = true → exec .vaultSwapDone s = .next (endSwap (markVault s s.vault.pidx false) false))
      ∧ (s.vault.dir = false → strandCores s s.vault.pidx = [] → engineOut s s.vault.pidx = false →
        let t := exitCancelled s s.vault.pidx
        (imageBytes t s.vault.pidx ≤ vaultShare t →
          exec .vaultSwapDone s = .next (endSwap (markVault t s.vault.pidx true) false))
        ∧ (vaultShare t < imageBytes t s.vault.pidx →
          exec .vaultSwapDone s = .next (endSwap (markVault t s.vault.pidx false) true))))
    ∧ (∀ (s : State) (k : Nat) (b e : Bool), (endSwap (markVault s k b) e).vault.busy = false
      ∧ (endSwap (markVault s k b) e).vault.err = (s.vault.err || e))
    ∧ (∀ (rs2 rs1 : XReg) (s : State), Ready (.tlbinv rs2 rs1) s →
      (invBad (s.x rs2) = true → exec (.tlbinv rs2 rs1) s = .next (enterTrap s false cIllegal (instrWord (.tlbinv rs2 rs1))))
      ∧ (invBad (s.x rs2) = false → invalidateAll s (s.x rs1) (s.x rs2) = none →
        exec (.tlbinv rs2 rs1) s = .next (enterTrap s false cStoreAccess (s.x rs1)))
      ∧ (∀ t, invBad (s.x rs2) = false → invalidateAll s (s.x rs1) (s.x rs2) = some t →
        exec (.tlbinv rs2 rs1) s = .next (retire t)))
    ∧ (∀ (va cmd : Word) (s t : State), invBad cmd = false → invalidateAll s va cmd = some t →
      exec (.invalidationPort va cmd) s = .next t)
    ∧ (∀ (va c : Word) (s : State), s.heldStores = [] → (∀ n ∈ s.liveCores, (s.coreAt n).copies = []) → c.getLsbD 3 = false →
      s.ctx.esc = none → s.cores.all (fun c => c.2.ctx.esc.isNone) = true → s.parts.all Partition.still = true →
      invalidateAll s va c = invalidate s s.pidx va c)
    ∧ (∀ (s t : State) (k : Nat) (va c : Word), k < s.parts.length → c.getLsbD 3 = false → c.getLsbD 4 = false →
      invalidate s k va c = some t →
      (t.part k).tlb = (s.part k).tlb.filter (tlbKeeps va.toNat (c.extractLsb' 0 2).toNat) ∧ t.mem = s.mem))

/-! ## Snapshots -/

/-- R361, R362, R363, R353, R357, R359, R360: `snap.begin` answers 0 while snapshots are off, bit 63 with the generation while
one is being taken, and otherwise the new generation, which the chip adopts (its markers go out, and it is taken or, in a full area or SPOOL,
abandoned), the strand that asks being cut at the boundary after it; `snap.stat` answers a generation's state with the
DONE messages held; a rollback goes only to a sealed, retained generation. A marker of a newer generation is adopted and noted
by its link and virtual channel; a chip that has cut every strand, with no old-colour operation left and the marker of every
channel of the job's links (R335), writes its records and floods DONE; messages are noted and passed on, an ABANDON of an older
generation dropping what it loses, and the message of one rollback acting once (log 130). The places and bytes of the
manifest's tables and records are those of logs 109 and 129. -/
def Obligations.SnapshotStepsComplete : Prop :=
  (∀ (rd : XReg) (s : State), Ready (.snapBegin rd) s →
    let p := s.part s.pidx
    let g := p.gen + 1
    (snapEnabled s s.pidx = false → exec (.snapBegin rd) s = .next (retire (s.setX rd 0)))
    ∧ (snapEnabled s s.pidx = true → p.taking = true →
      exec (.snapBegin rd) s = .next (retire (s.setX rd (0x8000000000000000 ||| p.gen.setWidth 64))))
    ∧ (snapEnabled s s.pidx = true → p.taking = false →
      let t := adopt (retire (s.setX rd (g.setWidth 64))) s.pidx g
      (s.core.priv ≠ .user → exec (.snapBegin rd) s = .next t)
      ∧ (s.core.priv = .user → saveReady s = false → exec (.snapBegin rd) s = .next s)
      ∧ (∀ u, s.core.priv = .user → saveReady s = true → cutStrand t = .next u → exec (.snapBegin rd) s = .next u)))
  ∧ (∀ (rs1 rd : XReg) (s : State), Ready (.snapStat rs1 rd) s →
    let g := if s.x rs1 = 0 then (s.part s.pidx).gen else (s.x rs1).extractLsb' 0 32
    exec (.snapStat rs1 rd) s = .next (retire (s.setX rd (BitVec.ofNat 64
      (g.toNat * 2 ^ 32 + donesFor s s.pidx g % 65536 * 65536 + snapState s s.pidx g)))))
  ∧ (∀ (rs1 : XReg) (s : State), Ready (.snapRollback rs1) s →
    (rollbackTo s s.pidx ((s.x rs1).extractLsb' 0 32) = none →
      exec (.snapRollback rs1) s = .next (enterTrap s false cIllegal (instrWord (.snapRollback rs1))))
    ∧ (∀ m, rollbackTo s s.pidx ((s.x rs1).extractLsb' 0 32) = some m → exec (.snapRollback rs1) s =
        .next (noteRolled (rollback { retire s with outMsgs := (retire s).outMsgs ++ [Msg.rollback s.pidx m.gen] } s.pidx m)
          s.pidx m.gen [])))
  ∧ (∀ (s : State) (k : Nat) (g : BitVec 32) (m : Manifest), rollbackTo s k g = some m → m.sealed = true ∧ m.gen = g
    ∧ snapEnabled s k = true ∧ m ∈ (s.part k).manifests)
  ∧ (∀ (t : Strand) (g : BitVec 32), (t.st = .exited → t.rolled g = t) ∧ (t.st ≠ .exited → (t.rolled g).st = .ready
      ∧ (t.rolled g).core = none ∧ (t.rolled g).wait = none
      ∧ ∀ c, t.saved = some c → ∃ d, (t.rolled g).saved = some d ∧ d.rbEntry = some g
        ∧ d.pc = c.pc ∧ d.x = c.x ∧ d.snapGen = g.setWidth 31))
  ∧ (∀ (k link vc : Nat) (g : BitVec 32) (s : State), k < s.nparts → snapEnabled s k = true →
    let note (p : Partition) : Partition := { p with markers :=
      if (link, vc) ∈ p.markers then p.markers else p.markers ++ [(link, vc)] }
    ((s.part k).gen < g → exec (.stitchMarker k g ⟨link, vc⟩) s = .next ((adopt s k g).mapPart k note))
    ∧ ((s.part k).gen = g → exec (.stitchMarker k g ⟨link, vc⟩) s = .next (s.mapPart k note))
    ∧ (g < (s.part k).gen → exec (.stitchMarker k g ⟨link, vc⟩) s = .next s))
  ∧ (∀ (k : Nat) (g : BitVec 32) (s : State), k < s.parts.length →
    let u := adopt s k g
    (u.part k).gen = g ∧ (∀ c ∈ jobVcs s k, Msg.marker k g c.1 c.2 ∈ u.outMsgs)
      ∧ ((u.part k).taking = true ∨ Msg.abandon k g ∈ u.outMsgs))
  ∧ (∀ (k : Nat) (s : State), k < s.nparts → (s.part k).taking = true → allCut s k = true → ocoOf s = 0 →
    (∀ c ∈ jobVcs s k, c ∈ (s.part k).markers) → ((s.part k).gen, s.chip) ∉ (s.part k).doneMsgs →
    let g := (s.part k).gen
    let u := writeRecords s k g
    exec (.chipDone k) s =
      .next (trySeal (noteDone { u with outMsgs := u.outMsgs ++ [Msg.done k g u.chip] } k g u.chip) k))
  ∧ (∀ (k : Nat) (g : BitVec 32) (c : BitVec 12) (s : State), k < s.nparts → (g, c) ∉ (s.part k).doneMsgs →
    exec (.doneMessage k g c) s = .next (trySeal (noteDone { s with outMsgs := s.outMsgs ++ [Msg.done k g c] } k g c) k))
  ∧ (∀ (k : Nat) (g : BitVec 32) (s : State), k < s.nparts →
    let lost := (s.part k).manifests.filter fun m => m.sealed || decide (m.gen = g)
    (lost = [] → exec (.abandonMessage k g) s = .next s)
    ∧ (lost ≠ [] → (s.part k).gen = g → exec (.abandonMessage k g) s = .next (abandonGen s k))
    ∧ (lost ≠ [] → (s.part k).gen ≠ g → exec (.abandonMessage k g) s = .next (raiseEvent
        (lost.foldl (fun t m => dropManifest t k m) { s with outMsgs := s.outMsgs ++ [Msg.abandon k g] }) k 0 0x0021 (g.setWidth 64) 0)))
  ∧ (∀ (k link : Nat) (g : BitVec 32) (s : State) (m : Manifest), k < s.nparts → rollbackTo s k g = some m →
    ((∀ ls, (s.part k).rolled = some (g, ls) → link ∈ ls) → exec (.rollbackMessage k ⟨link, g⟩) s =
      .next (noteRolled (rollback { s with outMsgs := s.outMsgs ++ [Msg.rollback k g] } k m) k g [link]))
    ∧ (∀ ls, (s.part k).rolled = some (g, ls) → link ∉ ls → exec (.rollbackMessage k ⟨link, g⟩) s =
      .next (noteRolled s k g (link :: ls))))

/-! ## Minting, collectives and requests from other chips -/

/-- R381, R382, R384, R385: `mint` reads its four request words and, where the clerk core answers at once, writes the result
to xd; where an accepted store is still to reach the image, which is log 79's reading of the order of its checks, it waits at a
pre-emption point; a removal from U-mode is ILLEGAL; MINT_RESULT is the clerk core's next step on the oldest request of the rib
that is not finished. R384: removing a handle that is not VALID, or is in use, answers code 9. R338: a request from another
chip whose JOBID a partition holds, at an address that translates, is performed: a load is answered with the bytes, a store,
in its channel's order (R335), writes them; any other is refused; no Ethernet port carries one (R339). R349: a chunk's 1,024
words come back from its bytes with the CRC matching, elided or raw; a chunk of zeros takes 144 bytes when elided, and 4,112
when it is not. -/
def Obligations.MintAndPeerComplete : Prop :=
  ((∀ (rs1 rd : XReg) (s : State), Ready (.mint rs1 rd) s → s.ecc = [] → s.heldStores = [] → PlainAccess s (s.x rs1) 8 →
      physOk (s.x rs1).toNat 32 = true → mintJob s (s.x rs1) = none →
      let ws := (upFrom 0 4).map fun k => leWord (getBytes s.mem ((s.x rs1).toNat + 8 * k) 8)
      (∀ v u, mintDo s s.pidx ws = (.ok v, u) → exec (.mint rs1 rd) s = .next (retire (u.setX rd v)))
      ∧ (∀ fs u, mintDo s s.pidx ws = (.error fs, u) → exec (.mint rs1 rd) s =
          .next ((mintHand u (s.x rs1) ws (some fs)).mapCtx fun c => { c with atPoint := true })))
    ∧ (∀ (rs1 rd : XReg) (s t : State) (ws : List Word), Ready (.mint rs1 rd) s → s.heldStores = [] →
      (loadWords (s.x rs1) 4).run s = (.ok ws, t) → (mintReqOf ws).rem = true → t.core.priv = .user →
      exec (.mint rs1 rd) s = .next (raiseTrap t cIllegal (instrWord (.mint rs1 rd))))
    ∧ (∀ (s : State) (j : MintJob),
      ((s.part s.pidx).mints.find? fun j => decide (ribOf j.core = ribOf s.core.id) && j.result.isNone) = some j →
      let q := mintReqOf j.words
      exec .mintResult s = .next (mintAdvance s s.pidx j)
      ∧ (j.frames = none → q.rem = true → mintAdvance s s.pidx j =
          setMint (mintRemove s s.pidx q).2 s.pidx j { j with result := some (mintRemove s s.pidx q).1 })
      ∧ (∀ v t, j.frames = none → q.rem = false → mintBegin s s.pidx q = (.error v, t) →
          mintAdvance s s.pidx j = setMint t s.pidx j { j with result := some v })
      ∧ (∀ fs t, j.frames = none → q.rem = false → mintBegin s s.pidx q = (.ok fs, t) →
          mintAdvance s s.pidx j = setMint t s.pidx j { j with frames := some fs })
      ∧ (∀ fs, j.frames = some fs → framesBusy s fs = true → mintAdvance s s.pidx j = s)
      ∧ (∀ fs, j.frames = some fs → framesBusy s fs = false → mintAdvance s s.pidx j =
          setMint (mintFinish s s.pidx q).2 s.pidx j { j with frames := none, result := some (mintFinish s s.pidx q).1 }))
    ∧ (∀ (s : State) (k : Nat) (ws : List Word), (mintReqOf ws).rem = true → (mintReqOf ws).resv = false →
      (objEntry s k (mintReqOf ws).rhnd = none ∨ objInUse s k (mintReqOf ws).rhnd = true) →
      mintDo s k ws = (.ok 0x8000000000000009, s))
    ∧ (∀ (s : State) (k : Nat) (ws : List Word), (mintReqOf ws).rem = false → ((mintReqOf ws).resv = true ∨ (mintReqOf ws).rhnd ≠ 0) →
      mintDo s k ws = (.ok 0x8000000000000001, s)))
  ∧ ((∀ (link : Nat) (job : BitVec 32) (va : Word) (size : Nat) (s : State), link < 18 →
      let refuse (t : State) : State := { t with outMsgs := t.outMsgs ++ [Msg.peerRefuse] }
      (jobPart s job = none → exec (.peerRequest ⟨link, .load job va size⟩) s = .next (refuse s))
      ∧ (∀ k t, jobPart s job = some k → peerXlate s k .load va = (none, t) →
          exec (.peerRequest ⟨link, .load job va size⟩) s = .next (refuse t))
      ∧ (∀ k a kind page t, jobPart s job = some k → peerXlate s k .load va = (some (.phys a kind page), t) →
          let r := scrubRead t a size
          (r.1 = true ∨ physOk a size = false → exec (.peerRequest ⟨link, .load job va size⟩) s = .next (refuse r.2))
          ∧ (r.1 = false → physOk a size = true → exec (.peerRequest ⟨link, .load job va size⟩) s =
              .next { r.2 with outMsgs := r.2.outMsgs ++ [Msg.peerReply (getBytes r.2.mem a size)] })))
    ∧ (∀ (link : Nat) (job : BitVec 32) (va : Word) (bytes : List Byte) (colour : Bool) (k : Nat) (s : State), link < 18 →
      jobPart s job = some k → outOfOrder s k link 1 colour = false →
      let refuse (t : State) : State := { t with outMsgs := t.outMsgs ++ [Msg.peerRefuse] }
      (∀ t, peerXlate s k .store va = (none, t) → exec (.peerRequest ⟨link, .store job va bytes colour⟩) s = .next (refuse t))
      ∧ (∀ a kind page t, peerXlate s k .store va = (some (.phys a kind page), t) →
          (frameProtected t a = true ∨ transitHit t k (.phys a kind page) = true ∨ physOk a bytes.length = false →
            exec (.peerRequest ⟨link, .store job va bytes colour⟩) s = .next (refuse t))
          ∧ (frameProtected t a = false → transitHit t k (.phys a kind page) = false → physOk a bytes.length = true →
            exec (.peerRequest ⟨link, .store job va bytes colour⟩) s =
              .next (levelHook t (physWrite t k (newColour t k colour) (.agent .user) page a bytes)))))
    ∧ (∀ (link : Nat) (req : PeerReq) (s : State), 18 ≤ link → exec (.peerRequest ⟨link, req⟩) s = .next s)
    ∧ (∀ (elide : Bool) (ws : List Nat), ws.length = 1024 → (∀ w ∈ ws, w < 2 ^ 32) →
      chunkWords (chunkBytes elide ws) = (ws, true))
    ∧ (∀ (elide : Bool) (ws : List Nat), ws.length = 1024 → (chunkBytes elide ws).length =
      if elide = true ∧ (ws.filter fun w => decide (w ≠ 0)).length < 988
      then 144 + 4 * (ws.filter fun w => decide (w ≠ 0)).length else 4112))

/-- R344, R345, R350 to R352: `cho` whose descriptor, group and buffers pass issues the collective, with SEND read as its bytes
stand, and answers 0, or answers 1 where the queue or the area is full. A chunk of an issued instance is kept and, once SEND is
read, worked off, one with an error raising its event; one of another shape, or one that says that members disagree, ends the
instance and is passed on round the ring (log 132); a whole instance performs its RECV writes and one withdrawal; one that is
never issued elsewhere raises 0x0018 once; an acknowledged chunk is recorded as sent. When SEND is read, the rounding and the
ring's order are log 80's reading of R345 to R347; where the area's bytes lie and what they hold are log 110's choice. -/
def Obligations.CollectivesComplete : Prop :=
  (∀ (rs2 rs1 rd : XReg) (s : State) (purse : Nat) (r : List Loc × List Loc), Ready (.cho rs2 rs1 rd) s → s.ecc = [] →
    s.heldStores = [] → PlainAccess s (s.x rs1) 64 →
    let d := s.x rs1
    let ws := (upFrom 0 8).map fun k => leWord (getBytes s.mem (d.toNat + 8 * k) 8)
    let g := ws.getD 4 0
    let gw := leWord (getBytes s.mem g.toNat 8)
    let n := (gw.extractLsb' 0 13).toNat
    let chips := (upFrom 0 n).map fun k => getLe s.mem (g.toNat + 8 + 2 * k) 2
    let rank := (gw.extractLsb' 16 13).toNat
    let h := shapeOf ws chips
    let w := collW h
    PlainAccess s g 8 → physOk g.toNat (8 + 2 * n) = true → descGood ws = true → groupGood gw = true →
    (∀ c ∈ chips, c < 4096) → chips.getD rank 4096 = s.chip.toNat → (h.op = 4 → h.root < n) → jobWord s s.pidx 40 ≠ 0 →
    purseAt s (dataPriv s) s.ctx.u.pbase ((ws.getD 0 0).extractLsb' 32 5).toNat = some purse →
    (copyPlaces (dataPriv s) (instrWord (.cho rs2 rs1 rd)) w 0 0 true true (strideAddrs (ws.getD 2 0) w (collSends h rank))
      (strideAddrs (ws.getD 3 0) w (collRecvs h))).run s = (.ok r, s) →
    (∀ c ∈ s.colls, c.issued = true → c.tag = ws.getD 6 0 → c.shape.chips ≠ h.chips) →
    (64 ≤ (s.colls.filter fun c => decide (c.part = s.pidx) && c.issued).length
        ∨ collRoom s s.pidx (collRecvs h * w) = false →
      exec (.cho rs2 rs1 rd) s = .next (retire (s.setX rd 1)))
    ∧ ((s.colls.filter fun c => decide (c.part = s.pidx) && c.issued).length < 64 →
      collRoom s s.pidx (collRecvs h * w) = true → (∀ l ∈ r.1, ∃ a kind page, l = .phys a kind page) →
      ∃ c, exec (.cho rs2 rs1 rd) s = .next (retire ((landArea (issueColl s c) s.pidx (newColour s s.pidx s.ctx.snapCol)
          collRecord).setX rd 0)) ∧ c.part = s.pidx ∧ c.tag = ws.getD 6 0
        ∧ c.shape = h ∧ c.rank = rank ∧ c.purse = purse ∧ c.bytes = collRecvs h * w ∧ c.recv = r.2 ∧ c.owner = s.core.strand
        ∧ c.colour = s.ctx.snapCol
        ∧ c.send.length = r.1.length ∧ c.unread = [] ∧ c.issued = true ∧ c.err = false
        ∧ ∀ (k a : Nat) (kind : BitVec 2) (page : Option PageRef), r.1[k]? = some (Loc.phys a kind page) → c.send[k]? = some (leNat (getBytes s.mem a w))))
  ∧ (∀ (link : Nat) (m : ChunkMsg) (s : State) (pos : Nat) (c : Coll), chunkColl s.colls m = some pos → s.colls[pos]? = some c →
    outOfOrder s c.part link 3 m.colour = false →
    let new := newColour s c.part m.colour
    let image (t : State) : State := imageColls t c.part new fun cs => (landChunk c.part s.chip m cs).1
    let chunk := (arrivingChunk m (collRunWords m.shape (c.runOf m.seg).2)).1
    let kept := { c with inbox := c.inbox ++ [chunk] }
    (m.ends = true ∨ m.shape ≠ c.shape → exec (.chunkReceive ⟨link, m⟩) s = .next (landArea (image { s with
      colls := setAt s.colls pos { c with mismatch := true }
      outMsgs := s.outMsgs ++ if c.mismatch then [] else
        [Msg.chunk c.part c.next { m with ends := true, colour := if c.issued then c.colour else m.colour }] }) c.part new m.bytes.length))
    ∧ (m.ends = false → m.shape = c.shape → m.seg < collN m.shape → c.issued = true →
      (m.err = .none → (chunkWords m.bytes).2 = true →
        let d := if c.unread = [] then progress kept else (kept, [])
        exec (.chunkReceive ⟨link, m⟩) s = .next (landArea (image { s with
          colls := setAt s.colls pos d.1, outMsgs := s.outMsgs ++ d.2 }) c.part new m.bytes.length))
      ∧ (m.err ≠ .none ∨ (chunkWords m.bytes).2 = false → ∃ t,
        exec (.chunkReceive ⟨link, m⟩) s = .next (collEvent t { kept with err := true }))))
  ∧ (∀ (pos : Nat) (s : State) (c : Coll), s.colls[pos]? = some c → c.issued = true → c.mismatch = false → c.full = true →
    (∀ l ∈ c.recv, transitHit s c.part l = false) →
    let new := newColour s c.part c.colour
    let o : Issuer := ⟨c.part, c.owner, c.colour, none⟩
    let t := imageColls { s with
      colls := s.colls.eraseIdx pos
      flights := s.flights ++ (c.outbox.filter fun r => !r.sent).map fun r => ⟨o, 3, c.target r.seg⟩
      draws := s.draws + collW c.shape * c.recv.length } c.part new fun cs => cs.filter fun d => !(d.issued && c.is d)
    exec (.collectiveComplete pos) s = .next (arrive (performWrites t o (.agent c.priv) t.core.id (collWrites s c))
      c.part c.purse c.bytes c.err c.owner new))
  ∧ (∀ (pos : Nat) (s : State) (c : Coll), s.colls[pos]? = some c → c.issued = true → c.timed = false → c.full = false →
    exec (.collectiveTimeout pos) s = .next (collEvent (mapColl s pos c fun d => { d with timed := true }) c))
  ∧ (∀ (pos chunk : Nat) (s : State) (c : Coll) (r : ChunkRec), s.colls[pos]? = some c → c.outbox[chunk]? = some r →
    let t := mapColl s pos c fun d => { d with outbox := d.outbox.modify chunk fun r => { r with sent := true } }
    exec (.chunkLandingAck pos chunk) s = .next (landArea t c.part (newColour s c.part c.colour) chunkRecord)
      ∧ (t.colls[pos]?.bind fun d => d.outbox[chunk]?) = some { r with sent := true } ∧ t.mem = s.mem ∧ t.core = s.core)

/-- R280, R281: a `cpyv` or `cpyvs` whose checks pass, in any space and mode, becomes a copy of its elements: into the register,
which is pending until they land, or from it, with the purse and the bytes. R283, R285: a `ctile` that passes every check
copies its elements in range from the pocket, writes 0 for the others, and its purse's Teller withdraws its bytes. R381, R385:
`mint` whose request can be read, and is no removal from U-mode, answers the clerk core's result in xd, at once or when the
request that waits for it has one; MINT_RESULT goes on with the rib's oldest request; the order of the clerk core's checks and
a mint done in one step are log 79's. R338: a request from another chip of a partition's JOBID, at an address that translates,
is performed: a load is answered with the bytes, a store is made in its packet's colour. -/
def Obligations.CopiesAndMintComplete : Prop :=
  ((∀ (w : BitVec 2) (rs2 rs1 : XReg) (vd : VReg5) (s u : State) (r : List Loc × List Loc), Ready (.cpyv w rs2 rs1 vd) s →
      let en := viqEntry (.cpyv w rs2 rs1 vd) [] s
      let p := viqPush (.cpyv w rs2 rs1 vd) [] s
      let n := en.csr.vl.toNat
      let b := copyBytes w
      let as := strideAddrs en.a (if en.b = 0 then (b : Int) else en.b.toInt) n
      entryConsumes p en = false → copyRegBad p.ctx vd b n = none → copyFull p = false → p.ctx.dstWaits vd = false →
      (copyPlaces en.priv (en.word.setWidth 64) b (ldSpace en) 0 true false as []).run p = (.ok r, u) →
      let t := u.mapCtx fun c => c.mapVr vd fun v => { v with st := .pending, landed := some 0 }
      exec (.cpyv w rs2 rs1 vd) s = .next (retire (viqAfter (viqLeave en (copyEnter t (copyOp t en.priv (.toReg vd n) b
        (pairElems as r.1 ((upFrom 0 n).map fun k => CopyDst.reg vd k)) none 0))))))
    ∧ (∀ (w : BitVec 2) (rs2 rs1 : XReg) (vs : VReg5) (s u : State) (r : List Loc × List Loc) (a : Nat),
      Ready (.cpyvs w rs2 rs1 vs) s →
      let en := viqEntry (.cpyvs w rs2 rs1 vs) [] s
      let p := viqPush (.cpyvs w rs2 rs1 vs) [] s
      let n := en.csr.vl.toNat
      let b := copyBytes w
      let word : Word := en.word.setWidth 64
      let as := strideAddrs en.a b n
      entryConsumes p en = false → copyRegBad p.ctx vs b n = none → copyFull p = false →
      p.ctx.srcWaits ⟨vs, some n⟩ = false →
      (purseOf en.priv en.csr.pbase (en.b.extractLsb' 0 5).toNat fun _ => word).run p = (.ok a, p) →
      (copyPlaces en.priv word b 0 (stSpace en) false true [] as).run p = (.ok r, u) → (u.ctx.vr vs).st ≠ .vacant →
      let elems : List CopyElem := ((upFrom 0 n).zip (as.zip r.2)).map fun q =>
        { src := .val (natBytes b (u.ctx.raw vs q.1)) false, dst := .mem q.2.2, addr := q.2.1 }
      exec (.cpyvs w rs2 rs1 vs) s = .next (retire (viqAfter (viqLeave en (copyEnter u
        { copyOp u en.priv .plain b elems (some a) (n * b) with usesStrand := true })))))
    ∧ (∀ (w : BitVec 2) (rs2 rs1 : XReg) (p : BitVec 5) (s : State) (a : Nat), Ready (.ctile w rs2 rs1 p) s → s.Calm → s.MemWf →
      s.core.copies = [] → s.flights = [] → s.ctx.vlProv = none → s.ctx.dcache = [] →
      PlainAccess s (s.x rs1) 64 → PlainAccess s (s.x rs2) 32 →
      let bs := getBytes s.mem (s.x rs1).toNat 64 ++ getBytes s.mem (s.x rs2).toNat 32
      let x := tileOfRec bs
      let b := copyBytes w
      let n := x.e0 * x.e1 * x.e2
      let vd : VReg5 := BitVec.ofNat 5 x.dest
      let value (e : Nat × Bool × Word) : List Byte := if e.2.1 then getBytes s.ctx.pocket e.2.2.toNat b else List.replicate b 0
      x.e0 ≤ s.ctx.u.vl.toNat → 0 ≤ x.c0 → x.c0 + x.e0 ≤ x.dim0 → n ≤ 2 ^ 24 →
      descBad bs b = false → reqBad bs b = false → ((etyOf x.tag).map ETy.bits).getD 0 = 8 * b → (1 ≤ x.e0 → x.c0 < x.dim0) →
      tileRegBad s.ctx b n x = none → tileWaits s.ctx x = false → ldCode s.ctx.u = 2 →
      purseAt s (dataPriv s) s.ctx.u.pbase p.toNat = some a → (x.dk = false → x.dest + n * b ≤ s.ctx.pocb) →
      (∀ e ∈ tileElems x x.e0 b, e.2.1 = true → e.2.2.toNat % b = 0 ∧ e.2.2.toNat + b ≤ s.ctx.pocb) →
      let pw : Word := BitVec.ofNat 64 (getLe s.mem a 8)
      ∃ t, exec (.ctile w rs2 rs1 p) s = .next t ∧ t.core.copies = [] ∧ t.ctx.u.vl = s.ctx.u.vl ∧ t.ctx.u.vffs = 0
        ∧ (pw.getLsbD 34 = false → t.mem = setLe s.mem a 8 (arrived pw (n * b) false).toNat)
        ∧ (x.dk = true → (t.ctx.vr vd).st = .full ∧ (Memory.wf (s.ctx.vr vd).data = true →
            ∀ e ∈ tileElems x x.e0 b, rawAt (t.ctx.vr vd).data (8 * b) e.1 = leNat (value e)))
        ∧ (x.dk = false → Memory.wf s.ctx.pocket = true →
            (∀ e ∈ tileElems x x.e0 b, e.2.1 = true → e.2.2.toNat + b ≤ x.dest ∨ x.dest + n * b ≤ e.2.2.toNat) →
            ∀ e ∈ tileElems x x.e0 b, getBytes t.ctx.pocket (x.dest + e.1 * b) b = value e)
        ∧ t.ctx.x = s.ctx.x))
  ∧ (∀ (rs1 rd : XReg) (s t : State) (ws : List Word), Ready (.mint rs1 rd) s → s.heldStores = [] →
    (loadWords (s.x rs1) 4).run s = (.ok ws, t) → ((mintReqOf ws).rem = true → t.core.priv ≠ .user) → t.lag = false →
    mintJob t (s.x rs1) = none → ∀ v u, mintDo t t.pidx ws = (.ok v, u) →
    exec (.mint rs1 rd) s = .next (retire (u.setX rd v)))
  ∧ (∀ (rs1 rd : XReg) (s t : State) (ws : List Word) (j : MintJob) (v : Word), Ready (.mint rs1 rd) s → s.heldStores = [] →
    (loadWords (s.x rs1) 4).run s = (.ok ws, t) → ((mintReqOf ws).rem = true → t.core.priv ≠ .user) →
    mintJob t (s.x rs1) = some j → j.result = some v → exec (.mint rs1 rd) s = .next (retire
      ((t.mapPart t.pidx fun p => { p with mints := p.mints.filter fun i => decide (i ≠ j) }).setX rd v)))
  ∧ (∀ (s : State) (j : MintJob),
    ((s.part s.pidx).mints.find? fun j => decide (ribOf j.core = ribOf s.core.id) && j.result.isNone) = some j →
    exec .mintResult s = .next (mintAdvance s s.pidx j))
  ∧ (∀ (link : Nat) (job : BitVec 32) (va : Word) (size k a : Nat) (kind : BitVec 2) (page : Option PageRef) (s t : State),
    link < 18 → jobPart s job = some k → peerXlate s k .load va = (some (.phys a kind page), t) →
    (scrubRead t a size).1 = false → physOk a size = true → ∃ u, exec (.peerRequest ⟨link, .load job va size⟩) s = .next u
      ∧ u.outMsgs = (scrubRead t a size).2.outMsgs ++ [Msg.peerReply (getBytes (scrubRead t a size).2.mem a size)])
  ∧ (∀ (link : Nat) (job : BitVec 32) (va : Word) (bytes : List Byte) (colour : Bool) (k a : Nat) (kind : BitVec 2)
    (page : Option PageRef) (s t : State), link < 18 → jobPart s job = some k → outOfOrder s k link 1 colour = false →
    peerXlate s k .store va = (some (.phys a kind page), t) → frameProtected t a = false →
    transitHit t k (.phys a kind page) = false → physOk a bytes.length = true →
    exec (.peerRequest ⟨link, .store job va bytes colour⟩) s =
      .next (levelHook t (physWrite t k (newColour t k colour) (.agent .user) page a bytes)))

/-! ## The platform -/

/-- R220, R217, R334, R387, R388, R393, R337: the background steps. The scrubber corrects a correctable granule and poisons
an uncorrectable one; a wear copy keeps what programs read; a dirty line that is lost is poisoned, all of it (log 87); a
telemetry sample shows PWR and TEMP in every counter block; the clock moves one step between its ends while the module is over
its limits, or below them, as last sampled (logs 88 and 133); thermal shutdown stops the vector cores at 115 °C;
DBELL is set in the mailbox unless a request waits there; a host write is performed with the cancels it makes; and a field of
the job block is written. R388, R389, R390, R391: a mailbox request of code 1 with a value in range and on its step sets the
TDP, any other value answers 2; code 2 answers the quote over its nonce and code 3 the measurements, in the bytes that log 84
chooses; each clears DBELL first and writes STAT last. A boot whose three stages verify, each against the fused digest (log
122), extends the measurements in their order (log 83) and leaves reset; one with no stage, or with one that does not verify,
stays in reset and is reported. -/
def Obligations.PlatformStepsComplete : Prop :=
  ((∀ (a : Nat) (f : EccFind) (s : State), physOk a 1 = true → eccAt s (granuleOf a) = none →
      (f = .clean → exec (.scrubGranule a f) s = .next s)
      ∧ (f = .correctable → ∃ t, exec (.scrubGranule a f) s = .next t ∧ eccAt t (granuleOf a) = none)
      ∧ (f = .uncorrectable → ∃ t, exec (.scrubGranule a f) s = .next t ∧ eccAt t (granuleOf a) = some .poisoned))
    ∧ (∀ (src bytes : Nat) (s : State), physOk src bytes = true → s.ecc = [] → exec (.wearRowCopy src bytes) s = .next s)
    ∧ (∀ (line : Nat) (s : State), physOk (line / 128 * 128) 128 = true →
      ∃ t, exec (.dirtyLineWriteBack line) s = .next t ∧ ∀ g ∈ granulesOf (line / 128 * 128) 128, eccAt t g = some .poisoned)
    ∧ (∀ (link : Nat) (s : State), exec (.linkCalibration link) s = .next s)
    ∧ (∀ (pwr temp : Word) (s : State), s.MemWf → ∃ t, exec (.telemetrySample pwr temp) s = .next t ∧ ∀ k : Nat, k < s.nparts →
      getLe t.mem (Config.commonsBase + counterBlock s k + 0x058) 8 = pwr.toNat
        ∧ getLe t.mem (Config.commonsBase + counterBlock s k + 0x060) 8 = temp.toNat)
    ∧ (∀ s : State,
      let pwr := getLe s.mem (Config.commonsBase + counterBlock s 0 + 0x058) 8
      let temp := getLe s.mem (Config.commonsBase + counterBlock s 0 + 0x060) 8
      (1000 * s.tdp.toNat < pwr ∨ 105000 < temp → exec .clockStepDown s = .next { s with clock := min 5 (s.clock + 1) })
      ∧ (pwr ≤ 1000 * s.tdp.toNat → temp ≤ 105000 → exec .clockStepDown s = .next s)
      ∧ (100 * pwr < 95 * (1000 * s.tdp.toNat) → temp < 100000 → exec .clockStepUp s = .next { s with clock := s.clock - 1 })
      ∧ (95 * (1000 * s.tdp.toNat) ≤ 100 * pwr ∨ 100000 ≤ temp → exec .clockStepUp s = .next s)
      ∧ (115000 ≤ temp → ∃ t, exec .thermalShutdown s = .next t ∧ t.halted = true ∧ t.clock = s.clock)
      ∧ (temp < 115000 → exec .thermalShutdown s = .next s))
    ∧ (∀ (k : Nat) (s : State), k < s.nparts →
      (k ∉ s.mboxWait → exec (.dbell k) s = .next (sysPut s k (mailboxAt s k + 0x40) 8 1))
      ∧ (k ∈ s.mboxWait → exec (.dbell k) s = .next s))
    ∧ (∀ (a : Nat) (bytes : List Byte) (s : State), isPort a = false → physOk a bytes.length = true →
      exec (.hostWrite a bytes) s = .next (agentStores s (.agent .user) a bytes))
    ∧ (∀ (a : Nat) (bytes : List Byte) (s : State), isPort a = false → physOk a bytes.length = true → isCommons a = false →
      bytes ≠ [] → s.Calm → s.MemWf → s.ctx.esc = none →
      ∃ t, exec (.hostWrite a bytes) s = .next t ∧ t.mem = setBytes s.mem a bytes ∧ t.ctx = s.ctx ∧ t.core.csr = s.core.csr)
    ∧ (∀ (k off : Nat) (val : Word) (s : State) (j : Nat), jobBlock s k = some j → off + 8 ≤ 256 →
      exec (.jobBlockWrite k off val) s = .next (physWrite s k true (.agent .supervisor) none (j + off) (natBytes 8 val.toNat))))
  ∧ ((∀ (k : Nat) (s : State), mailRequest s k = some 1 →
      let w := getLe s.mem (mailboxAt s k + 8) 2
      (1400 ≤ w ∧ w ≤ 2200 ∧ w % 50 = 0 → ∃ t, exec (.mailboxSetTdp k) s = .next t ∧ t.tdp = BitVec.ofNat 64 w)
      ∧ (¬(1400 ≤ w ∧ w ≤ 2200 ∧ w % 50 = 0) → ∃ t, exec (.mailboxSetTdp k) s = .next t ∧ t.tdp = s.tdp
        ∧ t = mailServe s k id 2))
    ∧ (∀ (k : Nat) (s : State), mailRequest s k = some 2 → exec (.mailboxAttest k) s = .next (mailServe s k
        (fun t => sysWrite t k (mailboxAt t k + 0x88) (quote t (getBytes s.mem (mailboxAt s k + 8) 32))) 0))
    ∧ (∀ (k : Nat) (s : State), mailRequest s k = some 3 → exec (.mailboxReadMeasurements k) s = .next (mailServe s k
        (fun t => sysWrite t k (mailboxAt t k + 0x88) ((allMeasures t).take 120)) 0))
    ∧ (∀ (s : State) (k : Nat) (work : State → State) (stat : Nat), mailServe s k work stat =
        sysPut (work (sysPut s k (mailboxAt s k + 0x40) 8 0)) k (mailboxAt s k + 0x80) 8 stat)
    ∧ (∀ (b : BootReport) (s : State),
      (∀ m0 m1 m2, b.stages = [m0, m1, m2] → (∀ x ∈ b.stages, sm3 x.key = Config.fusedKey ∧
          Config.sm2Verify x.key x.sig (sm3 x.image) = true) → b.taken = false →
        ∃ t, exec (.powerOnBoot b) s = .next t ∧ t.inReset = false ∧ t.chip = b.chip ∧ t.links = b.links ∧ t.mem = s.mem
          ∧ t.core = s.core ∧ ∀ i : Fin 4, t.measure[i] = if i = 3 then s.measure[i] else
            BitVec.ofNat 256 (leNat (sm3 (natBytes 32 s.measure[i].toNat ++ sm3 (([m0, m1, m2].getD i.val m0).image)))))
      ∧ ((b.stages = [] ∨ b.taken = true ∨ ∃ x ∈ b.stages, sm3 x.key ≠ Config.fusedKey
          ∨ Config.sm2Verify x.key x.sig (sm3 x.image) = false) →
        ∃ t, exec (.powerOnBoot b) s = .next t ∧ t.inReset = true ∧ t.outMsgs = s.outMsgs ++ [Msg.bootFailure]
          ∧ t.chip = s.chip ∧ t.mem = s.mem ∧ t.core = s.core)))
end

