-- ==== Sys2Proof/Laws/Bytes.lean ====
section
/-! SUPPORT. Memory's laws: a read after a write, the canonical form kept by every update, and writes of several bytes. -/

namespace Sys2Proof.Machine

/-- Every listed address lies above n. -/
def above (m : Bytes) (n : Nat) : Bool := m.all fun c => decide (n < c.1)

@[simp] theorem wfBytes_nil : wfBytes [] = true := rfl

theorem wfBytes_cons (k : Nat) (v : Byte) (t : Bytes) :
    wfBytes ((k, v) :: t) = true ↔ v ≠ 0 ∧ above t k = true ∧ wfBytes t = true := by
  simp [wfBytes, above, and_assoc]

theorem above_mono {m : Bytes} {j k : Nat} (h : above m k = true) (hj : j ≤ k) : above m j = true := by
  simp only [above, List.all_eq_true, decide_eq_true_eq] at *
  intro c hc
  exact Nat.lt_of_le_of_lt hj (h c hc)

theorem mem_setByte {m : Bytes} {a : Nat} {b : Byte} {c : Host.Cell} (h : c ∈ setByte m a b) : c ∈ m ∨ c = (a, b) := by
  induction m with
  | nil =>
    unfold setByte at h
    split at h <;> simp_all
  | cons d t ih =>
    obtain ⟨k, v⟩ := d
    unfold setByte at h
    split at h
    · split at h
      · exact .inl h
      · rcases List.mem_cons.1 h with h | h
        · exact .inr h
        · exact .inl h
    · split at h
      · split at h
        · exact .inl (List.mem_cons_of_mem _ h)
        · rcases List.mem_cons.1 h with h | h
          · exact .inr h
          · exact .inl (List.mem_cons_of_mem _ h)
      · rcases List.mem_cons.1 h with h | h
        · exact .inl (h ▸ List.mem_cons_self)
        · exact (ih h).imp_left (List.mem_cons_of_mem _)

theorem above_setByte {m : Bytes} {n a : Nat} {b : Byte} (h : above m n = true) (ha : n < a) :
    above (setByte m a b) n = true := by
  simp only [above, List.all_eq_true, decide_eq_true_eq] at *
  intro c hc
  rcases mem_setByte hc with hc | rfl
  · exact h c hc
  · exact ha

theorem getByte_above {m : Bytes} {n a : Nat} (h : above m n = true) (ha : a ≤ n) : getByte m a = 0 := by
  cases m with
  | nil => rfl
  | cons c t =>
    obtain ⟨k, v⟩ := c
    simp only [above, List.all_cons, Bool.and_eq_true, decide_eq_true_eq] at h
    have h1 : a ≠ k := by omega
    have h2 : a < k := by omega
    simp [getByte, h1, h2]

/-- A write keeps the canonical form. -/
theorem wfBytes_setByte {m : Bytes} (h : wfBytes m = true) (a : Nat) (b : Byte) : wfBytes (setByte m a b) = true := by
  induction m with
  | nil =>
    by_cases hb : b = 0
    · rw [setByte, if_pos hb]
      rfl
    · rw [setByte, if_neg hb]
      exact (wfBytes_cons a b []).2 ⟨hb, rfl, rfl⟩
  | cons c t ih =>
    obtain ⟨k, v⟩ := c
    obtain ⟨hv, ha, ht⟩ := (wfBytes_cons k v t).1 h
    unfold setByte
    split
    · split
      · exact h
      · rename_i hlt hb
        refine (wfBytes_cons a b _).2 ⟨hb, ?_, h⟩
        simp only [above, List.all_cons, Bool.and_eq_true, decide_eq_true_eq]
        exact ⟨hlt, by simpa [above] using above_mono ha (Nat.le_of_lt hlt)⟩
    · split
      · split
        · exact ht
        · rename_i heq hb
          exact (wfBytes_cons a b t).2 ⟨hb, heq ▸ ha, ht⟩
      · rename_i h1 h2
        exact (wfBytes_cons k v _).2 ⟨hv, above_setByte ha (by omega), ih ht⟩

theorem getByte_cons_lt {k x : Nat} {v : Byte} {t : Bytes} (h : x < k) : getByte ((k, v) :: t) x = 0 := by
  have : x ≠ k := by omega
  simp [getByte, this, h]

theorem getByte_cons_self {k : Nat} {v : Byte} {t : Bytes} : getByte ((k, v) :: t) k = v := by simp [getByte]

theorem getByte_cons_gt {k x : Nat} {v : Byte} {t : Bytes} (h : k < x) : getByte ((k, v) :: t) x = getByte t x := by
  have h1 : x ≠ k := by omega
  have h2 : ¬x < k := by omega
  simp [getByte, h1, h2]

/-- A read after a write: the written byte at its address, every other byte as before. -/
theorem getByte_setByte {m : Bytes} (h : wfBytes m = true) (a : Nat) (b : Byte) (x : Nat) :
    getByte (setByte m a b) x = if x = a then b else getByte m x := by
  induction m with
  | nil =>
    by_cases hb : b = 0 <;> by_cases hx : x = a <;> simp_all [setByte, getByte]
  | cons c t ih =>
    obtain ⟨k, v⟩ := c
    obtain ⟨_, ha, ht⟩ := (wfBytes_cons k v t).1 h
    rcases Nat.lt_trichotomy a k with h1 | h1 | h1
    · by_cases hb : b = 0
      · subst hb
        have e : setByte ((k, v) :: t) a 0 = (k, v) :: t := by simp [setByte, h1]
        rw [e]
        split
        · rename_i hx
          exact getByte_cons_lt (hx ▸ h1)
        · rfl
      · have e : setByte ((k, v) :: t) a b = (a, b) :: (k, v) :: t := by
          rw [setByte, if_pos h1, if_neg hb]
        rw [e]
        rcases Nat.lt_trichotomy x a with hx | hx | hx
        · rw [getByte_cons_lt hx, if_neg (by omega), getByte_cons_lt (by omega)]
        · rw [hx, getByte_cons_self, if_pos rfl]
        · rw [getByte_cons_gt hx, if_neg (by omega)]
    · subst h1
      by_cases hb : b = 0
      · have e : setByte ((a, v) :: t) a b = t := by
          rw [setByte, if_neg (by omega), if_pos rfl, if_pos hb]
        rw [e]
        rcases Nat.lt_trichotomy x a with hx | hx | hx
        · rw [if_neg (by omega), getByte_cons_lt hx, getByte_above ha (by omega)]
        · rw [hx, if_pos rfl, getByte_above ha (Nat.le_refl a), hb]
        · rw [if_neg (by omega), getByte_cons_gt hx]
      · have e : setByte ((a, v) :: t) a b = (a, b) :: t := by
          rw [setByte, if_neg (by omega), if_pos rfl, if_neg hb]
        rw [e]
        rcases Nat.lt_trichotomy x a with hx | hx | hx
        · rw [if_neg (by omega), getByte_cons_lt hx, getByte_cons_lt hx]
        · rw [hx, if_pos rfl, getByte_cons_self]
        · rw [if_neg (by omega), getByte_cons_gt hx, getByte_cons_gt hx]
    · have e : setByte ((k, v) :: t) a b = (k, v) :: setByte t a b := by
        rw [setByte, if_neg (by omega), if_neg (by omega)]
      rw [e]
      rcases Nat.lt_trichotomy x k with hx | hx | hx
      · rw [if_neg (by omega), getByte_cons_lt hx, getByte_cons_lt hx]
      · rw [hx, if_neg (by omega), getByte_cons_self, getByte_cons_self]
      · rw [getByte_cons_gt hx, getByte_cons_gt hx, ih ht]

/-- A write of several bytes keeps the canonical form. -/
theorem wfBytes_setBytes {m : Bytes} (h : wfBytes m = true) (a : Nat) (bs : List Byte) :
    wfBytes (setBytes m a bs) = true := by
  induction bs generalizing m a with
  | nil => exact h
  | cons b t ih => exact ih (wfBytes_setByte h a b) (a + 1)

theorem wfBytes_setLe {m : Bytes} (h : wfBytes m = true) (a n v : Nat) : wfBytes (setLe m a n v) = true :=
  wfBytes_setBytes h a _

theorem above_filter {m : Bytes} {n : Nat} (p : Host.Cell → Bool) (h : above m n = true) : above (m.filter p) n = true := by
  simp only [above, List.all_eq_true, decide_eq_true_eq, List.mem_filter] at *
  exact fun c hc => h c hc.1

/-- Dropping cells keeps the canonical form. -/
theorem wfBytes_filter {m : Bytes} (p : Host.Cell → Bool) (h : wfBytes m = true) : wfBytes (m.filter p) = true := by
  induction m with
  | nil => rfl
  | cons c t ih =>
    obtain ⟨k, v⟩ := c
    obtain ⟨hv, ha, ht⟩ := (wfBytes_cons k v t).1 h
    by_cases hp : p (k, v) = true
    · rw [List.filter_cons_of_pos hp]
      exact (wfBytes_cons k v _).2 ⟨hv, above_filter p ha, ih ht⟩
    · rw [List.filter_cons_of_neg hp]
      exact ih ht

theorem wfBytes_clearBytes {m : Bytes} (h : wfBytes m = true) (lo hi : Nat) : wfBytes (clearBytes m lo hi) = true :=
  wfBytes_filter _ h

theorem wfBytes_cutBytes {m : Bytes} (h : wfBytes m = true) (lo hi : Nat) : wfBytes (cutBytes m lo hi) = true :=
  wfBytes_filter _ h

theorem wfBytes_setBit {m : Bytes} (h : wfBytes m = true) (i : Nat) (b : Bool) : wfBytes (setBit m i b) = true :=
  wfBytes_setByte h _ _

theorem wfBytes_setNibble {m : Bytes} (h : wfBytes m = true) (i : Nat) (v : BitVec 4) : wfBytes (setNibble m i v) = true :=
  wfBytes_setByte h _ _

/-- A byte outside a written run is as before. -/
theorem getByte_setBytes_out {m : Bytes} (h : wfBytes m = true) (a : Nat) (bs : List Byte) (x : Nat)
    (hx : x < a ∨ a + bs.length ≤ x) : getByte (setBytes m a bs) x = getByte m x := by
  induction bs generalizing m a with
  | nil => rfl
  | cons b t ih =>
    simp only [List.length_cons] at hx
    have h1 : x ≠ a := by omega
    rw [setBytes, ih (wfBytes_setByte h a b) (a + 1) (by omega), getByte_setByte h, if_neg h1]

/-- A byte of a written run is the byte written there. -/
theorem getByte_setBytes_in {m : Bytes} (h : wfBytes m = true) (a : Nat) (bs : List Byte) (i : Nat) (hi : i < bs.length) :
    getByte (setBytes m a bs) (a + i) = bs[i] := by
  induction bs generalizing m a i with
  | nil => simp at hi
  | cons b t ih =>
    cases i with
    | zero =>
      rw [setBytes, getByte_setBytes_out (wfBytes_setByte h a b) _ _ _ (by omega), getByte_setByte h]
      simp
    | succ j =>
      have := ih (wfBytes_setByte h a b) (a + 1) j (by simpa using hi)
      rw [setBytes, show a + (j + 1) = a + 1 + j by omega, this]
      rfl

theorem getBytes_length (m : Bytes) (a n : Nat) : (getBytes m a n).length = n := by
  induction n generalizing a with
  | zero => rfl
  | succ k ih => simp [getBytes, ih]

/-- A run read after it was written. -/
theorem getBytes_setBytes {m : Bytes} (h : wfBytes m = true) (a : Nat) (bs : List Byte) :
    getBytes (setBytes m a bs) a bs.length = bs := by
  induction bs generalizing m a with
  | nil => rfl
  | cons b t ih =>
    have h0 := getByte_setBytes_in h a (b :: t) 0 (by simp)
    simp only [Nat.add_zero] at h0
    simp only [List.length_cons, getBytes, h0]
    simpa [setBytes] using ih (wfBytes_setByte h a b) (a + 1)

theorem natBytes_length (n v : Nat) : (natBytes n v).length = n := by
  induction n generalizing v with
  | zero => rfl
  | succ k ih => simp [natBytes, ih]

theorem leNat_natBytes (n v : Nat) : leNat (natBytes n v) = v % 256 ^ n := by
  induction n generalizing v with
  | zero => simp [natBytes, leNat, Nat.mod_one]
  | succ k ih =>
    rw [natBytes, leNat, ih, Nat.pow_succ, BitVec.toNat_ofNat, Nat.mul_comm (256 ^ k) 256, Nat.mod_mul]

/-- A number read after it was written. -/
theorem getLe_setLe {m : Bytes} (h : wfBytes m = true) (a n v : Nat) : getLe (setLe m a n v) a n = v % 256 ^ n := by
  have := getBytes_setBytes h a (natBytes n v)
  rw [natBytes_length] at this
  rw [getLe, setLe, this, leNat_natBytes]

end Sys2Proof.Machine
end

