-- ==== Sys2Proof/Laws/State.lean ====
section
/-! SUPPORT. One lemma per field and update of the state: what each named update leaves as it was. -/

namespace Sys2Proof.Machine

/-! ## Replacing the live context -/

@[simp] theorem State.setCtx_cores (s : State) (c : Ctx) : (s.setCtx c).cores = s.cores := rfl
@[simp] theorem State.setCtx_mem (s : State) (c : Ctx) : (s.setCtx c).mem = s.mem := rfl
@[simp] theorem State.setCtx_ecc (s : State) (c : Ctx) : (s.setCtx c).ecc = s.ecc := rfl
@[simp] theorem State.setCtx_parts (s : State) (c : Ctx) : (s.setCtx c).parts = s.parts := rfl
@[simp] theorem State.setCtx_pcnt (s : State) (c : Ctx) : (s.setCtx c).pcnt = s.pcnt := rfl
@[simp] theorem State.setCtx_chip (s : State) (c : Ctx) : (s.setCtx c).chip = s.chip := rfl
@[simp] theorem State.setCtx_inReset (s : State) (c : Ctx) : (s.setCtx c).inReset = s.inReset := rfl
@[simp] theorem State.setCtx_tdp (s : State) (c : Ctx) : (s.setCtx c).tdp = s.tdp := rfl
@[simp] theorem State.setCtx_clock (s : State) (c : Ctx) : (s.setCtx c).clock = s.clock := rfl
@[simp] theorem State.setCtx_halted (s : State) (c : Ctx) : (s.setCtx c).halted = s.halted := rfl
@[simp] theorem State.setCtx_measure (s : State) (c : Ctx) : (s.setCtx c).measure = s.measure := rfl
@[simp] theorem State.setCtx_tcmds (s : State) (c : Ctx) : (s.setCtx c).tcmds = s.tcmds := rfl
@[simp] theorem State.setCtx_heldStores (s : State) (c : Ctx) : (s.setCtx c).heldStores = s.heldStores := rfl
@[simp] theorem State.setCtx_colls (s : State) (c : Ctx) : (s.setCtx c).colls = s.colls := rfl
@[simp] theorem State.setCtx_commonsSnap (s : State) (c : Ctx) : (s.setCtx c).commonsSnap = s.commonsSnap := rfl
@[simp] theorem State.setCtx_vault (s : State) (c : Ctx) : (s.setCtx c).vault = s.vault := rfl
@[simp] theorem State.setCtx_assayQ (s : State) (c : Ctx) : (s.setCtx c).assayQ = s.assayQ := rfl
@[simp] theorem State.setCtx_assayRecs (s : State) (c : Ctx) : (s.setCtx c).assayRecs = s.assayRecs := rfl
@[simp] theorem State.setCtx_assayRuns (s : State) (c : Ctx) : (s.setCtx c).assayRuns = s.assayRuns := rfl
@[simp] theorem State.setCtx_remapped (s : State) (c : Ctx) : (s.setCtx c).remapped = s.remapped := rfl
@[simp] theorem State.setCtx_invPort (s : State) (c : Ctx) : (s.setCtx c).invPort = s.invPort := rfl
@[simp] theorem State.setCtx_flights (s : State) (c : Ctx) : (s.setCtx c).flights = s.flights := rfl
@[simp] theorem State.setCtx_links (s : State) (c : Ctx) : (s.setCtx c).links = s.links := rfl
@[simp] theorem State.setCtx_mboxWait (s : State) (c : Ctx) : (s.setCtx c).mboxWait = s.mboxWait := rfl
@[simp] theorem State.setCtx_outMsgs (s : State) (c : Ctx) : (s.setCtx c).outMsgs = s.outMsgs := rfl
@[simp] theorem State.setCtx_agenda (s : State) (c : Ctx) : (s.setCtx c).agenda = s.agenda := rfl
@[simp] theorem State.setCtx_lag (s : State) (c : Ctx) : (s.setCtx c).lag = s.lag := rfl
@[simp] theorem State.setCtx_draws (s : State) (c : Ctx) : (s.setCtx c).draws = s.draws := rfl
@[simp] theorem State.setCtx_core_id (s : State) (c : Ctx) : (s.setCtx c).core.id = s.core.id := rfl
@[simp] theorem State.setCtx_core_priv (s : State) (c : Ctx) : (s.setCtx c).core.priv = s.core.priv := rfl
@[simp] theorem State.setCtx_core_csr (s : State) (c : Ctx) : (s.setCtx c).core.csr = s.core.csr := rfl
@[simp] theorem State.setCtx_core_mipSoft (s : State) (c : Ctx) : (s.setCtx c).core.mipSoft = s.core.mipSoft := rfl
@[simp] theorem State.setCtx_core_strand (s : State) (c : Ctx) : (s.setCtx c).core.strand = s.core.strand := rfl
@[simp] theorem State.setCtx_core_assaycap (s : State) (c : Ctx) : (s.setCtx c).core.assaycap = s.core.assaycap := rfl
@[simp] theorem State.setCtx_core_copies (s : State) (c : Ctx) : (s.setCtx c).core.copies = s.core.copies := rfl
@[simp] theorem State.setCtx_core_resv (s : State) (c : Ctx) : (s.setCtx c).core.resv = s.core.resv := rfl
@[simp] theorem State.setCtx_core_stop (s : State) (c : Ctx) : (s.setCtx c).core.stop = s.core.stop := rfl
@[simp] theorem State.setCtx_core_hwait (s : State) (c : Ctx) : (s.setCtx c).core.hwait = s.core.hwait := rfl
@[simp] theorem State.setCtx_core_migrate (s : State) (c : Ctx) : (s.setCtx c).core.migrate = s.core.migrate := rfl
@[simp] theorem State.setCtx_core_wfi (s : State) (c : Ctx) : (s.setCtx c).core.wfi = s.core.wfi := rfl
@[simp] theorem State.setCtx_core_helperOf (s : State) (c : Ctx) : (s.setCtx c).core.helperOf = s.core.helperOf := rfl
@[simp] theorem State.setCtx_core_assay (s : State) (c : Ctx) : (s.setCtx c).core.assay = s.core.assay := rfl
@[simp] theorem State.setCtx_core_icache (s : State) (c : Ctx) : (s.setCtx c).core.icache = s.core.icache := rfl
@[simp] theorem State.setCtx_core_gift (s : State) (c : Ctx) : (s.setCtx c).core.gift = s.core.gift := rfl
@[simp] theorem State.setCtx_ctx (s : State) (c : Ctx) : (s.setCtx c).core.ctx = c := rfl

/-! ## Updating the live context -/

@[simp] theorem State.mapCtx_cores (s : State) (g : Ctx → Ctx) : (s.mapCtx g).cores = s.cores := rfl
@[simp] theorem State.mapCtx_mem (s : State) (g : Ctx → Ctx) : (s.mapCtx g).mem = s.mem := rfl
@[simp] theorem State.mapCtx_ecc (s : State) (g : Ctx → Ctx) : (s.mapCtx g).ecc = s.ecc := rfl
@[simp] theorem State.mapCtx_parts (s : State) (g : Ctx → Ctx) : (s.mapCtx g).parts = s.parts := rfl
@[simp] theorem State.mapCtx_pcnt (s : State) (g : Ctx → Ctx) : (s.mapCtx g).pcnt = s.pcnt := rfl
@[simp] theorem State.mapCtx_chip (s : State) (g : Ctx → Ctx) : (s.mapCtx g).chip = s.chip := rfl
@[simp] theorem State.mapCtx_inReset (s : State) (g : Ctx → Ctx) : (s.mapCtx g).inReset = s.inReset := rfl
@[simp] theorem State.mapCtx_tdp (s : State) (g : Ctx → Ctx) : (s.mapCtx g).tdp = s.tdp := rfl
@[simp] theorem State.mapCtx_clock (s : State) (g : Ctx → Ctx) : (s.mapCtx g).clock = s.clock := rfl
@[simp] theorem State.mapCtx_halted (s : State) (g : Ctx → Ctx) : (s.mapCtx g).halted = s.halted := rfl
@[simp] theorem State.mapCtx_measure (s : State) (g : Ctx → Ctx) : (s.mapCtx g).measure = s.measure := rfl
@[simp] theorem State.mapCtx_tcmds (s : State) (g : Ctx → Ctx) : (s.mapCtx g).tcmds = s.tcmds := rfl
@[simp] theorem State.mapCtx_heldStores (s : State) (g : Ctx → Ctx) : (s.mapCtx g).heldStores = s.heldStores := rfl
@[simp] theorem State.mapCtx_colls (s : State) (g : Ctx → Ctx) : (s.mapCtx g).colls = s.colls := rfl
@[simp] theorem State.mapCtx_commonsSnap (s : State) (g : Ctx → Ctx) : (s.mapCtx g).commonsSnap = s.commonsSnap := rfl
@[simp] theorem State.mapCtx_vault (s : State) (g : Ctx → Ctx) : (s.mapCtx g).vault = s.vault := rfl
@[simp] theorem State.mapCtx_assayQ (s : State) (g : Ctx → Ctx) : (s.mapCtx g).assayQ = s.assayQ := rfl
@[simp] theorem State.mapCtx_assayRecs (s : State) (g : Ctx → Ctx) : (s.mapCtx g).assayRecs = s.assayRecs := rfl
@[simp] theorem State.mapCtx_assayRuns (s : State) (g : Ctx → Ctx) : (s.mapCtx g).assayRuns = s.assayRuns := rfl
@[simp] theorem State.mapCtx_remapped (s : State) (g : Ctx → Ctx) : (s.mapCtx g).remapped = s.remapped := rfl
@[simp] theorem State.mapCtx_invPort (s : State) (g : Ctx → Ctx) : (s.mapCtx g).invPort = s.invPort := rfl
@[simp] theorem State.mapCtx_flights (s : State) (g : Ctx → Ctx) : (s.mapCtx g).flights = s.flights := rfl
@[simp] theorem State.mapCtx_links (s : State) (g : Ctx → Ctx) : (s.mapCtx g).links = s.links := rfl
@[simp] theorem State.mapCtx_mboxWait (s : State) (g : Ctx → Ctx) : (s.mapCtx g).mboxWait = s.mboxWait := rfl
@[simp] theorem State.mapCtx_outMsgs (s : State) (g : Ctx → Ctx) : (s.mapCtx g).outMsgs = s.outMsgs := rfl
@[simp] theorem State.mapCtx_agenda (s : State) (g : Ctx → Ctx) : (s.mapCtx g).agenda = s.agenda := rfl
@[simp] theorem State.mapCtx_lag (s : State) (g : Ctx → Ctx) : (s.mapCtx g).lag = s.lag := rfl
@[simp] theorem State.mapCtx_draws (s : State) (g : Ctx → Ctx) : (s.mapCtx g).draws = s.draws := rfl
@[simp] theorem State.mapCtx_core_id (s : State) (g : Ctx → Ctx) : (s.mapCtx g).core.id = s.core.id := rfl
@[simp] theorem State.mapCtx_core_priv (s : State) (g : Ctx → Ctx) : (s.mapCtx g).core.priv = s.core.priv := rfl
@[simp] theorem State.mapCtx_core_csr (s : State) (g : Ctx → Ctx) : (s.mapCtx g).core.csr = s.core.csr := rfl
@[simp] theorem State.mapCtx_core_mipSoft (s : State) (g : Ctx → Ctx) : (s.mapCtx g).core.mipSoft = s.core.mipSoft := rfl
@[simp] theorem State.mapCtx_core_strand (s : State) (g : Ctx → Ctx) : (s.mapCtx g).core.strand = s.core.strand := rfl
@[simp] theorem State.mapCtx_core_assaycap (s : State) (g : Ctx → Ctx) : (s.mapCtx g).core.assaycap = s.core.assaycap := rfl
@[simp] theorem State.mapCtx_core_copies (s : State) (g : Ctx → Ctx) : (s.mapCtx g).core.copies = s.core.copies := rfl
@[simp] theorem State.mapCtx_core_resv (s : State) (g : Ctx → Ctx) : (s.mapCtx g).core.resv = s.core.resv := rfl
@[simp] theorem State.mapCtx_core_stop (s : State) (g : Ctx → Ctx) : (s.mapCtx g).core.stop = s.core.stop := rfl
@[simp] theorem State.mapCtx_core_hwait (s : State) (g : Ctx → Ctx) : (s.mapCtx g).core.hwait = s.core.hwait := rfl
@[simp] theorem State.mapCtx_core_migrate (s : State) (g : Ctx → Ctx) : (s.mapCtx g).core.migrate = s.core.migrate := rfl
@[simp] theorem State.mapCtx_core_wfi (s : State) (g : Ctx → Ctx) : (s.mapCtx g).core.wfi = s.core.wfi := rfl
@[simp] theorem State.mapCtx_core_helperOf (s : State) (g : Ctx → Ctx) : (s.mapCtx g).core.helperOf = s.core.helperOf := rfl
@[simp] theorem State.mapCtx_core_assay (s : State) (g : Ctx → Ctx) : (s.mapCtx g).core.assay = s.core.assay := rfl
@[simp] theorem State.mapCtx_core_icache (s : State) (g : Ctx → Ctx) : (s.mapCtx g).core.icache = s.core.icache := rfl
@[simp] theorem State.mapCtx_core_gift (s : State) (g : Ctx → Ctx) : (s.mapCtx g).core.gift = s.core.gift := rfl
@[simp] theorem State.mapCtx_ctx (s : State) (g : Ctx → Ctx) : (s.mapCtx g).core.ctx = g s.core.ctx := rfl

/-! ## Updating the user CSRs -/

@[simp] theorem State.mapU_cores (s : State) (g : UCsr → UCsr) : (s.mapU g).cores = s.cores := rfl
@[simp] theorem State.mapU_mem (s : State) (g : UCsr → UCsr) : (s.mapU g).mem = s.mem := rfl
@[simp] theorem State.mapU_ecc (s : State) (g : UCsr → UCsr) : (s.mapU g).ecc = s.ecc := rfl
@[simp] theorem State.mapU_parts (s : State) (g : UCsr → UCsr) : (s.mapU g).parts = s.parts := rfl
@[simp] theorem State.mapU_pcnt (s : State) (g : UCsr → UCsr) : (s.mapU g).pcnt = s.pcnt := rfl
@[simp] theorem State.mapU_chip (s : State) (g : UCsr → UCsr) : (s.mapU g).chip = s.chip := rfl
@[simp] theorem State.mapU_inReset (s : State) (g : UCsr → UCsr) : (s.mapU g).inReset = s.inReset := rfl
@[simp] theorem State.mapU_tdp (s : State) (g : UCsr → UCsr) : (s.mapU g).tdp = s.tdp := rfl
@[simp] theorem State.mapU_clock (s : State) (g : UCsr → UCsr) : (s.mapU g).clock = s.clock := rfl
@[simp] theorem State.mapU_halted (s : State) (g : UCsr → UCsr) : (s.mapU g).halted = s.halted := rfl
@[simp] theorem State.mapU_measure (s : State) (g : UCsr → UCsr) : (s.mapU g).measure = s.measure := rfl
@[simp] theorem State.mapU_tcmds (s : State) (g : UCsr → UCsr) : (s.mapU g).tcmds = s.tcmds := rfl
@[simp] theorem State.mapU_heldStores (s : State) (g : UCsr → UCsr) : (s.mapU g).heldStores = s.heldStores := rfl
@[simp] theorem State.mapU_colls (s : State) (g : UCsr → UCsr) : (s.mapU g).colls = s.colls := rfl
@[simp] theorem State.mapU_commonsSnap (s : State) (g : UCsr → UCsr) : (s.mapU g).commonsSnap = s.commonsSnap := rfl
@[simp] theorem State.mapU_vault (s : State) (g : UCsr → UCsr) : (s.mapU g).vault = s.vault := rfl
@[simp] theorem State.mapU_assayQ (s : State) (g : UCsr → UCsr) : (s.mapU g).assayQ = s.assayQ := rfl
@[simp] theorem State.mapU_assayRecs (s : State) (g : UCsr → UCsr) : (s.mapU g).assayRecs = s.assayRecs := rfl
@[simp] theorem State.mapU_assayRuns (s : State) (g : UCsr → UCsr) : (s.mapU g).assayRuns = s.assayRuns := rfl
@[simp] theorem State.mapU_remapped (s : State) (g : UCsr → UCsr) : (s.mapU g).remapped = s.remapped := rfl
@[simp] theorem State.mapU_invPort (s : State) (g : UCsr → UCsr) : (s.mapU g).invPort = s.invPort := rfl
@[simp] theorem State.mapU_flights (s : State) (g : UCsr → UCsr) : (s.mapU g).flights = s.flights := rfl
@[simp] theorem State.mapU_links (s : State) (g : UCsr → UCsr) : (s.mapU g).links = s.links := rfl
@[simp] theorem State.mapU_mboxWait (s : State) (g : UCsr → UCsr) : (s.mapU g).mboxWait = s.mboxWait := rfl
@[simp] theorem State.mapU_outMsgs (s : State) (g : UCsr → UCsr) : (s.mapU g).outMsgs = s.outMsgs := rfl
@[simp] theorem State.mapU_agenda (s : State) (g : UCsr → UCsr) : (s.mapU g).agenda = s.agenda := rfl
@[simp] theorem State.mapU_lag (s : State) (g : UCsr → UCsr) : (s.mapU g).lag = s.lag := rfl
@[simp] theorem State.mapU_draws (s : State) (g : UCsr → UCsr) : (s.mapU g).draws = s.draws := rfl
@[simp] theorem State.mapU_core_id (s : State) (g : UCsr → UCsr) : (s.mapU g).core.id = s.core.id := rfl
@[simp] theorem State.mapU_core_priv (s : State) (g : UCsr → UCsr) : (s.mapU g).core.priv = s.core.priv := rfl
@[simp] theorem State.mapU_core_csr (s : State) (g : UCsr → UCsr) : (s.mapU g).core.csr = s.core.csr := rfl
@[simp] theorem State.mapU_core_mipSoft (s : State) (g : UCsr → UCsr) : (s.mapU g).core.mipSoft = s.core.mipSoft := rfl
@[simp] theorem State.mapU_core_strand (s : State) (g : UCsr → UCsr) : (s.mapU g).core.strand = s.core.strand := rfl
@[simp] theorem State.mapU_core_assaycap (s : State) (g : UCsr → UCsr) : (s.mapU g).core.assaycap = s.core.assaycap := rfl
@[simp] theorem State.mapU_core_copies (s : State) (g : UCsr → UCsr) : (s.mapU g).core.copies = s.core.copies := rfl
@[simp] theorem State.mapU_core_resv (s : State) (g : UCsr → UCsr) : (s.mapU g).core.resv = s.core.resv := rfl
@[simp] theorem State.mapU_core_stop (s : State) (g : UCsr → UCsr) : (s.mapU g).core.stop = s.core.stop := rfl
@[simp] theorem State.mapU_core_hwait (s : State) (g : UCsr → UCsr) : (s.mapU g).core.hwait = s.core.hwait := rfl
@[simp] theorem State.mapU_core_migrate (s : State) (g : UCsr → UCsr) : (s.mapU g).core.migrate = s.core.migrate := rfl
@[simp] theorem State.mapU_core_wfi (s : State) (g : UCsr → UCsr) : (s.mapU g).core.wfi = s.core.wfi := rfl
@[simp] theorem State.mapU_core_helperOf (s : State) (g : UCsr → UCsr) : (s.mapU g).core.helperOf = s.core.helperOf := rfl
@[simp] theorem State.mapU_core_assay (s : State) (g : UCsr → UCsr) : (s.mapU g).core.assay = s.core.assay := rfl
@[simp] theorem State.mapU_core_icache (s : State) (g : UCsr → UCsr) : (s.mapU g).core.icache = s.core.icache := rfl
@[simp] theorem State.mapU_core_gift (s : State) (g : UCsr → UCsr) : (s.mapU g).core.gift = s.core.gift := rfl
@[simp] theorem State.mapU_ctx_x (s : State) (g : UCsr → UCsr) : (s.mapU g).core.ctx.x = s.core.ctx.x := rfl
@[simp] theorem State.mapU_ctx_pc (s : State) (g : UCsr → UCsr) : (s.mapU g).core.ctx.pc = s.core.ctx.pc := rfl
@[simp] theorem State.mapU_ctx_v (s : State) (g : UCsr → UCsr) : (s.mapU g).core.ctx.v = s.core.ctx.v := rfl
@[simp] theorem State.mapU_ctx_m (s : State) (g : UCsr → UCsr) : (s.mapU g).core.ctx.m = s.core.ctx.m := rfl
@[simp] theorem State.mapU_ctx_q (s : State) (g : UCsr → UCsr) : (s.mapU g).core.ctx.q = s.core.ctx.q := rfl
@[simp] theorem State.mapU_ctx_slots (s : State) (g : UCsr → UCsr) : (s.mapU g).core.ctx.slots = s.core.ctx.slots := rfl
@[simp] theorem State.mapU_ctx_pool (s : State) (g : UCsr → UCsr) : (s.mapU g).core.ctx.pool = s.core.ctx.pool := rfl
@[simp] theorem State.mapU_ctx_accw (s : State) (g : UCsr → UCsr) : (s.mapU g).core.ctx.accw = s.core.ctx.accw := rfl
@[simp] theorem State.mapU_ctx_pocket (s : State) (g : UCsr → UCsr) : (s.mapU g).core.ctx.pocket = s.core.ctx.pocket := rfl
@[simp] theorem State.mapU_ctx_pocb (s : State) (g : UCsr → UCsr) : (s.mapU g).core.ctx.pocb = s.core.ctx.pocb := rfl
@[simp] theorem State.mapU_ctx_loops (s : State) (g : UCsr → UCsr) : (s.mapU g).core.ctx.loops = s.core.ctx.loops := rfl
@[simp] theorem State.mapU_ctx_sr (s : State) (g : UCsr → UCsr) : (s.mapU g).core.ctx.sr = s.core.ctx.sr := rfl
@[simp] theorem State.mapU_ctx_atab (s : State) (g : UCsr → UCsr) : (s.mapU g).core.ctx.atab = s.core.ctx.atab := rfl
@[simp] theorem State.mapU_ctx_vlProv (s : State) (g : UCsr → UCsr) : (s.mapU g).core.ctx.vlProv = s.core.ctx.vlProv := rfl
@[simp] theorem State.mapU_ctx_nc (s : State) (g : UCsr → UCsr) : (s.mapU g).core.ctx.nc = s.core.ctx.nc := rfl
@[simp] theorem State.mapU_ctx_gc (s : State) (g : UCsr → UCsr) : (s.mapU g).core.ctx.gc = s.core.ctx.gc := rfl
@[simp] theorem State.mapU_ctx_cycle (s : State) (g : UCsr → UCsr) : (s.mapU g).core.ctx.cycle = s.core.ctx.cycle := rfl
@[simp] theorem State.mapU_ctx_instret (s : State) (g : UCsr → UCsr) : (s.mapU g).core.ctx.instret = s.core.ctx.instret := rfl
@[simp] theorem State.mapU_ctx_viq (s : State) (g : UCsr → UCsr) : (s.mapU g).core.ctx.viq = s.core.ctx.viq := rfl
@[simp] theorem State.mapU_ctx_viqNext (s : State) (g : UCsr → UCsr) : (s.mapU g).core.ctx.viqNext = s.core.ctx.viqNext := rfl
@[simp] theorem State.mapU_ctx_srq (s : State) (g : UCsr → UCsr) : (s.mapU g).core.ctx.srq = s.core.ctx.srq := rfl
@[simp] theorem State.mapU_ctx_cable (s : State) (g : UCsr → UCsr) : (s.mapU g).core.ctx.cable = s.core.ctx.cable := rfl
@[simp] theorem State.mapU_ctx_cableSusp (s : State) (g : UCsr → UCsr) : (s.mapU g).core.ctx.cableSusp = s.core.ctx.cableSusp := rfl
@[simp] theorem State.mapU_ctx_vfault (s : State) (g : UCsr → UCsr) : (s.mapU g).core.ctx.vfault = s.core.ctx.vfault := rfl
@[simp] theorem State.mapU_ctx_cpyPoison (s : State) (g : UCsr → UCsr) : (s.mapU g).core.ctx.cpyPoison = s.core.ctx.cpyPoison := rfl
@[simp] theorem State.mapU_ctx_overdraft (s : State) (g : UCsr → UCsr) : (s.mapU g).core.ctx.overdraft = s.core.ctx.overdraft := rfl
@[simp] theorem State.mapU_ctx_rbEntry (s : State) (g : UCsr → UCsr) : (s.mapU g).core.ctx.rbEntry = s.core.ctx.rbEntry := rfl
@[simp] theorem State.mapU_ctx_esc (s : State) (g : UCsr → UCsr) : (s.mapU g).core.ctx.esc = s.core.ctx.esc := rfl
@[simp] theorem State.mapU_ctx_escLast (s : State) (g : UCsr → UCsr) : (s.mapU g).core.ctx.escLast = s.core.ctx.escLast := rfl
@[simp] theorem State.mapU_ctx_dcache (s : State) (g : UCsr → UCsr) : (s.mapU g).core.ctx.dcache = s.core.ctx.dcache := rfl
@[simp] theorem State.mapU_ctx_pocketEcc (s : State) (g : UCsr → UCsr) : (s.mapU g).core.ctx.pocketEcc = s.core.ctx.pocketEcc := rfl
@[simp] theorem State.mapU_ctx_barrier (s : State) (g : UCsr → UCsr) : (s.mapU g).core.ctx.barrier = s.core.ctx.barrier := rfl
@[simp] theorem State.mapU_ctx_snapGen (s : State) (g : UCsr → UCsr) : (s.mapU g).core.ctx.snapGen = s.core.ctx.snapGen := rfl
@[simp] theorem State.mapU_ctx_snapCol (s : State) (g : UCsr → UCsr) : (s.mapU g).core.ctx.snapCol = s.core.ctx.snapCol := rfl
@[simp] theorem State.mapU_ctx_strandid (s : State) (g : UCsr → UCsr) : (s.mapU g).core.ctx.strandid = s.core.ctx.strandid := rfl
@[simp] theorem State.mapU_ctx_usemask (s : State) (g : UCsr → UCsr) : (s.mapU g).core.ctx.usemask = s.core.ctx.usemask := rfl
@[simp] theorem State.mapU_ctx_barGen (s : State) (g : UCsr → UCsr) : (s.mapU g).core.ctx.barGen = s.core.ctx.barGen := rfl
@[simp] theorem State.mapU_ctx_atPoint (s : State) (g : UCsr → UCsr) : (s.mapU g).core.ctx.atPoint = s.core.ctx.atPoint := rfl
@[simp] theorem State.mapU_u (s : State) (g : UCsr → UCsr) : (s.mapU g).core.ctx.u = g s.core.ctx.u := rfl

/-! ## Updating a partition -/

@[simp] theorem State.mapPart_core (s : State) (k : Nat) (g : Partition → Partition) : (s.mapPart k g).core = s.core := rfl
@[simp] theorem State.mapPart_cores (s : State) (k : Nat) (g : Partition → Partition) : (s.mapPart k g).cores = s.cores := rfl
@[simp] theorem State.mapPart_mem (s : State) (k : Nat) (g : Partition → Partition) : (s.mapPart k g).mem = s.mem := rfl
@[simp] theorem State.mapPart_ecc (s : State) (k : Nat) (g : Partition → Partition) : (s.mapPart k g).ecc = s.ecc := rfl
@[simp] theorem State.mapPart_pcnt (s : State) (k : Nat) (g : Partition → Partition) : (s.mapPart k g).pcnt = s.pcnt := rfl
@[simp] theorem State.mapPart_chip (s : State) (k : Nat) (g : Partition → Partition) : (s.mapPart k g).chip = s.chip := rfl
@[simp] theorem State.mapPart_inReset (s : State) (k : Nat) (g : Partition → Partition) : (s.mapPart k g).inReset = s.inReset := rfl
@[simp] theorem State.mapPart_tdp (s : State) (k : Nat) (g : Partition → Partition) : (s.mapPart k g).tdp = s.tdp := rfl
@[simp] theorem State.mapPart_clock (s : State) (k : Nat) (g : Partition → Partition) : (s.mapPart k g).clock = s.clock := rfl
@[simp] theorem State.mapPart_halted (s : State) (k : Nat) (g : Partition → Partition) : (s.mapPart k g).halted = s.halted := rfl
@[simp] theorem State.mapPart_measure (s : State) (k : Nat) (g : Partition → Partition) : (s.mapPart k g).measure = s.measure := rfl
@[simp] theorem State.mapPart_tcmds (s : State) (k : Nat) (g : Partition → Partition) : (s.mapPart k g).tcmds = s.tcmds := rfl
@[simp] theorem State.mapPart_heldStores (s : State) (k : Nat) (g : Partition → Partition) : (s.mapPart k g).heldStores = s.heldStores := rfl
@[simp] theorem State.mapPart_colls (s : State) (k : Nat) (g : Partition → Partition) : (s.mapPart k g).colls = s.colls := rfl
@[simp] theorem State.mapPart_commonsSnap (s : State) (k : Nat) (g : Partition → Partition) : (s.mapPart k g).commonsSnap = s.commonsSnap := rfl
@[simp] theorem State.mapPart_vault (s : State) (k : Nat) (g : Partition → Partition) : (s.mapPart k g).vault = s.vault := rfl
@[simp] theorem State.mapPart_assayQ (s : State) (k : Nat) (g : Partition → Partition) : (s.mapPart k g).assayQ = s.assayQ := rfl
@[simp] theorem State.mapPart_assayRecs (s : State) (k : Nat) (g : Partition → Partition) : (s.mapPart k g).assayRecs = s.assayRecs := rfl
@[simp] theorem State.mapPart_assayRuns (s : State) (k : Nat) (g : Partition → Partition) : (s.mapPart k g).assayRuns = s.assayRuns := rfl
@[simp] theorem State.mapPart_remapped (s : State) (k : Nat) (g : Partition → Partition) : (s.mapPart k g).remapped = s.remapped := rfl
@[simp] theorem State.mapPart_invPort (s : State) (k : Nat) (g : Partition → Partition) : (s.mapPart k g).invPort = s.invPort := rfl
@[simp] theorem State.mapPart_flights (s : State) (k : Nat) (g : Partition → Partition) : (s.mapPart k g).flights = s.flights := rfl
@[simp] theorem State.mapPart_links (s : State) (k : Nat) (g : Partition → Partition) : (s.mapPart k g).links = s.links := rfl
@[simp] theorem State.mapPart_mboxWait (s : State) (k : Nat) (g : Partition → Partition) : (s.mapPart k g).mboxWait = s.mboxWait := rfl
@[simp] theorem State.mapPart_outMsgs (s : State) (k : Nat) (g : Partition → Partition) : (s.mapPart k g).outMsgs = s.outMsgs := rfl
@[simp] theorem State.mapPart_agenda (s : State) (k : Nat) (g : Partition → Partition) : (s.mapPart k g).agenda = s.agenda := rfl
@[simp] theorem State.mapPart_lag (s : State) (k : Nat) (g : Partition → Partition) : (s.mapPart k g).lag = s.lag := rfl
@[simp] theorem State.mapPart_draws (s : State) (k : Nat) (g : Partition → Partition) : (s.mapPart k g).draws = s.draws := rfl
@[simp] theorem State.mapPart_parts (s : State) (k : Nat) (g : Partition → Partition) : (s.mapPart k g).parts = setAt s.parts k (g (s.part k)) := rfl

/-! ## Writing a scalar register -/

@[simp] theorem Ctx.setX_pc (c : Ctx) (r : XReg) (v : Word) : (c.setX r v).pc = c.pc := by
  unfold Ctx.setX; split <;> rfl
@[simp] theorem Ctx.setX_v (c : Ctx) (r : XReg) (v : Word) : (c.setX r v).v = c.v := by
  unfold Ctx.setX; split <;> rfl
@[simp] theorem Ctx.setX_m (c : Ctx) (r : XReg) (v : Word) : (c.setX r v).m = c.m := by
  unfold Ctx.setX; split <;> rfl
@[simp] theorem Ctx.setX_q (c : Ctx) (r : XReg) (v : Word) : (c.setX r v).q = c.q := by
  unfold Ctx.setX; split <;> rfl
@[simp] theorem Ctx.setX_slots (c : Ctx) (r : XReg) (v : Word) : (c.setX r v).slots = c.slots := by
  unfold Ctx.setX; split <;> rfl
@[simp] theorem Ctx.setX_pool (c : Ctx) (r : XReg) (v : Word) : (c.setX r v).pool = c.pool := by
  unfold Ctx.setX; split <;> rfl
@[simp] theorem Ctx.setX_accw (c : Ctx) (r : XReg) (v : Word) : (c.setX r v).accw = c.accw := by
  unfold Ctx.setX; split <;> rfl
@[simp] theorem Ctx.setX_pocket (c : Ctx) (r : XReg) (v : Word) : (c.setX r v).pocket = c.pocket := by
  unfold Ctx.setX; split <;> rfl
@[simp] theorem Ctx.setX_pocb (c : Ctx) (r : XReg) (v : Word) : (c.setX r v).pocb = c.pocb := by
  unfold Ctx.setX; split <;> rfl
@[simp] theorem Ctx.setX_loops (c : Ctx) (r : XReg) (v : Word) : (c.setX r v).loops = c.loops := by
  unfold Ctx.setX; split <;> rfl
@[simp] theorem Ctx.setX_sr (c : Ctx) (r : XReg) (v : Word) : (c.setX r v).sr = c.sr := by
  unfold Ctx.setX; split <;> rfl
@[simp] theorem Ctx.setX_atab (c : Ctx) (r : XReg) (v : Word) : (c.setX r v).atab = c.atab := by
  unfold Ctx.setX; split <;> rfl
@[simp] theorem Ctx.setX_u (c : Ctx) (r : XReg) (v : Word) : (c.setX r v).u = c.u := by
  unfold Ctx.setX; split <;> rfl
@[simp] theorem Ctx.setX_vlProv (c : Ctx) (r : XReg) (v : Word) : (c.setX r v).vlProv = c.vlProv := by
  unfold Ctx.setX; split <;> rfl
@[simp] theorem Ctx.setX_nc (c : Ctx) (r : XReg) (v : Word) : (c.setX r v).nc = c.nc := by
  unfold Ctx.setX; split <;> rfl
@[simp] theorem Ctx.setX_gc (c : Ctx) (r : XReg) (v : Word) : (c.setX r v).gc = c.gc := by
  unfold Ctx.setX; split <;> rfl
@[simp] theorem Ctx.setX_cycle (c : Ctx) (r : XReg) (v : Word) : (c.setX r v).cycle = c.cycle := by
  unfold Ctx.setX; split <;> rfl
@[simp] theorem Ctx.setX_instret (c : Ctx) (r : XReg) (v : Word) : (c.setX r v).instret = c.instret := by
  unfold Ctx.setX; split <;> rfl
@[simp] theorem Ctx.setX_viq (c : Ctx) (r : XReg) (v : Word) : (c.setX r v).viq = c.viq := by
  unfold Ctx.setX; split <;> rfl
@[simp] theorem Ctx.setX_viqNext (c : Ctx) (r : XReg) (v : Word) : (c.setX r v).viqNext = c.viqNext := by
  unfold Ctx.setX; split <;> rfl
@[simp] theorem Ctx.setX_srq (c : Ctx) (r : XReg) (v : Word) : (c.setX r v).srq = c.srq := by
  unfold Ctx.setX; split <;> rfl
@[simp] theorem Ctx.setX_cable (c : Ctx) (r : XReg) (v : Word) : (c.setX r v).cable = c.cable := by
  unfold Ctx.setX; split <;> rfl
@[simp] theorem Ctx.setX_cableSusp (c : Ctx) (r : XReg) (v : Word) : (c.setX r v).cableSusp = c.cableSusp := by
  unfold Ctx.setX; split <;> rfl
@[simp] theorem Ctx.setX_vfault (c : Ctx) (r : XReg) (v : Word) : (c.setX r v).vfault = c.vfault := by
  unfold Ctx.setX; split <;> rfl
@[simp] theorem Ctx.setX_cpyPoison (c : Ctx) (r : XReg) (v : Word) : (c.setX r v).cpyPoison = c.cpyPoison := by
  unfold Ctx.setX; split <;> rfl
@[simp] theorem Ctx.setX_overdraft (c : Ctx) (r : XReg) (v : Word) : (c.setX r v).overdraft = c.overdraft := by
  unfold Ctx.setX; split <;> rfl
@[simp] theorem Ctx.setX_rbEntry (c : Ctx) (r : XReg) (v : Word) : (c.setX r v).rbEntry = c.rbEntry := by
  unfold Ctx.setX; split <;> rfl
@[simp] theorem Ctx.setX_esc (c : Ctx) (r : XReg) (v : Word) : (c.setX r v).esc = c.esc := by
  unfold Ctx.setX; split <;> rfl
@[simp] theorem Ctx.setX_escLast (c : Ctx) (r : XReg) (v : Word) : (c.setX r v).escLast = c.escLast := by
  unfold Ctx.setX; split <;> rfl
@[simp] theorem Ctx.setX_dcache (c : Ctx) (r : XReg) (v : Word) : (c.setX r v).dcache = c.dcache := by
  unfold Ctx.setX; split <;> rfl
@[simp] theorem Ctx.setX_pocketEcc (c : Ctx) (r : XReg) (v : Word) : (c.setX r v).pocketEcc = c.pocketEcc := by
  unfold Ctx.setX; split <;> rfl
@[simp] theorem Ctx.setX_barrier (c : Ctx) (r : XReg) (v : Word) : (c.setX r v).barrier = c.barrier := by
  unfold Ctx.setX; split <;> rfl
@[simp] theorem Ctx.setX_snapGen (c : Ctx) (r : XReg) (v : Word) : (c.setX r v).snapGen = c.snapGen := by
  unfold Ctx.setX; split <;> rfl
@[simp] theorem Ctx.setX_snapCol (c : Ctx) (r : XReg) (v : Word) : (c.setX r v).snapCol = c.snapCol := by
  unfold Ctx.setX; split <;> rfl
@[simp] theorem Ctx.setX_strandid (c : Ctx) (r : XReg) (v : Word) : (c.setX r v).strandid = c.strandid := by
  unfold Ctx.setX; split <;> rfl
@[simp] theorem Ctx.setX_usemask (c : Ctx) (r : XReg) (v : Word) : (c.setX r v).usemask = c.usemask := by
  unfold Ctx.setX; split <;> rfl
@[simp] theorem Ctx.setX_barGen (c : Ctx) (r : XReg) (v : Word) : (c.setX r v).barGen = c.barGen := by
  unfold Ctx.setX; split <;> rfl
@[simp] theorem Ctx.setX_atPoint (c : Ctx) (r : XReg) (v : Word) : (c.setX r v).atPoint = c.atPoint := by
  unfold Ctx.setX; split <;> rfl
@[simp] theorem State.setX_cores (s : State) (r : XReg) (v : Word) : (s.setX r v).cores = s.cores := rfl
@[simp] theorem State.setX_mem (s : State) (r : XReg) (v : Word) : (s.setX r v).mem = s.mem := rfl
@[simp] theorem State.setX_ecc (s : State) (r : XReg) (v : Word) : (s.setX r v).ecc = s.ecc := rfl
@[simp] theorem State.setX_parts (s : State) (r : XReg) (v : Word) : (s.setX r v).parts = s.parts := rfl
@[simp] theorem State.setX_pcnt (s : State) (r : XReg) (v : Word) : (s.setX r v).pcnt = s.pcnt := rfl
@[simp] theorem State.setX_chip (s : State) (r : XReg) (v : Word) : (s.setX r v).chip = s.chip := rfl
@[simp] theorem State.setX_inReset (s : State) (r : XReg) (v : Word) : (s.setX r v).inReset = s.inReset := rfl
@[simp] theorem State.setX_tdp (s : State) (r : XReg) (v : Word) : (s.setX r v).tdp = s.tdp := rfl
@[simp] theorem State.setX_clock (s : State) (r : XReg) (v : Word) : (s.setX r v).clock = s.clock := rfl
@[simp] theorem State.setX_halted (s : State) (r : XReg) (v : Word) : (s.setX r v).halted = s.halted := rfl
@[simp] theorem State.setX_measure (s : State) (r : XReg) (v : Word) : (s.setX r v).measure = s.measure := rfl
@[simp] theorem State.setX_tcmds (s : State) (r : XReg) (v : Word) : (s.setX r v).tcmds = s.tcmds := rfl
@[simp] theorem State.setX_heldStores (s : State) (r : XReg) (v : Word) : (s.setX r v).heldStores = s.heldStores := rfl
@[simp] theorem State.setX_colls (s : State) (r : XReg) (v : Word) : (s.setX r v).colls = s.colls := rfl
@[simp] theorem State.setX_commonsSnap (s : State) (r : XReg) (v : Word) : (s.setX r v).commonsSnap = s.commonsSnap := rfl
@[simp] theorem State.setX_vault (s : State) (r : XReg) (v : Word) : (s.setX r v).vault = s.vault := rfl
@[simp] theorem State.setX_assayQ (s : State) (r : XReg) (v : Word) : (s.setX r v).assayQ = s.assayQ := rfl
@[simp] theorem State.setX_assayRecs (s : State) (r : XReg) (v : Word) : (s.setX r v).assayRecs = s.assayRecs := rfl
@[simp] theorem State.setX_assayRuns (s : State) (r : XReg) (v : Word) : (s.setX r v).assayRuns = s.assayRuns := rfl
@[simp] theorem State.setX_remapped (s : State) (r : XReg) (v : Word) : (s.setX r v).remapped = s.remapped := rfl
@[simp] theorem State.setX_invPort (s : State) (r : XReg) (v : Word) : (s.setX r v).invPort = s.invPort := rfl
@[simp] theorem State.setX_flights (s : State) (r : XReg) (v : Word) : (s.setX r v).flights = s.flights := rfl
@[simp] theorem State.setX_links (s : State) (r : XReg) (v : Word) : (s.setX r v).links = s.links := rfl
@[simp] theorem State.setX_mboxWait (s : State) (r : XReg) (v : Word) : (s.setX r v).mboxWait = s.mboxWait := rfl
@[simp] theorem State.setX_outMsgs (s : State) (r : XReg) (v : Word) : (s.setX r v).outMsgs = s.outMsgs := rfl
@[simp] theorem State.setX_agenda (s : State) (r : XReg) (v : Word) : (s.setX r v).agenda = s.agenda := rfl
@[simp] theorem State.setX_lag (s : State) (r : XReg) (v : Word) : (s.setX r v).lag = s.lag := rfl
@[simp] theorem State.setX_draws (s : State) (r : XReg) (v : Word) : (s.setX r v).draws = s.draws := rfl
@[simp] theorem State.setX_core_id (s : State) (r : XReg) (v : Word) : (s.setX r v).core.id = s.core.id := rfl
@[simp] theorem State.setX_core_priv (s : State) (r : XReg) (v : Word) : (s.setX r v).core.priv = s.core.priv := rfl
@[simp] theorem State.setX_core_csr (s : State) (r : XReg) (v : Word) : (s.setX r v).core.csr = s.core.csr := rfl
@[simp] theorem State.setX_core_mipSoft (s : State) (r : XReg) (v : Word) : (s.setX r v).core.mipSoft = s.core.mipSoft := rfl
@[simp] theorem State.setX_core_strand (s : State) (r : XReg) (v : Word) : (s.setX r v).core.strand = s.core.strand := rfl
@[simp] theorem State.setX_core_assaycap (s : State) (r : XReg) (v : Word) : (s.setX r v).core.assaycap = s.core.assaycap := rfl
@[simp] theorem State.setX_core_copies (s : State) (r : XReg) (v : Word) : (s.setX r v).core.copies = s.core.copies := rfl
@[simp] theorem State.setX_core_resv (s : State) (r : XReg) (v : Word) : (s.setX r v).core.resv = s.core.resv := rfl
@[simp] theorem State.setX_core_stop (s : State) (r : XReg) (v : Word) : (s.setX r v).core.stop = s.core.stop := rfl
@[simp] theorem State.setX_core_hwait (s : State) (r : XReg) (v : Word) : (s.setX r v).core.hwait = s.core.hwait := rfl
@[simp] theorem State.setX_core_migrate (s : State) (r : XReg) (v : Word) : (s.setX r v).core.migrate = s.core.migrate := rfl
@[simp] theorem State.setX_core_wfi (s : State) (r : XReg) (v : Word) : (s.setX r v).core.wfi = s.core.wfi := rfl
@[simp] theorem State.setX_core_helperOf (s : State) (r : XReg) (v : Word) : (s.setX r v).core.helperOf = s.core.helperOf := rfl
@[simp] theorem State.setX_core_assay (s : State) (r : XReg) (v : Word) : (s.setX r v).core.assay = s.core.assay := rfl
@[simp] theorem State.setX_core_icache (s : State) (r : XReg) (v : Word) : (s.setX r v).core.icache = s.core.icache := rfl
@[simp] theorem State.setX_core_gift (s : State) (r : XReg) (v : Word) : (s.setX r v).core.gift = s.core.gift := rfl
@[simp] theorem State.setX_ctx (s : State) (r : XReg) (v : Word) : (s.setX r v).core.ctx = s.core.ctx.setX r v := rfl

/-! ## Retiring an instruction -/

@[simp] theorem Ctx.countRetired_x (c : Ctx) : c.countRetired.x = c.x := by unfold Ctx.countRetired; split <;> rfl
@[simp] theorem Ctx.countRetired_pc (c : Ctx) : c.countRetired.pc = c.pc := by unfold Ctx.countRetired; split <;> rfl
@[simp] theorem Ctx.countRetired_v (c : Ctx) : c.countRetired.v = c.v := by unfold Ctx.countRetired; split <;> rfl
@[simp] theorem Ctx.countRetired_m (c : Ctx) : c.countRetired.m = c.m := by unfold Ctx.countRetired; split <;> rfl
@[simp] theorem Ctx.countRetired_q (c : Ctx) : c.countRetired.q = c.q := by unfold Ctx.countRetired; split <;> rfl
@[simp] theorem Ctx.countRetired_slots (c : Ctx) : c.countRetired.slots = c.slots := by unfold Ctx.countRetired; split <;> rfl
@[simp] theorem Ctx.countRetired_pool (c : Ctx) : c.countRetired.pool = c.pool := by unfold Ctx.countRetired; split <;> rfl
@[simp] theorem Ctx.countRetired_accw (c : Ctx) : c.countRetired.accw = c.accw := by unfold Ctx.countRetired; split <;> rfl
@[simp] theorem Ctx.countRetired_pocket (c : Ctx) : c.countRetired.pocket = c.pocket := by unfold Ctx.countRetired; split <;> rfl
@[simp] theorem Ctx.countRetired_pocketEcc (c : Ctx) : c.countRetired.pocketEcc = c.pocketEcc := by unfold Ctx.countRetired; split <;> rfl
@[simp] theorem Ctx.countRetired_pocb (c : Ctx) : c.countRetired.pocb = c.pocb := by unfold Ctx.countRetired; split <;> rfl
@[simp] theorem Ctx.countRetired_loops (c : Ctx) : c.countRetired.loops = c.loops := by unfold Ctx.countRetired; split <;> rfl
@[simp] theorem Ctx.countRetired_sr (c : Ctx) : c.countRetired.sr = c.sr := by unfold Ctx.countRetired; split <;> rfl
@[simp] theorem Ctx.countRetired_atab (c : Ctx) : c.countRetired.atab = c.atab := by unfold Ctx.countRetired; split <;> rfl
@[simp] theorem Ctx.countRetired_u (c : Ctx) : c.countRetired.u = c.u := by unfold Ctx.countRetired; split <;> rfl
@[simp] theorem Ctx.countRetired_vlProv (c : Ctx) : c.countRetired.vlProv = c.vlProv := by unfold Ctx.countRetired; split <;> rfl
@[simp] theorem Ctx.countRetired_nc (c : Ctx) : c.countRetired.nc = c.nc := by unfold Ctx.countRetired; split <;> rfl
@[simp] theorem Ctx.countRetired_gc (c : Ctx) : c.countRetired.gc = c.gc := by unfold Ctx.countRetired; split <;> rfl
@[simp] theorem Ctx.countRetired_cycle (c : Ctx) : c.countRetired.cycle = c.cycle := by unfold Ctx.countRetired; split <;> rfl
@[simp] theorem Ctx.countRetired_viq (c : Ctx) : c.countRetired.viq = c.viq := by unfold Ctx.countRetired; split <;> rfl
@[simp] theorem Ctx.countRetired_viqNext (c : Ctx) : c.countRetired.viqNext = c.viqNext := by unfold Ctx.countRetired; split <;> rfl
@[simp] theorem Ctx.countRetired_srq (c : Ctx) : c.countRetired.srq = c.srq := by unfold Ctx.countRetired; split <;> rfl
@[simp] theorem Ctx.countRetired_cable (c : Ctx) : c.countRetired.cable = c.cable := by unfold Ctx.countRetired; split <;> rfl
@[simp] theorem Ctx.countRetired_cableSusp (c : Ctx) : c.countRetired.cableSusp = c.cableSusp := by unfold Ctx.countRetired; split <;> rfl
@[simp] theorem Ctx.countRetired_vfault (c : Ctx) : c.countRetired.vfault = c.vfault := by unfold Ctx.countRetired; split <;> rfl
@[simp] theorem Ctx.countRetired_cpyPoison (c : Ctx) : c.countRetired.cpyPoison = c.cpyPoison := by unfold Ctx.countRetired; split <;> rfl
@[simp] theorem Ctx.countRetired_overdraft (c : Ctx) : c.countRetired.overdraft = c.overdraft := by unfold Ctx.countRetired; split <;> rfl
@[simp] theorem Ctx.countRetired_rbEntry (c : Ctx) : c.countRetired.rbEntry = c.rbEntry := by unfold Ctx.countRetired; split <;> rfl
@[simp] theorem Ctx.countRetired_escLast (c : Ctx) : c.countRetired.escLast = c.escLast := by unfold Ctx.countRetired; split <;> rfl
@[simp] theorem Ctx.countRetired_dcache (c : Ctx) : c.countRetired.dcache = c.dcache := by unfold Ctx.countRetired; split <;> rfl
@[simp] theorem Ctx.countRetired_snapGen (c : Ctx) : c.countRetired.snapGen = c.snapGen := by unfold Ctx.countRetired; split <;> rfl
@[simp] theorem Ctx.countRetired_snapCol (c : Ctx) : c.countRetired.snapCol = c.snapCol := by unfold Ctx.countRetired; split <;> rfl
@[simp] theorem Ctx.countRetired_strandid (c : Ctx) : c.countRetired.strandid = c.strandid := by unfold Ctx.countRetired; split <;> rfl
@[simp] theorem Ctx.countRetired_usemask (c : Ctx) : c.countRetired.usemask = c.usemask := by unfold Ctx.countRetired; split <;> rfl
@[simp] theorem Ctx.countRetired_barGen (c : Ctx) : c.countRetired.barGen = c.barGen := by unfold Ctx.countRetired; split <;> rfl
@[simp] theorem Ctx.countRetired_barrier (c : Ctx) : c.countRetired.barrier = c.barrier := by unfold Ctx.countRetired; split <;> rfl
@[simp] theorem Ctx.countRetired_atPoint (c : Ctx) : c.countRetired.atPoint = c.atPoint := by unfold Ctx.countRetired; split <;> rfl

/-- Outside speculation the escrow loop is as before, and instret counts. -/
@[simp] theorem Ctx.countRetired_esc (c : Ctx) (h : c.isSpec = false) : c.countRetired.esc = c.esc := by
  unfold Ctx.countRetired; rw [if_neg (by simp [h])]

@[simp] theorem Ctx.countRetired_instret (c : Ctx) (h : c.isSpec = false) : c.countRetired.instret = c.instret + 1 := by
  unfold Ctx.countRetired; rw [if_neg (by simp [h])]

@[simp] theorem tick_cores (s : State) : (tick s).cores = s.cores := rfl
@[simp] theorem tick_mem (s : State) : (tick s).mem = s.mem := rfl
@[simp] theorem tick_ecc (s : State) : (tick s).ecc = s.ecc := rfl
@[simp] theorem tick_parts (s : State) : (tick s).parts = s.parts := rfl
@[simp] theorem tick_pcnt (s : State) : (tick s).pcnt = s.pcnt := rfl
@[simp] theorem tick_chip (s : State) : (tick s).chip = s.chip := rfl
@[simp] theorem tick_inReset (s : State) : (tick s).inReset = s.inReset := rfl
@[simp] theorem tick_tdp (s : State) : (tick s).tdp = s.tdp := rfl
@[simp] theorem tick_clock (s : State) : (tick s).clock = s.clock := rfl
@[simp] theorem tick_halted (s : State) : (tick s).halted = s.halted := rfl
@[simp] theorem tick_measure (s : State) : (tick s).measure = s.measure := rfl
@[simp] theorem tick_tcmds (s : State) : (tick s).tcmds = s.tcmds := rfl
@[simp] theorem tick_heldStores (s : State) : (tick s).heldStores = s.heldStores := rfl
@[simp] theorem tick_colls (s : State) : (tick s).colls = s.colls := rfl
@[simp] theorem tick_commonsSnap (s : State) : (tick s).commonsSnap = s.commonsSnap := rfl
@[simp] theorem tick_vault (s : State) : (tick s).vault = s.vault := rfl
@[simp] theorem tick_assayQ (s : State) : (tick s).assayQ = s.assayQ := rfl
@[simp] theorem tick_assayRecs (s : State) : (tick s).assayRecs = s.assayRecs := rfl
@[simp] theorem tick_assayRuns (s : State) : (tick s).assayRuns = s.assayRuns := rfl
@[simp] theorem tick_remapped (s : State) : (tick s).remapped = s.remapped := rfl
@[simp] theorem tick_invPort (s : State) : (tick s).invPort = s.invPort := rfl
@[simp] theorem tick_flights (s : State) : (tick s).flights = s.flights := rfl
@[simp] theorem tick_links (s : State) : (tick s).links = s.links := rfl
@[simp] theorem tick_mboxWait (s : State) : (tick s).mboxWait = s.mboxWait := rfl
@[simp] theorem tick_outMsgs (s : State) : (tick s).outMsgs = s.outMsgs := rfl
@[simp] theorem tick_agenda (s : State) : (tick s).agenda = s.agenda := rfl
@[simp] theorem tick_lag (s : State) : (tick s).lag = s.lag := rfl
@[simp] theorem tick_draws (s : State) : (tick s).draws = s.draws + 1 := rfl
@[simp] theorem tick_core_id (s : State) : (tick s).core.id = s.core.id := rfl
@[simp] theorem tick_core_priv (s : State) : (tick s).core.priv = s.core.priv := rfl
@[simp] theorem tick_core_csr (s : State) : (tick s).core.csr = s.core.csr := rfl
@[simp] theorem tick_core_mipSoft (s : State) : (tick s).core.mipSoft = s.core.mipSoft := rfl
@[simp] theorem tick_core_strand (s : State) : (tick s).core.strand = s.core.strand := rfl
@[simp] theorem tick_core_assaycap (s : State) : (tick s).core.assaycap = s.core.assaycap := rfl
@[simp] theorem tick_core_copies (s : State) : (tick s).core.copies = s.core.copies := rfl
@[simp] theorem tick_core_resv (s : State) : (tick s).core.resv = s.core.resv := rfl
@[simp] theorem tick_core_stop (s : State) : (tick s).core.stop = s.core.stop := rfl
@[simp] theorem tick_core_hwait (s : State) : (tick s).core.hwait = s.core.hwait := rfl
@[simp] theorem tick_core_migrate (s : State) : (tick s).core.migrate = s.core.migrate := rfl
@[simp] theorem tick_core_wfi (s : State) : (tick s).core.wfi = s.core.wfi := rfl
@[simp] theorem tick_core_helperOf (s : State) : (tick s).core.helperOf = s.core.helperOf := rfl
@[simp] theorem tick_core_assay (s : State) : (tick s).core.assay = s.core.assay := rfl
@[simp] theorem tick_core_icache (s : State) : (tick s).core.icache = s.core.icache := rfl
@[simp] theorem tick_core_gift (s : State) : (tick s).core.gift = s.core.gift := rfl
@[simp] theorem tick_ctx_x (s : State) : (tick s).core.ctx.x = s.core.ctx.x := Ctx.countRetired_x _
@[simp] theorem tick_ctx_pc (s : State) : (tick s).core.ctx.pc = s.core.ctx.pc := Ctx.countRetired_pc _
@[simp] theorem tick_ctx_v (s : State) : (tick s).core.ctx.v = s.core.ctx.v := Ctx.countRetired_v _
@[simp] theorem tick_ctx_m (s : State) : (tick s).core.ctx.m = s.core.ctx.m := Ctx.countRetired_m _
@[simp] theorem tick_ctx_q (s : State) : (tick s).core.ctx.q = s.core.ctx.q := Ctx.countRetired_q _
@[simp] theorem tick_ctx_slots (s : State) : (tick s).core.ctx.slots = s.core.ctx.slots := Ctx.countRetired_slots _
@[simp] theorem tick_ctx_pool (s : State) : (tick s).core.ctx.pool = s.core.ctx.pool := Ctx.countRetired_pool _
@[simp] theorem tick_ctx_accw (s : State) : (tick s).core.ctx.accw = s.core.ctx.accw := Ctx.countRetired_accw _
@[simp] theorem tick_ctx_pocket (s : State) : (tick s).core.ctx.pocket = s.core.ctx.pocket := Ctx.countRetired_pocket _
@[simp] theorem tick_ctx_pocb (s : State) : (tick s).core.ctx.pocb = s.core.ctx.pocb := Ctx.countRetired_pocb _
@[simp] theorem tick_ctx_loops (s : State) : (tick s).core.ctx.loops = s.core.ctx.loops := Ctx.countRetired_loops _
@[simp] theorem tick_ctx_sr (s : State) : (tick s).core.ctx.sr = s.core.ctx.sr := Ctx.countRetired_sr _
@[simp] theorem tick_ctx_atab (s : State) : (tick s).core.ctx.atab = s.core.ctx.atab := Ctx.countRetired_atab _
@[simp] theorem tick_ctx_u (s : State) : (tick s).core.ctx.u = s.core.ctx.u := Ctx.countRetired_u _
@[simp] theorem tick_ctx_vlProv (s : State) : (tick s).core.ctx.vlProv = s.core.ctx.vlProv := Ctx.countRetired_vlProv _
@[simp] theorem tick_ctx_nc (s : State) : (tick s).core.ctx.nc = s.core.ctx.nc := Ctx.countRetired_nc _
@[simp] theorem tick_ctx_gc (s : State) : (tick s).core.ctx.gc = s.core.ctx.gc := Ctx.countRetired_gc _
@[simp] theorem tick_ctx_viq (s : State) : (tick s).core.ctx.viq = s.core.ctx.viq := Ctx.countRetired_viq _
@[simp] theorem tick_ctx_viqNext (s : State) : (tick s).core.ctx.viqNext = s.core.ctx.viqNext := Ctx.countRetired_viqNext _
@[simp] theorem tick_ctx_srq (s : State) : (tick s).core.ctx.srq = s.core.ctx.srq := Ctx.countRetired_srq _
@[simp] theorem tick_ctx_cable (s : State) : (tick s).core.ctx.cable = s.core.ctx.cable := Ctx.countRetired_cable _
@[simp] theorem tick_ctx_cableSusp (s : State) : (tick s).core.ctx.cableSusp = s.core.ctx.cableSusp := Ctx.countRetired_cableSusp _
@[simp] theorem tick_ctx_vfault (s : State) : (tick s).core.ctx.vfault = s.core.ctx.vfault := Ctx.countRetired_vfault _
@[simp] theorem tick_ctx_cpyPoison (s : State) : (tick s).core.ctx.cpyPoison = s.core.ctx.cpyPoison := Ctx.countRetired_cpyPoison _
@[simp] theorem tick_ctx_overdraft (s : State) : (tick s).core.ctx.overdraft = s.core.ctx.overdraft := Ctx.countRetired_overdraft _
@[simp] theorem tick_ctx_rbEntry (s : State) : (tick s).core.ctx.rbEntry = s.core.ctx.rbEntry := Ctx.countRetired_rbEntry _
@[simp] theorem tick_ctx_esc (s : State) (h : s.core.ctx.isSpec = false) : (tick s).core.ctx.esc = s.core.ctx.esc :=
  Ctx.countRetired_esc _ h
@[simp] theorem tick_ctx_escLast (s : State) : (tick s).core.ctx.escLast = s.core.ctx.escLast := Ctx.countRetired_escLast _
@[simp] theorem tick_ctx_dcache (s : State) : (tick s).core.ctx.dcache = s.core.ctx.dcache := Ctx.countRetired_dcache _
@[simp] theorem tick_ctx_pocketEcc (s : State) : (tick s).core.ctx.pocketEcc = s.core.ctx.pocketEcc := Ctx.countRetired_pocketEcc _
@[simp] theorem tick_ctx_barrier (s : State) : (tick s).core.ctx.barrier = s.core.ctx.barrier := Ctx.countRetired_barrier _
@[simp] theorem tick_ctx_snapGen (s : State) : (tick s).core.ctx.snapGen = s.core.ctx.snapGen := Ctx.countRetired_snapGen _
@[simp] theorem tick_ctx_snapCol (s : State) : (tick s).core.ctx.snapCol = s.core.ctx.snapCol := Ctx.countRetired_snapCol _
@[simp] theorem tick_ctx_strandid (s : State) : (tick s).core.ctx.strandid = s.core.ctx.strandid := Ctx.countRetired_strandid _
@[simp] theorem tick_ctx_usemask (s : State) : (tick s).core.ctx.usemask = s.core.ctx.usemask := Ctx.countRetired_usemask _
@[simp] theorem tick_ctx_barGen (s : State) : (tick s).core.ctx.barGen = s.core.ctx.barGen := Ctx.countRetired_barGen _
@[simp] theorem tick_ctx_atPoint (s : State) : (tick s).core.ctx.atPoint = s.core.ctx.atPoint := Ctx.countRetired_atPoint _
@[simp] theorem tick_instret (s : State) (h : s.core.ctx.isSpec = false) : (tick s).core.ctx.instret = s.core.ctx.instret + 1 :=
  Ctx.countRetired_instret _ h
@[simp] theorem retireTo_cores (s : State) (np : Word) : (retireTo s np).cores = s.cores := rfl
@[simp] theorem retireTo_mem (s : State) (np : Word) : (retireTo s np).mem = s.mem := rfl
@[simp] theorem retireTo_ecc (s : State) (np : Word) : (retireTo s np).ecc = s.ecc := rfl
@[simp] theorem retireTo_parts (s : State) (np : Word) : (retireTo s np).parts = s.parts := rfl
@[simp] theorem retireTo_pcnt (s : State) (np : Word) : (retireTo s np).pcnt = s.pcnt := rfl
@[simp] theorem retireTo_chip (s : State) (np : Word) : (retireTo s np).chip = s.chip := rfl
@[simp] theorem retireTo_inReset (s : State) (np : Word) : (retireTo s np).inReset = s.inReset := rfl
@[simp] theorem retireTo_tdp (s : State) (np : Word) : (retireTo s np).tdp = s.tdp := rfl
@[simp] theorem retireTo_clock (s : State) (np : Word) : (retireTo s np).clock = s.clock := rfl
@[simp] theorem retireTo_halted (s : State) (np : Word) : (retireTo s np).halted = s.halted := rfl
@[simp] theorem retireTo_measure (s : State) (np : Word) : (retireTo s np).measure = s.measure := rfl
@[simp] theorem retireTo_tcmds (s : State) (np : Word) : (retireTo s np).tcmds = s.tcmds := rfl
@[simp] theorem retireTo_heldStores (s : State) (np : Word) : (retireTo s np).heldStores = s.heldStores := rfl
@[simp] theorem retireTo_colls (s : State) (np : Word) : (retireTo s np).colls = s.colls := rfl
@[simp] theorem retireTo_commonsSnap (s : State) (np : Word) : (retireTo s np).commonsSnap = s.commonsSnap := rfl
@[simp] theorem retireTo_vault (s : State) (np : Word) : (retireTo s np).vault = s.vault := rfl
@[simp] theorem retireTo_assayQ (s : State) (np : Word) : (retireTo s np).assayQ = s.assayQ := rfl
@[simp] theorem retireTo_assayRecs (s : State) (np : Word) : (retireTo s np).assayRecs = s.assayRecs := rfl
@[simp] theorem retireTo_assayRuns (s : State) (np : Word) : (retireTo s np).assayRuns = s.assayRuns := rfl
@[simp] theorem retireTo_remapped (s : State) (np : Word) : (retireTo s np).remapped = s.remapped := rfl
@[simp] theorem retireTo_invPort (s : State) (np : Word) : (retireTo s np).invPort = s.invPort := rfl
@[simp] theorem retireTo_flights (s : State) (np : Word) : (retireTo s np).flights = s.flights := rfl
@[simp] theorem retireTo_links (s : State) (np : Word) : (retireTo s np).links = s.links := rfl
@[simp] theorem retireTo_mboxWait (s : State) (np : Word) : (retireTo s np).mboxWait = s.mboxWait := rfl
@[simp] theorem retireTo_outMsgs (s : State) (np : Word) : (retireTo s np).outMsgs = s.outMsgs := rfl
@[simp] theorem retireTo_agenda (s : State) (np : Word) : (retireTo s np).agenda = s.agenda := rfl
@[simp] theorem retireTo_lag (s : State) (np : Word) : (retireTo s np).lag = s.lag := rfl
@[simp] theorem retireTo_draws (s : State) (np : Word) : (retireTo s np).draws = s.draws + 1 := rfl
@[simp] theorem retireTo_core_id (s : State) (np : Word) : (retireTo s np).core.id = s.core.id := rfl
@[simp] theorem retireTo_core_priv (s : State) (np : Word) : (retireTo s np).core.priv = s.core.priv := rfl
@[simp] theorem retireTo_core_csr (s : State) (np : Word) : (retireTo s np).core.csr = s.core.csr := rfl
@[simp] theorem retireTo_core_mipSoft (s : State) (np : Word) : (retireTo s np).core.mipSoft = s.core.mipSoft := rfl
@[simp] theorem retireTo_core_strand (s : State) (np : Word) : (retireTo s np).core.strand = s.core.strand := rfl
@[simp] theorem retireTo_core_assaycap (s : State) (np : Word) : (retireTo s np).core.assaycap = s.core.assaycap := rfl
@[simp] theorem retireTo_core_copies (s : State) (np : Word) : (retireTo s np).core.copies = s.core.copies := rfl
@[simp] theorem retireTo_core_resv (s : State) (np : Word) : (retireTo s np).core.resv = s.core.resv := rfl
@[simp] theorem retireTo_core_stop (s : State) (np : Word) : (retireTo s np).core.stop = s.core.stop := rfl
@[simp] theorem retireTo_core_hwait (s : State) (np : Word) : (retireTo s np).core.hwait = s.core.hwait := rfl
@[simp] theorem retireTo_core_migrate (s : State) (np : Word) : (retireTo s np).core.migrate = s.core.migrate := rfl
@[simp] theorem retireTo_core_wfi (s : State) (np : Word) : (retireTo s np).core.wfi = s.core.wfi := rfl
@[simp] theorem retireTo_core_helperOf (s : State) (np : Word) : (retireTo s np).core.helperOf = s.core.helperOf := rfl
@[simp] theorem retireTo_core_assay (s : State) (np : Word) : (retireTo s np).core.assay = s.core.assay := rfl
@[simp] theorem retireTo_core_icache (s : State) (np : Word) : (retireTo s np).core.icache = s.core.icache := rfl
@[simp] theorem retireTo_core_gift (s : State) (np : Word) : (retireTo s np).core.gift = s.core.gift := rfl
@[simp] theorem retireTo_ctx_x (s : State) (np : Word) : (retireTo s np).core.ctx.x = s.core.ctx.x := Ctx.countRetired_x _
@[simp] theorem retireTo_ctx_v (s : State) (np : Word) : (retireTo s np).core.ctx.v = s.core.ctx.v := Ctx.countRetired_v _
@[simp] theorem retireTo_ctx_m (s : State) (np : Word) : (retireTo s np).core.ctx.m = s.core.ctx.m := Ctx.countRetired_m _
@[simp] theorem retireTo_ctx_q (s : State) (np : Word) : (retireTo s np).core.ctx.q = s.core.ctx.q := Ctx.countRetired_q _
@[simp] theorem retireTo_ctx_slots (s : State) (np : Word) : (retireTo s np).core.ctx.slots = s.core.ctx.slots := Ctx.countRetired_slots _
@[simp] theorem retireTo_ctx_pool (s : State) (np : Word) : (retireTo s np).core.ctx.pool = s.core.ctx.pool := Ctx.countRetired_pool _
@[simp] theorem retireTo_ctx_accw (s : State) (np : Word) : (retireTo s np).core.ctx.accw = s.core.ctx.accw := Ctx.countRetired_accw _
@[simp] theorem retireTo_ctx_pocket (s : State) (np : Word) : (retireTo s np).core.ctx.pocket = s.core.ctx.pocket := Ctx.countRetired_pocket _
@[simp] theorem retireTo_ctx_pocb (s : State) (np : Word) : (retireTo s np).core.ctx.pocb = s.core.ctx.pocb := Ctx.countRetired_pocb _
@[simp] theorem retireTo_ctx_sr (s : State) (np : Word) : (retireTo s np).core.ctx.sr = s.core.ctx.sr := Ctx.countRetired_sr _
@[simp] theorem retireTo_ctx_atab (s : State) (np : Word) : (retireTo s np).core.ctx.atab = s.core.ctx.atab := Ctx.countRetired_atab _
@[simp] theorem retireTo_ctx_u (s : State) (np : Word) : (retireTo s np).core.ctx.u = s.core.ctx.u := Ctx.countRetired_u _
@[simp] theorem retireTo_ctx_vlProv (s : State) (np : Word) : (retireTo s np).core.ctx.vlProv = s.core.ctx.vlProv := Ctx.countRetired_vlProv _
@[simp] theorem retireTo_ctx_nc (s : State) (np : Word) : (retireTo s np).core.ctx.nc = s.core.ctx.nc := Ctx.countRetired_nc _
@[simp] theorem retireTo_ctx_gc (s : State) (np : Word) : (retireTo s np).core.ctx.gc = s.core.ctx.gc := Ctx.countRetired_gc _
@[simp] theorem retireTo_ctx_viq (s : State) (np : Word) : (retireTo s np).core.ctx.viq = s.core.ctx.viq := Ctx.countRetired_viq _
@[simp] theorem retireTo_ctx_viqNext (s : State) (np : Word) : (retireTo s np).core.ctx.viqNext = s.core.ctx.viqNext := Ctx.countRetired_viqNext _
@[simp] theorem retireTo_ctx_srq (s : State) (np : Word) : (retireTo s np).core.ctx.srq = s.core.ctx.srq := Ctx.countRetired_srq _
@[simp] theorem retireTo_ctx_cable (s : State) (np : Word) : (retireTo s np).core.ctx.cable = s.core.ctx.cable := Ctx.countRetired_cable _
@[simp] theorem retireTo_ctx_cableSusp (s : State) (np : Word) : (retireTo s np).core.ctx.cableSusp = s.core.ctx.cableSusp := Ctx.countRetired_cableSusp _
@[simp] theorem retireTo_ctx_vfault (s : State) (np : Word) : (retireTo s np).core.ctx.vfault = s.core.ctx.vfault := Ctx.countRetired_vfault _
@[simp] theorem retireTo_ctx_cpyPoison (s : State) (np : Word) : (retireTo s np).core.ctx.cpyPoison = s.core.ctx.cpyPoison := Ctx.countRetired_cpyPoison _
@[simp] theorem retireTo_ctx_overdraft (s : State) (np : Word) : (retireTo s np).core.ctx.overdraft = s.core.ctx.overdraft := Ctx.countRetired_overdraft _
@[simp] theorem retireTo_ctx_rbEntry (s : State) (np : Word) : (retireTo s np).core.ctx.rbEntry = s.core.ctx.rbEntry := Ctx.countRetired_rbEntry _
@[simp] theorem retireTo_ctx_esc (s : State) (np : Word) (h : s.core.ctx.isSpec = false) : (retireTo s np).core.ctx.esc = s.core.ctx.esc :=
  Ctx.countRetired_esc _ h
@[simp] theorem retireTo_ctx_escLast (s : State) (np : Word) : (retireTo s np).core.ctx.escLast = s.core.ctx.escLast := Ctx.countRetired_escLast _
@[simp] theorem retireTo_ctx_dcache (s : State) (np : Word) : (retireTo s np).core.ctx.dcache = s.core.ctx.dcache := Ctx.countRetired_dcache _
@[simp] theorem retireTo_ctx_pocketEcc (s : State) (np : Word) : (retireTo s np).core.ctx.pocketEcc = s.core.ctx.pocketEcc := Ctx.countRetired_pocketEcc _
@[simp] theorem retireTo_ctx_barrier (s : State) (np : Word) : (retireTo s np).core.ctx.barrier = s.core.ctx.barrier := Ctx.countRetired_barrier _
@[simp] theorem retireTo_ctx_snapGen (s : State) (np : Word) : (retireTo s np).core.ctx.snapGen = s.core.ctx.snapGen := Ctx.countRetired_snapGen _
@[simp] theorem retireTo_ctx_snapCol (s : State) (np : Word) : (retireTo s np).core.ctx.snapCol = s.core.ctx.snapCol := Ctx.countRetired_snapCol _
@[simp] theorem retireTo_ctx_strandid (s : State) (np : Word) : (retireTo s np).core.ctx.strandid = s.core.ctx.strandid := Ctx.countRetired_strandid _
@[simp] theorem retireTo_ctx_usemask (s : State) (np : Word) : (retireTo s np).core.ctx.usemask = s.core.ctx.usemask := Ctx.countRetired_usemask _
@[simp] theorem retireTo_ctx_barGen (s : State) (np : Word) : (retireTo s np).core.ctx.barGen = s.core.ctx.barGen := Ctx.countRetired_barGen _
@[simp] theorem retireTo_instret (s : State) (np : Word) (h : s.core.ctx.isSpec = false) : (retireTo s np).core.ctx.instret = s.core.ctx.instret + 1 :=
  Ctx.countRetired_instret _ h
@[simp] theorem retireAt_cores (s : State) (np : Word) : (retireAt s np).cores = s.cores := rfl
@[simp] theorem retireAt_mem (s : State) (np : Word) : (retireAt s np).mem = s.mem := rfl
@[simp] theorem retireAt_ecc (s : State) (np : Word) : (retireAt s np).ecc = s.ecc := rfl
@[simp] theorem retireAt_parts (s : State) (np : Word) : (retireAt s np).parts = s.parts := rfl
@[simp] theorem retireAt_pcnt (s : State) (np : Word) : (retireAt s np).pcnt = s.pcnt := rfl
@[simp] theorem retireAt_chip (s : State) (np : Word) : (retireAt s np).chip = s.chip := rfl
@[simp] theorem retireAt_inReset (s : State) (np : Word) : (retireAt s np).inReset = s.inReset := rfl
@[simp] theorem retireAt_tdp (s : State) (np : Word) : (retireAt s np).tdp = s.tdp := rfl
@[simp] theorem retireAt_clock (s : State) (np : Word) : (retireAt s np).clock = s.clock := rfl
@[simp] theorem retireAt_halted (s : State) (np : Word) : (retireAt s np).halted = s.halted := rfl
@[simp] theorem retireAt_measure (s : State) (np : Word) : (retireAt s np).measure = s.measure := rfl
@[simp] theorem retireAt_tcmds (s : State) (np : Word) : (retireAt s np).tcmds = s.tcmds := rfl
@[simp] theorem retireAt_heldStores (s : State) (np : Word) : (retireAt s np).heldStores = s.heldStores := rfl
@[simp] theorem retireAt_colls (s : State) (np : Word) : (retireAt s np).colls = s.colls := rfl
@[simp] theorem retireAt_commonsSnap (s : State) (np : Word) : (retireAt s np).commonsSnap = s.commonsSnap := rfl
@[simp] theorem retireAt_vault (s : State) (np : Word) : (retireAt s np).vault = s.vault := rfl
@[simp] theorem retireAt_assayQ (s : State) (np : Word) : (retireAt s np).assayQ = s.assayQ := rfl
@[simp] theorem retireAt_assayRecs (s : State) (np : Word) : (retireAt s np).assayRecs = s.assayRecs := rfl
@[simp] theorem retireAt_assayRuns (s : State) (np : Word) : (retireAt s np).assayRuns = s.assayRuns := rfl
@[simp] theorem retireAt_remapped (s : State) (np : Word) : (retireAt s np).remapped = s.remapped := rfl
@[simp] theorem retireAt_invPort (s : State) (np : Word) : (retireAt s np).invPort = s.invPort := rfl
@[simp] theorem retireAt_flights (s : State) (np : Word) : (retireAt s np).flights = s.flights := rfl
@[simp] theorem retireAt_links (s : State) (np : Word) : (retireAt s np).links = s.links := rfl
@[simp] theorem retireAt_mboxWait (s : State) (np : Word) : (retireAt s np).mboxWait = s.mboxWait := rfl
@[simp] theorem retireAt_outMsgs (s : State) (np : Word) : (retireAt s np).outMsgs = s.outMsgs := rfl
@[simp] theorem retireAt_agenda (s : State) (np : Word) : (retireAt s np).agenda = s.agenda := rfl
@[simp] theorem retireAt_lag (s : State) (np : Word) : (retireAt s np).lag = s.lag := rfl
@[simp] theorem retireAt_draws (s : State) (np : Word) : (retireAt s np).draws = s.draws + 1 := rfl
@[simp] theorem retireAt_core_id (s : State) (np : Word) : (retireAt s np).core.id = s.core.id := rfl
@[simp] theorem retireAt_core_priv (s : State) (np : Word) : (retireAt s np).core.priv = s.core.priv := rfl
@[simp] theorem retireAt_core_csr (s : State) (np : Word) : (retireAt s np).core.csr = s.core.csr := rfl
@[simp] theorem retireAt_core_mipSoft (s : State) (np : Word) : (retireAt s np).core.mipSoft = s.core.mipSoft := rfl
@[simp] theorem retireAt_core_strand (s : State) (np : Word) : (retireAt s np).core.strand = s.core.strand := rfl
@[simp] theorem retireAt_core_assaycap (s : State) (np : Word) : (retireAt s np).core.assaycap = s.core.assaycap := rfl
@[simp] theorem retireAt_core_copies (s : State) (np : Word) : (retireAt s np).core.copies = s.core.copies := rfl
@[simp] theorem retireAt_core_resv (s : State) (np : Word) : (retireAt s np).core.resv = s.core.resv := rfl
@[simp] theorem retireAt_core_stop (s : State) (np : Word) : (retireAt s np).core.stop = s.core.stop := rfl
@[simp] theorem retireAt_core_hwait (s : State) (np : Word) : (retireAt s np).core.hwait = s.core.hwait := rfl
@[simp] theorem retireAt_core_migrate (s : State) (np : Word) : (retireAt s np).core.migrate = s.core.migrate := rfl
@[simp] theorem retireAt_core_wfi (s : State) (np : Word) : (retireAt s np).core.wfi = s.core.wfi := rfl
@[simp] theorem retireAt_core_helperOf (s : State) (np : Word) : (retireAt s np).core.helperOf = s.core.helperOf := rfl
@[simp] theorem retireAt_core_assay (s : State) (np : Word) : (retireAt s np).core.assay = s.core.assay := rfl
@[simp] theorem retireAt_core_icache (s : State) (np : Word) : (retireAt s np).core.icache = s.core.icache := rfl
@[simp] theorem retireAt_core_gift (s : State) (np : Word) : (retireAt s np).core.gift = s.core.gift := rfl
@[simp] theorem retireAt_ctx_x (s : State) (np : Word) : (retireAt s np).core.ctx.x = s.core.ctx.x := Ctx.countRetired_x _
@[simp] theorem retireAt_ctx_v (s : State) (np : Word) : (retireAt s np).core.ctx.v = s.core.ctx.v := Ctx.countRetired_v _
@[simp] theorem retireAt_ctx_m (s : State) (np : Word) : (retireAt s np).core.ctx.m = s.core.ctx.m := Ctx.countRetired_m _
@[simp] theorem retireAt_ctx_q (s : State) (np : Word) : (retireAt s np).core.ctx.q = s.core.ctx.q := Ctx.countRetired_q _
@[simp] theorem retireAt_ctx_slots (s : State) (np : Word) : (retireAt s np).core.ctx.slots = s.core.ctx.slots := Ctx.countRetired_slots _
@[simp] theorem retireAt_ctx_pool (s : State) (np : Word) : (retireAt s np).core.ctx.pool = s.core.ctx.pool := Ctx.countRetired_pool _
@[simp] theorem retireAt_ctx_accw (s : State) (np : Word) : (retireAt s np).core.ctx.accw = s.core.ctx.accw := Ctx.countRetired_accw _
@[simp] theorem retireAt_ctx_pocket (s : State) (np : Word) : (retireAt s np).core.ctx.pocket = s.core.ctx.pocket := Ctx.countRetired_pocket _
@[simp] theorem retireAt_ctx_pocb (s : State) (np : Word) : (retireAt s np).core.ctx.pocb = s.core.ctx.pocb := Ctx.countRetired_pocb _
@[simp] theorem retireAt_ctx_loops (s : State) (np : Word) : (retireAt s np).core.ctx.loops = s.core.ctx.loops := Ctx.countRetired_loops _
@[simp] theorem retireAt_ctx_sr (s : State) (np : Word) : (retireAt s np).core.ctx.sr = s.core.ctx.sr := Ctx.countRetired_sr _
@[simp] theorem retireAt_ctx_atab (s : State) (np : Word) : (retireAt s np).core.ctx.atab = s.core.ctx.atab := Ctx.countRetired_atab _
@[simp] theorem retireAt_ctx_u (s : State) (np : Word) : (retireAt s np).core.ctx.u = s.core.ctx.u := Ctx.countRetired_u _
@[simp] theorem retireAt_ctx_vlProv (s : State) (np : Word) : (retireAt s np).core.ctx.vlProv = s.core.ctx.vlProv := Ctx.countRetired_vlProv _
@[simp] theorem retireAt_ctx_nc (s : State) (np : Word) : (retireAt s np).core.ctx.nc = s.core.ctx.nc := Ctx.countRetired_nc _
@[simp] theorem retireAt_ctx_gc (s : State) (np : Word) : (retireAt s np).core.ctx.gc = s.core.ctx.gc := Ctx.countRetired_gc _
@[simp] theorem retireAt_ctx_viq (s : State) (np : Word) : (retireAt s np).core.ctx.viq = s.core.ctx.viq := Ctx.countRetired_viq _
@[simp] theorem retireAt_ctx_viqNext (s : State) (np : Word) : (retireAt s np).core.ctx.viqNext = s.core.ctx.viqNext := Ctx.countRetired_viqNext _
@[simp] theorem retireAt_ctx_srq (s : State) (np : Word) : (retireAt s np).core.ctx.srq = s.core.ctx.srq := Ctx.countRetired_srq _
@[simp] theorem retireAt_ctx_cable (s : State) (np : Word) : (retireAt s np).core.ctx.cable = s.core.ctx.cable := Ctx.countRetired_cable _
@[simp] theorem retireAt_ctx_cableSusp (s : State) (np : Word) : (retireAt s np).core.ctx.cableSusp = s.core.ctx.cableSusp := Ctx.countRetired_cableSusp _
@[simp] theorem retireAt_ctx_vfault (s : State) (np : Word) : (retireAt s np).core.ctx.vfault = s.core.ctx.vfault := Ctx.countRetired_vfault _
@[simp] theorem retireAt_ctx_cpyPoison (s : State) (np : Word) : (retireAt s np).core.ctx.cpyPoison = s.core.ctx.cpyPoison := Ctx.countRetired_cpyPoison _
@[simp] theorem retireAt_ctx_overdraft (s : State) (np : Word) : (retireAt s np).core.ctx.overdraft = s.core.ctx.overdraft := Ctx.countRetired_overdraft _
@[simp] theorem retireAt_ctx_rbEntry (s : State) (np : Word) : (retireAt s np).core.ctx.rbEntry = s.core.ctx.rbEntry := Ctx.countRetired_rbEntry _
@[simp] theorem retireAt_ctx_esc (s : State) (np : Word) (h : s.core.ctx.isSpec = false) : (retireAt s np).core.ctx.esc = s.core.ctx.esc :=
  Ctx.countRetired_esc _ h
@[simp] theorem retireAt_ctx_escLast (s : State) (np : Word) : (retireAt s np).core.ctx.escLast = s.core.ctx.escLast := Ctx.countRetired_escLast _
@[simp] theorem retireAt_ctx_dcache (s : State) (np : Word) : (retireAt s np).core.ctx.dcache = s.core.ctx.dcache := Ctx.countRetired_dcache _
@[simp] theorem retireAt_ctx_pocketEcc (s : State) (np : Word) : (retireAt s np).core.ctx.pocketEcc = s.core.ctx.pocketEcc := Ctx.countRetired_pocketEcc _
@[simp] theorem retireAt_ctx_barrier (s : State) (np : Word) : (retireAt s np).core.ctx.barrier = s.core.ctx.barrier := Ctx.countRetired_barrier _
@[simp] theorem retireAt_ctx_snapGen (s : State) (np : Word) : (retireAt s np).core.ctx.snapGen = s.core.ctx.snapGen := Ctx.countRetired_snapGen _
@[simp] theorem retireAt_ctx_snapCol (s : State) (np : Word) : (retireAt s np).core.ctx.snapCol = s.core.ctx.snapCol := Ctx.countRetired_snapCol _
@[simp] theorem retireAt_ctx_strandid (s : State) (np : Word) : (retireAt s np).core.ctx.strandid = s.core.ctx.strandid := Ctx.countRetired_strandid _
@[simp] theorem retireAt_ctx_usemask (s : State) (np : Word) : (retireAt s np).core.ctx.usemask = s.core.ctx.usemask := Ctx.countRetired_usemask _
@[simp] theorem retireAt_ctx_barGen (s : State) (np : Word) : (retireAt s np).core.ctx.barGen = s.core.ctx.barGen := Ctx.countRetired_barGen _
@[simp] theorem retireAt_instret (s : State) (np : Word) (h : s.core.ctx.isSpec = false) : (retireAt s np).core.ctx.instret = s.core.ctx.instret + 1 :=
  Ctx.countRetired_instret _ h
@[simp] theorem retireAt_pc (s : State) (np : Word) : (retireAt s np).core.ctx.pc = np := Ctx.countRetired_pc _
@[simp] theorem retireJump_cores (s : State) (np : Word) : (retireJump s np).cores = s.cores := rfl
@[simp] theorem retireJump_mem (s : State) (np : Word) : (retireJump s np).mem = s.mem := rfl
@[simp] theorem retireJump_ecc (s : State) (np : Word) : (retireJump s np).ecc = s.ecc := rfl
@[simp] theorem retireJump_parts (s : State) (np : Word) : (retireJump s np).parts = s.parts := rfl
@[simp] theorem retireJump_pcnt (s : State) (np : Word) : (retireJump s np).pcnt = s.pcnt := rfl
@[simp] theorem retireJump_chip (s : State) (np : Word) : (retireJump s np).chip = s.chip := rfl
@[simp] theorem retireJump_inReset (s : State) (np : Word) : (retireJump s np).inReset = s.inReset := rfl
@[simp] theorem retireJump_tdp (s : State) (np : Word) : (retireJump s np).tdp = s.tdp := rfl
@[simp] theorem retireJump_clock (s : State) (np : Word) : (retireJump s np).clock = s.clock := rfl
@[simp] theorem retireJump_halted (s : State) (np : Word) : (retireJump s np).halted = s.halted := rfl
@[simp] theorem retireJump_measure (s : State) (np : Word) : (retireJump s np).measure = s.measure := rfl
@[simp] theorem retireJump_tcmds (s : State) (np : Word) : (retireJump s np).tcmds = s.tcmds := rfl
@[simp] theorem retireJump_heldStores (s : State) (np : Word) : (retireJump s np).heldStores = s.heldStores := rfl
@[simp] theorem retireJump_colls (s : State) (np : Word) : (retireJump s np).colls = s.colls := rfl
@[simp] theorem retireJump_commonsSnap (s : State) (np : Word) : (retireJump s np).commonsSnap = s.commonsSnap := rfl
@[simp] theorem retireJump_vault (s : State) (np : Word) : (retireJump s np).vault = s.vault := rfl
@[simp] theorem retireJump_assayQ (s : State) (np : Word) : (retireJump s np).assayQ = s.assayQ := rfl
@[simp] theorem retireJump_assayRecs (s : State) (np : Word) : (retireJump s np).assayRecs = s.assayRecs := rfl
@[simp] theorem retireJump_assayRuns (s : State) (np : Word) : (retireJump s np).assayRuns = s.assayRuns := rfl
@[simp] theorem retireJump_remapped (s : State) (np : Word) : (retireJump s np).remapped = s.remapped := rfl
@[simp] theorem retireJump_invPort (s : State) (np : Word) : (retireJump s np).invPort = s.invPort := rfl
@[simp] theorem retireJump_flights (s : State) (np : Word) : (retireJump s np).flights = s.flights := rfl
@[simp] theorem retireJump_links (s : State) (np : Word) : (retireJump s np).links = s.links := rfl
@[simp] theorem retireJump_mboxWait (s : State) (np : Word) : (retireJump s np).mboxWait = s.mboxWait := rfl
@[simp] theorem retireJump_outMsgs (s : State) (np : Word) : (retireJump s np).outMsgs = s.outMsgs := rfl
@[simp] theorem retireJump_agenda (s : State) (np : Word) : (retireJump s np).agenda = s.agenda := rfl
@[simp] theorem retireJump_lag (s : State) (np : Word) : (retireJump s np).lag = s.lag := rfl
@[simp] theorem retireJump_draws (s : State) (np : Word) : (retireJump s np).draws = s.draws + 1 := rfl
@[simp] theorem retireJump_core_id (s : State) (np : Word) : (retireJump s np).core.id = s.core.id := rfl
@[simp] theorem retireJump_core_priv (s : State) (np : Word) : (retireJump s np).core.priv = s.core.priv := rfl
@[simp] theorem retireJump_core_csr (s : State) (np : Word) : (retireJump s np).core.csr = s.core.csr := rfl
@[simp] theorem retireJump_core_mipSoft (s : State) (np : Word) : (retireJump s np).core.mipSoft = s.core.mipSoft := rfl
@[simp] theorem retireJump_core_strand (s : State) (np : Word) : (retireJump s np).core.strand = s.core.strand := rfl
@[simp] theorem retireJump_core_assaycap (s : State) (np : Word) : (retireJump s np).core.assaycap = s.core.assaycap := rfl
@[simp] theorem retireJump_core_copies (s : State) (np : Word) : (retireJump s np).core.copies = s.core.copies := rfl
@[simp] theorem retireJump_core_resv (s : State) (np : Word) : (retireJump s np).core.resv = s.core.resv := rfl
@[simp] theorem retireJump_core_stop (s : State) (np : Word) : (retireJump s np).core.stop = s.core.stop := rfl
@[simp] theorem retireJump_core_hwait (s : State) (np : Word) : (retireJump s np).core.hwait = s.core.hwait := rfl
@[simp] theorem retireJump_core_migrate (s : State) (np : Word) : (retireJump s np).core.migrate = s.core.migrate := rfl
@[simp] theorem retireJump_core_wfi (s : State) (np : Word) : (retireJump s np).core.wfi = s.core.wfi := rfl
@[simp] theorem retireJump_core_helperOf (s : State) (np : Word) : (retireJump s np).core.helperOf = s.core.helperOf := rfl
@[simp] theorem retireJump_core_assay (s : State) (np : Word) : (retireJump s np).core.assay = s.core.assay := rfl
@[simp] theorem retireJump_core_icache (s : State) (np : Word) : (retireJump s np).core.icache = s.core.icache := rfl
@[simp] theorem retireJump_core_gift (s : State) (np : Word) : (retireJump s np).core.gift = s.core.gift := rfl
@[simp] theorem retireJump_ctx_x (s : State) (np : Word) : (retireJump s np).core.ctx.x = s.core.ctx.x := Ctx.countRetired_x _
@[simp] theorem retireJump_ctx_v (s : State) (np : Word) : (retireJump s np).core.ctx.v = s.core.ctx.v := Ctx.countRetired_v _
@[simp] theorem retireJump_ctx_m (s : State) (np : Word) : (retireJump s np).core.ctx.m = s.core.ctx.m := Ctx.countRetired_m _
@[simp] theorem retireJump_ctx_q (s : State) (np : Word) : (retireJump s np).core.ctx.q = s.core.ctx.q := Ctx.countRetired_q _
@[simp] theorem retireJump_ctx_slots (s : State) (np : Word) : (retireJump s np).core.ctx.slots = s.core.ctx.slots := Ctx.countRetired_slots _
@[simp] theorem retireJump_ctx_pool (s : State) (np : Word) : (retireJump s np).core.ctx.pool = s.core.ctx.pool := Ctx.countRetired_pool _
@[simp] theorem retireJump_ctx_accw (s : State) (np : Word) : (retireJump s np).core.ctx.accw = s.core.ctx.accw := Ctx.countRetired_accw _
@[simp] theorem retireJump_ctx_pocket (s : State) (np : Word) : (retireJump s np).core.ctx.pocket = s.core.ctx.pocket := Ctx.countRetired_pocket _
@[simp] theorem retireJump_ctx_pocb (s : State) (np : Word) : (retireJump s np).core.ctx.pocb = s.core.ctx.pocb := Ctx.countRetired_pocb _
@[simp] theorem retireJump_ctx_sr (s : State) (np : Word) : (retireJump s np).core.ctx.sr = s.core.ctx.sr := Ctx.countRetired_sr _
@[simp] theorem retireJump_ctx_atab (s : State) (np : Word) : (retireJump s np).core.ctx.atab = s.core.ctx.atab := Ctx.countRetired_atab _
@[simp] theorem retireJump_ctx_u (s : State) (np : Word) : (retireJump s np).core.ctx.u = s.core.ctx.u := Ctx.countRetired_u _
@[simp] theorem retireJump_ctx_vlProv (s : State) (np : Word) : (retireJump s np).core.ctx.vlProv = s.core.ctx.vlProv := Ctx.countRetired_vlProv _
@[simp] theorem retireJump_ctx_nc (s : State) (np : Word) : (retireJump s np).core.ctx.nc = s.core.ctx.nc := Ctx.countRetired_nc _
@[simp] theorem retireJump_ctx_gc (s : State) (np : Word) : (retireJump s np).core.ctx.gc = s.core.ctx.gc := Ctx.countRetired_gc _
@[simp] theorem retireJump_ctx_viq (s : State) (np : Word) : (retireJump s np).core.ctx.viq = s.core.ctx.viq := Ctx.countRetired_viq _
@[simp] theorem retireJump_ctx_viqNext (s : State) (np : Word) : (retireJump s np).core.ctx.viqNext = s.core.ctx.viqNext := Ctx.countRetired_viqNext _
@[simp] theorem retireJump_ctx_srq (s : State) (np : Word) : (retireJump s np).core.ctx.srq = s.core.ctx.srq := Ctx.countRetired_srq _
@[simp] theorem retireJump_ctx_cable (s : State) (np : Word) : (retireJump s np).core.ctx.cable = s.core.ctx.cable := Ctx.countRetired_cable _
@[simp] theorem retireJump_ctx_cableSusp (s : State) (np : Word) : (retireJump s np).core.ctx.cableSusp = s.core.ctx.cableSusp := Ctx.countRetired_cableSusp _
@[simp] theorem retireJump_ctx_vfault (s : State) (np : Word) : (retireJump s np).core.ctx.vfault = s.core.ctx.vfault := Ctx.countRetired_vfault _
@[simp] theorem retireJump_ctx_cpyPoison (s : State) (np : Word) : (retireJump s np).core.ctx.cpyPoison = s.core.ctx.cpyPoison := Ctx.countRetired_cpyPoison _
@[simp] theorem retireJump_ctx_overdraft (s : State) (np : Word) : (retireJump s np).core.ctx.overdraft = s.core.ctx.overdraft := Ctx.countRetired_overdraft _
@[simp] theorem retireJump_ctx_rbEntry (s : State) (np : Word) : (retireJump s np).core.ctx.rbEntry = s.core.ctx.rbEntry := Ctx.countRetired_rbEntry _
@[simp] theorem retireJump_ctx_esc (s : State) (np : Word) (h : s.core.ctx.isSpec = false) : (retireJump s np).core.ctx.esc = s.core.ctx.esc :=
  Ctx.countRetired_esc _ h
@[simp] theorem retireJump_ctx_escLast (s : State) (np : Word) : (retireJump s np).core.ctx.escLast = s.core.ctx.escLast := Ctx.countRetired_escLast _
@[simp] theorem retireJump_ctx_dcache (s : State) (np : Word) : (retireJump s np).core.ctx.dcache = s.core.ctx.dcache := Ctx.countRetired_dcache _
@[simp] theorem retireJump_ctx_pocketEcc (s : State) (np : Word) : (retireJump s np).core.ctx.pocketEcc = s.core.ctx.pocketEcc := Ctx.countRetired_pocketEcc _
@[simp] theorem retireJump_ctx_barrier (s : State) (np : Word) : (retireJump s np).core.ctx.barrier = s.core.ctx.barrier := Ctx.countRetired_barrier _
@[simp] theorem retireJump_ctx_snapGen (s : State) (np : Word) : (retireJump s np).core.ctx.snapGen = s.core.ctx.snapGen := Ctx.countRetired_snapGen _
@[simp] theorem retireJump_ctx_snapCol (s : State) (np : Word) : (retireJump s np).core.ctx.snapCol = s.core.ctx.snapCol := Ctx.countRetired_snapCol _
@[simp] theorem retireJump_ctx_strandid (s : State) (np : Word) : (retireJump s np).core.ctx.strandid = s.core.ctx.strandid := Ctx.countRetired_strandid _
@[simp] theorem retireJump_ctx_usemask (s : State) (np : Word) : (retireJump s np).core.ctx.usemask = s.core.ctx.usemask := Ctx.countRetired_usemask _
@[simp] theorem retireJump_ctx_barGen (s : State) (np : Word) : (retireJump s np).core.ctx.barGen = s.core.ctx.barGen := Ctx.countRetired_barGen _
@[simp] theorem retireJump_instret (s : State) (np : Word) (h : s.core.ctx.isSpec = false) : (retireJump s np).core.ctx.instret = s.core.ctx.instret + 1 :=
  Ctx.countRetired_instret _ h
@[simp] theorem retireJump_pc (s : State) (np : Word) : (retireJump s np).core.ctx.pc = np := Ctx.countRetired_pc _
@[simp] theorem retire_cores (s : State) : (retire s).cores = s.cores := rfl
@[simp] theorem retire_mem (s : State) : (retire s).mem = s.mem := rfl
@[simp] theorem retire_ecc (s : State) : (retire s).ecc = s.ecc := rfl
@[simp] theorem retire_parts (s : State) : (retire s).parts = s.parts := rfl
@[simp] theorem retire_pcnt (s : State) : (retire s).pcnt = s.pcnt := rfl
@[simp] theorem retire_chip (s : State) : (retire s).chip = s.chip := rfl
@[simp] theorem retire_inReset (s : State) : (retire s).inReset = s.inReset := rfl
@[simp] theorem retire_tdp (s : State) : (retire s).tdp = s.tdp := rfl
@[simp] theorem retire_clock (s : State) : (retire s).clock = s.clock := rfl
@[simp] theorem retire_halted (s : State) : (retire s).halted = s.halted := rfl
@[simp] theorem retire_measure (s : State) : (retire s).measure = s.measure := rfl
@[simp] theorem retire_tcmds (s : State) : (retire s).tcmds = s.tcmds := rfl
@[simp] theorem retire_heldStores (s : State) : (retire s).heldStores = s.heldStores := rfl
@[simp] theorem retire_colls (s : State) : (retire s).colls = s.colls := rfl
@[simp] theorem retire_commonsSnap (s : State) : (retire s).commonsSnap = s.commonsSnap := rfl
@[simp] theorem retire_vault (s : State) : (retire s).vault = s.vault := rfl
@[simp] theorem retire_assayQ (s : State) : (retire s).assayQ = s.assayQ := rfl
@[simp] theorem retire_assayRecs (s : State) : (retire s).assayRecs = s.assayRecs := rfl
@[simp] theorem retire_assayRuns (s : State) : (retire s).assayRuns = s.assayRuns := rfl
@[simp] theorem retire_remapped (s : State) : (retire s).remapped = s.remapped := rfl
@[simp] theorem retire_invPort (s : State) : (retire s).invPort = s.invPort := rfl
@[simp] theorem retire_flights (s : State) : (retire s).flights = s.flights := rfl
@[simp] theorem retire_links (s : State) : (retire s).links = s.links := rfl
@[simp] theorem retire_mboxWait (s : State) : (retire s).mboxWait = s.mboxWait := rfl
@[simp] theorem retire_outMsgs (s : State) : (retire s).outMsgs = s.outMsgs := rfl
@[simp] theorem retire_agenda (s : State) : (retire s).agenda = s.agenda := rfl
@[simp] theorem retire_lag (s : State) : (retire s).lag = s.lag := rfl
@[simp] theorem retire_draws (s : State) : (retire s).draws = s.draws + 1 := rfl
@[simp] theorem retire_core_id (s : State) : (retire s).core.id = s.core.id := rfl
@[simp] theorem retire_core_priv (s : State) : (retire s).core.priv = s.core.priv := rfl
@[simp] theorem retire_core_csr (s : State) : (retire s).core.csr = s.core.csr := rfl
@[simp] theorem retire_core_mipSoft (s : State) : (retire s).core.mipSoft = s.core.mipSoft := rfl
@[simp] theorem retire_core_strand (s : State) : (retire s).core.strand = s.core.strand := rfl
@[simp] theorem retire_core_assaycap (s : State) : (retire s).core.assaycap = s.core.assaycap := rfl
@[simp] theorem retire_core_copies (s : State) : (retire s).core.copies = s.core.copies := rfl
@[simp] theorem retire_core_resv (s : State) : (retire s).core.resv = s.core.resv := rfl
@[simp] theorem retire_core_stop (s : State) : (retire s).core.stop = s.core.stop := rfl
@[simp] theorem retire_core_hwait (s : State) : (retire s).core.hwait = s.core.hwait := rfl
@[simp] theorem retire_core_migrate (s : State) : (retire s).core.migrate = s.core.migrate := rfl
@[simp] theorem retire_core_wfi (s : State) : (retire s).core.wfi = s.core.wfi := rfl
@[simp] theorem retire_core_helperOf (s : State) : (retire s).core.helperOf = s.core.helperOf := rfl
@[simp] theorem retire_core_assay (s : State) : (retire s).core.assay = s.core.assay := rfl
@[simp] theorem retire_core_icache (s : State) : (retire s).core.icache = s.core.icache := rfl
@[simp] theorem retire_core_gift (s : State) : (retire s).core.gift = s.core.gift := rfl
@[simp] theorem retire_ctx_x (s : State) : (retire s).core.ctx.x = s.core.ctx.x := Ctx.countRetired_x _
@[simp] theorem retire_ctx_v (s : State) : (retire s).core.ctx.v = s.core.ctx.v := Ctx.countRetired_v _
@[simp] theorem retire_ctx_m (s : State) : (retire s).core.ctx.m = s.core.ctx.m := Ctx.countRetired_m _
@[simp] theorem retire_ctx_q (s : State) : (retire s).core.ctx.q = s.core.ctx.q := Ctx.countRetired_q _
@[simp] theorem retire_ctx_slots (s : State) : (retire s).core.ctx.slots = s.core.ctx.slots := Ctx.countRetired_slots _
@[simp] theorem retire_ctx_pool (s : State) : (retire s).core.ctx.pool = s.core.ctx.pool := Ctx.countRetired_pool _
@[simp] theorem retire_ctx_accw (s : State) : (retire s).core.ctx.accw = s.core.ctx.accw := Ctx.countRetired_accw _
@[simp] theorem retire_ctx_pocket (s : State) : (retire s).core.ctx.pocket = s.core.ctx.pocket := Ctx.countRetired_pocket _
@[simp] theorem retire_ctx_pocb (s : State) : (retire s).core.ctx.pocb = s.core.ctx.pocb := Ctx.countRetired_pocb _
@[simp] theorem retire_ctx_sr (s : State) : (retire s).core.ctx.sr = s.core.ctx.sr := Ctx.countRetired_sr _
@[simp] theorem retire_ctx_atab (s : State) : (retire s).core.ctx.atab = s.core.ctx.atab := Ctx.countRetired_atab _
@[simp] theorem retire_ctx_u (s : State) : (retire s).core.ctx.u = s.core.ctx.u := Ctx.countRetired_u _
@[simp] theorem retire_ctx_vlProv (s : State) : (retire s).core.ctx.vlProv = s.core.ctx.vlProv := Ctx.countRetired_vlProv _
@[simp] theorem retire_ctx_nc (s : State) : (retire s).core.ctx.nc = s.core.ctx.nc := Ctx.countRetired_nc _
@[simp] theorem retire_ctx_gc (s : State) : (retire s).core.ctx.gc = s.core.ctx.gc := Ctx.countRetired_gc _
@[simp] theorem retire_ctx_viq (s : State) : (retire s).core.ctx.viq = s.core.ctx.viq := Ctx.countRetired_viq _
@[simp] theorem retire_ctx_viqNext (s : State) : (retire s).core.ctx.viqNext = s.core.ctx.viqNext := Ctx.countRetired_viqNext _
@[simp] theorem retire_ctx_srq (s : State) : (retire s).core.ctx.srq = s.core.ctx.srq := Ctx.countRetired_srq _
@[simp] theorem retire_ctx_cable (s : State) : (retire s).core.ctx.cable = s.core.ctx.cable := Ctx.countRetired_cable _
@[simp] theorem retire_ctx_cableSusp (s : State) : (retire s).core.ctx.cableSusp = s.core.ctx.cableSusp := Ctx.countRetired_cableSusp _
@[simp] theorem retire_ctx_vfault (s : State) : (retire s).core.ctx.vfault = s.core.ctx.vfault := Ctx.countRetired_vfault _
@[simp] theorem retire_ctx_cpyPoison (s : State) : (retire s).core.ctx.cpyPoison = s.core.ctx.cpyPoison := Ctx.countRetired_cpyPoison _
@[simp] theorem retire_ctx_overdraft (s : State) : (retire s).core.ctx.overdraft = s.core.ctx.overdraft := Ctx.countRetired_overdraft _
@[simp] theorem retire_ctx_rbEntry (s : State) : (retire s).core.ctx.rbEntry = s.core.ctx.rbEntry := Ctx.countRetired_rbEntry _
@[simp] theorem retire_ctx_esc (s : State) (h : s.core.ctx.isSpec = false) : (retire s).core.ctx.esc = s.core.ctx.esc :=
  Ctx.countRetired_esc _ h
@[simp] theorem retire_ctx_escLast (s : State) : (retire s).core.ctx.escLast = s.core.ctx.escLast := Ctx.countRetired_escLast _
@[simp] theorem retire_ctx_dcache (s : State) : (retire s).core.ctx.dcache = s.core.ctx.dcache := Ctx.countRetired_dcache _
@[simp] theorem retire_ctx_pocketEcc (s : State) : (retire s).core.ctx.pocketEcc = s.core.ctx.pocketEcc := Ctx.countRetired_pocketEcc _
@[simp] theorem retire_ctx_barrier (s : State) : (retire s).core.ctx.barrier = s.core.ctx.barrier := Ctx.countRetired_barrier _
@[simp] theorem retire_ctx_snapGen (s : State) : (retire s).core.ctx.snapGen = s.core.ctx.snapGen := Ctx.countRetired_snapGen _
@[simp] theorem retire_ctx_snapCol (s : State) : (retire s).core.ctx.snapCol = s.core.ctx.snapCol := Ctx.countRetired_snapCol _
@[simp] theorem retire_ctx_strandid (s : State) : (retire s).core.ctx.strandid = s.core.ctx.strandid := Ctx.countRetired_strandid _
@[simp] theorem retire_ctx_usemask (s : State) : (retire s).core.ctx.usemask = s.core.ctx.usemask := Ctx.countRetired_usemask _
@[simp] theorem retire_ctx_barGen (s : State) : (retire s).core.ctx.barGen = s.core.ctx.barGen := Ctx.countRetired_barGen _
@[simp] theorem retire_instret (s : State) (h : s.core.ctx.isSpec = false) : (retire s).core.ctx.instret = s.core.ctx.instret + 1 :=
  Ctx.countRetired_instret _ h

end Sys2Proof.Machine
end

