-- ==== Sys2Proof/Laws/Mem.lean ====
section
/-! SUPPORT. Memory's operations keep its canonical form (log 9): one lemma for each operation that writes memory, and one
for each that leaves it as it was. -/

namespace Sys2Proof.Machine

/-- The invariant speaks of `mem` alone. -/
theorem State.MemWf.congr {s t : State} (h : s.MemWf) (e : t.mem = s.mem) : t.MemWf := by
  unfold State.MemWf at *; rwa [e]

/-- Replacing memory by a canonical one. -/
theorem memWf_set {s : State} {m : Bytes} (h : wfBytes m = true) : ({ s with mem := m } : State).MemWf := h

theorem memWf_setLe {s : State} (h : s.MemWf) (a n v : Nat) : ({ s with mem := setLe s.mem a n v } : State).MemWf :=
  wfBytes_setLe h a n v

theorem memWf_setBytes {s : State} (h : s.MemWf) (a : Nat) (bs : List Byte) :
    ({ s with mem := setBytes s.mem a bs } : State).MemWf := wfBytes_setBytes h a bs

/-- A fold of steps that each keep the form keeps it. -/
theorem memWf_foldl {α : Type} {f : State → α → State} (hf : ∀ t x, t.MemWf → (f t x).MemWf) (l : List α) {s : State}
    (h : s.MemWf) : (l.foldl f s).MemWf := by
  induction l generalizing s with
  | nil => exact h
  | cons x t ih => exact ih (hf s x h)

/-- A fold of steps that each leave memory leaves it. -/
theorem mem_foldl {α : Type} {f : State → α → State} (hf : ∀ t x, (f t x).mem = t.mem) (l : List α) (s : State) :
    (l.foldl f s).mem = s.mem := by
  induction l generalizing s with
  | nil => rfl
  | cons x t ih => rw [List.foldl_cons, ih, hf]

/-! ## Operations that leave memory as it was -/

@[simp] theorem mapPart_mem (s : State) (k : Nat) (f : Partition → Partition) : (s.mapPart k f).mem = s.mem := rfl
@[simp] theorem setEcc_mem (s : State) (g : Nat) (e : Option Ecc) : (setEcc s g e).mem = s.mem := rfl
@[simp] theorem breakResv_mem (s : State) (w : Option Nat) (a n : Nat) : (breakResv s w a n).mem = s.mem := rfl
@[simp] theorem escrowSees_mem (s : State) (a n : Nat) : (escrowSees s a n).mem = s.mem := rfl

@[simp] theorem paintLines_mem (s : State) (k : Nat) (new : Bool) (a n : Nat) : (paintLines s k new a n).mem = s.mem := by
  unfold paintLines; extract_lets odd; split <;> rfl

@[simp] theorem copyEcc_mem (s : State) (b z d : Nat) : (copyEcc s b z d).mem = s.mem := by
  refine mem_foldl (fun t x => ?_) _ _
  split <;> rfl

@[simp] theorem readJobMap_mem (s : State) (ks : List Nat) : (readJobMap ks s).mem = s.mem :=
  mem_foldl (f := fun t k => t.mapPart k _) (fun _ _ => rfl) _ _

@[simp] theorem mailSee_mem (s : State) (a n : Nat) : (mailSee s a n).mem = s.mem := by
  refine mem_foldl (fun t x => ?_) _ _
  extract_lets m
  split
  · rfl
  · split <;> rfl

/-! ## Operations that write memory -/

/-- The snapshot logic's own write of a page it does not split keeps the form. -/
theorem agentSet_memWf {s : State} (h : s.MemWf) (k a : Nat) (bs : List Byte) : (agentSet s k a bs).MemWf := by
  unfold agentSet
  split
  · exact h
  · dsimp only
    refine State.MemWf.congr (memWf_setBytes h a bs) ?_
    rw [escrowSees_mem, breakResv_mem, paintLines_mem]

/-- `put` keeps the form, whatever it writes. -/
abbrev PutWf (put : State → Nat → List Byte → State) : Prop := ∀ t a bs, t.MemWf → (put t a bs).MemWf

theorem putWf_agentSet (k : Nat) : PutWf (fun t a bs => agentSet t k a bs) := fun _ a bs ht => agentSet_memWf ht k a bs

theorem putAD_memWf {put : State → Nat → List Byte → State} (hp : PutWf put) {s : State} (h : s.MemWf) (k va : Nat) :
    (putAD put s k va).MemWf := by
  unfold putAD
  split
  · exact h
  · split
    · split <;> [exact h; exact hp _ _ _ h]
    all_goals exact h

theorem markPage_memWf {s : State} (h : s.MemWf) (k b : Nat) (pte gen : Option Nat) : (markPage s k b pte gen).MemWf := by
  unfold markPage
  split
  · exact agentSet_memWf h _ _ _
  · exact h

theorem dropManifest_memWf {s : State} (h : s.MemWf) (k : Nat) (m : Manifest) : (dropManifest s k m).MemWf := by
  have hs : (m.pages.foldl (fun (t : State) r =>
      let pte := if isCommons r.base then none else
        match walk t k (r.pva.toNat / 65536 * 65536) with
        | .leaf a _ _ _ => some a
        | .fault | .access | .poison _ => none
      if pageSplitFor t r.base pte m.gen.toNat then markPage t k r.base pte none else t) s).MemWf := by
    refine memWf_foldl (fun t r ht => ?_) m.pages h
    extract_lets pte
    generalize pte = q
    split <;> [exact markPage_memWf ht _ _ _ _; exact ht]
  unfold dropManifest
  dsimp only at hs ⊢
  split
  · exact agentSet_memWf (State.MemWf.congr hs (mapPart_mem _ _ _)) _ _ _
  · exact State.MemWf.congr hs (mapPart_mem _ _ _)

theorem showJobStateBy_memWf {put : State → Nat → List Byte → State} (hp : PutWf put) {s : State} (h : s.MemWf) (k : Nat) :
    (showJobStateBy put s k).MemWf := by
  unfold showJobStateBy
  split
  · exact h
  · exact hp _ _ _ (putAD_memWf hp h _ _)

theorem abandonAll_memWf {s : State} (h : s.MemWf) (k : Nat) : (abandonAll s k).MemWf := by
  refine showJobStateBy_memWf (putWf_agentSet k) ?_ k
  exact State.MemWf.congr (memWf_foldl (fun t m ht => dropManifest_memWf ht k m) _ h) rfl

/-- Raising an event keeps the form where the way its bytes are written does (R340). -/
theorem raiseEventBy_memWf {put : State → Nat → List Byte → State} (hp : PutWf put) {s : State}
    (h : s.MemWf) (k q code : Nat) (arg strd : Word) : (raiseEventBy put s k q code arg strd).MemWf := by
  unfold raiseEventBy
  extract_lets e u lost
  have hu : u.MemWf := putAD_memWf hp h _ _
  split
  · exact h
  · extract_lets ena lsz head tail w0 bytes v w drop x
    split
    · refine State.MemWf.congr ?_ (mapPart_mem _ _ _)
      refine hp _ _ _ ?_
      unfold w
      split <;> [exact hp _ _ _ hu; exact hu]
    · exact State.MemWf.congr (hp _ _ _ hu) (mapPart_mem _ _ _)

theorem enterPage_memWf {s : State} (h : s.MemWf) (k : Nat) (m : Manifest) (r : PageRec) : (enterPage s k m r).MemWf := by
  unfold enterPage
  refine State.MemWf.congr ?_ (mapPart_mem _ _ _)
  · split
    · exact agentSet_memWf (agentSet_memWf (putAD_memWf (putWf_agentSet k) (putAD_memWf (putWf_agentSet k) h _ _) _ _) _ _ _) _ _ _
    · exact h
    · exact h

/-- Writing cells at moved addresses keeps the form. -/
theorem wfBytes_moved (f : Nat → Nat) (l : Bytes) {m : Bytes} (h : wfBytes m = true) :
    wfBytes (l.foldl (fun (t : Bytes) c => setByte t (f c.1) c.2) m) = true := by
  induction l generalizing m with
  | nil => exact h
  | cons c t ih => exact ih (wfBytes_setByte h _ _)

theorem splitAt_memWf {s : State} (h : s.MemWf) (k : Nat) (m : Manifest) (b z va off : Nat) (pte : Option Nat) :
    (splitAt s k m b z va off pte).MemWf := by
  unfold splitAt
  extract_lets dst cells mem s1
  have hm : wfBytes mem = true := wfBytes_moved (fun x => x - b + dst) cells (wfBytes_clearBytes h _ _)
  have h1 : s1.MemWf := by
    show wfBytes s1.mem = true
    unfold s1
    rw [escrowSees_mem, breakResv_mem, copyEcc_mem]; exact hm
  exact enterPage_memWf (markPage_memWf h1 _ _ _ _) _ _ _

theorem splitTry_memWf {s : State} (h : s.MemWf) (k b z va : Nat) (pte : Option Nat) (n : Nat) :
    (splitTry s k b z va pte n).MemWf := by
  induction n generalizing s with
  | zero => exact h
  | succ n ih =>
    unfold splitTry
    dsimp only
    split
    · exact h
    · split
      · exact splitAt_memWf h _ _ _ _ _ _ _
      all_goals
        split
        · exact ih (dropManifest_memWf h _ _)
        · refine raiseEventBy_memWf (putWf_agentSet k) (abandonAll_memWf ?_ k) _ _ _ _ _
          exact h

theorem snapBefore_memWf {s : State} (h : s.MemWf) (k : Nat) (new : Bool) (page : Option PageRef) (a : Nat) :
    (snapBefore s k new page a).1.MemWf := by
  unfold snapBefore
  repeat' split
  all_goals first
    | exact h
    | exact splitTry_memWf h _ _ _ _ _ _

/-- A write of a colour keeps the form, whatever it splits and copies (R355). -/
theorem rawWrite_memWf {s : State} (h : s.MemWf) (k : Nat) (new : Bool) (core : Option Nat) (page : Option PageRef) (a : Nat)
    (bs : List Byte) : (rawWrite s k new core page a bs).MemWf := by
  unfold rawWrite
  split
  · exact h
  · have hb := snapBefore_memWf h k new page a
    revert hb
    generalize snapBefore s k new page a = r
    obtain ⟨t, d⟩ := r
    intro ht
    unfold State.MemWf
    dsimp only at ht ⊢
    rw [escrowSees_mem, breakResv_mem, paintLines_mem]
    split
    · rw [escrowSees_mem, breakResv_mem]
      exact wfBytes_setBytes (wfBytes_setBytes ht _ _) _ _
    · exact wfBytes_setBytes ht _ _

theorem devWrite_memWf {s : State} (h : s.MemWf) (k a : Nat) (bs : List Byte) : (devWrite s k a bs).MemWf :=
  rawWrite_memWf h _ _ _ _ _ _

theorem putWf_devWrite (k : Nat) : PutWf (fun t a bs => devWrite t k a bs) := fun _ a bs ht => devWrite_memWf ht k a bs

theorem showJobState_memWf {s : State} (h : s.MemWf) (k : Nat) : (showJobState s k).MemWf :=
  showJobStateBy_memWf (putWf_devWrite k) h k

theorem bump_memWf {s : State} (h : s.MemWf) (k off n : Nat) : (bump s k off n).MemWf := devWrite_memWf h _ _ _

theorem bumpEcc_memWf {s : State} (h : s.MemWf) (a off : Nat) : (bumpEcc s a off).MemWf := bump_memWf h _ _ _

theorem granuleWrite_memWf {s : State} (h : s.MemWf) (g covered : Nat) : (granuleWrite s g covered).MemWf := by
  unfold granuleWrite
  split
  · exact h
  · split
    · exact h
    · split <;> exact bumpEcc_memWf (s := setEcc s g _) h _ _

theorem granuleRun_memWf {s : State} (h : s.MemWf) (a n : Nat) : (granuleRun s a n).MemWf :=
  memWf_foldl (fun _ _ ht => granuleWrite_memWf ht _ _) _ h

/-- Reading code words keeps the form, whatever they say (R217). -/
theorem scrubRead_memWf {s : State} (h : s.MemWf) (a n : Nat) : (scrubRead s a n).2.MemWf := by
  unfold scrubRead
  suffices ∀ (l : List Nat) (acc : Bool × State), acc.2.MemWf → (l.foldl (fun (acc : Bool × State) g =>
      match eccAt acc.2 g with
      | none => acc
      | some .correctable => (acc.1, bumpEcc (setEcc acc.2 g none) g ctrCorr)
      | some .uncorrectable => (true, bumpEcc (setEcc acc.2 g (some .poisoned)) g ctrUncorr)
      | some .poisoned => (true, acc.2)) acc).2.MemWf from this _ _ h
  intro l
  induction l with
  | nil => exact fun _ h => h
  | cons g t ih =>
    intro acc ha
    refine ih _ ?_
    beta_reduce
    split
    · exact ha
    · exact bumpEcc_memWf (s := setEcc acc.2 g none) ha _ _
    · exact bumpEcc_memWf (s := setEcc acc.2 g (some .poisoned)) ha _ _
    · exact ha

/-- A write of bytes to physical memory keeps the form, whoever writes (R219, R355). -/
theorem physBytes_memWf {s : State} (h : s.MemWf) (k : Nat) (new : Bool) (w : Writer) (page : Option PageRef) (a : Nat)
    (bs : List Byte) : (physBytes s k new w page a bs).MemWf := by
  unfold physBytes
  split
  · exact h
  · extract_lets n ks
    refine State.MemWf.congr (rawWrite_memWf h k new w.core page a (w.bytes s a bs)) ?_
    rw [mailSee_mem, readJobMap_mem]

theorem physWrite_memWf {s : State} (h : s.MemWf) (k : Nat) (new : Bool) (w : Writer) (page : Option PageRef) (a : Nat)
    (bs : List Byte) : (physWrite s k new w page a bs).MemWf := by
  unfold physWrite
  split
  · exact h
  · exact physBytes_memWf (granuleRun_memWf h _ _) _ _ _ _ _ _

theorem sysWrite_memWf {s : State} (h : s.MemWf) (k a : Nat) (bs : List Byte) : (sysWrite s k a bs).MemWf :=
  physWrite_memWf h _ _ _ _ _ _

theorem sysPut_memWf {s : State} (h : s.MemWf) (k a n v : Nat) : (sysPut s k a n v).MemWf := sysWrite_memWf h _ _ _

theorem setAD_memWf {s : State} (h : s.MemWf) (k : Nat) (new : Bool) (pte : Nat) (w : Word) (acc : Acc) :
    (setAD s k new pte w acc).MemWf := by
  unfold setAD
  split <;> [exact h; exact rawWrite_memWf h _ _ _ _ _ _]

theorem walkTouch_memWf {s : State} (h : s.MemWf) (k va : Nat) : (walkTouch s k va).MemWf :=
  memWf_foldl (fun _ _ ht => scrubRead_memWf ht _ _) _ h

/-- The hardware's access to a control structure keeps the form (log 10). -/
theorem sysTouch_memWf {s : State} (h : s.MemWf) (k va n : Nat) : (sysTouch s k va n).MemWf := by
  have hw : (if s.ecc.isEmpty then s else walkTouch s k va).MemWf := by split <;> [exact h; exact walkTouch_memWf h _ _]
  unfold sysTouch
  split
  · exact scrubRead_memWf h _ _
  · split
    · dsimp only
      refine scrubRead_memWf ?_ _ _
      split <;> [exact hw; exact setAD_memWf hw _ _ _ _ _]
    all_goals exact hw

theorem raiseEvent_memWf {s : State} (h : s.MemWf) (k q code : Nat) (arg strd : Word) :
    (raiseEvent s k q code arg strd).MemWf :=
  raiseEventBy_memWf (put := fun t a bs => sysWrite t k a bs) (fun _ _ _ ht => sysWrite_memWf ht _ _ _)
    (sysTouch_memWf h _ _ _) _ _ _ _ _

/-- The state a translation leaves, whatever it answers. -/
def Xlate.state : Xlate → State
  | .leaf _ _ _ t | .fault t | .access t | .poison _ t => t

/-- A translation keeps the form: it writes at most the A and D bits of the leaf it used (R305), and what its walk's reads
correct or poison (R217). -/
theorem xlate_memWf {s : State} (h : s.MemWf) (k va : Nat) (acc : Acc) (p : Priv) (sum mxr : Bool) :
    (xlate s k va acc p sum mxr).state.MemWf := by
  unfold xlate
  extract_lets cands s1 t
  have h1 : s1.MemWf := by unfold s1; split <;> exact h
  have ht : t.MemWf := by unfold t; split <;> [exact h1; exact walkTouch_memWf h1 _ _]
  split
  · exact h1
  · split
    · exact ht
    · exact ht
    · exact ht
    · split
      · exact ht
      · exact setAD_memWf ht k _ _ _ acc

end Sys2Proof.Machine
end

