-- ==== Sys2Proof/Laws/Keeps.lean ====
section
/-! SUPPORT. Computations keep memory canonical: the rules of the monad, and one lemma for each shared access (address
resolution, a read, a write, a scalar load or store, a fetch). -/

namespace Sys2Proof.Machine

/-- Run from a state, the computation leaves a canonical memory, however it ends. -/
def KeepsAt {α : Type} (m : M α) (s : State) : Prop := (m.run s).2.MemWf

/-- The computation keeps memory canonical from every state. -/
def Keeps {α : Type} (m : M α) : Prop := ∀ s, s.MemWf → KeepsAt m s

variable {α β : Type} {s t : State}

/-! ## The rules -/

/-- What a sequence does: the second part runs from where the first leaves off, if it answers. -/
theorem run_bind (m : M α) (f : α → M β) (s : State) : (m >>= f).run s =
    match m.run s with
    | (.ok a, t) => (f a).run t
    | (.error e, t) => (.error e, t) := by
  show (match m s with
    | (a, t) => ExceptT.bindCont f a t) = _
  show _ = (match m s with
    | (.ok a, t) => (f a).run t
    | (.error e, t) => (.error e, t))
  rcases m s with ⟨_ | _, _⟩ <;> rfl

theorem keepsAt_pure (a : α) (h : s.MemWf) : KeepsAt (pure a) s := h
theorem keepsAt_throw (e : Exc) (h : s.MemWf) : KeepsAt (throw e : M α) s := h
theorem keepsAt_trapM (c : BitVec 6) (v : Word) (h : s.MemWf) : KeepsAt (trapM c v : M α) s := h
theorem keepsAt_set (h : t.MemWf) : KeepsAt (set t : M PUnit) s := h
theorem keepsAt_modify {f : State → State} (h : (f s).MemWf) : KeepsAt (modify f : M PUnit) s := h
theorem keepsAt_get (h : s.MemWf) : KeepsAt (get : M State) s := h

theorem keepsAt_bind {m : M α} {f : α → M β} (h : KeepsAt m s) (g : ∀ a t, m.run s = (.ok a, t) → t.MemWf → KeepsAt (f a) t) :
    KeepsAt (m >>= f) s := by
  unfold KeepsAt at *
  rw [run_bind]
  cases e : m.run s with
  | mk r t =>
    rw [e] at h
    cases r with
    | error x => exact h
    | ok a => exact g a t e h

theorem keepsAt_get_bind {f : State → M β} (h : KeepsAt (f s) s) : KeepsAt (get >>= f) s := h
theorem keepsAt_set_bind {f : PUnit → M β} (h : KeepsAt (f ⟨⟩) t) : KeepsAt (set t >>= f) s := h
theorem keepsAt_modify_bind {g : State → State} {f : PUnit → M β} (h : KeepsAt (f ⟨⟩) (g s)) : KeepsAt (modify g >>= f) s := h

theorem keepsAt_ite {c : Prop} [Decidable c] {m n : M α} (h : c → KeepsAt m s) (g : ¬c → KeepsAt n s) :
    KeepsAt (if c then m else n) s := by split <;> [exact h ‹_›; exact g ‹_›]

theorem keeps_bind {m : M α} {f : α → M β} (h : Keeps m) (g : ∀ a, Keeps (f a)) : Keeps (m >>= f) :=
  fun s hs => keepsAt_bind (h s hs) fun a t _ ht => g a t ht

/-! ## What taking a trap and waiting leave -/

@[simp] theorem mapCtx_mem (s : State) (f : Ctx → Ctx) : (s.mapCtx f).mem = s.mem := rfl

@[simp] theorem narrow_mem (s : State) : s.narrow.mem = s.mem := by unfold State.narrow; split <;> rfl

@[simp] theorem enterTrap_mem (s : State) (i : Bool) (c : BitVec 6) (v : Word) : (enterTrap s i c v).mem = s.mem := by
  unfold enterTrap; extract_lets; split <;> rfl

@[simp] theorem raiseTrap_mem (s : State) (c : BitVec 6) (v : Word) : (raiseTrap s c v).mem = s.mem := by
  unfold raiseTrap
  split
  · rfl
  · split
    · rfl
    · rw [enterTrap_mem, narrow_mem]

@[simp] theorem blockOn_mem (s : State) (a : Word) (op : WaitOp) : (s.blockOn a op).mem = s.mem := by
  unfold State.blockOn; extract_lets; split <;> rfl

/-- A meaning that runs a computation answers a canonical memory. -/
theorem runM_memWf {m : M Unit} (h : KeepsAt m s) (e : runM m s = .next t) : t.MemWf := by
  unfold KeepsAt at h
  unfold runM at e
  cases hm : m.run s with
  | mk r u =>
    rw [hm] at e h
    cases r with
    | ok a => cases e; exact h
    | error x =>
      cases x with
      | trap c v => cases e; exact State.MemWf.congr h (raiseTrap_mem _ _ _)
      | stall => cases e; exact h
      | block a op => cases e; exact State.MemWf.congr h (blockOn_mem _ _ _)
      | port a => cases e

/-! ## Address resolution (R211, R304, R309) -/

theorem keeps_checkFrame (acc : Acc) (v : Word) (a : Nat) : Keeps (checkFrame acc v a) := by
  intro s hs
  refine keepsAt_get_bind (keepsAt_ite (fun _ => ?_) fun _ => ?_)
  · exact keepsAt_trapM _ _ hs
  · exact keepsAt_pure _ hs

theorem keeps_resolveVa (acc : Acc) (p : Priv) (bad : BitVec 6) (v : Word) (va : Nat) (n : Bool) :
    Keeps (resolveVa acc p bad v va n) := by
  intro s hs
  refine keepsAt_get_bind (keepsAt_ite (fun _ => keepsAt_trapM _ _ hs) fun _ => ?_)
  have hx := xlate_memWf hs s.pidx va acc p (s.core.csr.mstatus.getLsbD bitSUM) (s.core.csr.mstatus.getLsbD bitMXR)
  split
  · rename_i u e
    exact keepsAt_set_bind (keepsAt_trapM _ _ (by rwa [e] at hx))
  · rename_i u e
    exact keepsAt_set_bind (keepsAt_trapM _ _ (by rwa [e] at hx))
  · rename_i u e
    exact keepsAt_set_bind (keepsAt_trapM _ _ (by rwa [e] at hx))
  · rename_i w b page u e
    have hu : u.MemWf := by rwa [e] at hx
    extract_lets off a
    refine keepsAt_ite (fun _ => keepsAt_ite (fun _ => ?_) fun _ => keepsAt_trapM _ _ hs) fun _ =>
      keepsAt_ite (fun _ => keepsAt_ite (fun _ => ?_) fun _ => keepsAt_trapM _ _ hs) fun _ => keepsAt_set_bind ?_
    · exact keepsAt_bind (keeps_checkFrame _ _ _ s hs) fun _ _ _ _ => keepsAt_set_bind (keepsAt_pure _ hu)
    · exact keepsAt_bind (keeps_checkFrame _ _ _ s hs) fun _ _ _ _ => keepsAt_set_bind (keepsAt_pure _ hu)
    · exact keepsAt_ite (fun _ => keepsAt_trapM _ _ hu) fun _ => keepsAt_pure _ hu

theorem keeps_resolveHere (acc : Acc) (p : Priv) (bad : BitVec 6) (v : Word) (a n : Nat) (nest : Bool) :
    Keeps (resolveHere acc p bad v a n nest) := by
  intro s hs
  refine keepsAt_get_bind ?_
  extract_lets o1 o2
  refine keepsAt_ite (fun _ => keepsAt_ite (fun _ => ?_) fun _ => ?_) fun _ => keepsAt_ite (fun _ => ?_) fun _ => ?_
  · exact keepsAt_ite (fun _ => keepsAt_pure _ hs) fun _ => keepsAt_trapM _ _ hs
  · exact keepsAt_ite (fun _ => keepsAt_pure _ hs) fun _ => keepsAt_trapM _ _ hs
  · refine keepsAt_ite (fun _ => ?_) fun _ => keepsAt_trapM _ _ hs
    exact keepsAt_bind (keeps_checkFrame _ _ _ s hs) fun _ t _ ht => keepsAt_pure _ ht
  · exact keeps_resolveVa _ _ _ _ _ _ s hs

theorem keeps_peerTo (acc : Acc) (v : Word) (chip : BitVec 12) (va : Word) : Keeps (peerTo acc v chip va) := fun _ hs =>
  keepsAt_get_bind (keepsAt_ite (fun _ => keepsAt_pure _ hs) fun _ => keepsAt_trapM _ _ hs)

theorem keeps_resolveAt (acc : Acc) (p : Priv) (bad : BitVec 6) (v va : Word) (n : Nat) : Keeps (resolveAt acc p bad v va n) := by
  intro s hs
  refine keepsAt_bind (keeps_resolveHere _ _ _ _ _ _ _ s hs) fun l t _ ht => keepsAt_get_bind ?_
  split
  · refine keepsAt_ite (fun _ => ?_) fun _ => keeps_peerTo _ _ _ _ t ht
    refine keepsAt_bind (keeps_resolveHere _ _ _ _ _ _ _ t ht) fun l' u _ hu => ?_
    split
    · exact keeps_peerTo _ _ _ _ u hu
    · exact keepsAt_pure _ hu
    · exact keepsAt_pure _ hu
  · exact keepsAt_pure _ ht
  · exact keepsAt_pure _ ht

theorem keeps_resolvePeer (acc : Acc) (p : Priv) (bad : BitVec 6) (v : Word) (chip : BitVec 12) (va : Word) (n : Nat) :
    Keeps (resolvePeer acc p bad v chip va n) := fun s hs =>
  keepsAt_get_bind (keepsAt_ite (fun _ => keeps_resolveAt _ _ _ _ _ _ s hs) fun _ => keeps_peerTo _ _ _ _ s hs)

theorem keeps_resolveGlobal (acc : Acc) (p : Priv) (bad : BitVec 6) (va : Word) (n : Nat) :
    Keeps (resolveGlobal acc p bad va n) := keeps_resolveAt _ _ _ _ _ _

theorem keeps_resolveSpace (sp : Nat) (acc : Acc) (p : Priv) (a : Word) (n : Nat) : Keeps (resolveSpace sp acc p a n) := by
  intro s hs
  refine keepsAt_get_bind ?_
  split
  · exact keeps_resolveGlobal _ _ _ _ _ s hs
  · exact keepsAt_ite (fun _ => keepsAt_pure _ hs) fun _ => keepsAt_trapM _ _ hs
  · exact keepsAt_ite (fun _ => keepsAt_pure _ hs) fun _ => keepsAt_trapM _ _ hs
  · exact keepsAt_ite (fun _ => keeps_resolvePeer _ _ _ _ _ _ _ s hs) fun _ => keepsAt_trapM _ _ hs
  · exact keepsAt_trapM _ _ hs

theorem keeps_scalarLoc (acc : Acc) (va : Word) (n : Nat) : Keeps (scalarLoc acc va n) := by
  intro s hs
  refine keepsAt_get_bind (keepsAt_ite (fun _ => ?_) fun _ => keeps_resolveGlobal _ _ _ _ _ s hs)
  exact keepsAt_trapM _ _ hs

/-! ## Reads and writes -/

theorem pocketWrite_memWf (h : s.MemWf) (o : Nat) (bs : List Byte) : (pocketWrite s o bs).MemWf :=
  (granuleRun_memWf h _ _).congr (mapCtx_mem _ _)

theorem scrubRead_next (h : s.MemWf) {a n : Nat} {b : Bool} (e : scrubRead s a n = (b, t)) : t.MemWf := by
  have := scrubRead_memWf h a n
  rwa [e] at this

theorem pocketBytesTo_memWf (h : s.MemWf) (o : Nat) (bs : List Byte) : (pocketBytesTo s o bs).MemWf :=
  h.congr (mapCtx_mem _ _)

theorem heldGranules_memWf (h : s.MemWf) (x : Held) : (heldGranules s x).MemWf := by
  refine memWf_foldl (fun t c ht => ?_) _ h
  split <;> [exact ht; exact granuleWrite_memWf ht _ _]

theorem performHeld_memWf (h : s.MemWf) (x : Held) : (performHeld s x).MemWf := by
  unfold performHeld
  extract_lets new w
  split
  · exact physBytes_memWf (heldGranules_memWf h _) _ _ _ _ _ _
  · exact pocketBytesTo_memWf (heldGranules_memWf h _) _ _
  · exact h

/-- Performing held stores keeps the form, whichever are performed (R255). -/
theorem performAll_memWf (l : List Held) (h : s.MemWf) : (performAll l s).MemWf := by
  induction l generalizing s with
  | nil => exact h
  | cons x t ih =>
    refine ih (performHeld_memWf ?_ x)
    exact h

theorem settleHeld_memWf (sel : Held → Nat) (h : s.MemWf) : (settleHeld sel s).MemWf := by
  unfold settleHeld
  split <;> [exact h; exact performAll_memWf _ (State.MemWf.congr h rfl)]

theorem flushWhere_memWf (h : s.MemWf) (sel : Held → Bool) : (flushWhere sel s).MemWf := settleHeld_memWf _ h

theorem flushHeld_memWf (h : s.MemWf) : (flushHeld s).MemWf := flushWhere_memWf h _

theorem orderFor_memWf (h : s.MemWf) (store scalar : Bool) (l : Loc) (n : Nat) : (orderFor store scalar l n s).MemWf :=
  settleHeld_memWf _ h

theorem keeps_readRaw (x : Reader) (acc : Acc) (l : Loc) (n : Nat) (v : Word) : Keeps (readRaw x acc l n v) := by
  intro s hs
  refine keepsAt_get_bind ?_
  split
  · refine keepsAt_ite (fun _ => keepsAt_throw _ hs) fun _ => ?_
    split
    rename_i bad u e
    have hu := scrubRead_next hs e
    exact keepsAt_set_bind (keepsAt_ite (fun _ => keepsAt_trapM _ _ hu) fun _ => keepsAt_pure _ hu)
  · split
    rename_i bad u e
    have hu := scrubRead_next hs e
    exact keepsAt_set_bind (keepsAt_ite (fun _ => keepsAt_trapM _ _ hu) fun _ => keepsAt_pure _ hu)
  · exact keepsAt_set_bind (keepsAt_ite (fun _ => keepsAt_trapM _ _ (h := hs)) fun _ => keepsAt_pure _ hs)

theorem keeps_readBy (x : Reader) (acc : Acc) (l : Loc) (n : Nat) (v : Word) : Keeps (readBy x acc l n v) := by
  intro s hs
  have ht := orderFor_memWf hs false (decide (x = .scalar)) l n
  exact keepsAt_modify_bind (keepsAt_get_bind (keepsAt_ite (fun _ => keepsAt_throw _ ht) fun _ => keeps_readRaw _ _ _ _ _ _ ht))

theorem keeps_readLoc (l : Loc) (n : Nat) (v : Word) : Keeps (readLoc l n v) := keeps_readBy _ _ _ _ _

theorem keeps_readVec (l : Loc) (n : Nat) (v : Word) : Keeps (readVec l n v) := keeps_readBy _ _ _ _ _

theorem keeps_writeBy (granules : Bool) (l : Loc) (bs : List Byte) (v : Word) : Keeps (writeBy granules l bs v) := by
  intro s hs
  have ht := orderFor_memWf hs true true l bs.length
  refine keepsAt_modify_bind (keepsAt_get_bind (keepsAt_ite (fun _ => keepsAt_throw _ ht) fun _ => ?_))
  split
  · refine keepsAt_ite (fun _ => keepsAt_throw _ ht) fun _ => keepsAt_set ?_
    split
    · exact physWrite_memWf ht _ _ _ _ _ _
    · exact physBytes_memWf ht _ _ _ _ _ _
  · refine keepsAt_set ?_
    split
    · exact pocketWrite_memWf ht _ _
    · exact pocketBytesTo_memWf ht _ _
  · refine keepsAt_set_bind (keepsAt_ite (fun _ => keepsAt_trapM _ _ ?_) fun _ => keepsAt_pure _ ?_)
    · exact State.MemWf.congr ht rfl
    · exact State.MemWf.congr ht rfl

theorem keeps_writeLoc (l : Loc) (bs : List Byte) (v : Word) : Keeps (writeLoc l bs v) := keeps_writeBy _ _ _ _

theorem keeps_deferSpec : Keeps deferSpec := by
  intro s hs
  exact keepsAt_modify_bind (keepsAt_throw _ hs)

theorem keeps_specRead (a n : Nat) (raw : List Byte) : Keeps (specRead a n raw) := by
  intro s hs
  refine keepsAt_get_bind ?_
  split
  · exact keepsAt_pure _ hs
  · split
    · exact keepsAt_pure _ hs
    · exact keepsAt_set_bind (keepsAt_pure _ hs)

theorem keeps_specWrite (a : Nat) (page : Option PageRef) (bs : List Byte) : Keeps (specWrite a page bs) := by
  intro s hs
  refine keepsAt_get_bind ?_
  split
  · exact keepsAt_pure _ hs
  · split
    · exact keepsAt_pure _ hs
    · exact keepsAt_ite (fun _ => keeps_deferSpec s hs) fun _ => keepsAt_set hs

theorem keeps_scalarLoad (va : Word) (n : Nat) : Keeps (scalarLoad va n) := by
  refine keeps_bind (keeps_scalarLoc _ _ _) fun l s hs => keepsAt_get_bind (keepsAt_ite (fun _ => keepsAt_ite (fun _ => ?_) fun _ => ?_)
    fun _ => keepsAt_ite (fun _ => keepsAt_throw _ hs) fun _ => keeps_readLoc _ _ _ s hs)
  · exact keepsAt_bind (keeps_deferSpec s hs) fun _ _ _ ht => keepsAt_pure _ ht
  · refine keepsAt_bind (keeps_readLoc _ _ _ s hs) fun raw t _ ht => ?_
    split
    · exact keeps_specRead _ _ _ t ht
    · exact keepsAt_pure _ ht
    · exact keepsAt_pure _ ht

theorem keeps_storePlace (va : Word) (n : Nat) : Keeps (storePlace va n) := by
  refine keeps_bind (keeps_scalarLoc _ _ _) fun l s hs => keepsAt_modify_bind (keepsAt_get_bind ?_)
  have ht : (s.mapCtx (dropDesc va n)).MemWf := hs
  exact keepsAt_ite (fun _ => keepsAt_trapM _ _ ht) fun _ => keepsAt_pure _ ht

theorem keeps_acceptStore (group : Option Nat) (l : Loc) (bs : List Byte) (va : Word) : Keeps (acceptStore group l bs va) := by
  intro s hs
  refine keepsAt_get_bind (keepsAt_ite (fun _ => keepsAt_throw _ hs) fun _ => keepsAt_ite (fun _ => keepsAt_set hs) fun _ =>
    keepsAt_ite (fun _ => keepsAt_throw _ hs) fun _ => keeps_writeBy _ _ _ _ s hs)

theorem keeps_scalarStore (va : Word) (bs : List Byte) : Keeps (scalarStore va bs) := by
  refine keeps_bind (keeps_storePlace _ _) fun l s hs => keepsAt_get_bind ?_
  refine keepsAt_ite (fun _ => keepsAt_ite (fun _ => keeps_deferSpec s hs) fun _ => ?_) fun _ => keeps_acceptStore _ _ _ _ s hs
  split
  · exact keeps_specWrite _ _ _ s hs
  · exact keeps_deferSpec s hs
  · exact keeps_deferSpec s hs

/-- The I$ serves a word from a state of the same memory (R215). -/
@[simp] theorem icacheServe_mem (a : Nat) (w : BitVec 32) (s : State) : (icacheServe a w s).2.mem = s.mem := by
  unfold icacheServe
  extract_lets put
  split
  · rfl
  · split
    · rfl
    · split
      · rfl
      · split <;> rfl

/-- A fetch keeps memory canonical (R81, R99). -/
theorem keeps_fetchM : Keeps fetchM := by
  intro s hs
  refine keepsAt_get_bind (keepsAt_bind (keeps_resolveGlobal _ _ _ _ _ s hs) fun l t _ ht => keepsAt_get_bind ?_)
  split
  · refine keepsAt_ite (fun _ => keepsAt_trapM _ _ ht) fun _ => keepsAt_bind (keeps_readRaw _ _ _ _ _ t ht) fun bs u _ hu =>
      keepsAt_get_bind (keepsAt_set_bind (keepsAt_pure _ (State.MemWf.congr hu (icacheServe_mem _ _ _))))
  · exact keepsAt_trapM _ _ ht
  · exact keepsAt_ite (fun _ => keepsAt_trapM _ _ ht) fun _ =>
      keepsAt_bind (keeps_readRaw _ _ _ _ _ t ht) fun _ _ _ hu => keepsAt_pure _ hu

end Sys2Proof.Machine
end

