-- ==== Sys2Proof/Laws/Levels.lean ====
section
/-! SUPPORT. Levels, rings, cancels, and the writes of one instruction keep memory canonical; the frame that every
instruction's own effect stands in, case by case. -/

namespace Sys2Proof.Machine

variable {s t : State}

/-! ## Operations that leave memory as it was -/

@[simp] theorem mapStrand_mem (s : State) (k : Nat) (r : SRef) (f : Strand → Strand) : (s.mapStrand k r f).mem = s.mem := rfl
@[simp] theorem mapLaunch_mem (s : State) (k n : Nat) (f : Launch → Launch) : (s.mapLaunch k n f).mem = s.mem := rfl
@[simp] theorem freeHelpers_mem (s : State) (n : Nat) : (s.freeHelpers n).mem = s.mem := rfl
@[simp] theorem imageStrand_mem (s : State) (k : Nat) (r : SRef) (f : Strand → Strand) : (imageStrand s k r f).mem = s.mem := rfl

@[simp] theorem mapCoreAt_mem (s : State) (n : Nat) (f : Core → Core) : (s.mapCoreAt n f).mem = s.mem := by
  unfold State.mapCoreAt State.putCoreAt; split <;> rfl

@[simp] theorem noteExit_mem (s : State) (k : Nat) (r : SRef) (l : Launch) (t : Strand) : (noteExit s k r l t).mem = s.mem := by
  unfold noteExit
  split
  · split <;> rfl
  · rfl

@[simp] theorem dropBehind_mem (s : State) (k : Nat) (r : SRef) : (dropBehind s k r).mem = s.mem := rfl

@[simp] theorem loseExpected_mem (s : State) : (loseExpected s).mem = s.mem := by unfold loseExpected; split <;> rfl

@[simp] theorem countGuess_mem (s : State) : (countGuess s).mem = s.mem := by unfold countGuess; split <;> rfl

/-! ## Levels and rings (R43, R296) -/

theorem setFailed_memWf (h : s.MemWf) (k a : Nat) : (setFailed s k a).MemWf := sysPut_memWf h _ _ _ _
theorem setCancelled_memWf (h : s.MemWf) (k a : Nat) : (setCancelled s k a).MemWf := sysPut_memWf h _ _ _ _

theorem levelPropagate_memWf (h : s.MemWf) (k a n : Nat) : (levelPropagate s k a n).MemWf := by
  induction n generalizing s a with
  | zero => exact h
  | succ n ih =>
    unfold levelPropagate
    extract_lets pva
    split
    · exact h
    · split
      · exact h
      · rename_i p _
        extract_lets s1 out s2
        have h1 : s1.MemWf := by unfold s1; split <;> [exact setFailed_memWf h _ _; exact h]
        have h2 : s2.MemWf := sysPut_memWf h1 _ _ _ _
        split
        · exact raiseEvent_memWf (setFailed_memWf h1 _ _) _ _ _ _ _
        · split <;> [exact ih h2 _; exact h2]

theorem levelFinish_memWf (h : s.MemWf) (k : Nat) (v : Word) : (levelFinish s k v).MemWf := by
  unfold levelFinish
  split <;> [exact h; exact levelPropagate_memWf (sysPut_memWf h _ _ _ _) _ _ _]

theorem ringLeave_memWf (h : s.MemWf) (k : Nat) (r : Word) : (ringLeave s k r).MemWf := by
  unfold ringLeave
  split
  · exact h
  · extract_lets prod s1
    have h1 : s1.MemWf := sysPut_memWf h _ _ _ _
    split <;> [exact sysPut_memWf h1 _ _ _ _; exact h1]

theorem ringLeaveN_memWf (h : s.MemWf) (k : Nat) (r : Word) (n : Nat) : (ringLeaveN s k r n).MemWf := by
  induction n generalizing s with
  | zero => exact h
  | succ n ih => exact ih (ringLeave_memWf h k r)

theorem leaveRings_memWf (h : s.MemWf) (k : Nat) (r : SRef) : (leaveRings s k r).MemWf := by
  unfold leaveRings
  split
  · exact h
  · exact (memWf_foldl (fun u w hu => ringLeave_memWf hu k w) _ h).congr (mapStrand_mem _ _ _ _)

theorem exitStrand_memWf (h : s.MemWf) (k : Nat) (r : SRef) : (exitStrand s k r).MemWf := by
  unfold exitStrand
  split
  · exact h
  · split
    · exact h
    · refine leaveRings_memWf (State.MemWf.congr ?_ (mapStrand_mem _ _ _ _)) _ _
      split
      · exact State.MemWf.congr h (by rw [mapCoreAt_mem, freeHelpers_mem, dropBehind_mem, noteExit_mem])
      · exact State.MemWf.congr h (by rw [dropBehind_mem, noteExit_mem])

theorem completeCancelled_memWf (h : s.MemWf) (k n : Nat) : (completeCancelled s k n).MemWf := by
  unfold completeCancelled
  split
  · exact h
  · rename_i l _
    extract_lets s1 s2 s3 s4
    have h1 : s1.MemWf := by unfold s1; split <;> [exact setCancelled_memWf h _ _; exact h]
    have h2 : s2.MemWf := memWf_foldl (fun u p hu => ringLeaveN_memWf hu _ _ _) _ h1
    have h3 : s3.MemWf := levelFinish_memWf h2 _ _
    have h4 : s4.MemWf := by unfold s4; split <;> [exact raiseEvent_memWf h3 _ _ _ _ _; exact h3]
    exact h4.congr (mapLaunch_mem _ _ _ _)

theorem cancelStrand_memWf (h : s.MemWf) (k : Nat) (r : SRef) (t : Strand) : (cancelStrand s k r t).MemWf := by
  unfold cancelStrand
  split
  · exact h.congr (mapCoreAt_mem _ _ _)
  · exact h
  · split
    · exact h.congr (mapCoreAt_mem _ _ _)
    · exact exitStrand_memWf h _ _
  · exact exitStrand_memWf h _ _

theorem cancelLaunch_memWf (h : s.MemWf) (k : Nat) (l : Launch) : (cancelLaunch s k l).MemWf := by
  unfold cancelLaunch
  split
  · exact h
  · exact completeCancelled_memWf h _ _
  · exact completeCancelled_memWf h _ _
  · exact memWf_foldl (fun u t hu => cancelStrand_memWf hu _ _ _) _ (h.congr (mapLaunch_mem _ _ _ _))

theorem cancelBelow_memWf (h : s.MemWf) (k : Nat) (v : Word) (c : List Word) : (cancelBelow s k v c).MemWf := by
  unfold cancelBelow
  split
  · refine memWf_foldl (fun w v hw => ?_) _ h
    split <;> [exact setCancelled_memWf hw _ _; exact hw]
  · exact h

/-- Cancelling a level keeps memory canonical, whatever it stops and drops (R45). -/
theorem cancelLevel_memWf (h : s.MemWf) (k : Nat) (v : Word) : (cancelLevel s k v).MemWf := by
  unfold cancelLevel
  split
  · exact h
  · extract_lets out s1
    have h1 : s1.MemWf := setCancelled_memWf h _ _
    split
    · exact h1
    · refine memWf_foldl (fun u l hu => ?_) _ (memWf_foldl (fun u v hu => cancelBelow_memWf hu _ _ _) _ h1)
      extract_lets chains u1
      have h2 : u1.MemWf := memWf_foldl (fun w c hw => cancelBelow_memWf hw _ _ _) _ hu
      split <;> [exact cancelLaunch_memWf h2 _ _; exact h2]

theorem cancelHook_memWf (b : State) (h : s.MemWf) (k : Nat) : (cancelHook b s k).MemWf := by
  refine memWf_foldl (fun u v hu => ?_) _ h
  split
  · split <;> [exact cancelLevel_memWf hu _ _; exact hu]
  · exact hu

theorem fenceNotice_memWf (h : s.MemWf) (n cls : Nat) : (fenceNotice s n cls).MemWf := by
  unfold fenceNotice
  exact raiseEvent_memWf (bump_memWf (State.MemWf.congr h (mapCoreAt_mem _ _ _)) _ _ _) _ _ _ _ _

theorem setCap_memWf (h : s.MemWf) (n : Nat) (cap : BitVec 32) : (setCap s n cap).MemWf := by
  unfold setCap
  extract_lets old t gone
  have ht : (gone.foldl (fun (u : State) i => fenceNotice u n i) t).MemWf :=
    memWf_foldl (fun u i hu => fenceNotice_memWf hu _ _) _ (State.MemWf.congr h (mapCoreAt_mem _ _ _))
  generalize gone.foldl (fun (u : State) i => fenceNotice u n i) t = v at ht
  unfold dropUncovered
  extract_lets c running
  split <;> [exact ht.congr (mapCoreAt_mem _ _ _); exact ht]

theorem capHook_memWf (b : State) (h : s.MemWf) (k : Nat) : (capHook b s k).MemWf := by
  unfold capHook
  split
  · exact h
  · refine memWf_foldl (fun u n hu => ?_) _ h
    split
    · split <;> [exact hu; exact setCap_memWf hu _ _]
    · exact hu
    · exact hu

theorem levelHook_memWf (b : State) (h : s.MemWf) : (levelHook b s).MemWf :=
  memWf_foldl (fun _ _ hu => capHook_memWf b (cancelHook_memWf b hu _) _) _ h

/-- What a commit's stores do beside writing memory keeps its form. -/
theorem capsHook_memWf (b : State) (h : s.MemWf) : (capsHook b s).MemWf := by
  unfold capsHook
  split
  · exact h
  · exact memWf_foldl (fun _ _ hu => capHook_memWf b hu _) _ h
/-- A commit that wrote nothing has no other effect. -/
theorem capsHook_same {b : State} (h : s.mem = b.mem) : capsHook b s = s := if_pos h

theorem keepsAt_withLevels {m : M Unit} (h : KeepsAt m s) : KeepsAt (withLevels m) s := levelHook_memWf s h

theorem keeps_withLevels {m : M Unit} (h : Keeps m) : Keeps (withLevels m) := fun s hs => keepsAt_withLevels (h s hs)

/-! ## The writes of one instruction, copy or command (R219) -/

theorem poisonRun_memWf (h : s.MemWf) (a n : Nat) : (poisonRun s a n).MemWf := by
  refine memWf_foldl (fun t g ht => ?_) _ h
  split
  · exact ht
  · refine bumpEcc_memWf ?_ _ _
    exact ht

theorem granuleBatch_memWf (h : s.MemWf) (held : Held → Bool) (ws : List RunWrite) : (granuleBatch s held ws).MemWf := by
  refine memWf_foldl (fun t g ht => ?_) _ h
  extract_lets bytes
  split <;> [exact granuleWrite_memWf ht _ _; exact ht]

@[simp] theorem coverHeld_mem (s : State) (held : Held → Bool) (ws : List RunWrite) : (coverHeld s held ws).mem = s.mem := by
  unfold coverHeld; split <;> rfl

theorem closeGranules_memWf (h : s.MemWf) (held : Held → Bool) (ws : List RunWrite) : (closeGranules s held ws).MemWf :=
  granuleBatch_memWf (h.congr (coverHeld_mem _ _ _)) held ws

theorem elemWrite_memWf (h : s.MemWf) (o : Issuer) (w : Writer) (n : Nat) (e : ElemWrite) : (elemWrite s o w n e).MemWf := by
  unfold elemWrite
  extract_lets s1
  have h1 : s1.MemWf := by
    unfold s1
    split
    · exact physBytes_memWf h _ _ _ _ _ _
    · exact State.MemWf.congr (pocketBytesTo_memWf h _ _) (breakResv_mem _ _ _ _)
    · exact h
  split
  · split
    · split <;> [exact h1; exact poisonRun_memWf h1 _ _]
    · exact h1
  · exact h1

theorem performWrites_memWf (h : s.MemWf) (o : Issuer) (w : Writer) (n : Nat) (ws : List ElemWrite) :
    (performWrites s o w n ws).MemWf :=
  levelHook_memWf s (granuleBatch_memWf (memWf_foldl (fun _ _ hu => elemWrite_memWf hu _ _ _ _) ws h) _ _)

/-! ## The frame of an instruction (R99) -/

/-- An instruction that passes every check runs its own effect. -/
theorem guarded_pass {i : Instr} {b : State → Host.Outcome State Fault Refusal} (h : gate i s = .pass) :
    guarded i s b = b (countGuess s) := by unfold guarded; rw [h]

/-- Outside a guess routine nothing is counted (R197). -/
theorem countGuess_of_not_guess (h : s.ctx.isGuess = false) : countGuess s = s := by simp [countGuess, h]

/-- Everything that can come before an instruction's own effect: a next state is the effect's, or one in which the
instruction has not run. -/
theorem guarded_cases {i : Instr} {b : State → Host.Outcome State Fault Refusal} (e : guarded i s b = .next t) :
    (gate i s = .pass ∧ b (countGuess s) = .next t)
    ∨ (gate i s = .stall ∧ t = s)
    ∨ (gate i s = .defer ∧ t = s.mapCtx deferFocus)
    ∨ (gate i s = .guessEnd ∧ t = s.mapCtx fun c => c.endGuess false)
    ∨ (gate i s = .escLost ∧ t = raiseTrap (s.mapCtx loseEscrow) cEscrow (instrWord i))
    ∨ ∃ cause tval, gate i s = .trap cause tval ∧ t = raiseTrap (loseExpected s) cause tval := by
  unfold guarded at e
  split at e
  · exact .inl ⟨‹_›, e⟩
  · cases e; exact .inr (.inl ⟨‹_›, rfl⟩)
  · cases e; exact .inr (.inr (.inl ⟨‹_›, rfl⟩))
  · cases e; exact .inr (.inr (.inr (.inl ⟨‹_›, rfl⟩)))
  · cases e; exact .inr (.inr (.inr (.inr (.inl ⟨‹_›, rfl⟩))))
  · cases e; exact .inr (.inr (.inr (.inr (.inr ⟨_, _, ‹_›, rfl⟩))))

/-- An instruction keeps memory canonical where its own effect does. -/
theorem guarded_memWf {i : Instr} {b : State → Host.Outcome State Fault Refusal} (h : s.MemWf)
    (hb : ∀ u v, u.MemWf → b u = .next v → v.MemWf) (e : guarded i s b = .next t) : t.MemWf := by
  obtain ⟨-, e⟩ | ⟨-, rfl⟩ | ⟨-, rfl⟩ | ⟨-, rfl⟩ | ⟨-, rfl⟩ | ⟨_, _, -, rfl⟩ := guarded_cases e
  · exact hb _ _ (h.congr (countGuess_mem s)) e
  · exact h
  · exact h
  · exact h
  · exact h.congr (by rw [raiseTrap_mem, mapCtx_mem])
  · exact h.congr (by rw [raiseTrap_mem, loseExpected_mem])

/-- With no escrow loop open a synchronous trap is taken at once. -/
theorem raiseTrap_of_no_escrow (h : s.ctx.esc = none) (c : BitVec 6) (v : Word) : raiseTrap s c v = enterTrap s false c v := by
  have ha : s.ctx.escActive = none := by simp [Ctx.escActive, h]
  simp [raiseTrap, Ctx.isGuess, Ctx.isSpec, State.narrow, ha]

end Sys2Proof.Machine
end

