-- ==== Sys2Proof/Laws/Calm.lean ====
section
/-! SUPPORT. A store in a state in which no other agent takes part (R219, R355, R336, R388): what is left of a physical
write, and the VIQ's commit where nothing lags. -/

namespace Sys2Proof.Machine

variable {s t : State}

/-- The numbers of a run. -/
theorem mem_upFrom {a n x : Nat} : x ∈ upFrom a n ↔ a ≤ x ∧ x < a + n := by
  induction n generalizing a with
  | zero => simp [upFrom]
  | succ n ih => simp only [upFrom, List.mem_cons, ih]; omega

@[simp] theorem upFrom_length (a n : Nat) : (upFrom a n).length = n := by
  induction n generalizing a with
  | zero => rfl
  | succ n ih => simp [upFrom, ih]

/-! ## Partitions that are still, and calm -/

theorem part_still (h : s.parts.all Partition.still = true) (k : Nat) : (s.part k).still = true := by
  unfold State.part
  rw [List.getD_eq_getElem?_getD]
  cases e : s.parts[k]? with
  | none => rfl
  | some p => exact List.all_eq_true.1 h p (List.mem_of_getElem? e)

theorem part_calm (h : s.parts.all Partition.calm = true) (k : Nat) : (s.part k).calm = true := by
  unfold State.part
  rw [List.getD_eq_getElem?_getD]
  cases e : s.parts[k]? with
  | none => rfl
  | some p => exact List.all_eq_true.1 h p (List.mem_of_getElem? e)

theorem still_fields {p : Partition} (h : p.still = true) :
    p.ctxbase = 0 ∧ p.gen = 0 ∧ p.taking = false ∧ p.manifests = [] ∧ p.transit = [] ∧ p.objs = [] ∧ p.caplist = 0 ∧ p.launches = []
      ∧ p.oddLines = [] ∧ p.mints = [] := by
  simpa [Partition.still, and_assoc] using h

theorem calm_fields {p : Partition} (h : p.calm = true) : p.still = true ∧ p.wqbase = 0 ∧ p.evqbase = 0 := by
  simpa [Partition.calm, and_assoc] using h

theorem all_still (h : s.parts.all Partition.calm = true) : s.parts.all Partition.still = true :=
  List.all_eq_true.2 fun p hp => (calm_fields (List.all_eq_true.1 h p hp)).1

/-- A calm chip is still. -/
theorem State.Calm.still (h : s.Calm) : s.Still := ⟨h.1, h.2.1, h.2.2.1, all_still h.2.2.2.1, h.2.2.2.2⟩

theorem jobBlock_still (h : s.parts.all Partition.still = true) (k : Nat) : jobBlock s k = none := by
  simp [jobBlock, (still_fields (part_still h k)).1]

theorem openManifest_still (h : s.parts.all Partition.still = true) (k : Nat) : openManifest (s.part k) = none := by
  simp [openManifest, (still_fields (part_still h k)).2.1]

theorem snapBefore_still (h : s.parts.all Partition.still = true) (k : Nat) (new : Bool) (page : Option PageRef) (a : Nat) :
    snapBefore s k new page a = (s, none) := by
  simp [snapBefore, openManifest_still h]

theorem paintLines_still (h : s.parts.all Partition.still = true) (k : Nat) (new : Bool) (a n : Nat) : paintLines s k new a n = s := by
  have hp := still_fields (part_still h k)
  simp [paintLines, hp.2.1, hp.2.2.2.2.2.2.2.2.1]

theorem transitHit_still (h : s.parts.all Partition.still = true) (k : Nat) (l : Loc) : transitHit s k l = false := by
  cases l <;> simp [transitHit, (still_fields (part_still h k)).2.2.2.2.1]

/-- With no job block no write is read as a job chip map's (R337). -/
theorem mapReaders_still (h : s.parts.all Partition.still = true) (a n : Nat) : mapReaders s a n = [] := by
  simp [mapReaders, jobBlock_still h]

@[simp] theorem readJobMap_nil (s : State) : readJobMap [] s = s := rfl

theorem granuleRun_calm (h : s.ecc = []) (a n : Nat) : granuleRun s a n = s := by
  unfold granuleRun
  generalize granulesOf a n = l
  induction l with
  | nil => rfl
  | cons g r ih => simpa [granuleWrite, eccAt, h] using ih

/-- With nothing held, nothing is performed. -/
@[simp] theorem settleHeld_nil (h : s.heldStores = []) (sel : Held → Nat) : settleHeld sel s = s := by simp [settleHeld, h]

@[simp] theorem flushWhere_nil (h : s.heldStores = []) (sel : Held → Bool) : flushWhere sel s = s := settleHeld_nil h _

@[simp] theorem flushHeld_nil (h : s.heldStores = []) : flushHeld s = s := flushWhere_nil h _

@[simp] theorem orderFor_nil (h : s.heldStores = []) (store scalar : Bool) (l : Loc) (n : Nat) : orderFor store scalar l n s = s :=
  settleHeld_nil h _

theorem mustWait_nil (h : s.heldStores = []) (store scalar : Bool) (l : Loc) (n : Nat) : mustWait store scalar l n s = false := by
  simp [mustWait, h]

/-- With no thread waiting, no request serves one (R243). -/
theorem served_none (h : waiters s = []) (t : State) : served s t = t := by simp [served, h]

/-! ## Control structures on a calm chip: the mailboxes (R388) -/

theorem ctlRuns_calm (h : s.parts.all Partition.calm = true) :
    ctlRuns s = (upFrom 0 s.nparts).map fun k => ⟨.mail k, mailboxAt s k, 0, 256⟩ := by
  unfold ctlRuns
  rw [List.map_eq_flatMap]
  refine List.flatMap_congr fun k _ => ?_
  obtain ⟨hs, hw, he⟩ := calm_fields (part_calm h k)
  have hp := still_fields hs
  have hf (id a b : Nat) : capField s k id a b = none := by
    simp [capField, capBody, hp.2.2.2.2.2.2.1]
  simp [baseRuns, hp.1, hw, he, objTable, capRecord, hf, eventRings, hp.2.2.2.1, savedSlots, hp.2.2.2.2.2.2.2.1]

/-- A store that meets no mailbox keeps its bytes on a calm chip. -/
theorem softBytes_calm (h : s.parts.all Partition.calm = true) (p : Priv) {a : Nat} {bs : List Byte}
    (hm : ∀ k < s.nparts, a + bs.length ≤ mailboxAt s k ∨ mailboxAt s k + 256 ≤ a) : softBytes s p a bs = bs := by
  unfold softBytes
  have : ((ctlRuns s).filter fun r => decide (r.phys < a + bs.length) && decide (a < r.phys + r.len)) = [] := by
    rw [ctlRuns_calm h, List.filter_eq_nil_iff]
    intro r hr
    obtain ⟨k, hk, rfl⟩ := List.mem_map.1 hr
    have := hm k (by simpa [mem_upFrom] using hk)
    simp only [Bool.and_eq_true, decide_eq_true_eq, not_and]
    omega
  simp [this]

/-- A run whose every byte is plain meets no mailbox. -/
theorem plain_mail {a n : Nat} (hn : 0 < n) (h : ∀ b, a ≤ b → b < a + n → ∀ k < s.nparts, b < mailboxAt s k ∨ mailboxAt s k + 256 ≤ b) :
    ∀ k < s.nparts, a + n ≤ mailboxAt s k ∨ mailboxAt s k + 256 ≤ a := by
  intro k hk
  by_contra hc
  have := h (max a (mailboxAt s k)) (by omega) (by omega) k hk
  omega

/-- With no escrow loop open anywhere a write squashes nothing (R199). -/
theorem escrowSees_calm (h : s.ctx.esc = none) (hc : s.cores.all (fun c => c.2.ctx.esc.isNone) = true) (a n : Nat) :
    escrowSees s a n = s := by
  have h1 : s.core.ctx.escActive.isSome = false := by
    have : s.core.ctx.esc = none := h
    simp [Ctx.escActive, this]
  have h2 : s.cores.map (fun p => (p.1, if p.2.ctx.escActive.isSome then
      { p.2 with ctx := squashReaders p.2.ctx (a / 128) ((a + n - 1) / 128) } else p.2)) = s.cores := by
    conv_rhs => rw [← List.map_id s.cores]
    refine List.map_congr_left fun p hp => ?_
    have : p.2.ctx.esc = none := by simpa using List.all_eq_true.1 hc p hp
    simp [Ctx.escActive, this]
  simp [escrowSees, h1, h2]

/-- Software's bits are a mask: a write leaves as many bytes as it brings. -/
@[simp] theorem softBytes_length (s : State) (p : Priv) (a : Nat) (bs : List Byte) : (softBytes s p a bs).length = bs.length := by
  unfold softBytes
  extract_lets runs
  split
  · rfl
  · simp

@[simp] theorem Writer.bytes_length (w : Writer) (s : State) (a : Nat) (bs : List Byte) : (w.bytes s a bs).length = bs.length := by
  unfold Writer.bytes; split <;> simp

theorem Writer.bytes_isEmpty (w : Writer) (s : State) (a : Nat) (bs : List Byte) : (w.bytes s a bs).isEmpty = bs.isEmpty := by
  have h := w.bytes_length s a bs
  cases bs <;> cases e : w.bytes s a _ <;> simp_all

/-- What is left of a physical write on a still chip: the bytes its writer leaves, the reservations it breaks, and a doorbell
it rings. -/
theorem physWrite_still (h : s.Still) (he : s.ctx.esc = none) {a : Nat} (hc : inCounterBlock s a = false) (k : Nat) (new : Bool)
    (w : Writer) (page : Option PageRef) (bs : List Byte) (hb : bs ≠ []) :
    physWrite s k new w page a bs =
      mailSee (breakResv { s with mem := setBytes s.mem a (w.bytes s a bs) } w.core a bs.length) a bs.length := by
  obtain ⟨h1, -, -, h4, h5, -⟩ := h
  have hn : bs.isEmpty = false := by simpa using hb
  generalize hm : setBytes s.mem a (w.bytes s a bs) = m
  have hcores : (breakResv { s with mem := m } w.core a bs.length).cores.all (fun c => c.2.ctx.esc.isNone) = true := by
    simp only [breakResv, List.all_map, List.all_eq_true] at h5 ⊢
    intro p hp
    have := h5 p hp
    simp only [Function.comp]
    split
    · split <;> exact this
    · exact this
  have hctx : (breakResv { s with mem := m } w.core a bs.length).ctx.esc = none := by
    show (Core.ctx _).esc = none
    simp only [breakResv]
    split
    · split <;> exact he
    · exact he
  simp only [physWrite, hn, hc, Bool.false_or, Bool.false_eq_true, if_false, granuleRun_calm h1]
  unfold physBytes rawWrite
  have hw : (w.bytes s a bs).isEmpty = false := by rw [Writer.bytes_isEmpty, hn]
  simp only [hn, hc, hw, Bool.false_or, Bool.false_eq_true, if_false, snapBefore_still h4, mapReaders_still h4, readJobMap_nil,
    Writer.bytes_length]
  rw [hm, paintLines_still (s := { s with mem := m }) h4, escrowSees_calm hctx hcores]

/-- On a still chip a write's bytes are in memory, and nothing else of memory has changed. -/
theorem physWrite_still_mem (h : s.Still) (he : s.ctx.esc = none) {a : Nat} (hc : inCounterBlock s a = false) (k : Nat) (new : Bool)
    (w : Writer) (page : Option PageRef) (bs : List Byte) (hb : bs ≠ []) :
    (physWrite s k new w page a bs).mem = setBytes s.mem a (w.bytes s a bs) := by
  rw [physWrite_still h he hc k new w page bs hb, mailSee_mem, breakResv_mem]

/-- On a calm chip, outside the mailboxes, any writer's bytes are in memory as they are. -/
theorem physWrite_calm_mem (h : s.Calm) (he : s.ctx.esc = none) {a : Nat} (hc : inCounterBlock s a = false) (k : Nat) (new : Bool)
    (w : Writer) (page : Option PageRef) (bs : List Byte) (hb : bs ≠ [])
    (hm : ∀ k < s.nparts, a + bs.length ≤ mailboxAt s k ∨ mailboxAt s k + 256 ≤ a) :
    (physWrite s k new w page a bs).mem = setBytes s.mem a bs := by
  rw [physWrite_still_mem h.still he hc k new w page bs hb]
  unfold Writer.bytes
  split <;> [rw [softBytes_calm h.2.2.2.1 _ hm]; rfl]

/-- With no launch and no capability list, no store is a cancel or reaches a CAP word (R332, R315). -/
theorem levelHook_still (b : State) (h : b.parts.all Partition.still = true) (u : State) : levelHook b u = u := by
  unfold levelHook
  generalize upFrom 0 b.nparts = l
  induction l with
  | nil => rfl
  | cons k r ih =>
    have hp := still_fields (part_still h k)
    simpa [cancelHook, capHook, knownLevels, hp.2.2.2.2.2.2.1, hp.2.2.2.2.2.2.2.1] using ih

/-- With no capability list, no commit reaches a CAP word (R199, R315). -/
theorem capsHook_still (b : State) (h : b.parts.all Partition.still = true) (u : State) : capsHook b u = u := by
  unfold capsHook
  split
  · rfl
  · generalize upFrom 0 b.nparts = l
    induction l with
    | nil => rfl
    | cons k r ih => simpa [capHook, (still_fields (part_still h k)).2.2.2.2.2.2.1] using ih

/-! ## Commit where nothing lags (R113, R120, R270) -/

@[simp] theorem viqPush_viq (i : Instr) (b : List Byte) (s : State) : (viqPush i b s).ctx.viq = s.ctx.viq ++ [viqEntry i b s] := rfl
@[simp] theorem viqPush_lag (i : Instr) (b : List Byte) (s : State) : (viqPush i b s).lag = s.lag := rfl
@[simp] theorem viqPush_mem (i : Instr) (b : List Byte) (s : State) : (viqPush i b s).mem = s.mem := rfl
/-- Freeing what was held behind an entry leaves memory. -/
@[simp] theorem unholdBehind_mem (id : Nat) (s : State) : (unholdBehind id s).mem = s.mem := by
  unfold unholdBehind; extract_lets mine; split <;> rfl

theorem granuleBatch_calm (h : s.ecc = []) (held : Held → Bool) (ws : List RunWrite) : granuleBatch s held ws = s := by
  simp [granuleBatch, h]

/-- An entry's granule writes change memory only where a granule has a condition (R219). -/
theorem headGranules_mem (en : VEntry) (h : s.ecc = []) : (headGranules en s).mem = s.mem := by
  unfold headGranules
  split
  · split
    · rfl
    · unfold closeGranules
      dsimp only
      rw [granuleBatch_calm (by unfold coverHeld; split <;> exact h), coverHeld_mem]
  · rfl

/-- An entry that leaves the queue leaves memory where no granule has a condition. -/
theorem viqLeave_mem (en : VEntry) (h : s.ecc = []) : (viqLeave en s).mem = s.mem := by
  simp [viqLeave, headGranules_mem en h]

@[simp] theorem viqFault_mem (s : State) (n : Nat) (w : BitVec 32) (c : BitVec 6) (v : Option Word) (e : Nat) :
    (viqFault s n w c v e).mem = s.mem := rfl
@[simp] theorem viqAfter_mem (s : State) : (viqAfter s).mem = s.mem := by unfold viqAfter; split <;> rfl

/-- The head entry's step, by what its execution says. -/
theorem viqStep_head {en : VEntry} {rest : List VEntry} (h : s.ctx.viq = en :: rest) (hf : en.frozen = false)
    (hu : entryConsumes s en = false) :
    viqStep s = match viqHead en s with
      | .done t => .next (viqAfter (viqLeave en t))
      | .wait => .next s
      | .fault t cause tval ves => .next (headFault en t cause tval ves)
      | .port a => .refused (.devicePort a) := by
  unfold viqStep
  rw [h]
  simp only [hf, hu, Bool.or_self, Bool.false_eq_true, if_false]
  all_goals cases viqHead en s <;> rfl

/-- An instruction committed to an empty queue that does not lag runs at once and retires. -/
theorem viqCommit_runs {i : Instr} {b : List Byte} (hg : gate i s = .pass) (hn : s.ctx.isGuess = false) (hv : s.ctx.viq = [])
    (hl : s.lag = false) (hu : entryConsumes (viqPush i b s) (viqEntry i b s) = false) (hd : viqHead (viqEntry i b s) (viqPush i b s) = .done t) :
    viqCommit i b s = .next (retire (viqAfter (viqLeave (viqEntry i b s) t))) := by
  have hq : (viqPush i b s).ctx.viq = [viqEntry i b s] := by rw [viqPush_viq, hv]; rfl
  unfold viqCommit
  rw [guarded_pass hg, countGuess_of_not_guess hn]
  simp only [viqFull, hv, List.length_nil, viqRetire, viqPush_lag, hl, viqAll, hq, viqDrain, List.length_cons,
    viqStep_head hq (rfl : (viqEntry i b s).frozen = false) hu, hd]
  simp

/-- One that faults freezes the queue, with the trap pending, and retires (R272). -/
theorem viqCommit_faults {i : Instr} {b : List Byte} {c : BitVec 6} {v : Option Word} {e : Nat} (hg : gate i s = .pass)
    (hn : s.ctx.isGuess = false) (hv : s.ctx.viq = []) (hl : s.lag = false)
    (hu : entryConsumes (viqPush i b s) (viqEntry i b s) = false)
    (hd : viqHead (viqEntry i b s) (viqPush i b s) = .fault t c v e) :
    viqCommit i b s = .next (retire (headFault (viqEntry i b s) t c v e)) := by
  have hq : (viqPush i b s).ctx.viq = [viqEntry i b s] := by rw [viqPush_viq, hv]; rfl
  unfold viqCommit
  rw [guarded_pass hg, countGuess_of_not_guess hn]
  simp only [viqFull, hv, List.length_nil, viqRetire, viqPush_lag, hl, viqAll, hq, viqDrain, List.length_cons,
    viqStep_head hq (rfl : (viqEntry i b s).frozen = false) hu, hd]
  simp

/-- One that must wait stays queued, and the instruction retires. -/
theorem viqCommit_waits {i : Instr} {b : List Byte} (hg : gate i s = .pass) (hn : s.ctx.isGuess = false) (hv : s.ctx.viq = [])
    (hl : s.lag = false) (hu : entryConsumes (viqPush i b s) (viqEntry i b s) = false) (hd : viqHead (viqEntry i b s) (viqPush i b s) = .wait) :
    viqCommit i b s = .next (retire (viqPush i b s)) := by
  have hq : (viqPush i b s).ctx.viq = [viqEntry i b s] := by rw [viqPush_viq, hv]; rfl
  unfold viqCommit
  rw [guarded_pass hg, countGuess_of_not_guess hn]
  simp only [viqFull, hv, List.length_nil, viqRetire, viqPush_lag, hl, viqAll, hq, viqDrain, List.length_cons,
    viqStep_head hq (rfl : (viqEntry i b s).frozen = false) hu, hd]
  simp

end Sys2Proof.Machine
end

