-- ==== Sys2Proof/Tests/Slice0.lean ====
section
/-! SUPPORT. The model's own tests: ill-formed terms that WellFormed refuses, words written out from the spec's encoding
tables, a state that meets the hypotheses of each statement, and small one-step tests. -/

namespace Sys2Proof.Tests

open Sys2Proof.Machine

set_option Elab.async false

/-! ## Small states -/

/-- Registers set over a state. -/
def withX (l : List (XReg × Word)) (s : State) : State := l.foldl (fun (t : State) p => t.setX p.1 p.2) s

/-- Memory bytes at an address. -/
def withMem (a : Nat) (bs : List Byte) (s : State) : State := { s with mem := setBytes s.mem a bs }

/-- A little-endian number in memory. -/
def withLe (a n v : Nat) (s : State) : State := { s with mem := setLe s.mem a n v }

/-- The privilege of the core. -/
def withPriv (p : Priv) (s : State) : State := { s with core := { s.core with priv := p } }

/-- Reset with the registers given. -/
def regs (l : List (XReg × Word)) : State := withX l State.reset

/-- The user CSRs changed. -/
def withU (f : UCsr → UCsr) (s : State) : State := s.mapU f

/-- A pocket of 1,024 bytes with the given ones from offset 0. -/
def withPocket (bs : List Byte) (s : State) : State := s.mapCtx fun c => { c with pocb := 1024, pocket := setBytes [] 0 bs }

/-- A vector register that is FULL with a tag and data bytes. -/
def withV (r : VReg5) (tag : Byte) (bs : List Byte) (s : State) : State :=
  s.mapCtx fun c => c.mapVr r fun v => { v with tag := tag, st := .full, data := setBytes [] 0 bs }

/-- What a step leaves; reset for a stop. -/
def nextOf (o : Host.Outcome State Fault Refusal) : State :=
  match o with
  | .next t => t
  | .fault _ => State.reset
  | .refused _ => State.reset

/-- A step goes on. -/
def goes (o : Host.Outcome State Fault Refusal) : Bool :=
  match o with
  | .next _ => true
  | .fault _ => false
  | .refused _ => false

/-! ## Ill-formed terms -/

theorem test_wf_csr : (Instr.csrWrite .rw csrVl 1 2).wf = false := by decide
theorem test_wf_partition : (Instr.partitionSetup .rsi 3 1).wf = false := by decide
theorem test_wf_profile : (Instr.profileEnableWrite .rw 1 2).wf = false := by decide
theorem test_wf_loop_count : (Instr.loop 0 1 0).wf = false := by decide
theorem test_wf_loop_level : (Instr.loop 4 1 6).wf = false := by decide
theorem test_wf_lexit : (Instr.lexit 6).wf = false := by decide
theorem test_wf_lrd : (Instr.lrd 24 1).wf = false := by decide
theorem test_wf_vsetl : (Instr.vsetl 5 1 2).wf = false := by decide
theorem test_wf_qfence : (Instr.qfence 4).wf = false := by decide
theorem test_wf_efence : (Instr.efence 4).wf = false := by decide
theorem test_wf_vcmp_vv : (Instr.vcmpVv false 1 2 0 0 0).wf = false := by decide
theorem test_wf_vcmp_vx : (Instr.vcmpVx false 1 2 0 0 0).wf = false := by decide
theorem test_wf_vcmp_vi : (Instr.vcmpVi false 1 2 0 0 0).wf = false := by decide
theorem test_wf_slideup : (Instr.vslideupVi false 16 1 0 2).wf = false := by decide
theorem test_wf_events : (Instr.capWrite 272 0).wf = false ∧ (Instr.escrowHelperJoin 256).wf = false
    ∧ (Instr.escrowHelperReclaim 256).wf = false ∧ (Instr.cpyvElementLand 4 0).wf = false ∧ (Instr.copyComplete 4).wf = false
    ∧ (Instr.cringReserve 4).wf = false ∧ (Instr.latepf 65536).wf = false ∧ (Instr.tellerRemap 1024).wf = false
    ∧ (Instr.hostTailWrite 0 16384 0).wf = false ∧ (Instr.wsTakeRecord 16 0).wf = false ∧ (Instr.placeStrand 0 256 0).wf = false
    ∧ (Instr.reallocationIntervalEnd 16).wf = false ∧ (Instr.waitSatisfied 0 0 512).wf = false := by decide
theorem test_wf_chip_events : (Instr.ringProducerLeave 16 0).wf = false ∧ (Instr.assayCoreClaim 16).wf = false
    ∧ (Instr.assayComplete 0 31 true).wf = false ∧ (Instr.stitchMarker 0 0 ⟨26, 0⟩).wf = false ∧ (Instr.stitchMarker 0 0 ⟨0, 5⟩).wf = false ∧ (Instr.chipDone 16).wf = false
    ∧ (Instr.doneMessage 16 0 0).wf = false ∧ (Instr.abandonMessage 16 0).wf = false ∧ (Instr.rollbackMessage 0 ⟨26, 0⟩).wf = false
    ∧ (Instr.linkCalibration 26).wf = false ∧ (Instr.dbell 16).wf = false ∧ (Instr.mailboxSetTdp 16).wf = false
    ∧ (Instr.mailboxAttest 16).wf = false ∧ (Instr.mailboxReadMeasurements 16).wf = false
    ∧ (Instr.jobBlockWrite 16 0 0).wf = false ∧ (Instr.peerRequest ⟨26, .load 1 0 8⟩).wf = false
    ∧ (Instr.chunkReceive ⟨26, 0, ⟨0, 0, 0, 0, 0, 0, []⟩, 0, false, 0, [], .none, [], false, false⟩).wf = false := by decide

/-! ## Words written out from the encoding tables of spec/04 -/

theorem test_decode_base_alu : decode 0x00500093 = some (.baseAlu (.opImm .addi 1 0 5)) := by decide
theorem test_decode_loop : decode 0x00C3000B = some (.loop 12 6 0) := by decide
theorem test_decode_lexit : decode 0x0000140B = some (.lexit 2) := by decide
theorem test_decode_lrd : decode 0x0670128B = some (.lrd 7 5) := by decide
theorem test_decode_esc : decode 0x2005100B = some (.escOpen 10) ∧ decode 0x2200128B = some (.escCmp 5) := by decide
theorem test_decode_vtag : decode 0x040FA08B = some (.vtag 31 1) := by decide
theorem test_decode_vsetl : decode 0x0232A38B = some (.vsetl 3 5 7) := by decide
theorem test_decode_cpy : decode 0xC0A5B00B = some (.cpy 3 10 11 0) := by decide
theorem test_decode_teller : decode 0x0097C00B = some (.tadd 0 9 15 0) ∧ decode 0x4CC5C50B = some (.tcas 1 12 11 10) := by decide
theorem test_decode_sys : decode 0x0600500B = some .sexit ∧ decode 0x1405500B = some (.evt 10)
    ∧ decode 0x1005D50B = some (.mint 11 10) ∧ decode 0x16C5D50B = some (.cho 12 11 10)
    ∧ decode 0x18B5500B = some (.tlbinv 11 10) ∧ decode 0x00C5D50B = some (.wqpost 12 11 10) := by decide
theorem test_decode_snap : decode 0x0A00550B = some (.snapBegin 10) ∧ decode 0x0C05D50B = some (.snapStat 11 10)
    ∧ decode 0x0E05500B = some (.snapRollback 10) ∧ decode 0x1A05500B = some (.vaultSwap 10)
    ∧ decode 0x1205500B = some (.assayReq 10) := by decide
theorem test_decode_sync : decode 0x0400EF0B = some (.vmpop false 1 30) ∧ decode 0x0020700B = some (.qfence 2) := by decide
theorem test_decode_ring : decode 0x1607438B = some (.rres 14 7) ∧ decode 0x21D7C38B = some (.bar 29 15 7)
    ∧ decode 0x11D6C00B = some (.pset 29 13) ∧ decode 0x0EB5418B = some (.tcmd 11 10 3) := by decide
theorem test_decode_mem : decode 0x000600AB = some (.vldUnit false 12 0 1) ∧ decode 0xA465012B = some (.vtadd false 6 10 0 2) := by decide
theorem test_decode_vec : decode 0x05E081DB = some (.vaddVi false 30 1 0 3) ∧ decode 0x33C0815B = some (.vmacVx false 28 1 0 2)
    ∧ decode 0xC401035B = some (.vcmpVi false 0 2 0 1 2) := by decide
theorem test_decode_cable : decode 0x028032FB = some (.kadd 40 3) ∧ decode 0x8C40707B = some (.dmac true false 6 4 7)
    ∧ decode 0x1280777B = some (.doutBa false 9 8 7) := by decide
theorem test_decode_hint : decode 0xFE00500B = some .hint := by decide
theorem test_decode_illegal : decode 0xF02080DB = none ∧ decode 0xFE00510B = none ∧ decode 0 = none := by decide

/-! ## States that meet the statements' hypotheses -/

theorem test_hyp_decode : (Instr.baseAlu (.opImm .addi 1 0 5)).wf = true ∧ encode (.baseAlu (.opImm .addi 1 0 5)) = some 0x00500093
    ∧ decode 0x00500093 = some (.baseAlu (.opImm .addi 1 0 5)) := by decide

/-- `addi x1, x0, 5` where the first step fetches. -/
def sAddi : State := withLe 0 4 0x00500093 State.reset

theorem test_hyp_step : sAddi.agenda = [] ∧ sAddi.Clear ∧ sAddi.core.copies = [] ∧ coreHeld sAddi = false ∧ sleeps sAddi = false
    ∧ sAddi.core.wfi = false ∧ boundary sAddi = none ∧ idles sAddi = false ∧ focusHeld sAddi.ctx = false
    ∧ queueConsumes sAddi = false ∧ (fetchM.run sAddi).1 = .ok 0x00500093
    ∧ consumesNew (fetchM.run sAddi).2 (.baseAlu (.opImm .addi 1 0 5)) = false ∧ sAddi.core.priv = .machine
    ∧ physOk sAddi.ctx.pc.toNat 4 = true ∧ sAddi.ecc = [] ∧ sAddi.heldStores = []
    ∧ decode (BitVec.ofNat 32 (getLe sAddi.mem sAddi.ctx.pc.toNat 4)) = some (.baseAlu (.opImm .addi 1 0 5)) := by
  refine ⟨rfl, by decide, rfl, by decide, by decide, rfl, rfl, by decide, by decide, by decide, by decide, by decide, rfl, ?_, rfl, rfl, ?_⟩ <;> decide
theorem test_hyp_step_settle : settle sAddi = .next sAddi := rfl
theorem test_step_addi : (nextOf (step sAddi)).x 1 = 5 ∧ (nextOf (step sAddi)).ctx.pc = 4 := by decide
theorem test_hyp_step_illegal : settle State.reset = .next State.reset ∧ (fetchM.run State.reset).1 = .ok 0 ∧ decode 0 = none := by
  refine ⟨rfl, by decide, by decide⟩
theorem test_step_illegal : (nextOf (step State.reset)).core.csr.mcause = 2 ∧ (nextOf (step State.reset)).core.csr.mtval = 0 := by decide

theorem test_hyp_invariant : Memory.wf State.reset.mem = true ∧ goes (step sAddi) = true ∧ Memory.wf sAddi.mem = true := by decide
theorem test_memory_read_after_write : getLe (setLe (setLe [] 8 8 0x1122334455667788) 10 2 0) 8 8 = 0x1122334400007788
    ∧ setLe (setLe [] 8 8 5) 8 8 0 = [] := by decide

theorem test_hyp_ready : Ready (.baseAlu (.opImm .addi 1 0 5)) State.reset := by decide
theorem test_hyp_checks : (withPriv .user State.reset).Clear ∧ privOk (withPriv .user State.reset) (opAttr .mret) = false
    ∧ State.reset.Clear ∧ privOk State.reset (opAttr .mret) = true := by decide
/-- A partition with no profile enabled, in U-mode. -/
def sNoProf : State := withPriv .user (State.reset.mapPart 0 fun p => { p with prof := 0 })
theorem test_hyp_checks_profile : sNoProf.Clear ∧ privOk sNoProf (opAttr (.vsetl 0 1 2)) = true
    ∧ profOk sNoProf (opAttr (.vsetl 0 1 2)) = false := by decide
/-- A core with every class fenced. -/
def sFenced : State := { State.reset with core := { State.reset.core with assaycap := 0 } }
theorem test_hyp_checks_fenced : sFenced.Clear ∧ privOk sFenced (opAttr (.cpy 0 1 2 0)) = true
    ∧ profOk sFenced (opAttr (.cpy 0 1 2 0)) = true ∧ (decodeClass (.cpy 0 1 2 0)).any sFenced.fenced = true := by decide

/-- U-mode with every cause delegated, vector bases set. -/
def sDeleg : State := { withPriv .user State.reset with core := { (withPriv .user State.reset).core with
  csr := { State.reset.core.csr with medeleg := -1, stvec := 0x100, mtvec := 0x200 } } }
theorem test_hyp_trap_supervisor : trapTarget sDeleg.core false 8 = .supervisor := by decide
theorem test_hyp_trap_machine : trapTarget State.reset.core false 8 = .machine := by decide
theorem test_trap_supervisor : (enterTrap sDeleg false 8 7).ctx.pc = 0x100 ∧ (enterTrap sDeleg false 8 7).core.csr.scause = 8
    ∧ (enterTrap sDeleg false 8 7).core.csr.stval = 7 ∧ (enterTrap sDeleg false 8 7).core.priv = .supervisor := by decide

theorem test_hyp_ecall : Ready .ecall State.reset ∧ Ready .ebreak State.reset ∧ State.reset.ctx.esc = none := by decide
theorem test_ecall_user : (nextOf (exec .ecall sDeleg)).core.csr.scause = 8 := by decide
theorem test_hyp_mret : Ready .mret State.reset ∧ State.reset.core.csr.mepc.extractLsb' 0 2 = 0 := by decide
theorem test_hyp_sret : Ready .sret (withPriv .supervisor State.reset)
    ∧ (withPriv .supervisor State.reset).core.csr.sepc.extractLsb' 0 2 = 0
    ∧ (withPriv .supervisor State.reset).core.migrate = false
    ∧ (withPriv .supervisor State.reset).core.csr.mstatus.getLsbD bitTSR = false := by decide
theorem test_hyp_return_frozen : State.reset.ctx.vfault = none ∧ mppOf State.reset.core.csr.mstatus = .user
    ∧ mppOf (putMpp State.reset.core.csr.mstatus .machine) = .machine := by decide
theorem test_mret_user : (nextOf (exec .mret State.reset)).core.priv = .user := by decide

/-- Level 0 active at body start and stop 0, with a count. -/
def sLoop (rem : Word) : State := State.reset.mapCtx fun c => { c with loops := c.loops.set 0 ⟨rem, 0x40, 0, 3, true, false⟩ }
theorem test_hyp_retire : topLevel State.reset.ctx.loops = none := by decide
theorem test_hyp_retire_again : (sLoop 2).ctx.esc = none ∧ topLevel (sLoop 2).ctx.loops = some 0
    ∧ (sLoop 2).ctx.loops[0].susp = false ∧ (sLoop 2).ctx.loops[0].stop = (sLoop 2).ctx.pc ∧ (sLoop 2).ctx.loops[0].rem ≠ 1 := by decide
theorem test_hyp_retire_last : (sLoop 1).ctx.esc = none ∧ topLevel (sLoop 1).ctx.loops = some 0
    ∧ (sLoop 1).ctx.loops[0].susp = false ∧ (sLoop 1).ctx.loops[0].stop = (sLoop 1).ctx.pc ∧ (sLoop 1).ctx.loops[0].rem = 1
    ∧ ∀ j : Fin 6, j < 0 → (sLoop 1).ctx.loops[j].act = true → (sLoop 1).ctx.loops[j].stop ≠ (sLoop 1).ctx.pc := by decide
/-- Levels 0 and 1 end their bodies at the pc, level 1 in its last iteration. -/
def sNested : State := State.reset.mapCtx fun c => { c with
  loops := (c.loops.set 0 ⟨2, 0x40, 0, 3, true, false⟩).set 1 ⟨1, 0x50, 0, 6, true, false⟩ }
theorem test_hyp_retire_nested : sNested.ctx.esc = none ∧ sNested.ctx.loops[1].rem = 1 ∧ sNested.ctx.loops[1].act = true
    ∧ sNested.ctx.loops[1].susp = false ∧ sNested.ctx.loops[1].stop = sNested.ctx.pc ∧ sNested.ctx.loops[0].act = true
    ∧ sNested.ctx.loops[0].susp = false ∧ sNested.ctx.loops[0].stop = sNested.ctx.pc ∧ sNested.ctx.loops[0].rem ≠ 1
    ∧ (∀ i : Fin 6, 1 < i → sNested.ctx.loops[i].act = false) := by decide
theorem test_retire_nested : (retire sNested).ctx.pc = 0x40 ∧ (retire sNested).ctx.loops[1].act = false
    ∧ (retire sNested).ctx.loops[0].rem = 1 ∧ (retire (sLoop 2)).ctx.instret = 1 := by decide
theorem test_retire_loop : (retire (sLoop 2)).ctx.pc = 0x40 ∧ (retire (sLoop 2)).ctx.loops[0].idx = 4
    ∧ (retire (sLoop 1)).ctx.pc = 4 ∧ (retire (sLoop 1)).ctx.loops[0].act = false := by decide

theorem test_hyp_alu_values : (0 : Word) = 0 ∧ (5 : Word) ≠ 0 ∧ (0x8000000000000000 : Word).toInt = -(2 ^ 63) := by decide
theorem test_alu_values : regOp .mulh (-2) 3 = -1 ∧ regOp .mulhsu (-2) 3 = -1 ∧ regOp .div (-7) 2 = -3 ∧ regOp .rem (-7) 2 = -1
    ∧ regOp .sra (-8) 1 = -4 ∧ regWOp .addw 0x7FFFFFFF 1 = 0xFFFFFFFF80000000 := by decide

theorem test_hyp_branch : Ready (.baseBranchJump (.branch .ne 0 0 8)) State.reset
    ∧ jumpTarget (.branch .ne 0 0 8) State.reset.ctx = none := by decide
theorem test_hyp_jump : Ready (.baseBranchJump (.jal 1 4)) State.reset ∧ jumpTarget (.jal 1 4) State.reset.ctx = some 8
    ∧ (8 : Word).extractLsb' 0 2 = 0 ∧ jumpTarget (.jal 1 1) State.reset.ctx = some 2
    ∧ (2 : Word).extractLsb' 0 2 ≠ 0 := by decide
/-- Levels 0 and 1 active, their bodies 0x40 to 0x80 and 0x50 to 0x60. -/
def sLoops : State := State.reset.mapCtx fun c => { c with
  loops := (c.loops.set 0 ⟨2, 0x40, 0x80, 0, true, false⟩).set 1 ⟨2, 0x50, 0x60, 0, true, false⟩ }
theorem test_hyp_jump_inside : ∀ n : Fin 6, sLoops.ctx.loops[n].act = true →
    sLoops.ctx.loops[n].start.toNat ≤ (0x58 : Word).toNat ∧ (0x58 : Word).toNat ≤ sLoops.ctx.loops[n].stop.toNat := by decide
theorem test_hyp_jump_out : (∀ j : Fin 6, j < 1 → sLoops.ctx.loops[j].act = true →
      sLoops.ctx.loops[j].start.toNat ≤ (0x44 : Word).toNat ∧ (0x44 : Word).toNat ≤ sLoops.ctx.loops[j].stop.toNat)
    ∧ sLoops.ctx.loops[1].act = true ∧ sLoops.ctx.loops[1].susp = false ∧ (0x44 : Word).toNat < sLoops.ctx.loops[1].start.toNat
    ∧ ∀ j : Fin 6, 1 < j → sLoops.ctx.loops[j].act = true →
      (0x44 : Word).toNat < sLoops.ctx.loops[j].start.toNat ∨ sLoops.ctx.loops[j].stop.toNat < (0x44 : Word).toNat := by decide
theorem test_hyp_jump_past : sLoops.ctx.isGuess = false ∧ sLoops.ctx.loops[0].act = true ∧ sLoops.ctx.loops[0].susp = false
    ∧ ∀ j : Fin 6, ¬(sLoops.ctx.loops[j].act = true ∧ sLoops.ctx.loops[j].start.toNat ≤ (0x90 : Word).toNat
      ∧ (0x90 : Word).toNat ≤ sLoops.ctx.loops[j].stop.toNat) := by decide
theorem test_jump_pops : (retireJump sLoops 0x44).ctx.loops[1].act = false ∧ (retireJump sLoops 0x44).ctx.loops[0].act = true
    ∧ (retireJump sLoops 0x90).ctx.loops[0].act = false ∧ (retireJump sLoops 0x58).ctx.loops = sLoops.ctx.loops := by decide

/-! ### Base memory and CSRs -/

/-- x1 = 0x1000 with the bytes 0x80, 0xFF, 1, 2 there, in M-mode. -/
def sMem : State := withX [(1, 0x1000), (2, 0x1122334455667788)] (withMem 0x1000 [0x80, 0xFF, 1, 2] State.reset)

theorem test_hyp_load : Ready (.baseLoad .lh 3 1 0) sMem ∧ sMem.ecc = [] ∧ sMem.heldStores = []
    ∧ PlainAccess sMem (sMem.x 1 + simm12 0) 2 := by decide
theorem test_load : (nextOf (exec (.baseLoad .lh 3 1 0) sMem)).x 3 = 0xFFFFFFFFFFFFFF80
    ∧ (nextOf (exec (.baseLoad .lhu 3 1 0) sMem)).x 3 = 0xFF80 := by decide
/-- U-mode with one leaf of 2 GiB at the root, read permission, and a word at 0x100000. -/
def sUser : State := withX [(1, 0x100000)] (withPriv .user (withLe 0x100000 4 0x89ABCDEF (withLe 0x10000 8 0x53
  (State.reset.mapPart 0 fun p => { p with ptroot := 0x10000 }))))
theorem test_hyp_user_load : Ready (.baseLoad .lw 3 1 0) sUser ∧ sUser.ecc = [] ∧ sUser.heldStores = [] ∧ sUser.core.priv = .user
    ∧ (sUser.x 1 + simm12 0).toNat % 4 = 0 ∧ (sUser.x 1 + simm12 0).toNat < Config.windowBase ∧ (sUser.part sUser.pidx).tlb = []
    ∧ walk sUser sUser.pidx 0x100000 = .leaf 0x10000 0x53 0 0x80000000 ∧ leafBad 0x53 = false ∧ (0x53 : Word).getLsbD 4 = true
    ∧ (0x53 : Word).getLsbD 1 = true ∧ (0x53 : Word).getLsbD 6 = true ∧ leafLoc 0x53 = 0
    ∧ leafFrame 0x53 * 65536 + (0x100000 - 0) < Config.hbmBytes := by decide
/-- The leaf of `sUser` readable and writable, A and D clear. -/
def sUserW : State := withLe 0x10000 8 0x17 (withX [(2, 0x1122334455667788)] sUser)
theorem test_hyp_user_leaf : sUserW.Calm ∧ Memory.wf sUserW.mem = true ∧ UserLeaf sUserW 0x100000 4 .load 0x10000 0 0x80000000 0x17
    ∧ UserLeaf sUserW 0x100000 4 .store 0x10000 0 0x80000000 0x17 ∧ leafAD 0x17 .store ≠ 0x17 ∧ leafAD 0xD7 .store = 0xD7 := by
  refine ⟨by decide, by decide, ?_, ?_, by decide, by decide⟩ <;> decide
theorem test_hyp_user_forms : Ready (.baseLoad .lw 3 1 0) sUserW ∧ Ready (.baseStore .sw 2 1 0) sUserW
    ∧ Ready (.baseAmo .add false false false 3 1 2) sUserW ∧ Ready (.baseLr false false false 3 1) sUserW
    ∧ Ready (.baseSc false false false 3 1 2) sUserW ∧ sUserW.core.resv ≠ some (0x100000 / 128) := by decide
/-- The same with A and D set, and the reservation of its line. -/
def sUserResv : State := { withLe 0x10000 8 0xD7 sUserW with core := { sUserW.core with resv := some (0x100000 / 128) } }
theorem test_hyp_user_sc : Ready (.baseSc false false false 3 1 2) sUserResv ∧ sUserResv.Calm ∧ Memory.wf sUserResv.mem = true
    ∧ UserLeaf sUserResv 0x100000 4 .store 0x10000 0 0x80000000 0xD7 ∧ sUserResv.core.resv = some (0x100000 / 128) := by
  refine ⟨by decide, by decide, by decide, by decide, by decide⟩
theorem test_user_store : getLe (nextOf (exec (.baseStore .sw 2 1 0) sUserW)).mem 0x100000 4 = 0x55667788
    ∧ getLe (nextOf (exec (.baseStore .sw 2 1 0) sUserW)).mem 0x10000 8 = 0xD7
    ∧ (nextOf (exec (.baseSc false false false 3 1 2) sUserResv)).x 3 = 0 := by decide
theorem test_hyp_store : Ready (.baseStore .sw 2 1 4) sMem ∧ sMem.Calm ∧ Memory.wf sMem.mem = true
    ∧ PlainAccess sMem (sMem.x 1 + simm12 4) 4 := by decide
theorem test_store : (nextOf (exec (.baseStore .sw 2 1 4) sMem)).mem = setBytes sMem.mem 0x1004 [0x88, 0x77, 0x66, 0x55]
    ∧ (nextOf (exec (.baseStore .sw 2 1 4) sMem)).ctx.pc = 4 := by decide
theorem test_hyp_amo : Ready (.baseAmo .add false false false 3 1 2) sMem ∧ sMem.Calm ∧ Memory.wf sMem.mem = true
    ∧ PlainAccess sMem (sMem.x 1) 4 := by decide
theorem test_amo : (nextOf (exec (.baseAmo .add false false false 3 1 2) sMem)).x 3 = 0x201FF80
    ∧ getLe (nextOf (exec (.baseAmo .add false false false 3 1 2) sMem)).mem 0x1000 4 = 0x57687708 := by decide
theorem test_hyp_misaligned : (sMem.x 1 + simm12 1).toNat % 2 ≠ 0 ∧ (sMem.x 1 + simm12 1).toNat % 4 ≠ 0
    ∧ (withX [(1, 0x1002)] sMem).Calm ∧ Ready (.baseAmo .add false false false 3 1 2) (withX [(1, 0x1002)] sMem)
    ∧ ((withX [(1, 0x1002)] sMem).x 1).toNat % 4 ≠ 0 := by decide
theorem test_misaligned : (nextOf (exec (.baseLoad .lh 3 1 1) sMem)).core.csr.mcause = 4
    ∧ (nextOf (exec (.baseStore .sw 2 1 1) sMem)).core.csr.mcause = 6 := by decide
theorem test_hyp_mis : Ready (.baseLr false false false 3 1) (regs [(1, 4098)]) ∧ Ready (.baseSc false false false 3 1 2) (regs [(1, 4098)])
    ∧ (regs [(1, 4098)]).Calm ∧ ((regs [(1, 4098)]).x 1).toNat % amoBytes false ≠ 0 := by decide
theorem test_hyp_lr : Ready (.baseLr false false false 3 1) sMem ∧ PlainAccess sMem (sMem.x 1) 4 := by decide
/-- With the reservation of the line at 0x1000. -/
def sResv : State := { sMem with core := { sMem.core with resv := some 32 } }
theorem test_hyp_sc : Ready (.baseSc false false false 3 1 2) sResv ∧ sResv.Calm ∧ Memory.wf sResv.mem = true
    ∧ PlainAccess sResv (sResv.x 1) 4 ∧ sResv.core.resv = some ((sResv.x 1).toNat / 128)
    ∧ sMem.core.resv ≠ some ((sMem.x 1).toNat / 128) ∧ Ready (.baseSc false false false 3 1 2) sMem := by decide
theorem test_sc : (nextOf (exec (.baseSc false false false 3 1 2) sResv)).x 3 = 0
    ∧ getLe (nextOf (exec (.baseSc false false false 3 1 2) sResv)).mem 0x1000 4 = 0x55667788
    ∧ (nextOf (exec (.baseSc false false false 3 1 2) sMem)).x 3 = 1
    ∧ (nextOf (exec (.baseLr false false false 3 1) sMem)).core.resv = some 32 := by decide
theorem test_hyp_fences : Ready (.fence 0 15 15 0 0) State.reset ∧ State.reset.heldStores = [] ∧ Ready (.fenceI 0 0 0) State.reset
    ∧ Ready .hint State.reset ∧ Ready .wfi State.reset ∧ State.reset.core.priv ≠ .supervisor := by decide
theorem test_wfi : (nextOf (exec .wfi State.reset)).core.wfi = true ∧ (nextOf (exec .wfi State.reset)).ctx.pc = 4 := by decide

/-- x1 = 0x13579BDF. -/
def sCsr : State := withX [(1, 0x13579BDF)] State.reset
theorem test_hyp_csr : Ready (.csrWrite .rw 0x340 1 2) sCsr ∧ CsrAllowed sCsr .rw 0x340 1 ∧ sCsr.ctx.vlProv = none
    ∧ readCsr sCsr 0x340 = some 0 ∧ csrWrites .rw 1 = true ∧ csrWrites .rs 0 = false
    ∧ (writeCsr sCsr 0x340 (csrNew .rw 0 (csrSource .rw 1 sCsr.ctx))).isSome = true
    ∧ Ready (.csrWrite .rs 0x340 0 2) sCsr ∧ CsrAllowed sCsr .rs 0x340 0 := by decide
theorem test_csr : (nextOf (exec (.csrWrite .rw 0x340 1 2) sCsr)).core.csr.mscratch = 0x13579BDF
    ∧ (nextOf (exec (.csrWrite .rs 0xC00 0 2) sCsr)).x 2 = 0 := by decide
theorem test_hyp_special_csr : Ready (.vlWrite .rw 1 2) sCsr ∧ Ready (.vxflagsWrite .rw 1 2) sCsr ∧ Ready (.ptrootWrite .rw 1 2) sCsr
    ∧ sCsr.core.priv ≠ .user ∧ Ready (.assayNoticeClear .rw true 1 2) sCsr ∧ sCsr.core.priv = .machine
    ∧ Ready (.assayNoticeClear .rw false 1 2) sCsr := by decide
theorem test_vl_write : (nextOf (exec (.vlWrite .rw 1 2) sCsr)).ctx.u.vl = 65536
    ∧ (nextOf (exec (.vxflagsWrite .rw 1 2) sCsr)).ctx.u.vxflags = 0x1F
    ∧ (nextOf (exec (.ptrootWrite .rw 1 2) sCsr)).parts.head?.map (fun p => p.ptroot) = some 0x13570000 := by decide
/-- x1 = 0x25: two partitions, profiles 0 and 2. -/
def sPcfg : State := withX [(1, 0x15)] State.reset
theorem test_hyp_pcfg : sPcfg.core.priv = .machine ∧ csrWrites .rsi 3 = true ∧ Ready (.profileEnableWrite .rsi 3 2) sPcfg
    ∧ Ready (.partitionSetup .rw 1 2) sPcfg ∧ pcntWritten .rw 1 sPcfg.ctx = true
    ∧ ((csrNew .rw (pcfgOf sPcfg) (csrSource .rw 1 sPcfg.ctx)).extractLsb' 4 3).toNat ≤ 4
    ∧ (upFrom 0 (writeProf sPcfg 5).nparts).any (partitionBusy (writeProf sPcfg 5)) = false := by decide

/-! ### The sequencer -/

/-- x1 = 3, the pc at 0. -/
def sCount : State := regs [(1, 3)]
theorem test_hyp_loop : Ready (.loop 4 1 0) sCount ∧ loopCheck sCount.ctx 0 (sCount.ctx.pc + 4) (sCount.ctx.pc + 16) = none
    ∧ sCount.x 1 ≠ 0 ∧ sCount.x 2 = 0 ∧ Ready (.loop 4 2 0) sCount ∧ Ready (.lexit 0) sCount ∧ Ready (.lrd 1 2) sCount := by decide
theorem test_hyp_loop_bad : Ready (.loop 4 1 0) sLoops ∧ loopCheck sLoops.ctx 0 4 16 = some cLoop := by decide
theorem test_loop : (nextOf (exec (.loop 4 1 0) sCount)).ctx.loops[0] = ⟨3, 4, 16, 0, true, false⟩
    ∧ (nextOf (exec (.loop 4 2 0) sCount)).ctx.pc = 20 ∧ (nextOf (exec (.lexit 1) sLoops)).ctx.loops[1].act = false := by decide
theorem test_hyp_lsave : Ready (.lsave 1) sMem ∧ sMem.Calm ∧ Memory.wf sMem.mem = true ∧ PlainAccess sMem (sMem.x 1) 8
    ∧ physOk (sMem.x 1).toNat 200 = true := by decide
/-- The image of a loop stack with level 0 active, at 0x1000. -/
def sImage : State := withMem 0x1000 ((loopImage sLoops.ctx).flatMap fun w => natBytes 8 w.toNat) (withX [(1, 0x1000)] State.reset)
theorem test_hyp_lrest : Ready (.lrest 1) sImage ∧ sImage.ecc = [] ∧ sImage.heldStores = [] ∧ PlainAccess sImage (sImage.x 1) 8
    ∧ physOk (sImage.x 1).toNat 200 = true
    ∧ imageOk sImage.ctx ((upFrom 0 25).map fun k => leWord (getBytes sImage.mem ((sImage.x 1).toNat + 8 * k) 8)) = true := by decide +kernel
theorem test_hyp_lrest_bad : Ready (.lrest 1) sMem
    ∧ imageOk sMem.ctx ((upFrom 0 25).map fun k => leWord (getBytes sMem.mem ((sMem.x 1).toNat + 8 * k) 8)) = false := by decide +kernel
theorem test_lrest : (nextOf (exec (.lrest 1) sImage)).ctx.loops[0] = ⟨2, 0x40, 0x80, 0, true, false⟩
    ∧ (nextOf (exec (.lrest 1) sMem)).core.csr.mcause = 48 := by decide +kernel

/-- A strand of a launch. -/
def strand (st : StrandSt) (core : Option Nat) (saved : Option Ctx) : Strand :=
  { stage := 0, idx := 0, st := st, core := core, saved := saved, slot := none, vault := false, waited := 0, held := 5
    wait := match st with
      | .blocked | .parked => some ⟨.user, 0, 0x3F0000003600, .level, none⟩
      | .ready | .running | .exited => none
    leaving := [], released := none }

/-- A stage of one strand. -/
def stage1 : StageDecl := ⟨1, 1, 0x40, 2, 0, 0, 0, none, none, 0, 1⟩

/-- A launch of serial 1. -/
def launch (st : LaunchSt) (ts : List Strand) : Launch :=
  { serial := 1, queue := 0, marker := false, evc := false, pri := 0, obj := 7, arg := 9, lrec := 0, grec := 0, dep0 := 0
    dep1 := 0, uuse := 0, stages := [stage1], st := st, strands := ts, waited := 0, prods := [], cancelled := false
    failed := false, order := 0 }

/-- A partition 0 with one launch. -/
def withLaunch (l : Launch) (s : State) : State := s.mapPart 0 fun p => { p with launches := [l], nextSerial := 2 }

/-- Core 0 runs the strand of the launch, in U-mode. -/
def sRun : State := withLaunch (launch .admitted [strand .running (some 0) none])
  { withPriv .user State.reset with core := { (withPriv .user State.reset).core with strand := some ⟨1, 0, 0⟩ } }

/-- The object of handle 7 with text at 0x20000. -/
def withObj (s : State) : State := s.mapPart 0 fun p => { p with objs := [⟨7, 0x20000, 0x1000, [], [], [], []⟩] }

/-- An escrow descriptor at 0x1000, in M-mode: width 2, carry x5, guess routine 0x20000. -/
def sOpen : State := withX [(1, 0x1000)] (withPriv .machine (withLe 0x1000 8 0x200000020 (withLe 0x1008 8 0x20000 (withObj sRun))))
theorem test_hyp_esc_open : Ready (.escOpen 1) sOpen ∧ sOpen.ecc = [] ∧ sOpen.heldStores = [] ∧ anySusp sOpen.ctx.loops = false
    ∧ PlainAccess sOpen (sOpen.x 1) 64 ∧ escDescOk sOpen (leWord (getBytes sOpen.mem 0x1000 8)) (leWord (getBytes sOpen.mem 0x1008 8))
      (leWord (getBytes sOpen.mem 0x1010 8)) = true := by decide +kernel
theorem test_esc_open : (nextOf (exec (.escOpen 1) sOpen)).ctx.esc.map (fun e => (e.want, e.gpc, e.expectLoop)) = some (2, 0x20000, true) := by
  decide +kernel
theorem test_hyp_esc_bad : Ready (.escOpen 1) (withX [(1, 0x1008)] sOpen) ∧ ((withX [(1, 0x1008)] sOpen).x 1).toNat % 64 ≠ 0
    ∧ Ready (.escStat 2) State.reset := by decide
theorem test_hyp_esc_none : Ready .escClose State.reset ∧ Ready .escRet State.reset ∧ Ready .escAbort State.reset
    ∧ Ready (.escCmp 5) State.reset := by decide

/-- A participant. -/
def part (core : Nat) (home : Bool) (iter : Nat) (guessing : Bool) : EscPart :=
  ⟨core, home, some iter, Vector.replicate 32 3, 0x40, guessing, 0, Vector.replicate 32 4, false, false, false, 0, [], [], [], [], [], [], none, none⟩

/-- An open escrow loop of a trip at level 0, carry x5. -/
def escrow (trip : Word) (oldest : Nat) (ps : List EscPart) : Escrow :=
  { opener := .machine, desc := 0x1000, bud := 0, want := 4, cmask := 0x20, gpc := 0x80, cmode := 0, level := some 0, expectLoop := false, done := false
    trip := trip, entryX := Vector.replicate 32 1, entryLoops := Vector.replicate 6 Level.off, outX := Vector.replicate 32 0
    last := none, focus := 0, parts := ps, oldest := oldest, narrow := false, way := true, ncom := 0, nmis := 0, ncon := 0, ndef := 0 }

/-- The oldest iteration of a loop at its body end. -/
def sEsc (trip : Word) : State := withX [(5, 77)] (State.reset.mapCtx fun c => { c with
  pc := 0x10, loops := c.loops.set 0 ⟨trip, 4, 0x10, 0, true, false⟩, esc := some (escrow trip 0 [part 0 true 0 false]) })
theorem test_hyp_esc_cmp : gate (.escCmp 6) (sEsc 2) = .pass ∧ (sEsc 2).ctx.esc = some (escrow 2 0 [part 0 true 0 false])
    ∧ atEscEnd (sEsc 2).ctx = true ∧ (sEsc 2).ctx.isSpec = false ∧ (sEsc 2).heldStores = []
    ∧ (sEsc 2).ctx.viq = [] ∧ boundaryDue (sEsc 2) = false
    ∧ (escrow 2 0 [part 0 true 0 false]).focusPart = some (part 0 true 0 false)
    ∧ (escrow 2 0 [part 0 true 0 false]).partOf 1 = none ∧ 0 + 1 ≠ (2 : Word).toNat := by decide
theorem test_hyp_esc_cmp_last : gate (.escCmp 6) (sEsc 1) = .pass ∧ (sEsc 1).ctx.esc = some (escrow 1 0 [part 0 true 0 false])
    ∧ atEscEnd (sEsc 1).ctx = true ∧ (sEsc 1).ctx.isSpec = false ∧ (escrow 1 0 [part 0 true 0 false]).partOf 1 = none
    ∧ 0 + 1 = (1 : Word).toNat ∧ (sEsc 1).heldStores = [] ∧ (sEsc 1).ctx.viq = [] ∧ boundaryDue (sEsc 1) = false
    ∧ (escrow 1 0 [part 0 true 0 false]).focusPart = some (part 0 true 0 false) ∧ (escrow 1 0 []).level = some 0 := by decide
theorem test_esc_cmp : (nextOf (exec (.escCmp 6) (sEsc 2))).ctx.pc = 4 ∧ (nextOf (exec (.escCmp 6) (sEsc 2))).x 5 = 77
    ∧ (nextOf (exec (.escCmp 6) (sEsc 2))).x 7 = 1 ∧ (nextOf (exec (.escCmp 6) (sEsc 2))).x 6 = 1 ∧ (nextOf (exec (.escCmp 6) (sEsc 1))).x 6 = 1
    ∧ (nextOf (exec (.escCmp 6) (sEsc 1))).x 5 = 77 ∧ (nextOf (exec (.escCmp 6) (sEsc 1))).ctx.pc = 0x14 := by decide +kernel
/-- Iteration 1 runs ahead in a helper, past its body start, guessed to begin with x5 = `g`. -/
def ahead (g : Word) : EscPart := { part 1 false 1 false with guess := Vector.replicate 32 g, pc := 0x44 }

/-- The oldest iteration of three at its body end, with x5 = 77, and iteration 1 ahead. -/
def sNext (g : Word) : State := (sEsc 3).mapCtx fun c => { c with esc := some (escrow 3 0 [part 0 true 0 false, ahead g]) }
theorem test_hyp_esc_ahead (g : Word) (h : g = 77 ∨ g = 78) : gate (.escCmp 6) (sNext g) = .pass
    ∧ (sNext g).ctx.esc = some (escrow 3 0 [part 0 true 0 false, ahead g]) ∧ atEscEnd (sNext g).ctx = true
    ∧ (sNext g).Calm ∧ (sNext g).ctx.isSpec = false ∧ (sNext g).heldStores = [] ∧ (sNext g).ctx.viq = [] ∧ boundaryDue (sNext g) = false
    ∧ (escrow 3 0 [part 0 true 0 false, ahead g]).focusPart = some (part 0 true 0 false)
    ∧ (escrow 3 0 [part 0 true 0 false, ahead g]).partOf (0 + 1) = some 1 ∧ 0 + 1 ≠ (3 : Word).toNat
    ∧ (ahead g).guessing = false ∧ (ahead g).waiting = false
    ∧ carriesEqual (escrow 3 0 [part 0 true 0 false, ahead g]) (ahead g).guess (sNext g).ctx.x = decide (g = 77) := by
  rcases h with rfl | rfl <;> decide +kernel
theorem test_esc_ahead : (nextOf (exec (.escCmp 6) (sNext 77))).ctx.pc = 0x44 ∧ (nextOf (exec (.escCmp 6) (sNext 77))).x 6 = 1
    ∧ (nextOf (exec (.escCmp 6) (sNext 78))).ctx.pc = 4 ∧ (nextOf (exec (.escCmp 6) (sNext 78))).x 6 = 0
    ∧ (nextOf (exec (.escCmp 6) (sNext 78))).x 5 = 77
    ∧ (nextOf (exec (.escCmp 6) (sNext 78))).ctx.esc.map (fun e => (e.oldest, e.ncom, e.nmis)) = some (1, 1, 1) := by decide +kernel
/-- A loop that has ended, its counters not yet written. -/
def sEnded : State := State.reset.mapCtx fun c => { c with esc := some { escrow 2 1 [] with done := true, ncom := 5 } }
theorem test_hyp_esc_close : gate .escClose sEnded = .pass ∧ sEnded.Calm ∧ Memory.wf sEnded.mem = true
    ∧ PlainAccess sEnded ((0x1000 : Word) + 32) 32 ∧ gate .escAbort sEnded = .pass ∧ sEnded.ctx.isGuess = false
    ∧ sEnded.lag = false ∧ (sEnded.ctx.esc.map fun e => e.done) = some true := by decide
theorem test_hyp_esc_abort : gate .escAbort (sEsc 2) = .pass ∧ (sEsc 2).ctx.isGuess = false
    ∧ (sEsc 2).ctx.esc.map (fun e => (e.done, e.level)) = some (false, some 0) := by decide
theorem test_esc_abort : (nextOf (exec .escAbort (sEsc 2))).ctx.esc.map (fun e => e.done) = some true
    ∧ (nextOf (exec .escAbort (sEsc 2))).ctx.loops[0].act = false := by decide +kernel
theorem test_esc_close : (nextOf (exec .escClose sEnded)).ctx.esc.isNone = true
    ∧ getLe (nextOf (exec .escClose sEnded)).mem 0x1020 8 = 5 := by decide +kernel
/-- A participant that runs its guess routine. -/
def sGuess : State := State.reset.mapCtx fun c => { c with
  pc := 0x80, loops := c.loops.set 0 ⟨4, 4, 0x10, 0, true, false⟩, esc := some (escrow 4 0 [part 0 true 1 true, part 1 false 0 false]) }
theorem test_hyp_esc_ret : gate .escRet sGuess = .pass ∧ sGuess.ctx.escActive.isSome = true
    ∧ (sGuess.ctx.escActive.bind Escrow.focusPart) = some (part 0 true 1 true) ∧ (part 0 true 1 true).guessing = true := by decide
theorem test_guess_end : (nextOf (exec .guessRoutineEnd sGuess)).ctx.pc = 4 ∧ (nextOf (exec .guessRoutineEnd sGuess)).x 5 = 4
    ∧ (nextOf (exec .escRet sGuess)).ctx.isGuess = false := by decide +kernel
theorem test_hyp_esc_join : (sEsc 4).ctx.escActive = some (escrow 4 0 [part 0 true 0 false]) ∧ (escrow 4 0 []).way = true
    ∧ 1 < (escrow 4 0 []).want ∧ ribOf 1 = ribOf (sEsc 4).core.id ∧ idleCore (sEsc 4) 1 = true
    ∧ covers (sEsc 4) 1 (sEsc 4).ctx.usemask = true := by decide
theorem test_hyp_esc_reclaim : (sGuess.ctx.escActive.bind fun e => e.parts.findIdx? fun p => decide (p.core = 1) && !p.home) = some 1
    ∧ physOk (0x1000 : Word).toNat 1 = true ∧ sGuess.ctx.escActive.map (fun e => ((sGuess.ctx.storeFocus e).parts[e.oldestPart]?).isSome)
      = some true := by decide
theorem test_esc_reclaim : ((nextOf (exec (.escrowHelperReclaim 1) sGuess)).coreAt 1).helperOf = none
    ∧ ((nextOf (exec (.escrowHelperJoin 1) (sEsc 4))).coreAt 1).helperOf = some 0
    ∧ (nextOf (exec .escrowDeferredResume sGuess)).ctx.pc = 0x40 := by decide +kernel

/-! ### The VIQ, vectors and masks -/

/-- VL = 2, pocket spaces; v1 = 5, 7 and v2 = −2, 9 in INT32; x1 = 8; m1 = bit 1. -/
def sVec : State := withX [(1, 8), (2, 1)] ((fun (s : State) => s.mapCtx fun c => c.mapVr 3 fun v => { v with tag := 5 }) (withV 1 5 [5, 0, 0, 0, 7] (withV 2 5 [0xFE, 0xFF, 0xFF, 0xFF, 9]
  (withPocket [1, 2, 3, 4, 5, 6, 7, 8, 0x10, 0x20, 0x30, 0x40, 0x50, 0x60, 0x70, 0x80]
    (withU (fun u => { u with vl := 2, mtyp := 0x22 })
      (State.reset.mapCtx fun c => { c with m := c.m.set 1 ⟨.full, [(0, 2)]⟩ }))))))

theorem test_hyp_queue : viqForm (.vaddVv false 2 1 0 3) = true ∧ gate (.vaddVv false 2 1 0 3) sVec = .pass
    ∧ sVec.ctx.isGuess = false ∧ sVec.ctx.viq.length < 32 ∧ ({ sVec with lag := true }).lag = true := by decide +kernel
/-- A VIQ of one `vadd`, where the queue lags. -/
def sQueued : State := viqPush (.vaddVv false 2 1 0 3) [] { sVec with lag := true }
/-- A full VIQ. -/
def sFull : State := sQueued.mapCtx fun c => { c with viq := List.replicate 32 (viqEntry (.vaddVv false 2 1 0 3) [] sVec) }
theorem test_hyp_queue_full : gate (.vaddVv false 2 1 0 3) sFull = .pass ∧ 32 ≤ sFull.ctx.viq.length := by decide +kernel
theorem test_hyp_viq_execute : sQueued.ctx.viq = [viqEntry (.vaddVv false 2 1 0 3) [] sVec]
    ∧ (viqEntry (.vaddVv false 2 1 0 3) [] sVec).frozen = false
    ∧ (match viqHead (viqEntry (.vaddVv false 2 1 0 3) [] sVec) sQueued with
      | .done _ => true
      | _ => false) = true := by decide +kernel
theorem test_viq_execute : (nextOf (exec .viqExecute sQueued)).ctx.raw 3 0 = 3 ∧ (nextOf (exec .viqExecute sQueued)).ctx.raw 3 1 = 16
    ∧ (nextOf (exec .viqExecute sQueued)).ctx.viq = [] := by decide +kernel
/-- A VIQ of one `vadd` from a register that is vacant. -/
def sFaulty : State := viqPush (.vaddVv false 5 1 0 3) [] { sVec with lag := true }
theorem test_hyp_viq_fault : (match viqHead (viqEntry (.vaddVv false 5 1 0 3) [] sVec) sFaulty with
      | .fault _ cause _ _ => decide (cause = cEmpty ∨ cause = cTag)
      | _ => false) = true := by decide +kernel
theorem test_viq_fault : ((nextOf (exec .viqExecute sFaulty)).ctx.viq.all fun e => e.frozen) = true
    ∧ (nextOf (exec .viqExecute sFaulty)).ctx.vfault.isSome = true := by decide +kernel

theorem test_hyp_vector : Ready (.vaddVv false 2 1 0 3) sVec ∧ (vecForm (.vaddVv false 2 1 0 3)).isSome = true
    ∧ needCheck (viqPush (.vaddVv false 2 1 0 3) [] sVec).ctx sVec.ctx.u.vl.toNat
      (binNeed .add false 1 3 (.v 2) 0 (viqPush (.vaddVv false 2 1 0 3) [] sVec).ctx
        (readLimit (.vaddVv false 2 1 0 3) (viqEntry (.vaddVv false 2 1 0 3) [] sVec) 0 (viqPush (.vaddVv false 2 1 0 3) [] sVec).ctx)) = .ok := by
  decide +kernel
/-- v1, v2 and v3 in FP32, element 0 of v1 and v2 1.5. -/
def sFlt : State := withV 1 8 [0, 0, 0xC0, 0x3F] (withV 2 8 [0, 0, 0xC0, 0x3F] (sVec.mapCtx fun c => c.mapVr 3 fun v => { v with tag := 8 }))
theorem test_hyp_float_element : sFlt.ctx.ety 3 = some (.flt fp32) ∧ Memory.wf (sFlt.ctx.vr 3).data = true
    ∧ (fp32.decode 0x3F800000).finite = true ∧ (fp32.decode 0x3F800000).isZero = false ∧ (fp32.decode 0xBF800000).neg? = true
    ∧ (fp32.decode 0).isZero = true ∧ (0x3F800000 : Nat) < 2 ^ fp32.width ∧ (⟨.rne, 0, 0⟩ : Rnd).r < 2 ^ (⟨.rne, 0, 0⟩ : Rnd).k
    ∧ (⟨.rtz, 0, 0⟩ : Rnd).mode = .rtz ∧ 1 ≤ (⟨8, true⟩ : IntTy).w := by decide +kernel
theorem test_float : (nextOf (exec (.vaddVv false 2 1 0 3) sFlt)).ctx.raw 3 0 = 0x40400000
    ∧ fp32.round ⟨.rdn, 0, 0⟩ false (.fin false (2 ^ 24 + 1) 0) false = (0x4B800000, flNX)
    ∧ fp32.round ⟨.rup, 0, 0⟩ false (.fin false (2 ^ 24 + 1) 0) false = (0x4B800001, flNX)
    ∧ bf16.round ⟨.rdn, 0, 0⟩ false (.fin false 2047 0) false = (0x44FF, flNX) := by decide +kernel
theorem test_vector : (nextOf (exec (.vmulVx false 1 1 1 3) sVec)).ctx.raw 3 1 = 56
    ∧ (nextOf (exec (.vmulVx false 1 1 1 3) sVec)).ctx.raw 3 0 = 0 := by decide +kernel
theorem test_hyp_int_element : sVec.ctx.ety 3 = some (.int ⟨32, true⟩) ∧ Memory.wf (sVec.ctx.vr 3).data = true
    ∧ (⟨0, 2, 0, 0, 0, 0⟩ : VEnv).es = 0 ∧ sVec.ctx.ety 1 = some (.int ⟨32, true⟩)
    ∧ Memory.wf sVec.ctx.m[(1 : MReg3).toNat].bits = true ∧ (1 : MReg3) ≠ 0 := by decide +kernel
theorem test_int_operations : intBin .add ⟨8, true⟩ 100 100 0 = (200, 32) ∧ intBin .div ⟨8, true⟩ 7 0 0 = (255, flDZ)
    ∧ intBin .div ⟨8, true⟩ (-128) (-1) 0 = (128, flIO) ∧ (intBin .shl ⟨8, true⟩ 3 9 0).1 = 6
    ∧ (intBin .mac ⟨8, false⟩ 3 4 250).1 = 6 := by decide +kernel
theorem test_compare : (nextOf (exec (.vcmpVv false 1 2 0 2 2) sVec)).ctx.mbit 2 0 = true
    ∧ (nextOf (exec (.vcmpVv false 1 2 0 2 2) sVec)).ctx.mbit 2 1 = false
    ∧ (nextOf (exec (.mandn false 0 1 2) sVec)).ctx.mbit 2 0 = true := by decide +kernel

/-! ### Configuration and SYNC -/

theorem test_hyp_vdecl : Ready (.vdecl 1) sVec ∧ (sVec.x 1).extractLsb' 0 2 ≠ 3 ∧ sVec.ctx.slots.toList.any (fun k => k.alloc) = false
    ∧ sVec.core.copies = [] ∧ Ready (.vdecl 1) (withX [(1, 3)] sVec) ∧ ((withX [(1, 3)] sVec).x 1).extractLsb' 0 2 = 3 := by decide +kernel
theorem test_vdecl : (nextOf (exec (.vdecl 2) sVec)).ctx.nc = 1 ∧ ((nextOf (exec (.vdecl 2) sVec)).ctx.vr 1).st = .vacant
    ∧ (nextOf (exec (.vdecl 1) (withX [(1, 3)] sVec))).core.csr.mcause = 26 := by decide +kernel
theorem test_hyp_tag_invalid : Ready (.vtagrd 1 7) (sVec.mapCtx fun c => { c with gc := 1 })
    ∧ (sVec.mapCtx fun c => { c with gc := 1 }).ctx.vrOk 1 = false ∧ 4 < (5 : BitVec 5).toNat := by decide
theorem test_hyp_shape : Ready (.vsetl 3 1 7) sVec ∧ (3 : BitVec 5).toNat ≤ 4 ∧ Ready (.vtagrd 1 7) sVec ∧ sVec.ctx.vrOk 1 = true
    ∧ Ready (.dshape 1 2) sVec ∧ Ready (.vtag 1 4) sVec := by decide +kernel
theorem test_hyp_header : Ready (.dset 1 2 1) sVec ∧ Ready (.dflip 1) sVec ∧ Ready (.dscale 1 2 1) sVec ∧ Ready (.vsrseed 1) sVec := by
  decide +kernel
theorem test_hyp_dflip : (dflipHdr (sVec.ctx.vr 1).hdr).isSome = true := by decide +kernel
theorem test_hyp_vtag : (∀ n ∈ vtagRegs sVec.ctx 4 (sVec.x 1), n < 32 ∧ sVec.ctx.vrOk (BitVec.ofNat 5 n) = true
    ∧ sVec.ctx.dstWaits (BitVec.ofNat 5 n) = false) ∧ (etyOf ((sVec.x 1).extractLsb' 0 8)).isSome = true
    ∧ tagType (0 : Byte) = 0 := by decide +kernel
theorem test_vtag : ((nextOf (exec (.vtag 1 4) sVec)).ctx.vr 4).tag = 8 ∧ (nextOf (exec (.vsetl 3 1 7) sVec)).x 7 = 8
    ∧ (nextOf (exec (.vtagrd 1 7) sVec)).x 7 = 5 := by decide +kernel
theorem test_hyp_sync : Ready (.vxget false 2 1 7) sVec ∧ sVec.ctx.vrOk 1 = true ∧ sVec.ctx.ety 1 = some (.int ⟨32, true⟩)
    ∧ (sVec.x 2).toNat < capBits sVec.ctx 32 ∧ (sVec.ctx.vr 1).st = .full ∧ Ready (.vxput 2 1 1) sVec
    ∧ sVec.ctx.dstWaits 1 = false ∧ Memory.wf (sVec.ctx.vr 1).data = true ∧ sVec.ctx.maskPends 1 = false
    ∧ sVec.ctx.vlProv = none := by decide +kernel
theorem test_hyp_sync_mask : Ready (.vmpop false 1 7) sVec ∧ Ready (.vmfirst false 1 7) sVec
    ∧ Ready (.vmrd false 2 1 7) sVec ∧ (sVec.x 2).toNat < 1024 ∧ Ready (.vmrd false 2 1 7) (withX [(2, 1024)] sVec)
    ∧ 1024 ≤ ((withX [(2, 1024)] sVec).x 2).toNat := by decide +kernel
theorem test_sync : (nextOf (exec (.vxget false 2 1 7) sVec)).x 7 = 7 ∧ (nextOf (exec (.vxput 2 1 1) sVec)).ctx.raw 1 1 = 8
    ∧ (nextOf (exec (.vmpop false 1 7) sVec)).x 7 = 1 ∧ (nextOf (exec (.vmfirst false 1 7) sVec)).x 7 = 1
    ∧ (nextOf (exec (.vmrd false 0 1 7) sVec)).x 7 = 2 := by decide +kernel
theorem test_hyp_fence : Ready (.qfence 2) sVec ∧ (2 : BitVec 5).toNat < 4 ∧ sVec.heldStores = [] ∧ Ready (.efence 2) sVec
    ∧ Ready (.qfence 3) sVec ∧ inFlight sVec = false ∧ engineBusy sVec = false ∧ 4 ≤ (4 : BitVec 5).toNat ∧ Ready (.qfence 4) sVec ∧ Ready (.efence 4) sVec := by decide +kernel
/-- A produced value at the head of the SRQ. -/
def sSrq : State := sVec.mapCtx fun c => { c with srq := [⟨5, 0, some 99⟩] }
theorem test_hyp_srq : sSrq.ctx.esc = none ∧ sSrq.ctx.srq = [⟨5, 0, some 99⟩] := by decide +kernel
theorem test_srq : (nextOf (exec .srqDeliver sSrq)).x 5 = 99 := by decide +kernel

/-! ### Vector memory -/

theorem test_hyp_vld : loadForm (.vldUnit false 1 0 3) = some (.unit, false, 0, 3) ∧ Ready (.vldUnit false 1 0 3) sVec
    ∧ sVec.ecc = [] ∧ Memory.wf (sVec.ctx.vr 3).data = true ∧ needCheck sVec.ctx 2 (ldNeed .unit false 0 3 sVec.ctx) = .ok
    ∧ ldSpace (viqEntry (.vldUnit false 1 0 3) [] sVec) = 2
    ∧ ∀ k ∈ sVec.ctx.enabled 0 0 2, (elemAddr .unit 32 (viqEntry (.vldUnit false 1 0 3) [] sVec) sVec.ctx k).toNat % elemBytes 32 = 0
      ∧ (elemAddr .unit 32 (viqEntry (.vldUnit false 1 0 3) [] sVec) sVec.ctx k).toNat + elemBytes 32 ≤ sVec.ctx.pocb := by decide +kernel
theorem test_vld : (nextOf (exec (.vldUnit false 1 0 3) sVec)).ctx.raw 3 0 = 0x40302010
    ∧ (nextOf (exec (.vldUnit false 1 0 3) sVec)).ctx.raw 3 1 = 0x80706050
    ∧ (nextOf (exec (.vldUnit false 1 0 3) sVec)).ctx.pc = 4 := by decide +kernel
theorem test_hyp_vst : storeForm (.vstUnit false 1 0 1) = some (.unit, false, 0, 1) ∧ Ready (.vstUnit false 1 0 1) sVec ∧ sVec.Calm
    ∧ needCheck sVec.ctx 2 (stNeed .unit false 0 1 sVec.ctx (readBound (viqEntry (.vstUnit false 1 0 1) [] sVec) 0 sVec.ctx)) = .ok ∧ stSpace (viqEntry (.vstUnit false 1 0 1) [] sVec) = 2
    ∧ (∀ k ∈ sVec.ctx.enabled 0 0 2,
      (storeAddr (.vstUnit false 1 0 1) .unit 32 (viqEntry (.vstUnit false 1 0 1) [] sVec) sVec.ctx 0 k).toNat % elemBytes 32 = 0
      ∧ (storeAddr (.vstUnit false 1 0 1) .unit 32 (viqEntry (.vstUnit false 1 0 1) [] sVec) sVec.ctx 0 k).toNat + elemBytes 32
        ≤ sVec.ctx.pocb) ∧ Memory.wf sVec.ctx.pocket = true := by decide +kernel
theorem test_vst : getBytes (nextOf (exec (.vstUnit false 1 0 2) sVec)).ctx.pocket 8 8 = [0xFE, 0xFF, 0xFF, 0xFF, 9, 0, 0, 0]
    ∧ getByte (nextOf (exec (.vstUnit false 1 0 2) sVec)).ctx.pocket 7 = 8 := by decide +kernel
/-- v1 as HX4 elements 5 and 7 in one byte. -/
def sHx4 : State := withV 1 13 [0x75] sVec
theorem test_hyp_quant : sHx4.ctx.ety 1 = some .hx4 ∧ Memory.wf (sHx4.ctx.vr 1).data = true
    ∧ Memory.wf (sHx4.ctx.q.toList.getD (tagQs (sHx4.ctx.vr 1).tag) []) = true ∧ 2 ≤ 2 ^ blkLog (sHx4.ctx.vr 1).tag
    ∧ sHx4.ctx.mbit 1 1 = true ∧ sHx4.ctx.mbit 1 0 = false := by decide +kernel
theorem test_hyp_vst_hx4 : Ready (.vstUnit false 1 0 1) sHx4 ∧ sHx4.Calm ∧ sHx4.ctx.width 1 = 4
    ∧ needCheck sHx4.ctx 2 (stNeed .unit false 0 1 sHx4.ctx (readBound (viqEntry (.vstUnit false 1 0 1) [] sHx4) 0 sHx4.ctx)) = .ok
    ∧ ∀ k ∈ sHx4.ctx.enabled 0 0 2,
      (storeAddr (.vstUnit false 1 0 1) .unit 4 (viqEntry (.vstUnit false 1 0 1) [] sHx4) sHx4.ctx 0 k).toNat + elemBytes 4
        ≤ sHx4.ctx.pocb := by decide +kernel
theorem test_vst_hx4 : getByte (nextOf (exec (.vstUnit false 1 0 1) sHx4)).ctx.pocket 8 = 0x75 := by decide +kernel
/-- v4 = offsets 0 and −4 in INT32, for a window. -/
def sWin : State := withV 4 5 [0, 0, 0, 0, 0xFC, 0xFF, 0xFF, 0xFF] sVec
theorem test_hyp_vlwin : Ready (.vlwin false 4 1 1 3) sWin ∧ sWin.ecc = [] ∧ Memory.wf (sWin.ctx.vr 3).data = true
    ∧ Memory.wf sWin.ctx.m[(1 : MReg3).toNat].bits = true ∧ needCheck sWin.ctx 2 (winNeed false 4 1 3 sWin.ctx) = .ok
    ∧ ldSpace (viqEntry (.vlwin false 4 1 1 3) [] sWin) = 2 ∧ ∀ k : Nat, k < 2 →
      (decide (0 ≤ sWin.ctx.ival 4 k) && decide (sWin.ctx.ival 4 k + elemBytes 32 ≤ mvlOf sWin.ctx)) = true →
      (sWin.x 1 + BitVec.ofInt 64 (sWin.ctx.ival 4 k)).toNat % elemBytes 32 = 0
        ∧ (sWin.x 1 + BitVec.ofInt 64 (sWin.ctx.ival 4 k)).toNat + elemBytes 32 ≤ sWin.ctx.pocb := by decide +kernel
theorem test_vlwin : (nextOf (exec (.vlwin false 4 1 1 3) sWin)).ctx.raw 3 0 = 0x40302010
    ∧ (nextOf (exec (.vlwin false 4 1 1 3) sWin)).ctx.mbit 1 0 = false
    ∧ (nextOf (exec (.vlwin false 4 1 1 3) sWin)).ctx.mbit 1 1 = true := by decide +kernel
theorem test_hyp_scales : qLoadForm (.vqldUnit 1 2) sVec.ctx = some (2, 2) ∧ Ready (.vqldUnit 1 2) sVec
    ∧ qStoreForm (.vqstUnit 1 2) sVec.ctx = some (2, 2) ∧ Ready (.vqstUnit 1 2) sVec ∧ sVec.ctx.u.vl.toNat ≤ 4096
    ∧ ldSpace (viqEntry (.vqldUnit 1 2) [] sVec) = 2 ∧ stSpace (viqEntry (.vqstUnit 1 2) [] sVec) = 2
    ∧ (∀ k : Nat, k < 2 → ((viqEntry (.vqldUnit 1 2) [] sVec).a + BitVec.ofNat 64 k * 2).toNat % 2 = 0
      ∧ ((viqEntry (.vqldUnit 1 2) [] sVec).a + BitVec.ofNat 64 k * 2).toNat + 2 ≤ sVec.ctx.pocb)
    ∧ Memory.wf sVec.ctx.q[(2 : BitVec 2).toNat] = true := by decide +kernel
theorem test_vqld : (nextOf (exec (.vqldUnit 1 2) sVec)).ctx.qEntry 2 1 = 0x4030 := by decide +kernel
theorem test_hyp_mask_moves : Ready (.vmld 1 1) sVec ∧ sVec.ctx.maskPends 1 = false ∧ (sVec.x 1).toNat % 8 = 0
    ∧ (sVec.x 1).toNat + 8 * ((2 + 63) / 64) ≤ sVec.ctx.pocb ∧ sVec.ctx.pocb ≤ 2 ^ 63 ∧ Ready (.vmst false 1 1) sVec
    ∧ ldSpace (viqEntry (.vmld 1 1) [] sVec) = 2 ∧ stSpace (viqEntry (.vmst false 1 1) [] sVec) = 2 := by decide +kernel
theorem test_vmst : getByte (nextOf (exec (.vmst false 1 1) sVec)).ctx.pocket 8 = 2
    ∧ (nextOf (exec (.vmld 1 1) sVec)).ctx.mbit 1 0 = false ∧ (nextOf (exec (.vmld 1 1) sVec)).ctx.mbit 1 1 = false := by decide +kernel

/-! ### Images, scatter atomics -/

theorem test_hyp_images : Ready (.vstr false 5 6) sVec ∧ sVec.Calm ∧ sVec.ctx.vrOk 6 = true ∧ (sVec.ctx.vr 6).st ≠ .pending
    ∧ stSpace (viqEntry (.vstr false 5 6) [] sVec) = 2 ∧ (sVec.x 5).toNat % 64 = 0
    ∧ (sVec.x 5).toNat + (imageHead sVec.ctx (sVec.ctx.vr 6)).length ≤ sVec.ctx.pocb ∧ (sVec.ctx.vr 6).st = .vacant := by decide +kernel
/-- v1's image in a pocket of 16 KiB, from offset 64. -/
def sVimage : State := withX [(5, 64)] (sVec.mapCtx fun c => { c with
  pocb := 16384, pocket := setBytes [] 64 (imageHead c (c.vr 1) ++ [5, 0, 0, 0, 7]) })
theorem test_hyp_vldr : Ready (.vldr 5 6) sVimage ∧ sVimage.ecc = [] ∧ sVimage.ctx.vrOk 6 = true ∧ sVimage.ctx.dstWaits 6 = false
    ∧ ldSpace (viqEntry (.vldr 5 6) [] sVimage) = 2 ∧ (64 : Nat) + 64 + mvlOf sVimage.ctx ≤ sVimage.ctx.pocb
    ∧ headBad (leNat (getBytes sVimage.ctx.pocket 64 64)) = false ∧ tagBad (BitVec.ofNat 8 (leNat (getBytes sVimage.ctx.pocket 64 64))) = false
    ∧ leNat (getBytes sVimage.ctx.pocket 64 64) / 65536 % 4 = 1
    ∧ leNat (getBytes sVimage.ctx.pocket 64 64) / 2 ^ 256 % 2 ^ 32 = mvlOf sVimage.ctx := by decide +kernel
theorem test_vldr : ((nextOf (exec (.vldr 5 1) (withX [(5, 64)] sVec))).ctx.vr 1).st = .vacant
    ∧ getBytes (nextOf (exec (.vstr false 5 6) (withX [(5, 64)] sVec))).ctx.pocket 88 10 = [0, 0, 0, 0, 0, 0, 0, 0, 0, 0x20] := by
  decide +kernel
/-- Slot 2 of six FP32 words from pool word 0, slot 3 of one INT32 word at 8; v1 and v2 as in the worked primitive of
spec/08: FP16, offset +1 from row 2, and offset −1 from row 1. -/
def sCab : State := withX [(1, 0x18202), (2, 0)] (sVec.mapCtx fun c => { c with
  accw := 1024, pool := setBytes [] 32 [9], atab := [],
  slots := (c.slots.set 2 ⟨true, false, 0, 0, 6, 0, false, false, 0, 0⟩).set 3 ⟨true, true, 0, 0, 1, 8, false, false, 0, 0⟩,
  v := (c.v.set 1 ⟨10, mkHdr 1 2 3 0 0 0 false, .full, none, setBytes [] 0 [0, 0x40, 0, 0x42, 0, 0x44]⟩).set 2
    ⟨10, mkHdr (-1) 1 5 0 0 0 false, .full, none, setBytes [] 0 [0, 0x3C, 0, 0x40, 0, 0x42, 0, 0x44, 0, 0x45]⟩ })
/-- Slots 2 and 3 asked for. -/
def sKimg : State := withX [(2, 0x102), (5, 0)] sCab
theorem test_hyp_vkst : Ready (.vkst 2 5) sKimg ∧ sKimg.Calm ∧ slotFirst (sKimg.x 2) + slotCount (sKimg.x 2) ≤ 256
    ∧ stSpace (viqEntry (.vkst 2 5) [] sKimg) = 2 ∧ (sKimg.x 5).toNat % 8 = 0
    ∧ (((upFrom 2 2).map fun k => slotRecord sKimg.ctx (sKimg.ctx.slot k)).flatten).length ≤ sKimg.ctx.pocb := by decide +kernel
/-- The records of slots 2 and 3 in the pocket. -/
def sKld : State := nextOf (exec (.vkst 2 5) sKimg)
theorem test_hyp_vkld : Ready (.vkld 2 5) sKld ∧ sKld.ecc = [] ∧ ldSpace (viqEntry (.vkld 2 5) [] sKld) = 2
    ∧ (match ((readSlots (viqEntry (.vkld 2 5) [] sKld) 0 2).run (viqPush (.vkld 2 5) [] sKld)).1 with
      | .ok rs => decide (rs.length = 2)
      | .error _ => false) = true := by decide +kernel
theorem test_vkld : (nextOf (exec (.vkld 2 5) sKld)).ctx.slot 3 = ⟨true, true, 0, 0, 1, 8, false, false, 0, 0⟩
    ∧ (nextOf (exec (.vkld 2 5) sKld)).ctx.poolWord 8 = 9 := by decide +kernel
/-- A scatter of v1 at the Commons offsets of v4, element 0 alone enabled through m1. -/
def sScat : State := withX [(1, 0x3000)] ((withV 4 5 [8, 0, 0, 0] sVec).mapCtx fun c => { c with m := c.m.set 1 ⟨.full, [(0, 1)]⟩ })
theorem test_hyp_scatter : scatterForm (.vtadd false 4 1 1 1) = some (0, false, 4, 1, 1) ∧ Ready (.vtadd false 4 1 1 1) sScat
    ∧ sScat.Calm ∧ Memory.wf sScat.mem = true ∧ sScat.ctx.ety 1 = some (.int ⟨32, true⟩) ∧ scatterTag (.int ⟨32, true⟩) = true
    ∧ needCheck sScat.ctx 2 { stNeed (.indexed 4) false 1 1 sScat.ctx (readBound (viqEntry (.vtadd false 4 1 1 1) [] sScat) 1 sScat.ctx) with
      tagOk := (sScat.ctx.ety 1).any scatterTag && indexOk sScat.ctx (.indexed 4) } = .ok ∧ sScat.ctx.enabled 1 0 2 = [0]
    ∧ (elemAddr (.indexed 4) 32 (viqEntry (.vtadd false 4 1 1 1) [] sScat) sScat.ctx 0).toNat = 0x3008
    ∧ commonsOk sScat sScat.pidx (dataPriv sScat) 0x3008 4 = true ∧ SoftRun sScat (Config.commonsBase + 0x3008) 4
    ∧ inCounterBlock sScat (Config.commonsBase + 0x3008) = false := by decide +kernel
theorem test_scatter : getLe (nextOf (exec (.vtadd false 4 1 1 1) sScat)).mem (Config.commonsBase + 0x3008) 4 = 5 := by decide +kernel

/-! ### The Cable -/

theorem test_hyp_kalloc : Ready (.kalloc 2 1) (withX [(1, 0x10304)] sCab) ∧ slotFirst ((withX [(1, 0x10304)] sCab).x 1) = 4
    ∧ slotCount ((withX [(1, 0x10304)] sCab).x 1) = 4 ∧ (∀ k : Nat, 4 ≤ k → k < 8 → (sCab.ctx.slot k).alloc = false)
    ∧ (lo32 (sCab.x 2)).toInt + 4 - 1 ≤ 2 ^ 31 - 1 ∧ (allocOf (viqEntry (.kalloc 2 1) [] (withX [(1, 0x10304)] sCab))).2 ≤ sCab.ctx.accw := by
  refine ⟨by decide +kernel, by decide +kernel, by decide +kernel, ?_, by decide +kernel, by decide +kernel⟩
  intro k h1 h2
  have : k = 4 ∨ k = 5 ∨ k = 6 ∨ k = 7 := by omega
  rcases this with rfl | rfl | rfl | rfl <;> decide +kernel
theorem test_hyp_slots_past : Ready (.kfree 2) (sKimg.setX 2 0xFFFF) ∧ Ready (.kzero 2) (sKimg.setX 2 0xFFFF)
    ∧ 256 < slotFirst ((sKimg.setX 2 0xFFFF).x 2) + slotCount ((sKimg.setX 2 0xFFFF).x 2) := by decide
theorem test_hyp_slots : Ready (.kfree 2) sKimg ∧ slotFirst (sKimg.x 2) + slotCount (sKimg.x 2) ≤ 256 ∧ Ready (.kzero 2) sKimg
    ∧ sKimg.ctx.cableSusp = false ∧ Ready .kfence sKimg := by decide +kernel
theorem test_slots : ((nextOf (exec (.kfree 2) sKimg)).ctx.slot 3).alloc = false ∧ (nextOf (exec (.kzero 2) sKimg)).ctx.poolWord 8 = 0
    ∧ ((nextOf (exec (.kfree 2) sKimg)).ctx.slot 3).len = 1 := by decide +kernel
/-- A table of the CPU at 0x1000, half 1. -/
def sAtab : State := withX [(1, 0x1000), (2, 1)] (withMem 0x1008 [7] State.reset)
theorem test_hyp_atabld : Ready (.atabld 2 1) sAtab ∧ sAtab.ecc = [] ∧ sAtab.heldStores = [] ∧ PlainAccess sAtab (sAtab.x 1) 8
    ∧ physOk (sAtab.x 1).toNat 2048 = true ∧ sAtab.ctx.cableSusp = false := by decide +kernel
/-- A 2 × 3 shape: diagonals −1, 0, 1, 2 of lengths 1, 2, 2, 1. -/
def sShape : State := withX [(1, 0x10304), (2, 0xFFFFFFFF)] (withU (fun u => { u with cshapemk := 2, cshapen := 3 }) sCab)
theorem test_kalloc : (nextOf (exec (.kalloc 2 1) sShape)).ctx.slot 4 = ⟨true, true, 0xFFFFFFFF, 1, 1, 0, false, false, 0, 0⟩
    ∧ ((nextOf (exec (.kalloc 2 1) sShape)).ctx.slot 7).base = 5 ∧ ((nextOf (exec (.kalloc 2 1) sShape)).ctx.slot 7).len = 1 := by
  decide +kernel
theorem test_hyp_cable : (cableForm (.dmac false false 2 1 2) (viqEntry (.dmac false false 2 1 2) [] sCab)).isSome = true
    ∧ Ready (.dmac false false 2 1 2) sCab ∧ (match cableForm (.dmac false false 2 1 2) (viqEntry (.dmac false false 2 1 2) [] sCab) with
      | some (chk, _) => decide (chk (viqPush (.dmac false false 2 1 2) [] sCab).ctx = .ok)
      | none => false) = true := by decide +kernel
/-- The worked primitive of spec/08: k2 = [0, 0, 6, 12, 20, 0]. -/
theorem test_dmac : (upFrom 0 6).map (nextOf (exec (.dmac false false 2 1 2) sCab)).ctx.poolWord
    = [0, 0, 0x40C00000, 0x41400000, 0x41A00000, 0] := by decide +kernel

/-- Slots with the registers of a product row: x = 3, y = 5 in INT8. -/
def stashOf (tag : Byte) (bs : List Byte) : Stash := ⟨1, tag, 0, setBytes [] 0 bs, [], bs.length, true, true, false⟩
/-- One row of an integer slot of one word at pool word 8. -/
def primInt : Prim := ⟨⟨true, true, 0, 0, 1, 8, false, false, 0, 0⟩, 0, 1, 0, 0, 1, 0, 0, false⟩
/-- One row of a float slot of one word at pool word 8. -/
def primFlt : Prim := { primInt with slot := { primInt.slot with intCls := false } }
theorem test_hyp_cable_row : Memory.wf sCab.ctx.pool = true ∧ (stashOf 1 [0]).zero 0 = true ∧ (stashOf 1 [3]).zero 0 = false
    ∧ (stashOf 10 [0, 0x40]).zero 0 = false ∧ primInt.slot.intCls = true ∧ primFlt.slot.intCls = false
    ∧ sCab.ctx.cableSusp = false := by decide +kernel
theorem test_cable_row : (primInt.row ⟨true, false, stashOf 1 [0], stashOf 1 [5], none, none⟩ sCab.ctx 0).poolWord 8 = 9
    ∧ (primInt.row ⟨true, true, stashOf 1 [3], stashOf 1 [5], none, none⟩ sCab.ctx 0).poolWord 8 = 2 ^ 32 - 6
    ∧ (primFlt.row ⟨false, false, stashOf 10 [0, 0x40], stashOf 10 [0, 0x42], none, none⟩ sCab.ctx 0).poolWord 9 = 0 := by decide +kernel
/-- Words 3.0 and −0.75 of slot k3, bound to v1 (TS 0.5, row plane v12) and v2 (TS 2.0, column plane v13); bias v9. -/
def sDrain : State := sVec.mapCtx fun c => { c with
  accw := 1024, pool := setLe (setLe [] 0 4 0x40400000) 4 4 0xBF400000, u := { c.u with qscl := 0x42800000 }
  slots := c.slots.set 3 ⟨true, false, 0, 0, 2, 0, true, false, 1, 2⟩,
  v := ((((((c.v.set 1 ⟨10, mkHdr 0 0 2 0x3F000000 12 0 true, .full, none, []⟩).set 2
    ⟨10, mkHdr 0 0 2 0x40000000 0 13 true, .full, none, []⟩).set 12 ⟨1, 0, .full, none, setBytes [] 0 [1, 0xFE]⟩).set 13
    ⟨1, 0, .full, none, setBytes [] 0 [0, 2]⟩).set 9 ⟨8, 0, .full, none, setLe (setLe [] 0 4 0x3F000000) 4 4 0x3F800000⟩).set 6
    ⟨11, 0, .full, none, []⟩) }
/-- The worked drain of spec/08: v6 = 0x7D, 0x58. -/
theorem test_dout : (nextOf (exec (.doutBq false 9 6 3) sDrain)).ctx.raw 6 0 = 0x7D
    ∧ (nextOf (exec (.doutBq false 9 6 3) sDrain)).ctx.raw 6 1 = 0x58 := by decide +kernel

/-! ### Copies -/

/-- Purse 0 at Commons offset 0x3100 with BAL 100, its table at 0x3000; x5 a pocket source, x6 a pocket destination. -/
def sCopy : State := withX [(5, 0), (6, 0x40), (7, 0)] (withU (fun u => { u with pbase := 0x3F0000003000 })
  (withLe (Config.commonsBase + 0x3000) 8 0x3F0000003100 (withLe (Config.commonsBase + 0x3100) 8 100 sVec)))
theorem test_hyp_copy : copyForm (.cpy 2 5 6 0) sCopy = some (2, 0, 0x40, 4, 4, 0) ∧ Ready (.cpy 2 5 6 0) sCopy := by decide +kernel
theorem test_hyp_copy_state : sCopy.Calm ∧ Memory.wf sCopy.mem = true ∧ sCopy.core.copies = [] ∧ sCopy.flights = [] ∧ sCopy.ctx.vlProv = none := by
  decide +kernel
theorem test_hyp_copy_purse : purseAt sCopy (dataPriv sCopy) sCopy.ctx.u.pbase 0 = some (Config.commonsBase + 0x3100) ∧ ldCode sCopy.ctx.u = 2
    ∧ stCode sCopy.ctx.u = 2 ∧ sCopy.ctx.u.vl.toNat = 2
    ∧ (BitVec.ofNat 64 (getLe sCopy.mem (Config.commonsBase + 0x3100) 8)).getLsbD 34 = false := by decide +kernel
theorem test_hyp_copy_elements : ∀ k : Nat, k < 2 → (BitVec.ofInt 64 ((k : Int) * 4)).toNat % 4 = 0
    ∧ (BitVec.ofInt 64 ((k : Int) * 4)).toNat + 4 ≤ sCopy.ctx.pocb ∧ ((0x40 : Word) + BitVec.ofInt 64 ((k : Int) * 4)).toNat % 4 = 0
    ∧ ((0x40 : Word) + BitVec.ofInt 64 ((k : Int) * 4)).toNat + 4 ≤ sCopy.ctx.pocb := by decide +kernel
theorem test_copy : getLe (nextOf (exec (.cpy 2 5 6 0) sCopy)).mem (Config.commonsBase + 0x3100) 8 = 92
    ∧ (nextOf (exec (.cpy 2 5 6 0) sCopy)).core.copies = [] := by decide +kernel
theorem test_hyp_cpyv : Ready (.cpyv 2 0 5 1) sCopy ∧ copyRegBad sCopy.ctx 1 4 2 = none ∧ sCopy.ctx.dstWaits 1 = false
    ∧ ldSpace (viqEntry (.cpyv 2 0 5 1) [] sCopy) = 2 ∧ Memory.wf (sCopy.ctx.vr 1).data = true ∧ (sCopy.x 0).toNat = 0
    ∧ Ready (.cpyvs 2 7 6 1) sCopy ∧ (sCopy.ctx.vr 1).st = .full ∧ stSpace (viqEntry (.cpyvs 2 7 6 1) [] sCopy) = 2 := by decide +kernel
/-- The same with GLOBAL as the space of loads and stores, x5 and x6 places in plain memory. -/
def sCopyMem : State := withX [(5, 0x1000), (6, 0x2000)] (withU (fun u => { u with mtyp := 0 }) (withMem 0x1000 [1, 2, 3, 4, 5, 6, 7, 8] sCopy))
theorem test_hyp_cpyv_mem : Ready (.cpyv 2 0 5 1) sCopyMem ∧ ldSpace (viqEntry (.cpyv 2 0 5 1) [] sCopyMem) = 0
    ∧ PlainAccess sCopyMem (sCopyMem.x 5) 4 ∧ PlainAccess sCopyMem (sCopyMem.x 5 + 4) 4 ∧ sCopyMem.ctx.u.vl = 2
    ∧ stSpace (viqEntry (.cpyvs 2 7 6 1) [] sCopyMem) = 0 ∧ PlainAccess sCopyMem (sCopyMem.x 6) 4 ∧ PlainAccess sCopyMem (sCopyMem.x 6 + 4) 4 := by
  decide +kernel
theorem test_cpyv_mem : (nextOf (exec (.cpyv 2 0 5 1) sCopyMem)).ctx.raw 1 1 = 0x08070605 := by decide +kernel
/-- What `copyPlaces` answers is an answer. -/
abbrev Placed (m : M (List Loc × List Loc)) (s : State) : Prop := (match m.run s with
  | (.ok _, _) => true
  | _ => false) = true
theorem test_hyp_cpyv_places : let en := viqEntry (.cpyv 2 0 5 1) [] sCopy
    let p := viqPush (.cpyv 2 0 5 1) [] sCopy
    entryConsumes p en = false ∧ copyFull p = false ∧ p.ctx.dstWaits 1 = false ∧ copyRegBad p.ctx 1 4 2 = none
    ∧ Placed (copyPlaces en.priv (en.word.setWidth 64) 4 (ldSpace en) 0 true false (strideAddrs en.a 4 2) []) p := by decide +kernel
theorem test_hyp_cpyvs_places : let en := viqEntry (.cpyvs 2 7 6 1) [] sCopy
    let p := viqPush (.cpyvs 2 7 6 1) [] sCopy
    entryConsumes p en = false ∧ copyFull p = false ∧ copyRegBad p.ctx 1 4 2 = none ∧ p.ctx.srcWaits ⟨1, some 2⟩ = false
    ∧ (match (purseOf en.priv en.csr.pbase (en.b.extractLsb' 0 5).toNat fun _ => (en.word.setWidth 64 : Word)).run p with
      | (.ok a, _) => decide (a = Config.commonsBase + 0x3100)
      | _ => false) = true
    ∧ Placed (copyPlaces en.priv (en.word.setWidth 64) 4 0 (stSpace en) false true [] (strideAddrs en.a 4 2)) p
    ∧ (p.ctx.vr 1).st ≠ .vacant := by decide +kernel
theorem test_cpyv : (nextOf (exec (.cpyv 2 0 5 1) sCopy)).ctx.raw 1 1 = 0x08070605
    ∧ getLe (nextOf (exec (.cpyvs 2 7 6 1) sCopy)).mem (Config.commonsBase + 0x3100) 8 = 92 := by decide +kernel

/-- A rank-1 descriptor of 1 element of INT32 at pocket 0, and a request of 2 elements into pocket 0x40. -/
def sTile : State := withX [(8, 0x1000), (9, 0x1040)] (withMem 0x1000 ([0, 0, 0, 0, 0, 0, 0, 0, 5, 1, 0, 0, 0, 0, 0, 0, 1])
  (withMem 0x1040 [0, 0, 0, 0, 0, 0, 0, 0, 0, 0, 0, 0, 2, 0, 0, 0, 1, 0, 0, 0, 1, 0, 0, 0, 0x40] sCopy))
theorem test_hyp_ctile : Ready (.ctile 2 9 8 0) sTile ∧ sTile.Calm ∧ Memory.wf sTile.mem = true ∧ sTile.ctx.dcache = []
    ∧ PlainAccess sTile (sTile.x 8) 64 ∧ PlainAccess sTile (sTile.x 9) 32 := by decide +kernel
/-- What the two say. -/
def tile1 : Tile := tileOfRec (getBytes sTile.mem 0x1000 64 ++ getBytes sTile.mem 0x1040 32)
theorem test_hyp_ctile_checks : descBad (getBytes sTile.mem 0x1000 64 ++ getBytes sTile.mem 0x1040 32) 4 = false
    ∧ reqBad (getBytes sTile.mem 0x1000 64 ++ getBytes sTile.mem 0x1040 32) 4 = false ∧ ((etyOf tile1.tag).map ETy.bits).getD 0 = 32
    ∧ tile1.c0 < tile1.dim0 ∧ ((tile1.dim0 : Int) < tile1.c0 + 2) ∧ tileRegBad sTile.ctx 4 1 tile1 = none
    ∧ tileWaits sTile.ctx tile1 = false ∧ tile1.dk = false ∧ tile1.dest + 4 ≤ sTile.ctx.pocb := by decide +kernel
theorem test_hyp_ctile_elements : ∀ e ∈ tileElems tile1 1 4, e.2.1 = true → e.2.2.toNat % 4 = 0 ∧ e.2.2.toNat + 4 ≤ sTile.ctx.pocb := by
  decide +kernel
theorem test_ctile : (nextOf (exec (.ctile 2 9 8 0) sTile)).ctx.u.vl = 1 ∧ (nextOf (exec (.ctile 2 9 8 0) sTile)).ctx.u.vffs = 3
    ∧ getLe (nextOf (exec (.ctile 2 9 8 0) sTile)).mem (Config.commonsBase + 0x3100) 8 = 96 := by decide +kernel
/-- The same with a dimension 0 of 2 elements: the tile lies in it. -/
def sTileIn : State := withMem 0x1010 [2] sTile
def tileIn : Tile := tileOfRec (getBytes sTileIn.mem 0x1000 64 ++ getBytes sTileIn.mem 0x1040 32)
theorem test_hyp_ctile_in : Ready (.ctile 2 9 8 0) sTileIn ∧ sTileIn.Calm ∧ Memory.wf sTileIn.mem = true ∧ sTileIn.ctx.dcache = []
    ∧ PlainAccess sTileIn (sTileIn.x 8) 64 ∧ PlainAccess sTileIn (sTileIn.x 9) 32 := by decide +kernel
theorem test_hyp_ctile_in_checks : tileIn.e0 ≤ sTileIn.ctx.u.vl.toNat ∧ 0 ≤ tileIn.c0 ∧ tileIn.c0 + tileIn.e0 ≤ tileIn.dim0
    ∧ descBad (getBytes sTileIn.mem 0x1000 64 ++ getBytes sTileIn.mem 0x1040 32) 4 = false
    ∧ reqBad (getBytes sTileIn.mem 0x1000 64 ++ getBytes sTileIn.mem 0x1040 32) 4 = false ∧ tileRegBad sTileIn.ctx 4 2 tileIn = none
    ∧ tileWaits sTileIn.ctx tileIn = false ∧ tileIn.dest + 2 * 4 ≤ sTileIn.ctx.pocb
    ∧ ∀ e ∈ tileElems tileIn tileIn.e0 4, e.2.1 = true → e.2.2.toNat % 4 = 0 ∧ e.2.2.toNat + 4 ≤ sTileIn.ctx.pocb := by decide +kernel
theorem test_ctile_in : (nextOf (exec (.ctile 2 9 8 0) sTileIn)).ctx.u.vl = 2 ∧ (nextOf (exec (.ctile 2 9 8 0) sTileIn)).ctx.u.vffs = 0
    ∧ getLe (nextOf (exec (.ctile 2 9 8 0) sTileIn)).mem (Config.commonsBase + 0x3100) 8 = 92 := by decide +kernel

/-- The same into v1, with m2 as the mask of what is in range. -/
def sTileReg : State := withMem 0x1058 [1, 0, 0, 0, 2, 0, 0, 0x80] sTile
def tileReg : Tile := tileOfRec (getBytes sTileReg.mem 0x1000 64 ++ getBytes sTileReg.mem 0x1040 32)
theorem test_hyp_ctile_reg : Ready (.ctile 2 9 8 0) sTileReg ∧ sTileReg.Calm ∧ Memory.wf sTileReg.mem = true ∧ sTileReg.ctx.dcache = []
    ∧ PlainAccess sTileReg (sTileReg.x 8) 64 ∧ PlainAccess sTileReg (sTileReg.x 9) 32 := by decide +kernel
theorem test_hyp_ctile_reg_checks : tileReg.dk = true ∧ tileReg.msk = 2 ∧ tileRegBad sTileReg.ctx 4 1 tileReg = none
    ∧ tileWaits sTileReg.ctx tileReg = false ∧ Memory.wf (sTileReg.ctx.vr 1).data = true
    ∧ Memory.wf sTileReg.ctx.m[(2 : MReg3).toNat].bits = true
    ∧ descBad (getBytes sTileReg.mem 0x1000 64 ++ getBytes sTileReg.mem 0x1040 32) 4 = false
    ∧ reqBad (getBytes sTileReg.mem 0x1000 64 ++ getBytes sTileReg.mem 0x1040 32) 4 = false := by decide +kernel
theorem test_ctile_reg : (nextOf (exec (.ctile 2 9 8 0) sTileReg)).ctx.mbit 2 0 = true
    ∧ ((nextOf (exec (.ctile 2 9 8 0) sTileReg)).ctx.vr 1).st = .full := by decide +kernel

/-- A ring of 4 slots of 64 bytes at window offset 0x3400, its header at 0x3200: one free slot, one filled. -/
def sRing (free rsv filled : Nat) (closed : Bool) : State := withX [(10, 0x3F0000003200), (11, 0x3F0000003400)]
  (withLe (Config.commonsBase + 0x3200) 8 0x3F0000003400 (withLe (Config.commonsBase + 0x3208) 8
    (1 + 4 * 2 ^ 16 + 1 * 2 ^ 32 + (rsv + if closed then 32768 else 0) * 2 ^ 48) (withLe (Config.commonsBase + 0x3210) 8 (free + filled * 2 ^ 32) sCopy)))
theorem test_hyp_cring : Ready (.cring 2 5 10 0) (sRing 2 0 0 false) ∧ (sRing 2 0 0 false).Calm ∧ Memory.wf (sRing 2 0 0 false).mem = true
    ∧ (sRing 2 0 0 false).core.copies = [] ∧ (sRing 2 0 0 false).flights = [] ∧ (sRing 2 0 0 false).ctx.vlProv = none := by decide +kernel
theorem test_hyp_cring_ring : commonsWord (sRing 2 0 0 false) (sRing 2 0 0 false).pidx (dataPriv (sRing 2 0 0 false)) ((sRing 2 0 0 false).x 10) 32 32
      = some (Config.commonsBase + 0x3200) ∧ inCounterBlock (sRing 2 0 0 false) (Config.commonsBase + 0x3200) = false
    ∧ ringAt (sRing 2 0 0 false) (Config.commonsBase + 0x3200) = ⟨0x3F0000003400, false, 0, 1, 4, 1, 0, 2, 0, 0, 0, 0⟩
    ∧ ringValid (sRing 2 0 0 false) (sRing 2 0 0 false).pidx (dataPriv (sRing 2 0 0 false)) (ringAt (sRing 2 0 0 false) (Config.commonsBase + 0x3200)) = true
    ∧ purseAt (sRing 2 0 0 false) (dataPriv (sRing 2 0 0 false)) (sRing 2 0 0 false).ctx.u.pbase 0 = some (Config.commonsBase + 0x3100)
    ∧ ldCode (sRing 2 0 0 false).ctx.u = 2 := by decide +kernel
/-- Bytes at a bounded offset of the Commons lie in no counter block and no mailbox word, by evaluation of a finite range. -/
theorem plainCommons_of (s : State) (a n : Nat) (h : ∀ i : Nat, i < n → inCounterBlock s (a + i) = false
    ∧ ∀ k : Nat, k < s.nparts → a + i < mailboxAt s k ∨ mailboxAt s k + 256 ≤ a + i) : PlainCommons s a n := by
  intro b h1 h2
  have e : b = a + (b - a) := by omega
  rw [e]
  exact h (b - a) (by omega)
theorem test_hyp_cring_commons : PlainCommons (sRing 2 0 0 false) (Config.commonsBase + 0x3200) 32
    ∧ PlainCommons (sRing 2 0 0 false) (Config.commonsBase + 0x3100) 8
    ∧ PlainCommons (sRing 2 0 0 false) (Config.commonsBase + 0x3400) 256 :=
  ⟨plainCommons_of _ _ _ (by decide +kernel), plainCommons_of _ _ _ (by decide +kernel), plainCommons_of _ _ _ (by decide +kernel)⟩

/-- An engine with copies outstanding. -/
def withCopies (l : List CopyOp) (s : State) : State := { s with core := { s.core with copies := l } }
/-- A copy of one word whose value is known. -/
def copyOf (form : CopyForm) (dst : CopyDst) : CopyOp := ⟨0, 0, none, false, .machine, form, 4, [⟨.val [1, 2, 3, 4] false, dst, 0⟩], [], [], none, none, 4, false, false⟩
theorem test_hyp_copy_engine : (withCopies [copyOf .plain (.mem (.pocket 0))] sVec).Calm
    ∧ (withCopies [copyOf .plain (.mem (.pocket 0))] sVec).ctx.esc = none
    ∧ copyWaits (withCopies [copyOf .plain (.mem (.pocket 0))] sVec) (copyOf .plain (.mem (.pocket 0))) = false
    ∧ sVec.flights = [] ∧ sVec.heldStores = [] ∧ (copyOf (.toReg 1 2) (.reg 1 0)).turn 0 = true
    ∧ Memory.wf ((withCopies [copyOf (.toReg 1 2) (.reg 1 0)] sVec).ctx.vr 1).data = true
    ∧ (copyOf (.toReg 1 2) (.reg 1 0)).reads (withCopies [copyOf (.toReg 1 2) (.reg 1 0)] sVec) ⟨.val [1, 2, 3, 4] false, .reg 1 0, 0⟩
      = (false, [1, 2, 3, 4]) := by decide +kernel
theorem test_copy_engine : (nextOf (exec (.copyComplete 0) (withCopies [copyOf .plain (.mem (.pocket 0))] sVec))).core.copies = []
    ∧ (nextOf (exec (.cpyvElementLand 0 0) (withCopies [copyOf (.toReg 1 2) (.reg 1 0)] sVec))).ctx.raw 1 0 = 0x04030201 := by decide +kernel
/-- A `cring` in the engine without a slot. -/
def sCring : State := withCopies [copyOf (.ring 0x3F0000003200 none) (.mem (.pocket 0))] (sRing 2 0 0 false)
theorem test_hyp_cring_reserve : copyCancelled sCring (copyOf (.ring 0x3F0000003200 none) (.mem (.pocket 0))) = false
    ∧ ringUsable sCring (copyOf (.ring 0x3F0000003200 none) (.mem (.pocket 0))) 0x3F0000003200 = true ∧ (ringAt sCring (ringPhys 0x3F0000003200)).reserve
      = .done ⟨0x3F0000003400, false, 1, 1, 4, 1, 0, 1, 0, 1, 0, 0⟩ 0x3F0000003400
      ∨ (ringAt sCring (ringPhys 0x3F0000003200)).reserve = .done ⟨0x3F0000003400, false, 1, 1, 4, 1, 0, 1, 1, 0, 0, 0⟩ 0x3F0000003400 := by
  decide +kernel
/-- A U-mode core whose overdraft waits. -/
def sOver : State := withPriv .user (State.reset.mapCtx fun c => { c with overdraft := some 0x3F0000003100 })
theorem test_hyp_overdraft : sOver.ctx.rbEntry = none ∧ sOver.ctx.vfault = none ∧ sOver.ctx.cpyPoison = none ∧ sOver.core.priv = .user ∧ sOver.ctx.esc = none ∧ sOver.ctx.overdraft = some 0x3F0000003100 := by decide
theorem test_overdraft : (nextOf (exec .overdraft sOver)).core.csr.mtval = 0x3F0000003100 := by decide +kernel

/-! ### The Commons -/

theorem test_hyp_teller : tellerForm (.tadd 1 1 12 7) = some (0, 1, 1, 12, 7) ∧ Ready (.tadd 1 1 12 7) (withX [(12, 0x3F0000003100)] sCopy)
    ∧ commonsWord (withX [(12, 0x3F0000003100)] sCopy) (withX [(12, 0x3F0000003100)] sCopy).pidx
      (dataPriv (withX [(12, 0x3F0000003100)] sCopy)) 0x3F0000003100 8 8 = some (Config.commonsBase + 0x3100)
    ∧ inCounterBlock (withX [(12, 0x3F0000003100)] sCopy) (Config.commonsBase + 0x3100) = false
    ∧ (withX [(12, 0x3F0000003100)] sCopy).Still ∧ SoftRun (withX [(12, 0x3F0000003100)] sCopy) (Config.commonsBase + 0x3100) 8
    ∧ Memory.wf (withX [(12, 0x3F0000003100)] sCopy).mem = true := by decide +kernel
theorem test_hyp_teller_bad : Ready (.tadd 1 1 12 7) (withX [(12, 0x3F0000003101)] sCopy) ∧ (0x3F0000003101 : Word).toNat % atomicBytes 1 ≠ 0
    ∧ Ready (.tadd 1 1 12 7) (withX [(12, 0x1000)] sCopy) ∧ (0x1000 : Word).toNat % atomicBytes 1 = 0
    ∧ commonsWord (withX [(12, 0x1000)] sCopy) 0 .machine 0x1000 8 8 = none := by decide +kernel
theorem test_teller : (nextOf (exec (.tadd 1 1 12 7) (withX [(12, 0x3F0000003100)] sCopy))).x 7 = 100
    ∧ getLe (nextOf (exec (.tadd 1 1 12 7) (withX [(12, 0x3F0000003100)] sCopy))).mem (Config.commonsBase + 0x3100) 8 = 108
    ∧ (nextOf (exec (.tadd 1 1 12 7) (withX [(12, 0x3F0000003101)] sCopy))).core.csr.mcause = 6 := by decide +kernel
/-- x12 the purse's address, x13 an amount. -/
def sPurse (bal amt : Nat) : State := withX [(12, 0x3F0000003100), (13, BitVec.ofNat 64 amt)]
  (withLe (Config.commonsBase + 0x3100) 8 bal sCopy)
theorem test_hyp_purse : Ready (.pset 13 12) (sPurse 100 5) ∧ (sPurse 100 5).Still ∧ SoftRun (sPurse 100 5) (Config.commonsBase + 0x3100) 8 ∧ Memory.wf (sPurse 100 5).mem = true
    ∧ ((sPurse 100 5).x 13).extractLsb' 34 30 = 0 ∧ ((sPurse 100 5).x 13).getLsbD 31 = false ∧ Ready (.ptest 12 7) (sPurse 100 5)
    ∧ commonsWord (sPurse 100 5) (sPurse 100 5).pidx (dataPriv (sPurse 100 5)) ((sPurse 100 5).x 12) 8 8 = some (Config.commonsBase + 0x3100)
    ∧ inCounterBlock (sPurse 100 5) (Config.commonsBase + 0x3100) = false := by decide +kernel
/-- The strand of `sRun` at a `pwait` of a purse that holds 100. -/
def sPwaitU : State := withX [(12, 0x3F0000003100)] (withLe (Config.commonsBase + 0x3100) 8 100 sRun)
theorem test_hyp_pwait_strand : Ready (.pwait 12 7) sPwaitU ∧ sPwaitU.ecc = [] ∧ sPwaitU.heldStores = []
    ∧ commonsWord sPwaitU sPwaitU.pidx (dataPriv sPwaitU) (sPwaitU.x 12) 8 8 = some (Config.commonsBase + 0x3100)
    ∧ inCounterBlock sPwaitU (Config.commonsBase + 0x3100) = false ∧ sPwaitU.core.priv = .user
    ∧ coreStrand sPwaitU = some (⟨1, 0, 0⟩, launch .admitted [strand .running (some 0) none], strand .running (some 0) none)
    ∧ (strand .running (some 0) none).released = none
    ∧ 0 < purseBal (BitVec.ofNat 64 (getLe sPwaitU.mem (Config.commonsBase + 0x3100) 8)) := by decide +kernel
theorem test_hyp_pwait : Ready (.pwait 12 7) (sPurse 0 5) ∧ (sPurse 0 5).Still ∧ Strandless (sPurse 0 5) ∧ Strandless (sPurse 100 5)
    ∧ commonsWord (sPurse 0 5) (sPurse 0 5).pidx (dataPriv (sPurse 0 5)) ((sPurse 0 5).x 12) 8 8 = some (Config.commonsBase + 0x3100)
    ∧ purseBal (BitVec.ofNat 64 (getLe (sPurse 0 5).mem (Config.commonsBase + 0x3100) 8)) ≤ 0 ∧ Ready (.pwait 12 7) (sPurse 100 5)
    ∧ 0 < purseBal (BitVec.ofNat 64 (getLe (sPurse 100 5).mem (Config.commonsBase + 0x3100) 8)) := by decide +kernel
theorem test_purse : getLe (nextOf (exec (.pset 13 12) (sPurse 100 5))).mem (Config.commonsBase + 0x3100) 8 = 105
    ∧ (nextOf (exec (.pwait 12 7) (sPurse 100 5))).core.hwait = some ⟨.machine, 0, 0x3F0000003100, .purse, none⟩
    ∧ ((findLaunch (nextOf (exec (.pwait 12 7) sPwaitU)) 0 1).map fun l => l.strands.map fun t => t.st) = some [.blocked] ∧ (nextOf (exec (.pwait 12 7) (sPurse 0 5))).ctx.pc = 4 := by decide +kernel
theorem test_hyp_ring : ringForm (.rres 10 7) (sRing 2 0 0 false) = some (10, 7, .reserve) ∧ Ready (.rres 10 7) (sRing 2 0 0 false)
    ∧ (sRing 2 0 0 false).Still ∧ Strandless (sRing 2 0 0 false) ∧ SoftRun (sRing 2 0 0 false) (Config.commonsBase + 0x3200) 32
    ∧ ringValid (sRing 2 0 0 false) (sRing 2 0 0 false).pidx .machine (ringAt (sRing 2 0 0 false) (Config.commonsBase + 0x3200)) = true
    ∧ Ready (.racq 10 7) (sRing 2 0 0 false) ∧ Ready (.rocc 10 7) (sRing 2 0 0 false) ∧ Ready (.rrel 5 10) (sRing 2 0 0 false) := by
  refine ⟨rfl, ?_, ?_, ?_, ?_, ?_, ?_, ?_, ?_⟩ <;> decide +kernel
theorem test_hyp_ring_answers : (match (ringAt (sRing 2 0 0 false) (Config.commonsBase + 0x3200)).reserve with
      | .done r v => decide (r.free = 1 ∧ r.rsv = 1 ∧ v = 0x3F0000003400)
      | _ => false) = true
    ∧ (ringAt (sRing 2 0 0 false) (Config.commonsBase + 0x3200)).acquire = .wait
    ∧ (ringAt (sRing 2 0 0 false) (Config.commonsBase + 0x3200)).release 1 = .bad
    ∧ (match (ringAt (sRing 0 0 2 false) (Config.commonsBase + 0x3200)).acquire with
      | .done r v => decide (r.filled = 1 ∧ v = 0x3F0000003400)
      | _ => false) = true
    ∧ (match (ringAt (sRing 0 1 2 false) (Config.commonsBase + 0x3200)).publish 0x3F0000003400 with
      | .done r _ => decide (r.filled = 3 ∧ r.rsv = 0)
      | _ => false) = true := by decide +kernel
theorem test_ring : (nextOf (exec (.rres 10 7) (sRing 2 0 0 false))).x 7 = 0x3F0000003400 ∧ (nextOf (exec (.racq 10 7) (sRing 2 0 0 false))).core.hwait.map (fun w => w.op) = some .acquire
    ∧ (nextOf (exec (.rocc 10 7) (sRing 1 0 3 false))).x 7 = 0x300000001 := by decide +kernel

/-- x12 a barrier or level word at Commons offset 0x3600, x13 a number. -/
def sWord (w : Nat) (n : Word) : State := withX [(12, 0x3F0000003600), (13, n)] (withLe (Config.commonsBase + 0x3600) 8 w sCopy)
theorem test_hyp_bar : Ready (.bar 13 12 7) (sWord 1 2) ∧ (sWord 1 2).Still ∧ Memory.wf (sWord 1 2).mem = true ∧ Strandless (sWord 1 2)
    ∧ SoftRun (sWord 1 2) (Config.commonsBase + 0x3600) 8
    ∧ commonsWord (sWord 1 2) (sWord 1 2).pidx (dataPriv (sWord 1 2)) ((sWord 1 2).x 12) 8 8 = some (Config.commonsBase + 0x3600)
    ∧ inCounterBlock (sWord 1 2) (Config.commonsBase + 0x3600) = false ∧ (sWord 1 2).ctx.barGen = none := by decide +kernel
theorem test_hyp_bar_counts : ((sWord 1 2).x 13).extractLsb' 0 32 ≠ 0 ∧ ((sWord 1 2).x 13).extractLsb' 32 32 = 0
    ∧ ((sWord 1 2).x 13).toNat ≤ getLe (sWord 1 2).mem (Config.commonsBase + 0x3600) 4 + 1 ∧ Ready (.bar 13 12 7) (sWord 0 2)
    ∧ getLe (sWord 0 2).mem (Config.commonsBase + 0x3600) 4 + 1 < ((sWord 0 2).x 13).toNat := by decide +kernel
theorem test_bar : getLe (nextOf (exec (.bar 13 12 7) (sWord 1 2))).mem (Config.commonsBase + 0x3600) 8 = 0x100000000
    ∧ (nextOf (exec (.bar 13 12 7) (sWord 1 2))).x 7 = 1 ∧ getLe (nextOf (exec (.bar 13 12 7) (sWord 0 2))).mem (Config.commonsBase + 0x3600) 8 = 1
    ∧ (nextOf (exec (.bar 13 12 7) (sWord 0 2))).core.hwait.map (fun w => w.op) = some (.barrier 0) := by decide +kernel
theorem test_hyp_level : Ready (.lvlwait 12 7) (sWord 0 2) ∧ (sWord 0 2).Still ∧ Strandless (sWord 0 2) ∧ Strandless (sWord 3 2) ∧ (sWord 3 2).heldStores = []
    ∧ commonsWord (sWord 0 2) (sWord 0 2).pidx (dataPriv (sWord 0 2)) ((sWord 0 2).x 12) 16 16 = some (Config.commonsBase + 0x3600)
    ∧ getLe (sWord 0 2).mem (Config.commonsBase + 0x3600) 4 = 0 ∧ Ready (.lvlwait 12 7) (sWord 3 2)
    ∧ getLe (sWord 3 2).mem (Config.commonsBase + 0x3600) 4 ≠ 0 ∧ Ready (.lvlcancel 12) (sWord 3 2) ∧ (sWord 3 2).ecc = [] := by decide +kernel
theorem test_level : (nextOf (exec (.lvlwait 12 7) (sWord 0 2))).ctx.pc = 4 ∧ (nextOf (exec (.lvlwait 12 7) (sWord 3 2))).core.hwait.map (fun w => w.op) = some .level
    ∧ (getByte (nextOf (exec (.lvlcancel 12) (sWord 3 2))).mem (Config.commonsBase + 0x3607)).getLsbD 6 = true := by decide +kernel
/-- ZERO of 2 elements of 4 bytes (INT32) at Commons offset 0x3600. -/
def sTcmd : State := withX [(12, 0x3F0000003600), (13, 0x0500000200000000)] (withLe (Config.commonsBase + 0x3600) 8 0x123456789 sCopy)
theorem test_hyp_tcmd : Ready (.tcmd 13 12 0) sTcmd ∧ (tcmdOf (sTcmd.x 13)).legal = true ∧ (tcmdOf (sTcmd.x 13)).cmd = 0
    ∧ (sTcmd.x 12).toNat % 4 = 0 ∧ codeBytes (tcmdOf (sTcmd.x 13)).sfmt = 4 ∧ Config.windowBase ≤ (sTcmd.x 12).toNat
    ∧ commonsRun sTcmd sTcmd.pidx (dataPriv sTcmd) ((sTcmd.x 12).toNat - Config.windowBase + (tcmdOf (sTcmd.x 13)).first) (tcmdOf (sTcmd.x 13)).span = true
    ∧ tcmdHeld sTcmd < 16 := by decide +kernel
theorem test_tcmd : getLe (nextOf (exec (.tcmd 13 12 0) sTcmd)).mem (Config.commonsBase + 0x3600) 8 = 0
    ∧ getLe (nextOf (exec (.tcmd 13 12 0) sTcmd)).mem (Config.commonsBase + 0x3100) 8 = 92 := by decide +kernel
/-- A command outstanding at a Teller. -/
def tcmdOp1 : TcmdOp :=
  ⟨0, none, false, 0, .machine, 0, [BitVec.ofNat 64 (Config.commonsBase + 0x3600), 0x0500000200000000], Config.commonsBase + 0x3100, 8⟩
def sTeller : State := { sTcmd with tcmds := [tcmdOp1] }
theorem test_hyp_tcmd_complete : sTeller.tcmds[0]?.isSome = true ∧ (tcmdWrites sTeller (Config.commonsBase + 0x3600) (tcmdOf 0x0500000200000000)).length = 2 := by
  decide +kernel
theorem test_tcmd_complete : (nextOf (exec (.tcmdComplete 0) sTeller)).tcmds = []
    ∧ getLe (nextOf (exec (.tcmdComplete 0) sTeller)).mem (Config.commonsBase + 0x3600) 8 = 0 := by decide +kernel
theorem test_hyp_bank_store : PlainCommons sCopy (Config.commonsBase + 0x3600) 2 := plainCommons_of _ _ _ (by decide +kernel)
theorem test_hyp_bank : sCopy.Calm ∧ sCopy.Still ∧ sCopy.ctx.esc = none ∧ 0x3600 + 8 ≤ Config.commonsBytes
    ∧ inCounterBlock sCopy (Config.commonsBase + 0x3600) = false ∧ 0x3600 % atomicBytes 1 = 0 := by decide +kernel
theorem test_bank : getLe (nextOf (exec (.tellerRequest (.store 0x3600 [1, 2])) sCopy)).mem (Config.commonsBase + 0x3600) 2 = 0x201
    ∧ getLe (nextOf (exec (.tellerRequest (.atomic 0 1 0x3600 5 0)) sCopy)).mem (Config.commonsBase + 0x3600) 8 = 5
    ∧ (nextOf (exec (.tellerRemap 3) sCopy)).remapped = [3] := by decide +kernel
/-- A table at 0x4000 of one leaf that maps the lowest addresses of the partition to the same HBM addresses, readable,
writable, executable and for U-mode. -/
def withMap (s : State) : State := (withLe 0x4000 8 0xDF s).mapPart 0 fun p => { p with ptroot := 0x4000 }
/-- Work queue 0 of 2 records at 0x6000, its control block at 0x5000: enabled, owned by the chip. -/
def sWq (tail ctl : Nat) : State := withX [(12, 0), (13, 0x7000)] ((withMem 0x7000 [0xAA, 0xBB] (withLe 0x5000 8 0x6000 (withLe 0x5008 8 ctl
  (withLe 0x5010 8 tail (withMap State.reset))))).mapPart 0 fun p => { p with wqbase := 0x5000 })
theorem test_hyp_wqpost : Ready (.wqpost 13 12 7) (sWq 1 (2 ^ 63 + 2 ^ 40 + 1)) ∧ (sWq 1 (2 ^ 63 + 2 ^ 40 + 1)).Still
    ∧ Memory.wf (sWq 1 (2 ^ 63 + 2 ^ 40 + 1)).mem = true ∧ PlainAccess (sWq 1 (2 ^ 63 + 2 ^ 40 + 1)) ((sWq 1 (2 ^ 63 + 2 ^ 40 + 1)).x 13) 64
    ∧ sysAddr (sWq 1 (2 ^ 63 + 2 ^ 40 + 1)) 0 (wqBlock (sWq 1 (2 ^ 63 + 2 ^ 40 + 1)) 0 0) = some 0x5000 ∧ isCommons 0x5000 = false
    ∧ isCommons (0x5000 + 16) = false ∧ (sWq 1 (2 ^ 63 + 2 ^ 40 + 1)).pidx = 0 := by decide +kernel
theorem test_hyp_wqpost_cases : wqEna (sWq 1 (2 ^ 40 + 1)) 0x5000 = false ∧ wqUsed (sWq 2 (2 ^ 63 + 2 ^ 40 + 1)) 0x5000 = 2 ^ wqLsz (sWq 2 (2 ^ 63 + 2 ^ 40 + 1)) 0x5000
    ∧ wqEna (sWq 1 (2 ^ 63 + 2 ^ 40 + 1)) 0x5000 = true ∧ wqOwn (sWq 1 (2 ^ 63 + 2 ^ 40 + 1)) 0x5000 = true
    ∧ wqUsed (sWq 1 (2 ^ 63 + 2 ^ 40 + 1)) 0x5000 ≠ 2 ^ wqLsz (sWq 1 (2 ^ 63 + 2 ^ 40 + 1)) 0x5000
    ∧ (sysLoc (sWq 1 (2 ^ 63 + 2 ^ 40 + 1)) 0 (wqRecord (sWq 1 (2 ^ 63 + 2 ^ 40 + 1)) 0x5000 1)).map Prod.fst = some 0x6040
    ∧ isCommons 0x6040 = false ∧ pageMarked (sWq 1 (2 ^ 63 + 2 ^ 40 + 1)) 0 (wqBlock (sWq 1 (2 ^ 63 + 2 ^ 40 + 1)) 0 0) = true
    ∧ pageMarked (sWq 1 (2 ^ 63 + 2 ^ 40 + 1)) 0 (wqRecord (sWq 1 (2 ^ 63 + 2 ^ 40 + 1)) 0x5000 1) = true := by decide +kernel
theorem test_wqpost : (nextOf (exec (.wqpost 13 12 7) (sWq 1 (2 ^ 40 + 1)))).x 7 = 2 ∧ (nextOf (exec (.wqpost 13 12 7) (sWq 2 (2 ^ 63 + 2 ^ 40 + 1)))).x 7 = 1
    ∧ getLe (nextOf (exec (.wqpost 13 12 7) (sWq 1 (2 ^ 63 + 2 ^ 40 + 1)))).mem 0x6040 2 = 0xBBAA
    ∧ getLe (nextOf (exec (.wqpost 13 12 7) (sWq 1 (2 ^ 63 + 2 ^ 40 + 1)))).mem 0x5010 4 = 2 := by decide +kernel

/-! ### The queue's own steps -/

/-- A VIQ whose head is a `vldff`, where the queue lags. -/
def sVldff : State := viqPush (.vldffUnit false 1 0 3) [] { sVec with lag := true }
theorem test_hyp_vldff : isVldff (viqEntry (.vldffUnit false 1 0 3) [] sVec).instr = true
    ∧ (match viqHead (viqEntry (.vldffUnit false 1 0 3) [] sVec) sVldff with
      | .done _ => true
      | _ => false) = true := by decide +kernel
theorem test_vldff : (nextOf (exec .vldffComplete sVldff)).ctx.raw 3 0 = 0x40302010
    ∧ (nextOf (exec .vldffComplete sVldff)).ctx.viq = [] := by decide +kernel
/-- One element stored to GLOBAL memory whose frame the transit filter holds. -/
def sLate0 : State := withX [(1, 0x9000)] (withU (fun u => { u with mtyp := 0, vl := 1 }) (sVec.mapPart 0 fun p => { p with
  transit := [⟨0x9000, 0x9000, 0x1000⟩] }))
def enLate : VEntry := viqEntry (.vstUnit false 1 0 1) [] sLate0
def sLate : State := viqPush (.vstUnit false 1 0 1) [] { sLate0 with lag := true }
theorem storeScan_latepf (f : Nat → M ElemWrite) (i : Nat) (s s' : State) (tv : Word)
    (h : (f i).run s = (.error (.trap cLatepf tv), s')) :
    storeScan f [i] s [] = ([], .fault { s' with draws := s'.draws + 1 } cLatepf (some tv) i) := by
  rw [storeScan, h]
  simp only
  split <;> rfl
theorem storeFinish_fault (en : VEntry) (s : State) (c : BitVec 6) (tv : Option Word) (f : Nat) :
    storeFinish en ([], .fault s c tv f) = .fault (strandWrites en s []) c tv f := by
  simp [storeFinish, storeStuck]
theorem test_hyp_latepf : sLate.ctx.viq = [enLate] ∧ enLate.frozen = false ∧ ∃ t tv, viqHead enLate sLate = .fault t cLatepf tv 0 := by
  refine ⟨by decide +kernel, by decide +kernel, ?_⟩
  have e : viqHead enLate sLate = storeFinish enLate (storeScan (storeElem 1 enLate (fun i => if i % 2 = 1 ∧ 0 + 1 ≤ i ∧ sLate.ctx.mbit 0 (i - 1) = true
    then some (sLate.ctx.raw 1 (i - 1)) else none) (elemAddr .unit 32 enLate)) [0] sLate []) := rfl
  rw [e, storeScan_latepf (tv := 0x9000) (s' := sLate) (h := rfl), storeFinish_fault]
  exact ⟨_, _, rfl⟩
/-- A `vmov` of a pending register at the head, and behind it a load from a misaligned address. -/
def sAhead : State := viqPush (.vldUnit false 2 0 4) [] (viqPush (.vmov false 6 0 3) []
  { (withV 4 5 [] sVec).mapCtx fun c => c.mapVr 6 fun v => { v with tag := 5, st := .pending } with lag := true })
theorem test_hyp_ahead : (match viqHead (sAhead.ctx.viq.getD 0 (viqEntry .ecall [] sVec)) sAhead with
      | .wait => true
      | _ => false) = true ∧ sAhead.ctx.viq.length = 2 := by decide +kernel
theorem test_ahead : (nextOf (exec .vectorFault sAhead)).ctx.vfault.map (fun f => (f.vqpos, f.ves)) = some (1, 0) ∧ (nextOf (exec .vectorFault sAhead)).ctx.vfault.isSome = true := by
  decide +kernel
theorem test_hyp_vfault : (nextOf (exec .vectorFault sAhead)).ctx.esc = none
    ∧ (takeVFault (nextOf (exec .vectorFault sAhead))).ctx.u.vqpos = 1 := by decide +kernel
/-- A store of the core held at the ordering point. -/
def held1 : Held := ⟨0, 0, none, false, .machine, .phys 0x9000 0 none, [7, 8], 0, none, none, [], 0, none, []⟩
def sHeld : State := { sVec with heldStores := [held1] }
theorem test_hyp_held : sHeld.heldStores = [held1] ∧ held1.core = sHeld.core.id ∧ held1.loc = .phys 0x9000 0 none ∧ held1.bytes ≠ []
    ∧ { sHeld with heldStores := [] }.Calm ∧ sHeld.ctx.esc = none ∧ Memory.wf sHeld.mem = true
    ∧ held1.behind = none ∧ physOk 0x9000 held1.bytes.length = true ∧ isCommons 0x9000 = false := by decide +kernel

/-! ### Strands and boundaries -/

/-- Every piece of a block lies in the block. -/
theorem pieces64_range (n : Nat) : ∀ (off : Nat) (bs : List Byte) (p : Nat × List Byte), p ∈ pieces64 n off bs →
    off ≤ p.1 ∧ p.1 < off + 64 * n := by
  induction n with
  | zero => intro off bs p h; simp [pieces64] at h
  | succ n ih =>
    intro off bs p h
    rw [pieces64] at h
    split at h
    · simp at h
    · rcases List.mem_cons.mp h with rfl | h
      · exact ⟨le_refl _, by simp⟩
      · have := ih _ _ _ h
        omega
/-- A block whose slot lies in the Commons window can be written. -/
theorem writeBlock_window (s : State) (k : Nat) (new : Bool) (va : Nat) (c : Ctx) (h1 : Config.windowBase ≤ va)
    (h2 : va + 1572864 ≤ Config.windowBase + Config.commonsBytes) : (writeBlock s k new va c).isSome = true := by
  unfold writeBlock
  simp only
  rw [if_pos]
  · rfl
  · rw [List.all_eq_true]
    intro p hp
    have hr := pieces64_range _ _ _ _ hp
    unfold sysLoc sysAddr
    have a : Config.windowBase ≤ p.1 := by omega
    have b : p.1 < Config.windowBase + Config.commonsBytes := by omega
    simp [a, b]
theorem writeSave_window (s : State) (k va : Nat) (c : Ctx) (h1 : Config.windowBase ≤ va)
    (h2 : va + 1572864 ≤ Config.windowBase + Config.commonsBytes) : (writeSave s k va c).isSome = true := by
  rw [writeSave, Option.isSome_map]
  exact writeBlock_window s k _ va c h1 h2
/-- The slot of a strand lies in the Commons window. -/
abbrev SlotInWindow (s : State) (t : Strand) : Prop :=
  Config.windowBase ≤ slotVa s s.pidx (t.slot.getD (freeSlot s s.pidx))
    ∧ slotVa s s.pidx (t.slot.getD (freeSlot s s.pidx)) + 1572864 ≤ Config.windowBase + Config.commonsBytes
theorem saveStrand_window (s : State) (st : StrandSt) (r : SRef) (l : Launch) (t : Strand) (h : coreStrand s = some (r, l, t))
    (hc : s.core.stop ≠ some .cancel) (hw : SlotInWindow s t) : ∃ u, saveStrand s st = .next u := by
  unfold saveStrand
  rw [h]
  simp only [hc, if_false]
  generalize e : writeSave s s.pidx _ _ = w
  have hs := writeSave_window s s.pidx _ { s.ctx.srqAll.forSave with pocketEcc := pocketConds s s.core.id } hw.1 hw.2
  rw [e] at hs
  cases w with
  | none => cases hs
  | some u => exact ⟨_, rfl⟩
/-- The context that `cutStrand` goes on with. -/
def cutBase (s : State) : State :=
  { s.narrow with draws := s.draws + 1 }.mapCtx fun c => { c.srqAll.cablePause (Config.pick s.draws) with dcache := [] }
theorem cutStrand_window (s : State) (r : SRef) (l : Launch) (t : Strand) (h : coreStrand s = some (r, l, t))
    (hu : uncut (s.part s.pidx) s.ctx = true) (hw : SlotInWindow (cutBase s) t) (hp : (cutBase s).pidx = s.pidx) :
    ∃ u, cutStrand s = .next u := by
  unfold cutStrand
  rw [h]
  simp only [hu, if_true]
  rw [SlotInWindow, hp] at hw
  split
  · rename_i hn
    exact absurd hn (Option.isSome_iff_ne_none.mp (writeSave_window (cutBase s) s.pidx _ _ hw.1 hw.2))
  · exact ⟨_, rfl⟩
/-- The strand of the launch on core 0, with its context area in the Commons and a stop waiting. -/
def sStop (st : StrandSt) (taking : Bool) : State :=
  let s := withLaunch (launch .admitted [strand st (some 0) none])
    { withPriv .user State.reset with core := { (withPriv .user State.reset).core with strand := some ⟨1, 0, 0⟩, stop := some .preempt } }
  (s.mapCtx fun c => { c with atPoint := true, snapGen := 1 }).mapPart 0 fun p => { p with
    ctxbase := 0x3F0000100000, taking := taking, gen := 2 }
/-- A handler in M-mode that came from M-mode. -/
def sHandler : State := { State.reset with core := { State.reset.core with csr := { State.reset.core.csr with mstatus := 0x1800 } } }
theorem test_hyp_strand : Ready .sexit (sStop .running false) ∧ (sStop .running false).core.priv = .user
    ∧ (coreStrand (sStop .running false)).isSome = true ∧ (sStop .running false).core.copyHolds = false := by decide +kernel
theorem test_hyp_strand_forms : Ready .sexit sHandler ∧ sHandler.core.priv ≠ .user ∧ servesStrand sHandler = false
    ∧ Ready .syield (sStop .running false) ∧ Ready (.evt 1) (sStop .running false) ∧ (sStop .running false).heldStores = [] := by
  decide +kernel
/-- The strand yields: a READY strand waits that no other core covers. -/
def sYield : State := ({ sStop .running false with core := { (sStop .running false).core with stop := none, assaycap := 0xFFFFFFFF } }).mapPart 0 fun p =>
  { p with launches := [{ launch .admitted [strand .running (some 0) none, { strand .ready none (some Ctx.reset) with idx := 1 }] with
    uuse := 0x80000000 }] }
theorem test_hyp_yield : yields sYield = true ∧ leaving sYield.core.stop = false ∧ sYield.core.priv = .user
    ∧ Ready .syield sYield ∧ leaving (sStop .running false).core.stop = true := by decide +kernel
theorem test_strand_forms : (nextOf (exec .sexit (sStop .running false))).core.strand = none
    ∧ (nextOf (exec .sexit sHandler)).core.csr.mcause = 2 ∧ (nextOf (exec .syield sYield)).core.stop = some .preempt
    ∧ ((findLaunch (nextOf (exec .sexit (sStop .running false))) 0 1).map fun l => l.strands.map fun t => t.st) = some [.exited] := by
  decide +kernel
theorem test_hyp_exit : (findLaunch sRun 0 1).isSome = true ∧ ((findLaunch sRun 0 1).bind fun l => findStrand l 0 0).isSome = true
    ∧ (findLaunch sRun 0 1).map (fun l => stageOut l 0) = some none := by decide +kernel
/-- ROLLBACK_ENTRY waits. -/
def sRoll : State := (sStop .running false).mapCtx fun c => { c with rbEntry := some 7 }
theorem test_hyp_rollback_entry : sRoll.ctx.rbEntry = some 7 ∧ sRoll.core.priv = .user ∧ sRoll.ctx.esc = none := by decide +kernel
theorem test_rollback_entry : (nextOf (exec .rollbackEntry sRoll)).core.csr.stval = 7
    ∧ (nextOf (exec .rollbackEntry sRoll)).ctx.u.snaprb = 0x80000007 := by decide +kernel
theorem test_preempt : (nextOf (exec (.preempt true) sYield)).core.stop = some .preempt ∧ (nextOf (exec (.preempt true) sRun)).core.stop = none
    ∧ (nextOf (exec (.preempt false) (sStop .running false))).core.stop = none := by decide +kernel
theorem test_hyp_preempt : mayPreempt sYield = true ∧ mayPreempt sRun = false
    ∧ (uncut (sYield.part sYield.pidx) sYield.ctx && sYield.core.strand.isSome) = false
    ∧ (uncut (sRun.part sRun.pidx) sRun.ctx && sRun.core.strand.isSome) = false
    ∧ (uncut ((sStop .running true).part (sStop .running true).pidx) (sStop .running true).ctx && (sStop .running true).core.strand.isSome) = true
    ∧ (sStop .running true).core.stop = some .preempt ∧ (nextOf (exec (.preempt false) (sStop .running true))).core.stop = some .cut := by
  decide +kernel
theorem test_hyp_preemption : (sStop .running false).core.stop = some .preempt ∧ stopLands (sStop .running false) .preempt = true
    ∧ saveReady (sStop .running false) = true ∧ (coreStrand (sStop .running false)).isSome = true ∧ (sStop .running false).ctx.cable = []
    ∧ headDone (sStop .running false).ctx = true ∧ ∃ u, saveStrand (sStop .running false) .ready = .next u := by
  refine ⟨by decide +kernel, by decide +kernel, by decide +kernel, by decide +kernel, by decide +kernel, by decide +kernel, ?_⟩
  exact saveStrand_window _ _ ⟨1, 0, 0⟩ (launch .admitted [strand .running (some 0) none]) (strand .running (some 0) none)
    (by decide +kernel) (by decide +kernel) (by decide +kernel)
/-- `sStop` with a primitive in its Cable queue. -/
def sForced (st : StrandSt) : State := (sStop st false).mapCtx fun c => { c with
  cable := [{ v := viqEntry (.dmac false false 2 1 2) [] sCab, srcs := [], slots := [], steps := 0 }] }
/-- The state that a forced pre-emption of it saves. -/
def sSuspended : State := { suspendCable (sForced .running) with
  core := { (suspendCable (sForced .running)).core with stop := some .forced } }
theorem test_hyp_forced : (sForced .running).core.stop = some .preempt ∧ stopLands (sForced .running) .forced = true
    ∧ saveReady (sForced .running) = true ∧ (sForced .running).ctx.cable ≠ []
    ∧ ∃ u, saveStrand sSuspended .ready = .next u := by
  refine ⟨by decide +kernel, by decide +kernel, by decide +kernel, by decide +kernel, ?_⟩
  exact saveStrand_window sSuspended _ ⟨1, 0, 0⟩ (launch .admitted [strand .running (some 0) none]) (strand .running (some 0) none)
    (by decide +kernel) (by decide +kernel) (by decide +kernel)
theorem test_hyp_park : isBlocked (sStop .blocked false) = true ∧ (sStop .blocked false).core.priv = .user
    ∧ escBoundary (sStop .blocked false).ctx = true ∧ (sStop .blocked false).ctx.cable = [] ∧ saveReady (sStop .blocked false) = true
    ∧ headDone (sStop .blocked false).ctx = true ∧ (strand .blocked (some 0) none).released = none
    ∧ ∃ u, saveStrand (sStop .blocked false) .parked = .next u := by
  refine ⟨by decide +kernel, by decide +kernel, by decide +kernel, by decide +kernel, by decide +kernel, by decide +kernel, rfl, ?_⟩
  exact saveStrand_window _ _ ⟨1, 0, 0⟩ (launch .admitted [strand .blocked (some 0) none]) (strand .blocked (some 0) none)
    (by decide +kernel) (by decide +kernel) (by decide +kernel)
/-- A BLOCKED strand with Cable work and no stop waiting. -/
def sForcedPark : State := { sForced .blocked with core := { (sForced .blocked).core with stop := none } }
theorem test_hyp_forced_park : isBlocked sForcedPark = true ∧ sForcedPark.core.priv = .user ∧ escBoundary sForcedPark.ctx = true
    ∧ saveReady sForcedPark = true ∧ sForcedPark.ctx.cable ≠ [] ∧ sForcedPark.core.stop ≠ some .preempt
    ∧ ∃ u, saveStrand (suspendCable sForcedPark) .parked = .next u := by
  refine ⟨by decide +kernel, by decide +kernel, by decide +kernel, by decide +kernel, by decide +kernel, by decide +kernel, ?_⟩
  exact saveStrand_window _ _ ⟨1, 0, 0⟩ (launch .admitted [strand .blocked (some 0) none]) (strand .blocked (some 0) none)
    (by decide +kernel) (by decide +kernel) (by decide +kernel)
theorem test_hyp_cut : uncut ((sStop .running true).part (sStop .running true).pidx) (sStop .running true).ctx = true
    ∧ stopLands (sStop .running true) .cut = true ∧ headDone (sStop .running true).ctx = true
    ∧ (sStop .running true).core.priv = .user ∧ saveReady (sStop .running true) = true
    ∧ ∃ u, cutStrand (sStop .running true) = .next u := by
  refine ⟨by decide +kernel, by decide +kernel, by decide +kernel, by decide +kernel, by decide +kernel, ?_⟩
  exact cutStrand_window _ ⟨1, 0, 0⟩ (launch .admitted [strand .running (some 0) none]) (strand .running (some 0) none)
    (by decide +kernel) (by decide +kernel) (by decide +kernel) (by decide +kernel)

/-- A `vld` of a line that the chip reads as new-colour waits at the head of the VIQ. -/
def sConsume : State := viqPush (.vldUnit false 1 0 3) [] (withX [(1, 0x3F0000003600)] ((sStop .running true).mapCtx fun c =>
  { (c.mapVr 3 fun v => { v with tag := 5 }) with u := { c.u with vl := 1 } }))
theorem test_hyp_consume : queueConsumes sConsume = true ∧ sConsume.core.priv = .user ∧ saveReady sConsume = true
    ∧ uncut (sConsume.part sConsume.pidx) sConsume.ctx = true ∧ ∃ u, cutStrand sConsume = .next u := by
  refine ⟨by decide +kernel, by decide +kernel, by decide +kernel, by decide +kernel, ?_⟩
  exact cutStrand_window _ ⟨1, 0, 0⟩ (launch .admitted [strand .running (some 0) none]) (strand .running (some 0) none)
    (by decide +kernel) (by decide +kernel) (by decide +kernel) (by decide +kernel)

/-! ### The Work Scheduler -/

theorem test_hyp_tail : 0 < (sWq 1 (2 ^ 63 + 1)).nparts ∧ 0 < queueCount (sWq 1 (2 ^ 63 + 1))
    ∧ sysAddr (sWq 1 (2 ^ 63 + 1)) 0 (wqBlock (sWq 1 (2 ^ 63 + 1)) 0 0) = some 0x5000 ∧ wqOwn (sWq 1 (2 ^ 63 + 1)) 0x5000 = false
    ∧ ((2 : BitVec 32).toNat + 2 ^ 32 - wqHead (sWq 1 (2 ^ 63 + 1)) 0x5000) % 2 ^ 32 ≤ 2 ^ wqLsz (sWq 1 (2 ^ 63 + 1)) 0x5000 := by decide +kernel
theorem test_hyp_take : ((sWq 1 (2 ^ 63 + 1)).part 0).vaulted = false ∧ heldLaunches (sWq 1 (2 ^ 63 + 1)) 0 < 4096 / (sWq 1 (2 ^ 63 + 1)).nparts
    ∧ wqEna (sWq 1 (2 ^ 63 + 1)) 0x5000 = true ∧ wqUsed (sWq 1 (2 ^ 63 + 1)) 0x5000 ≠ 0
    ∧ (sysLoc (sWq 1 (2 ^ 63 + 1)) 0 (wqRecord (sWq 1 (2 ^ 63 + 1)) 0x5000 0)).map Prod.fst = some 0x6000
    ∧ (scrubRead (sysPut (sysTouch (sWq 1 (2 ^ 63 + 1)) 0 (wqBlock (sWq 1 (2 ^ 63 + 1)) 0 0) 64) 0 0x5018 4 1) 0x6000 64).1 = false := by
  decide +kernel
theorem test_tail : getLe (nextOf (exec (.hostTailWrite 0 0 2) (sWq 1 (2 ^ 63 + 1)))).mem 0x5010 4 = 2
    ∧ getLe (nextOf (exec (.wsTakeRecord 0 0) (sWq 1 (2 ^ 63 + 1)))).mem 0x5018 4 = 1 := by decide +kernel
/-- A launch of the given state and strands, alone in partition 0. -/
def sLaunch (st : LaunchSt) (ts : List Strand) : State := withLaunch { launch st ts with dep0 := 0x3F0000003600, lrec := 0x3F0000003700 } State.reset
theorem test_hyp_release : (findLaunch (sLaunch .held []) 0 1).isSome = true ∧ (sLaunch .held []).pidx = 0
    ∧ (launchDeps (sLaunch .held []) 0 { launch .held [] with dep0 := 0x3F0000003600 }) = [Config.commonsBase + 0x3600]
    ∧ levelOut (sLaunch .held []) (Config.commonsBase + 0x3600) = 0 ∧ levelCancelled (sLaunch .held []) (Config.commonsBase + 0x3600) = false
    ∧ levelFailed (sLaunch .held []) (Config.commonsBase + 0x3600) = false := by decide +kernel
theorem test_hyp_admit : (findLaunch (sLaunch .released []) 0 1).isSome = true ∧ ((sLaunch .released []).part 0).vaulted = false
    ∧ admits (sLaunch .released []) 0 (launch .released []) = true
    ∧ ((sLaunch .released []).part 0).launches.all (fun x => decide (x.serial = 1)) = true := by decide +kernel
theorem test_launch : (findLaunch (nextOf (exec (.dependenceRelease 1) (sLaunch .held []))) 0 1).map (fun l => l.st) = some .released
    ∧ (findLaunch (nextOf (exec (.launchAdmit 1) (sLaunch .released []))) 0 1).map (fun l => (l.st, l.strands.length)) = some (.admitted, 1) := by
  decide +kernel
theorem test_hyp_complete : (findLaunch (sLaunch .admitted [strand .exited none none]) 0 1).map (fun l => l.strands.all fun x =>
      decide (x.st = .exited ∧ x.leaving = [])) = some true
    ∧ launchBusy (sLaunch .admitted [strand .exited none none]) 0 1 = false := by decide +kernel
/-- A marker, released. -/
def sMarker : State := withLaunch { launch .released [] with marker := true, stages := [] } State.reset
theorem test_hyp_marker : (findLaunch sMarker 0 1).map (fun l => (l.st, l.marker)) = some (.released, true)
    ∧ (sMarker.part 0).launches.all (fun x => decide (1 ≤ x.serial)) = true := by decide +kernel
theorem test_complete : (findLaunch (nextOf (exec (.launchComplete 1) (sLaunch .admitted [strand .exited none none]))) 0 1).map (fun l => l.st) = some .done
    ∧ (findLaunch (nextOf (exec (.markerComplete 1) sMarker)) 0 1).map (fun l => l.st) = some .done := by decide +kernel
theorem test_hyp_cancel : levelAddr (sWord 3 0) (sWord 3 0).pidx 0x3F0000003600 = some (Config.commonsBase + 0x3600)
    ∧ (0 : Word).getLsbD 62 = false ∧ levelCancelled (sWord 3 0) (Config.commonsBase + 0x3600) = false
    ∧ (0x4000000000000003 : Word).getLsbD 62 = true := by decide +kernel
theorem test_cancel : levelCancelled (nextOf (exec (.levelCancelStore 0x3F0000003600 0x4000000000000003) (sWord 3 0))) (Config.commonsBase + 0x3600) = true
    ∧ getLe (nextOf (exec (.levelCancelStore 0x3F0000003600 5) (sWord 3 0))).mem (Config.commonsBase + 0x3600) 8 = 5 := by decide +kernel
/-- An exited strand that has yet to leave a ring of one producer. -/
def sLeave : State := withLaunch (launch .admitted [{ strand .exited none none with leaving := [0x3F0000003200] }]) (sRing 2 0 0 false)
theorem test_hyp_leave : ((sLeave.part 0).launches.flatMap fun l => (l.strands.filter fun t => decide (t.st = .exited)
      && t.leaving.contains 0x3F0000003200).map fun t => (⟨l.serial, t.stage, t.idx⟩ : SRef)) = [⟨1, 0, 0⟩]
    ∧ commonsWord (sRing 2 0 0 false) 0 .machine 0x3F0000003200 32 32 = some (Config.commonsBase + 0x3200) ∧ (sRing 2 0 0 false).Calm
    ∧ (sRing 2 0 0 false).ctx.esc = none := by decide +kernel
theorem test_leave : (ringAt (nextOf (exec (.ringProducerLeave 0 0x3F0000003200) sLeave)) (Config.commonsBase + 0x3200)).closed = true
    ∧ (ringAt (nextOf (exec (.ringProducerLeave 0 0x3F0000003200) sLeave)) (Config.commonsBase + 0x3200)).prod = 0 := by decide +kernel
/-- A READY strand that core 0 alone covers. -/
def sPlace : State :=
  withLaunch { launch .admitted [strand .ready none (some Ctx.reset)] with uuse := 0x80000000 }
    { State.reset with core := { State.reset.core with assaycap := 0xFFFFFFFF } }
theorem test_hyp_place : ∃ l t c, ((readyStrands sPlace sPlace.pidx).find? fun p => decide (p.1.serial = 1 ∧ p.2.stage = 0 ∧ p.2.idx = 0)) = some (l, t)
    ∧ t.saved = some c ∧ t.slot = none ∧ (sPlace.part sPlace.pidx).vaulted = false
    ∧ (let cores := (coresOf sPlace sPlace.pidx).filter fun m => freeFor sPlace m l.uuse
        && leavesMins sPlace sPlace.pidx l t && takesCore sPlace sPlace.pidx m (l, t)
      cores[Config.pick sPlace.draws % max 1 cores.length]? = some 0) := by
  refine ⟨{ launch .admitted [strand .ready none (some Ctx.reset)] with uuse := 0x80000000 }, strand .ready none (some Ctx.reset), Ctx.reset,
    by decide +kernel, rfl, rfl, by decide +kernel, ?_⟩
  intro cores
  have e : cores = [0] := by decide +kernel
  rw [e]
  simp [Nat.mod_one]
theorem test_hyp_interval : 0 < State.reset.nparts ∧ State.reset.parts.length = 16 ∧ (State.reset.part 0).vaulted = false := by decide +kernel
theorem test_hyp_wait : waitOver (sStop .blocked false) 0 ⟨.user, 0, 0x3F0000003600, .level, none⟩ = true
    ∧ (strand .blocked (some 0) none).wait = some ⟨.user, 0, 0x3F0000003600, .level, none⟩
    ∧ (strand .parked none (some Ctx.reset)).wait = some ⟨.user, 0, 0x3F0000003600, .level, none⟩
    ∧ waitOver (sLaunch .admitted [strand .parked none (some Ctx.reset)]) 0 ⟨.user, 0, 0x3F0000003600, .level, none⟩ = true := by decide +kernel
theorem test_wait : (findLaunch (nextOf (exec (.waitSatisfied 1 0 0) (sStop .blocked false))) 0 1).map (fun l => l.strands.map fun t => t.st) = some [.running]
    ∧ (findLaunch (nextOf (exec (.waitSatisfied 1 0 0) (sLaunch .admitted [strand .parked none (some Ctx.reset)]))) 0 1).map
      (fun l => l.strands.map fun t => t.st) = some [.ready] := by decide +kernel
/-- A launch that no core covers. -/
def sUncovered : State := withLaunch { launch .released [] with uuse := 0x80000000 } State.reset
theorem test_hyp_placement_event : ((coresOf sUncovered 0).filter fun n => covers sUncovered n 0x80000000).length < minSum [stage1]
    ∧ (findLaunch sUncovered 0 1).map (fun l => l.st) = some .released := by decide +kernel
theorem test_hyp_stall : (findLaunch (sLaunch .admitted [strand .parked none none]) 0 1).map (fun l => (l.st, l.strands.map fun t => t.st))
    = some (.admitted, [.parked]) := by decide +kernel

/-! ### Assay, vault, translations -/

/-- x1 a request for an assay of core 2, of every class. -/
def sAssay (x : Word) (n : Nat) : State := { regs [(1, x)] with assayQ := List.replicate n (0, ⟨0x7FFFFFFF, 2, true⟩) }
theorem test_hyp_assay : Ready (.assayReq 1) (sAssay 0x20 0) ∧ ((sAssay 0x20 0).x 1).extractLsb' 8 24 = 0 ∧ ((sAssay 0x20 0).x 1).extractLsb' 0 4 = 0
    ∧ ribRequests (sAssay 0x20 0) 0 < 16 ∧ Ready (.assayReq 1) (sAssay 0x20 16) ∧ 16 ≤ ribRequests (sAssay 0x20 16) 0
    ∧ Ready (.assayReq 1) (sAssay 0x100 0) ∧ ((sAssay 0x100 0).x 1).extractLsb' 8 24 ≠ 0 := by decide +kernel
theorem test_hyp_assay_op : Ready (.assayReq 1) (sAssay 1 0) ∧ ((sAssay 1 0).x 1).extractLsb' 0 4 = 1
    ∧ (sAssay 1 0).core.csr.mstatus.getLsbD bitSPP = false ∧ (sAssay 0x20 1).assayQ.length = 1 ∧ ((sAssay 0x20 1).coreAt 2).strand = none := by
  decide +kernel
theorem test_assay : (nextOf (exec (.assayReq 1) (sAssay 0x20 0))).assayQ.length = 1 ∧ (nextOf (exec (.assayReq 1) (sAssay 0x20 16))).ctx.pc = 0
    ∧ (nextOf (exec (.assayReq 1) (sAssay 0x100 0))).core.csr.mcause = 2 ∧ ((nextOf (exec (.assayCoreClaim 0) (sAssay 0x20 1))).coreAt 2).assay = true := by
  decide +kernel
/-- The run of core 2 is under way. -/
def sRunning : State := (sAssay 0x20 1).mapCoreAt 2 fun c => { c with assay := true }
theorem test_hyp_assay_run : (sRunning.assayQ.find? fun q => decide (q.1 = ribOf 2)) = some (0, ⟨0x7FFFFFFF, 2, true⟩)
    ∧ (sRunning.coreAt 2).assay = true ∧ (0x7FFFFFFF : BitVec 32).getLsbD 16 = true := by decide +kernel
theorem test_assay_run : (assayRec (nextOf (exec (.assayComplete 2 16 false) sRunning)) 2 16).fail = 1
    ∧ ((nextOf (exec (.assayComplete 2 16 false) sRunning)).coreAt 2).assaycap.getLsbD 16 = false
    ∧ (assayRec (nextOf (exec (.assayComplete 2 0 true) sRunning)) 2 0).pass = 1 := by decide +kernel
theorem test_hyp_cap : (State.reset.coreAt 1).assaycap.getLsbD 3 = true ∧ (0x7FFFFFF7 : BitVec 32).getLsbD 3 = false := by decide +kernel
theorem test_cap : ((nextOf (exec (.capWrite 1 0xFFFFFFF7) State.reset)).coreAt 1).assaycap = 0x7FFFFFF7 := by decide +kernel
theorem test_hyp_vault : Ready (.vaultSwap 1) (regs [(1, 0x10)]) ∧ swapRefused (regs [(1, 0x10)]) 0x10 = true ∧ Ready (.vaultSwap 1) (regs [(1, 0)])
    ∧ swapRefused (regs [(1, 0)]) 0 = false ∧ (0 : Word).getLsbD 4 = false := by decide +kernel
/-- A partition in the vault, and a swap under way. -/
def sVaulted : State := (regs [(1, 0x10)]).mapPart 0 fun p => { p with vaulted := true }
def sSwap (dir : Bool) : State := { regs [] with vault := ⟨false, dir, true, 0, true, false, none⟩ }
theorem test_hyp_vault_in : Ready (.vaultSwap 1) sVaulted ∧ swapRefused sVaulted 0x10 = false ∧ (0x10 : Word).getLsbD 4 = true
    ∧ (sSwap false).vault.busy = true ∧ (sSwap false).vault.dl = true ∧ (sSwap true).vault.dir = true ∧ strandCores (sSwap false) 0 = [] ∧ engineOut (sSwap false) 0 = false
    ∧ imageBytes (exitCancelled (sSwap false) 0) 0 ≤ vaultShare (exitCancelled (sSwap false) 0) := by decide +kernel
/-- More saved contexts than a partition's share of the vault holds, of 16 partitions. -/
def sTooBig : State := { withLaunch (launch .admitted (List.replicate 150 (strand .ready none (some Ctx.reset)))) (sSwap false) with pcnt := 4 }
theorem test_hyp_vault_full : strandCores sTooBig 0 = [] ∧ engineOut sTooBig 0 = false
    ∧ vaultShare (exitCancelled sTooBig 0) < imageBytes (exitCancelled sTooBig 0) 0 := by decide +kernel
theorem test_vault : (nextOf (exec (.vaultSwap 1) (regs [(1, 0x10)]))).vault.err = true ∧ (nextOf (exec (.vaultSwap 1) (regs [(1, 0)]))).vault.busy = true
    ∧ (nextOf (exec .vaultSwapDeadline (sSwap false))).vault.due = true ∧ (nextOf (exec .vaultSwapDone (sSwap false))).vault.busy = false
    ∧ ((nextOf (exec .vaultSwapDone (sSwap false))).part 0).vaulted = true ∧ (nextOf (exec .vaultSwapDone sTooBig)).vault.err = true := by decide +kernel
/-- A cached translation of page 0x10000. -/
def sTlb : State := (regs [(2, 0), (1, 0x10000)]).mapPart 0 fun p => { p with tlb := [⟨0x10000, 0x10000, 0xDF⟩] }
theorem test_hyp_tlbinv : Ready (.tlbinv 2 1) sTlb ∧ sTlb.heldStores = [] ∧ invBad (sTlb.x 2) = false
    ∧ (invalidateAll sTlb (sTlb.x 1) (sTlb.x 2)).isSome = true ∧ Ready (.tlbinv 2 1) (withX [(2, 3)] sTlb) ∧ invBad 3 = true
    ∧ Ready (.tlbinv 2 1) (withX [(2, 16)] sTlb) ∧ invBad 16 = false ∧ (invalidateAll (withX [(2, 16)] sTlb) 0x10000 16).isNone = true
    ∧ sTlb.ctx.esc = none ∧ sTlb.cores.all (fun c => c.2.ctx.esc.isNone) = true ∧ sTlb.parts.all Partition.still = true
    ∧ (∀ n ∈ sTlb.liveCores, (sTlb.coreAt n).copies = []) ∧ (0 : Word).getLsbD 3 = false ∧ (invalidate sTlb 0 0x10000 0).isSome = true := by
  decide +kernel
theorem test_tlbinv : ((nextOf (exec (.tlbinv 2 1) sTlb)).part 0).tlb = [] ∧ ((nextOf (exec (.invalidationPort 0x10000 0) sTlb)).part 0).tlb = []
    ∧ (nextOf (exec (.tlbinv 2 1) (withX [(2, 16)] sTlb))).core.csr.mcause = 7 := by decide +kernel

/-! ### Snapshots -/

/-- A manifest. -/
def manifest1 (gen : BitVec 32) (sealed_ : Bool) : Manifest := ⟨gen, sealed_, 0x3F0000200000, 0x1000, [], [], 0, [], []⟩
/-- Partition 0 with a job whose snapshots are on, its block and manifest area in the Commons, generation 2. -/
def sSnap (taking : Bool) : State := (withLe (Config.commonsBase + 0x100000) 8 0x8000000000000001
  (withLe (Config.commonsBase + 0x100008) 8 0x100000 (withLe (Config.commonsBase + 0x100010) 8 0x1000000
    (withLe (Config.commonsBase + 0x100018) 8 0x3F0000200000 (withLe (Config.commonsBase + 0x100020) 8 0x100000 (regs [(1, 2)])))))).mapPart 0 fun p =>
    { p with ctxbase := 0x3F0000100000, gen := 2, taking := taking, manifests := [manifest1 2 (!taking)] }
theorem test_hyp_snap : Ready (.snapBegin 7) State.reset ∧ snapEnabled State.reset State.reset.pidx = false ∧ Ready (.snapBegin 7) (sSnap true)
    ∧ snapEnabled (sSnap true) (sSnap true).pidx = true ∧ ((sSnap true).part (sSnap true).pidx).taking = true ∧ Ready (.snapBegin 7) (sSnap false)
    ∧ snapEnabled (sSnap false) 0 = true ∧ ((sSnap false).part 0).taking = false := by decide +kernel
theorem test_hyp_snap_forms : Ready (.snapStat 1 7) (sSnap false) ∧ Ready (.snapRollback 1) (sSnap false)
    ∧ rollbackTo (sSnap false) 0 2 = some (manifest1 2 true) ∧ Ready (.snapRollback 1) (sSnap true) ∧ rollbackTo (sSnap true) 0 2 = none := by
  decide +kernel
theorem test_snap : (nextOf (exec (.snapBegin 7) (sSnap true))).x 7 = 0x8000000000000002 ∧ (nextOf (exec (.snapBegin 7) (sSnap false))).x 7 = 3
    ∧ ((nextOf (exec (.snapBegin 7) (sSnap false))).part 0).gen = 3 ∧ (nextOf (exec (.snapStat 1 7) (sSnap false))).x 7 = 0x200000002
    ∧ (nextOf (exec (.snapRollback 1) (sSnap true))).core.csr.mcause = 2 := by decide +kernel
/-- A strand in U-mode whose partition takes snapshots, its slots in the Commons. -/
def sSnapU : State :=
  let s := withLaunch (launch .admitted [strand .running (some 0) none]) (withPriv .user (sSnap false))
  { s with core := { s.core with strand := some ⟨1, 0, 0⟩ } }
/-- What `snap.begin` cuts. -/
def sAdopted : State := adopt (retire (sSnapU.setX 7 3)) sSnapU.pidx 3
theorem test_hyp_snap_user : Ready (.snapBegin 7) sSnapU ∧ snapEnabled sSnapU sSnapU.pidx = true ∧ (sSnapU.part sSnapU.pidx).taking = false
    ∧ (sSnapU.part sSnapU.pidx).gen = 2 ∧ sSnapU.core.priv = .user ∧ saveReady sSnapU = true
    ∧ saveReady (withCopies [{ copyOf .plain (.mem (.pocket 0)) with usesStrand := true, owner := some ⟨1, 0, 0⟩ }] sSnapU) = false
    ∧ ∃ u, cutStrand sAdopted = .next u := by
  refine ⟨by decide +kernel, by decide +kernel, by decide +kernel, by decide +kernel, by decide +kernel, by decide +kernel,
    by decide +kernel, ?_⟩
  exact cutStrand_window _ ⟨1, 0, 0⟩ (launch .admitted [strand .running (some 0) none]) (strand .running (some 0) none)
    (by decide +kernel) (by decide +kernel) (by decide +kernel) (by decide +kernel)
theorem test_hyp_marker_message : ((sSnap false).part 0).gen < 3 ∧ 0 < (sSnap false).nparts ∧ ((sSnap true).part 0).gen = 2
    ∧ 0 < (sSnap false).parts.length ∧ snapEnabled (sSnap false) 0 = true ∧ snapEnabled (sSnap true) 0 = true := by decide +kernel
/-- The job of `sSnap` with chip 5 at the other end of link 1. -/
def sJob : State := { (sSnap false).mapPart 0 fun p => { p with jmap := [(1, 4)] } with links := [(1, 5)] }
theorem test_adopt : jobVcs sJob 0 = [(1, 0), (1, 1), (1, 2), (1, 3), (1, 4)] ∧ ((adopt sJob 0 3).part 0).taking = true
    ∧ ((adopt (sSnap true) 0 3).part 0).gen = 3 := by decide +kernel
theorem test_hyp_done : allCut (sSnap true) 0 = true ∧ ocoOf (sSnap true) = 0 ∧ jobVcs (sSnap true) 0 = []
    ∧ (2, (sSnap true).chip) ∉ ((sSnap true).part 0).doneMsgs ∧ ((sSnap true).part 0).manifests ≠ [] := by decide +kernel
/-- Generation 2 sealed, its rollback's message come on link 1. -/
def sRolled : State := (sSnap false).mapPart 0 fun p => { p with rolled := some (2, [1]) }
theorem test_hyp_rollback_message : rollbackTo sRolled 0 2 = some (manifest1 2 true) ∧ (sRolled.part 0).rolled = some (2, [1])
    ∧ (1 : Nat) ∈ [1] ∧ (3 : Nat) ∉ [1] ∧ (nextOf (exec (.rollbackMessage 0 ⟨3, 2⟩) sRolled)).outMsgs = [] := by decide +kernel
theorem test_hyp_abandon_message : ((sSnap false).part 0).manifests.filter (fun m => m.sealed || decide (m.gen = 2)) ≠ []
    ∧ ((sSnap false).part 0).gen = 2 ∧ ((sSnap false).part 0).gen ≠ 1
    ∧ ((sSnap true).part 0).manifests.filter (fun m => m.sealed || decide (m.gen = 9)) = [] := by decide +kernel
theorem test_messages : (nextOf (exec (.stitchMarker 0 3 ⟨1, 0⟩) sJob)).outMsgs = ((upFrom 0 5).map fun v => Msg.marker 0 3 1 v)
    ∧ ((nextOf (exec (.stitchMarker 0 2 ⟨1, 0⟩) (sSnap true))).part 0).markers = [(1, 0)]
    ∧ ((nextOf (exec (.doneMessage 0 2 5) (sSnap true))).part 0).doneMsgs = [(2, 5)]
    ∧ ((nextOf (exec (.abandonMessage 0 2) (sSnap true))).part 0).taking = false := by decide +kernel
theorem test_done : Msg.done 0 2 (sSnap true).chip ∈ (nextOf (exec (.chipDone 0) (sSnap true))).outMsgs
    ∧ (nextOf (exec (.rollbackMessage 0 ⟨1, 2⟩) (sSnap false))).outMsgs = [Msg.rollback 0 2] := by decide +kernel

/-! ### Minting, other chips, collectives -/

/-- x1 a request at 0x1000 with the given third and fourth words. -/
def sMint (w2 rhnd : Nat) : State := withLe 0x1010 8 w2 (withLe 0x1018 8 rhnd (regs [(1, 0x1000)]))
theorem test_hyp_mint : Ready (.mint 1 7) (sMint 0 5) ∧ (sMint 0 5).ecc = [] ∧ (sMint 0 5).heldStores = [] ∧ PlainAccess (sMint 0 5) ((sMint 0 5).x 1) 8
    ∧ physOk ((sMint 0 5).x 1).toNat 32 = true ∧ mintJob (sMint 0 5) ((sMint 0 5).x 1) = none := by decide +kernel
theorem test_hyp_mint_words : (match (loadWords ((sMint 0 5).x 1) 4).run (sMint 0 5) with
    | (.ok ws, t) => decide (ws = [0, 0, 0, 5] ∧ t.lag = false ∧ mintJob t ((sMint 0 5).x 1) = none ∧ (mintReqOf ws).rem = false)
    | _ => false) = true := by decide +kernel
/-- A removal asked for from U-mode, its request in the Commons. -/
def sMintU : State := withX [(1, 0x3F0000003600)] (withPriv .user (withLe (Config.commonsBase + 0x3610) 8 0x8000000000000000
  (withLe (Config.commonsBase + 0x3618) 8 5 State.reset)))
theorem test_hyp_mint_user : Ready (.mint 1 7) sMintU ∧ (match (loadWords (sMintU.x 1) 4).run sMintU with
    | (.ok ws, t) => decide ((mintReqOf ws).rem = true ∧ t.core.priv = .user)
    | _ => false) = true ∧ (nextOf (exec (.mint 1 7) sMintU)).core.csr.mcause = 2 := by decide +kernel
/-- A mint of the core that has its result. -/
def sMinted : State := (sMint 0 5).mapPart 0 fun p => { p with mints := [⟨0, none, 0x1000, [0, 0, 0, 5], none, some 0x123⟩] }
theorem test_hyp_mint_answer : Ready (.mint 1 7) sMinted ∧ (match (loadWords (sMinted.x 1) 4).run sMinted with
    | (.ok ws, t) => decide (ws = [0, 0, 0, 5] ∧ mintJob t (sMinted.x 1) = some ⟨0, none, 0x1000, [0, 0, 0, 5], none, some 0x123⟩)
    | _ => false) = true ∧ (nextOf (exec (.mint 1 7) sMinted)).x 7 = 0x123 := by decide +kernel
theorem test_hyp_mint_cases : (mintReqOf [0, 0, 0x8000000000000000, 5]).rem = true ∧ (mintReqOf [0, 0, 0x8000000000000000, 5]).resv = false
    ∧ objEntry State.reset 0 (mintReqOf [0, 0, 0x8000000000000000, 5]).rhnd = none ∧ (mintReqOf [0, 0, 0, 5]).rem = false
    ∧ (mintReqOf [0, 0, 0, 5]).rhnd ≠ 0 := by decide +kernel
/-- A request handed to the clerk core of the rib. -/
def sMintJob : State := State.reset.mapPart 0 fun p => { p with mints := [⟨0, none, 0x1000, [0, 0, 0, 5], none, none⟩] }
theorem test_hyp_mint_result : ((sMintJob.part sMintJob.pidx).mints.find? fun j => decide (ribOf j.core = ribOf sMintJob.core.id) && j.result.isNone)
    = some ⟨0, none, 0x1000, [0, 0, 0, 5], none, none⟩ := by decide +kernel
/-- A request whose frame 2 is under check, with a store to it still held or not. -/
def sChecking (held : List Held) : State := { State.reset.mapPart 0 fun p => { p with
  mints := [⟨0, none, 0x1000, [0, 0, 0, 5], some [2], none⟩] } with heldStores := held }
theorem test_hyp_mint_frames : framesBusy (sChecking [{ held1 with loc := .phys 0x20000 0 none }]) [2] = true
    ∧ framesBusy (sChecking []) [2] = false
    ∧ ((sChecking []).part 0).mints.map (fun j => (j.frames, j.result)) = [(some [2], none)] := by decide +kernel
theorem test_mint : (nextOf (exec (.mint 1 7) (sMint 0 5))).x 7 = 0x8000000000000001
    ∧ (nextOf (exec (.mint 1 7) (sMint 0x8000000000000000 5))).x 7 = 0x8000000000000009
    ∧ ((nextOf (exec .mintResult sMintJob)).part 0).mints.map (fun j => j.result) = [some 0x8000000000000001] := by decide +kernel
/-- A job of JOBID 1 whose lowest pages are mapped. -/
def sPeer : State := withMem 0x10000 [0xAB] (withMap (sSnap false))
theorem test_hyp_peer : jobPart sPeer 1 = some 0 ∧ jobPart sPeer 9 = none ∧ (match peerXlate sPeer 0 .load 0x10000 with
      | (some (.phys a _ _), t) => decide (a = 0x10000 ∧ t.ecc = [])
      | (some (.pocket _), _) | (some (.peer _ _), _) | (none, _) => false) = true ∧ physOk 0x10000 2 = true ∧ (match peerXlate sPeer 0 .store 0x10000 with
      | (some (.phys a kind page), t) => decide (a = 0x10000) && !frameProtected t a && !transitHit t 0 (.phys a kind page)
      | (some (.pocket _), _) | (some (.peer _ _), _) | (none, _) => false) = true ∧ outOfOrder sPeer 0 0 1 false = false := by decide +kernel
theorem test_peer : (nextOf (exec (.peerRequest ⟨0, .load 1 0x10000 2⟩) sPeer)).outMsgs = [Msg.peerReply [0xAB, 0]]
    ∧ (nextOf (exec (.peerRequest ⟨0, .load 9 0x10000 2⟩) sPeer)).outMsgs = [Msg.peerRefuse]
    ∧ getByte (nextOf (exec (.peerRequest ⟨0, .store 1 0x10001 [0xCD] false⟩) sPeer)).mem 0x10001 = 0xCD := by decide +kernel
theorem test_chunk : (chunkBytes true (List.replicate 1024 0)).length = 144 ∧ (List.replicate 1024 0).length = 1024
    ∧ ∀ w ∈ List.replicate 1024 0, w < 2 ^ 32 := by decide +kernel
/-- A broadcast of two INT32 elements from chip 0 to chips 0 and 5: descriptor at 0x1000, group record at 0x1100, buffers
at 0x2000 and 0x3000; the job's collective area may hold anything. -/
def sCho : State := withX [(1, 0x1000), (2, 0)] (withMem 0x1000 [4, 0, 5, 0, 0, 0, 0, 0, 2, 0, 0, 0, 0, 0, 0, 0, 0, 0x20, 0, 0, 0, 0, 0, 0, 0, 0x30]
  (withLe 0x1020 8 0x1100 (withLe 0x1030 8 77 (withMem 0x1100 [2, 0, 0, 0, 0, 0, 0, 0, 0, 0, 5, 0] (withMem 0x2000 [9, 0, 0, 0, 8]
    (withLe (Config.commonsBase + 0x100028) 8 0x3F0000300000 (withLe (Config.commonsBase + 0x100030) 8 (2 ^ 64 - 1)
      (sCopy.mapPart 0 fun p => { p with ctxbase := 0x3F0000100000 }))))))))
/-- Its words, its shape. -/
def choWords : List Word := (upFrom 0 8).map fun k => leWord (getBytes sCho.mem (0x1000 + 8 * k) 8)
def choShape : CollShape := shapeOf choWords [0, 5]
theorem test_hyp_cho : Ready (.cho 2 1 7) sCho ∧ sCho.ecc = [] ∧ sCho.heldStores = [] ∧ PlainAccess sCho (sCho.x 1) 64
    ∧ PlainAccess sCho (choWords.getD 4 0) 8 ∧ choWords.getD 4 0 = 0x1100 ∧ physOk 0x1100 12 = true := by decide +kernel
theorem test_hyp_cho_words : descGood choWords = true ∧ groupGood (leWord (getBytes sCho.mem 0x1100 8)) = true
    ∧ (upFrom 0 2).map (fun k => getLe sCho.mem (0x1100 + 8 + 2 * k) 2) = [0, 5] ∧ sCho.chip.toNat = 0 ∧ choShape.op = 4 ∧ choShape.root < 2
    ∧ jobWord sCho sCho.pidx 40 ≠ 0 ∧ collW choShape = 4 ∧ collRecvs choShape = 2 := by decide +kernel
theorem test_hyp_cho_purse : purseAt sCho (dataPriv sCho) sCho.ctx.u.pbase ((choWords.getD 0 0).extractLsb' 32 5).toNat
      = some (Config.commonsBase + 0x3100) ∧ sCho.colls = []
    ∧ ((copyPlaces (dataPriv sCho) (instrWord (.cho 2 1 7)) 4 0 0 true true (strideAddrs 0x2000 4 2) (strideAddrs 0x3000 4 2)).run sCho)
      = (.ok ([.phys 0x2000 0 none, .phys 0x2004 0 none], [.phys 0x3000 0 none, .phys 0x3004 0 none]), sCho) := by
  refine ⟨by decide +kernel, by decide +kernel, ?_⟩
  rfl
theorem test_hyp_cho_room : collRoom sCho sCho.pidx 8 = true := by
  have h : jobWord sCho sCho.pidx 48 = BitVec.allOnes 64 := by decide +kernel
  unfold collRoom
  rw [h]
  have e : sCho.colls = [] := by decide +kernel
  rw [e]
  have := (Config.collNeed 8).isLt
  simp
  omega
/-- An instance of that broadcast that waits for its elements. -/
def coll1 (got : List (Nat × Nat)) : Coll := ⟨0, none, false, .machine, 77, choShape, true, false, 0, 1, 0, [], [], [], [], [.phys 0x3000 0 none, .phys 0x3004 0 none],
  [], Config.commonsBase + 0x3100, 8, 0x1000, false, false, false, [⟨0, false, 0, [], [], false⟩], [], got, []⟩
def sColl (got : List (Nat × Nat)) : State := { sCho with colls := [coll1 got] }
/-- A raw chunk of zeros of it, its words cut short. -/
def chunk1 (h : CollShape) : ChunkMsg := ⟨77, h, 0, false, 0, List.replicate 16 0, .none, [], false, false⟩
theorem crc64_zero (bs : List Byte) (h : ∀ b ∈ bs, b = 0) : crc64 bs = 0 := by
  unfold crc64
  induction bs with
  | nil => rfl
  | cons b t ih =>
    rw [List.foldl_cons, h b (by simp)]
    exact ih fun x hx => h x (by simp [hx])
theorem test_hyp_chunk_crc : (chunkWords (chunk1 choShape).bytes).2 = true := by
  have e : bytesWords 1024 ((chunk1 choShape).bytes.drop 16) = [] := rfl
  have n : ((chunk1 choShape).bytes.getD 0 0 = 1) = False := by decide
  have c : leNat (((chunk1 choShape).bytes.drop 8).take 8) = 0 := by decide
  unfold chunkWords
  simp only [n, e, c, if_false, List.nil_append, List.length_nil, Nat.sub_zero]
  rw [crc64_zero]
  · rfl
  · intro b hb
    obtain ⟨w, hw, hb⟩ := List.mem_flatMap.mp hb
    rw [(List.mem_replicate.mp hw).2] at hb
    simpa [natBytes] using hb
theorem test_hyp_chunk : chunkColl (sColl []).colls (chunk1 choShape) = some 0 ∧ (chunk1 choShape).seg < collN choShape
    ∧ (coll1 []).issued = true
    ∧ chunkColl (sColl []).colls (chunk1 { choShape with count := 3 }) = some 0 ∧ { choShape with count := 3 } ≠ choShape := by decide +kernel
theorem test_hyp_chunk_ends : (coll1 []).unread = [] ∧ (chunk1 choShape).ends = false ∧ (chunk1 choShape).err = .none
    ∧ outOfOrder (sColl []) 0 0 3 (chunk1 choShape).colour = false ∧ { chunk1 choShape with err := .head }.err ≠ .none
    ∧ ((nextOf (exec (.chunkReceive ⟨0, { chunk1 choShape with ends := true }⟩) (sColl []))).colls.map fun c => c.mismatch) = [true] := by decide +kernel
theorem test_hyp_coll : (coll1 [(0, 9), (1, 8)]).full = true ∧ (coll1 [(0, 9), (1, 8)]).mismatch = false ∧ (coll1 []).full = false
    ∧ (∀ l ∈ (coll1 []).recv, transitHit (sColl [(0, 9), (1, 8)]) 0 l = false)
    ∧ (coll1 []).timed = false ∧ (coll1 []).outbox[0]?.isSome = true := by decide +kernel
theorem test_coll : (nextOf (exec (.collectiveComplete 0) (sColl [(0, 9), (1, 8)]))).colls = []
    ∧ getLe (nextOf (exec (.collectiveComplete 0) (sColl [(0, 9), (1, 8)]))).mem 0x3000 8 = 0x800000009
    ∧ ((nextOf (exec (.collectiveTimeout 0) (sColl []))).colls.map fun c => c.timed) = [true]
    ∧ ((nextOf (exec (.chunkLandingAck 0 0) (sColl []))).colls.map fun c => c.outbox.map fun r => r.sent) = [[true]] := by decide +kernel
theorem test_chunk_receive : ((nextOf (exec (.chunkReceive ⟨0, chunk1 { choShape with count := 3 }⟩) (sColl []))).colls.map fun c => c.mismatch) = [true] := by
  decide +kernel

/-! ### The platform -/

theorem test_hyp_platform : physOk 0x1000 1 = true ∧ eccAt State.reset (granuleOf 0x1000) = none ∧ physOk 0x1000 64 = true ∧ State.reset.ecc = []
    ∧ physOk (0x1000 / 128 * 128) 128 = true ∧ Memory.wf State.reset.mem = true ∧ 0 < State.reset.nparts ∧ isPort 0x1000 = false
    ∧ isCommons 0x1000 = false ∧ State.reset.Calm := by decide +kernel
theorem test_hyp_job_write : jobBlock (sSnap false) 0 = some (Config.commonsBase + 0x100000) ∧ 16 + 8 ≤ 256 := by decide +kernel
theorem test_scrub : eccAt (nextOf (exec (.scrubGranule 0x1000 .uncorrectable) State.reset)) (granuleOf 0x1000) = some .poisoned := by decide +kernel
/-- The module at a power in mW and a temperature in m°C. -/
def sSample (pwr temp : Nat) : State := withLe (Config.commonsBase + counterBlock State.reset 0 + 0x058) 8 pwr
  (withLe (Config.commonsBase + counterBlock State.reset 0 + 0x060) 8 temp { State.reset with clock := 2 })
theorem test_clock : (nextOf (exec .clockStepDown (sSample 0 106000))).clock = 3 ∧ (nextOf (exec .clockStepDown (sSample 0 90000))).clock = 2
    ∧ (nextOf (exec .clockStepUp (sSample 0 90000))).clock = 1 ∧ (nextOf (exec .clockStepUp (sSample 0 100000))).clock = 2
    ∧ (nextOf (exec .clockStepDown (sSample 2200001 0))).clock = 3 ∧ (nextOf (exec .thermalShutdown (sSample 0 115000))).halted = true
    ∧ (nextOf (exec .thermalShutdown (sSample 0 114999))).halted = false := by decide +kernel
/-- A mailbox request of a code with an operand. -/
def sMail (code v : Nat) : State := withLe (mailboxAt State.reset 0) 2 code (withLe (mailboxAt State.reset 0 + 8) 2 v
  (withLe (mailboxAt State.reset 0 + 0x40) 8 1 State.reset))
theorem test_hyp_mail : mailRequest (sMail 1 1450) 0 = some 1 ∧ getLe (sMail 1 1450).mem (mailboxAt (sMail 1 1450) 0 + 8) 2 = 1450
    ∧ mailRequest (sMail 1 1460) 0 = some 1 ∧ getLe (sMail 1 1460).mem (mailboxAt (sMail 1 1460) 0 + 8) 2 = 1460
    ∧ mailRequest (sMail 2 0) 0 = some 2 ∧ mailRequest (sMail 3 0) 0 = some 3 := by decide +kernel
/-- A request of the mailbox is not finished. -/
def sMailWait : State := { State.reset with mboxWait := [0] }
theorem test_dbell : dbellSet (nextOf (exec (.dbell 0) State.reset)) 0 = true ∧ dbellSet (nextOf (exec (.dbell 0) sMailWait)) 0 = false
    ∧ 0 ∉ State.reset.mboxWait ∧ 0 ∈ sMailWait.mboxWait := by decide +kernel
theorem test_mail : (nextOf (exec (.mailboxSetTdp 0) (sMail 1 1450))).tdp = 1450 ∧ (nextOf (exec (.mailboxSetTdp 0) (sMail 1 1460))).tdp = 2200
    ∧ getLe (nextOf (exec (.mailboxSetTdp 0) (sMail 1 1460))).mem (mailboxAt State.reset 0 + 0x80) 8 = 2
    ∧ getLe (nextOf (exec (.mailboxReadMeasurements 0) (sMail 3 0))).mem (mailboxAt State.reset 0 + 0x40) 8 = 0 := by decide +kernel
/-- A boot whose stages are given, on chip 5. -/
def boot (stages : List BootStage) (taken : Bool) : BootReport := ⟨stages, 5, taken, [(0, 6)]⟩
theorem test_hyp_boot : (boot [] false).stages = [] ∧ (boot [⟨[], [], []⟩] true).taken = true ∧ (boot [⟨[], [], []⟩, ⟨[], [], []⟩, ⟨[], [], []⟩] false).taken = false := by decide
theorem test_boot : (nextOf (exec (.powerOnBoot (boot [] false)) State.reset)).inReset = true
    ∧ (nextOf (exec (.powerOnBoot (boot [] false)) State.reset)).outMsgs = [Msg.bootFailure] := by decide +kernel

end Sys2Proof.Tests
end

section
/-! SUPPORT. The base's arithmetic (R4, R96): an instruction that is ready runs its own effect, each operation of the base as
a number, and each BASE_ALU form through its operation. -/

namespace Sys2Proof.Machine

/-! ## An instruction that is ready (R99) -/

theorem Ctx.isGuess_of_no_escrow {c : Ctx} (h : c.esc = none) : c.isGuess = false := by
  simp [Ctx.isGuess, Ctx.escActive, h]

theorem Ctx.isSpec_of_no_escrow {c : Ctx} (h : c.esc = none) : c.isSpec = false := by
  simp [Ctx.isSpec, Ctx.escActive, h]

theorem expectsLoop_of_no_escrow {s : State} (h : s.ctx.esc = none) : expectsLoop s = false := by
  simp [expectsLoop, h]

theorem srqHazard_of_empty {c : Ctx} (h : c.srq = []) (i : Instr) : srqHazard c i = false := by
  simp [srqHazard, h]

/-- Table 4.7: nothing stands before a ready instruction's own checks. -/
theorem gate_of_ready {i : Instr} {s : State} (h : Ready i s) : gate i s = .pass := by
  obtain ⟨⟨-, hviq, -, hsrq, hesc, -, -⟩, hpriv, hprof, hclass, -⟩ := h
  simp [gate, Ctx.isGuess_of_no_escrow hesc, Ctx.isSpec_of_no_escrow hesc, expectsLoop_of_no_escrow hesc,
    srqHazard_of_empty hsrq, hviq, hpriv, hprof, hclass]

theorem guarded_of_ready {i : Instr} {s : State} (h : Ready i s) (b : State → Host.Outcome State Fault Refusal) :
    guarded i s b = b s := by
  rw [guarded_pass (gate_of_ready h)]
  obtain ⟨⟨-, -, -, -, hesc, -, -⟩, -⟩ := h
  rw [countGuess_of_not_guess (Ctx.isGuess_of_no_escrow hesc)]

theorem exec_baseAlu_of_ready {f : AluForm} {s : State} (h : Ready (.baseAlu f) s) :
    exec (.baseAlu f) s = .next (retire (s.setX (aluResult f s.ctx).1 (aluResult f s.ctx).2)) := by
  show execBaseAlu f s = _
  rw [execBaseAlu, guarded_of_ready h]

/-! ## Low words, extensions and shift amounts -/

@[simp] theorem sext32_toInt (w : BitVec 32) : (sext32 w).toInt = w.toInt :=
  BitVec.toInt_signExtend_of_le (by decide)

theorem lo32_eq_setWidth (a : Word) : lo32 a = a.setWidth 32 := (BitVec.setWidth_eq_extractLsb' (by decide)).symm

@[simp] theorem lo32_toNat (a : Word) : (lo32 a).toNat = a.toNat % 2 ^ 32 := by
  rw [lo32_eq_setWidth, BitVec.toNat_setWidth]

/-- The low word of a sum is the sum of the low words. -/
theorem lo32_add (a b : Word) : lo32 (a + b) = lo32 a + lo32 b := by
  simp only [lo32_eq_setWidth, BitVec.setWidth_add a b (by decide : 32 ≤ 64)]

/-- The low k bits of a word are the word modulo 2^k. -/
theorem lowBits_toNat (b : Word) (k : Nat) : (b.extractLsb' 0 k).toNat = b.toNat % 2 ^ k := by
  rw [BitVec.extractLsb'_toNat, Nat.shiftRight_zero]

/-- R4: a 64-bit shift takes its amount modulo 64. -/
theorem shiftAmount_toNat (b : Word) : (b.extractLsb' 0 6).toNat = b.toNat % 64 := lowBits_toNat b 6

/-- R4: a 32-bit shift takes its amount modulo 32. -/
theorem shiftAmountW_toNat (b : Word) : (b.extractLsb' 0 5).toNat = b.toNat % 32 := lowBits_toNat b 5

/-- A shift amount that fits its field is read back from the word that holds it. -/
theorem lowBits_setWidth {k : Nat} (h : k ≤ 64) (sh : BitVec k) : (sh.setWidth 64).extractLsb' 0 k = sh := by
  rw [BitVec.extractLsb'_setWidth_of_le (by omega), BitVec.extractLsb'_eq_self]

/-- A right shift of a signed number divides by a power of two, rounding down. -/
theorem toInt_sshiftRight_eq_div {w : Nat} (a : BitVec w) (n : Nat) : (a.sshiftRight n).toInt = a.toInt / 2 ^ n := by
  rw [BitVec.toInt_sshiftRight, Int.shiftRight_eq_div_pow]; norm_cast

/-- The immediate of lui and auipc is the field times 2^12. -/
theorem uimm20_toInt (imm : BitVec 20) : (uimm20 imm).toInt = imm.toInt * 4096 := by
  unfold uimm20
  rw [BitVec.toInt_signExtend_of_le (by decide), BitVec.toInt_append]
  simp [mul_comm]

/-! ## Division and remainder at any width (R4) -/

section
variable {w : Nat} (a b : BitVec w)

@[simp] theorem divS_zero : divS a 0 = BitVec.allOnes w := if_pos rfl
@[simp] theorem divU_zero : divU a 0 = BitVec.allOnes w := if_pos rfl
@[simp] theorem remS_zero : remS a 0 = a := if_pos rfl
@[simp] theorem remU_zero : remU a 0 = a := if_pos rfl

variable {b} (hb : b ≠ 0)
include hb

theorem divU_toNat : (divU a b).toNat = a.toNat / b.toNat := by rw [divU, if_neg hb]; exact BitVec.toNat_udiv
theorem remU_toNat : (remU a b).toNat = a.toNat % b.toNat := by rw [remU, if_neg hb]; exact BitVec.toNat_umod
theorem remS_toInt : (remS a b).toInt = a.toInt.tmod b.toInt := by rw [remS, if_neg hb, BitVec.toInt_srem]

/-- The quotient rounds toward zero; only the overflow wraps. -/
theorem divS_toInt : (divS a b).toInt = (a.toInt.tdiv b.toInt).bmod (2 ^ w) := by
  rw [divS, if_neg hb, BitVec.toInt_sdiv]

end

/-! ## The 64-bit operations as numbers -/

section
variable (a b : Word)

theorem regOp_sub_toNat : (regOp .sub a b).toNat = (a.toNat + (2 ^ 64 - b.toNat)) % 2 ^ 64 := by
  rw [Nat.add_comm]; exact BitVec.toNat_sub a b

theorem regOp_sll_toNat : (regOp .sll a b).toNat = a.toNat * 2 ^ (b.toNat % 64) % 2 ^ 64 := by
  show (a <<< (b.extractLsb' 0 6).toNat).toNat = _
  rw [shiftAmount_toNat, BitVec.toNat_shiftLeft, Nat.shiftLeft_eq]

theorem regOp_srl_toNat : (regOp .srl a b).toNat = a.toNat / 2 ^ (b.toNat % 64) := by
  show (a >>> (b.extractLsb' 0 6).toNat).toNat = _
  rw [shiftAmount_toNat, BitVec.toNat_ushiftRight, Nat.shiftRight_eq_div_pow]

theorem regOp_sra_toInt : (regOp .sra a b).toInt = a.toInt / 2 ^ (b.toNat % 64) := by
  show (a.sshiftRight (b.extractLsb' 0 6).toNat).toInt = _
  rw [shiftAmount_toNat, toInt_sshiftRight_eq_div]

theorem regOp_slt : regOp .slt a b = if a.toInt < b.toInt then 1 else 0 := by
  simp [regOp, boolWord, BitVec.slt_eq_decide]

theorem regOp_sltu : regOp .sltu a b = if a.toNat < b.toNat then 1 else 0 := by
  simp [regOp, boolWord, BitVec.ult_eq_decide]

theorem abs_toInt_le : |a.toInt| ≤ 2 ^ 63 :=
  abs_le.2 ⟨a.le_toInt, a.toInt_lt.le⟩

/-- The high half of a signed product fits a word. -/
theorem mulHigh_toInt {x y : Int} (hx : |x| ≤ 2 ^ 63) (hy : |y| < 2 ^ 64) : (mulHigh x y).toInt = x * y / 2 ^ 64 := by
  have hxy : |x * y| < 2 ^ 63 * 2 ^ 64 := by
    rw [abs_mul]; exact mul_lt_mul' hx hy (abs_nonneg y) (by norm_num)
  obtain ⟨hl, hu⟩ := abs_lt.1 hxy
  exact BitVec.toInt_ofInt_eq_self (by decide) (by omega) (by omega)

theorem regOp_mulh_toInt : (regOp .mulh a b).toInt = a.toInt * b.toInt / 2 ^ 64 :=
  mulHigh_toInt (abs_toInt_le a) ((abs_toInt_le b).trans_lt (by norm_num))

theorem regOp_mulhsu_toInt : (regOp .mulhsu a b).toInt = a.toInt * b.toNat / 2 ^ 64 :=
  mulHigh_toInt (abs_toInt_le a) (by rw [Nat.abs_cast]; exact_mod_cast b.isLt)

theorem regOp_mulhu_toNat : (regOp .mulhu a b).toNat = a.toNat * b.toNat / 2 ^ 64 := by
  have hlt : a.toNat * b.toNat / 2 ^ 64 < 2 ^ 64 :=
    Nat.div_lt_of_lt_mul (Nat.mul_lt_mul'' a.isLt b.isLt)
  show (BitVec.ofInt 64 ((a.toNat : Int) * b.toNat / 2 ^ 64)).toNat = _
  have hcast : (a.toNat : Int) * b.toNat / 2 ^ 64 = ((a.toNat * b.toNat / 2 ^ 64 : Nat) : Int) := by push_cast; rfl
  rw [hcast, BitVec.ofInt_natCast, BitVec.toNat_ofNat, Nat.mod_eq_of_lt hlt]

/-- By zero the quotients are all ones and the remainders the dividend. -/
theorem regOp_div_by_zero {a b : Word} (hb : b = 0) :
    regOp .div a b = -1 ∧ regOp .rem a b = a ∧ regOp .divu a b = -1 ∧ regOp .remu a b = a := by
  subst hb
  exact ⟨divS_zero a, remS_zero a, divU_zero a, remU_zero a⟩

/-- The one quotient that overflows is the dividend, with remainder 0. -/
theorem regOp_div_overflow {a b : Word} (ha : a.toInt = -(2 ^ 63)) (hb : b = -1) : regOp .div a b = a ∧ regOp .rem a b = 0 := by
  have hmin : a = BitVec.intMin 64 := BitVec.eq_of_toInt_eq ha
  subst hb hmin
  decide

/-- Every other quotient by a divisor other than zero is the exact one, rounded toward zero. -/
theorem regOp_div_toInt {a b : Word} (hb : b ≠ 0) (h : ¬(a.toInt = -(2 ^ 63) ∧ b = -1)) :
    (regOp .div a b).toInt = a.toInt.tdiv b.toInt := by
  show (divS a b).toInt = _
  rw [divS, if_neg hb]
  refine BitVec.toInt_sdiv_of_ne_or_ne a b (not_and_or.1 fun ⟨ha, hb'⟩ => h ⟨?_, hb'⟩)
  subst ha; decide

/-! ## The 32-bit operations as numbers -/

theorem regWOp_addw_toInt : (regWOp .addw a b).toInt = (((a.toNat + b.toNat) % 2 ^ 32 : Nat) : Int)
    - (if 2 ^ 31 ≤ (a.toNat + b.toNat) % 2 ^ 32 then 2 ^ 32 else 0) := by
  show (sext32 (lo32 a + lo32 b)).toInt = _
  rw [← lo32_add, sext32_toInt, BitVec.toInt_eq_toNat_cond, lo32_toNat, BitVec.toNat_add]
  split <;> split <;> omega

theorem regWOp_subw_toInt : (regWOp .subw a b).toInt = Int.bmod ((lo32 a).toInt - (lo32 b).toInt) (2 ^ 32) :=
  (sext32_toInt _).trans BitVec.toInt_sub

theorem regWOp_mulw_toInt : (regWOp .mulw a b).toInt = Int.bmod ((lo32 a).toInt * (lo32 b).toInt) (2 ^ 32) :=
  (sext32_toInt _).trans (BitVec.toInt_mul ..)

theorem regWOp_sllw_toInt :
    (regWOp .sllw a b).toInt = Int.bmod (((lo32 a).toNat * 2 ^ (b.toNat % 32) : Nat) : Int) (2 ^ 32) := by
  show (sext32 (lo32 a <<< (b.extractLsb' 0 5).toNat)).toInt = _
  rw [sext32_toInt, shiftAmountW_toNat, BitVec.toInt_shiftLeft, Nat.shiftLeft_eq]

theorem regWOp_srlw_toInt :
    (regWOp .srlw a b).toInt = Int.bmod (((lo32 a).toNat / 2 ^ (b.toNat % 32) : Nat) : Int) (2 ^ 32) := by
  show (sext32 (lo32 a >>> (b.extractLsb' 0 5).toNat)).toInt = _
  rw [sext32_toInt, shiftAmountW_toNat, BitVec.toInt_eq_toNat_bmod, BitVec.toNat_ushiftRight, Nat.shiftRight_eq_div_pow]

theorem regWOp_sraw_toInt : (regWOp .sraw a b).toInt = (lo32 a).toInt / 2 ^ (b.toNat % 32) := by
  show (sext32 ((lo32 a).sshiftRight (b.extractLsb' 0 5).toNat)).toInt = _
  rw [sext32_toInt, shiftAmountW_toNat, toInt_sshiftRight_eq_div]

variable {a b}

/-- By a zero low word the quotients are all ones and the remainders the dividend's low word, sign-extended. -/
theorem regWOp_div_by_zero (hb : lo32 b = 0) :
    regWOp .divw a b = -1 ∧ regWOp .divuw a b = -1 ∧ (regWOp .remw a b).toInt = (lo32 a).toInt
      ∧ (regWOp .remuw a b).toInt = (lo32 a).toInt := by
  simp only [regWOp, hb, divS_zero, divU_zero, remS_zero, remU_zero, sext32_toInt]
  decide

theorem regWOp_divw_toInt (hb : lo32 b ≠ 0) :
    (regWOp .divw a b).toInt = Int.bmod ((lo32 a).toInt.tdiv (lo32 b).toInt) (2 ^ 32) :=
  (sext32_toInt _).trans (divS_toInt _ hb)

theorem regWOp_remw_toInt (hb : lo32 b ≠ 0) : (regWOp .remw a b).toInt = (lo32 a).toInt.tmod (lo32 b).toInt :=
  (sext32_toInt _).trans (remS_toInt _ hb)

theorem regWOp_divuw_toInt (hb : lo32 b ≠ 0) :
    (regWOp .divuw a b).toInt = Int.bmod (((lo32 a).toNat / (lo32 b).toNat : Nat) : Int) (2 ^ 32) := by
  rw [← divU_toNat _ hb, ← BitVec.toInt_eq_toNat_bmod]; exact sext32_toInt _

theorem regWOp_remuw_toInt (hb : lo32 b ≠ 0) :
    (regWOp .remuw a b).toInt = Int.bmod (((lo32 a).toNat % (lo32 b).toNat : Nat) : Int) (2 ^ 32) := by
  rw [← remU_toNat _ hb, ← BitVec.toInt_eq_toNat_bmod]; exact sext32_toInt _

end

/-! ## The forms with an immediate, through the register forms (R96) -/

section
variable (c : Ctx) (rd rs1 : XReg)

theorem aluResult_addiw (imm : BitVec 12) :
    aluResult (.addiw rd rs1 imm) c = (rd, regWOp .addw (c.getX rs1) (simm12 imm)) := by
  simp only [aluResult, regWOp, lo32_add]

/-- A 64-bit shift by an immediate is the shift by a register that holds it. -/
theorem aluResult_shImm (sh : BitVec 6) :
    aluResult (.shImm .sll rd rs1 sh) c = (rd, regOp .sll (c.getX rs1) (sh.setWidth 64))
    ∧ aluResult (.shImm .srl rd rs1 sh) c = (rd, regOp .srl (c.getX rs1) (sh.setWidth 64))
    ∧ aluResult (.shImm .sra rd rs1 sh) c = (rd, regOp .sra (c.getX rs1) (sh.setWidth 64)) := by
  simp only [aluResult, shOp, regOp, lowBits_setWidth (by decide : 6 ≤ 64), and_self]

/-- A 32-bit shift by an immediate is the shift by a register that holds it. -/
theorem aluResult_shImmW (sh : BitVec 5) :
    aluResult (.shImmW .sll rd rs1 sh) c = (rd, regWOp .sllw (c.getX rs1) (sh.setWidth 64))
    ∧ aluResult (.shImmW .srl rd rs1 sh) c = (rd, regWOp .srlw (c.getX rs1) (sh.setWidth 64))
    ∧ aluResult (.shImmW .sra rd rs1 sh) c = (rd, regWOp .sraw (c.getX rs1) (sh.setWidth 64)) := by
  simp only [aluResult, shOpW, regWOp, lowBits_setWidth (by decide : 5 ≤ 64), and_self]

theorem simm12_toInt (imm : BitVec 12) : (simm12 imm).toInt = imm.toInt :=
  BitVec.toInt_signExtend_of_le (by decide)

end

end Sys2Proof.Machine

namespace Sys2Proof

open Sys2Proof.Machine

/-- Settles O15: the exec clause from the checks a ready form passes, and the numbers from one lemma per operation. -/
theorem baseAluCompletes : Obligations.BaseAluCompletes := by
  unfold Obligations.BaseAluCompletes
  refine ⟨fun f s h => exec_baseAlu_of_ready h, fun a b => ?_, fun a b => ?_, fun c rd rs1 rs2 => ?_⟩
  · exact ⟨BitVec.toNat_add a b, regOp_sub_toNat a b, BitVec.toNat_mul a b, regOp_mulhu_toNat a b, regOp_mulh_toInt a b,
      regOp_mulhsu_toInt a b, regOp_slt a b, regOp_sltu a b, regOp_sra_toInt a b, regOp_div_by_zero,
      fun hb => ⟨divU_toNat a hb, remU_toNat a hb⟩, regOp_div_overflow,
      fun hb => ⟨remS_toInt a hb, regOp_div_toInt hb⟩,
      regOp_sll_toNat a b, regOp_srl_toNat a b, rfl, rfl, rfl, regWOp_addw_toInt a b⟩
  · exact ⟨regWOp_subw_toInt a b, regWOp_mulw_toInt a b, regWOp_sllw_toInt a b, regWOp_srlw_toInt a b, regWOp_sraw_toInt a b,
      regWOp_div_by_zero,
      fun hb => ⟨regWOp_divw_toInt hb, regWOp_remw_toInt hb, regWOp_divuw_toInt hb, regWOp_remuw_toInt hb⟩⟩
  · exact ⟨fun _ => rfl, fun _ => rfl, fun imm => ⟨rfl, uimm20_toInt imm, rfl⟩,
      fun imm => ⟨simm12_toInt imm, rfl, rfl, rfl, rfl, rfl, rfl, aluResult_addiw c rd rs1 imm⟩,
      aluResult_shImm c rd rs1, aluResult_shImmW c rd rs1⟩

end Sys2Proof
end

section
/-! SUPPORT. Strands, launches and cores of the chip: a core after an update, the launches of a partition after an update,
the record of a strand after an update and after its exit (R39), and `sexit`, `syield` and `evt` (R301, R302, R342). -/

namespace Sys2Proof.Machine

/-! ## A core after an update -/

theorem findCore_putCore (cs : List (Nat × Core)) (n : Nat) (c : Core) : findCore (putCore cs n c) n = c := by
  induction cs with
  | nil => simp [putCore, findCore]
  | cons d t ih =>
    obtain ⟨k, d⟩ := d
    rw [putCore]
    split
    · simp [findCore]
    · split
      · simp [findCore]
      · rename_i hne
        rw [findCore, if_neg (Ne.symm hne), ih]

/-- An update that keeps a core's number is what is read back. -/
theorem coreAt_mapCoreAt (s : State) (n : Nat) {f : Core → Core} (hid : ∀ c, (f c).id = c.id) :
    (s.mapCoreAt n f).coreAt n = f (s.coreAt n) := by
  by_cases h : s.core.id = n
  · simp [State.mapCoreAt, State.putCoreAt, State.coreAt, h, hid]
  · simp [State.mapCoreAt, State.putCoreAt, State.coreAt, h, findCore_putCore]

@[simp] theorem mapCoreAt_parts (s : State) (n : Nat) (f : Core → Core) : (s.mapCoreAt n f).parts = s.parts := by
  unfold State.mapCoreAt State.putCoreAt; split <;> rfl

/-- An update that keeps a core's context keeps that of the core whose turn it is. -/
theorem mapCoreAt_ctx (s : State) (n : Nat) {f : Core → Core} (hctx : ∀ c, (f c).ctx = c.ctx) : (s.mapCoreAt n f).ctx = s.ctx := by
  unfold State.mapCoreAt State.putCoreAt
  split
  · rename_i hn
    simp [State.coreAt, State.ctx, hn, hctx]
  · rfl

@[simp] theorem mapStrand_coreAt (s : State) (k : Nat) (r : SRef) (f : Strand → Strand) (n : Nat) :
    (s.mapStrand k r f).coreAt n = s.coreAt n := rfl
@[simp] theorem putConds_mem (s : State) (n : Nat) (es : List (Nat × Ecc)) : (putConds s n es).mem = s.mem := rfl
@[simp] theorem freeHelpers_parts (s : State) (n : Nat) : (s.freeHelpers n).parts = s.parts := rfl
@[simp] theorem dropBehind_parts (s : State) (k : Nat) (r : SRef) : (dropBehind s k r).parts = s.parts := rfl

/-! ## Lists updated in place -/

theorem setAt_eq_set {α : Type} (xs : List α) (n : Nat) (x : α) : setAt xs n x = xs.set n x := by
  induction xs generalizing n with
  | nil => rfl
  | cons y t ih =>
    cases n with
    | zero => rfl
    | succ n => rw [setAt, ih, List.set_cons_succ]

/-- The first element that satisfies a test, after an update of it that the test does not see. -/
theorem find?_updFirst {α : Type} {p : α → Bool} {f : α → α} (hp : ∀ x, p (f x) = p x) (xs : List α) :
    (updFirst p f xs).find? p = (xs.find? p).map f := by
  induction xs with
  | nil => rfl
  | cons y t ih =>
    rw [updFirst]
    split
    · rename_i hy
      rw [List.find?_cons_of_pos ((hp y).trans hy), List.find?_cons_of_pos hy, Option.map_some]
    · rename_i hy
      rw [List.find?_cons_of_neg hy, List.find?_cons_of_neg hy, ih]

/-! ## The launches of a partition after an update -/

/-- A partition that the chip does not have holds no launch, before and after. -/
theorem mapPart_launches (s : State) (k : Nat) {g : Partition → Partition} {h : List Launch → List Launch}
    (hg : ∀ p, (g p).launches = h p.launches) (hnil : h [] = []) :
    ((s.mapPart k g).part k).launches = h (s.part k).launches := by
  rw [State.part, State.mapPart_parts, setAt_eq_set, List.getD_eq_getElem?_getD, List.getElem?_set_self']
  unfold State.part
  rw [List.getD_eq_getElem?_getD]
  cases s.parts[k]? with
  | none => exact hnil.symm
  | some p => exact hg p

theorem part_congr {s t : State} (h : t.parts = s.parts) (k : Nat) : t.part k = s.part k := by
  unfold State.part; rw [h]

theorem mapLaunch_launches (s : State) (k n : Nat) (f : Launch → Launch) :
    ((s.mapLaunch k n f).part k).launches = updFirst (fun l => decide (l.serial = n)) f (s.part k).launches :=
  mapPart_launches s k (fun _ => rfl) rfl

/-- A launch read after an update that keeps its number. -/
theorem findLaunch_mapLaunch (s : State) (k n : Nat) {f : Launch → Launch} (hf : ∀ l, (f l).serial = l.serial) :
    findLaunch (s.mapLaunch k n f) k n = (findLaunch s k n).map f := by
  rw [findLaunch, mapLaunch_launches, find?_updFirst (by simp [hf])]
  rfl

/-! ## The record of a strand -/

/-- The record of a strand of a partition. -/
def strandAt (s : State) (k : Nat) (r : SRef) : Option Strand := (findLaunch s k r.launch).bind fun l => findStrand l r.stage r.idx

theorem strandAt_eq_some {s : State} {k : Nat} {r : SRef} {t : Strand} :
    strandAt s k r = some t ↔ ∃ l, findLaunch s k r.launch = some l ∧ findStrand l r.stage r.idx = some t :=
  Option.bind_eq_some_iff

/-- The record depends on the launches of its partition alone. -/
theorem strandAt_congr {s t : State} {k : Nat} (h : (t.part k).launches = (s.part k).launches) (r : SRef) :
    strandAt t k r = strandAt s k r := by
  unfold strandAt findLaunch; rw [h]

/-- A strand's record read after an update that keeps its place. -/
theorem strandAt_mapStrand (s : State) (k : Nat) (r : SRef) {f : Strand → Strand}
    (hf : ∀ t, (f t).stage = t.stage ∧ (f t).idx = t.idx) : strandAt (s.mapStrand k r f) k r = (strandAt s k r).map f := by
  have hl (l : Launch) : findStrand (l.mapStrand r.stage r.idx f) r.stage r.idx = (findStrand l r.stage r.idx).map f :=
    find?_updFirst (by simp [hf]) l.strands
  have hs : findLaunch (s.mapStrand k r f) k r.launch
      = (findLaunch s k r.launch).map fun l => l.mapStrand r.stage r.idx f :=
    findLaunch_mapLaunch s k r.launch fun _ => rfl
  rw [strandAt, hs, strandAt]
  cases findLaunch s k r.launch with
  | none => rfl
  | some l => exact hl l

/-- A record found in a launch, in the terms the statements use, after an update that keeps its place. -/
theorem findStrand_mapStrand {s : State} {k : Nat} {r : SRef} {l : Launch} {t : Strand} (hl : findLaunch s k r.launch = some l)
    (ht : findStrand l r.stage r.idx = some t) {f : Strand → Strand} (hf : ∀ t, (f t).stage = t.stage ∧ (f t).idx = t.idx) :
    ∃ l', findLaunch (s.mapStrand k r f) k r.launch = some l' ∧ findStrand l' r.stage r.idx = some (f t) := by
  rw [← strandAt_eq_some, strandAt_mapStrand s k r hf, strandAt_eq_some.2 ⟨l, hl, ht⟩, Option.map_some]

/-! ## A strand's exit (R39) -/

/-- What is noted of an exit is noted in the image. -/
theorem noteExit_launches (s : State) (k : Nat) (r : SRef) (l : Launch) (t : Strand) :
    ((noteExit s k r l t).part k).launches = (s.part k).launches := by
  unfold noteExit
  split
  · split
    · exact mapPart_launches s k (h := id) (fun _ => rfl) rfl
    · rfl
  · rfl

/-- A strand with no ring to leave stays as it is. -/
theorem strandAt_leaveRings {s : State} {k : Nat} {r : SRef} {t : Strand} (h : strandAt s k r = some t) (hl : t.leaving = []) :
    strandAt (leaveRings s k r) k r = some t := by
  unfold leaveRings
  rw [← strandAt, h]
  simp only [hl, List.filter_nil, List.foldl_nil]
  rw [strandAt_mapStrand, h, Option.map_some, hl, List.filter_nil, ← hl]
  exact fun _ => ⟨rfl, rfl⟩

/-- R39: a strand of a stage that produces into no ring is EXITED and holds neither a core nor a context. -/
theorem strandAt_exitStrand {s : State} {k : Nat} {r : SRef} {l : Launch} {t : Strand} (hl : findLaunch s k r.launch = some l)
    (ht : findStrand l r.stage r.idx = some t) (hout : stageOut l r.stage = none) :
    strandAt (exitStrand s k r) k r =
      some { t with st := .exited, core := none, saved := none, wait := none, slot := none, leaving := [] } := by
  unfold exitStrand
  simp only [hl, ht, hout, Option.toList_none]
  have hkept (u : State) (hu : u.parts = (noteExit s k r l t).parts) : strandAt u k r = some t := by
    rw [strandAt_congr ((congrArg _ (part_congr hu k)).trans (noteExit_launches s k r l t))]
    exact strandAt_eq_some.2 ⟨l, hl, ht⟩
  refine strandAt_leaveRings ?_ rfl
  rw [strandAt_mapStrand, hkept _ (by split <;> simp)]
  · rfl
  · exact fun _ => ⟨rfl, rfl⟩

/-! ## What a strand's own instructions do (R301, R302, R342) -/

/-- A core's strand is the one its record names. -/
theorem strand_of_coreStrand {s : State} {r : SRef} {l : Launch} {t : Strand} (h : coreStrand s = some (r, l, t)) :
    s.core.strand = some r := by
  unfold coreStrand at h
  split at h
  · cases h
  · rename_i r' hr
    split at h
    · cases h
    · obtain ⟨t', -, e⟩ := Option.map_eq_some_iff.1 h
      cases e
      exact hr

theorem endStrand_of_strand {s : State} {r : SRef} (h : s.core.strand = some r) : endStrand s = exitStrand s s.pidx r := by
  unfold endStrand; rw [h]

/-- With nothing queued `sexit` waits for the copies of the strand's registers alone. -/
theorem exitReady_of_clear {s : State} (h : s.Clear) (hc : s.core.copyHolds = false) : exitReady s = true := by
  obtain ⟨-, hviq, hcable, -⟩ := h
  simp [exitReady, saveReady, hviq, hcable, hc]

theorem exec_sexit_user {s : State} {r : SRef} (h : Ready .sexit s) (hu : s.core.priv = .user) (hr : s.core.strand = some r)
    (hc : s.core.copyHolds = false) : exec .sexit s = .next (exitStrand (tick s) s.pidx r) := by
  obtain ⟨-, -, -, -, hesc, -⟩ := h.1
  show execSexit s = _
  rw [execSexit, guarded_of_ready h, if_pos hu, if_neg (by simp [hesc]), if_pos (exitReady_of_clear h.1 hc)]
  exact congrArg _ (endStrand_of_strand (s := tick s) hr)

theorem exec_sexit_handler {s : State} (h : Ready .sexit s) (hu : s.core.priv ≠ .user) (hs : servesStrand s = false) :
    exec .sexit s = .next (enterTrap s false cIllegal (instrWord .sexit)) := by
  obtain ⟨-, -, -, -, hesc, -⟩ := h.1
  show execSexit s = _
  rw [execSexit, guarded_of_ready h, if_neg hu, if_neg (by simp [hs]), illegal, raiseTrap_of_no_escrow hesc]

theorem exec_syield_user {s : State} (h : Ready .syield s) (hu : s.core.priv = .user) :
    let t := (retire s).mapCtx fun c => { c with atPoint := true }
    exec .syield s = if leaving s.core.stop = false ∧ yields s = true
      then .next { t with core := { t.core with stop := some .preempt } } else .next t := by
  intro t
  show execSyield s = _
  rw [execSyield, guarded_of_ready h, if_neg (not_not.2 hu)]
  rfl

/-- A computation that ends is followed by the next one. -/
theorem runM_bind_of_ok {α : Type} {m : M α} {f : α → M Unit} {s t : State} {a : α} (h : m.run s = (.ok a, t)) :
    runM (m >>= f) s = runM (f a) t := by
  rw [runM, run_bind, h, runM]

/-- A release with nothing queued and no store held leaves the state as it is. -/
theorem releaseM_run_of_idle {s : State} (hviq : s.ctx.viq = []) (hheld : s.heldStores = []) : releaseM.run s = (.ok (), s) := by
  have hget : (get : M State).run s = (.ok s, s) := rfl
  unfold releaseM
  rw [run_bind, hget]
  simp only [hviq, flushHeld_nil hheld, hheld, List.any_nil, Bool.false_eq_true, and_false, if_false]
  rfl

theorem exec_evt_of_ready {rs1 : XReg} {s : State} (h : Ready (.evt rs1) s) (hheld : s.heldStores = []) :
    exec (.evt rs1) s = .next (retire (raiseEvent s s.pidx (strandQueue s) 0x0100 (s.x rs1) s.ctx.strandid)) := by
  obtain ⟨-, hviq, -⟩ := h.1
  show execEvt rs1 s = _
  rw [execEvt, guarded_of_ready h, runM_bind_of_ok (releaseM_run_of_idle hviq hheld)]
  rfl

end Sys2Proof.Machine
end

section
/-! SUPPORT. The Work Scheduler's steps: a strand started on a core (R299), the stops that an interval's end asks for (R299 steps
2 and 3), and the end of a wait (R37). -/

namespace Sys2Proof.Machine

/-! ## Starting a strand on a core (R299, R300) -/

/-- The core that a strand starts on: in U-mode, in the strand's context, the home of its escrow loop there. -/
theorem startOn_coreAt (s : State) (k : Nat) (r : SRef) (n : Nat) (c : Ctx) :
    let d := (startOn s k r n c).coreAt n
    d.priv = .user
      ∧ d.ctx = { c.resume with esc := c.esc.map fun e => e.homeOn n (decide (waysUsed s (ribOf n) < 4)) }
      ∧ d.strand = some r ∧ d.resv = none := by
  rw [startOn, mapStrand_coreAt, coreAt_mapCoreAt]
  · exact ⟨rfl, rfl, rfl, rfl⟩
  · exact fun _ => rfl

@[simp] theorem startOn_mem (s : State) (k : Nat) (r : SRef) (n : Nat) (c : Ctx) : (startOn s k r n c).mem = s.mem := by
  rw [startOn, mapStrand_mem, mapCoreAt_mem, putConds_mem]

/-- A READY strand that has no block in memory starts on the core chosen for it. -/
theorem exec_placeStrand {serial stage idx n : Nat} {s : State} {l : Launch} {t : Strand} {c : Ctx}
    (hv : (s.part s.pidx).vaulted = false)
    (hf : ((readyStrands s s.pidx).find? fun p => decide (p.1.serial = serial ∧ p.2.stage = stage ∧ p.2.idx = idx)) = some (l, t))
    (hc : t.saved = some c) (hs : t.slot = none)
    (hn : let cores := (coresOf s s.pidx).filter fun m => freeFor s m l.uuse && leavesMins s s.pidx l t && takesCore s s.pidx m (l, t)
      cores[Config.pick s.draws % max 1 cores.length]? = some n) :
    exec (.placeStrand serial stage idx) s
      = .next (startOn { s with draws := s.draws + 1 } s.pidx ⟨serial, stage, idx⟩ n c) := by
  show execPlaceStrand serial stage idx s = _
  dsimp only at hn
  simp only [execPlaceStrand, hf, hv, hn, placeOn, hc, hs, Bool.false_eq_true, if_false]

/-! ## What an interval's end asks for (R299) -/

/-- The records of the partitions, memory and the live context are as before: at most stops are asked for and draws made. -/
structure OnlyStops (s t : State) : Prop where
  parts : t.parts = s.parts
  mem : t.mem = s.mem
  ctx : t.ctx = s.ctx

theorem OnlyStops.refl (s : State) : OnlyStops s s := ⟨rfl, rfl, rfl⟩

theorem OnlyStops.trans {s t u : State} (h : OnlyStops s t) (h' : OnlyStops t u) : OnlyStops s u :=
  ⟨h'.parts.trans h.parts, h'.mem.trans h.mem, h'.ctx.trans h.ctx⟩

theorem OnlyStops.drawn {s t : State} {n : Nat} (h : OnlyStops { s with draws := n } t) : OnlyStops s t := ⟨h.parts, h.mem, h.ctx⟩

theorem OnlyStops.foldl {α : Type} {f : State → α → State} (hf : ∀ t x, OnlyStops t (f t x)) (xs : List α) (s : State) :
    OnlyStops s (xs.foldl f s) := by
  induction xs generalizing s with
  | nil => exact .refl s
  | cons x xs ih => exact (hf s x).trans (ih (f s x))

theorem askPreempt_onlyStops (s : State) (t : Strand) (g : Gift) : OnlyStops s (askPreempt s t g) := by
  unfold askPreempt
  split
  · exact ⟨mapCoreAt_parts _ _ _, mapCoreAt_mem _ _ _, mapCoreAt_ctx _ _ fun _ => rfl⟩
  · exact .refl s

theorem priorityFor_onlyStops (s : State) (k : Nat) (x : Launch × Strand) : OnlyStops s (priorityFor s k x) := by
  unfold priorityFor
  extract_lets r all ok best
  split
  · exact .refl s
  · split
    · exact .drawn (askPreempt_onlyStops _ _ _)
    · exact .refl s

theorem priorityStep_onlyStops (s : State) (k : Nat) : OnlyStops s (priorityStep s k) := by
  unfold priorityStep
  exact .foldl (fun t _ => .foldl (fun u x => priorityFor_onlyStops u k x) _ t) _ s

theorem spreadFor_onlyStops (s : State) (k : Nat) (l : Launch) : OnlyStops s (spreadFor s k l) := by
  unfold spreadFor
  extract_lets wants gives above below
  split
  · extract_lets h g
    split
    · split
      · exact .drawn (askPreempt_onlyStops _ _ _)
      · exact .refl s
    · exact .refl s
  · exact .refl s
  · exact .refl s

/-- The end of an interval ages the launches, and then only asks strands to stop. -/
theorem exec_reallocationIntervalEnd {k : Nat} {s : State} (hk : k < s.nparts) (hv : (s.part k).vaulted = false) :
    ∃ u, exec (.reallocationIntervalEnd k) s = .next u
      ∧ OnlyStops (s.mapPart k fun p => { p with launches := p.launches.map (ageLaunch s k) }) u := by
  show ∃ u, execReallocationIntervalEnd k s = .next u ∧ _
  rw [execReallocationIntervalEnd, if_neg (by simp [hv, hk])]
  exact ⟨_, rfl, (priorityStep_onlyStops _ k).trans (.foldl (fun t l => spreadFor_onlyStops t k l) _ _)⟩

/-! ## The end of a wait (R37, R38) -/

section
variable {serial stage idx : Nat} {s : State} {l : Launch} {t : Strand} {w : Wait}
  (hl : findLaunch s s.pidx serial = some l) (ht : findStrand l stage idx = some t) (hw : t.wait = some w)
  (ho : waitOver s s.pidx w = true)
include hl ht hw ho

theorem exec_waitSatisfied_blocked (hb : t.st = .blocked) : exec (.waitSatisfied serial stage idx) s
    = .next (s.mapStrand s.pidx ⟨serial, stage, idx⟩ fun t => { t with st := .running, wait := none }) := by
  show execWaitSatisfied serial stage idx s = _
  simp [execWaitSatisfied, hl, ht, hw, ho, hb]

theorem exec_waitSatisfied_parked (hp : t.st = .parked) : exec (.waitSatisfied serial stage idx) s
    = .next (s.mapStrand s.pidx ⟨serial, stage, idx⟩ fun t => { t with st := .ready, wait := none, waited := 0 }) := by
  show execWaitSatisfied serial stage idx s = _
  simp [execWaitSatisfied, hl, ht, hw, ho, hp]

end

/-! ## The events of a launch (R41, R47) -/

theorem exec_placementEvent {serial : Nat} {s : State} {l : Launch} (hl : findLaunch s s.pidx serial = some l)
    (hr : l.st = .released) (hc : ((coresOf s s.pidx).filter fun n => covers s n l.uuse).length < minSum l.stages) :
    exec (.placementEvent serial) s = .next (launchEvent s s.pidx l 0x0003) := by
  show execPlacementEvent serial s = _
  simp only [execPlacementEvent, hl, if_pos (And.intro hr hc)]

theorem exec_pipelineStallEvent {serial : Nat} {s : State} {l : Launch} (hl : findLaunch s s.pidx serial = some l)
    (ha : l.st = .admitted) (hlive : ∃ t ∈ l.strands, t.st ≠ .exited)
    (hwait : ∀ t ∈ l.strands, t.st = .exited ∨ t.st = .blocked ∨ t.st = .parked) :
    exec (.pipelineStallEvent serial) s = .next (launchEvent s s.pidx l 0x0004) := by
  show execPipelineStallEvent serial s = _
  have hne : (l.strands.filter fun t => decide (t.st ≠ .exited)).isEmpty = false := by
    simpa using hlive
  have hall : ((l.strands.filter fun t => decide (t.st ≠ .exited)).all fun t =>
      decide (t.st = .blocked) || decide (t.st = .parked)) = true := by
    simpa [or_iff_not_imp_left] using hwait
  simp only [execPipelineStallEvent, hl]
  exact if_pos ⟨ha, hne, hall⟩

end Sys2Proof.Machine

namespace Sys2Proof

open Sys2Proof.Machine

/-- Settles O51: each instruction from the checks it passes, and the exit from the strand's record after it. -/
theorem strandFormsComplete : Obligations.StrandFormsComplete := by
  unfold Obligations.StrandFormsComplete
  refine ⟨fun s r l t h hu hr hc => exec_sexit_user h hu (strand_of_coreStrand hr) hc, fun s h hu hs => exec_sexit_handler h hu hs,
    fun s k r l t hl ht hout => ?_, fun s h hu => ?_, fun rs1 s h hheld => exec_evt_of_ready h hheld⟩
  · obtain ⟨l', hl', ht'⟩ := strandAt_eq_some.1 (strandAt_exitStrand hl ht hout)
    exact ⟨l', _, hl', ht', rfl, rfl, rfl, rfl⟩
  · have hexec := exec_syield_user h hu
    refine ⟨fun hstop hy => hexec.trans (if_pos ⟨hstop, hy⟩), fun hno => hexec.trans (if_neg ?_)⟩
    rintro ⟨hstop, hy⟩
    simp [hstop, hy] at hno

/-- Settles O54: a placement from the core it starts on, the interval's end from what the stops it asks for leave, a wait's end
from the strand's record after it. -/
theorem schedulingStepsComplete : Obligations.SchedulingStepsComplete := by
  unfold Obligations.SchedulingStepsComplete
  refine ⟨fun serial stage idx n s l t c hv hf hc hs hn => ?_, fun k s hk _ hv => ?_,
    fun serial stage idx s l t w hl ht hw ho => ⟨fun hb => ?_, fun hp => ?_⟩,
    fun serial s l hl hr hc => exec_placementEvent hl hr hc, fun serial s l hl ha hlive hwait => exec_pipelineStallEvent hl ha hlive hwait⟩
  · obtain ⟨hpriv, hctx, hstrand, hresv⟩ := startOn_coreAt { s with draws := s.draws + 1 } s.pidx ⟨serial, stage, idx⟩ n c
    exact ⟨_, exec_placeStrand hv hf hc hs hn, hpriv, hctx, hstrand, hresv, startOn_mem _ _ _ _ _⟩
  · obtain ⟨u, hu, hparts, hmem, hctx⟩ := exec_reallocationIntervalEnd hk hv
    refine ⟨u, hu, ?_, hmem, hctx⟩
    rw [part_congr hparts]
    exact mapPart_launches s k (fun _ => rfl) rfl
  · obtain ⟨l', hl', ht'⟩ := findStrand_mapStrand (r := ⟨serial, stage, idx⟩) hl ht (f := fun t => { t with st := .running, wait := none })
      fun _ => ⟨rfl, rfl⟩
    exact ⟨_, l', exec_waitSatisfied_blocked hl ht hw ho hb, hl', ht', rfl, rfl⟩
  · obtain ⟨l', hl', ht'⟩ := findStrand_mapStrand (r := ⟨serial, stage, idx⟩) hl ht
      (f := fun t => { t with st := .ready, wait := none, waited := 0 }) fun _ => ⟨rfl, rfl⟩
    exact ⟨_, l', exec_waitSatisfied_parked hl ht hw ho hp, hl', ht', rfl, rfl⟩

end Sys2Proof
end

section
/-! SUPPORT. The elements of a vector register: a read after a write of an element, what the results of a list of elements leave (R127,
R129), and each elementwise form through it. -/

namespace Sys2Proof.Machine

/-! ## An element of a register after a write -/

theorem getBytes_congr {m d : Bytes} {a n : Nat} (h : ∀ x, a ≤ x → x < a + n → getByte d x = getByte m x) :
    getBytes d a n = getBytes m a n := by
  induction n generalizing a with
  | zero => rfl
  | succ n ih =>
    rw [getBytes, getBytes, h a (le_refl a) (by omega), ih fun x hx hlt => h x (by omega) (by omega)]

theorem getLe_setLe_out {m : Bytes} (h : wfBytes m = true) {a b n k : Nat} (v : Nat) (hx : b + k ≤ a ∨ a + n ≤ b) :
    getLe (setLe m a n v) b k = getLe m b k := by
  unfold getLe setLe
  rw [getBytes_congr fun x hlo hhi => getByte_setBytes_out h a _ x ?_]
  rw [natBytes_length]; omega

theorem getNibble_setNibble {m : Bytes} (h : wfBytes m = true) (i j : Nat) (v : BitVec 4) :
    getNibble (setNibble m i v) j = if j = i then v else getNibble m j := by
  unfold getNibble setNibble
  rw [getByte_setByte h]
  by_cases hbyte : j / 2 = i / 2
  · rw [if_pos hbyte, hbyte]
    rcases Nat.mod_two_eq_zero_or_one i with hi | hi <;> rcases Nat.mod_two_eq_zero_or_one j with hj | hj
    · rw [if_pos hi, if_pos (by omega : j = i), hj]
      exact BitVec.extractLsb'_append_eq_right
    · rw [if_pos hi, if_neg (by omega : j ≠ i), hj]
      exact BitVec.extractLsb'_append_eq_left
    · rw [if_neg (by omega : ¬i % 2 = 0), if_neg (by omega : j ≠ i), hj]
      exact BitVec.extractLsb'_append_eq_right
    · rw [if_neg (by omega : ¬i % 2 = 0), if_pos (by omega : j = i), hj]
      exact BitVec.extractLsb'_append_eq_left
  · rw [if_neg hbyte, if_neg (by omega : j ≠ i)]

theorem wfBytes_putRaw {d : Bytes} (h : wfBytes d = true) (w i b : Nat) : wfBytes (putRaw d w i b) = true := by
  unfold putRaw
  split
  · exact wfBytes_setNibble h i _
  · exact wfBytes_setLe h _ _ b

/-- The elements of a register do not overlap: a write of one leaves every other. -/
theorem rawAt_putRaw {d : Bytes} (h : wfBytes d = true) {w : Nat} (hw : w = 4 ∨ 8 ∣ w) (i j b : Nat) :
    rawAt (putRaw d w i b) w j = if j = i then b % 2 ^ w else rawAt d w j := by
  rcases hw with rfl | ⟨n, rfl⟩
  · simp only [rawAt, putRaw, if_true, getNibble_setNibble h]
    split <;> simp
  · have hne : 8 * n ≠ 4 := by omega
    have hn : 8 * n / 8 = n := by omega
    simp only [rawAt, putRaw, if_neg hne, hn]
    by_cases hij : j = i
    · rw [if_pos hij, hij, getLe_setLe h, pow_mul]; rfl
    · rw [if_neg hij]
      refine getLe_setLe_out h b ?_
      rcases Nat.lt_or_gt_of_ne hij with hlt | hgt
      · exact .inl (by nlinarith)
      · exact .inr (by nlinarith)

theorem etyOf_bits {t : Byte} {ty : ETy} (h : etyOf t = some ty) : ty.bits = 4 ∨ 8 ∣ ty.bits := by
  unfold etyOf at h
  split at h
  case h_13 =>
    split at h
    · cases h
    · cases h; exact .inl rfl
  case h_14 => cases h
  all_goals cases h; exact .inr (by decide)

/-! ## A register after its elements are written (R127, R129) -/

section
variable (c : Ctx) (r : VReg5)

@[simp] theorem Ctx.vr_setVr_same (v : VReg) : (c.setVr r v).vr r = v := by simp [Ctx.vr, Ctx.setVr]

@[simp] theorem Ctx.vr_putElem_same (w i b : Nat) :
    (c.putElem r w i b).vr r = { c.vr r with data := putRaw (c.vr r).data w i b } := Ctx.vr_setVr_same c r _

@[simp] theorem Ctx.vr_stale (k : VReg5) : (c.stale k).vr r = c.vr r := by
  unfold Ctx.stale Ctx.staleWhere
  split <;> rfl

@[simp] theorem Ctx.u_stale (k : VReg5) : (c.stale k).u = c.u := by
  unfold Ctx.stale Ctx.staleWhere
  split <;> rfl

theorem VReg.fill_tag (v : VReg) : v.fill.tag = v.tag := by unfold VReg.fill; split <;> rfl
theorem VReg.fill_data (v : VReg) : v.fill.data = v.data := by unfold VReg.fill; split <;> rfl

@[simp] theorem Ctx.vr_fillReg_same : (c.fillReg r).vr r = (c.vr r).fill := by
  rw [Ctx.fillReg, Ctx.vr_stale, Ctx.mapVr, Ctx.vr_setVr_same]

@[simp] theorem Ctx.u_fillReg : (c.fillReg r).u = c.u := Ctx.u_stale _ r

@[simp] theorem Ctx.raw_fillReg_same (i : Nat) : (c.fillReg r).raw r i = c.raw r i := by
  simp only [Ctx.raw, Ctx.ety, Ctx.vr_fillReg_same, VReg.fill_tag, VReg.fill_data]

variable {c r}

theorem Ctx.raw_of_ety {ty : ETy} (h : c.ety r = some ty) (i : Nat) : c.raw r i = rawAt (c.vr r).data ty.bits i := by
  rw [Ctx.raw, h]

theorem Ctx.width_of_ety {ty : ETy} (h : c.ety r = some ty) : c.width r = ty.bits := by
  rw [Ctx.width, h]; rfl

end

section
variable (vd : VReg5) (w : Nat) (sr : Bool) (f : Nat → Nat × Flags) (c : Ctx) (i : Nat)

@[simp] theorem vr_emitOne : (emitOne vd w sr f c i).vr vd = { c.vr vd with data := putRaw (c.vr vd).data w i (f i).1 } := by
  unfold emitOne
  split
  · exact Ctx.vr_putElem_same c vd w i _
  · exact Ctx.vr_putElem_same c vd w i _

@[simp] theorem vxflags_emitOne : (emitOne vd w sr f c i).u.vxflags = c.u.vxflags ||| (f i).2.setWidth 64 := by
  unfold emitOne
  split <;> rfl

@[simp] theorem ety_emitOne : (emitOne vd w sr f c i).ety vd = c.ety vd := by
  rw [Ctx.ety, vr_emitOne]; rfl

variable {vd c}

theorem raw_emitOne {ty : ETy} (h : c.ety vd = some ty) (hwf : wfBytes (c.vr vd).data = true) (j : Nat) :
    (emitOne vd ty.bits sr f c i).raw vd j = if j = i then (f i).1 % 2 ^ ty.bits else c.raw vd j := by
  rw [Ctx.raw_of_ety h, Ctx.raw_of_ety ((ety_emitOne vd ty.bits sr f c i).trans h), vr_emitOne]
  exact rawAt_putRaw hwf (etyOf_bits h) i j _

end

/-- Writing the results of a list of elements writes those elements and raises their flags. -/
theorem writesElems_emitAll {vd : VReg5} {ty : ETy} (sr : Bool) (f : Nat → Nat × Flags) (is : List Nat) {c : Ctx}
    (h : c.ety vd = some ty) (hwf : wfBytes (c.vr vd).data = true) :
    WritesElems c (emitAll vd ty.bits sr f is c) vd ty.bits is f := by
  induction is generalizing c with
  | nil => exact ⟨fun _ hj => absurd hj List.not_mem_nil, fun _ _ => rfl, fun _ _ => (Bool.or_false _).symm⟩
  | cons i is ih =>
    obtain ⟨hin, hout, hfl⟩ := ih (c := emitOne vd ty.bits sr f c i) (by simpa using h)
      (by simpa using wfBytes_putRaw hwf _ _ _)
    refine ⟨fun j hj => ?_, fun j hj => ?_, fun k hk => ?_⟩
    · by_cases hmem : j ∈ is
      · exact hin j hmem
      · have hji : j = i := (List.mem_cons.1 hj).resolve_right hmem
        exact (hout j hmem).trans (by rw [raw_emitOne sr f i h hwf, if_pos hji, hji])
    · rw [List.mem_cons, not_or] at hj
      exact (hout j hj.2).trans (by rw [raw_emitOne sr f i h hwf, if_neg hj.1])
    · refine (hfl k hk).trans ?_
      simp [hk, show k < 64 by omega, Bool.or_assoc]

theorem writesElems_emitAll_fillReg {vd : VReg5} {ty : ETy} (sr : Bool) (f : Nat → Nat × Flags) (is : List Nat) {c : Ctx}
    (h : c.ety vd = some ty) (hwf : wfBytes (c.vr vd).data = true) :
    WritesElems c ((emitAll vd ty.bits sr f is c).fillReg vd) vd ty.bits is f := by
  have hw := writesElems_emitAll sr f is h hwf
  simp only [WritesElems, Ctx.raw_fillReg_same, Ctx.u_fillReg]
  exact hw

theorem mem_enabled {c : Ctx} {m : MReg3} {lo hi i : Nat} : i ∈ c.enabled m lo hi ↔ lo ≤ i ∧ i < hi ∧ c.mbit m i = true := by
  rw [Ctx.enabled, List.mem_filter, mem_upFrom, ← and_assoc]
  exact and_congr_left fun _ => by omega

/-! ## The elementwise forms (R129, R130, R132, R142, R144, R156) -/

section
variable (vs1 vd : VReg5) (q : Src2) (v : VEnv) {c : Ctx}

variable (hwf : wfBytes (c.vr vd).data = true)
include hwf

theorem writesElems_binEffect_int {t : IntTy} (h : c.ety vd = some (.int t)) (o : BinOp) :
    WritesElems c (binEffect o vs1 vd q v c) vd t.w (c.enabled v.m v.es v.vl) fun i =>
      intBin o t (c.ival vs1 i) (q.int c v t i) (c.ival vd i) := by
  simp only [binEffect, h]
  exact writesElems_emitAll_fillReg (ty := .int t) _ _ _ h hwf

theorem writesElems_binEffect_flt {f : FFmt} (h : c.ety vd = some (.flt f)) (o : BinOp) :
    WritesElems c (binEffect o vs1 vd q v c) vd f.width (c.enabled v.m v.es v.vl) fun i =>
      fltBin o f (rndOf v.mode v.vxctl c.sr i) (c.fval vs1 i) (q.flt c v f i) (c.fval vd i) := by
  simp only [binEffect, h]
  exact writesElems_emitAll_fillReg (ty := .flt f) _ _ _ h hwf

theorem writesElems_unaryEffect_int {t : IntTy} (h : c.ety vd = some (.int t)) (o : UnOp) :
    WritesElems c (unaryEffect o vs1 vd v c) vd t.w (c.enabled v.m v.es v.vl) fun i => intUn o t (c.ival vs1 i) := by
  simp only [unaryEffect, h]
  exact writesElems_emitAll_fillReg (ty := .int t) _ _ _ h hwf

theorem writesElems_unaryEffect_flt {f : FFmt} (h : c.ety vd = some (.flt f)) (o : UnOp) :
    WritesElems c (unaryEffect o vs1 vd v c) vd f.width (c.enabled v.m v.es v.vl) fun i =>
      fltUn o f (rndOf v.mode v.vxctl c.sr i) (Config.pick (v.draw + i)) (c.fval vs1 i) := by
  simp only [unaryEffect, h]
  exact writesElems_emitAll_fillReg (ty := .flt f) _ _ _ h hwf

theorem writesElems_mergeEffect_int {t : IntTy} (h : c.ety vd = some (.int t)) :
    WritesElems c (mergeEffect vs1 vd q v c) vd t.w (upFrom v.es (v.vl - v.es)) fun i =>
      (t.bits (if c.mbit v.m i then c.ival vs1 i else q.int c v t i), 0) := by
  simp only [mergeEffect, h]
  exact writesElems_emitAll_fillReg (ty := .int t) _ _ _ h hwf

theorem writesElems_mergeEffect_flt {f : FFmt} (h : c.ety vd = some (.flt f)) :
    WritesElems c (mergeEffect vs1 vd q v c) vd f.width (upFrom v.es (v.vl - v.es)) fun i =>
      f.rne (if c.mbit v.m i then c.fval vs1 i else q.flt c v f i) := by
  simp only [mergeEffect, h]
  exact writesElems_emitAll_fillReg (ty := .flt f) _ _ _ h hwf

theorem writesElems_movEffect (h : (c.ety vd).isSome = true) :
    WritesElems c (movEffect vs1 vd v c) vd (c.width vd) (c.enabled v.m v.es v.vl) (moveElem c vd vs1) := by
  obtain ⟨ty, hty⟩ := Option.isSome_iff_exists.1 h
  rw [movEffect, Ctx.width_of_ety hty]
  exact writesElems_emitAll_fillReg _ _ _ hty hwf

theorem writesElems_cvtEffect (h : (c.ety vd).isSome = true) (o : CvtOp) :
    WritesElems c (cvtEffect o vs1 vd v c) vd (c.width vd) (c.enabled v.m v.es v.vl) fun i =>
      cvtElem c vd vs1 (rndOf (o.mode.getD v.mode) v.vxctl c.sr i) o.sat i := by
  obtain ⟨ty, hty⟩ := Option.isSome_iff_exists.1 h
  simp only [cvtEffect, Ctx.width_of_ety hty]
  exact writesElems_emitAll_fillReg _ _ _ hty hwf

end

end Sys2Proof.Machine
end

section
/-! SUPPORT. Integer types and operations as numbers (R57, Table 3.3, Table 6.2), and a float value converted to an integer (R69). -/

namespace Sys2Proof.Machine

/-! ## Integer types -/

namespace IntTy

variable (t : IntTy) (x : Int)

@[simp] theorem bits_cast : ((t.bits x : Nat) : Int) = x % 2 ^ t.w :=
  Int.toNat_of_nonneg (Int.emod_nonneg x (by positivity))

theorem bits_lt : t.bits x < 2 ^ t.w := by
  have h : ((t.bits x : Nat) : Int) < 2 ^ t.w := by
    rw [bits_cast]
    exact Int.emod_lt_of_pos x (by positivity)
  exact_mod_cast h

theorem fits_iff : t.fits x = true ↔ t.min ≤ x ∧ x ≤ t.max := by simp [fits]

theorem wrap_eq : t.wrap x = (t.bits x, if t.fits x then 0 else flIO) := by
  unfold wrap flagIf
  cases t.fits x <;> rfl

theorem wrap_flags : (t.wrap x).2 = if t.min ≤ x ∧ x ≤ t.max then 0 else flIO := by
  rw [wrap_eq]; simp only [fits_iff]

theorem min_le_max : t.min ≤ t.max := by
  have hpos : (0 : Int) < 2 ^ (t.w - 1) := by positivity
  have hpos' : (0 : Int) < 2 ^ t.w := by positivity
  unfold min max
  split <;> omega

theorem sat_eq : t.sat x = (t.bits (Max.max t.min (Min.min t.max x)), if t.fits x then 0 else flIO) := by
  have hmm := t.min_le_max
  have hclamp : (if x < t.min then t.min else if t.max < x then t.max else x) = Max.max t.min (Min.min t.max x) := by
    split <;> [skip; split] <;> omega
  unfold sat flagIf
  rw [hclamp]
  cases t.fits x <;> rfl

end IntTy

/-! ## The integer operations (Table 3.3, Table 6.2) -/

section
variable (t : IntTy) (a b d : Int)

theorem intBin_div_zero : intBin .div t a 0 d = (2 ^ t.w - 1, flDZ) := by
  show t.div a 0 = _
  exact if_pos rfl

theorem intBin_div {b : Int} (hb : b ≠ 0) : intBin .div t a b d =
    (t.bits (a.tdiv b), flagIf (t.signed && decide (a = t.min) && decide (b = -1)) flIO) := by
  show t.div a b = _
  exact if_neg hb

/-- The most negative number divided by −1 wraps to itself, with IO. -/
theorem intBin_div_overflow (hw : 1 ≤ t.w) (hs : t.signed = true) : intBin .div t t.min (-1) d = (2 ^ (t.w - 1), flIO) := by
  have hmin : t.min = -2 ^ (t.w - 1) := if_pos hs
  have hlt : (2 : Int) ^ (t.w - 1) < 2 ^ t.w := pow_lt_pow_right₀ (by norm_num) (by omega)
  rw [intBin_div t t.min d (by decide), hs]
  refine Prod.ext ?_ (by simp [flagIf])
  have hbits : ((t.bits (t.min.tdiv (-1)) : Nat) : Int) = 2 ^ (t.w - 1) := by
    rw [IntTy.bits_cast, hmin, Int.tdiv_neg, Int.tdiv_one, neg_neg, Int.emod_eq_of_lt (by positivity) hlt]
  exact_mod_cast hbits

/-- The shift amount is taken modulo the width. -/
theorem intBin_shl : ((intBin .shl t a b d).1 : Int) = a * 2 ^ (b % t.w).toNat % 2 ^ t.w := by
  show ((t.bits ((t.bits a : Nat) * 2 ^ (b % t.w).toNat) : Nat) : Int) = _
  rw [IntTy.bits_cast, IntTy.bits_cast, Int.mul_emod, Int.emod_emod, ← Int.mul_emod]

/-- Every integer result is one of vd's width. -/
theorem intBin_lt (o : BinOp) : (intBin o t a b d).1 < 2 ^ t.w := by
  have hbits := t.bits_lt
  cases o with
  | add | sub | mul | mac | min | max => exact hbits _
  | shl => exact hbits (t.bits a * 2 ^ (b % t.w).toNat : Nat)
  | shr => exact hbits (t.val (t.bits a) / 2 ^ (b % t.w).toNat)
  | and => exact Nat.and_lt_two_pow _ (hbits b)
  | or => exact Nat.or_lt_two_pow (hbits a) (hbits b)
  | xor => exact Nat.xor_lt_two_pow (hbits a) (hbits b)
  | div =>
    by_cases hb : b = 0
    · rw [hb, intBin_div_zero]
      exact Nat.sub_one_lt (by positivity)
    · rw [intBin_div t a d hb]
      exact hbits _

end

theorem upFrom_succ (a n : Nat) : upFrom (a + 1) n = (upFrom a n).map (· + 1) := by
  induction n generalizing a with
  | zero => rfl
  | succ n ih => rw [upFrom, upFrom, List.map_cons, ih]

theorem popBits_eq (w n : Nat) : popBits w n = ((upFrom 0 w).filter fun i => n.testBit i).length := by
  induction w generalizing n with
  | zero => rfl
  | succ w ih =>
    have htail : (upFrom 1 w).filter (fun i => n.testBit i) = ((upFrom 0 w).filter fun i => (n / 2).testBit i).map (· + 1) := by
      rw [upFrom_succ 0 w, List.filter_map]
      simp only [Function.comp_def, Nat.testBit_succ]
    rw [popBits, ih, upFrom, List.filter_cons, htail, Nat.testBit_zero]
    rcases Nat.mod_two_eq_zero_or_one n with h | h <;> simp [h, Nat.add_comm]

/-- The leading bit stands just below the zeros that `clzBits` counts. -/
theorem clzBits_bounds {w n : Nat} (h0 : n ≠ 0) (hn : n < 2 ^ w) : 2 ^ (w - 1 - clzBits w n) ≤ n ∧ n < 2 ^ (w - clzBits w n) := by
  have hlog : n.log2 < w := (Nat.log2_lt h0).2 hn
  rw [clzBits, if_neg h0, show w - 1 - (w - 1 - n.log2) = n.log2 by omega, show w - (w - 1 - n.log2) = n.log2 + 1 by omega]
  exact ⟨Nat.log2_self_le h0, Nat.lt_log2_self⟩

/-! ## A float value to an integer (R69) -/

section
variable {rd : Rnd} (s : Bool) (n m : Nat) {e q : Int}

/-- An exact magnitude is never moved to the next one, in any mode. -/
theorem roundUp_exact (h : rd.r < 2 ^ rd.k) : roundUp rd s n 0 0 false = false := by
  unfold roundUp
  split <;> simp [Nat.div_eq_of_lt h]

/-- A magnitude that is a multiple of the quantum stays as it is (R66). -/
theorem roundQuantum_of_le (h : rd.r < 2 ^ rd.k) (hq : q ≤ e) :
    roundQuantum rd s m e q false = (m * 2 ^ (e - q).toNat, false) := by
  rw [roundQuantum, if_neg (by omega)]
  simp [roundUp_exact s _ h, shiftUp]

theorem roundQuantum_rtz (hrd : rd.mode = .rtz) (hq : e < q) :
    roundQuantum rd s m e q false = (m / 2 ^ (q - e).toNat, decide (m % 2 ^ (q - e).toNat ≠ 0)) := by
  simp [roundQuantum, hq, roundUp, hrd]

variable {n m}

/-- An integer result saturates; it is NX where the rounding was inexact and NV where it does not fit. -/
theorem IntTy.ofFloat_fin (t : IntTy) {ix : Bool} {x : Int} (hr : roundQuantum rd s m e 0 false = (n, ix))
    (hx : (if s then -1 else 1) * (n : Int) = x) : t.ofFloat rd (.fin s m e) =
      (t.bits (Max.max t.min (Min.min t.max x)), if t.fits x then flagIf ix flNX else flNV) := by
  have hx' : (if s then -(n : Int) else n) = x := by rw [← hx]; cases s <;> simp
  have hmm := t.min_le_max
  simp only [IntTy.ofFloat, hr, hx']
  by_cases hfit : t.fits x = true
  · obtain ⟨hlo, hhi⟩ := (t.fits_iff x).1 hfit
    rw [if_pos hfit, if_pos hfit, min_eq_right hhi, max_eq_right hlo]
  · rw [if_neg hfit, if_neg hfit]
    have hclamp : (if x < t.min then t.min else t.max) = Max.max t.min (Min.min t.max x) := by
      have := mt (t.fits_iff x).2 hfit
      split <;> omega
    rw [hclamp]

/-- An integral value in range is converted exactly, in any mode. -/
theorem IntTy.ofFloat_integral (t : IntTy) (hrd : rd.r < 2 ^ rd.k) (he : 0 ≤ e) {x : Int}
    (hx : (if s then -1 else 1) * ((m : Int) * 2 ^ e.toNat) = x) : t.ofFloat rd (.fin s m e) =
      (t.bits (Max.max t.min (Min.min t.max x)), if t.fits x then 0 else flNV) :=
  t.ofFloat_fin s (roundQuantum_of_le s m hrd he) (by rw [← hx, sub_zero]; push_cast; rfl)

/-- RTZ cuts the fraction off, with NX where it was not zero. -/
theorem IntTy.ofFloat_rtz (t : IntTy) (hrd : rd.mode = .rtz) (he : e < 0) {x : Int}
    (hx : (if s then -1 else 1) * ((m / 2 ^ (-e).toNat : Nat) : Int) = x) : t.ofFloat rd (.fin s m e) =
      (t.bits (Max.max t.min (Min.min t.max x)),
        if t.fits x then if m % 2 ^ (-e).toNat = 0 then 0 else flNX else flNV) := by
  have hr := roundQuantum_rtz s m hrd he
  rw [zero_sub] at hr
  rw [t.ofFloat_fin s hr hx]
  simp [flagIf]

/-- A conversion to the same float format copies the bits, but for NaN, which becomes canonical. -/
theorem cvtBits_same (f : FFmt) (b : Nat) (a : Int) (v : FVal) :
    cvtBits (.flt f) (.flt f) rd false b a v = (if v.isNan then f.nanBits else b, 0) := if_pos ⟨rfl, rfl⟩

end

end Sys2Proof.Machine
end

section
/-! SUPPORT. Finite float values as rational numbers: exact arithmetic (R67, R70, R130), the order of values, and the integer square root. -/

namespace Sys2Proof.Machine

/-! ## Finite values as numbers -/

section
variable (s t : Bool) (m n : Nat) (e d : Int)

theorem rat_fin : (FVal.fin s m e).rat = (if s then -1 else 1) * (m : ℚ) * 2 ^ e := rfl

@[simp] theorem rat_fin_false : (FVal.fin false m e).rat = m * 2 ^ e := by simp [rat_fin]

@[simp] theorem rat_fin_true : (FVal.fin true m e).rat = -(m * 2 ^ e) := by simp [rat_fin]

theorem eq_fin_of_finite {v : FVal} (h : v.finite = true) : ∃ s m e, v = .fin s m e := by
  cases v with
  | nan | inf => cases h
  | fin s m e => exact ⟨s, m, e, rfl⟩

/-- An integer in units of 2^e0 is the value it was scaled from. -/
theorem scaledInt_mul {e e0 : Int} (h : e0 ≤ e) : (scaledInt s m e e0 : ℚ) * 2 ^ e0 = (FVal.fin s m e).rat := by
  have hpow : (2 : ℚ) ^ (e - e0).toNat * 2 ^ e0 = 2 ^ e := by
    rw [← zpow_natCast, Int.toNat_of_nonneg (by omega), ← zpow_add₀ (by norm_num), sub_add_cancel]
  cases s <;> simp [scaledInt, shiftUp, mul_assoc, hpow]

theorem rat_ofScaled (x : Int) (z : Bool) : (ofScaled x e z).rat = x * 2 ^ e := by
  unfold ofScaled
  split
  · next h => simp [rat_fin, h]
  · rcases lt_or_ge x 0 with h | h
    · simp [h, abs_of_neg]
    · simp [h.not_gt, abs_of_nonneg h]

theorem finite_ofScaled (x : Int) (z : Bool) : (ofScaled x e z).finite = true := by
  unfold ofScaled
  split <;> rfl

theorem rat_negate (a : FVal) : a.negate.rat = -a.rat := by
  cases a with
  | nan | inf => exact neg_zero.symm
  | fin s m e => cases s <;> simp [FVal.negate]

/-! ## Exact arithmetic (R67, R70) -/

theorem fadd_exact (md : RMode) {a b : FVal} (ha : a.finite = true) (hb : b.finite = true) :
    (fadd md a b).1.rat = a.rat + b.rat ∧ (fadd md a b).1.finite = true := by
  obtain ⟨s, m, e, rfl⟩ := eq_fin_of_finite ha
  obtain ⟨t, n, d, rfl⟩ := eq_fin_of_finite hb
  refine ⟨?_, finite_ofScaled _ _ _⟩
  rw [fadd, rat_ofScaled]
  push_cast
  rw [add_mul, scaledInt_mul s m (min_le_left e d), scaledInt_mul t n (min_le_right e d)]

theorem fmul_exact {a b : FVal} (ha : a.finite = true) (hb : b.finite = true) :
    (fmul a b).1.rat = a.rat * b.rat ∧ (fmul a b).1.finite = true := by
  obtain ⟨s, m, e, rfl⟩ := eq_fin_of_finite ha
  obtain ⟨t, n, d, rfl⟩ := eq_fin_of_finite hb
  refine ⟨?_, rfl⟩
  have hsign : (if (s != t) = true then (-1 : ℚ) else 1) = (if s then -1 else 1) * (if t then -1 else 1) := by
    cases s <;> cases t <;> norm_num
  rw [fmul, rat_fin, rat_fin, rat_fin, hsign]
  by_cases hzero : m * n = 0
  · rcases Nat.mul_eq_zero.1 hzero with h | h <;> simp [h]
  · rw [if_neg hzero, zpow_add₀ (by norm_num)]
    push_cast
    ring

theorem ffma_exact (md : RMode) {a b d : FVal} (ha : a.finite = true) (hb : b.finite = true) (hd : d.finite = true) :
    (ffma md d a b).1.rat = d.rat + a.rat * b.rat ∧ (ffma md d a b).1.finite = true := by
  obtain ⟨hmul, hfin⟩ := fmul_exact ha hb
  have hadd := fadd_exact md hd hfin
  obtain ⟨s, m, e, rfl⟩ := eq_fin_of_finite hd
  rwa [hmul] at hadd

/-- A non-zero finite number divided by zero is an infinity, with DZ. -/
theorem fdiv_by_zero {a b : FVal} (ha : a.finite = true) (hz : b.isZero = true) (hnz : a.isZero = false) :
    (fdiv a b).2.2 = flDZ ∧ (fdiv a b).1.isInf = true := by
  obtain ⟨s, m, e, rfl⟩ := eq_fin_of_finite ha
  cases m with
  | zero => cases hnz
  | succ m =>
    match b, hz with
    | .fin t 0 d, _ => exact ⟨rfl, rfl⟩

/-! ## The order of values -/

theorem fcmp_fin {a b : FVal} (ha : a.finite = true) (hb : b.finite = true) : fcmp a b = compare a.rat b.rat := by
  obtain ⟨s, m, e, rfl⟩ := eq_fin_of_finite ha
  obtain ⟨t, n, d, rfl⟩ := eq_fin_of_finite hb
  have hpos : (0 : ℚ) < 2 ^ min e d := by positivity
  rw [← scaledInt_mul s m (min_le_left e d), ← scaledInt_mul t n (min_le_right e d)]
  show compare (scaledInt s m e (min e d)) (scaledInt t n d (min e d)) = _
  rcases lt_trichotomy (scaledInt s m e (min e d)) (scaledInt t n d (min e d)) with h | h | h
  · rw [compare_lt_iff_lt.2 h, eq_comm, compare_lt_iff_lt]
    exact mul_lt_mul_of_pos_right (by exact_mod_cast h) hpos
  · rw [h, compare_eq_iff_eq.2 rfl, compare_eq_iff_eq.2 rfl]
  · rw [compare_gt_iff_gt.2 h, eq_comm, compare_gt_iff_gt]
    exact mul_lt_mul_of_pos_right (by exact_mod_cast h) hpos

theorem fcmp_ne_gt {a b : FVal} (ha : a.finite = true) (hb : b.finite = true) (h : a.rat ≤ b.rat) : fcmp a b ≠ .gt := by
  rw [fcmp_fin ha hb]
  exact compare_le_iff_le.2 h

theorem fcmp_ne_lt {a b : FVal} (ha : a.finite = true) (hb : b.finite = true) (h : b.rat ≤ a.rat) : fcmp a b ≠ .lt := by
  rw [fcmp_fin ha hb, Ne, compare_lt_iff_lt]
  exact h.not_gt

theorem fcmp_neg_inf {b : FVal} (hb : b.finite = true) : fcmp (.inf true) b = .lt := by
  obtain ⟨t, n, d, rfl⟩ := eq_fin_of_finite hb
  rfl

theorem fcmp_pos_inf {b : FVal} (hb : b.finite = true) : fcmp (.inf false) b = .gt := by
  obtain ⟨t, n, d, rfl⟩ := eq_fin_of_finite hb
  rfl

end

/-! ## The integer square root (Table 3.8) -/

/-- With n between r² and (r + 2^k)², k more bits are enough. -/
theorem isqrt_spec {n k r : Nat} (hlo : r * r ≤ n) (hhi : n < (r + 2 ^ k) * (r + 2 ^ k)) :
    isqrt n k r * isqrt n k r ≤ n ∧ n < (isqrt n k r + 1) * (isqrt n k r + 1) := by
  induction k generalizing r with
  | zero => exact ⟨hlo, hhi⟩
  | succ k ih =>
    rw [isqrt]
    split
    · next h => exact ih h (by rwa [add_assoc, ← two_mul, ← pow_succ'])
    · next h => exact ih hlo (Nat.lt_of_not_le h)

theorem lt_two_pow_half_log2 (n : Nat) : n < 2 ^ (n.log2 / 2 + 1) * 2 ^ (n.log2 / 2 + 1) := by
  rw [← pow_add]
  exact Nat.lt_log2_self.trans_le (Nat.pow_le_pow_right (by norm_num) (by omega))

end Sys2Proof.Machine
end

section
/-! SUPPORT. A magnitude rounded to a quantum (R66, R68), and the forms that a format with infinities stores (R52, R53). -/

namespace Sys2Proof.Machine

/-! ## A magnitude rounded to a multiple of a quantum (R66) -/

/-- A magnitude in units of a smaller power of two. -/
theorem mag_eq_of_le (m : Nat) {e q : Int} (h : q ≤ e) : (m : ℚ) * 2 ^ e = (m * 2 ^ (e - q).toNat : Nat) * 2 ^ q := by
  have hpow : (2 : ℚ) ^ (e - q).toNat * 2 ^ q = 2 ^ e := by
    rw [← zpow_natCast, Int.toNat_of_nonneg (by omega), ← zpow_add₀ (by norm_num), sub_add_cancel]
  push_cast
  rw [mul_assoc, hpow]

theorem mag_le_mag {m n : Nat} {q : Int} : (m : ℚ) * 2 ^ q ≤ n * 2 ^ q ↔ m ≤ n := by
  rw [mul_le_mul_iff_left₀ (by positivity), Nat.cast_le]

theorem mag_lt_mag {m n : Nat} {q : Int} : (m : ℚ) * 2 ^ q < n * 2 ^ q ↔ m < n := by
  rw [mul_lt_mul_iff_left₀ (by positivity), Nat.cast_lt]

section
variable {rd : Rnd} {s : Bool} {m N : Nat} {e q : Int}

/-- Below the quantum a magnitude is cut to the multiple under it, or moved to the next one. -/
theorem roundQuantum_of_lt (h : e < q) : (roundQuantum rd s m e q false).1 =
    if roundUp rd s (m / 2 ^ (q - e).toNat) (m % 2 ^ (q - e).toNat) (q - e).toNat false then m / 2 ^ (q - e).toNat + 1
    else m / 2 ^ (q - e).toNat := by
  rw [roundQuantum, if_pos h]

theorem le_roundQuantum (hrd : rd.r < 2 ^ rd.k) (h : (N : ℚ) * 2 ^ q ≤ m * 2 ^ e) :
    N ≤ (roundQuantum rd s m e q false).1 := by
  rcases le_or_gt q e with hqe | hqe
  · rw [mag_eq_of_le m hqe, mag_le_mag] at h
    rwa [roundQuantum_of_le s m hrd hqe]
  · rw [mag_eq_of_le N hqe.le, mag_le_mag] at h
    have hN : N ≤ m / 2 ^ (q - e).toNat := (Nat.le_div_iff_mul_le (by positivity)).2 h
    rw [roundQuantum_of_lt hqe]
    split <;> omega

theorem roundQuantum_le (hrd : rd.r < 2 ^ rd.k) (h : (m : ℚ) * 2 ^ e < N * 2 ^ q) :
    (roundQuantum rd s m e q false).1 ≤ N := by
  rcases le_or_gt q e with hqe | hqe
  · rw [mag_eq_of_le m hqe, mag_lt_mag] at h
    rw [roundQuantum_of_le s m hrd hqe]
    exact h.le
  · rw [mag_eq_of_le N hqe.le, mag_lt_mag] at h
    have hN : m / 2 ^ (q - e).toNat < N := (Nat.div_lt_iff_lt_mul (by positivity)).2 h
    rw [roundQuantum_of_lt hqe]
    split <;> omega

end

/-! ## The directed modes: RUP and RDN -/

/-- RUP or RDN. -/
def directed (up : Bool) : Rnd := ⟨if up then .rup else .rdn, 0, 0⟩

section
variable {up s : Bool} {m : Nat} {e q : Int}

theorem directed_exact : (directed up).r < 2 ^ (directed up).k := Nat.one_pos

/-- A directed mode moves an inexact magnitude up exactly where that is its direction. -/
theorem roundUp_directed (n rem d : Nat) :
    roundUp (directed up) s n rem d false = (decide (s ≠ up) && decide (rem ≠ 0)) := by
  cases up <;> cases s <;> simp [roundUp, directed]

theorem roundQuantum_toward (h : s = up) :
    ((roundQuantum (directed up) s m e q false).1 : ℚ) * 2 ^ q ≤ m * 2 ^ e := by
  rcases le_or_gt q e with hqe | hqe
  · rw [roundQuantum_of_le s m directed_exact hqe, mag_eq_of_le m hqe]
  · rw [roundQuantum_of_lt hqe, roundUp_directed, mag_eq_of_le _ hqe.le, mag_le_mag]
    simpa [h] using Nat.div_mul_le_self m _

theorem roundQuantum_away (h : s ≠ up) :
    (m : ℚ) * 2 ^ e ≤ (roundQuantum (directed up) s m e q false).1 * 2 ^ q := by
  rcases le_or_gt q e with hqe | hqe
  · rw [roundQuantum_of_le s m directed_exact hqe, mag_eq_of_le m hqe]
  · rw [roundQuantum_of_lt hqe, roundUp_directed, mag_eq_of_le _ hqe.le, mag_le_mag]
    have hdiv := Nat.div_add_mod' m (2 ^ (q - e).toNat)
    have hmod := Nat.mod_lt m (show 0 < 2 ^ (q - e).toNat by positivity)
    by_cases hrem : m % 2 ^ (q - e).toNat = 0
    · simp [hrem]; omega
    · simp only [h, hrem, ne_eq, not_false_eq_true, decide_true, Bool.and_self, if_true, add_mul, one_mul]
      omega

theorem roundQuantum_rdn_le :
    (FVal.fin s (roundQuantum (directed false) s m e q false).1 q).rat ≤ (FVal.fin s m e).rat := by
  cases s with
  | false => simpa using roundQuantum_toward (m := m) (e := e) (q := q) (rfl : false = false)
  | true => simpa using roundQuantum_away (m := m) (e := e) (q := q) (by decide : true ≠ false)

theorem le_roundQuantum_rup :
    (FVal.fin s m e).rat ≤ (FVal.fin s (roundQuantum (directed true) s m e q false).1 q).rat := by
  cases s with
  | false => simpa using roundQuantum_away (m := m) (e := e) (q := q) (by decide : false ≠ true)
  | true => simpa using roundQuantum_toward (m := m) (e := e) (q := q) (rfl : true = true)

end

/-! ## The float formats with infinities (R52, R53) -/

namespace FFmt

/-- A format whose greatest exponent field is that of infinities and NaN, so that its largest number is just below them. -/
structure WithInf (f : FFmt) : Prop where
  hasInf : f.hasInf = true
  two_le_ebits : 2 ≤ f.ebits
  maxBits : f.maxBits = (2 ^ f.ebits - 1) * 2 ^ f.mbits - 1

theorem withInf_of_mem {f : FFmt} (h : f ∈ [fp32, bf16, fp16, e5m2]) : f.WithInf := by
  simp only [List.mem_cons, List.not_mem_nil, or_false] at h
  rcases h with rfl | rfl | rfl | rfl <;> exact ⟨rfl, by decide, by decide⟩

/-- The exponent of the quantum of the largest numbers. -/
def qmax (f : FFmt) : Int := f.qmin + (2 ^ f.ebits - 3 : Nat)

/-- A significand and a quantum in the one form a format stores: normal, or in units of the least quantum. -/
structure Canonical (f : FFmt) (n : Nat) (q : Int) : Prop where
  lt : n < 2 ^ (f.mbits + 1)
  qmin_le : f.qmin ≤ q
  subnormal : n < 2 ^ f.mbits → q = f.qmin

/-- A stored form in the format's range. -/
structure Represents (f : FFmt) (n : Nat) (q : Int) : Prop extends f.Canonical n q where
  le_qmax : q ≤ f.qmax

variable {f : FFmt} {s : Bool} {n frac ex b : Nat} {q : Int}

theorem width_eq : f.width = f.mbits + f.ebits + 1 := by rw [width]; omega

theorem signBit_eq (s : Bool) : f.signBit s = s.toNat * 2 ^ f.ebits * 2 ^ f.mbits := by
  cases s <;> simp [signBit, pow_add, mul_comm]

/-- The bits of a format are a sign, an exponent field and a fraction. -/
theorem decode_fields (hfrac : frac < 2 ^ f.mbits) (hex : ex < 2 ^ f.ebits) :
    f.decode (f.signBit s + (frac + ex * 2 ^ f.mbits)) =
      if ex = 2 ^ f.ebits - 1 ∧ f.hasInf then if frac = 0 then .inf s else .nan
      else if ¬f.hasInf ∧ ex = 2 ^ f.ebits - 1 ∧ frac = 2 ^ f.mbits - 1 then .nan
      else if ex = 0 then .fin s frac f.qmin
      else .fin s (2 ^ f.mbits + frac) (f.qmin + (ex - 1)) := by
  have hb : f.signBit s + (frac + ex * 2 ^ f.mbits) = frac + (ex + s.toNat * 2 ^ f.ebits) * 2 ^ f.mbits := by
    rw [signBit_eq]; ring
  have hdiv : (frac + (ex + s.toNat * 2 ^ f.ebits) * 2 ^ f.mbits) / 2 ^ f.mbits = ex + s.toNat * 2 ^ f.ebits := by
    rw [Nat.add_mul_div_right _ _ (by positivity), Nat.div_eq_of_lt hfrac, Nat.zero_add]
  have hneg : (ex + s.toNat * 2 ^ f.ebits) / 2 ^ f.ebits = s.toNat := by
    rw [Nat.add_mul_div_right _ _ (by positivity), Nat.div_eq_of_lt hex, Nat.zero_add]
  have hs : decide (s.toNat % 2 = 1) = s := by cases s <;> rfl
  rw [hb, decode]
  simp only [hdiv, Nat.add_mul_mod_self_right, Nat.mod_eq_of_lt hfrac, Nat.mod_eq_of_lt hex, pow_add, ← Nat.div_div_eq_div_mul,
    hneg, hs]

/-- The three fields of any bits. -/
theorem exists_fields (hb : b < 2 ^ f.width) : ∃ (s : Bool) (frac ex : Nat), frac < 2 ^ f.mbits ∧ ex < 2 ^ f.ebits
    ∧ b = f.signBit s + (frac + ex * 2 ^ f.mbits) := by
  have hsign : b / 2 ^ f.mbits / 2 ^ f.ebits < 2 := by
    rw [Nat.div_div_eq_div_mul, ← pow_add]
    refine (Nat.div_lt_iff_lt_mul (by positivity)).2 ?_
    rwa [width_eq, pow_succ'] at hb
  refine ⟨decide (b / 2 ^ f.mbits / 2 ^ f.ebits = 1), b % 2 ^ f.mbits, b / 2 ^ f.mbits % 2 ^ f.ebits, Nat.mod_lt _ (by positivity),
    Nat.mod_lt _ (by positivity), ?_⟩
  have hnat : (decide (b / 2 ^ f.mbits / 2 ^ f.ebits = 1)).toNat = b / 2 ^ f.mbits / 2 ^ f.ebits := by
    rcases Nat.le_one_iff_eq_zero_or_eq_one.1 (Nat.lt_succ_iff.1 hsign) with h | h <;> simp [h]
  have hlow := Nat.div_add_mod' b (2 ^ f.mbits)
  have hhigh := Nat.div_add_mod' (b / 2 ^ f.mbits) (2 ^ f.ebits)
  rw [signBit_eq, hnat]
  calc b = (b / 2 ^ f.mbits / 2 ^ f.ebits * 2 ^ f.ebits + b / 2 ^ f.mbits % 2 ^ f.ebits) * 2 ^ f.mbits + b % 2 ^ f.mbits := by
        rw [hhigh, hlow]
    _ = _ := by ring

namespace WithInf

variable (hf : f.WithInf)
include hf

theorem four_le_pow : 4 ≤ 2 ^ f.ebits := Nat.pow_le_pow_right (by norm_num : 0 < 2) hf.two_le_ebits

theorem decode_subnormal (h : n < 2 ^ f.mbits) : f.decode (f.signBit s + n) = .fin s n f.qmin := by
  have h4 := hf.four_le_pow
  have hd := decode_fields (f := f) (s := s) h (show 0 < 2 ^ f.ebits by positivity)
  rw [zero_mul, add_zero] at hd
  rw [hd, if_neg (by omega), if_neg (by simp [hf.hasInf]), if_pos rfl]

theorem decode_normal (h : frac < 2 ^ f.mbits) (h0 : ex ≠ 0) (hex : ex < 2 ^ f.ebits - 1) :
    f.decode (f.signBit s + (frac + ex * 2 ^ f.mbits)) = .fin s (2 ^ f.mbits + frac) (f.qmin + (ex - 1)) := by
  rw [decode_fields h (by omega), if_neg (by omega), if_neg (by simp [hf.hasInf]), if_neg h0]

theorem decode_infBits : f.decode (f.infBits s) = .inf s := by
  have h4 := hf.four_le_pow
  have hd := decode_fields (f := f) (s := s) (show 0 < 2 ^ f.mbits by positivity) (show 2 ^ f.ebits - 1 < 2 ^ f.ebits by omega)
  rw [zero_add] at hd
  rw [infBits, if_pos hf.hasInf, hd, if_pos ⟨rfl, hf.hasInf⟩, if_pos rfl]

/-- A stored form is read back. -/
theorem decode_encode (h : f.Represents n q) : f.decode (f.signBit s + f.encodeMag n q) = .fin s n q := by
  obtain ⟨⟨hlt, hge, hsub⟩, hle⟩ := h
  rw [encodeMag]
  split
  · next hn => rw [hf.decode_subnormal hn, hsub hn]
  · next hn =>
    have h4 := hf.four_le_pow
    rw [qmax] at hle
    rw [pow_succ] at hlt
    rw [hf.decode_normal (by omega) (by omega) (by omega)]
    congr 1 <;> omega

theorem exists_represents (hb : b < 2 ^ f.width) (hfin : (f.decode b).finite = true) :
    ∃ s n q, f.Represents n q ∧ b = f.signBit s + f.encodeMag n q := by
  obtain ⟨s, frac, ex, hfrac, hex, rfl⟩ := exists_fields hb
  have h4 := hf.four_le_pow
  have htop : ex ≠ 2 ^ f.ebits - 1 := by
    intro htop
    rw [decode_fields hfrac hex, if_pos ⟨htop, hf.hasInf⟩] at hfin
    split at hfin <;> cases hfin
  rcases Nat.eq_zero_or_pos ex with rfl | hpos
  · refine ⟨s, frac, f.qmin, ⟨⟨?_, le_refl _, fun _ => rfl⟩, ?_⟩, ?_⟩
    · rw [pow_succ]; omega
    · rw [qmax]; omega
    · rw [encodeMag, if_pos hfrac, zero_mul, add_zero]
  · refine ⟨s, 2 ^ f.mbits + frac, f.qmin + (ex - 1), ⟨⟨?_, by omega, fun h => by omega⟩, ?_⟩, ?_⟩
    · rw [pow_succ]; omega
    · rw [qmax]; omega
    · rw [encodeMag, if_neg (by omega), Nat.add_sub_cancel_left, show (f.qmin + ((ex : Int) - 1) - f.qmin).toNat + 1 = ex by omega]

theorem represents_max : f.Represents (2 ^ (f.mbits + 1) - 1) f.qmax := by
  have h4 := hf.four_le_pow
  have hB : 0 < 2 ^ f.mbits := by positivity
  refine ⟨⟨Nat.sub_one_lt (by positivity), by rw [qmax]; omega, fun h => ?_⟩, le_refl _⟩
  rw [pow_succ] at h
  omega

theorem maxBits_eq_encodeMag : f.maxBits = f.encodeMag (2 ^ (f.mbits + 1) - 1) f.qmax := by
  have h4 := hf.four_le_pow
  have hB : 0 < 2 ^ f.mbits := by positivity
  have hq : (f.qmax - f.qmin).toNat + 1 = 2 ^ f.ebits - 2 := by rw [qmax]; omega
  rw [hf.maxBits, encodeMag, if_neg (by rw [pow_succ]; omega), hq, pow_succ]
  have hsplit : (2 ^ f.ebits - 1) * 2 ^ f.mbits = (2 ^ f.ebits - 2) * 2 ^ f.mbits + 2 ^ f.mbits := by
    rw [← Nat.succ_mul]; congr 1; omega
  omega

theorem decode_maxOf : f.decode (f.maxOf s) = .fin s (2 ^ (f.mbits + 1) - 1) f.qmax := by
  rw [maxOf, hf.maxBits_eq_encodeMag, hf.decode_encode hf.represents_max]

theorem maxVal_eq : f.maxVal = .fin false (2 ^ (f.mbits + 1) - 1) f.qmax := by
  rw [← hf.decode_maxOf, maxVal, maxOf, signBit, if_neg (by decide), zero_add]

end WithInf
end FFmt
end Sys2Proof.Machine
end

section
/-! SUPPORT. Rounding into a format: a representable value stays as it is, RDN never gives more and RUP never less (R66 to R69); and the
element results. -/

namespace Sys2Proof.Machine

/-! ## Rounding into a format (R53, R54, R66 to R69) -/

namespace FFmt

/-- The quantum of the format at a magnitude. -/
def quantum (f : FFmt) (m : Nat) (e : Int) : Int := max f.qmin (e + m.log2 - f.mbits)

/-- A significand one past the greatest is the least of the next exponent. -/
def carry (f : FFmt) (n : Nat) (q : Int) : Nat × Int := if n = 2 ^ (f.mbits + 1) then (2 ^ f.mbits, q + 1) else (n, q)

variable {f : FFmt} {rd : Rnd} {s : Bool} {m n b : Nat} {e q : Int}

@[simp] theorem round_zero : f.round rd false (.fin s 0 e) false = (f.signBit s, 0) := by simp [round]

/-- A non-zero value is rounded to the quantum at its magnitude, carried, and stored where it is in range. -/
theorem round_fin (hm : m ≠ 0) : f.round rd false (.fin s m e) false =
    let r := roundQuantum rd s m e (f.quantum m e) false
    let p := f.carry r.1 (f.quantum m e)
    if fcmp f.maxVal (.fin false p.1 p.2) = .lt then (f.overflow rd s false, flOF ||| flNX)
    else (f.signBit s + f.encodeMag p.1 p.2,
      flagIf r.2 flNX ||| flagIf (r.2 && decide (0 < p.1) && decide (p.1 < 2 ^ f.mbits)) flUF) :=
  if_neg (by simp [hm])

/-- A directed mode overflows to the greatest number towards zero and to infinity away from it (Table 3.5). -/
theorem overflow_directed (up : Bool) : f.overflow (directed up) s false = if s = up then f.maxOf s else f.infBits s := by
  cases up <;> cases s <;> rfl

theorem carry_mag (n : Nat) (q : Int) : ((f.carry n q).1 : ℚ) * 2 ^ (f.carry n q).2 = n * 2 ^ q := by
  unfold carry
  split
  · next h =>
    rw [h, zpow_add₀ (by norm_num)]
    push_cast
    ring
  · rfl

theorem canonical_carry (hn : n ≤ 2 ^ (f.mbits + 1)) (hq : f.qmin ≤ q) (hsub : f.qmin < q → 2 ^ f.mbits ≤ n) :
    f.Canonical (f.carry n q).1 (f.carry n q).2 := by
  unfold carry
  have hB : 2 ^ f.mbits < 2 ^ (f.mbits + 1) := Nat.pow_lt_pow_succ (by norm_num)
  split
  · exact ⟨hB, hq.trans (Int.le_add_one le_rfl), fun h => absurd h (lt_irrefl _)⟩
  · next hne =>
    exact ⟨lt_of_le_of_ne hn hne, hq, fun hlt => le_antisymm (not_lt.1 fun hgt => (hsub hgt).not_gt hlt) hq⟩

theorem mag_lt_quantum : (m : ℚ) * 2 ^ e < (2 ^ (f.mbits + 1) : Nat) * 2 ^ f.quantum m e := by
  have hlog : (m : ℚ) < 2 ^ (m.log2 + 1) := by exact_mod_cast Nat.lt_log2_self
  calc (m : ℚ) * 2 ^ e < 2 ^ (m.log2 + 1) * 2 ^ e := by gcongr
    _ = 2 ^ ((m.log2 + 1 : Nat) + e : Int) := by rw [zpow_add₀ (by norm_num), zpow_natCast]
    _ ≤ 2 ^ ((f.mbits + 1 : Nat) + f.quantum m e : Int) := by
        refine zpow_le_zpow_right₀ (by norm_num) ?_
        unfold quantum; push_cast; omega
    _ = _ := by rw [zpow_add₀ (by norm_num), zpow_natCast]; push_cast; rfl

theorem quantum_le_mag (hm : m ≠ 0) (h : f.qmin < f.quantum m e) : ((2 ^ f.mbits : Nat) : ℚ) * 2 ^ f.quantum m e ≤ m * 2 ^ e := by
  have hlog : ((2 ^ m.log2 : Nat) : ℚ) ≤ m := by exact_mod_cast Nat.log2_self_le hm
  have hq : (f.mbits : Int) + f.quantum m e = m.log2 + e := by unfold quantum at h ⊢; omega
  calc ((2 ^ f.mbits : Nat) : ℚ) * 2 ^ f.quantum m e = 2 ^ ((f.mbits : Int) + f.quantum m e) := by
        rw [zpow_add₀ (by norm_num), zpow_natCast]; push_cast; rfl
    _ = (2 ^ m.log2 : Nat) * 2 ^ e := by rw [hq, zpow_add₀ (by norm_num), zpow_natCast]; push_cast; rfl
    _ ≤ m * 2 ^ e := by gcongr

/-- The rounded significand stands in the format's stored form. -/
theorem canonical_rounded (hrd : rd.r < 2 ^ rd.k) (hm : m ≠ 0) :
    let p := f.carry (roundQuantum rd s m e (f.quantum m e) false).1 (f.quantum m e)
    f.Canonical p.1 p.2 :=
  canonical_carry (roundQuantum_le hrd mag_lt_quantum) (le_max_left _ _) fun h => le_roundQuantum hrd (quantum_le_mag hm h)

theorem encodeMag_lt (h : f.Represents n q) (hf : f.WithInf) : f.encodeMag n q < 2 ^ (f.mbits + f.ebits) := by
  obtain ⟨⟨hlt, hge, hsub⟩, hle⟩ := h
  have h4 := hf.four_le_pow
  rw [qmax] at hle
  rw [pow_succ] at hlt
  have hex : (q - f.qmin).toNat + 1 + 1 ≤ 2 ^ f.ebits := by omega
  have hmul := Nat.mul_le_mul_right (2 ^ f.mbits) hex
  rw [add_mul _ 1, one_mul, mul_comm (2 ^ f.ebits), ← pow_add] at hmul
  unfold encodeMag
  split <;> omega

namespace WithInf

variable (hf : f.WithInf)
include hf

/-- The overflow test compares with the greatest quantum. -/
theorem overflow_iff (h : f.Canonical n q) : fcmp f.maxVal (.fin false n q) = .lt ↔ f.qmax < q := by
  obtain ⟨hlt, hge, hsub⟩ := h
  have hmax : f.qmin ≤ f.qmax := hf.represents_max.qmin_le
  rw [hf.maxVal_eq, fcmp_fin rfl rfl, compare_lt_iff_lt, rat_fin_false, rat_fin_false]
  constructor
  · refine fun h => not_le.1 fun hle => h.not_ge ?_
    calc (n : ℚ) * 2 ^ q ≤ (2 ^ (f.mbits + 1) - 1 : Nat) * 2 ^ q := mag_le_mag.2 (by omega)
      _ ≤ (2 ^ (f.mbits + 1) - 1 : Nat) * 2 ^ f.qmax := by gcongr; norm_num
  · intro h
    have hn : 2 ^ f.mbits ≤ n := not_lt.1 fun hn => by have := hsub hn; omega
    calc ((2 ^ (f.mbits + 1) - 1 : Nat) : ℚ) * 2 ^ f.qmax < (2 ^ (f.mbits + 1) : Nat) * 2 ^ f.qmax :=
          mag_lt_mag.2 (Nat.sub_one_lt (by positivity))
      _ = (2 ^ f.mbits : Nat) * 2 ^ (f.qmax + 1) := by rw [zpow_add₀ (by norm_num)]; push_cast; ring
      _ ≤ (2 ^ f.mbits : Nat) * 2 ^ q := by gcongr; norm_num; omega
      _ ≤ n * 2 ^ q := mag_le_mag.2 hn

/-- A representable value is rounded to itself, with no flag (R66). -/
theorem round_of_represents (h : f.Represents n q) (hrd : rd.r < 2 ^ rd.k) :
    f.round rd false (.fin s n q) false = (f.signBit s + f.encodeMag n q, 0) := by
  rcases Nat.eq_zero_or_pos n with rfl | hpos
  · rw [round_zero, encodeMag, if_pos (by positivity), add_zero]
  · have hne : n ≠ 0 := by omega
    have hlog : n.log2 < f.mbits + 1 := (Nat.log2_lt hne).2 h.lt
    have hquant : f.quantum n q = q := by
      unfold quantum
      rcases Nat.lt_or_ge n (2 ^ f.mbits) with hn | hn
      · have := h.subnormal hn
        omega
      · have : f.mbits ≤ n.log2 := (Nat.le_log2 hne).2 hn
        have := h.qmin_le
        omega
    have hcarry : f.carry n q = (n, q) := if_neg h.lt.ne
    have hover : ¬fcmp f.maxVal (.fin false n q) = .lt := mt (hf.overflow_iff h.toCanonical).1 (not_lt.2 h.le_qmax)
    rw [round_fin hne, hquant, roundQuantum_of_le s n hrd (le_refl q)]
    simp [hcarry, hover, flagIf]

theorem round_decode (hrd : rd.r < 2 ^ rd.k) (hb : b < 2 ^ f.width) (hfin : (f.decode b).finite = true) :
    f.round rd false (f.decode b) false = (b, 0) := by
  obtain ⟨s, n, q, h, rfl⟩ := hf.exists_represents hb hfin
  rw [hf.decode_encode h, hf.round_of_represents h hrd]

/-- A negation flips the sign bit. -/
theorem rne_negate_decode (hb : b < 2 ^ f.width) (hfin : (f.decode b).finite = true) :
    f.rne (f.decode b).negate = ((b + 2 ^ (f.width - 1)) % 2 ^ f.width, 0) := by
  obtain ⟨s, n, q, h, rfl⟩ := hf.exists_represents hb hfin
  have hlt := encodeMag_lt h hf
  rw [hf.decode_encode h, FVal.negate, rne, hf.round_of_represents h Nat.one_pos, width_eq, Nat.add_sub_cancel, pow_succ]
  refine Prod.ext ?_ rfl
  cases s with
  | false =>
    show 2 ^ (f.mbits + f.ebits) + f.encodeMag n q = (0 + f.encodeMag n q + 2 ^ (f.mbits + f.ebits)) % _
    rw [Nat.mod_eq_of_lt (by omega), zero_add, add_comm]
  | true =>
    show 0 + f.encodeMag n q = (2 ^ (f.mbits + f.ebits) + f.encodeMag n q + 2 ^ (f.mbits + f.ebits)) % _
    rw [add_right_comm, ← mul_two, Nat.add_mod_left, Nat.mod_eq_of_lt (by omega), zero_add]

/-- The absolute value drops the sign bit. -/
theorem rne_abs_decode (hb : b < 2 ^ f.width) (hfin : (f.decode b).finite = true) :
    f.rne (f.decode b).abs = (b % 2 ^ (f.width - 1), 0) := by
  obtain ⟨s, n, q, h, rfl⟩ := hf.exists_represents hb hfin
  have hlt := encodeMag_lt h hf
  rw [hf.decode_encode h, FVal.abs, rne, hf.round_of_represents h Nat.one_pos, width_eq, Nat.add_sub_cancel]
  cases s <;> simp [signBit, Nat.mod_eq_of_lt hlt]

/-! ## RDN never gives more, RUP never less (R68) -/

variable {up : Bool}

/-- Towards zero a directed mode gives no greater magnitude. -/
theorem decode_round_toward (h : s = up) : ∃ n q, f.decode (f.round (directed up) false (.fin s m e) false).1 = .fin s n q
    ∧ (n : ℚ) * 2 ^ q ≤ m * 2 ^ e := by
  rcases eq_or_ne m 0 with rfl | hm
  · exact ⟨0, f.qmin, by simpa using hf.decode_subnormal (s := s) (n := 0) (by positivity), by simp⟩
  · have hcan := canonical_rounded (f := f) (s := s) (e := e) (directed_exact (up := up)) hm
    have hmag := (carry_mag (f := f) _ _).trans_le (roundQuantum_toward (m := m) (e := e) (q := f.quantum m e) h)
    rw [round_fin hm]
    dsimp only at hcan ⊢
    split
    · next hover =>
      rw [overflow_directed, if_pos h, hf.decode_maxOf]
      rw [hf.maxVal_eq, fcmp_fin rfl rfl, compare_lt_iff_lt, rat_fin_false, rat_fin_false] at hover
      exact ⟨_, _, rfl, hover.le.trans hmag⟩
    · next hover =>
      rw [hf.overflow_iff hcan, not_lt] at hover
      exact ⟨_, _, hf.decode_encode ⟨hcan, hover⟩, hmag⟩

/-- Away from zero it gives an infinity, or no smaller magnitude. -/
theorem decode_round_away (h : s ≠ up) : f.decode (f.round (directed up) false (.fin s m e) false).1 = .inf s
    ∨ ∃ n q, f.decode (f.round (directed up) false (.fin s m e) false).1 = .fin s n q ∧ (m : ℚ) * 2 ^ e ≤ n * 2 ^ q := by
  rcases eq_or_ne m 0 with rfl | hm
  · exact .inr ⟨0, f.qmin, by simpa using hf.decode_subnormal (s := s) (n := 0) (by positivity), by simp⟩
  · have hcan := canonical_rounded (f := f) (s := s) (e := e) (directed_exact (up := up)) hm
    have hmag := (roundQuantum_away (m := m) (e := e) (q := f.quantum m e) h).trans_eq (carry_mag (f := f) _ _).symm
    rw [round_fin hm]
    dsimp only at hcan ⊢
    split
    · rw [overflow_directed, if_neg h, hf.decode_infBits]
      exact .inl rfl
    · next hover =>
      rw [hf.overflow_iff hcan, not_lt] at hover
      exact .inr ⟨_, _, hf.decode_encode ⟨hcan, hover⟩, hmag⟩

theorem round_rdn_ne_gt {v a : FVal} (hv : v.finite = true) (ha : a.finite = true) (hle : v.rat ≤ a.rat) :
    fcmp (f.decode (f.round (directed false) false v false).1) a ≠ .gt := by
  obtain ⟨s, m, e, rfl⟩ := eq_fin_of_finite hv
  cases s with
  | false =>
    obtain ⟨n, q, heq, hmag⟩ := hf.decode_round_toward (m := m) (e := e) (rfl : false = false)
    rw [heq]
    refine fcmp_ne_gt rfl ha (le_trans ?_ hle)
    simpa using hmag
  | true =>
    rcases hf.decode_round_away (m := m) (e := e) (by decide : true ≠ false) with heq | ⟨n, q, heq, hmag⟩
    · rw [heq, fcmp_neg_inf ha]; decide
    · rw [heq]
      refine fcmp_ne_gt rfl ha (le_trans ?_ hle)
      simpa using hmag

theorem round_rup_ne_lt {v a : FVal} (hv : v.finite = true) (ha : a.finite = true) (hle : a.rat ≤ v.rat) :
    fcmp (f.decode (f.round (directed true) false v false).1) a ≠ .lt := by
  obtain ⟨s, m, e, rfl⟩ := eq_fin_of_finite hv
  cases s with
  | false =>
    rcases hf.decode_round_away (m := m) (e := e) (by decide : false ≠ true) with heq | ⟨n, q, heq, hmag⟩
    · rw [heq, fcmp_pos_inf ha]; decide
    · rw [heq]
      refine fcmp_ne_lt rfl ha (le_trans hle ?_)
      simpa using hmag
  | true =>
    obtain ⟨n, q, heq, hmag⟩ := hf.decode_round_toward (m := m) (e := e) (rfl : true = true)
    rw [heq]
    refine fcmp_ne_lt rfl ha (le_trans hle ?_)
    simpa using hmag

theorem floor_ne_gt {a : FVal} (ha : a.finite = true) (ch : Nat) : fcmp (f.decode (fltUn .floor f rd ch a).1) a ≠ .gt := by
  obtain ⟨s, m, e, rfl⟩ := eq_fin_of_finite ha
  exact hf.round_rdn_ne_gt (v := .fin s (roundQuantum (directed false) s m e 0 false).1 0) rfl ha roundQuantum_rdn_le

theorem ceil_ne_lt {a : FVal} (ha : a.finite = true) (ch : Nat) : fcmp (f.decode (fltUn .ceil f rd ch a).1) a ≠ .lt := by
  obtain ⟨s, m, e, rfl⟩ := eq_fin_of_finite ha
  exact hf.round_rup_ne_lt (v := .fin s (roundQuantum (directed true) s m e 0 false).1 0) rfl ha le_roundQuantum_rup

end WithInf

/-- The root of a negative number is NaN, with NV. -/
theorem fltUn_sqrt_neg {a : FVal} (ha : a.finite = true) (hnz : a.isZero = false) (hneg : a.neg? = true) (ch : Nat) :
    fltUn .sqrt f rd ch a = (f.nanBits, flNV) := by
  obtain ⟨s, m, e, rfl⟩ := eq_fin_of_finite ha
  cases m with
  | zero => cases hnz
  | succ m =>
    have hs : s = true := hneg
    simp [hs, fltUn, fsqrt, round]

end FFmt

end Sys2Proof.Machine

namespace Sys2Proof

open Sys2Proof.Machine

/-- Settles O30: the elements written from one lemma on a list of element results, each operation from the lemma on what it
computes, and the rounding from the forms a format stores. -/
theorem intElementResult : Obligations.IntElementResult := by
  unfold Obligations.IntElementResult
  refine ⟨fun o vs1 vd q v c t hty hes hwf => ?_, fun t a b d hw => ?_, fun vs1 vd q v c hwf => ?_, fun t u a rd b fv _ => ?_,
    fun t f g rd b a s m e _ hrd => ?_, fun md a b d ha hb hd => ?_, fun n => ?_, fun f rd b v a ch hf hrd => ?_⟩
  · obtain ⟨hin, hout, hfl⟩ := writesElems_binEffect_int vs1 vd q v hwf hty o
    rw [hes] at hin hout hfl
    refine ⟨fun i hi hm => ?_, fun i hi => hout i fun hmem => ?_, hfl 5 (by decide)⟩
    · rw [hin i (mem_enabled.2 ⟨Nat.zero_le i, hi, hm⟩)]
      exact Nat.mod_eq_of_lt (intBin_lt t _ _ _ o)
    · obtain ⟨-, hlt, hm⟩ := mem_enabled.1 hmem
      rcases hi with hge | hoff
      · omega
      · rw [hoff] at hm; cases hm
  · refine ⟨t.bits_cast _, t.bits_cast _, t.bits_cast _, t.bits_cast _, t.wrap_flags _, t.wrap_flags _, ?_, rfl, rfl, fun hb => ?_,
      fun hb hov => ?_, ?_, intBin_shl t a b d⟩
    · rintro rfl
      exact intBin_div_zero t a d
    · rw [intBin_div t a d hb]
      exact t.bits_cast _
    · rw [intBin_div t a d hb]
      exact if_neg (by simpa using hov)
    · rintro rfl rfl hs
      exact intBin_div_overflow t d hw hs
  · exact ⟨fun o f h => writesElems_binEffect_flt vs1 vd q v hwf h o, fun o t h => writesElems_unaryEffect_int vs1 vd v hwf h o,
      fun o f h => writesElems_unaryEffect_flt vs1 vd v hwf h o, fun t h => writesElems_mergeEffect_int vs1 vd q v hwf h,
      fun f h => writesElems_mergeEffect_flt vs1 vd q v hwf h, writesElems_movEffect vs1 vd v hwf,
      fun o h => writesElems_cvtEffect vs1 vd v hwf h o⟩
  · exact ⟨t.wrap_eq _, t.wrap_eq _, rfl, popBits_eq _ _, fun h0 => if_pos h0, fun h0 => clzBits_bounds h0 (t.bits_lt a), t.wrap_eq a,
      t.sat_eq a⟩
  · exact ⟨rfl, fun he => t.ofFloat_integral s hrd he rfl, fun he hrtz => t.ofFloat_rtz s hrtz he rfl, rfl, cvtBits_same f b a .nan,
      cvtBits_same f b a (.fin s m e)⟩
  · exact ⟨fadd_exact md ha hb, fmul_exact ha hb, ffma_exact md ha hb hd, rat_negate a, fdiv_by_zero ha⟩
  · exact isqrt_spec (Nat.zero_le n) (by simpa using lt_two_pow_half_log2 n)
  · have hI := FFmt.withInf_of_mem hf
    exact ⟨hI.round_decode hrd, rfl, fun hv => ⟨hI.round_rdn_ne_gt hv hv le_rfl, hI.round_rup_ne_lt hv hv le_rfl⟩,
      fun hb hfin => ⟨hI.rne_negate_decode hb hfin, hI.rne_abs_decode hb hfin⟩,
      fun ha => ⟨hI.floor_ne_gt ha ch, hI.ceil_ne_lt ha ch⟩, fun ha hnz hneg => FFmt.fltUn_sqrt_neg ha hnz hneg ch⟩

end Sys2Proof
end

section
/-!
SUPPORT. The encoder and the decoder (spec/04): a word and its fields, the immediates and kind fields cut into fields and joined
again, where a word's major opcode sends it, and, group by group, that the decoder answers what the encoder wrote (O1).
-/

namespace Sys2Proof

open BitVec (extractLsb'_append_eq_left extractLsb'_append_eq_right extractLsb'_append_extractLsb')

/-! ## A word and its fields (Table 4.2) -/

/-- Neighbouring slices of a word join to the slice they cover. -/
theorem extractLsb'_join {w : Nat} (x : BitVec w) (s n m : Nat) :
    x.extractLsb' (s + n) m ++ x.extractLsb' s n = x.extractLsb' s (m + n) :=
  BitVec.extractLsb'_append_extractLsb'_eq_extractLsb' rfl

theorem fieldsOfWord_wordOfFields (f : Fields) : fieldsOfWord (wordOfFields f) = f := by
  simp (disch := decide) only [fieldsOfWord, wordOfFields, BitVec.extractLsb'_append_eq_of_le,
    BitVec.extractLsb'_append_eq_of_add_le, BitVec.extractLsb'_eq_self, Nat.reduceSub]

theorem wordOfFields_fieldsOfWord (w : BitVec 32) : wordOfFields (fieldsOfWord w) = w := by
  show w.extractLsb' 25 7 ++ w.extractLsb' 20 5 ++ w.extractLsb' 15 5 ++ w.extractLsb' 12 3 ++ w.extractLsb' 7 5
    ++ w.extractLsb' 0 7 = w
  rw [extractLsb'_join w 20 5 7, extractLsb'_join w 15 5 12, extractLsb'_join w 12 3 17, extractLsb'_join w 7 5 20,
    extractLsb'_join w 0 7 25]
  exact BitVec.extractLsb'_eq_self

/-! ## Immediates cut into fields and joined again -/

theorem imm6_join (x : BitVec 6) : x.extractLsb' 5 1 ++ x.extractLsb' 0 5 = x := extractLsb'_append_extractLsb'

theorem imm8_join (x : BitVec 8) : x.extractLsb' 3 5 ++ x.extractLsb' 0 3 = x := extractLsb'_append_extractLsb'

theorem imm12_join (x : BitVec 12) : x.extractLsb' 5 7 ++ x.extractLsb' 0 5 = x := extractLsb'_append_extractLsb'

theorem imm20_join (x : BitVec 20) : x.extractLsb' 13 7 ++ x.extractLsb' 8 5 ++ x.extractLsb' 3 5 ++ x.extractLsb' 0 3 = x := by
  rw [extractLsb'_join x 8 5 7, extractLsb'_join x 3 5 12, extractLsb'_join x 0 3 17]
  exact BitVec.extractLsb'_eq_self

theorem jal_join (x : BitVec 20) : x.extractLsb' 19 1 ++ x.extractLsb' 14 5 ++ x.extractLsb' 11 3 ++ x.extractLsb' 10 1
    ++ x.extractLsb' 4 6 ++ x.extractLsb' 0 4 = x := by
  rw [extractLsb'_join x 14 5 1, extractLsb'_join x 11 3 6, extractLsb'_join x 10 1 9, extractLsb'_join x 4 6 10,
    extractLsb'_join x 0 4 16]
  exact BitVec.extractLsb'_eq_self

theorem branch_join (x : BitVec 12) : x.extractLsb' 11 1 ++ x.extractLsb' 10 1 ++ x.extractLsb' 4 6 ++ x.extractLsb' 0 4 = x := by
  rw [extractLsb'_join x 10 1 1, extractLsb'_join x 4 6 2, extractLsb'_join x 0 4 8]
  exact BitVec.extractLsb'_eq_self

theorem pred_join (x : BitVec 4) : x.extractLsb' 1 3 ++ x.extractLsb' 0 1 = x := extractLsb'_append_extractLsb'

theorem slot_join (x : BitVec 8) : x.extractLsb' 5 3 ++ x.extractLsb' 0 5 = x := extractLsb'_append_extractLsb'

/-! ## The kind field of M and V space: funct4, E and mode (R90, R91) -/

section
variable (a : BitVec 4) (e : Bool) (b : BitVec 2)

theorem kind_funct4 : (a ++ BitVec.ofBool e ++ b).extractLsb' 3 4 = a := by
  rw [BitVec.extractLsb'_append_eq_of_le (by decide), extractLsb'_append_eq_left]

theorem kind_e : (a ++ BitVec.ofBool e ++ b).getLsbD 2 = e := by
  rw [BitVec.getLsbD_append, if_neg (by decide), BitVec.getLsbD_append, if_pos (by decide)]
  cases e <;> rfl

theorem kind_mode : (a ++ BitVec.ofBool e ++ b).extractLsb' 0 2 = b := extractLsb'_append_eq_right

end

/-! ## The kind fields of the atomics, of Sync forms and of cable space -/

section
variable (a : BitVec 5) (aq rl : Bool)
theorem amo_funct5 : (a ++ BitVec.ofBool aq ++ BitVec.ofBool rl).extractLsb' 2 5 = a := by
  rw [BitVec.extractLsb'_append_eq_of_le (by decide), extractLsb'_append_eq_left]
theorem amo_aq : (a ++ BitVec.ofBool aq ++ BitVec.ofBool rl).getLsbD 1 = aq := by
  rw [BitVec.getLsbD_append, if_neg (by decide), BitVec.getLsbD_append, if_pos (by decide)]
  cases aq <;> rfl
theorem amo_rl : (a ++ BitVec.ofBool aq ++ BitVec.ofBool rl).getLsbD 0 = rl := by
  rw [BitVec.getLsbD_append, if_pos (by decide)]
  cases rl <;> rfl
end

theorem sync_subop (e : Bool) (b : BitVec 6) : (BitVec.ofBool e ++ b).extractLsb' 0 6 = b := extractLsb'_append_eq_right
theorem sync_e (e : Bool) (b : BitVec 6) : (BitVec.ofBool e ++ b).getLsbD 6 = e := by
  rw [BitVec.getLsbD_append, if_neg (by decide)]
  cases e <;> rfl

section
variable (z e : Bool) (a : BitVec 1) (v : BitVec 5)
theorem cable_top : (a ++ BitVec.ofBool e ++ v).extractLsb' 6 1 = a := by
  rw [BitVec.extractLsb'_append_eq_of_le (by decide), extractLsb'_append_eq_left]
theorem cable_z : (BitVec.ofBool z ++ BitVec.ofBool e ++ v).getLsbD 6 = z := by
  rw [BitVec.getLsbD_append, if_neg (by decide), BitVec.getLsbD_append, if_neg (by decide)]
  cases z <;> rfl
theorem cable_e : (a ++ BitVec.ofBool e ++ v).getLsbD 5 = e := by
  rw [BitVec.getLsbD_append, if_neg (by decide), BitVec.getLsbD_append, if_pos (by decide)]
  cases e <;> rfl
theorem cable_low : (a ++ BitVec.ofBool e ++ v).extractLsb' 0 5 = v := extractLsb'_append_eq_right
end

/-! ## Where a word's major opcode sends it (R82, R89) -/

section
variable {f : Fields}

theorem decodeFields_opImm (h : f.op = 0x13) : decodeFields f = decodeOpImm f := by
  rw [decodeFields, h]; show decodeBase f = _; rw [decodeBase, h]; rfl
theorem decodeFields_opImm32 (h : f.op = 0x1B) : decodeFields f = decodeOpImm32 f := by
  rw [decodeFields, h]; show decodeBase f = _; rw [decodeBase, h]; rfl
theorem decodeFields_amo (h : f.op = 0x2F) : decodeFields f = decodeAmo f := by
  rw [decodeFields, h]; show decodeBase f = _; rw [decodeBase, h]; rfl
theorem decodeFields_miscMem (h : f.op = 0x0F) : decodeFields f = decodeMiscMem f := by
  rw [decodeFields, h]; show decodeBase f = _; rw [decodeBase, h]; rfl
theorem decodeFields_system (h : f.op = 0x73) : decodeFields f = decodeSystem f := by
  rw [decodeFields, h]; show decodeBase f = _; rw [decodeBase, h]; rfl
theorem decodeFields_s (h : f.op = 0x0B) : decodeFields f = decodeS f := by rw [decodeFields, h]; rfl
theorem decodeFields_loop (h : f.op = 0x0B) (h3 : f.f3 = 0) : decodeFields f = decodeLoop f := by
  rw [decodeFields_s h, decodeS, h3]; rfl
theorem decodeFields_seq (h : f.op = 0x0B) (h3 : f.f3 = 1) : decodeFields f = decodeSeq f := by
  rw [decodeFields_s h, decodeS, h3]; rfl
theorem decodeFields_cfg (h : f.op = 0x0B) (h3 : f.f3 = 2) : decodeFields f = decodeCfg f := by
  rw [decodeFields_s h, decodeS, h3]; rfl
theorem decodeFields_copy (h : f.op = 0x0B) (h3 : f.f3 = 3) : decodeFields f = decodeCopy f := by
  rw [decodeFields_s h, decodeS, h3]; rfl
theorem decodeFields_teller (h : f.op = 0x0B) (h3 : f.f3 = 4) : decodeFields f = decodeTeller f := by
  rw [decodeFields_s h, decodeS, h3]; rfl
theorem decodeFields_sys (h : f.op = 0x0B) (h3 : f.f3 = 5) : decodeFields f = decodeSys f := by
  rw [decodeFields_s h, decodeS, h3]; rfl
theorem decodeFields_sync (h : f.op = 0x0B) (h3 : f.f3 = 6) : decodeFields f = decodeSync f := by
  rw [decodeFields_s h, decodeS, h3]; rfl
theorem decodeFields_fence (h : f.op = 0x0B) (h3 : f.f3 = 7) : decodeFields f = decodeFence f := by
  rw [decodeFields_s h, decodeS, h3]; rfl
theorem decodeFields_mem (h : f.op = 0x2B) : decodeFields f = decodeMem f := by rw [decodeFields, h]; rfl
theorem decodeFields_v (h : f.op = 0x5B) : decodeFields f = decodeV f := by rw [decodeFields, h]; rfl
theorem decodeFields_cable (h : f.op = 0x7B) : decodeFields f = decodeCable f := by rw [decodeFields, h]; rfl
end

theorem decodeV_bin {f : Fields} (hm : f.f7.extractLsb' 0 2 ≠ 3) : decodeV f = decodeVec f := by rw [decodeV, if_neg hm]

section
variable {f : Fields} (hm : f.f7.extractLsb' 0 2 = 3)
include hm
theorem decodeV_unary (h : f.f7.extractLsb' 3 4 = 0) : decodeV f = decodeExtUnary f := by rw [decodeV, if_pos hm, h]; rfl
theorem decodeV_convert (h : f.f7.extractLsb' 3 4 = 1) : decodeV f = decodeExtConvert f := by rw [decodeV, if_pos hm, h]; rfl
theorem decodeV_reduce (h : f.f7.extractLsb' 3 4 = 2) : decodeV f = decodeExtReduce f := by rw [decodeV, if_pos hm, h]; rfl
theorem decodeV_permute (h : f.f7.extractLsb' 3 4 = 3) : decodeV f = decodeExtPermute f := by rw [decodeV, if_pos hm, h]; rfl
theorem decodeV_mask (h : f.f7.extractLsb' 3 4 = 4) : decodeV f = decodeExtMask f := by rw [decodeV, if_pos hm, h]; rfl
theorem decodeV_momentum (h : f.f7.extractLsb' 3 4 = 5) : decodeV f = decodeExtMomentum f := by rw [decodeV, if_pos hm, h]; rfl
end

/-! ## The decoder after the encoder, group by group -/

theorem decodeFields_encAlu (f : AluForm) : decodeFields (encAlu f) = some (.baseAlu f) := by
  cases f with
  | lui rd imm => exact congrArg (fun v => some (Instr.baseAlu (.lui rd v))) (imm20_join imm)
  | auipc rd imm => exact congrArg (fun v => some (Instr.baseAlu (.auipc rd v))) (imm20_join imm)
  | opImm op rd rs1 imm => cases op <;> exact congrArg (fun v => some (Instr.baseAlu (.opImm _ rd rs1 v))) (imm12_join imm)
  | shImm op rd rs1 sh =>
    rw [decodeFields_opImm rfl]
    cases op
    all_goals simp [decodeOpImm, encAlu, shOpEnc, extractLsb'_append_eq_left (w := 6) (w' := 1),
      extractLsb'_append_eq_right (w := 6) (w' := 1), imm6_join]
  | addiw rd rs1 imm => exact congrArg (fun v => some (Instr.baseAlu (.addiw rd rs1 v))) (imm12_join imm)
  | shImmW op rd rs1 sh =>
    rw [decodeFields_opImm32 rfl]
    cases op <;> simp [decodeOpImm32, encAlu, shOpEnc]
  | op op rd rs1 rs2 => cases op <;> rfl
  | opW op rd rs1 rs2 => cases op <;> rfl

theorem decodeFields_encJump (f : JumpForm) : decodeFields (encJump f) = some (.baseBranchJump f) := by
  cases f with
  | jal rd imm =>
    show some (Instr.baseBranchJump (.jal rd _)) = _
    simp only [encJump, extractLsb'_append_eq_left (w := 1) (w' := 6), extractLsb'_append_eq_right (w := 1) (w' := 6),
      extractLsb'_append_eq_left (w := 4) (w' := 1), extractLsb'_append_eq_right (w := 4) (w' := 1), jal_join]
  | jalr rd rs1 imm => exact congrArg (fun v => some (Instr.baseBranchJump (.jalr rd rs1 v))) (imm12_join imm)
  | branch c rs1 rs2 imm =>
    have hc : condOf (condEnc c).toNat = some c := by cases c <;> rfl
    show (condOf (condEnc c).toNat).map _ = _
    simp only [hc, Option.map_some, encJump, extractLsb'_append_eq_left (w := 1) (w' := 6), extractLsb'_append_eq_right (w := 1) (w' := 6),
      extractLsb'_append_eq_left (w := 4) (w' := 1), extractLsb'_append_eq_right (w := 4) (w' := 1), branch_join]

theorem decodeFields_encCsr (op : CsrOp) (csr : BitVec 12) (src rd : XReg) :
    decodeFields (encCsr op csr src rd) = some (csrInstr op csr src rd) := by
  cases op <;> exact congrArg (fun v => some (csrInstr _ v src rd)) (imm12_join csr)

/-- A well-formed Zicsr write names none of the CSRs whose writes are instructions of their own. -/
theorem csrInstr_of_wf {op : CsrOp} {csr : BitVec 12} {src rd : XReg} (h : (Instr.csrWrite op csr src rd).wf = true) :
    csrInstr op csr src rd = .csrWrite op csr src rd := by
  obtain ⟨hvl, hfl, hpt, hmip, hsip, hpc⟩ := of_decide_eq_true h
  simp only [csrInstr, if_neg hvl, if_neg hfl, if_neg hpt, if_neg hmip, if_neg hsip, if_neg hpc]

theorem decodeFields_encFields_base {i : Instr} {f : Fields} (hg : (Machine.opAttr i).group = .base) (hwf : i.wf = true)
    (h : encFields i = some f) : decodeFields f = some i := by
  cases i
  case baseAlu a => cases h; exact decodeFields_encAlu a
  case baseBranchJump j => cases h; exact decodeFields_encJump j
  case baseLoad op rd rs1 imm =>
    cases h
    cases op <;> exact congrArg (fun v => some (Instr.baseLoad _ rd rs1 v)) (imm12_join imm)
  case baseStore op rs2 rs1 imm =>
    cases h
    cases op <;> exact congrArg (fun v => some (Instr.baseStore _ rs2 rs1 v)) (imm12_join imm)
  case csrWrite op csr src rd => cases h; rw [decodeFields_encCsr, csrInstr_of_wf hwf]
  case vlWrite | vxflagsWrite | ptrootWrite => cases h; exact decodeFields_encCsr ..
  case assayNoticeClear op mach src rd => cases h; cases mach <;> exact decodeFields_encCsr ..
  case partitionSetup op src rd =>
    cases h
    rw [decodeFields_encCsr]
    simp [csrInstr, of_decide_eq_true hwf, csrPcfg, csrVl, csrVxflags, csrPtroot, csrMip, csrSip]
  case profileEnableWrite op src rd =>
    cases h
    rw [decodeFields_encCsr]
    simp [csrInstr, of_decide_eq_true hwf, csrPcfg, csrVl, csrVxflags, csrPtroot, csrMip, csrSip]
  case ecall | ebreak | wfi | sret | mret => cases h; rfl
  case fence fm p q rs1 rd =>
    cases h
    show some (Instr.fence _ _ _ rs1 rd) = _
    simp [extractLsb'_append_eq_left (w := 4) (w' := 3), extractLsb'_append_eq_right (w := 4) (w' := 3),
      extractLsb'_append_eq_left (w := 1) (w' := 4), extractLsb'_append_eq_right (w := 1) (w' := 4), pred_join]
  case baseAmo op dbl aq rl rd rs1 rs2 =>
    cases h
    rw [decodeFields_amo rfl, decodeAmo, amo_funct5, amo_aq, amo_rl]
    cases dbl <;> cases op <;> rfl
  case baseLr dbl aq rl rd rs1 =>
    cases h
    rw [decodeFields_amo rfl, decodeAmo, amo_funct5, amo_aq, amo_rl]
    cases dbl <;> rfl
  case baseSc dbl aq rl rd rs1 rs2 =>
    cases h
    rw [decodeFields_amo rfl, decodeAmo, amo_funct5, amo_aq, amo_rl]
    cases dbl <;> rfl
  case fenceI imm rs1 rd => cases h; exact congrArg (fun v => some (Instr.fenceI v rs1 rd)) (imm12_join imm)
  all_goals cases hg

theorem decodeFields_encFields_seq {i : Instr} {f : Fields} (hg : (Machine.opAttr i).group = .seq) (hwf : i.wf = true)
    (h : encFields i = some f) : decodeFields f = some i := by
  cases i
  case loop n rs1 l =>
    cases h
    rw [decodeFields_loop rfl rfl]
    simpa [decodeLoop, imm12_join, extractLsb'_append_eq_left (w := 3) (w' := 2), extractLsb'_append_eq_right (w := 3) (w' := 2)]
      using of_decide_eq_true hwf
  case lexit l =>
    cases h
    rw [decodeFields_seq rfl rfl]
    simpa [decodeSeq, extractLsb'_append_eq_left (w := 3) (w' := 2), extractLsb'_append_eq_right (w := 3) (w' := 2)]
      using of_decide_eq_true hwf
  case lrd sel rd =>
    cases h
    rw [decodeFields_seq rfl rfl]
    simpa [decodeSeq] using of_decide_eq_true hwf
  case lsave | lrest | escOpen | escCmp | escClose | escRet | escAbort | escStat => cases h; rfl
  all_goals cases hg

theorem decodeFields_encFields_cfg {i : Instr} {f : Fields} (hg : (Machine.opAttr i).group = .cfg) (hwf : i.wf = true)
    (h : encFields i = some f) : decodeFields f = some i := by
  cases i
  case vsetl w rs1 rd =>
    cases h
    rw [decodeFields_cfg rfl rfl]
    simpa [decodeCfg] using of_decide_eq_true hwf
  case vdecl | vtag | vtagrd | dset | dflip | dscale | dshape | kalloc | kfree | kzero | vsrseed | atabld => cases h; rfl
  all_goals cases hg

theorem decodeFields_encFields_copy {i : Instr} {f : Fields} (hg : (Machine.opAttr i).group = .copy)
    (h : encFields i = some f) : decodeFields f = some i := by
  cases i
  case cpy | cpys | cpyv | cpyvs | ctile | cring =>
    cases h
    rw [decodeFields_copy rfl rfl, decodeCopy, extractLsb'_append_eq_left (w := 2) (w' := 5),
      extractLsb'_append_eq_right (w := 2) (w' := 5)]
    rfl
  all_goals cases hg

theorem decodeFields_encFields_teller {i : Instr} {f : Fields} (hg : (Machine.opAttr i).group = .teller)
    (h : encFields i = some f) : decodeFields f = some i := by
  cases i
  case tcmd | pset | pwait | ptest | rres | rpub | racq | rrel | rocc | bar =>
    cases h
    rw [decodeFields_teller rfl rfl]
    simp [decodeTeller]
  case tadd | tmin | tmax | tand | tor | txchg | tcas =>
    cases h
    rw [decodeFields_teller rfl rfl, decodeTeller, extractLsb'_append_eq_left (w := 2) (w' := 5),
      extractLsb'_append_eq_right (w := 2) (w' := 5)]
    rfl
  all_goals cases hg

theorem decodeFields_encFields_sys {i : Instr} {f : Fields} (hg : (Machine.opAttr i).group = .sys)
    (h : encFields i = some f) : decodeFields f = some i := by
  cases i
  case wqpost | lvlwait | lvlcancel | sexit | syield | snapBegin | snapStat | snapRollback | mint | assayReq | evt | cho | tlbinv
      | vaultSwap => cases h; rfl
  all_goals cases hg

theorem decodeFields_encFields_sync {i : Instr} {f : Fields} (hg : (Machine.opAttr i).group = .sync)
    (h : encFields i = some f) : decodeFields f = some i := by
  cases i
  case vxget | vmpop | vmfirst | vmrd =>
    cases h
    rw [decodeFields_sync rfl rfl, decodeSync, sync_subop, sync_e]
    simp [extractLsb'_append_eq_left (w := 2) (w' := 3), extractLsb'_append_eq_right (w := 2) (w' := 3)]
  case vxput =>
    cases h
    rw [decodeFields_sync rfl rfl]
    simp [decodeSync]
  all_goals cases hg

theorem decodeFields_encFields_fence {i : Instr} {f : Fields} (hg : (Machine.opAttr i).group = .fence) (hwf : i.wf = true)
    (h : encFields i = some f) : decodeFields f = some i := by
  cases i
  case qfence | efence =>
    cases h
    rw [decodeFields_fence rfl rfl]
    simpa [decodeFence] using of_decide_eq_true hwf
  case kfence => cases h; rfl
  all_goals cases hg

theorem decodeFields_encFields_mem {i : Instr} {f : Fields} (hg : (Machine.opAttr i).group = .mem)
    (h : encFields i = some f) : decodeFields f = some i := by
  cases i
  case vldStrided | vldIndexed | vstStrided | vstIndexed | vldffStrided | vldffIndexed | vlwin | vtadd | vtmin | vtmax =>
    cases h
    rw [decodeFields_mem rfl, decodeMem, kind_funct4, kind_mode, kind_e]
    rfl
  case vldUnit | vstUnit | vldffUnit | vstc | vstr =>
    cases h
    rw [decodeFields_mem rfl, decodeMem, kind_funct4, kind_mode, kind_e]
    rfl
  case vldr | vkld | vkst =>
    cases h
    rw [decodeFields_mem rfl]
    simp [decodeMem]
  case vqldUnit | vqldStrided | vqstUnit | vqstStrided =>
    cases h
    rw [decodeFields_mem rfl]
    simp [decodeMem, extractLsb'_append_eq_left (w := 3) (w' := 2), extractLsb'_append_eq_right (w := 3) (w' := 2)]
  case vmld =>
    cases h
    rw [decodeFields_mem rfl]
    simp [decodeMem, extractLsb'_append_eq_left (w := 2) (w' := 3), extractLsb'_append_eq_right (w := 2) (w' := 3)]
  case vmst =>
    cases h
    rw [decodeFields_mem rfl, decodeMem, kind_funct4, kind_mode, kind_e,
      extractLsb'_append_eq_left (w := 2) (w' := 3), extractLsb'_append_eq_right (w := 2) (w' := 3)]
    rfl
  all_goals cases hg

theorem decodeFields_encFields_vec {i : Instr} {f : Fields} (hg : (Machine.opAttr i).group = .vec) (hwf : i.wf = true)
    (h : encFields i = some f) : decodeFields f = some i := by
  cases i
  case vaddVv | vaddVx | vaddVi | vsubVv | vsubVx | vsubVi | vmulVv | vmulVx | vmulVi | vmacVv | vmacVx | vmacVi | vminVv | vminVx
      | vminVi | vmaxVv | vmaxVx | vmaxVi | vandVv | vandVx | vandVi | vorVv | vorVx | vorVi | vxorVv | vxorVx | vxorVi | vshlVv
      | vshlVx | vshlVi | vshrVv | vshrVx | vshrVi | vdivVv | vdivVx | vdivVi | vmergeVv | vmergeVx | vmergeVi | vpermGather
      | vpermSlideVx | vpermSlideVi | vslideupVx =>
    cases h
    rw [decodeFields_v rfl, decodeV_bin (by rw [kind_mode]; decide), decodeVec, kind_funct4, kind_mode, kind_e]
    rfl
  case vcmpVv | vcmpVx | vcmpVi =>
    cases h
    rw [decodeFields_v rfl, decodeV_bin (by rw [kind_mode]; decide), decodeVec, kind_funct4, kind_mode, kind_e,
      extractLsb'_append_eq_left (w := 3) (w' := 2), extractLsb'_append_eq_right (w := 3) (w' := 2)]
    exact if_pos (of_decide_eq_true hwf)
  case vslideupVi =>
    cases h
    rw [decodeFields_v rfl, decodeV_bin (by rw [kind_mode]; decide), decodeVec, kind_funct4, kind_mode, kind_e]
    exact if_pos (of_decide_eq_true hwf)
  case vmov | vneg | vabs | vnot | vsqrt | vrsqrt | vrcp | vexp2 | vlog2 | vsin | vcos | vtanh | vsigm | vfloor | vceil | vrnd | vclz
      | vpopc | vid | vbcast | vclass =>
    cases h
    rw [decodeFields_v rfl, decodeV_unary (by exact kind_mode ..) (by exact kind_funct4 ..), decodeExtUnary, kind_e]; rfl
  case vcvt | vcvtRz | vcvtSr | vcvtSat | vquant =>
    cases h
    rw [decodeFields_v rfl, decodeV_convert (by exact kind_mode ..) (by exact kind_funct4 ..), decodeExtConvert, kind_e]; rfl
  case vredsum | vredsumt | vredmax | vredmin | vredand | vredor | vredxor =>
    cases h
    rw [decodeFields_v rfl, decodeV_reduce (by exact kind_mode ..) (by exact kind_funct4 ..), decodeExtReduce, kind_e]; rfl
  case vcompress | vexpand | vmidx | vrev | vtr8 =>
    cases h
    rw [decodeFields_v rfl, decodeV_permute (by exact kind_mode ..) (by exact kind_funct4 ..), decodeExtPermute, kind_e]; rfl
  case mand | mor | mxor | mandn | mnot | mbf | mif | msof =>
    cases h
    rw [decodeFields_v rfl, decodeV_mask (by exact kind_mode ..) (by exact kind_funct4 ..), decodeExtMask, kind_e]
    simp [extractLsb'_append_eq_left (w := 2) (w' := 3), extractLsb'_append_eq_right (w := 2) (w' := 3)]
  case mset | mclr =>
    cases h
    rw [decodeFields_v rfl, decodeV_mask (by simp) (by simp)]
    simp [decodeExtMask, extractLsb'_append_eq_left (w := 2) (w' := 3), extractLsb'_append_eq_right (w := 2) (w' := 3)]
  case vmomu =>
    cases h
    rw [decodeFields_v rfl, decodeV_momentum (by exact kind_mode ..) (by exact kind_funct4 ..), decodeExtMomentum, kind_e]; rfl
  all_goals cases hg

theorem decodeFields_encFields_cable {i : Instr} {f : Fields} (hg : (Machine.opAttr i).group = .cable)
    (h : encFields i = some f) : decodeFields f = some i := by
  cases i
  case dmac | dmsc | dmm | dop =>
    cases h
    rw [decodeFields_cable rfl, decodeCable, cable_z, cable_e, cable_low, imm8_join]; rfl
  case kin e vs1 k =>
    cases h
    rw [decodeFields_cable rfl]
    cases e <;> simp [decodeCable, imm8_join]
  case kadd j k =>
    cases h
    rw [decodeFields_cable rfl]
    simp [decodeCable, imm8_join, extractLsb'_append_eq_left (w := 4) (w' := 3), extractLsb'_append_eq_right (w := 4) (w' := 3), slot_join]
  case dout | doutQ | doutA | doutAq | doutB | doutBq | doutBa | doutBaq =>
    cases h
    rw [decodeFields_cable rfl, decodeCable, cable_top, cable_e, cable_low, imm8_join]; rfl
  all_goals cases hg

theorem decodeFields_encFields_hint {i : Instr} {f : Fields} (hg : (Machine.opAttr i).group = .hint)
    (h : encFields i = some f) : decodeFields f = some i := by
  cases i
  case hint => cases h; rfl
  all_goals cases hg

/-- An instruction has a word exactly when it is no step of another agent. -/
theorem encFields_isSome (i : Instr) : (encFields i).isSome = decide ((Machine.opAttr i).group ≠ .event) := by
  cases i <;> rfl

/-- Decoding the fields of a well-formed instruction gives it back (R98). -/
theorem decodeFields_encFields {i : Instr} {f : Fields} (hwf : i.wf = true) (h : encFields i = some f) :
    decodeFields f = some i := by
  cases hg : (Machine.opAttr i).group with
  | base => exact decodeFields_encFields_base hg hwf h
  | seq => exact decodeFields_encFields_seq hg hwf h
  | cfg => exact decodeFields_encFields_cfg hg hwf h
  | copy => exact decodeFields_encFields_copy hg h
  | teller => exact decodeFields_encFields_teller hg h
  | sys => exact decodeFields_encFields_sys hg h
  | sync => exact decodeFields_encFields_sync hg h
  | fence => exact decodeFields_encFields_fence hg hwf h
  | mem => exact decodeFields_encFields_mem hg h
  | vec => exact decodeFields_encFields_vec hg hwf h
  | cable => exact decodeFields_encFields_cable hg h
  | hint => exact decodeFields_encFields_hint hg h
  | event =>
    have hs := encFields_isSome i
    rw [h, hg] at hs
    cases hs

/-- Settles O1: `decode` cuts the word back into the fields `encFields` wrote, and each group's decoder answers the instruction. -/
theorem decodeOfEncode : Obligations.DecodeOfEncode := by
  unfold Obligations.DecodeOfEncode
  intro i w hwf h
  obtain ⟨f, hf, rfl⟩ := Option.map_eq_some_iff.1 h
  rw [decode, fieldsOfWord_wordOfFields]
  exact decodeFields_encFields hwf hf

end Sys2Proof
end

section
/-!
SUPPORT. The decoder's answers (O2): each decoder answers nothing or a well-formed instruction whose fields are the ones it was
given. A field is first written the way an encoder joins it (`exists_…`), so that the answer encodes back by computation.
-/

namespace Sys2Proof

open BitVec (extractLsb'_append_eq_left extractLsb'_append_eq_right extractLsb'_append_extractLsb')

/-! ## What a decoder may answer (R98) -/

/-- Nothing, or a well-formed instruction whose fields are these: all that a decoder may answer (R98). -/
def Reads (f : Fields) (r : Option Instr) : Prop := ∀ i, r = some i → i.wf = true ∧ encFields i = some f

theorem reads_none (f : Fields) : Reads f none := fun _ h => nomatch h

theorem reads_some {f : Fields} {i : Instr} (hwf : i.wf = true) (h : encFields i = some f) : Reads f (some i) := by
  rintro j ⟨⟩
  exact ⟨hwf, h⟩

theorem reads_ite {f : Fields} {c : Prop} [Decidable c] {r t : Option Instr} (h : c → Reads f r) (g : ¬c → Reads f t) :
    Reads f (if c then r else t) := by
  split <;> [exact h ‹_›; exact g ‹_›]

theorem reads_if {f : Fields} {c : Prop} [Decidable c] {r : Option Instr} (h : c → Reads f r) :
    Reads f (if c then r else none) := reads_ite h fun _ => reads_none f

theorem reads_map {α : Type} {f : Fields} {o : Option α} {g : α → Instr} (h : ∀ a, o = some a → Reads f (some (g a))) :
    Reads f (o.map g) := by
  cases o with
  | none => exact reads_none f
  | some a => exact h a rfl

/-! ## Every value of a field is one an encoder writes -/

theorem eq_ofNat_of_toNat {w k : Nat} {x : BitVec w} (h : x.toNat = k) : x = BitVec.ofNat w k := by
  rw [← h, BitVec.ofNat_toNat, BitVec.setWidth_eq]

theorem exists_append {n m : Nat} (x : BitVec (n + m)) : ∃ (a : BitVec n) (b : BitVec m), x = a ++ b :=
  ⟨x.extractLsb' m n, x.extractLsb' 0 m, extractLsb'_append_extractLsb'.symm⟩

theorem exists_ofBool (x : BitVec 1) : ∃ e, x = BitVec.ofBool e := by
  revert x; decide

theorem eq_false_of_ofBool {e : Bool} (h : BitVec.ofBool e = 0) : e = false := by
  cases e <;> [rfl; cases h]

theorem exists_kind (x : BitVec 7) : ∃ (a : BitVec 4) (e : Bool) (b : BitVec 2), x = a ++ BitVec.ofBool e ++ b := by
  obtain ⟨y, b, rfl⟩ := exists_append (n := 5) (m := 2) x
  obtain ⟨a, z, rfl⟩ := exists_append (n := 4) (m := 1) y
  obtain ⟨e, rfl⟩ := exists_ofBool z
  exact ⟨a, e, b, rfl⟩

theorem kind_e_bit (a : BitVec 4) (e : Bool) (b : BitVec 2) : (a ++ BitVec.ofBool e ++ b).extractLsb' 2 1 = BitVec.ofBool e := by
  rw [BitVec.extractLsb'_append_eq_of_le (by decide), extractLsb'_append_eq_right]

theorem exists_amo (x : BitVec 7) : ∃ (a : BitVec 5) (aq rl : Bool), x = a ++ BitVec.ofBool aq ++ BitVec.ofBool rl := by
  obtain ⟨y, r, rfl⟩ := exists_append (n := 6) (m := 1) x
  obtain ⟨a, q, rfl⟩ := exists_append (n := 5) (m := 1) y
  obtain ⟨aq, rfl⟩ := exists_ofBool q
  obtain ⟨rl, rfl⟩ := exists_ofBool r
  exact ⟨a, aq, rl, rfl⟩

theorem exists_sync (x : BitVec 7) : ∃ (e : Bool) (b : BitVec 6), x = BitVec.ofBool e ++ b := by
  obtain ⟨z, b, rfl⟩ := exists_append (n := 1) (m := 6) x
  obtain ⟨e, rfl⟩ := exists_ofBool z
  exact ⟨e, b, rfl⟩

theorem exists_cable (x : BitVec 7) : ∃ (z e : Bool) (v : BitVec 5), x = BitVec.ofBool z ++ BitVec.ofBool e ++ v := by
  obtain ⟨y, v, rfl⟩ := exists_append (n := 2) (m := 5) x
  obtain ⟨a, b, rfl⟩ := exists_append (n := 1) (m := 1) y
  obtain ⟨z, rfl⟩ := exists_ofBool a
  obtain ⟨e, rfl⟩ := exists_ofBool b
  exact ⟨z, e, v, rfl⟩

theorem exists_imm6 (a : BitVec 1) (b : BitVec 5) : ∃ x : BitVec 6, a = x.extractLsb' 5 1 ∧ b = x.extractLsb' 0 5 :=
  ⟨a ++ b, extractLsb'_append_eq_left.symm, extractLsb'_append_eq_right.symm⟩

theorem exists_imm8 (a : BitVec 5) (b : BitVec 3) : ∃ x : BitVec 8, a = x.extractLsb' 3 5 ∧ b = x.extractLsb' 0 3 :=
  ⟨a ++ b, extractLsb'_append_eq_left.symm, extractLsb'_append_eq_right.symm⟩

theorem exists_slot (a : BitVec 3) (b : BitVec 5) : ∃ x : BitVec 8, a = x.extractLsb' 5 3 ∧ b = x.extractLsb' 0 5 :=
  ⟨a ++ b, extractLsb'_append_eq_left.symm, extractLsb'_append_eq_right.symm⟩

theorem exists_imm12 (a : BitVec 7) (b : BitVec 5) : ∃ x : BitVec 12, a = x.extractLsb' 5 7 ∧ b = x.extractLsb' 0 5 :=
  ⟨a ++ b, extractLsb'_append_eq_left.symm, extractLsb'_append_eq_right.symm⟩

theorem exists_imm20 (a : BitVec 7) (b c : BitVec 5) (d : BitVec 3) : ∃ x : BitVec 20, a = x.extractLsb' 13 7 ∧ b = x.extractLsb' 8 5 ∧
    c = x.extractLsb' 3 5 ∧ d = x.extractLsb' 0 3 := by
  refine ⟨a ++ b ++ c ++ d, ?_, ?_, ?_, ?_⟩ <;>
    simp (disch := decide) only [BitVec.extractLsb'_append_eq_of_le, BitVec.extractLsb'_append_eq_of_add_le,
      BitVec.extractLsb'_eq_self, Nat.reduceSub]

theorem exists_pred (a : BitVec 3) (b : BitVec 1) : ∃ x : BitVec 4, a = x.extractLsb' 1 3 ∧ b = x.extractLsb' 0 1 :=
  ⟨a ++ b, extractLsb'_append_eq_left.symm, extractLsb'_append_eq_right.symm⟩

theorem exists_jal (a : BitVec 1) (b : BitVec 5) (c : BitVec 3) (d : BitVec 1) (e : BitVec 6) (g : BitVec 4) : ∃ x : BitVec 20,
    a = x.extractLsb' 19 1 ∧ b = x.extractLsb' 14 5 ∧ c = x.extractLsb' 11 3 ∧ d = x.extractLsb' 10 1 ∧ e = x.extractLsb' 4 6 ∧
    g = x.extractLsb' 0 4 := by
  refine ⟨a ++ b ++ c ++ d ++ e ++ g, ?_, ?_, ?_, ?_, ?_, ?_⟩ <;>
    simp (disch := decide) only [BitVec.extractLsb'_append_eq_of_le, BitVec.extractLsb'_append_eq_of_add_le,
      BitVec.extractLsb'_eq_self, Nat.reduceSub]

theorem exists_branch (a b : BitVec 1) (c : BitVec 6) (d : BitVec 4) : ∃ x : BitVec 12,
    a = x.extractLsb' 11 1 ∧ b = x.extractLsb' 10 1 ∧ c = x.extractLsb' 4 6 ∧ d = x.extractLsb' 0 4 := by
  refine ⟨a ++ b ++ c ++ d, ?_, ?_, ?_, ?_⟩ <;>
    simp (disch := decide) only [BitVec.extractLsb'_append_eq_of_le, BitVec.extractLsb'_append_eq_of_add_le,
      BitVec.extractLsb'_eq_self, Nat.reduceSub]

theorem cable_low_bit {a : BitVec 2} {v : BitVec 5} {k : Nat} (h : k < 5) : (a ++ v).getLsbD k = v.getLsbD k := by
  rw [BitVec.getLsbD_append, if_pos h]

theorem eq_zero_of_bits {v : BitVec 5} (h0 : v.getLsbD 0 = false) (h1 : v.getLsbD 1 = false) (h2 : v.getLsbD 2 = false)
    (h3 : v.getLsbD 3 = false) (h4 : v.getLsbD 4 = false) : v = 0 := by
  revert v; decide

/-! ## Each group's decoder answers only what its encoder writes -/

theorem reads_decodeLoop (f7 rs2 rs1 rd) : Reads ⟨f7, rs2, rs1, 0, rd, 0x0B⟩ (decodeLoop ⟨f7, rs2, rs1, 0, rd, 0x0B⟩) := by
  obtain ⟨imm, rfl, rfl⟩ := exists_imm12 f7 rs2
  obtain ⟨l, z, rfl⟩ := exists_append (n := 3) (m := 2) rd
  rw [decodeLoop, imm12_join, extractLsb'_append_eq_left (w := 3) (w' := 2), extractLsb'_append_eq_right (w := 3) (w' := 2)]
  refine reads_if fun ⟨hz, hn, hl⟩ => ?_
  subst hz
  exact reads_some (decide_eq_true ⟨hn, hl⟩) rfl

theorem reads_decodeSeq (f7 rs2 rs1 rd) : Reads ⟨f7, rs2, rs1, 1, rd, 0x0B⟩ (decodeSeq ⟨f7, rs2, rs1, 1, rd, 0x0B⟩) := by
  rw [decodeSeq]
  split
  case h_11 => exact reads_none _
  all_goals
    rename_i h7
    obtain rfl := eq_ofNat_of_toNat h7
    refine reads_if fun hz => ?_
    dsimp only at hz
  case h_1 =>
    obtain ⟨l, z, rfl⟩ := exists_append (n := 3) (m := 2) rd
    rw [extractLsb'_append_eq_left (w := 3) (w' := 2), extractLsb'_append_eq_right (w := 3) (w' := 2)] at hz
    rw [extractLsb'_append_eq_left (w := 3) (w' := 2)]
    obtain ⟨rfl, rfl, rfl, hl⟩ := hz
    exact reads_some (decide_eq_true hl) rfl
  case h_4 =>
    obtain ⟨rfl, hs⟩ := hz
    exact reads_some (decide_eq_true hs) rfl
  all_goals
    simp only [hz]
    exact reads_some rfl rfl

theorem reads_decodeCfg (f7 rs2 rs1 rd) : Reads ⟨f7, rs2, rs1, 2, rd, 0x0B⟩ (decodeCfg ⟨f7, rs2, rs1, 2, rd, 0x0B⟩) := by
  rw [decodeCfg]
  split
  case h_14 => exact reads_none _
  all_goals
    rename_i h7
    obtain rfl := eq_ofNat_of_toNat h7
  case h_2 => exact reads_if fun hlt => reads_some (decide_eq_true hlt) rfl
  case h_5 | h_7 => exact reads_some rfl rfl
  all_goals
    refine reads_if fun hz => ?_
    dsimp only at hz
    simp only [hz]
    exact reads_some rfl rfl

theorem reads_decodeCopy (f7 rs2 rs1 rd) : Reads ⟨f7, rs2, rs1, 3, rd, 0x0B⟩ (decodeCopy ⟨f7, rs2, rs1, 3, rd, 0x0B⟩) := by
  obtain ⟨w, b, rfl⟩ := exists_append (n := 2) (m := 5) f7
  rw [decodeCopy, extractLsb'_append_eq_left (w := 2) (w' := 5), extractLsb'_append_eq_right (w := 2) (w' := 5)]
  split
  case h_7 => exact reads_none _
  all_goals
    rename_i hb
    obtain rfl := eq_ofNat_of_toNat hb
    exact reads_some rfl rfl

theorem reads_decodeTeller (f7 rs2 rs1 rd) : Reads ⟨f7, rs2, rs1, 4, rd, 0x0B⟩ (decodeTeller ⟨f7, rs2, rs1, 4, rd, 0x0B⟩) := by
  obtain ⟨w, b, rfl⟩ := exists_append (n := 2) (m := 5) f7
  rw [decodeTeller, extractLsb'_append_eq_left (w := 2) (w' := 5), extractLsb'_append_eq_right (w := 2) (w' := 5)]
  split
  case h_18 => exact reads_none _
  all_goals
    rename_i hb
    obtain rfl := eq_ofNat_of_toNat hb
  case h_1 | h_2 | h_3 | h_4 | h_5 | h_6 | h_7 => exact reads_some rfl rfl
  case h_8 | h_17 =>
    refine reads_if fun hz => ?_
    subst hz
    exact reads_some rfl rfl
  all_goals
    refine reads_if fun hz => ?_
    dsimp only at hz
    simp only [hz]
    exact reads_some rfl rfl

theorem reads_decodeSys (f7 rs2 rs1 rd) : Reads ⟨f7, rs2, rs1, 5, rd, 0x0B⟩ (decodeSys ⟨f7, rs2, rs1, 5, rd, 0x0B⟩) := by
  rw [decodeSys]
  split
  case h_16 => exact reads_none _
  all_goals
    rename_i h7
    obtain rfl := eq_ofNat_of_toNat h7
  case h_1 | h_12 => exact reads_some rfl rfl
  all_goals
    refine reads_if fun hz => ?_
    dsimp only at hz
    simp only [hz]
    exact reads_some rfl rfl

theorem reads_decodeSync (f7 rs2 rs1 rd) : Reads ⟨f7, rs2, rs1, 6, rd, 0x0B⟩ (decodeSync ⟨f7, rs2, rs1, 6, rd, 0x0B⟩) := by
  obtain ⟨e, b, rfl⟩ := exists_sync f7
  obtain ⟨z, k, hk⟩ := exists_append (n := 2) (m := 3) rs1
  rw [decodeSync, sync_subop, sync_e, extractLsb'_append_eq_left (w := 1) (w' := 6)]
  split
  case h_6 => exact reads_none _
  all_goals
    rename_i hb
    obtain rfl := eq_ofNat_of_toNat hb
  case h_1 => exact reads_some rfl rfl
  case h_2 =>
    refine reads_if fun hz => ?_
    obtain rfl := eq_false_of_ofBool hz
    exact reads_some rfl rfl
  all_goals
    subst hk
    rw [extractLsb'_append_eq_left (w := 2) (w' := 3), extractLsb'_append_eq_right (w := 2) (w' := 3)]
  case h_5 =>
    refine reads_if fun hz => ?_
    subst hz
    exact reads_some rfl rfl
  all_goals
    refine reads_if fun hz => ?_
    dsimp only at hz
    simp only [hz]
    exact reads_some rfl rfl

theorem reads_decodeFence (f7 rs2 rs1 rd) : Reads ⟨f7, rs2, rs1, 7, rd, 0x0B⟩ (decodeFence ⟨f7, rs2, rs1, 7, rd, 0x0B⟩) := by
  rw [decodeFence]
  split
  case h_4 => exact reads_none _
  all_goals
    rename_i h7
    obtain rfl := eq_ofNat_of_toNat h7
    refine reads_if fun hz => ?_
    dsimp only at hz
  case h_3 =>
    obtain ⟨rfl, rfl, rfl⟩ := hz
    exact reads_some rfl rfl
  all_goals
    obtain ⟨rfl, rfl, hl⟩ := hz
    exact reads_some (decide_eq_true hl) rfl

theorem reads_decodeMem (f7 rs2 rs1 f3 rd) : Reads ⟨f7, rs2, rs1, f3, rd, 0x2B⟩ (decodeMem ⟨f7, rs2, rs1, f3, rd, 0x2B⟩) := by
  obtain ⟨a, e, b, rfl⟩ := exists_kind f7
  obtain ⟨z, n, hn⟩ := exists_append (n := 3) (m := 2) rd
  obtain ⟨y, k, hk⟩ := exists_append (n := 2) (m := 3) rd
  rw [decodeMem, kind_funct4, kind_mode, kind_e, kind_e_bit]
  split
  case h_25 => exact reads_none _
  all_goals
    rename_i ha hb
    obtain rfl := eq_ofNat_of_toNat ha
    obtain rfl := eq_ofNat_of_toNat hb
  case h_2 | h_3 | h_5 | h_6 | h_8 | h_9 | h_10 | h_20 | h_21 | h_22 => exact reads_some rfl rfl
  case h_1 | h_4 | h_7 | h_11 | h_19 =>
    refine reads_if fun hz => ?_
    dsimp only at hz
    simp only [hz]
    exact reads_some rfl rfl
  case h_12 | h_13 | h_14 | h_15 =>
    subst hn
    rw [extractLsb'_append_eq_left (w := 3) (w' := 2), extractLsb'_append_eq_right (w := 3) (w' := 2)]
    refine reads_if fun ⟨he, hz⟩ => ?_
    obtain rfl := eq_false_of_ofBool he
    dsimp only at hz
    simp only [hz]
    exact reads_some rfl rfl
  case h_16 =>
    subst hk
    rw [extractLsb'_append_eq_left (w := 2) (w' := 3), extractLsb'_append_eq_right (w := 2) (w' := 3)]
    refine reads_if fun ⟨he, hz⟩ => ?_
    obtain rfl := eq_false_of_ofBool he
    dsimp only at hz
    simp only [hz]
    exact reads_some rfl rfl
  case h_17 =>
    subst hk
    rw [extractLsb'_append_eq_left (w := 2) (w' := 3), extractLsb'_append_eq_right (w := 2) (w' := 3)]
    refine reads_if fun hz => ?_
    dsimp only at hz
    simp only [hz]
    exact reads_some rfl rfl
  all_goals
    refine reads_if fun ⟨he, hz⟩ => ?_
    obtain rfl := eq_false_of_ofBool he
    dsimp only at hz
    simp only [hz]
    exact reads_some rfl rfl

theorem reads_decodeVec (f7 rs2 rs1 f3 rd) : Reads ⟨f7, rs2, rs1, f3, rd, 0x5B⟩ (decodeVec ⟨f7, rs2, rs1, f3, rd, 0x5B⟩) := by
  obtain ⟨a, e, b, rfl⟩ := exists_kind f7
  obtain ⟨d, c, rfl⟩ := exists_append (n := 3) (m := 2) rd
  rw [decodeVec, kind_funct4, kind_mode, kind_e, extractLsb'_append_eq_left (w := 3) (w' := 2),
    extractLsb'_append_eq_right (w := 3) (w' := 2)]
  split
  case h_48 => exact reads_none _
  all_goals
    rename_i ha hb
    obtain rfl := eq_ofNat_of_toNat ha
    obtain rfl := eq_ofNat_of_toNat hb
  case h_37 | h_38 | h_39 => exact reads_if fun hd => reads_some (decide_eq_true hd) rfl
  case h_47 => exact reads_if fun hlt => reads_some (decide_eq_true hlt) rfl
  all_goals exact reads_some rfl rfl

theorem reads_decodeExtUnary (e rs2 rs1 f3 rd) : Reads ⟨0#4 ++ BitVec.ofBool e ++ 3#2, rs2, rs1, f3, rd, 0x5B⟩
    (decodeExtUnary ⟨0#4 ++ BitVec.ofBool e ++ 3#2, rs2, rs1, f3, rd, 0x5B⟩) := by
  rw [decodeExtUnary, kind_e]
  split
  case h_22 => exact reads_none _
  all_goals
    rename_i h2
    obtain rfl := eq_ofNat_of_toNat h2
  case h_19 =>
    refine reads_if fun hz => ?_
    obtain rfl : rs1 = 0 := hz
    exact reads_some rfl rfl
  all_goals exact reads_some rfl rfl

theorem reads_decodeExtConvert (e rs2 rs1 f3 rd) : Reads ⟨1#4 ++ BitVec.ofBool e ++ 3#2, rs2, rs1, f3, rd, 0x5B⟩
    (decodeExtConvert ⟨1#4 ++ BitVec.ofBool e ++ 3#2, rs2, rs1, f3, rd, 0x5B⟩) := by
  rw [decodeExtConvert, kind_e]
  split
  case h_6 => exact reads_none _
  all_goals
    rename_i h2
    obtain rfl := eq_ofNat_of_toNat h2
  all_goals exact reads_some rfl rfl

theorem reads_decodeExtReduce (e rs2 rs1 f3 rd) : Reads ⟨2#4 ++ BitVec.ofBool e ++ 3#2, rs2, rs1, f3, rd, 0x5B⟩
    (decodeExtReduce ⟨2#4 ++ BitVec.ofBool e ++ 3#2, rs2, rs1, f3, rd, 0x5B⟩) := by
  rw [decodeExtReduce, kind_e]
  split
  case h_8 => exact reads_none _
  all_goals
    rename_i h2
    obtain rfl := eq_ofNat_of_toNat h2
  all_goals exact reads_some rfl rfl

theorem reads_decodeExtPermute (e rs2 rs1 f3 rd) : Reads ⟨3#4 ++ BitVec.ofBool e ++ 3#2, rs2, rs1, f3, rd, 0x5B⟩
    (decodeExtPermute ⟨3#4 ++ BitVec.ofBool e ++ 3#2, rs2, rs1, f3, rd, 0x5B⟩) := by
  rw [decodeExtPermute, kind_e]
  split
  case h_6 => exact reads_none _
  all_goals
    rename_i h2
    obtain rfl := eq_ofNat_of_toNat h2
  case h_3 =>
    refine reads_if fun hz => ?_
    obtain rfl : rs1 = 0 := hz
    exact reads_some rfl rfl
  all_goals exact reads_some rfl rfl

theorem reads_decodeExtMomentum (e rs2 rs1 f3 rd) : Reads ⟨5#4 ++ BitVec.ofBool e ++ 3#2, rs2, rs1, f3, rd, 0x5B⟩
    (decodeExtMomentum ⟨5#4 ++ BitVec.ofBool e ++ 3#2, rs2, rs1, f3, rd, 0x5B⟩) := by
  rw [decodeExtMomentum, kind_e]
  split
  case h_2 => exact reads_none _
  all_goals
    rename_i h2
    obtain rfl := eq_ofNat_of_toNat h2
  all_goals exact reads_some rfl rfl

theorem reads_decodeExtMask (e rs2 rs1 f3 rd) : Reads ⟨4#4 ++ BitVec.ofBool e ++ 3#2, rs2, rs1, f3, rd, 0x5B⟩
    (decodeExtMask ⟨4#4 ++ BitVec.ofBool e ++ 3#2, rs2, rs1, f3, rd, 0x5B⟩) := by
  obtain ⟨y, d, rfl⟩ := exists_append (n := 2) (m := 3) rd
  obtain ⟨z, a, ha⟩ := exists_append (n := 2) (m := 3) rs1
  rw [decodeExtMask, kind_e, kind_e_bit, extractLsb'_append_eq_left (w := 2) (w' := 3) (a := y),
    extractLsb'_append_eq_right (w := 2) (w' := 3) (a := y)]
  split
  case h_11 => exact reads_none _
  all_goals
    rename_i h2
    obtain rfl := eq_ofNat_of_toNat h2
  case h_9 | h_10 =>
    refine reads_if fun ⟨he, hz⟩ => ?_
    obtain rfl := eq_false_of_ofBool he
    dsimp only at hz
    simp only [hz]
    exact reads_some rfl rfl
  all_goals
    subst ha
    rw [extractLsb'_append_eq_left (w := 2) (w' := 3), extractLsb'_append_eq_right (w := 2) (w' := 3)]
    refine reads_if fun hz => ?_
  case h_1 | h_2 | h_3 | h_4 =>
    simp only [hz]
    exact reads_some rfl rfl
  all_goals
    dsimp only at hz
    simp only [hz]
    exact reads_some rfl rfl

theorem reads_decodeV (f7 rs2 rs1 f3 rd) : Reads ⟨f7, rs2, rs1, f3, rd, 0x5B⟩ (decodeV ⟨f7, rs2, rs1, f3, rd, 0x5B⟩) := by
  rw [decodeV]
  refine reads_ite (fun hm => ?_) fun _ => reads_decodeVec f7 rs2 rs1 f3 rd
  obtain ⟨a, e, b, rfl⟩ := exists_kind f7
  rw [kind_mode] at hm
  subst hm
  rw [kind_funct4]
  split
  case h_7 => exact reads_none _
  all_goals
    rename_i ha
    obtain rfl := eq_ofNat_of_toNat ha
  case h_1 => exact reads_decodeExtUnary e rs2 rs1 f3 rd
  case h_2 => exact reads_decodeExtConvert e rs2 rs1 f3 rd
  case h_3 => exact reads_decodeExtReduce e rs2 rs1 f3 rd
  case h_4 => exact reads_decodeExtPermute e rs2 rs1 f3 rd
  case h_5 => exact reads_decodeExtMask e rs2 rs1 f3 rd
  case h_6 => exact reads_decodeExtMomentum e rs2 rs1 f3 rd

theorem reads_decodeCable (f7 rs2 rs1 f3 rd) : Reads ⟨f7, rs2, rs1, f3, rd, 0x7B⟩ (decodeCable ⟨f7, rs2, rs1, f3, rd, 0x7B⟩) := by
  obtain ⟨k, rfl, rfl⟩ := exists_imm8 rs1 f3
  obtain ⟨z, e, v, hc⟩ := exists_cable f7
  rw [decodeCable, imm8_join]
  split
  case h_15 => exact reads_none _
  all_goals
    rename_i hd
    obtain rfl := eq_ofNat_of_toNat hd
  case h_6 =>
    obtain ⟨y, j, rfl⟩ := exists_append (n := 4) (m := 3) f7
    obtain ⟨j, rfl, rfl⟩ := exists_slot j rs2
    rw [extractLsb'_append_eq_left (w := 4) (w' := 3), extractLsb'_append_eq_right (w := 4) (w' := 3), slot_join]
    refine reads_if fun hz => ?_
    subst hz
    exact reads_some rfl rfl
  all_goals subst hc
  case h_1 | h_2 | h_3 | h_4 =>
    rw [cable_z, cable_e, cable_low]
    exact reads_some rfl rfl
  case h_5 =>
    rw [cable_z, cable_e]
    refine reads_if fun ⟨h0, h1, h2, h3, h4, hz⟩ => ?_
    rw [cable_low_bit (by decide)] at h0 h1 h2 h3 h4
    obtain rfl := eq_zero_of_bits h0 h1 h2 h3 h4
    subst hz
    exact reads_some rfl rfl
  all_goals
    rw [cable_top, cable_e, cable_low]
    refine reads_if fun hz => ?_
    obtain rfl := eq_false_of_ofBool hz
    exact reads_some rfl rfl

theorem reads_decodeS (f7 rs2 rs1 f3 rd) : Reads ⟨f7, rs2, rs1, f3, rd, 0x0B⟩ (decodeS ⟨f7, rs2, rs1, f3, rd, 0x0B⟩) := by
  rw [decodeS]
  split
  case h_9 => exact reads_none _
  all_goals
    rename_i h3
    obtain rfl := eq_ofNat_of_toNat h3
  case h_1 => exact reads_decodeLoop f7 rs2 rs1 rd
  case h_2 => exact reads_decodeSeq f7 rs2 rs1 rd
  case h_3 => exact reads_decodeCfg f7 rs2 rs1 rd
  case h_4 => exact reads_decodeCopy f7 rs2 rs1 rd
  case h_5 => exact reads_decodeTeller f7 rs2 rs1 rd
  case h_6 => exact reads_decodeSys f7 rs2 rs1 rd
  case h_7 => exact reads_decodeSync f7 rs2 rs1 rd
  case h_8 => exact reads_decodeFence f7 rs2 rs1 rd

/-! ## The base -/

theorem reads_decodeOpImm (f7 rs2 rs1 f3 rd) : Reads ⟨f7, rs2, rs1, f3, rd, 0x13⟩ (decodeOpImm ⟨f7, rs2, rs1, f3, rd, 0x13⟩) := by
  obtain ⟨imm, hf, hr⟩ := exists_imm12 f7 rs2
  obtain ⟨a, b, hb⟩ := exists_append (n := 6) (m := 1) f7
  obtain ⟨sh, rfl, hs⟩ := exists_imm6 b rs2
  rw [decodeOpImm]
  split
  case h_9 => exact reads_none _
  all_goals
    rename_i h3
    obtain rfl := eq_ofNat_of_toNat h3
  case h_2 =>
    subst hb hs
    rw [extractLsb'_append_eq_left (w := 6) (w' := 1), extractLsb'_append_eq_right (w := 6) (w' := 1), imm6_join]
    refine reads_if fun hz => ?_
    subst hz
    exact reads_some rfl rfl
  case h_6 =>
    subst hb hs
    rw [extractLsb'_append_eq_left (w := 6) (w' := 1), extractLsb'_append_eq_right (w := 6) (w' := 1), imm6_join]
    refine reads_ite (fun hz => ?_) fun _ => reads_if fun hz => ?_
    all_goals
      subst hz
      exact reads_some rfl rfl
  all_goals
    subst hf hr
    rw [imm12_join]
    exact reads_some rfl rfl

theorem reads_decodeOpImm32 (f7 rs2 rs1 f3 rd) : Reads ⟨f7, rs2, rs1, f3, rd, 0x1B⟩ (decodeOpImm32 ⟨f7, rs2, rs1, f3, rd, 0x1B⟩) := by
  rw [decodeOpImm32]
  split
  case h_4 => exact reads_none _
  all_goals
    rename_i h3
    obtain rfl := eq_ofNat_of_toNat h3
  case h_1 =>
    obtain ⟨imm, rfl, rfl⟩ := exists_imm12 f7 rs2
    rw [imm12_join]
    exact reads_some rfl rfl
  case h_2 =>
    refine reads_if fun hz => ?_
    obtain rfl : f7 = 0 := hz
    exact reads_some rfl rfl
  case h_3 =>
    refine reads_ite (fun hz => ?_) fun _ => reads_if fun hz => ?_
    · obtain rfl : f7 = 0 := hz
      exact reads_some rfl rfl
    · obtain rfl : f7 = 0x20 := hz
      exact reads_some rfl rfl

theorem regOpEnc_of_regOpOf {f7 : BitVec 7} {f3 : BitVec 3} {o : RegOp} (h : regOpOf f7.toNat f3.toNat = some o) :
    regOpEnc o = (f7, f3) := by
  unfold regOpOf at h
  split at h
  all_goals cases h
  all_goals
    rename_i h7 h3
    rw [eq_ofNat_of_toNat h7, eq_ofNat_of_toNat h3]
    rfl

theorem regWOpEnc_of_regWOpOf {f7 : BitVec 7} {f3 : BitVec 3} {o : RegWOp} (h : regWOpOf f7.toNat f3.toNat = some o) :
    regWOpEnc o = (f7, f3) := by
  unfold regWOpOf at h
  split at h
  all_goals cases h
  all_goals
    rename_i h7 h3
    rw [eq_ofNat_of_toNat h7, eq_ofNat_of_toNat h3]
    rfl

theorem loadOpEnc_of_loadOpOf {f3 : BitVec 3} {o : LoadOp} (h : loadOpOf f3.toNat = some o) : loadOpEnc o = f3 := by
  unfold loadOpOf at h
  split at h
  all_goals cases h
  all_goals
    rename_i h3
    rw [eq_ofNat_of_toNat h3]
    rfl

theorem storeOpEnc_of_storeOpOf {f3 : BitVec 3} {o : StoreOp} (h : storeOpOf f3.toNat = some o) : storeOpEnc o = f3 := by
  unfold storeOpOf at h
  split at h
  all_goals cases h
  all_goals
    rename_i h3
    rw [eq_ofNat_of_toNat h3]
    rfl

theorem condEnc_of_condOf {f3 : BitVec 3} {c : Cond} (h : condOf f3.toNat = some c) : condEnc c = f3 := by
  unfold condOf at h
  split at h
  all_goals cases h
  all_goals
    rename_i h3
    rw [eq_ofNat_of_toNat h3]
    rfl

theorem amoOpEnc_of_amoOpOf {f5 : BitVec 5} {o : AmoOp} (h : amoOpOf f5.toNat = some o) : amoOpEnc o = f5 := by
  unfold amoOpOf at h
  split at h
  all_goals cases h
  all_goals
    rename_i h5
    rw [eq_ofNat_of_toNat h5]
    rfl

/-- A word of Zicsr is well formed whatever CSR it names: the six CSRs with rows of their own go to theirs. -/
theorem reads_csrInstr (op : CsrOp) (csr : BitVec 12) (src rd : XReg) :
    Reads (encCsr op csr src rd) (some (csrInstr op csr src rd)) := by
  rw [csrInstr]
  split_ifs with hvl hfl hpt hmip hsip hpc hprof
  · exact reads_some rfl (by rw [hvl]; rfl)
  · exact reads_some rfl (by rw [hfl]; rfl)
  · exact reads_some rfl (by rw [hpt]; rfl)
  · exact reads_some rfl (by rw [hmip]; rfl)
  · exact reads_some rfl (by rw [hsip]; rfl)
  · exact reads_some (decide_eq_true hprof) (by rw [hpc]; rfl)
  · exact reads_some (decide_eq_true (eq_false_of_ne_true hprof)) (by rw [hpc]; rfl)
  · exact reads_some (decide_eq_true ⟨hvl, hfl, hpt, hmip, hsip, hpc⟩) rfl

theorem reads_decodeSystem (f7 rs2 rs1 f3 rd) : Reads ⟨f7, rs2, rs1, f3, rd, 0x73⟩ (decodeSystem ⟨f7, rs2, rs1, f3, rd, 0x73⟩) := by
  obtain ⟨csr, rfl, rfl⟩ := exists_imm12 f7 rs2
  rw [decodeSystem, imm12_join]
  split
  case h_8 => exact reads_none _
  all_goals
    rename_i h3
    obtain rfl := eq_ofNat_of_toNat h3
  case h_1 =>
    refine reads_if fun hz => ?_
    obtain ⟨rfl, rfl⟩ : rs1 = 0 ∧ rd = 0 := hz
    split
    case h_6 => exact reads_none _
    all_goals
      rename_i hcsr
      obtain rfl := eq_ofNat_of_toNat hcsr
      exact reads_some rfl (by simp [encFields])
  all_goals exact reads_csrInstr _ csr rs1 rd

theorem reads_decodeMiscMem (f7 rs2 rs1 f3 rd) : Reads ⟨f7, rs2, rs1, f3, rd, 0x0F⟩ (decodeMiscMem ⟨f7, rs2, rs1, f3, rd, 0x0F⟩) := by
  rw [decodeMiscMem]
  split
  case h_3 => exact reads_none _
  all_goals
    rename_i h3
    obtain rfl := eq_ofNat_of_toNat h3
  case h_1 =>
    obtain ⟨fm, p, rfl⟩ := exists_append (n := 4) (m := 3) f7
    obtain ⟨q, succ, rfl⟩ := exists_append (n := 1) (m := 4) rs2
    obtain ⟨pred, rfl, rfl⟩ := exists_pred p q
    rw [extractLsb'_append_eq_left (w := 4) (w' := 3), extractLsb'_append_eq_right (w := 4) (w' := 3),
      extractLsb'_append_eq_left (w := 1) (w' := 4), extractLsb'_append_eq_right (w := 1) (w' := 4), pred_join]
    exact reads_some rfl rfl
  case h_2 =>
    obtain ⟨imm, rfl, rfl⟩ := exists_imm12 f7 rs2
    rw [imm12_join]
    exact reads_some rfl rfl

theorem amoWidthEnc_of_width {f3 : BitVec 3} (h : f3 = 2 ∨ f3 = 3) : amoWidthEnc (decide (f3 = 3)) = f3 := by
  rcases h with rfl | rfl <;> rfl

theorem reads_decodeAmo (f7 rs2 rs1 f3 rd) : Reads ⟨f7, rs2, rs1, f3, rd, 0x2F⟩ (decodeAmo ⟨f7, rs2, rs1, f3, rd, 0x2F⟩) := by
  obtain ⟨a, aq, rl, rfl⟩ := exists_amo f7
  rw [decodeAmo, amo_funct5, amo_aq, amo_rl]
  refine reads_if fun hw => ?_
  refine reads_ite (fun ha => reads_if fun hz => ?_) fun _ => reads_ite (fun ha => ?_) fun _ => reads_map fun o ho => ?_
  · obtain rfl : rs2 = 0 := hz
    obtain rfl := eq_ofNat_of_toNat ha
    exact reads_some rfl (by simp only [encFields, amoWidthEnc_of_width hw])
  · obtain rfl := eq_ofNat_of_toNat ha
    exact reads_some rfl (by simp only [encFields, amoWidthEnc_of_width hw])
  · exact reads_some rfl (by simp only [encFields, amoWidthEnc_of_width hw, amoOpEnc_of_amoOpOf ho])

theorem reads_decodeBase (f7 rs2 rs1 f3 rd op) : Reads ⟨f7, rs2, rs1, f3, rd, op⟩ (decodeBase ⟨f7, rs2, rs1, f3, rd, op⟩) := by
  rw [decodeBase]
  split
  case h_15 => exact reads_none _
  all_goals
    rename_i hop
    obtain rfl := eq_ofNat_of_toNat hop
  case h_3 => exact reads_decodeOpImm f7 rs2 rs1 f3 rd
  case h_4 => exact reads_decodeOpImm32 f7 rs2 rs1 f3 rd
  case h_12 => exact reads_decodeAmo f7 rs2 rs1 f3 rd
  case h_13 => exact reads_decodeMiscMem f7 rs2 rs1 f3 rd
  case h_14 => exact reads_decodeSystem f7 rs2 rs1 f3 rd
  case h_1 | h_2 =>
    obtain ⟨imm, rfl, rfl, rfl, rfl⟩ := exists_imm20 f7 rs2 rs1 f3
    rw [imm20_join]
    exact reads_some rfl rfl
  case h_5 => exact reads_map fun o ho => reads_some rfl (by simp only [encFields, encAlu, regOpEnc_of_regOpOf ho]; rfl)
  case h_6 => exact reads_map fun o ho => reads_some rfl (by simp only [encFields, encAlu, regWOpEnc_of_regWOpOf ho]; rfl)
  case h_7 =>
    obtain ⟨a, m, rfl⟩ := exists_append (n := 1) (m := 6) f7
    obtain ⟨lo, b, rfl⟩ := exists_append (n := 4) (m := 1) rs2
    obtain ⟨imm, rfl, rfl, rfl, rfl, rfl, rfl⟩ := exists_jal a rs1 f3 b m lo
    rw [extractLsb'_append_eq_left (w := 1) (w' := 6), extractLsb'_append_eq_right (w := 1) (w' := 6),
      extractLsb'_append_eq_left (w := 4) (w' := 1), extractLsb'_append_eq_right (w := 4) (w' := 1), jal_join]
    exact reads_some rfl rfl
  case h_8 =>
    obtain ⟨imm, rfl, rfl⟩ := exists_imm12 f7 rs2
    rw [imm12_join]
    refine reads_if fun hz => ?_
    obtain rfl : f3 = 0 := hz
    exact reads_some rfl rfl
  case h_9 =>
    obtain ⟨a, m, rfl⟩ := exists_append (n := 1) (m := 6) f7
    obtain ⟨lo, b, rfl⟩ := exists_append (n := 4) (m := 1) rd
    obtain ⟨imm, rfl, rfl, rfl, rfl⟩ := exists_branch a b m lo
    rw [extractLsb'_append_eq_left (w := 1) (w' := 6), extractLsb'_append_eq_right (w := 1) (w' := 6),
      extractLsb'_append_eq_left (w := 4) (w' := 1), extractLsb'_append_eq_right (w := 4) (w' := 1), branch_join]
    exact reads_map fun c hc => reads_some rfl (by simp only [encFields, encJump, condEnc_of_condOf hc]; rfl)
  case h_10 =>
    obtain ⟨imm, rfl, rfl⟩ := exists_imm12 f7 rs2
    rw [imm12_join]
    exact reads_map fun o ho => reads_some rfl (by simp only [encFields, loadOpEnc_of_loadOpOf ho]; rfl)
  case h_11 =>
    obtain ⟨imm, rfl, rfl⟩ := exists_imm12 f7 rd
    rw [imm12_join]
    exact reads_map fun o ho => reads_some rfl (by simp only [encFields, storeOpEnc_of_storeOpOf ho]; rfl)

/-- Whatever the decoder answers is well formed, and the encoder writes its fields (R98). -/
theorem reads_decodeFields (f : Fields) : Reads f (decodeFields f) := by
  obtain ⟨f7, rs2, rs1, f3, rd, op⟩ := f
  rw [decodeFields]
  split
  case h_5 => exact reads_decodeBase f7 rs2 rs1 f3 rd op
  all_goals
    rename_i hop
    obtain rfl := eq_ofNat_of_toNat hop
  case h_1 => exact reads_decodeS f7 rs2 rs1 f3 rd
  case h_2 => exact reads_decodeMem f7 rs2 rs1 f3 rd
  case h_3 => exact reads_decodeV f7 rs2 rs1 f3 rd
  case h_4 => exact reads_decodeCable f7 rs2 rs1 f3 rd

/-- Settles O2: the decoder reads only what the encoder writes (`reads_decodeFields`), and a word is its fields joined. -/
theorem encodeOfDecode : Obligations.EncodeOfDecode := by
  unfold Obligations.EncodeOfDecode
  intro w i h
  obtain ⟨hwf, hf⟩ := reads_decodeFields (fieldsOfWord w) i h
  exact ⟨hwf, by rw [encode, hf, Option.map_some, wordOfFields_fieldsOfWord]⟩

end Sys2Proof
end

section
/-! SUPPORT. A taken jump and the loop bodies it leaves (R187): the level that `jumpPops` finds. -/

namespace Sys2Proof.Machine

/-- A list of consecutive numbers is searched upwards. -/
theorem find?_upFrom_eq_some {p : Nat → Bool} {lo n k : Nat} (hlo : lo ≤ k) (hk : k < lo + n) (hp : p k = true)
    (hbelow : ∀ j, lo ≤ j → j < k → p j = false) : (upFrom lo n).find? p = some k := by
  induction n generalizing lo with
  | zero => omega
  | succ n ih =>
    rw [upFrom, List.find?_cons]
    rcases Nat.eq_or_lt_of_le hlo with rfl | hlt
    · rw [hp]
    · rw [hbelow lo le_rfl hlt]
      exact ih hlt (by omega) fun j hj hjk => hbelow j (by omega) hjk

/-- An active level's body holds a jump target. -/
def Level.holds (l : Level) (tgt : Word) : Prop := l.act = true ∧ l.start.toNat ≤ tgt.toNat ∧ tgt.toNat ≤ l.stop.toNat

/-- A taken jump leaves level n where it is: it is not active, or suspended, or its body or that of a higher level holds the
target. -/
def jumpStays (ls : Vector Level 6) (tgt : Word) (n : Fin 6) : Prop :=
  ls[n].act = false ∨ ls[n].susp = true ∨ ∃ j : Fin 6, n ≤ j ∧ ls[j].holds tgt

/-- The levels that `jumpPops` picks the lowest of. -/
def jumpLeaves (ls : Vector Level 6) (tgt : Word) (i : Nat) : Bool :=
  let l := ls.toList.getD i Level.off
  (l.act && !l.susp && (tgt.ult l.start || l.stop.ult tgt)) && !((upFrom (i + 1) (5 - i)).any fun j =>
    let l := ls.toList.getD j Level.off
    l.act && !(tgt.ult l.start || l.stop.ult tgt))

theorem jumpPops_eq (ls : Vector Level 6) (tgt : Word) : jumpPops ls tgt = (upFrom 0 6).find? (jumpLeaves ls tgt) := rfl

theorem Level.getD_toList (ls : Vector Level 6) (n : Fin 6) : ls.toList.getD n.val Level.off = ls[n] := by
  simp [List.getD_eq_getElem?_getD]

theorem Level.holds_iff (l : Level) (tgt : Word) : l.holds tgt ↔ (l.act && !(tgt.ult l.start || l.stop.ult tgt)) = true := by
  simp [Level.holds, BitVec.ult]

/-- A higher level's body holds the target. -/
theorem any_inside_iff (ls : Vector Level 6) (tgt : Word) (n : Fin 6) :
    ((upFrom (n.val + 1) (5 - n.val)).any fun j =>
      let l := ls.toList.getD j Level.off
      l.act && !(tgt.ult l.start || l.stop.ult tgt)) = true ↔ ∃ j : Fin 6, n < j ∧ ls[j].holds tgt := by
  rw [List.any_eq_true]
  constructor
  · rintro ⟨j, hj, hin⟩
    rw [mem_upFrom] at hj
    refine ⟨⟨j, by omega⟩, Fin.lt_def.2 (by simpa using hj.1), ?_⟩
    rw [Level.holds_iff, ← Level.getD_toList]
    exact hin
  · rintro ⟨j, hj, hin⟩
    refine ⟨j.val, mem_upFrom.2 (by have := Fin.lt_def.1 hj; omega), ?_⟩
    rw [Level.holds_iff, ← Level.getD_toList] at hin
    exact hin

theorem jumpLeaves_eq_false_iff (ls : Vector Level 6) (tgt : Word) (n : Fin 6) :
    jumpLeaves ls tgt n.val = false ↔ jumpStays ls tgt n := by
  have hge : (∃ j : Fin 6, n ≤ j ∧ ls[j].holds tgt) ↔ ls[n].holds tgt ∨ ∃ j : Fin 6, n < j ∧ ls[j].holds tgt := by
    constructor
    · rintro ⟨j, hj, h⟩
      rcases Fin.eq_or_lt_of_le hj with rfl | hlt
      · exact .inl h
      · exact .inr ⟨j, hlt, h⟩
    · rintro (h | ⟨j, hj, h⟩)
      · exact ⟨n, le_rfl, h⟩
      · exact ⟨j, hj.le, h⟩
  rw [jumpStays, hge, ← any_inside_iff, Level.holds_iff, jumpLeaves, Level.getD_toList]
  generalize (upFrom (n.val + 1) (5 - n.val)).any _ = above
  cases ls[n].act <;> cases ls[n].susp <;> cases above <;> simp

theorem jumpPops_eq_none {ls : Vector Level 6} {tgt : Word} (h : ∀ n, jumpStays ls tgt n) : jumpPops ls tgt = none := by
  rw [jumpPops_eq, List.find?_eq_none]
  intro n hn
  rw [mem_upFrom] at hn
  rw [(jumpLeaves_eq_false_iff ls tgt ⟨n, by omega⟩).2 (h _)]
  exact Bool.false_ne_true

theorem jumpPops_eq_some {ls : Vector Level 6} {tgt : Word} {n : Fin 6} (hn : ¬jumpStays ls tgt n)
    (hbelow : ∀ j : Fin 6, j < n → jumpStays ls tgt j) : jumpPops ls tgt = some n.val := by
  rw [jumpPops_eq]
  refine find?_upFrom_eq_some n.val.zero_le (by omega) ?_ fun j _ hj => ?_
  · rw [← jumpLeaves_eq_false_iff, Bool.not_eq_false] at hn
    exact hn
  · exact (jumpLeaves_eq_false_iff ls tgt ⟨j, by omega⟩).2 (hbelow _ hj)

theorem Ctx.jumpLoops_of_guess {c : Ctx} (h : c.isGuess = true) (tgt : Word) : c.jumpLoops tgt = c.loops := if_pos h

theorem Ctx.jumpLoops_of_stays {c : Ctx} {tgt : Word} (h : ∀ n, jumpStays c.loops tgt n) : c.jumpLoops tgt = c.loops := by
  rw [Ctx.jumpLoops, jumpPops_eq_none h, ite_self]

theorem Ctx.jumpLoops_of_leaves {c : Ctx} {tgt : Word} {n : Fin 6} (hg : c.isGuess = false) (hn : ¬jumpStays c.loops tgt n)
    (hbelow : ∀ j : Fin 6, j < n → jumpStays c.loops tgt j) : c.jumpLoops tgt = popFrom c.loops n.val := by
  rw [Ctx.jumpLoops, jumpPops_eq_some hn hbelow, hg]
  rfl

theorem popFrom_getElem (ls : Vector Level 6) (n j : Fin 6) :
    (popFrom ls n.val)[j] = if j < n then ls[j] else { ls[j] with act := false, susp := false } := by
  have : (popFrom ls n.val)[j] = if n.val ≤ j.val then { ls[j] with act := false, susp := false } else ls[j] := by
    simp [popFrom]
  rw [this]
  by_cases h : j < n
  · rw [if_pos h, if_neg (by simpa using h)]
  · rw [if_neg h, if_pos (by simpa using h)]

theorem retireJump_loops (s : State) (tgt : Word) : (retireJump s tgt).ctx.loops = s.ctx.jumpLoops tgt :=
  Ctx.countRetired_loops _

theorem leavesEscrow_of_no_escrow {c : Ctx} (h : c.esc = none) (tgt : Word) : leavesEscrow c tgt = false := by
  simp [leavesEscrow, Ctx.escActive, h]

theorem misaligned_eq (tgt : Word) : misaligned tgt = decide (tgt.extractLsb' 0 2 ≠ 0) := by
  rw [misaligned, Bool.eq_iff_iff, bne_iff_ne, decide_eq_true_eq]

/-- A ready branch or jump: not taken, to a misaligned target, or taken. -/
theorem exec_baseBranchJump_of_ready {f : JumpForm} {s : State} (h : Ready (.baseBranchJump f) s) :
    exec (.baseBranchJump f) s = match jumpTarget f s.ctx with
      | none => .next (retire s)
      | some tgt => if tgt.extractLsb' 0 2 ≠ 0 then .next (enterTrap s false cMisFetch tgt)
        else .next (retireJump (s.setX (jumpLink f) (s.ctx.pc + 4)) tgt) := by
  obtain ⟨-, -, -, -, hesc, -⟩ := h.1
  show execBaseBranchJump f s = _
  rw [execBaseBranchJump, guarded_of_ready h]
  cases jumpTarget f s.ctx with
  | none => rfl
  | some tgt =>
    simp only [leavesEscrow_of_no_escrow hesc, raiseTrap_of_no_escrow hesc, misaligned_eq, decide_eq_true_eq, Bool.false_eq_true,
      if_false]

end Sys2Proof.Machine

namespace Sys2Proof

open Sys2Proof.Machine

/-- Settles O16: the effect of a ready jump from one lemma, the popped level from what `jumpPops` finds. -/
theorem branchJumpCompletes : Obligations.BranchJumpCompletes := by
  unfold Obligations.BranchJumpCompletes
  refine ⟨fun f s hr => ⟨fun ht => ?_, fun tgt ht hm => ?_, fun tgt ht hm => ?_⟩, ?_⟩
  · rw [exec_baseBranchJump_of_ready hr, ht]
  · rw [exec_baseBranchJump_of_ready hr, ht]
    exact if_pos hm
  · rw [exec_baseBranchJump_of_ready hr, ht]
    exact if_neg (not_not.2 hm)
  · intro s tgt holds stays
    refine ⟨retireJump_pc s tgt, fun h => ?_, fun h => ?_, fun n hg hn hbelow j => ?_, retireJump_ctx_x s tgt, ?_, ?_⟩
    · rw [retireJump_loops, Ctx.jumpLoops_of_stays h]
    · rw [retireJump_loops, Ctx.jumpLoops_of_guess h]
    · rw [retireJump_loops, Ctx.jumpLoops_of_leaves hg hn hbelow]
      exact popFrom_getElem s.ctx.loops n j
    · simp [SameElsewhere]
    · simp [SameCore]

end Sys2Proof
end

section
/-! SUPPORT. What a core holds after reset (Table 2.1), the scalar register file (R93), and the ready instructions that only trap,
retire or access a CSR (R82, R84, R85, R87, R101, R113). -/

namespace Sys2Proof.Machine

/-! ## Reset and the scalar registers -/

theorem Ctx.reset_vr (r : VReg5) : Ctx.reset.vr r = VReg.vacant := Vector.getElem_replicate _

theorem Ctx.reset_mbit {k : MReg3} (hk : k ≠ 0) (i : Nat) : Ctx.reset.mbit k i = false := by
  have hm : Ctx.reset.m[k.toNat] = MReg.clear := Vector.getElem_replicate _
  rw [Ctx.mbit, hm, decide_eq_false hk]
  simp [MReg.clear, getBit, getByte]

theorem Ctx.reset_slot (n : Fin 256) : Ctx.reset.slots[n] = Slot.free := Vector.getElem_replicate _

theorem Ctx.getX_zero (c : Ctx) : c.getX 0 = 0 := if_pos rfl

theorem Ctx.getX_setX_same {r : XReg} (hr : r ≠ 0) (c : Ctx) (v : Word) : (c.setX r v).getX r = v := by
  rw [Ctx.getX, if_neg hr, Ctx.setX, if_neg hr]
  exact Vector.getElem_set_self _

theorem Ctx.getX_setX_ne {r q : XReg} (hq : q ≠ r) (c : Ctx) (v : Word) : (c.setX r v).getX q = c.getX q := by
  rw [Ctx.setX]
  split
  · rfl
  · rw [Ctx.getX, Ctx.getX, Vector.getElem_set_ne _ _ fun h => hq (BitVec.eq_of_toNat_eq h.symm)]

/-! ## Instructions that trap or retire -/

theorem raiseTrap_of_ready {i : Instr} {s : State} (h : Ready i s) (c : BitVec 6) (v : Word) :
    raiseTrap s c v = enterTrap s false c v := by
  obtain ⟨⟨-, -, -, -, hesc, -⟩, -⟩ := h
  exact raiseTrap_of_no_escrow hesc c v

theorem exec_ecall_of_ready {s : State} (h : Ready .ecall s) : exec .ecall s = .next (enterTrap s false
    (match s.core.priv with
      | .user => 8
      | .supervisor => 9
      | .machine => 11) 0) := by
  show execEcall s = _
  rw [execEcall, guarded_of_ready h]
  exact congrArg Host.Outcome.next (raiseTrap_of_ready h _ _)

theorem exec_ebreak_of_ready {s : State} (h : Ready .ebreak s) : exec .ebreak s = .next (enterTrap s false 3 s.ctx.pc) := by
  show execEbreak s = _
  rw [execEbreak, guarded_of_ready h, raiseTrap_of_ready h]
  rfl

theorem narrow_of_no_escrow {s : State} (h : s.ctx.esc = none) : s.narrow = s := by
  simp [State.narrow, Ctx.escActive, h]

theorem fenceMarks_of_no_held {s : State} (h : s.heldStores = []) : fenceMarks s = s := by
  simp [fenceMarks, h]

theorem exec_fence_of_ready {fm p q : BitVec 4} {rs1 rd : XReg} {s : State} (h : Ready (.fence fm p q rs1 rd) s)
    (hheld : s.heldStores = []) : exec (.fence fm p q rs1 rd) s = .next (retire s) := by
  show execFence fm p q rs1 rd s = _
  rw [execFence, guarded_of_ready h, fenceMarks_of_no_held hheld, ite_self]

theorem exec_fenceI_of_ready {imm : BitVec 12} {rs1 rd : XReg} {s : State} (h : Ready (.fenceI imm rs1 rd) s) :
    exec (.fenceI imm rs1 rd) s = .next (retire { s with core := { s.core with icache := [] } }) := by
  show execFenceI imm rs1 rd s = _
  rw [execFenceI, guarded_of_ready h]

theorem exec_hint_of_ready {s : State} (h : Ready .hint s) : exec .hint s = .next (retire s) := by
  show execHint s = _
  rw [execHint, guarded_of_ready h]

theorem exec_wfi_of_ready {s : State} (h : Ready .wfi s)
    (htw : s.core.priv = .supervisor → s.core.csr.mstatus.getLsbD bitTW = false) :
    exec .wfi s = .next { retire s with core := { (retire s).core with wfi := true } } := by
  show execWfi s = _
  rw [execWfi, guarded_of_ready h, if_neg fun ⟨hs, ht⟩ => by rw [htw hs] at ht; cases ht]

/-! ## The order of the checks (Table 4.7) -/

/-- With no escrow loop and nothing queued the first check is the privilege's. -/
theorem gate_of_clear {s : State} (h : s.Clear) (i : Instr) : gate i s =
    if !privOk s (opAttr i) then .trap cIllegal (instrWord i)
    else if !profOk s (opAttr i) then .trap cProfile (instrWord i)
    else if (decodeClass i).any s.fenced then .trap cFenced (instrWord i)
    else .pass := by
  obtain ⟨-, hviq, -, hsrq, hesc, -, -⟩ := h
  simp [gate, Ctx.isGuess_of_no_escrow hesc, Ctx.isSpec_of_no_escrow hesc, expectsLoop_of_no_escrow hesc,
    srqHazard_of_empty hsrq, hviq]

/-! ## Zicsr accesses -/

/-- With nothing queued and VL settled, what a Zicsr form reads is the CSR's value. -/
theorem csrOld_of_clear {s : State} {a : BitVec 12} {old : Word} (hviq : s.ctx.viq = []) (hvl : s.ctx.vlProv = none)
    (hold : readCsr s a = some old) (need : Bool) : csrOld s a need = .value old := by
  have hbusy : viqBusy s.ctx = false := by rw [viqBusy, hviq]; rfl
  rw [csrOld, hold]
  simp [hvl, hbusy]

/-- A ready access that the base allows writes the old value to rd after its own write. -/
theorem csrAccess_of_ready {i : Instr} {op : CsrOp} {a : BitVec 12} {src rd : XReg} {wr : State → Word → Option State} {s : State}
    {old : Word} (h : Ready i s) (hok : CsrAllowed s op a src) (hvl : s.ctx.vlProv = none) (hold : readCsr s a = some old) :
    csrAccess i op a src rd wr s =
      if csrWrites op src then
        (wr s (csrNew op old (csrSource op src s.ctx))).elim (illegal i s) fun t => .next (retire (t.setX rd old))
      else .next (retire (s.setX rd old)) := by
  obtain ⟨hpriv, hro⟩ := hok
  obtain ⟨-, hviq, -⟩ := h.1
  have hfirst : csrFirst i s = false := by rw [csrFirst, gate_of_ready h]
  have hbad : (!csrPrivOk s.core.priv a || (csrWrites op src && a.extractLsb' 10 2 == 3)) = false := by
    cases hw : csrWrites op src with
    | false => simp [hpriv]
    | true => simpa [hpriv] using hro hw
  unfold csrAccess
  rw [hfirst, Bool.false_and, if_neg Bool.false_ne_true, guarded_of_ready h]
  simp only [hbad, csrOld_of_clear hviq hvl hold, Bool.false_eq_true, if_false]
  cases wr s (csrNew op old (csrSource op src s.ctx)) <;> rfl

end Sys2Proof.Machine

namespace Sys2Proof

open Sys2Proof.Machine

/-- Settles O3, by decoding each word. -/
theorem decodeSampleWords : Obligations.DecodeSampleWords := by
  unfold Obligations.DecodeSampleWords
  decide

/-- Settles O8, by the reset values of the core and its context. -/
theorem resetContextValues : Obligations.ResetContextValues := by
  unfold Obligations.ResetContextValues
  refine ⟨rfl, by decide, by decide, rfl, fun r => ?_, fun k i hk => Ctx.reset_mbit hk i, fun n => ?_, by decide, rfl, rfl, rfl, rfl⟩
  · exact congrArg VReg.st (Ctx.reset_vr r)
  · exact congrArg Slot.alloc (Ctx.reset_slot n)

/-- Settles O13: a write of x0 is dropped, and any other goes to its own place of the file. -/
theorem scalarRegisterFile : Obligations.ScalarRegisterFile := by
  unfold Obligations.ScalarRegisterFile
  exact fun s r q v => ⟨s.ctx.getX_zero, rfl, fun hr => s.ctx.getX_setX_same hr v, fun hq => s.ctx.getX_setX_ne hq v⟩

/-- Settles O11: with no escrow loop open a trap is taken at once. -/
theorem callsTakeTheirTrap : Obligations.CallsTakeTheirTrap := by
  unfold Obligations.CallsTakeTheirTrap
  refine ⟨fun s => exec_ecall_of_ready, fun s => exec_ebreak_of_ready, fun s cause tval => ⟨fun hesc hc => ?_, fun hc => ?_⟩⟩
  · show execTrapEntry cause tval s = _
    rw [execTrapEntry, if_pos hc, narrow_of_no_escrow hesc]
  · show execTrapEntry cause tval s = _
    rw [execTrapEntry, if_neg (by rw [hc]; exact Bool.false_ne_true)]

/-- Settles O20: each is ready and does its own effect. -/
theorem fencesAndHintsRetire : Obligations.FencesAndHintsRetire := by
  unfold Obligations.FencesAndHintsRetire
  exact ⟨fun fm p q rs1 rd s => exec_fence_of_ready, fun imm rs1 rd s => exec_fenceI_of_ready, fun s => exec_hint_of_ready,
    fun s => exec_wfi_of_ready⟩

/-- Settles O9, by the checks that a clear state leaves. -/
theorem checksInOrder : Obligations.ChecksInOrder := by
  unfold Obligations.ChecksInOrder
  refine ⟨fun i s h => gate_of_ready h, fun i s h => ?_⟩
  rw [gate_of_clear h]
  refine ⟨fun hp => ?_, fun hp hf => ?_, fun hp hf hc => ?_⟩
  · simp [hp]
  · simp [hp, hf]
  · simp [hp, hf, hc]

/-- Settles O21, by what a ready and allowed access does. -/
theorem csrAccessCompletes : Obligations.CsrAccessCompletes := by
  unfold Obligations.CsrAccessCompletes
  intro op csr src rd s old h hok hvl hold
  have hexec : exec (.csrWrite op csr src rd) s = csrAccess (.csrWrite op csr src rd) op csr src rd
      (fun t v => writeCsr t csr v) s := rfl
  rw [hexec, csrAccess_of_ready h hok hvl hold]
  refine ⟨fun hw => ?_, fun t hw ht => ?_⟩
  · simp [hw]
  · simp [hw, ht]

end Sys2Proof
end

section
/-! SUPPORT. What a computation of an instruction answers, and where it leaves the state: the rules of sequence, and the accesses
of M-mode to plain memory (R415, R416); then a step from its fetch (R81). -/

namespace Sys2Proof.Machine

/-! ## Running a computation -/

/-- From s the computation answers a, and leaves t. -/
def Runs {α : Type} (m : M α) (s : State) (a : α) (t : State) : Prop := m.run s = (.ok a, t)

/-- From s the computation stops with e, and leaves t. -/
def Stops {α : Type} (m : M α) (s : State) (e : Exc) (t : State) : Prop := m.run s = (.error e, t)

section
variable {α β : Type} {s t u : State} {a : α} {b : β} {e : Exc} {m : M α} {f : α → M β}

theorem Runs.pure (a : α) (s : State) : Runs (pure a) s a s := rfl

theorem Runs.bind (h : Runs m s a t) (g : Runs (f a) t b u) : Runs (m >>= f) s b u := by
  unfold Runs at *
  rw [run_bind, h]
  exact g

theorem Runs.bind_stops (h : Runs m s a t) (g : Stops (f a) t e u) : Stops (m >>= f) s e u := by
  unfold Runs at h
  unfold Stops at *
  rw [run_bind, h]
  exact g

theorem Stops.bind (h : Stops m s e t) : Stops (m >>= f) s e t := by
  unfold Stops at *
  rw [run_bind, h]

theorem Runs.get_bind {f : State → M β} (h : Runs (f s) s b u) : Runs (get >>= f) s b u := h
theorem Runs.set_bind {f : PUnit → M β} (h : Runs (f ⟨⟩) t b u) : Runs (set t >>= f) s b u := h
theorem Runs.modify_bind {g : State → State} {f : PUnit → M β} (h : Runs (f ⟨⟩) (g s) b u) : Runs (modify g >>= f) s b u := h
theorem Runs.set (s t : State) : Runs (set t : M PUnit) s ⟨⟩ t := rfl
theorem Runs.modify (g : State → State) (s : State) : Runs (modify g : M PUnit) s ⟨⟩ (g s) := rfl
theorem Stops.get_bind {f : State → M β} (h : Stops (f s) s e u) : Stops (get >>= f) s e u := h
theorem Stops.throw (e : Exc) (s : State) : Stops (throw e : M α) s e s := rfl
theorem Stops.trapM (c : BitVec 6) (v : Word) (s : State) : Stops (trapM c v : M α) s (.trap c v) s := rfl

theorem Runs.ite_pos {c : Prop} [Decidable c] {m n : M α} (hc : c) (h : Runs m s a t) : Runs (if c then m else n) s a t := by
  rwa [if_pos hc]

theorem Runs.ite_neg {c : Prop} [Decidable c] {m n : M α} (hc : ¬c) (h : Runs n s a t) : Runs (if c then m else n) s a t := by
  rwa [if_neg hc]

theorem Stops.ite_pos {c : Prop} [Decidable c] {m n : M α} (hc : c) (h : Stops m s e t) : Stops (if c then m else n) s e t := by
  rwa [if_pos hc]

theorem Stops.ite_neg {c : Prop} [Decidable c] {m n : M α} (hc : ¬c) (h : Stops n s e t) : Stops (if c then m else n) s e t := by
  rwa [if_neg hc]

/-- A computation that ends is an instruction's next state. -/
theorem runM_of_runs {m : M Unit} (h : Runs m s () t) : runM m s = .next t := by
  unfold Runs at h
  rw [runM, h]

/-- One that stops with a trap raises it. -/
theorem runM_of_trap {m : M Unit} {c : BitVec 6} {v : Word} (h : Stops m s (.trap c v) t) : runM m s = .next (raiseTrap t c v) := by
  unfold Stops at h
  rw [runM, h]

theorem Runs.tryCatch {h : Exc → M α} (hm : Runs m s a t) : Runs (tryCatch m h) s a t := by
  have hm' : StateT.run m.run s = (.ok a, t) := hm
  unfold Runs
  rw [ExceptT.run_tryCatch]
  show StateT.run _ s = _
  rw [StateT.run_bind, hm']
  rfl

theorem Stops.tryCatch {h : Exc → M α} {e' : Exc} (hm : Stops m s e t) (hh : Stops (h e) t e' u) : Stops (tryCatch m h) s e' u := by
  have hm' : StateT.run m.run s = (.error e, t) := hm
  unfold Stops
  rw [ExceptT.run_tryCatch]
  show StateT.run _ s = _
  rw [StateT.run_bind, hm']
  exact hh

theorem Runs.withLevels {m : M Unit} (hs : s.parts.all Partition.still = true) (h : Runs m s () t) : Runs (withLevels m) s () t := by
  unfold Runs at *
  show ((m.run s).1, levelHook s (m.run s).2) = _
  rw [h, levelHook_still s hs]

theorem Stops.withLevels {m : M Unit} (hs : s.parts.all Partition.still = true) (h : Stops m s e t) : Stops (withLevels m) s e t := by
  unfold Stops at *
  show ((m.run s).1, levelHook s (m.run s).2) = _
  rw [h, levelHook_still s hs]

end

/-! ## Plain memory in M-mode -/

theorem scrubRead_of_no_ecc {s : State} (h : s.ecc = []) (a n : Nat) : scrubRead s a n = (false, s) := by
  unfold scrubRead
  generalize granulesOf a n = l
  induction l with
  | nil => rfl
  | cons g r ih => simpa [eccAt, h] using ih

theorem seenBytes_of_no_held {s : State} (h : s.heldStores = []) (sees : Held → Bool) (a n : Nat) :
    seenBytes sees s a n = getBytes s.mem a n := by
  simp [seenBytes, h]

/-- The installed memories as numbers (R415). -/
theorem physOk_iff (a n : Nat) : physOk a n = true ↔ a + n ≤ 0x6000000000 ∨ (0x10000000000 ≤ a ∧ a + n ≤ 0x30000000000)
    ∨ (0x40000000000 ≤ a ∧ a + n ≤ 0x4000C000000) := by
  simp only [physOk, Bool.or_eq_true, Bool.and_eq_true, decide_eq_true_eq, or_assoc]
  rfl

theorem isPort_of_physOk {a n : Nat} (h : physOk a n = true) (hn : 0 < n) : isPort a = false := by
  rw [isPort, Bool.and_eq_false_iff, decide_eq_false_iff_not, decide_eq_false_iff_not]
  rw [physOk_iff] at h
  simp only [Config.portBase, Config.portBytes]
  omega

theorem window_of_physOk {a n : Nat} (h : physOk a n = true) : ¬(Config.windowBase ≤ a ∧ a < 2 ^ 46) := by
  rw [physOk_iff] at h
  simp only [Config.windowBase]
  omega

theorem runs_checkFrame {acc : Acc} {tv : Word} {a : Nat} {s : State} (h : acc = .store → frameProtected s a = false) :
    Runs (checkFrame acc tv a) s () s := by
  refine Runs.get_bind (Runs.ite_neg ?_ (Runs.pure () s))
  rintro ⟨hst, hp⟩
  rw [h hst] at hp
  cases hp

/-- M-mode, untranslated, reaches plain memory at the address itself. -/
theorem runs_resolveGlobal_machine {acc : Acc} {bad : BitVec 6} {va : Word} {n : Nat} {s : State} (hok : physOk va.toNat n = true)
    (hf : acc = .store → frameProtected s va.toNat = false) :
    Runs (resolveGlobal acc .machine bad va n) s (.phys va.toNat kindRC none) s := by
  have hhere : Runs (resolveHere acc .machine bad va va.toNat n false) s (.phys va.toNat kindRC none) s := by
    refine Runs.get_bind (Runs.ite_neg (window_of_physOk hok) (Runs.ite_pos rfl (Runs.ite_pos ?_ ?_)))
    · rw [hok, Bool.true_or]
    · exact (runs_checkFrame hf).bind (Runs.pure _ s)
  exact hhere.bind (Runs.get_bind (Runs.pure _ s))

/-- With no granule listed and no store held, memory's own bytes are read. -/
theorem runs_readRaw_phys {x : Reader} {acc : Acc} {a n : Nat} {k : BitVec 2} {page : Option PageRef} {tv : Word} {s : State}
    (hp : isPort a = false) (he : s.ecc = []) (hh : s.heldStores = []) :
    Runs (readRaw x acc (.phys a k page) n tv) s (getBytes s.mem a n) s := by
  refine Runs.get_bind (Runs.ite_neg (by simp [hp]) ?_)
  rw [scrubRead_of_no_ecc he]
  refine Runs.set_bind (Runs.ite_neg Bool.false_ne_true ?_)
  rw [seenBytes_of_no_held hh]
  exact Runs.pure _ s

/-! ## The fetch (R81) -/

theorem icacheServe_of_not_lag {s : State} (h : s.lag = false) (a : Nat) (w : BitVec 32) : icacheServe a w s = (w, s) := by
  simp [icacheServe, h]

/-- In M-mode the word at the pc is fetched from memory. -/
theorem runs_fetchM_machine {s : State} (hl : s.lag = false) (hp : s.core.priv = .machine) (hok : physOk s.ctx.pc.toNat 4 = true)
    (he : s.ecc = []) (hh : s.heldStores = []) : Runs fetchM s (BitVec.ofNat 32 (getLe s.mem s.ctx.pc.toNat 4)) s := by
  have hres : Runs (resolveGlobal .fetch s.core.priv cFetchAccess s.ctx.pc 4) s (.phys s.ctx.pc.toNat kindRC none) s := by
    rw [hp]
    exact runs_resolveGlobal_machine hok (fun h => nomatch h)
  refine Runs.get_bind (hres.bind (Runs.get_bind (Runs.ite_neg (by simp [hp]) ?_)))
  refine (runs_readRaw_phys (isPort_of_physOk hok (by decide)) he hh).bind (Runs.get_bind ?_)
  rw [icacheServe_of_not_lag hl]
  exact Runs.set_bind (Runs.pure _ s)

/-! ## A step (R81) -/

theorem fetchRun_of_decode {s t : State} {w : BitVec 32} {i : Instr} (hf : fetchM.run s = (.ok w, t)) (hd : decode w = some i)
    (hc : consumesNew t i = false) : fetchRun s = exec i t := by
  simp [fetchRun, hf, hd, hc]

theorem fetchRun_of_illegal {s t : State} {w : BitVec 32} (hf : fetchM.run s = (.ok w, t)) (hd : decode w = none) :
    fetchRun s = .next (raiseTrap (loseExpected t) cIllegal (w.setWidth 64)) := by
  simp [fetchRun, hf, hd]

/-- A step of a core at which nothing is due fetches and runs. -/
theorem step_eq_fetchRun {s : State} (ha : s.agenda = []) (hh : coreHeld s = false) (hsl : sleeps s = false)
    (hw : s.core.wfi = false) (hst : settle s = .next s) (hb : boundary s = none) (hi : idles s = false)
    (hf : focusHeld s.ctx = false) (hq : (decide (s.core.priv = .user) && queueConsumes s) = false) :
    step s = settled (fetchRun s) := by
  have hs : { s with core := { s.core with wfi := false } } = s := by rw [← hw]
  rw [step, ha]
  show settled (turn s) = _
  rw [turn, hh, hsl, hst]
  simp only [hs, hb, hi, hf, hq, Bool.or_self, Bool.false_eq_true, if_false]

theorem consumesNew_of_not_user {s : State} (h : s.core.priv ≠ .user) (i : Instr) : consumesNew s i = false := by
  simp [consumesNew, h]

theorem settle_of_clear {s : State} (h : s.Clear) (hc : s.core.copies = []) : settle s = .next s := by
  obtain ⟨-, hviq, hcable, hsrq, -⟩ := h
  simp [settle, hviq, hcable, hsrq, hc]

/-- The plain case: M-mode, untranslated, nothing queued. -/
theorem step_machine_plain {s : State} {i : Instr} (ha : s.agenda = []) (hcl : s.Clear) (hcp : s.core.copies = [])
    (hh : coreHeld s = false) (hw : s.core.wfi = false) (hb : boundary s = none) (hp : s.core.priv = .machine)
    (hok : physOk s.ctx.pc.toNat 4 = true) (he : s.ecc = []) (hheld : s.heldStores = [])
    (hd : decode (BitVec.ofNat 32 (getLe s.mem s.ctx.pc.toNat 4)) = some i) : step s = settled (exec i s) := by
  have ⟨hl, _, _, _, hesc, _, _⟩ := hcl
  have hu : s.core.priv ≠ .user := by rw [hp]; exact Priv.noConfusion
  have hfocus : focusHeld s.ctx = false := by rw [focusHeld, Ctx.isSpec_of_no_escrow hesc, Bool.false_and]
  rw [step_eq_fetchRun ha hh (by simp [sleeps, hw]) hw (settle_of_clear hcl hcp) hb (by simp [idles, hu]) hfocus (by simp [hu]),
    fetchRun_of_decode (runs_fetchM_machine hl hp hok he hheld) hd (consumesNew_of_not_user hu i)]

/-! ## After a step (R243, R354) -/

theorem releaseWaits_of_no_waiters {s : State} (h : waiters s = []) : releaseWaits s = s := by
  simp [releaseWaits, h]

/-- OCO that is as shown is not written. -/
theorem showOco_of_shown {t : State} (h : ∀ k < t.nparts, getLe t.mem (Config.commonsBase + counterBlock t k) 8 = ocoOf t) :
    showOco t = t := by
  have hall : ∀ ks : List Nat, (∀ k ∈ ks, k < t.nparts) → ks.foldl (fun (u : State) k =>
      if getLe u.mem (Config.commonsBase + counterBlock u k) 8 = ocoOf t then u
      else devWrite u k (Config.commonsBase + counterBlock u k) (natBytes 8 (ocoOf t))) t = t := by
    intro ks hks
    induction ks with
    | nil => rfl
    | cons k ks ih =>
      rw [List.foldl_cons, if_pos (h k (hks k List.mem_cons_self))]
      exact ih fun j hj => hks j (List.mem_cons_of_mem k hj)
  exact hall _ fun k hk => by simpa [mem_upFrom] using hk

end Sys2Proof.Machine

namespace Sys2Proof

open Sys2Proof.Machine

/-- Settles O4: the turn of a core at which nothing is due is its fetch, and waits and OCO are as they stand where nothing waits. -/
theorem stepRunsDecoded : Obligations.StepRunsDecoded := by
  unfold Obligations.StepRunsDecoded
  refine ⟨⟨fun s t w i ha hh hsl hw hst hb hi hf hq hfe hd hc => ?_, fun s i => step_machine_plain⟩,
    fun s t w ha hh hsl hw hst hb hi hf hq hfe hd => ?_, fun t ht => ⟨?_, fun ho => ?_⟩⟩
  · rw [step_eq_fetchRun ha hh hsl hw hst hb hi hf (by rw [hq, Bool.and_false]), fetchRun_of_decode hfe hd hc]
  · rw [step_eq_fetchRun ha hh hsl hw hst hb hi hf (by rw [hq, Bool.and_false]), fetchRun_of_illegal hfe hd]
  · rw [settled, releaseWaits_of_no_waiters ht]
  · rw [settled, releaseWaits_of_no_waiters ht, showOco_of_shown ho]

end Sys2Proof
end

section
/-! SUPPORT. A store of the scalar thread on a calm chip (R86, R219, R304 to R308): what a physical write and the walk's update of
A and D leave of the state. -/

namespace Sys2Proof.Machine

/-! ## A calm chip -/

section
variable {s : State} (h : s.Calm)
include h

theorem State.Calm.noEcc : s.ecc = [] := by
  obtain ⟨he, -⟩ := h
  exact he

theorem State.Calm.noHeld : s.heldStores = [] := by
  obtain ⟨-, hh, -⟩ := h
  exact hh

theorem State.Calm.partsCalm : s.parts.all Partition.calm = true := by
  obtain ⟨-, -, -, hp, -⟩ := h
  exact hp

theorem State.Calm.partsStill : s.parts.all Partition.still = true := all_still h.partsCalm

theorem State.Calm.noEscrow : s.cores.all (fun c => c.2.ctx.esc.isNone) = true := by
  obtain ⟨-, -, -, -, hc, -⟩ := h
  exact hc

end

/-- t is s with memory m: beside it only reservations, the descriptor cache and the partitions' cached leaves may differ, and no
other agent takes part in an access of t either. -/
structure Wrote (s t : State) (m : Bytes) : Prop where
  eq : t = { s with
    mem := m
    parts := t.parts
    cores := t.cores
    core := { s.core with resv := t.core.resv, ctx := { s.core.ctx with dcache := t.core.ctx.dcache } } }
  calm : t.Calm
  resv : t.core.resv = s.core.resv ∨ t.core.resv = none

namespace Wrote

variable {s t u : State} {m m' : Bytes}

theorem refl (h : s.Calm) : Wrote s s s.mem := ⟨rfl, h, .inl rfl⟩

theorem trans (h : Wrote s t m) (g : Wrote t u m') : Wrote s u m' := by
  refine ⟨?_, g.calm, ?_⟩
  · have hu := g.eq
    rw [h.eq] at hu
    exact hu
  · rcases g.resv with hg | hg
    · rw [hg]
      exact h.resv
    · exact .inr hg

theorem mem_eq (h : Wrote s t m) : t.mem = m := by rw [h.eq]
theorem ctx_eq (h : Wrote s t m) : t.ctx = { s.ctx with dcache := t.ctx.dcache } := by rw [h.eq]
theorem lag_eq (h : Wrote s t m) : t.lag = s.lag := by rw [h.eq]
theorem id_eq (h : Wrote s t m) : t.core.id = s.core.id := by rw [h.eq]

end Wrote

/-! ## Waits on a calm chip -/

/-- With no launch only a handler, or a core with no strand, waits. -/
theorem waiters_calm {s : State} (h : s.parts.all Partition.calm = true) :
    waiters s = (s.liveCores.filter fun n => (s.coreAt n).hwait.isSome).map .thread := by
  have hl (k : Nat) : (s.part k).launches = [] := by
    obtain ⟨-, -, -, -, -, -, -, hlaunch, -⟩ := still_fields (part_still (all_still h) k)
    exact hlaunch
  simp [waiters, hl]

/-- What a write leaves of a core's reservation (R86). -/
def Core.afterWrite (writer : Option Nat) (a n : Nat) (c : Core) : Core :=
  match c.resv with
  | some l => if decide (some c.id ≠ writer) && decide (a / 128 ≤ l) && decide (l ≤ (a + n - 1) / 128)
      then { c with resv := none } else c
  | none => c

theorem breakResv_eq (s : State) (w : Option Nat) (a n : Nat) : breakResv s w a n =
    { s with core := s.core.afterWrite w a n, cores := s.cores.map fun p => (p.1, p.2.afterWrite w a n) } := rfl

theorem Core.afterWrite_eq (w : Option Nat) (a n : Nat) (c : Core) :
    c.afterWrite w a n = { c with resv := (c.afterWrite w a n).resv } := by
  unfold Core.afterWrite
  split
  · split <;> rfl
  · rfl

theorem Core.afterWrite_resv (c : Core) (w : Option Nat) (a n : Nat) :
    (c.afterWrite w a n).resv = c.resv ∨ (c.afterWrite w a n).resv = none := by
  unfold Core.afterWrite
  split
  · split <;> [exact .inr rfl; exact .inl rfl]
  · exact .inl rfl

theorem Core.afterWrite_id (w : Option Nat) (a n : Nat) (c : Core) : (c.afterWrite w a n).id = c.id := by
  rw [Core.afterWrite_eq]

theorem Core.afterWrite_hwait (w : Option Nat) (a n : Nat) (c : Core) : (c.afterWrite w a n).hwait = c.hwait := by
  rw [Core.afterWrite_eq]

theorem Core.afterWrite_ctx (w : Option Nat) (a n : Nat) (c : Core) : (c.afterWrite w a n).ctx = c.ctx := by
  rw [Core.afterWrite_eq]

theorem findCore_afterWrite (w : Option Nat) (a n : Nat) (cs : List (Nat × Core)) (j : Nat) :
    findCore (cs.map fun p => (p.1, p.2.afterWrite w a n)) j = (findCore cs j).afterWrite w a n := by
  induction cs with
  | nil => rfl
  | cons p cs ih =>
    obtain ⟨k, c⟩ := p
    rw [List.map_cons, findCore, findCore, ih]
    split <;> rfl

theorem coreAt_breakResv (s : State) (w : Option Nat) (a n j : Nat) :
    (breakResv s w a n).coreAt j = (s.coreAt j).afterWrite w a n := by
  rw [breakResv_eq, State.coreAt, State.coreAt, Core.afterWrite_id, findCore_afterWrite]
  split <;> rfl

/-- A write ends no wait by itself. -/
theorem waiters_breakResv {s : State} (h : s.parts.all Partition.calm = true) (w : Option Nat) (a n : Nat) :
    waiters (breakResv s w a n) = waiters s := by
  have hlive : (breakResv s w a n).liveCores = s.liveCores := by
    rw [breakResv_eq, State.liveCores, State.liveCores, Core.afterWrite_id, List.map_map]
    rfl
  have hparts : (breakResv s w a n).parts.all Partition.calm = true := h
  rw [waiters_calm h, waiters_calm hparts, hlive]
  simp only [coreAt_breakResv, Core.afterWrite_hwait]

/-! ## Writes on a calm chip -/

theorem wrote_breakResv {s : State} (h : s.Calm) (m : Bytes) (w : Option Nat) (a n : Nat) :
    Wrote s (breakResv { s with mem := m } w a n) m := by
  obtain ⟨he, hh, hm, hp, hc, hw⟩ := h
  refine ⟨?_, ⟨he, hh, hm, hp, ?_, ?_⟩, s.core.afterWrite_resv w a n⟩
  · rw [breakResv_eq]
    have hcore := Core.afterWrite_eq w a n s.core
    show State.mk .. = State.mk ..
    congr 1
    rw [hcore]
  · rw [breakResv_eq, List.all_map]
    refine List.all_eq_true.2 fun p hpm => ?_
    show (p.2.afterWrite w a n).ctx.esc.isNone = true
    rw [Core.afterWrite_ctx]
    exact List.all_eq_true.1 hc p hpm
  · exact (waiters_breakResv (s := { s with mem := m }) hp w a n).trans hw

theorem mailSee_of_disjoint {s : State} {a n : Nat} (h : ∀ k < s.nparts, a + n ≤ mailboxAt s k ∨ mailboxAt s k + 256 ≤ a) :
    mailSee s a n = s := by
  have hall : ∀ ks : List Nat, (∀ k ∈ ks, k < s.nparts) → ks.foldl (fun (t : State) k =>
      if decide (a ≤ mailboxAt t k + 0x80) && decide (mailboxAt t k + 0x80 < a + n) then
        { t with mboxWait := t.mboxWait.filter fun j => decide (j ≠ k) }
      else if decide (a ≤ mailboxAt t k + 0x40) && decide (mailboxAt t k + 0x40 < a + n)
          && (getByte t.mem (mailboxAt t k + 0x40)).getLsbD 0 then { t with mboxWait := addNew t.mboxWait k }
      else t) s = s := by
    intro ks hks
    induction ks with
    | nil => rfl
    | cons k ks ih =>
      have hk := h k (hks k List.mem_cons_self)
      rw [List.foldl_cons, if_neg (by simp only [Bool.and_eq_true, decide_eq_true_eq]; omega),
        if_neg (by simp only [Bool.and_eq_true, decide_eq_true_eq]; omega)]
      exact ih fun j hj => hks j (List.mem_cons_of_mem k hj)
  exact hall _ fun k hk => by simpa [mem_upFrom] using hk

/-- Memory below the Commons holds no mailbox. -/
theorem mail_of_below {a n : Nat} (h : a + n ≤ Config.commonsBase) (s : State) :
    ∀ k < s.nparts, a + n ≤ mailboxAt s k ∨ mailboxAt s k + 256 ≤ a :=
  fun _ _ => .inl (h.trans (Nat.le_add_right _ _))

theorem isCommons_of_below {a n : Nat} (h : a + n ≤ Config.commonsBase) (hn : 0 < n) : isCommons a = false := by
  rw [isCommons, decide_eq_false (by omega), Bool.false_and]

theorem inCounterBlock_of_below {a n : Nat} (h : a + n ≤ Config.commonsBase) (hn : 0 < n) (s : State) : inCounterBlock s a = false := by
  rw [inCounterBlock, isCommons_of_below h hn, Bool.false_and]

/-- Below the Commons a write of software puts its bytes in memory, and nothing else but reservations changes. -/
theorem physWrite_calm {s : State} (h : s.Calm) (he : s.ctx.esc = none) {a : Nat} {bs : List Byte} (hb : bs ≠ [])
    (hlow : a + bs.length ≤ Config.commonsBase) (k : Nat) (new : Bool) (w : Writer) (page : Option PageRef) :
    physWrite s k new w page a bs = breakResv { s with mem := setBytes s.mem a bs } w.core a bs.length := by
  have hlen : 0 < bs.length := List.length_pos_iff.2 hb
  have hbytes : w.bytes s a bs = bs := by
    unfold Writer.bytes
    split <;> [exact softBytes_calm h.partsCalm _ (mail_of_below hlow s); rfl]
  rw [physWrite_still h.still he (inCounterBlock_of_below hlow hlen s) k new w page bs hb, hbytes]
  exact mailSee_of_disjoint (mail_of_below hlow _)

theorem wrote_physWrite {s : State} (h : s.Calm) (he : s.ctx.esc = none) {a : Nat} {bs : List Byte} (hb : bs ≠ [])
    (hlow : a + bs.length ≤ Config.commonsBase) (k : Nat) (new : Bool) (w : Writer) (page : Option PageRef) :
    Wrote s (physWrite s k new w page a bs) (setBytes s.mem a bs) := by
  rw [physWrite_calm h he hb hlow]
  exact wrote_breakResv h _ _ _ _

/-- A write of the hardware itself on a calm chip. -/
theorem wrote_rawWrite {s : State} (h : s.Calm) (he : s.ctx.esc = none) {bs : List Byte} (hb : bs ≠ []) (k : Nat) (new : Bool)
    (core : Option Nat) (page : Option PageRef) (a : Nat) :
    Wrote s (rawWrite s k new core page a bs) (setBytes s.mem a bs) := by
  have hempty : bs.isEmpty = false := by simpa using hb
  have hparts := h.partsStill
  have hw := wrote_breakResv h (setBytes s.mem a bs) core a bs.length
  have hesc : (breakResv { s with mem := setBytes s.mem a bs } core a bs.length).ctx.esc = none := by rw [hw.ctx_eq]; exact he
  have hraw : rawWrite s k new core page a bs = breakResv { s with mem := setBytes s.mem a bs } core a bs.length := by
    simp only [rawWrite, hempty, Bool.false_eq_true, if_false, snapBefore_still hparts]
    rw [paintLines_still (s := { s with mem := setBytes s.mem a bs }) hparts, escrowSees_calm hesc hw.calm.noEscrow]
  rw [hraw]
  exact hw

/-- The walk's update of A and D (R308). -/
theorem wrote_setAD {s : State} (h : s.Calm) (he : s.ctx.esc = none) (k : Nat) (new : Bool) (pte : Nat) (w : Word) (acc : Acc) :
    Wrote s (setAD s k new pte w acc) (markedMem s pte w acc) := by
  unfold setAD markedMem
  split
  · exact Wrote.refl h
  · exact wrote_rawWrite h he (by simp [natBytes]) _ _ _ _ _

end Sys2Proof.Machine
end

section
/-! SUPPORT. Where a scalar access lands (R83, R304 to R308, R416): plain memory in M-mode, the frame of a leaf in U-mode, and
the trap of a misaligned address. -/

namespace Sys2Proof.Machine

/-! ## Leaves (R305, R307, R308) -/

theorem extractLsb'_putBit {w : Word} {i lo n : Nat} {b : Bool} (h : i < lo) : (putBit w i b).extractLsb' lo n = w.extractLsb' lo n := by
  ext j hj
  have hbit : (1#64 <<< i).getLsbD (lo + j) = false := by
    rw [BitVec.getLsbD_shiftLeft, BitVec.getLsbD_one]
    have : lo + j - i ≠ 0 := by omega
    simp [this]
  rw [BitVec.getElem_extractLsb', BitVec.getElem_extractLsb', putBit]
  cases b
  · rw [if_neg Bool.false_ne_true, BitVec.getLsbD_and, BitVec.getLsbD_not, hbit]
    by_cases hlt : lo + j < 64
    · simp [hlt]
    · rw [BitVec.getLsbD_of_ge w _ (by omega)]
      rfl
  · rw [if_pos rfl, BitVec.getLsbD_or, hbit, Bool.or_false]

theorem leafFrame_leafAD (w : Word) (acc : Acc) : leafFrame (leafAD w acc) = leafFrame w := by
  cases acc <;> simp [leafFrame, leafAD, extractLsb'_putBit]

theorem leafLoc_leafAD (w : Word) (acc : Acc) : leafLoc (leafAD w acc) = leafLoc w := by
  cases acc <;> simp [leafLoc, leafAD, extractLsb'_putBit]

theorem leafPermits_user {w : Word} {acc : Acc} (hu : w.getLsbD 4 = true) (hf : acc ≠ .fetch)
    (hrw : w.getLsbD (if acc = .store then 2 else 1) = true) (sum mxr : Bool) : leafPermits w acc .user sum mxr = true := by
  cases acc with
  | fetch => exact absurd rfl hf
  | load => simp_all [leafPermits]
  | store => simp_all [leafPermits]

/-- A leaf is cached. -/
def cacheLeaf (k : Nat) (e : TlbEntry) (s : State) : State :=
  s.mapPart k fun q => if e ∈ q.tlb then q else { q with tlb := e :: q.tlb }

/-- With no cached leaf and no granule listed the walk's own leaf serves the access. -/
theorem xlate_of_walk {s : State} {k va pte base size : Nat} {w : Word} {acc : Acc} {p : Priv} {sum mxr : Bool} (he : s.ecc = [])
    (ht : (s.part k).tlb = []) (hw : walk s k va = .leaf pte w base size) (hb : leafBad w = false)
    (hp : leafPermits w acc p sum mxr = true) :
    xlate s k va acc p sum mxr = .leaf (leafAD w acc) base (some ⟨pte, base, size⟩)
      (cacheLeaf k ⟨base, size, leafAD w acc⟩ (setAD s k (colourNew s k s.ctx) pte w acc)) := by
  simp [xlate, ht, hw, hb, hp, he, cacheLeaf]

/-! ## Resolving an address -/

/-- A U-mode address whose walk ends at a leaf of HBM that permits the access. -/
theorem runs_resolveGlobal_user {acc : Acc} {bad : BitVec 6} {va : Word} {n pte base size : Nat} {w : Word} {s : State}
    (he : s.ecc = []) (hva : va.toNat < Config.windowBase) (ht : (s.part s.pidx).tlb = [])
    (hw : walk s s.pidx va.toNat = .leaf pte w base size) (hb : leafBad w = false)
    (hp : ∀ sum mxr, leafPermits w acc .user sum mxr = true) (hloc : leafLoc w = 0)
    (hhbm : leafFrame w * 65536 + (va.toNat - base) < Config.hbmBytes)
    (hf : acc = .store → frameProtected s (leafFrame w * 65536 + (va.toNat - base)) = false) :
    Runs (resolveGlobal acc .user bad va n) s
      (.phys (leafFrame w * 65536 + (va.toNat - base)) (leafKind (leafAD w acc)) (some ⟨pte, base, size⟩))
      (cacheLeaf s.pidx ⟨base, size, leafAD w acc⟩ (setAD s s.pidx (colourNew s s.pidx s.ctx) pte w acc)) := by
  have hwin : ¬(Config.windowBase ≤ va.toNat ∧ va.toNat < 2 ^ 46) := fun h => absurd h.1 (Nat.not_le.2 hva)
  have hout : ¬(decide (2 ^ 46 ≤ va.toNat) || decide (Config.windowBase ≤ va.toNat)) = true := by
    have hbase : Config.windowBase = 0x3F0000000000 := rfl
    rw [Bool.or_eq_true, decide_eq_true_eq, decide_eq_true_eq]
    omega
  have hva' : Runs (resolveVa acc .user bad va va.toNat false) s
      (.phys (leafFrame w * 65536 + (va.toNat - base)) (leafKind (leafAD w acc)) (some ⟨pte, base, size⟩))
      (cacheLeaf s.pidx ⟨base, size, leafAD w acc⟩ (setAD s s.pidx (colourNew s s.pidx s.ctx) pte w acc)) := by
    refine Runs.get_bind (Runs.ite_neg hout ?_)
    rw [xlate_of_walk he ht hw hb (hp _ _)]
    refine Runs.ite_pos (by rw [leafLoc_leafAD, hloc]) ?_
    rw [leafFrame_leafAD]
    exact Runs.ite_pos hhbm ((runs_checkFrame hf).bind (Runs.set_bind (Runs.pure _ _)))
  have hhere : Runs (resolveHere acc .user bad va va.toNat n false) s
      (.phys (leafFrame w * 65536 + (va.toNat - base)) (leafKind (leafAD w acc)) (some ⟨pte, base, size⟩))
      (cacheLeaf s.pidx ⟨base, size, leafAD w acc⟩ (setAD s s.pidx (colourNew s s.pidx s.ctx) pte w acc)) :=
    Runs.get_bind (Runs.ite_neg hwin (Runs.ite_neg Priv.noConfusion hva'))
  exact hhere.bind (Runs.get_bind (Runs.pure _ _))

/-! ## A scalar access's place -/

theorem stops_scalarLoc_of_misaligned {acc : Acc} {va : Word} {n : Nat} {s : State} (h : va.toNat % n ≠ 0) :
    Stops (scalarLoc acc va n) s (.trap (if acc = .store then cMisStore else cMisLoad) va) s := by
  cases acc <;> exact Stops.get_bind (Stops.ite_pos h (Stops.trapM _ _ _))

theorem dataPriv_of_plain {s : State} (hp : s.core.priv = .machine) (hm : s.core.csr.mstatus.getLsbD bitMPRV = false) :
    dataPriv s = .machine := by
  simp [dataPriv, hp, hm]

theorem dataPriv_of_user {s : State} (hp : s.core.priv = .user) : dataPriv s = .user := by
  simp [dataPriv, hp]

/-- In M-mode a plain access lands at its own address. -/
theorem runs_scalarLoc_plain {acc : Acc} {va : Word} {n : Nat} {s : State} (h : PlainAccess s va n)
    (hf : acc = .store → frameProtected s va.toNat = false) : Runs (scalarLoc acc va n) s (.phys va.toNat kindRC none) s := by
  obtain ⟨hp, hm, hal, hok, -⟩ := h
  refine Runs.get_bind (Runs.ite_neg (not_not.2 hal) ?_)
  rw [dataPriv_of_plain hp hm]
  exact runs_resolveGlobal_machine hok hf

/-- In U-mode one through a leaf lands in its frame. -/
theorem runs_scalarLoc_user {acc : Acc} {va : Word} {n pte base size : Nat} {w : Word} {s : State} (hacc : acc ≠ .fetch)
    (h : UserLeaf s va.toNat n acc pte base size w) (he : s.ecc = [])
    (hf : acc = .store → frameProtected s (leafFrame w * 65536 + (va.toNat - base)) = false) :
    Runs (scalarLoc acc va n) s
      (.phys (leafFrame w * 65536 + (va.toNat - base)) (leafKind (leafAD w acc)) (some ⟨pte, base, size⟩))
      (cacheLeaf s.pidx ⟨base, size, leafAD w acc⟩ (setAD s s.pidx (colourNew s s.pidx s.ctx) pte w acc)) := by
  obtain ⟨hp, hal, hva, ht, hw, hb, hu, hrw, hloc, hhbm⟩ := h
  refine Runs.get_bind (Runs.ite_neg (not_not.2 hal) ?_)
  rw [dataPriv_of_user hp]
  exact runs_resolveGlobal_user he hva ht hw hb (leafPermits_user hu hacc hrw) hloc hhbm hf

/-! ## On a calm chip -/

theorem frameProtected_calm {s : State} (h : s.parts.all Partition.calm = true) (a : Nat) : frameProtected s a = false := by
  have hnone : ∀ p ∈ s.parts, p.objs = [] ∧ p.mints = [] := fun p hp => by
    obtain ⟨-, -, -, -, -, hobjs, -, -, -, hmints⟩ := still_fields (List.all_eq_true.1 (all_still h) p hp)
    exact ⟨hobjs, hmints⟩
  rw [frameProtected, frameChecked, Bool.or_eq_false_iff, List.any_eq_false, List.any_eq_false]
  exact ⟨fun p hp => by simp [(hnone p hp).1], fun p hp => by simp [(hnone p hp).2]⟩

theorem calm_setAt {ps : List Partition} (h : ps.all Partition.calm = true) {p : Partition} (hp : p.calm = true) (k : Nat) :
    (setAt ps k p).all Partition.calm = true := by
  rw [setAt_eq_set]
  refine List.all_eq_true.2 fun q hq => ?_
  rcases List.mem_or_eq_of_mem_set hq with hq | rfl
  · exact List.all_eq_true.1 h q hq
  · exact hp

/-- Caching a leaf changes no partition's calm. -/
theorem wrote_cacheLeaf {s : State} (h : s.Calm) (k : Nat) (e : TlbEntry) : Wrote s (cacheLeaf k e s) s.mem := by
  obtain ⟨he, hh, hm, hp, hc, hw⟩ := h
  have hparts : (cacheLeaf k e s).parts.all Partition.calm = true := by
    refine calm_setAt hp ?_ k
    show (if e ∈ (s.part k).tlb then s.part k else _).calm = true
    split
    · exact part_calm hp k
    · exact part_calm hp k
  refine ⟨rfl, ⟨he, hh, hm, hparts, hc, ?_⟩, .inl rfl⟩
  rw [waiters_calm hp] at hw
  rw [waiters_calm hparts]
  exact hw

end Sys2Proof.Machine
end

section
/-! SUPPORT. The scalar thread's loads, stores and atomics where nothing older stands before them (R83, R86, R216): each from the
place its address resolves to. -/

namespace Sys2Proof.Machine

/-! ## Nothing older stands before an access -/

/-- No agent lags, nothing is queued or held, no escrow loop is open, and no granule is listed. -/
structure Quiet (s : State) : Prop where
  lag : s.lag = false
  esc : s.ctx.esc = none
  viq : s.ctx.viq = []
  barrier : s.ctx.barrier = none
  ecc : s.ecc = []
  held : s.heldStores = []

theorem State.Clear.quiet {s : State} (h : s.Clear) (he : s.ecc = []) (hh : s.heldStores = []) : Quiet s := by
  obtain ⟨hl, hviq, -, -, hesc, hbar, -⟩ := h
  exact ⟨hl, hesc, hviq, hbar, he, hh⟩

theorem Wrote.quiet {s t : State} {m : Bytes} (h : Wrote s t m) (hq : Quiet s) : Quiet t := by
  obtain ⟨hl, hesc, hviq, hbar, -, -⟩ := hq
  have hctx := h.ctx_eq
  exact ⟨h.lag_eq.trans hl, by rw [hctx]; exact hesc, by rw [hctx]; exact hviq, by rw [hctx]; exact hbar, h.calm.noEcc, h.calm.noHeld⟩

section
variable {s : State} (h : Quiet s)
include h

theorem Quiet.isSpec : s.ctx.isSpec = false := Ctx.isSpec_of_no_escrow h.esc

theorem Quiet.heldBehind (l : Loc) : heldBehind s l = none := by
  simp [Machine.heldBehind, h.barrier]

theorem Quiet.scalarWaits (l : Loc) : scalarWaits s l = false := by
  simp [Machine.scalarWaits, h.heldBehind, h.viq]

theorem runs_readLoc {a n : Nat} {k : BitVec 2} {page : Option PageRef} {tv : Word} (hp : isPort a = false) :
    Runs (readLoc (.phys a k page) n tv) s (getBytes s.mem a n) s := by
  refine Runs.modify_bind ?_
  rw [orderFor_nil h.held]
  exact Runs.get_bind (Runs.ite_neg (by simp [mustWait_nil h.held]) (runs_readRaw_phys hp h.ecc h.held))

/-- An atomic's place asks nothing of the held stores where there are none. -/
theorem runs_atomicOrder (store rl : Bool) (l : Loc) (n : Nat) : Runs (atomicOrder store rl l n) s () s := by
  have hflush : flushFence s = s := flushWhere_nil h.held _
  refine Runs.get_bind ?_
  simp only [h.scalarWaits, hflush, orderFor_nil h.held, mustWait_nil h.held, ite_self, h.held, List.any_nil, Bool.and_false,
    Bool.or_self, Bool.false_eq_true, if_false]
  exact Runs.set s s

end

/-! ## Stores of a calm chip -/

theorem wrote_dropDesc {s : State} (h : s.Calm) (va : Word) (n : Nat) : Wrote s (s.mapCtx (dropDesc va n)) s.mem := by
  obtain ⟨he, hh, hm, hp, hc, hw⟩ := h
  refine ⟨rfl, ⟨he, hh, hm, hp, hc, ?_⟩, .inl rfl⟩
  have hwait (j : Nat) : ((s.mapCtx (dropDesc va n)).coreAt j).hwait = (s.coreAt j).hwait := by
    show (if s.core.id = j then _ else _ : Core).hwait = (if s.core.id = j then _ else _ : Core).hwait
    split <;> rfl
  have hparts : (s.mapCtx (dropDesc va n)).parts.all Partition.calm = true := hp
  rw [waiters_calm hp] at hw
  rw [waiters_calm hparts]
  simp only [hwait]
  exact hw

/-- The device ports lie above the Commons (R415). -/
theorem isPort_of_below {a n : Nat} (h : a + n ≤ Config.commonsBase) : isPort a = false := by
  have hbase : Config.commonsBase < Config.portBase := by decide
  rw [isPort, decide_eq_false (by omega), Bool.false_and]

theorem runs_writeBy {s : State} (hq : Quiet s) (hc : s.Calm) {a : Nat} {bs : List Byte} (hb : bs ≠ [])
    (hlow : a + bs.length ≤ Config.commonsBase) (k : BitVec 2) (page : Option PageRef) (tv : Word) :
    ∃ t, Runs (writeBy true (.phys a k page) bs tv) s () t ∧ Wrote s t (setBytes s.mem a bs) ∧ t.parts = s.parts := by
  have hport : isPort a = false := isPort_of_below hlow
  refine ⟨_, Runs.modify_bind ?_, wrote_physWrite hc hq.esc hb hlow s.pidx (colourNew s s.pidx s.ctx) s.writer page, ?_⟩
  · rw [orderFor_nil hq.held]
    refine Runs.get_bind ?_
    rw [mustWait_nil hq.held]
    refine Runs.ite_neg Bool.false_ne_true (Runs.ite_neg (by rw [hport]; exact Bool.false_ne_true) ?_)
    simp only [if_true]
    exact Runs.set s _
  · rw [physWrite_calm hc hq.esc hb hlow]
    rfl

theorem runs_atomicReady {s : State} (hp : s.parts.all Partition.calm = true) (va : Word) (n : Nat) (l : Loc) :
    Runs (atomicReady va n l) s () (s.mapCtx (dropDesc va n)) :=
  Runs.modify_bind (Runs.get_bind (Runs.ite_neg (by simp [transitHit_still (s := s.mapCtx _) (all_still hp)]) (Runs.pure _ _)))

/-- The write of a scalar store, which drops the descriptor-cache entries it touches first (R284). -/
theorem runs_scalarWrite {s : State} (hq : Quiet s) (hc : s.Calm) {a n : Nat} (hn : 0 < n) (hlow : a + n ≤ Config.commonsBase)
    (v : Nat) (k : BitVec 2) (page : Option PageRef) (va : Word) :
    ∃ t, Runs (writeBy true (.phys a k page) (natBytes n v) va) (s.mapCtx (dropDesc va n)) () t
      ∧ Wrote s t (setBytes s.mem a (natBytes n v)) ∧ t.parts = s.parts := by
  have hd := wrote_dropDesc hc va n
  have hb : natBytes n v ≠ [] := by
    rw [← List.length_pos_iff, natBytes_length]
    exact hn
  obtain ⟨t, ht, hw, hp⟩ := runs_writeBy (hd.quiet hq) hd.calm hb (by rwa [natBytes_length]) k page va
  exact ⟨t, ht, hd.trans hw, hp⟩

theorem locCommons_of_below {a n : Nat} (h : a + n ≤ Config.commonsBase) (hn : 0 < n) (k : BitVec 2) (page : Option PageRef) :
    ¬locCommons (.phys a k page) = true := by
  show ¬isCommons a = true
  rw [isCommons_of_below h hn]
  exact Bool.false_ne_true

theorem locCounter_of_below {a n : Nat} (h : a + n ≤ Config.commonsBase) (hn : 0 < n) (s : State) (k : BitVec 2)
    (page : Option PageRef) : ¬locCounter s (.phys a k page) = true := by
  show ¬inCounterBlock s a = true
  rw [inCounterBlock_of_below h hn]
  exact Bool.false_ne_true

end Sys2Proof.Machine
end

section
/-! SUPPORT. The scalar loads, stores and atomics from the place that their address resolves to (R83, R86, R216), the places of a
calm chip, and the trap of a misaligned address. -/

namespace Sys2Proof.Machine

/-! ## What the instruction leaves of its thread -/

/-- The core and the thread are as before, but for the reservation and the descriptor cache. -/
structure SameThread (s t : State) : Prop where
  core : SameCore s t
  ctx : t.ctx = { s.ctx with dcache := t.ctx.dcache }

theorem Wrote.sameThread {s t : State} {m : Bytes} (h : Wrote s t m) : SameThread s t := by
  refine ⟨?_, h.ctx_eq⟩
  rw [h.eq]
  exact ⟨rfl, rfl, rfl, rfl, rfl, rfl, rfl, rfl⟩

/-- Only the reservation of the core differs. -/
def State.withResv (s : State) (r : Option Nat) : State := { s with core := { s.core with resv := r } }

theorem SameThread.withResv {s t : State} (h : SameThread s t) (r : Option Nat) : SameThread s (t.withResv r) := ⟨h.core, h.ctx⟩

section
variable {s t : State} (h : SameThread s t) (rd : XReg) (v : Word)
include h

theorem SameThread.setX_x : (t.setX rd v).ctx.x = (s.setX rd v).ctx.x := by
  show (t.ctx.setX rd v).x = (s.ctx.setX rd v).x
  rw [h.ctx, Ctx.setX, Ctx.setX]
  split <;> rfl

theorem SameThread.retire_x : (retire (t.setX rd v)).ctx.x = (s.setX rd v).ctx.x := by
  rw [retire_ctx_x]
  exact h.setX_x rd v

theorem SameThread.retire_u : (retire (t.setX rd v)).ctx.u = s.ctx.u := by
  rw [retire_ctx_u]
  show (t.ctx.setX rd v).u = s.ctx.u
  rw [Ctx.setX_u, h.ctx]

theorem SameThread.retire_sameCore : SameCore s (retire (t.setX rd v)) := by
  simpa [SameCore] using h.core

theorem SameThread.retire_sameVector : SameVector s (retire (t.setX rd v)) := by
  have hv : SameVector s t := by
    rw [SameVector, h.ctx]
    exact ⟨rfl, rfl, rfl, rfl, rfl, rfl, rfl, rfl, rfl, rfl, rfl, rfl⟩
  simpa [SameVector] using hv

end

theorem retire_pc (s : State) : (retire s).ctx.pc = (fallPast s.ctx.loops s.ctx.escLevel 6 (s.ctx.pc + 4)).2 := Ctx.countRetired_pc _

theorem retire_loops (s : State) : (retire s).ctx.loops = (fallPast s.ctx.loops s.ctx.escLevel 6 (s.ctx.pc + 4)).1 :=
  Ctx.countRetired_loops _

theorem SameThread.retire_pc {s t : State} (h : SameThread s t) : (retire t).ctx.pc = (retire s).ctx.pc := by
  rw [Machine.retire_pc, Machine.retire_pc, h.ctx]
  rfl

theorem SameThread.retire_loops {s t : State} (h : SameThread s t) : (retire t).ctx.loops = (retire s).ctx.loops := by
  rw [Machine.retire_loops, Machine.retire_loops, h.ctx]
  rfl

/-! ## Loads and stores (R83, R216) -/

theorem storeBytes_pos (op : StoreOp) : 0 < storeBytes op := by cases op <;> decide

theorem loadBytes_pos (op : LoadOp) : 0 < loadBytes op := by cases op <;> decide

theorem amoBytes_pos (dbl : Bool) : 0 < amoBytes dbl := by cases dbl <;> decide

section
variable {s u : State} {a n : Nat} {k : BitVec 2} {page : Option PageRef} {va : Word}

theorem runs_scalarLoad (hloc : Runs (scalarLoc .load va n) s (.phys a k page) u) (hq : Quiet u) (hp : isPort a = false) :
    Runs (scalarLoad va n) s (getBytes u.mem a n) u := by
  refine hloc.bind (Runs.get_bind (Runs.ite_neg ?_ (Runs.ite_neg ?_ (runs_readLoc hq hp))))
  · rw [hq.isSpec]
    exact Bool.false_ne_true
  · rw [hq.scalarWaits]
    exact Bool.false_ne_true

/-- A ready load of bytes that its address resolves to. -/
theorem exec_baseLoad_of_loc {op : LoadOp} {rd rs1 : XReg} {imm : BitVec 12} (h : Ready (.baseLoad op rd rs1 imm) s)
    (hloc : Runs (scalarLoc .load (s.x rs1 + simm12 imm) (loadBytes op)) s (.phys a k page) u) (hq : Quiet u)
    (hp : isPort a = false) :
    exec (.baseLoad op rd rs1 imm) s = .next (retire (u.setX rd (loadValue op (getBytes u.mem a (loadBytes op))))) := by
  show execBaseLoad op rd rs1 imm s = _
  rw [execBaseLoad, guarded_of_ready h]
  exact runM_of_runs ((runs_scalarLoad hloc hq hp).tryCatch.bind (Runs.modify _ _))

theorem runs_scalarStore (hloc : Runs (scalarLoc .store va n) s (.phys a k page) u) (hq : Quiet u) (hc : u.Calm) (hn : 0 < n)
    (hlow : a + n ≤ Config.commonsBase) (v : Nat) :
    ∃ t, Runs (scalarStore va (natBytes n v)) s () t ∧ Wrote u t (setBytes u.mem a (natBytes n v)) ∧ t.parts = u.parts := by
  have hqd := (wrote_dropDesc hc va n).quiet hq
  have hstill : (u.mapCtx (dropDesc va n)).parts.all Partition.still = true := hc.partsStill
  obtain ⟨t, ht, hw, hp⟩ := runs_scalarWrite hq hc hn hlow v k page va
  have hplace : Runs (storePlace va (natBytes n v).length) s (.phys a k page) (u.mapCtx (dropDesc va n)) := by
    rw [natBytes_length]
    exact hloc.bind (Runs.modify_bind (Runs.get_bind (Runs.ite_neg
      (by rw [transitHit_still hstill]; exact Bool.false_ne_true) (Runs.pure _ _))))
  refine ⟨t, hplace.bind (Runs.get_bind (Runs.ite_neg ?_ (Runs.get_bind (Runs.ite_neg ?_ (Runs.ite_neg ?_ (Runs.ite_neg ?_ ht)))))),
    hw, hp⟩
  · rw [hqd.isSpec]
    exact Bool.false_ne_true
  · rw [hqd.viq]
    simp
  · rw [hqd.heldBehind, hqd.lag, orderFor_nil hqd.held, mustWait_nil hqd.held]
    simp
  · rw [hqd.heldBehind]
    exact Bool.false_ne_true

/-- A ready store to bytes that its address resolves to. -/
theorem exec_baseStore_of_loc {op : StoreOp} {rs2 rs1 : XReg} {imm : BitVec 12} (h : Ready (.baseStore op rs2 rs1 imm) s)
    (hs : s.parts.all Partition.still = true)
    (hloc : Runs (scalarLoc .store (s.x rs1 + simm12 imm) (storeBytes op)) s (.phys a k page) u) (hq : Quiet u) (hc : u.Calm)
    (hlow : a + storeBytes op ≤ Config.commonsBase) :
    ∃ t, exec (.baseStore op rs2 rs1 imm) s = .next (retire t)
      ∧ Wrote u t (setBytes u.mem a (natBytes (storeBytes op) (s.x rs2).toNat)) ∧ t.parts = u.parts := by
  obtain ⟨t, ht, hw, hp⟩ := runs_scalarStore hloc hq hc (storeBytes_pos op) hlow (s.x rs2).toNat
  refine ⟨t, ?_, hw, hp⟩
  show execBaseStore op rs2 rs1 imm s = _
  rw [execBaseStore, guarded_of_ready h]
  exact runM_of_runs (Runs.withLevels hs (ht.tryCatch.bind (Runs.modify _ _)))

/-! ## Atomics (R86) -/

/-- A ready AMO answers the old value and leaves the new one. -/
theorem exec_baseAmo_of_loc {op : AmoOp} {dbl aq rl : Bool} {rd rs1 rs2 : XReg} (h : Ready (.baseAmo op dbl aq rl rd rs1 rs2) s)
    (hs : s.parts.all Partition.still = true) (hloc : Runs (scalarLoc .store (s.x rs1) (amoBytes dbl)) s (.phys a k page) u)
    (hq : Quiet u) (hc : u.Calm) (hlow : a + amoBytes dbl ≤ Config.commonsBase) :
    ∃ t, exec (.baseAmo op dbl aq rl rd rs1 rs2) s = .next (retire (t.setX rd (amoReg dbl (getLe u.mem a (amoBytes dbl)))))
      ∧ Wrote u t (setLe u.mem a (amoBytes dbl) (amoNew op dbl (getLe u.mem a (amoBytes dbl)) (s.x rs2))) ∧ t.parts = u.parts := by
  have hqd := (wrote_dropDesc hc (s.x rs1) (amoBytes dbl)).quiet hq
  obtain ⟨t, ht, hw, hp⟩ := runs_scalarWrite hq hc (amoBytes_pos dbl) hlow
    (amoNew op dbl (getLe u.mem a (amoBytes dbl)) (s.x rs2)) k page (s.x rs1)
  have hcounter := locCounter_of_below hlow (amoBytes_pos dbl) u k page
  refine ⟨t, ?_, hw, hp⟩
  show execBaseAmo op dbl aq rl rd rs1 rs2 s = _
  rw [execBaseAmo, guarded_of_ready h]
  refine runM_of_runs (Runs.withLevels hs (hloc.bind (Runs.get_bind (Runs.ite_neg hcounter ?_))))
  exact (runs_atomicOrder hq true rl _ _).bind ((runs_atomicReady hc.partsCalm _ _ _).bind
    ((runs_readLoc hqd (isPort_of_below hlow)).bind (ht.bind (Runs.modify _ _))))

/-- A ready `lr` answers the value and takes the reservation of its line. -/
theorem exec_baseLr_of_loc {dbl aq rl : Bool} {rd rs1 : XReg} (h : Ready (.baseLr dbl aq rl rd rs1) s)
    (hloc : Runs (scalarLoc .load (s.x rs1) (amoBytes dbl)) s (.phys a k page) u) (hq : Quiet u)
    (hlow : a + amoBytes dbl ≤ Config.commonsBase) :
    exec (.baseLr dbl aq rl rd rs1) s =
      .next (retire ((u.withResv (some (a / 128))).setX rd (amoReg dbl (getLe u.mem a (amoBytes dbl))))) := by
  have hcommons := locCommons_of_below hlow (amoBytes_pos dbl) k page
  show execBaseLr dbl aq rl rd rs1 s = _
  rw [execBaseLr, guarded_of_ready h]
  exact runM_of_runs (hloc.bind (Runs.ite_neg hcommons ((runs_atomicOrder hq false rl _ _).bind
    ((runs_readLoc hq (isPort_of_below hlow)).bind (Runs.modify _ _)))))

/-- A ready `sc` while the reservation of its line holds. -/
theorem exec_baseSc_held {dbl aq rl : Bool} {rd rs1 rs2 : XReg} (h : Ready (.baseSc dbl aq rl rd rs1 rs2) s)
    (hs : s.parts.all Partition.still = true) (hloc : Runs (scalarLoc .store (s.x rs1) (amoBytes dbl)) s (.phys a k page) u)
    (hq : Quiet u) (hc : u.Calm) (hlow : a + amoBytes dbl ≤ Config.commonsBase) (hr : u.core.resv = some (a / 128)) :
    ∃ t, exec (.baseSc dbl aq rl rd rs1 rs2) s = .next (retire ((t.withResv none).setX rd 0))
      ∧ Wrote u t (setBytes u.mem a (natBytes (amoBytes dbl) (s.x rs2).toNat)) := by
  obtain ⟨t, ht, hw, -⟩ := runs_scalarWrite hq hc (amoBytes_pos dbl) hlow (s.x rs2).toNat k page (s.x rs1)
  have hcommons := locCommons_of_below hlow (amoBytes_pos dbl) k page
  have hholds : (u.core.resv.isSome && decide (u.core.resv = resvLine u.core.id (.phys a k page))) = true := by
    rw [hr]
    exact decide_eq_true rfl
  refine ⟨t, ?_, hw⟩
  show execBaseSc dbl aq rl rd rs1 rs2 s = _
  rw [execBaseSc, guarded_of_ready h]
  refine runM_of_runs (Runs.withLevels hs (hloc.bind (Runs.ite_neg hcommons ((runs_atomicOrder hq true rl _ _).bind (Runs.get_bind ?_)))))
  rw [hholds]
  exact (runs_atomicReady hc.partsCalm _ _ _).bind (ht.bind (Runs.modify _ _))

/-- A ready `sc` with no reservation of its line stores nothing. -/
theorem exec_baseSc_lost {dbl aq rl : Bool} {rd rs1 rs2 : XReg} (h : Ready (.baseSc dbl aq rl rd rs1 rs2) s)
    (hs : s.parts.all Partition.still = true) (hloc : Runs (scalarLoc .store (s.x rs1) (amoBytes dbl)) s (.phys a k page) u)
    (hq : Quiet u) (hlow : a + amoBytes dbl ≤ Config.commonsBase) (hr : u.core.resv ≠ some (a / 128)) :
    exec (.baseSc dbl aq rl rd rs1 rs2) s = .next (retire ((u.withResv none).setX rd 1)) := by
  have hcommons := locCommons_of_below hlow (amoBytes_pos dbl) k page
  have hholds : (u.core.resv.isSome && decide (u.core.resv = resvLine u.core.id (.phys a k page))) = false := by
    rw [Bool.and_eq_false_iff]
    exact .inr (decide_eq_false hr)
  show execBaseSc dbl aq rl rd rs1 rs2 s = _
  rw [execBaseSc, guarded_of_ready h]
  refine runM_of_runs (Runs.withLevels hs (hloc.bind (Runs.ite_neg hcommons ((runs_atomicOrder hq true rl _ _).bind (Runs.get_bind ?_)))))
  rw [hholds]
  exact Runs.modify _ _

end

/-! ## Places on a calm chip -/

/-- Plain memory lies below the Commons. -/
theorem PlainAccess.below {s : State} {va : Word} {n : Nat} (h : PlainAccess s va n) (hn : 0 < n) :
    va.toNat + n ≤ Config.commonsBase := by
  obtain ⟨-, -, -, hok, hcom⟩ := h
  have hbase : Config.commonsBase = 0x40000000000 := rfl
  have hbytes : Config.commonsBytes = 0xC000000 := rfl
  rw [physOk_iff] at hok
  rw [isCommons, Bool.and_eq_false_iff, decide_eq_false_iff_not, decide_eq_false_iff_not] at hcom
  omega

/-- So do the frames of HBM. -/
theorem below_of_hbm {a n : Nat} (ha : a < Config.hbmBytes) (hn : n ≤ 8) : a + n ≤ Config.commonsBase := by
  have hgap : Config.hbmBytes + 8 ≤ Config.commonsBase := by decide
  omega

theorem UserLeaf.below {s : State} {va n pte base size : Nat} {acc : Acc} {w : Word} (h : UserLeaf s va n acc pte base size w)
    (hn : n ≤ 8) : leafFrame w * 65536 + (va - base) + n ≤ Config.commonsBase := by
  obtain ⟨-, -, -, -, -, -, -, -, -, hhbm⟩ := h
  exact below_of_hbm hhbm hn

theorem loadBytes_le (op : LoadOp) : loadBytes op ≤ 8 := by cases op <;> decide

theorem storeBytes_le (op : StoreOp) : storeBytes op ≤ 8 := by cases op <;> decide

theorem amoBytes_le (dbl : Bool) : amoBytes dbl ≤ 8 := by cases dbl <;> decide

theorem Quiet.cacheLeaf {s : State} (h : Quiet s) (k : Nat) (e : TlbEntry) : Quiet (cacheLeaf k e s) :=
  ⟨h.lag, h.esc, h.viq, h.barrier, h.ecc, h.held⟩

theorem sameThread_cacheLeaf (s : State) (k : Nat) (e : TlbEntry) : SameThread s (cacheLeaf k e s) :=
  ⟨⟨rfl, rfl, rfl, rfl, rfl, rfl, rfl, rfl⟩, rfl⟩

/-- On a calm chip a U-mode access lands in the frame of its leaf, in which A, and D for a store, are set. -/
theorem runs_scalarLoc_leaf {acc : Acc} {va : Word} {n pte base size : Nat} {w : Word} {s : State} (hacc : acc ≠ .fetch)
    (h : UserLeaf s va.toNat n acc pte base size w) (hc : s.Calm) (he : s.ctx.esc = none) :
    ∃ k page u, Runs (scalarLoc acc va n) s (.phys (leafFrame w * 65536 + (va.toNat - base)) k page) u
      ∧ Wrote s u (markedMem s pte w acc) ∧ (leafAD w acc = w → u.core.resv = s.core.resv) := by
  have hset := wrote_setAD hc he s.pidx (colourNew s s.pidx s.ctx) pte w acc
  have hcache := wrote_cacheLeaf hset.calm s.pidx ⟨base, size, leafAD w acc⟩
  rw [hset.mem_eq] at hcache
  refine ⟨_, _, _, runs_scalarLoc_user hacc h hc.noEcc fun _ => frameProtected_calm hc.partsCalm _, hset.trans hcache, fun hAD => ?_⟩
  rw [setAD, if_pos hAD]
  rfl

/-- A leaf with A set is not written by a load's walk (R308). -/
theorem leafAD_load_of_set {w : Word} (h : w.getLsbD 6 = true) : leafAD w .load = w := by
  show w ||| 1#64 <<< 6 = w
  apply BitVec.eq_of_getLsbD_eq
  intro i hi
  rw [BitVec.getLsbD_or]
  by_cases h6 : i = 6
  · rw [h6, h, Bool.true_or]
  · have hbit : (1#64 <<< 6).getLsbD i = false := by
      rw [BitVec.getLsbD_shiftLeft, BitVec.getLsbD_one]
      simp only [Bool.and_eq_false_iff, Bool.not_eq_false', decide_eq_true_eq, decide_eq_false_iff_not]
      omega
    rw [hbit, Bool.or_false]

/-! ## The bytes a store leaves alone -/

theorem getByte_natBytes_out {m : Bytes} (h : wfBytes m = true) {a n x : Nat} (v : Nat) (hx : x < a ∨ a + n ≤ x) :
    getByte (setBytes m a (natBytes n v)) x = getByte m x :=
  getByte_setBytes_out h a _ x (by rwa [natBytes_length])

theorem markedMem_wf {s : State} (h : s.MemWf) (pte : Nat) (w : Word) (acc : Acc) : wfBytes (markedMem s pte w acc) = true := by
  unfold markedMem
  split <;> [exact h; exact wfBytes_setBytes h _ _]

theorem getByte_markedMem_out {s : State} (h : s.MemWf) {pte x : Nat} (w : Word) (acc : Acc) (hx : x < pte ∨ pte + 8 ≤ x) :
    getByte (markedMem s pte w acc) x = getByte s.mem x := by
  unfold markedMem
  split <;> [rfl; exact getByte_natBytes_out h _ hx]

theorem onlyRun_of_mem {s t : State} (h : s.MemWf) {pte a n v : Nat} {w : Word} {acc : Acc}
    (hm : t.mem = setBytes (markedMem s pte w acc) a (natBytes n v)) : OnlyRun s t a n pte := fun b hb hp => by
  rw [hm, getByte_natBytes_out (markedMem_wf h pte w acc) v hb, getByte_markedMem_out h w acc hp]

/-! ## Misaligned addresses (R83) -/

/-- A ready instruction whose computation traps before it has done anything takes that trap. -/
theorem runM_of_ready_trap {i : Instr} {s : State} {m : M Unit} {c : BitVec 6} {v : Word} (h : Ready i s)
    (hm : Stops m s (.trap c v) s) : runM m s = .next (enterTrap s false c v) := by
  rw [runM_of_trap hm, raiseTrap_of_ready h]

section
variable {s : State} (hs : s.parts.all Partition.still = true)

theorem exec_baseLoad_misaligned {op : LoadOp} {rd rs1 : XReg} {imm : BitVec 12} (h : Ready (.baseLoad op rd rs1 imm) s)
    (hm : (s.x rs1 + simm12 imm).toNat % loadBytes op ≠ 0) :
    exec (.baseLoad op rd rs1 imm) s = .next (enterTrap s false cMisLoad (s.x rs1 + simm12 imm)) := by
  show execBaseLoad op rd rs1 imm s = _
  have hload : Stops (scalarLoad (s.x rs1 + simm12 imm) (loadBytes op)) s (.trap cMisLoad (s.x rs1 + simm12 imm)) s :=
    (stops_scalarLoc_of_misaligned hm).bind
  have hany : Stops (loadAny (s.x rs1 + simm12 imm) (loadBytes op)) s (.trap cMisLoad (s.x rs1 + simm12 imm)) s :=
    hload.tryCatch (Stops.throw _ s)
  rw [execBaseLoad, guarded_of_ready h]
  exact runM_of_ready_trap h hany.bind

theorem exec_baseLr_misaligned {dbl aq rl : Bool} {rd rs1 : XReg} (h : Ready (.baseLr dbl aq rl rd rs1) s)
    (hm : (s.x rs1).toNat % amoBytes dbl ≠ 0) :
    exec (.baseLr dbl aq rl rd rs1) s = .next (enterTrap s false cMisLoad (s.x rs1)) := by
  show execBaseLr dbl aq rl rd rs1 s = _
  rw [execBaseLr, guarded_of_ready h]
  exact runM_of_ready_trap h (stops_scalarLoc_of_misaligned hm).bind

include hs

theorem exec_baseStore_misaligned {op : StoreOp} {rs2 rs1 : XReg} {imm : BitVec 12} (h : Ready (.baseStore op rs2 rs1 imm) s)
    (hm : (s.x rs1 + simm12 imm).toNat % storeBytes op ≠ 0) :
    exec (.baseStore op rs2 rs1 imm) s = .next (enterTrap s false cMisStore (s.x rs1 + simm12 imm)) := by
  have hlen := natBytes_length (storeBytes op) (s.x rs2).toNat
  rw [← hlen] at hm
  have hstore : Stops (scalarStore (s.x rs1 + simm12 imm) (natBytes (storeBytes op) (s.x rs2).toNat)) s
      (.trap cMisStore (s.x rs1 + simm12 imm)) s := (stops_scalarLoc_of_misaligned hm).bind.bind
  show execBaseStore op rs2 rs1 imm s = _
  have hany : Stops (storeAny (scalarStore (s.x rs1 + simm12 imm) (natBytes (storeBytes op) (s.x rs2).toNat))
      (natBytes (storeBytes op) (s.x rs2).toNat)) s (.trap cMisStore (s.x rs1 + simm12 imm)) s :=
    hstore.tryCatch (Stops.throw _ s)
  rw [execBaseStore, guarded_of_ready h]
  exact runM_of_ready_trap h (Stops.withLevels hs hany.bind)

theorem exec_baseAmo_misaligned {op : AmoOp} {dbl aq rl : Bool} {rd rs1 rs2 : XReg} (h : Ready (.baseAmo op dbl aq rl rd rs1 rs2) s)
    (hm : (s.x rs1).toNat % amoBytes dbl ≠ 0) :
    exec (.baseAmo op dbl aq rl rd rs1 rs2) s = .next (enterTrap s false cMisStore (s.x rs1)) := by
  show execBaseAmo op dbl aq rl rd rs1 rs2 s = _
  rw [execBaseAmo, guarded_of_ready h]
  exact runM_of_ready_trap h (Stops.withLevels hs (stops_scalarLoc_of_misaligned hm).bind)

theorem exec_baseSc_misaligned {dbl aq rl : Bool} {rd rs1 rs2 : XReg} (h : Ready (.baseSc dbl aq rl rd rs1 rs2) s)
    (hm : (s.x rs1).toNat % amoBytes dbl ≠ 0) :
    exec (.baseSc dbl aq rl rd rs1 rs2) s = .next (enterTrap s false cMisStore (s.x rs1)) := by
  show execBaseSc dbl aq rl rd rs1 rs2 s = _
  rw [execBaseSc, guarded_of_ready h]
  exact runM_of_ready_trap h (Stops.withLevels hs (stops_scalarLoc_of_misaligned hm).bind)

end

end Sys2Proof.Machine
end

section
/-! SUPPORT. The statements on scalar loads, stores and atomics (R83, R86, R304 to R308): the two places an access may have, plain
memory and the frame of a leaf, each through the instruction's effect at its place. -/

namespace Sys2Proof

open Sys2Proof.Machine

/-- Settles O17: a load at the place its address has, plain memory or the frame of a leaf. -/
theorem scalarLoadsComplete : Obligations.ScalarLoadsComplete := by
  unfold Obligations.ScalarLoadsComplete
  refine ⟨fun op rd rs1 imm s h he hh hp => ?_, ?_, ?_⟩
  · exact exec_baseLoad_of_loc h (runs_scalarLoc_plain hp fun h => nomatch h) (h.1.quiet he hh)
      (isPort_of_below (hp.below (loadBytes_pos op)))
  · intro op rd rs1 imm s pte base size w va h he hh hpriv hal hva htlb hwalk hbad hu hr hA hloc hhbm
    have hleaf : UserLeaf s va (loadBytes op) .load pte base size w := ⟨hpriv, hal, hva, htlb, hwalk, hbad, hu, hr, hloc, hhbm⟩
    have hrun := runs_scalarLoc_user (acc := .load) (by decide) hleaf he fun h => nomatch h
    rw [setAD, if_pos (leafAD_load_of_set hA)] at hrun
    have hq := (h.1.quiet he hh).cacheLeaf s.pidx ⟨base, size, leafAD w .load⟩
    have hthread := sameThread_cacheLeaf s s.pidx ⟨base, size, leafAD w .load⟩
    refine ⟨_, exec_baseLoad_of_loc h hrun hq (isPort_of_below (hleaf.below (loadBytes_le op))), rfl, ?_, ?_, ?_⟩
    · exact hthread.retire_x _ _
    · exact hthread.retire_sameCore _ _
    · exact hthread.retire_sameVector _ _
  · intro op rd rs1 imm s pte base size w va h hc hwf hleaf
    have hq := h.1.quiet hc.noEcc hc.noHeld
    obtain ⟨k, page, u, hrun, hw, -⟩ := runs_scalarLoc_leaf (acc := .load) (by decide) hleaf hc hq.esc
    have hexec := exec_baseLoad_of_loc h hrun (hw.quiet hq) (isPort_of_below (hleaf.below (loadBytes_le op)))
    rw [hw.mem_eq] at hexec
    have hthread := hw.sameThread
    refine ⟨_, hexec, hw.mem_eq, hthread.retire_x _ _, fun b hb => ?_, hthread.retire_u _ _, hthread.retire_sameCore _ _,
      hthread.retire_sameVector _ _⟩
    rw [← getByte_markedMem_out hwf w .load hb]
    exact congrArg (getByte · b) hw.mem_eq

/-- Settles O18: a store or an AMO at the place its address has, plain memory or the frame of a leaf; a misaligned access traps
where its place is looked for. -/
theorem scalarStoresComplete : Obligations.ScalarStoresComplete := by
  unfold Obligations.ScalarStoresComplete
  refine ⟨?_, ?_, ⟨?_, ?_⟩, fun op rd rs1 imm s h hm => exec_baseLoad_misaligned h hm,
    fun op rs2 rs1 imm s h hc hm => exec_baseStore_misaligned hc.partsStill h hm,
    fun op dbl aq rl rd rs1 rs2 s h hc hm => exec_baseAmo_misaligned hc.partsStill h hm,
    fun dbl aq rl rd rs1 s h hm => exec_baseLr_misaligned h hm,
    fun dbl aq rl rd rs1 rs2 s h hc hm => exec_baseSc_misaligned hc.partsStill h hm⟩
  · intro op rs2 rs1 imm s h hc hwf hp a
    have hrun := runs_scalarLoc_plain (acc := .store) hp fun _ => frameProtected_calm hc.partsCalm _
    obtain ⟨t, hexec, hw, hparts⟩ := exec_baseStore_of_loc h hc.partsStill hrun (h.1.quiet hc.noEcc hc.noHeld) hc
      (hp.below (storeBytes_pos op))
    have hthread := hw.sameThread
    refine ⟨_, hexec, hw.mem_eq, fun b hb => ?_, hthread.retire_x 0 0, hthread.retire_u 0 0, hthread.retire_pc, hthread.retire_loops,
      hparts, hthread.retire_sameCore 0 0, hthread.retire_sameVector 0 0⟩
    rw [retire_mem, hw.mem_eq, getByte_natBytes_out hwf _ hb]
  · intro op dbl aq rl rd rs1 rs2 s h hc hwf hp a old
    have hrun := runs_scalarLoc_plain (acc := .store) hp fun _ => frameProtected_calm hc.partsCalm _
    obtain ⟨t, hexec, hw, hparts⟩ := exec_baseAmo_of_loc h hc.partsStill hrun (h.1.quiet hc.noEcc hc.noHeld) hc
      (hp.below (amoBytes_pos dbl))
    have hthread := hw.sameThread
    refine ⟨_, hexec, hw.mem_eq, fun b hb => ?_, hthread.retire_x _ _, hthread.retire_u _ _, hparts, hthread.retire_sameCore _ _,
      hthread.retire_sameVector _ _⟩
    rw [retire_mem, State.setX_mem, hw.mem_eq]
    exact getByte_natBytes_out hwf _ hb
  · intro op rs2 rs1 imm s pte base size w va a h hc hwf hleaf
    have hq := h.1.quiet hc.noEcc hc.noHeld
    obtain ⟨k, page, u, hrun, hu, -⟩ := runs_scalarLoc_leaf (acc := .store) (by decide) hleaf hc hq.esc
    obtain ⟨t, hexec, hw, -⟩ := exec_baseStore_of_loc h hc.partsStill hrun (hu.quiet hq) hu.calm
      (hleaf.below (storeBytes_le op))
    rw [hu.mem_eq] at hw
    have hthread := (hu.trans hw).sameThread
    exact ⟨_, hexec, hw.mem_eq, onlyRun_of_mem hwf hw.mem_eq, hthread.retire_x 0 0, hthread.retire_u 0 0, hthread.retire_sameCore 0 0,
      hthread.retire_sameVector 0 0⟩
  · intro op dbl aq rl rd rs1 rs2 s pte base size w va n a old h hc hwf hleaf
    have hq := h.1.quiet hc.noEcc hc.noHeld
    obtain ⟨k, page, u, hrun, hu, -⟩ := runs_scalarLoc_leaf (acc := .store) (by decide) hleaf hc hq.esc
    obtain ⟨t, hexec, hw, -⟩ := exec_baseAmo_of_loc h hc.partsStill hrun (hu.quiet hq) hu.calm
      (hleaf.below (amoBytes_le dbl))
    rw [hu.mem_eq] at hw hexec
    have hthread := (hu.trans hw).sameThread
    exact ⟨_, hexec, hw.mem_eq, onlyRun_of_mem hwf hw.mem_eq, hthread.retire_x _ _, hthread.retire_u _ _, hthread.retire_sameCore _ _,
      hthread.retire_sameVector _ _⟩

/-- Settles O19: `lr` and `sc` at the place their address has; the reservation that the walk's own write may end is not of another
line. -/
theorem loadReservedStoreConditional : Obligations.LoadReservedStoreConditional := by
  unfold Obligations.LoadReservedStoreConditional
  refine ⟨?_, ?_, ?_, ?_, ?_⟩
  · intro dbl aq rl rd rs1 s h hc hp
    have hrun := runs_scalarLoc_plain (acc := .load) hp fun h => nomatch h
    have hthread := (Wrote.refl hc).sameThread.withResv (some ((s.x rs1).toNat / 128))
    exact ⟨_, exec_baseLr_of_loc h hrun (h.1.quiet hc.noEcc hc.noHeld) (hp.below (amoBytes_pos dbl)),
      retire_core_resv _, hthread.retire_x _ _,
      rfl, hthread.retire_sameCore _ _, hthread.retire_sameVector _ _⟩
  · intro dbl aq rl rd rs1 rs2 s h hc hwf hp hr
    have hrun := runs_scalarLoc_plain (acc := .store) hp fun _ => frameProtected_calm hc.partsCalm _
    obtain ⟨t, hexec, hw⟩ := exec_baseSc_held h hc.partsStill hrun (h.1.quiet hc.noEcc hc.noHeld) hc (hp.below (amoBytes_pos dbl)) hr
    have hthread := hw.sameThread.withResv none
    refine ⟨_, hexec, retire_core_resv _, hthread.retire_x _ _, hw.mem_eq, fun b hb => ?_, hthread.retire_sameCore _ _,
      hthread.retire_sameVector _ _⟩
    rw [← getByte_natBytes_out hwf (s.x rs2).toNat hb]
    exact congrArg (getByte · b) hw.mem_eq
  · intro dbl aq rl rd rs1 rs2 s h hc hp hr
    have hrun := runs_scalarLoc_plain (acc := .store) hp fun _ => frameProtected_calm hc.partsCalm _
    have hthread := (Wrote.refl hc).sameThread.withResv none
    exact ⟨_, exec_baseSc_lost h hc.partsStill hrun (h.1.quiet hc.noEcc hc.noHeld) (hp.below (amoBytes_pos dbl)) hr, retire_core_resv _,
      hthread.retire_x _ _, rfl, hthread.retire_sameCore _ _, hthread.retire_sameVector _ _⟩
  · intro dbl aq rl rd rs1 s pte base size w va a h hc hwf hleaf
    have hq := h.1.quiet hc.noEcc hc.noHeld
    obtain ⟨k, page, u, hrun, hu, -⟩ := runs_scalarLoc_leaf (acc := .load) (by decide) hleaf hc hq.esc
    have hexec := exec_baseLr_of_loc h hrun (hu.quiet hq) (hleaf.below (amoBytes_le dbl))
    rw [hu.mem_eq] at hexec
    have hthread := hu.sameThread.withResv (some (a / 128))
    refine ⟨_, hexec, retire_core_resv _, hu.mem_eq, hthread.retire_x _ _, fun b hb => ?_, hthread.retire_sameCore _ _,
      hthread.retire_sameVector _ _⟩
    rw [← getByte_markedMem_out hwf w .load hb]
    exact congrArg (getByte · b) hu.mem_eq
  · intro dbl aq rl rd rs1 rs2 s pte base size w va n a h hc hwf hleaf
    have hq := h.1.quiet hc.noEcc hc.noHeld
    obtain ⟨k, page, u, hrun, hu, hkeep⟩ := runs_scalarLoc_leaf (acc := .store) (by decide) hleaf hc hq.esc
    have hlow := hleaf.below (amoBytes_le dbl)
    refine ⟨fun hr hAD => ?_, fun hr => ?_⟩
    · obtain ⟨t, hexec, hw⟩ := exec_baseSc_held h hc.partsStill hrun (hu.quiet hq) hu.calm hlow ((hkeep hAD).trans hr)
      rw [hu.mem_eq, markedMem, if_pos hAD] at hw
      have hthread := (hu.trans hw).sameThread.withResv none
      refine ⟨_, hexec, retire_core_resv _, hthread.retire_x _ _, hw.mem_eq, fun b hb => ?_, hthread.retire_sameCore _ _,
        hthread.retire_sameVector _ _⟩
      rw [← getByte_natBytes_out hwf (s.x rs2).toNat hb]
      exact congrArg (getByte · b) hw.mem_eq
    · have hlost : u.core.resv ≠ some (a / 128) := by
        rcases hu.resv with hs | hn
        · rw [hs]
          exact hr
        · rw [hn]
          exact nofun
      have hthread := hu.sameThread.withResv none
      refine ⟨_, exec_baseSc_lost h hc.partsStill hrun (hu.quiet hq) hlow hlost, retire_core_resv _, hthread.retire_x _ _, hu.mem_eq,
        fun b hb _ => ?_, hthread.retire_sameCore _ _, hthread.retire_sameVector _ _⟩
      rw [← getByte_markedMem_out hwf w .store hb]
      exact congrArg (getByte · b) hu.mem_eq

end Sys2Proof
end

section
/-! SUPPORT. The writes of the CSRs with a behaviour of their own (R70, R100, R115, R228, R304, R392, R417): each from what a ready
access of its address does, and the bits that a write of `mip` leaves. -/

namespace Sys2Proof.Machine

/-! ## What a write of a special CSR reads and stores -/

/-- With nothing queued what a Zicsr form reads of any other CSR than `vl` is its value. -/
theorem csrOld_of_ne_vl {s : State} {a : BitVec 12} {old : Word} (hviq : s.ctx.viq = []) (ha : a ≠ csrVl)
    (hold : readCsr s a = some old) (need : Bool) : csrOld s a need = .value old := by
  have hbusy : viqBusy s.ctx = false := by rw [viqBusy, hviq]; rfl
  rw [csrOld, hold]
  simp [ha, hbusy]

/-- A ready access that writes gives rd the value it reads, after its own write. -/
theorem csrAccess_writes {i : Instr} {op : CsrOp} {a : BitVec 12} {src rd : XReg} {wr : State → Word → Option State} {s t : State}
    {old : Word} (h : Ready i s) (hpriv : csrPrivOk s.core.priv a = true) (hrw : a.extractLsb' 10 2 ≠ 3)
    (hold : ∀ need, csrOld s a need = .value old) (hw : csrWrites op src = true)
    (ht : wr s (csrNew op old (csrSource op src s.ctx)) = some t) :
    csrAccess i op a src rd wr s = .next (retire (t.setX rd old)) := by
  have hfirst : csrFirst i s = false := by rw [csrFirst, gate_of_ready h]
  have hro : (a.extractLsb' 10 2 == 3) = false := by simpa using hrw
  unfold csrAccess
  rw [hfirst, Bool.false_and, if_neg Bool.false_ne_true, guarded_of_ready h]
  simp only [hpriv, hro, hold, hw, ht, Bool.and_false, Bool.not_true, Bool.or_self, Bool.false_eq_true, if_false, if_true]

section
variable {c : Ctx} (h : c.esc = none)
include h

theorem vlSeen_of_no_escrow : vlSeen c = c.u.vl := by
  rw [vlSeen, Ctx.isSpec_of_no_escrow h]; rfl

theorem xfSeen_of_no_escrow : xfSeen c = c.u.vxflags := by
  rw [xfSeen, Ctx.isSpec_of_no_escrow h]; rfl

end

section
variable {s : State} (h : s.ctx.esc = none) (v : Word)
include h

/-- R115, R228: outside speculation a write of `vl` goes to the context, and VL is no longer provisional. -/
theorem writeVl_of_no_escrow : writeVl s v = s.mapCtx fun c =>
    { c with u := { c.u with vl := if v.toNat > 65536 then 65536 else v }, vlProv := none } := by
  have hs : s.core.ctx.isSpec = false := Ctx.isSpec_of_no_escrow h
  simp only [writeVl, State.mapCtx, hs, Bool.false_eq_true, if_false]

/-- R70: outside speculation a write of `vxflags` goes to the context. -/
theorem writeVxflags_of_no_escrow : writeVxflags s v = s.mapU fun u => { u with vxflags := v &&& 0x3F } := by
  have hs : s.core.ctx.isSpec = false := Ctx.isSpec_of_no_escrow h
  simp only [writeVxflags, State.mapU, State.mapCtx, hs, Bool.false_eq_true, if_false]

end

theorem csrPrivOk_supervisor {p : Priv} (hp : p ≠ .user) {a : BitVec 12} (ha : a.extractLsb' 8 2 = 1) : csrPrivOk p a = true := by
  rw [csrPrivOk, ha]
  simpa using hp

theorem csrPrivOk_machine (a : BitVec 12) : csrPrivOk .machine a = true := by
  unfold csrPrivOk
  split <;> rfl

/-! ## The accesses -/

section
variable {op : CsrOp} {src rd : XReg} {s : State}

theorem exec_vlWrite_of_ready (h : Ready (.vlWrite op src rd) s) (hw : csrWrites op src = true) (hvl : s.ctx.vlProv = none) :
    exec (.vlWrite op src rd) s =
      .next (retire ((writeVl s (csrNew op s.ctx.u.vl (csrSource op src s.ctx))).setX rd s.ctx.u.vl)) := by
  have ⟨_, hviq, _, _, hesc, _⟩ := h.1
  have hread : readCsr s csrVl = some s.ctx.u.vl := congrArg some (vlSeen_of_no_escrow hesc)
  show execVlWrite op src rd s = _
  rw [execVlWrite]
  exact csrAccess_writes (a := csrVl) h rfl (by decide) (csrOld_of_clear hviq hvl hread) hw rfl

theorem exec_vxflagsWrite_of_ready (h : Ready (.vxflagsWrite op src rd) s) (hw : csrWrites op src = true) :
    exec (.vxflagsWrite op src rd) s =
      .next (retire ((writeVxflags s (csrNew op s.ctx.u.vxflags (csrSource op src s.ctx))).setX rd s.ctx.u.vxflags)) := by
  have ⟨_, hviq, _, _, hesc, _⟩ := h.1
  have hread : readCsr s csrVxflags = some s.ctx.u.vxflags := congrArg some (xfSeen_of_no_escrow hesc)
  have hbusy : viqBusy s.ctx = false := by rw [viqBusy, hviq]; rfl
  show execVxflagsWrite op src rd s = _
  rw [execVxflagsWrite, if_neg (by simp [hbusy])]
  exact csrAccess_writes (a := csrVxflags) h rfl (by decide) (csrOld_of_ne_vl hviq (by decide) hread) hw rfl

theorem exec_ptrootWrite_of_ready (h : Ready (.ptrootWrite op src rd) s) (hp : s.core.priv ≠ .user) (hw : csrWrites op src = true) :
    exec (.ptrootWrite op src rd) s = .next (retire ((s.mapPart s.pidx fun p =>
      { p with ptroot := csrNew op (s.part s.pidx).ptroot (csrSource op src s.ctx) &&& ~~~0xFFFF }).setX rd (s.part s.pidx).ptroot)) := by
  have ⟨_, hviq, _⟩ := h.1
  show execPtrootWrite op src rd s = _
  rw [execPtrootWrite]
  exact csrAccess_writes (a := csrPtroot) h (csrPrivOk_supervisor hp rfl) (by decide) (csrOld_of_ne_vl hviq (by decide) rfl) hw rfl

theorem exec_mipWrite_of_ready (h : Ready (.assayNoticeClear op true src rd) s) (hp : s.core.priv = .machine)
    (hw : csrWrites op src = true) :
    exec (.assayNoticeClear op true src rd) s = .next (retire ({ s with core := { s.core with
      mipSoft := writeMip s.core.mipSoft (csrNew op (mipOf s s.core) (csrSource op src s.ctx)) 0x20222 } }.setX rd (mipOf s s.core))) := by
  have ⟨_, hviq, _⟩ := h.1
  show execAssayNoticeClear op true src rd s = _
  rw [execAssayNoticeClear]
  exact csrAccess_writes (a := csrMip) h (hp ▸ csrPrivOk_machine _) (by decide) (csrOld_of_ne_vl hviq (by decide) rfl) hw rfl

theorem exec_sipWrite_of_ready (h : Ready (.assayNoticeClear op false src rd) s) (hp : s.core.priv ≠ .user)
    (hw : csrWrites op src = true) :
    let old := mipOf s s.core &&& s.core.csr.mideleg
    exec (.assayNoticeClear op false src rd) s = .next (retire ({ s with core := { s.core with
      mipSoft := writeMip s.core.mipSoft (csrNew op old (csrSource op src s.ctx)) (s.core.csr.mideleg &&& 0x20002) } }.setX rd old)) := by
  have ⟨_, hviq, _⟩ := h.1
  intro old
  show execAssayNoticeClear op false src rd s = _
  rw [execAssayNoticeClear]
  exact csrAccess_writes (a := csrSip) h (csrPrivOk_supervisor hp rfl) (by decide) (csrOld_of_ne_vl hviq (by decide) rfl) hw rfl

theorem exec_profileEnableWrite_of_ready (h : Ready (.profileEnableWrite op src rd) s) (hp : s.core.priv = .machine)
    (hw : csrWrites op src = true) :
    exec (.profileEnableWrite op src rd) s = .next (retire
      ((writeProf s ((csrNew op (pcfgOf s) (csrSource op src s.ctx)).extractLsb' 0 4)).setX rd (pcfgOf s))) := by
  have ⟨_, hviq, _⟩ := h.1
  show execProfileEnableWrite op src rd s = _
  rw [execProfileEnableWrite]
  exact csrAccess_writes (a := csrPcfg) h (hp ▸ csrPrivOk_machine _) (by decide) (csrOld_of_ne_vl hviq (by decide) rfl) hw rfl

/-- A count of at most 16 partitions takes effect while no partition holds work. -/
theorem writePcnt_of_idle {n : BitVec 3} (hn : n.toNat ≤ 4) (hb : (upFrom 0 s.nparts).any (partitionBusy s) = false) :
    writePcnt s n = repartition s n := by
  rw [writePcnt, if_neg]
  rintro (h | h)
  · exact absurd (BitVec.lt_def.1 h) (Nat.not_lt.2 hn)
  · rw [hb] at h
    cases h

theorem exec_partitionSetup_of_ready (h : Ready (.partitionSetup op src rd) s) (hp : s.core.priv = .machine)
    (hw : csrWrites op src = true) (hc : pcntWritten op src s.ctx = true) :
    let v := csrNew op (pcfgOf s) (csrSource op src s.ctx)
    exec (.partitionSetup op src rd) s = .next (retire
      ((writePcnt (writeProf s (v.extractLsb' 0 4)) (v.extractLsb' 4 3)).setX rd (pcfgOf s))) := by
  have ⟨_, hviq, _⟩ := h.1
  intro v
  show execPartitionSetup op src rd s = _
  rw [execPartitionSetup]
  exact csrAccess_writes (a := csrPcfg) h (hp ▸ csrPrivOk_machine _) (by decide) (csrOld_of_ne_vl hviq (by decide) rfl) hw
    (congrArg some (if_pos hc))

end

/-! ## The bits of `mip` (R417) -/

theorem getLsbD_putBit_false (w : Word) (k : Nat) {i : Nat} (hi : i < 64) :
    (putBit w k false).getLsbD i = if i = k then false else w.getLsbD i := by
  rw [putBit, if_neg Bool.false_ne_true, BitVec.getLsbD_and, BitVec.getLsbD_not, BitVec.getLsbD_shiftLeft]
  rcases Nat.lt_trichotomy i k with h | h | h
  · simp [hi, h, h.ne]
  · simp [h]
  · simp [hi, h.ne', Nat.not_lt.2 h.le, Nat.sub_ne_zero_of_lt h]

theorem getLsbD_underMask (mask old v : Word) {i : Nat} (hi : i < 64) :
    (underMask mask old v).getLsbD i = if mask.getLsbD i then v.getLsbD i else old.getLsbD i := by
  rw [underMask, BitVec.getLsbD_or, BitVec.getLsbD_and, BitVec.getLsbD_and, BitVec.getLsbD_not]
  cases mask.getLsbD i <;> simp [hi]

/-- A bit after a write of `mip`: bit 17 is kept or cleared, the writable ones are as written, every other one is kept. -/
theorem getLsbD_writeMip (soft v mask : Word) {i : Nat} (hi : i < 64) :
    (writeMip soft v mask).getLsbD i =
      if i = 17 ∧ mask.getLsbD 17 = true ∧ v.getLsbD 17 = false then false
      else if (mask &&& 0x222).getLsbD i then v.getLsbD i else soft.getLsbD i := by
  have hcond : (mask.getLsbD 17 && !v.getLsbD 17) = true ↔ mask.getLsbD 17 = true ∧ v.getLsbD 17 = false := by
    rw [Bool.and_eq_true, Bool.not_eq_true']
  rw [writeMip]
  by_cases h : mask.getLsbD 17 = true ∧ v.getLsbD 17 = false
  · rw [if_pos (hcond.2 h), getLsbD_putBit_false _ _ hi, getLsbD_underMask _ _ _ hi]
    simp only [h, and_true]
  · rw [if_neg fun g => h (hcond.1 g), getLsbD_underMask _ _ _ hi, if_neg fun g : i = 17 ∧ _ => h g.2]

/-- The software bits under M-mode's mask. -/
theorem writeMip_machine (soft v : Word) :
    (writeMip soft v 0x20222).getLsbD 17 = (soft.getLsbD 17 && v.getLsbD 17)
      ∧ (∀ i : Nat, i = 1 ∨ i = 5 ∨ i = 9 → (writeMip soft v 0x20222).getLsbD i = v.getLsbD i)
      ∧ (∀ i : Nat, i < 64 → i ≠ 1 → i ≠ 5 → i ≠ 9 → i ≠ 17 → (writeMip soft v 0x20222).getLsbD i = soft.getLsbD i) := by
  refine ⟨?_, ?_, fun i hi h1 h5 h9 h17 => ?_⟩
  · rw [getLsbD_writeMip _ _ _ (by decide)]
    cases v.getLsbD 17 <;> simp
  · rintro i (rfl | rfl | rfl) <;> rw [getLsbD_writeMip _ _ _ (by decide)] <;> rfl
  · have hmask : ∀ j < 64, j ≠ 1 → j ≠ 5 → j ≠ 9 → ((0x20222 : Word) &&& 0x222).getLsbD j = false := by decide
    rw [getLsbD_writeMip _ _ _ hi, if_neg fun g => h17 g.1, hmask i hi h1 h5 h9]
    rfl

end Sys2Proof.Machine

namespace Sys2Proof

open Sys2Proof.Machine

/-- Settles O22: each access from its ready form, and `mip` bit by bit. -/
theorem specialCsrWrites : Obligations.SpecialCsrWrites := by
  unfold Obligations.SpecialCsrWrites
  refine ⟨fun op src rd s => ⟨fun h hw hvl => ?_, fun h hw => ?_, exec_ptrootWrite_of_ready, exec_mipWrite_of_ready,
    exec_sipWrite_of_ready⟩, writeMip_machine, fun op src rd s hp hw => ⟨fun h => exec_profileEnableWrite_of_ready h hp hw,
    fun h hc hn hb => ?_⟩⟩
  · have ⟨_, _, _, _, hesc, _⟩ := h.1
    rw [exec_vlWrite_of_ready h hw hvl, writeVl_of_no_escrow hesc]
  · have ⟨_, _, _, _, hesc, _⟩ := h.1
    rw [exec_vxflagsWrite_of_ready h hw, writeVxflags_of_no_escrow hesc]
  · rw [exec_partitionSetup_of_ready h hp hw hc, writePcnt_of_idle hn hb]

end Sys2Proof
end

section
/-! SUPPORT. The VIQ (R113, R120, R228, R268 to R273, R365): an instruction's commit, the head entry's step, a fault that freezes the
queue, and a held store that is performed. -/

namespace Sys2Proof.Machine

/-! ## Commit (R113, R270) -/

/-- Every form of the table is committed; for any other form there is nothing to prove. -/
theorem exec_of_viqForm {i : Instr} (h : viqForm i = true) (s : State) : exec i s = viqCommit i [] s := by
  cases i <;> cases h <;> rfl

section
variable {i : Instr} {b : List Byte} {s : State} (hg : gate i s = .pass) (hn : s.ctx.isGuess = false)
include hg hn

theorem viqCommit_of_full (hf : 32 ≤ s.ctx.viq.length) : viqCommit i b s = .next s := by
  rw [viqCommit, guarded_pass hg, countGuess_of_not_guess hn, viqFull, if_pos (decide_eq_true hf)]

theorem viqCommit_of_lag (hf : s.ctx.viq.length < 32) (hl : s.lag = true) : viqCommit i b s = .next (retire (viqPush i b s)) := by
  rw [viqCommit, guarded_pass hg, countGuess_of_not_guess hn, viqFull, if_neg (by simpa using hf), viqRetire, viqPush_lag, if_pos hl]

end

/-! ## The head entry (R120, R228, R268, R272) -/

section
variable {s t : State} {en : VEntry} {rest : List VEntry} (hv : s.ctx.viq = en :: rest)
include hv

theorem exec_vldffComplete_of_head (hi : isVldff en.instr = true) : exec .vldffComplete s = viqStep s := by
  show execVldffComplete s = _
  rw [execVldffComplete, hv, if_pos (by simpa using hi)]

variable (hf : en.frozen = false) (hu : entryConsumes s en = false)
include hf hu

theorem exec_viqExecute_of_done (hd : viqHead en s = .done t) : exec .viqExecute s = .next (viqAfter (viqLeave en t)) := by
  show viqStep s = _
  rw [viqStep_head hv hf hu, hd]

theorem exec_viqExecute_of_fault {cause : BitVec 6} {tval : Option Word} {ves : Nat} (hd : viqHead en s = .fault t cause tval ves) :
    exec .viqExecute s = .next (headFault en t cause tval ves) := by
  show viqStep s = _
  rw [viqStep_head hv hf hu, hd]

theorem exec_latepf_of_fault {tval : Option Word} {ves : Nat} (hd : viqHead en s = .fault t cLatepf tval ves) :
    exec (.latepf ves) s = .next (viqFault t 0 en.word cLatepf tval ves) := by
  show execLatepf ves s = _
  simp only [execLatepf, hv, hf, hu, hd, Bool.or_self, Bool.false_eq_true, and_self, if_false, if_true]

/-- R272: an entry behind a waiting head faults once no older one is executing. -/
theorem exec_vectorFault_of_ahead {u : State} {e : VEntry} {pos f : Nat} {cause : BitVec 6} {tval : Option Word}
    (hw : viqHead en s = .wait) (ha : findAhead s 1 rest = some (pos, e, u, cause, tval, f))
    (hidle : ((s.ctx.viq.take pos).any fun o => o.begun || o.sent) = false) :
    exec .vectorFault s = .next (viqFault u pos e.word cause tval f) := by
  show execVectorFault s = _
  rw [hv] at hidle
  simp only [execVectorFault, hv, hf, hu, hw, ha, hidle, Bool.or_self, Bool.false_eq_true, if_false]

end

/-- R268: where nothing lags, and for every other cause, the fault is delivered at once. -/
theorem headFault_eq_viqFault {t : State} {cause : BitVec 6} (h : t.lag = false ∨ cause ≠ cLatepf) (en : VEntry) (tval : Option Word)
    (ves : Nat) : headFault en t cause tval ves = viqFault t 0 en.word cause tval ves := by
  rw [headFault, if_neg]
  simp only [Bool.and_eq_true, decide_eq_true_eq]
  rintro ⟨⟨hl, hc⟩, -⟩
  rcases h with h | h
  · rw [hl] at h
    cases h
  · exact h hc

/-! ## A fault freezes the queue (R272, R273, R365) -/

/-- Taking back early starts changes vector registers, and which copies of the Cable queue are current. -/
theorem undoStarts_eq (l : List VEntry) (c : Ctx) :
    undoStarts l c = { c with v := (undoStarts l c).v, cable := (undoStarts l c).cable } := by
  induction l with
  | nil => rfl
  | cons e l ih =>
    rw [undoStarts]
    split
    · rw [ih]
      unfold Ctx.stale Ctx.staleWhere
      split <;> rfl
    · exact ih

theorem undoStarts_of_none {l : List VEntry} (h : ∀ e ∈ l, e.undo = none) (c : Ctx) : undoStarts l c = c := by
  induction l with
  | nil => rfl
  | cons e l ih =>
    rw [undoStarts, h e List.mem_cons_self]
    exact ih fun x hx => h x (List.mem_cons_of_mem e hx)

section
variable (s : State) (pos : Nat) (word : BitVec 32) (cause : BitVec 6) (tval : Option Word) (ves : Nat)

/-- What a fault leaves beside the queue and the pending trap is what taking back the younger starts leaves. -/
theorem viqFault_ctx : (viqFault s pos word cause tval ves).ctx = { undoStarts (s.ctx.viq.drop (pos + 1)) s.ctx with
    viq := (viqFault s pos word cause tval ves).ctx.viq
    vfault := some ⟨cause, tval.getD (word.setWidth 64), BitVec.ofNat 64 ves, BitVec.ofNat 64 pos⟩ } := rfl

theorem viqFault_frozen : ∀ e ∈ (viqFault s pos word cause tval ves).ctx.viq, e.frozen = true := by
  intro e he
  obtain ⟨p, -, rfl⟩ := List.mem_map.1 he
  rfl

theorem viqFault_length : (viqFault s pos word cause tval ves).ctx.viq.length = s.ctx.viq.length := by
  show (List.map _ (s.ctx.viq.zip (upFrom 0 s.ctx.viq.length))).length = _
  rw [List.length_map, List.length_zip, upFrom_length, Nat.min_self]

end

theorem takeVFault_eq {s : State} {f : VFault} (hf : s.ctx.vfault = some f) (hesc : s.ctx.esc = none) :
    takeVFault s = enterTrap (s.mapCtx fun c => { c with vfault := none, u := { c.u with ves := f.ves, vqpos := f.vqpos } }) false
      f.cause f.tval := by
  simp only [takeVFault, hf, narrow_of_no_escrow hesc]

/-- A trap's entry leaves the user CSRs, and whether a vector fault is pending. -/
theorem enterTrap_vector (s : State) (isInt : Bool) (cause : BitVec 6) (tval : Word) :
    (enterTrap s isInt cause tval).ctx.u = s.ctx.u ∧ (enterTrap s isInt cause tval).ctx.vfault = s.ctx.vfault := by
  unfold enterTrap
  extract_lets
  split <;> exact ⟨rfl, rfl⟩

/-! ## A held store is performed (R268) -/

/-- A store that no `qfence` holds can be performed on a still chip. -/
theorem heldStuck_still {s : State} (hp : s.parts.all Partition.still = true) {h : Held} (hb : h.behind = none) :
    heldStuck s h = false := by
  rw [heldStuck, hb, transitHit_still hp]
  rfl

section
variable {s : State} {h : Held} (hstuck : heldStuck s h = false)
include hstuck

theorem heldChoices_single (hcore : h.core = s.core.id) : heldChoices s [] [h] 0 = [0] := by
  simp [heldChoices, hstuck, hcore]

/-- The only held store waits for none, so it is performed. -/
theorem flushWhere_single (hh : s.heldStores = [h]) :
    flushWhere (fun g => decide (g = h)) s = performHeld { s with heldStores := [] } h := by
  have hlevels : heldLevels s (fun g => if decide (g = h) then 3 else 0) [] [h] = [(h, 3)] := by
    simp [heldLevels, hstuck]
  rw [flushWhere, settleHeld, hh, hlevels]
  simp [performAll]

end

theorem heldGranules_calm {s : State} (he : s.ecc = []) (h : Held) : heldGranules s h = s := by
  unfold heldGranules
  induction h.cover with
  | nil => rfl
  | cons c l ih =>
    have hg : granuleWrite s c.1 c.2 = s := by simp [granuleWrite, eccAt, he]
    rw [List.foldl_cons, hg, ite_self]
    exact ih

/-- Below the Commons a calm chip's write puts its bytes in memory; beside them only reservations change. -/
theorem physBytes_calm {s : State} (h : s.Calm) (he : s.ctx.esc = none) {a : Nat} {bs : List Byte} (hb : bs ≠ [])
    (hlow : a + bs.length ≤ Config.commonsBase) (k : Nat) (new : Bool) (w : Writer) (page : Option PageRef) :
    physBytes s k new w page a bs = breakResv { s with mem := setBytes s.mem a bs } w.core a bs.length := by
  have hempty : bs.isEmpty = false := by simpa using hb
  rw [← physWrite_calm h he hb hlow k new w page, physWrite, hempty,
    inCounterBlock_of_below hlow (List.length_pos_iff.2 hb), granuleRun_calm h.noEcc]
  rfl

theorem breakResv_ctx (s : State) (w : Option Nat) (a n : Nat) : (breakResv s w a n).ctx = s.ctx := by
  rw [breakResv_eq]
  exact Core.afterWrite_ctx w a n s.core

theorem performHeld_calm {s : State} (hc : s.Calm) (he : s.ctx.esc = none) {h : Held} {a : Nat} {kind : BitVec 2} {page : Option PageRef}
    (hloc : h.loc = .phys a kind page) (hb : h.bytes ≠ []) (hlow : a + h.bytes.length ≤ Config.commonsBase) :
    ∃ w, performHeld s h = breakResv { s with mem := setBytes s.mem a h.bytes } w a h.bytes.length := by
  unfold performHeld
  rw [hloc, heldGranules_calm hc.noEcc]
  exact ⟨_, physBytes_calm hc he hb hlow _ _ _ _⟩

theorem below_of_physOk {a n : Nat} (hok : physOk a n = true) (hcom : isCommons a = false) (hn : 0 < n) : a + n ≤ Config.commonsBase := by
  have hbase : Config.commonsBase = 0x40000000000 := rfl
  have hbytes : Config.commonsBytes = 0xC000000 := rfl
  rw [physOk_iff] at hok
  rw [isCommons, Bool.and_eq_false_iff, decide_eq_false_iff_not, decide_eq_false_iff_not] at hcom
  omega

/-- The store that alone is held on a calm chip is performed. -/
theorem exec_storeAck_single {s : State} {h : Held} {a : Nat} {kind : BitVec 2} {page : Option PageRef} (hh : s.heldStores = [h])
    (hcore : h.core = s.core.id) (hbehind : h.behind = none) (hloc : h.loc = .phys a kind page) (hb : h.bytes ≠ [])
    (hc : ({ s with heldStores := [] } : State).Calm) (hesc : s.ctx.esc = none)
    (hlow : a + h.bytes.length ≤ Config.commonsBase) :
    ∃ w, exec .storeAck s = .next (breakResv
      { s with draws := s.draws + 1, heldStores := [], mem := setBytes s.mem a h.bytes } w a h.bytes.length) := by
  have hstill : s.parts.all Partition.still = true := hc.partsStill
  have hstuck : heldStuck s h = false := heldStuck_still hstill hbehind
  have hdrawn : heldStuck { s with draws := s.draws + 1 } h = false := hstuck
  have hcalm : ({ s with draws := s.draws + 1, heldStores := [] } : State).Calm := hc
  have hchoices : heldChoices s [] s.heldStores 0 = [0] := by rw [hh, heldChoices_single hstuck hcore]
  have hfirst : s.heldStores[0]? = some h := by rw [hh, List.getElem?_cons_zero]
  obtain ⟨w, hw⟩ := performHeld_calm hcalm hesc hloc hb hlow
  refine ⟨w, ?_⟩
  show execStoreAck s = _
  simp only [execStoreAck, hchoices, List.length_singleton, Nat.max_self, Nat.mod_one, List.getElem?_cons_zero, hfirst]
  rw [levelHook_still s hstill, flushWhere_single hdrawn hh, hw]

end Sys2Proof.Machine

namespace Sys2Proof

open Sys2Proof.Machine

/-- Settles O28: a commit by whether there is room, the head entry's step by what its execution answers, a fault by what it leaves of
the queue, and the only held store by what performing it writes. -/
theorem queueCommits : Obligations.QueueCommits := by
  unfold Obligations.QueueCommits
  refine ⟨fun i s hform hg hn => ?_, fun s t en rest hv hf hu hd => ?_, fun s t en rest cause tval ves hv hf hu hd => ?_,
    fun s u en e rest pos f cause tval hv hf hu hw ha hidle => exec_vectorFault_of_ahead hv hf hu hw ha hidle,
    fun s pos word cause tval ves => ?_, fun s f hf hesc => ?_, fun s h a kind hh hcore hbehind hloc hb hc hesc hwf hok hcom => ?_⟩
  · rw [exec_of_viqForm hform]
    exact ⟨viqCommit_of_full hg hn, viqCommit_of_lag hg hn⟩
  · have hexec := exec_viqExecute_of_done hv hf hu hd
    exact ⟨hexec, fun hi => (exec_vldffComplete_of_head hv hi).trans hexec⟩
  · refine ⟨exec_viqExecute_of_fault hv hf hu hd, fun h => headFault_eq_viqFault h en tval ves, fun hc => ?_⟩
    subst hc
    exact exec_latepf_of_fault hv hf hu hd
  · have hctx := viqFault_ctx s pos word cause tval ves
    have hundo := undoStarts_eq (s.ctx.viq.drop (pos + 1)) s.ctx
    refine ⟨viqFault_frozen s pos word cause tval ves, viqFault_length s pos word cause tval ves, rfl, ?_, ?_, ?_, fun hnone => ?_,
      rfl, rfl, rfl, rfl, rfl, rfl, rfl, rfl, rfl, rfl, rfl⟩
    · rw [hctx, hundo]
    · rw [hctx, hundo]
    · rw [hctx, hundo]
    · rw [hctx, undoStarts_of_none hnone]
  · have htake := takeVFault_eq hf hesc
    have ⟨hu, hvf⟩ := enterTrap_vector (s.mapCtx fun c => { c with vfault := none, u := { c.u with ves := f.ves, vqpos := f.vqpos } })
      false f.cause f.tval
    rw [← htake] at hu hvf
    exact ⟨htake, by rw [hu]; rfl, by rw [hu]; rfl, hvf⟩
  · obtain ⟨w, hexec⟩ := exec_storeAck_single hh hcore hbehind hloc hb hc hesc (below_of_physOk hok hcom (List.length_pos_iff.2 hb))
    exact ⟨_, hexec, rfl, rfl, breakResv_ctx _ _ _ _⟩

end Sys2Proof
end

section
/-! SUPPORT. The configuration group (R104, R121 to R124, R161, R75): an instruction committed to an empty queue that rewrites vector
registers or the generators, and the forms of the scalar thread. -/

namespace Sys2Proof.Machine

/-! ## Vector registers after a write -/

theorem Ctx.vr_setVr_ne {r q : VReg5} (hq : q ≠ r) (c : Ctx) (v : VReg) : (c.setVr r v).vr q = c.vr q :=
  Vector.getElem_set_ne r.isLt q.isLt fun h => hq (BitVec.eq_of_toNat_eq h.symm)

/-- `vtag` (R123): each of the registers numbered gets the tag. -/
def Ctx.retag (c : Ctx) (tag : Byte) (rs : List Nat) : Ctx :=
  rs.foldl (fun d n => d.mapVr (BitVec.ofNat 5 n) fun v => { v with tag := tag }) c

theorem Ctx.retag_eq (c : Ctx) (tag : Byte) (rs : List Nat) : c.retag tag rs = { c with v := (c.retag tag rs).v } := by
  induction rs generalizing c with
  | nil => rfl
  | cons n rs ih => exact ih (c.mapVr (BitVec.ofNat 5 n) fun v => { v with tag := tag })

/-- R123: a register has the tag if it is named, and is as before if not. -/
theorem Ctx.vr_retag {rs : List Nat} (h : ∀ n ∈ rs, n < 32) (c : Ctx) (tag : Byte) (r : VReg5) :
    (c.retag tag rs).vr r = if r.toNat ∈ rs then { c.vr r with tag := tag } else c.vr r := by
  induction rs generalizing c with
  | nil => rfl
  | cons n rs ih =>
    have hn : n < 2 ^ 5 := h n List.mem_cons_self
    show ((c.mapVr (BitVec.ofNat 5 n) fun v => { v with tag := tag }).retag tag rs).vr r = _
    rw [ih (fun k hk => h k (List.mem_cons_of_mem n hk)), Ctx.mapVr]
    by_cases hr : r = BitVec.ofNat 5 n
    · have hnum : r.toNat = n := by rw [hr, BitVec.toNat_ofNat, Nat.mod_eq_of_lt hn]
      have hmem : r.toNat ∈ n :: rs := hnum ▸ List.mem_cons_self
      rw [if_pos hmem, ← hr, Ctx.vr_setVr_same, ite_self]
    · have hnum : r.toNat ≠ n := fun e => hr (BitVec.eq_of_toNat_eq (by rw [e, BitVec.toNat_ofNat, Nat.mod_eq_of_lt hn]))
      rw [Ctx.vr_setVr_ne hr]
      simp only [List.mem_cons, hnum, false_or]

/-! ## A commit to an empty queue -/

theorem Ctx.cableAll_of_empty {c : Ctx} (h : c.cable = []) : c.cableAll = c := by
  unfold Ctx.cableAll
  rw [h]
  exact ite_self c

theorem Ctx.srqAll_of_empty {c : Ctx} (h : c.srq = []) : c.srqAll = c := by
  unfold Ctx.srqAll
  rw [h]
  rfl

theorem viqAfter_of_idle {s : State} (hcable : s.ctx.cable = []) (hsrq : s.ctx.srq = []) : viqAfter s = s := by
  have hctx : s.core.ctx.cableAll.srqAll = s.core.ctx := by rw [Ctx.cableAll_of_empty hcable, Ctx.srqAll_of_empty hsrq]
  rw [viqAfter, State.mapCtx, hctx]
  exact ite_self s

theorem unholdBehind_of_none_behind {s : State} (h : s.heldStores.all (fun x => x.behind.isNone) = true) (id : Nat) :
    unholdBehind id s = s := by
  rw [unholdBehind, if_neg]
  rw [Bool.not_eq_true, List.any_eq_false]
  intro x hx
  have hnone : x.behind = none := by simpa using List.all_eq_true.1 h x hx
  simp [hnone]

/-- An entry that has written nothing leaves a queue that it was alone in, with nothing held behind it. -/
theorem viqLeave_alone {s : State} {en : VEntry} (hv : s.ctx.viq = [en]) (hw : en.wrote = []) (hf : en.faulting = false)
    (hb : s.ctx.barrier = none) (hheld : s.heldStores.all (fun h => h.behind.isNone) = true) :
    viqLeave en s = s.setCtx { s.ctx with viq := [] } := by
  have hgran : headGranules en s = s := by simp only [headGranules, hv, hw, List.isEmpty_nil, if_true]
  have hheld' (c : Ctx) : ((s.setCtx c).heldStores.all fun h => h.behind.isNone) = true := hheld
  rw [viqLeave, hgran, State.mapCtx, unholdBehind_of_none_behind (hheld' _)]
  simp only [hv, hb, hf, List.drop_one, List.tail_cons, Option.any_none, Bool.false_eq_true, if_false]

/-- A ready form that needs no new-colour item and rewrites only vector registers or the generators completes as it is committed. -/
theorem exec_of_ready_cfg {i : Instr} {s : State} {d : Ctx} {v : Vector VReg 32} {g : SrGen} (hform : viqForm i = true) (h : Ready i s)
    (hnew : entryNew (viqPush i [] s) (viqEntry i [] s) = false)
    (hrun : viqRun i (viqEntry i [] s) (viqPush i [] s) = .done (s.setCtx d))
    (hd : d = { (viqPush i [] s).ctx with v := v, sr := g }) :
    exec i s = .next (retire (s.setCtx { d with viq := [] })) := by
  have hgate : gate i s = .pass := gate_of_ready h
  obtain ⟨⟨hlag, hviq, hcable, hsrq, hesc, hbar, hheld⟩, -, -, -, hfenced⟩ := h
  have hhead : viqHead (viqEntry i [] s) (viqPush i [] s) = .done (s.setCtx d) := by
    have hopen : entryBarred (viqPush i [] s) (viqEntry i [] s) = false := hfenced
    rw [viqHead, hopen]
    exact hrun
  have huse : entryConsumes (viqPush i [] s) (viqEntry i [] s) = false := by rw [entryConsumes, hnew, Bool.and_false]
  have hq : (s.setCtx d).ctx.viq = [viqEntry i [] s] := by
    show d.viq = _
    rw [hd]
    show s.ctx.viq ++ _ = _
    rw [hviq]
    rfl
  have hb : (s.setCtx d).ctx.barrier = none := by show d.barrier = none; rw [hd]; exact hbar
  have hc : d.cable = [] := by rw [hd]; exact hcable
  have hs : d.srq = [] := by rw [hd]; exact hsrq
  rw [exec_of_viqForm hform, viqCommit_runs hgate (Ctx.isGuess_of_no_escrow hesc) hviq hlag huse hhead,
    viqLeave_alone hq rfl rfl hb hheld, viqAfter_of_idle hc hs]
  rfl

/-- What a retired change of the context alone leaves. -/
theorem retire_setCtx_sameElsewhere (s : State) (c : Ctx) : SameElsewhere s (retire (s.setCtx c)) :=
  ⟨rfl, rfl, rfl, rfl, rfl, rfl, rfl, rfl, rfl, rfl, rfl⟩

theorem retire_setCtx_sameCore (s : State) (c : Ctx) : SameCore s (retire (s.setCtx c)) :=
  ⟨rfl, rfl, rfl, rfl, rfl, rfl, rfl, rfl⟩

@[simp] theorem retire_vr (s : State) (r : VReg5) : (retire s).ctx.vr r = s.ctx.vr r :=
  congrArg (fun v : Vector VReg 32 => v[r.toNat]) (retire_ctx_v s)

/-! ## The forms committed to the VIQ (R75, R123, R161) -/

section
variable {s : State}

/-- R161: a ready form that rewrites a header changes that header alone. -/
theorem exec_header_of_ready {i : Instr} {vd : VReg5} {f : BitVec 192 → Option (BitVec 192)} {h' : BitVec 192}
    (hform : viqForm i = true) (h : Ready i s) (hnew : entryNew (viqPush i [] s) (viqEntry i [] s) = false)
    (hrun : ∀ p, viqRun i (viqEntry i [] s) p = runHeader vd f p) (hok : s.ctx.vrOk vd = true) (hf : f (s.ctx.vr vd).hdr = some h') :
    ∃ t, exec i s = .next t ∧ (t.ctx.vr vd).hdr = h' ∧ (∀ r : VReg5, r ≠ vd → t.ctx.vr r = s.ctx.vr r)
      ∧ t.ctx.x = s.ctx.x ∧ SameElsewhere s t ∧ SameCore s t := by
  have hok' : (viqPush i [] s).ctx.vrOk vd = true := hok
  have hf' : f ((viqPush i [] s).ctx.vr vd).hdr = some h' := hf
  have hdone : viqRun i (viqEntry i [] s) (viqPush i [] s)
      = .done (s.setCtx ((viqPush i [] s).ctx.mapVr vd fun v => { v with hdr := h' })) := by
    rw [hrun, runHeader, hok', hf']
    rfl
  refine ⟨_, exec_of_ready_cfg hform h hnew hdone rfl, ?_, fun r hr => ?_, retire_ctx_x _, retire_setCtx_sameElsewhere _ _,
    retire_setCtx_sameCore _ _⟩
  · rw [retire_vr]
    exact congrArg VReg.hdr (Ctx.vr_setVr_same _ _ _)
  · rw [retire_vr]
    exact Ctx.vr_setVr_ne hr _ _

/-- A tag of a type, or of NONE, is none of those that `vtag` refuses (R52, R59). -/
theorem tag_writable {t : Byte} (h : (etyOf t).isSome = true ∨ tagType t = 0) :
    (decide (14 ≤ tagType t) || (decide (tagType t = 13) && decide (tagBl t = 3))) = false := by
  rw [Bool.or_eq_false_iff, Bool.and_eq_false_imp, decide_eq_false_iff_not, decide_eq_true_eq, decide_eq_false_iff_not]
  rcases h with h | h
  · unfold etyOf at h
    split at h <;> simp_all
  · omega

theorem runVtag_of_writable {vd : VReg5} {en : VEntry}
    (hrs : ∀ n ∈ vtagRegs s.ctx vd en.a, n < 32 ∧ s.ctx.vrOk (BitVec.ofNat 5 n) = true ∧ s.ctx.dstWaits (BitVec.ofNat 5 n) = false)
    (htag : (etyOf (en.a.extractLsb' 0 8)).isSome = true ∨ tagType (en.a.extractLsb' 0 8) = 0) :
    runVtag vd en s = .done (s.setCtx (s.ctx.retag (en.a.extractLsb' 0 8) (vtagRegs s.ctx vd en.a))) := by
  have hall : ((vtagRegs s.ctx vd en.a).all fun n => decide (n < 32) && s.ctx.vrOk (BitVec.ofNat 5 n)) = true :=
    List.all_eq_true.2 fun n hn => by
      obtain ⟨hlt, hok, -⟩ := hrs n hn
      rw [decide_eq_true hlt, hok, Bool.and_self]
  have hwait : ((vtagRegs s.ctx vd en.a).any fun n => s.ctx.dstWaits (BitVec.ofNat 5 n)) = false :=
    List.any_eq_false.2 fun n hn => by
      obtain ⟨-, -, hw⟩ := hrs n hn
      rw [hw]
      exact Bool.false_ne_true
  simp only [runVtag, hall, tag_writable htag, hwait, Bool.not_true, Bool.false_eq_true, if_false]
  rfl

theorem exec_vtag_of_ready {rs1 : XReg} {vd : VReg5} (h : Ready (.vtag rs1 vd) s)
    (hrs : ∀ n ∈ vtagRegs s.ctx vd (s.x rs1), n < 32 ∧ s.ctx.vrOk (BitVec.ofNat 5 n) = true ∧ s.ctx.dstWaits (BitVec.ofNat 5 n) = false)
    (htag : (etyOf ((s.x rs1).extractLsb' 0 8)).isSome = true ∨ tagType ((s.x rs1).extractLsb' 0 8) = 0) :
    exec (.vtag rs1 vd) s = .next (retire (s.setCtx
      { (viqPush (.vtag rs1 vd) [] s).ctx.retag ((s.x rs1).extractLsb' 0 8) (vtagRegs s.ctx vd (s.x rs1)) with viq := [] })) :=
  exec_of_ready_cfg rfl h rfl (runVtag_of_writable (s := viqPush (.vtag rs1 vd) [] s) (en := viqEntry (.vtag rs1 vd) [] s) hrs htag)
    (Ctx.retag_eq _ _ _)

theorem exec_vsrseed_of_ready {rs1 : XReg} (h : Ready (.vsrseed rs1) s) :
    exec (.vsrseed rs1) s = .next (retire (s.setCtx
      { (viqPush (.vsrseed rs1) [] s).ctx with sr := ⟨s.x rs1, []⟩, viq := [] })) := by
  have ⟨_, _, hcable, _⟩ := h.1
  have hcable' : (viqPush (.vsrseed rs1) [] s).ctx.cable = [] := hcable
  refine exec_of_ready_cfg (d := { (viqPush (.vsrseed rs1) [] s).ctx with sr := ⟨s.x rs1, []⟩ }) rfl h rfl ?_ rfl
  show runVsrseed _ _ = _
  rw [runVsrseed, hcable']
  rfl

/-! ## The forms of the scalar thread (R104, R122, R124, R161) -/

theorem exec_vdecl_of_ready {rs1 : XReg} (h : Ready (.vdecl rs1) s) : exec (.vdecl rs1) s =
    if (s.x rs1).extractLsb' 0 2 = 3 ∨ s.ctx.slots.toList.any (fun k => k.alloc) = true ∨ regCopyOut s = true
      then .next (enterTrap s false cVlover (instrWord (.vdecl rs1)))
    else .next (retire (s.mapCtx (redeclare (s.x rs1)))) := by
  have ⟨_, hviq, hcable, hsrq, _⟩ := h.1
  show execVdecl rs1 s = _
  rw [execVdecl, guarded_of_ready h]
  simp only [hviq, hcable, hsrq, List.isEmpty_nil, Bool.not_true, Bool.or_self, Bool.false_eq_true, if_false, raiseTrap_of_ready h]

theorem regCopyOut_of_no_copies (h : s.core.copies = []) : regCopyOut s = false := by
  rw [regCopyOut, h, List.any_nil]

theorem Ctx.redeclare_vr (code : Word) (c : Ctx) (r : VReg5) : (redeclare code c).vr r = VReg.vacant :=
  Vector.getElem_replicate _

/-- R103: no capacity is above 65,536, so what `vsetl` grants is a VL. -/
theorem grant_le (n : Nat) (c : Ctx) (w : Nat) : (BitVec.ofNat 64 (min n (capBits c w))).toNat ≤ 65536 := by
  have hcap : capBits c w ≤ 65536 := Nat.min_le_left _ _
  rw [BitVec.toNat_ofNat]
  exact (Nat.mod_le _ _).trans ((Nat.min_le_right _ _).trans hcap)

theorem exec_vsetl_of_ready {w : BitVec 5} {rs1 rd : XReg} (h : Ready (.vsetl w rs1 rd) s) (hw : w.toNat ≤ 4) :
    let vl : Word := BitVec.ofNat 64 (min (s.x rs1).toNat (capBits s.ctx (4 * 2 ^ w.toNat)))
    exec (.vsetl w rs1 rd) s = .next (retire ((s.mapCtx fun c =>
      { c with u := { c.u with vl := vl }, vlProv := none }).setX rd vl)) := by
  intro vl
  have ⟨_, _, _, _, hesc, _⟩ := h.1
  have hle : ¬vl.toNat > 65536 := Nat.not_lt.2 (grant_le _ _ _)
  have hlegal : ¬4 < w := fun hlt => Nat.not_lt.2 hw (BitVec.lt_def.1 hlt)
  show execVsetl w rs1 rd s = _
  rw [execVsetl, guarded_of_ready h, if_neg hlegal]
  show Host.Outcome.next (retire ((writeVl s vl).setX rd vl)) = _
  rw [writeVl_of_no_escrow hesc, if_neg hle]

section
variable {vs : VReg5} {rd : XReg} (h : Ready (.vtagrd vs rd) s)
include h

theorem exec_vtagrd_of_invalid (hok : s.ctx.vrOk vs = false) :
    exec (.vtagrd vs rd) s = .next (enterTrap s false cVlover (instrWord (.vtagrd vs rd))) := by
  show execVtagrd vs rd s = _
  rw [execVtagrd, guarded_of_ready h, hok, ← raiseTrap_of_ready h]
  rfl

theorem exec_vtagrd_of_valid (hok : s.ctx.vrOk vs = true) :
    exec (.vtagrd vs rd) s = .next (retire (s.setX rd ((s.ctx.vr vs).tag.setWidth 64))) := by
  have ⟨_, hviq, _⟩ := h.1
  show execVtagrd vs rd s = _
  rw [execVtagrd, guarded_of_ready h, hok, hviq]
  rfl

end

theorem exec_dshape_of_ready {rs2 rs1 : XReg} (h : Ready (.dshape rs2 rs1) s) : exec (.dshape rs2 rs1) s =
    .next (retire (s.mapU fun u => { u with cshapemk := s.x rs1, cshapen := (lo32 (s.x rs2)).setWidth 64 })) := by
  show execDshape rs2 rs1 s = _
  rw [execDshape, guarded_of_ready h]

end

end Sys2Proof.Machine

namespace Sys2Proof

open Sys2Proof.Machine

/-- R122: no word decodes to a `vsetl` of a width class above 4. -/
theorem decode_ne_vsetl {w : BitVec 5} (hw : 4 < w.toNat) (rs1 rd : XReg) (u : BitVec 32) : decode u ≠ some (.vsetl w rs1 rd) := by
  intro hd
  have ⟨hwf, _⟩ := encodeOfDecode u _ hd
  have hlt : w.toNat < 5 := of_decide_eq_true hwf
  omega

/-- Settles O32: each form of the scalar thread from what it does when ready, each committed one from the registers, the header or the
generators it rewrites. -/
theorem shapeFormsComplete : Obligations.ShapeFormsComplete := by
  unfold Obligations.ShapeFormsComplete
  refine ⟨fun rs1 s h hcode hslots hcopies => ?_, fun rs1 s h hbad => ?_, fun w rs1 rd s => exec_vsetl_of_ready,
    fun w rs1 rd u hw => decode_ne_vsetl hw rs1 rd u, fun c w => rfl, fun vs rd s => exec_vtagrd_of_invalid,
    fun vs rd s => exec_vtagrd_of_valid, fun rs2 rs1 s => exec_dshape_of_ready, fun rs1 vd s h => ?_,
    fun rs2 rs1 vd s h hok => exec_header_of_ready (f := fun x => some (dsetHdr (viqEntry (.dset rs2 rs1 vd) [] s) x)) rfl h rfl
      (fun _ => rfl) hok rfl,
    fun vd s h' h hok hflip => exec_header_of_ready rfl h rfl (fun _ => rfl) hok hflip,
    fun rs2 rs1 vd s h hok => exec_header_of_ready (f := fun x => some (dscaleHdr (viqEntry (.dscale rs2 rs1 vd) [] s) x)) rfl h rfl
      (fun _ => rfl) hok rfl, fun rs1 s h => ?_⟩
  · have hlegal : ¬((s.x rs1).extractLsb' 0 2 = 3 ∨ s.ctx.slots.toList.any (fun k => k.alloc) = true ∨ regCopyOut s = true) := by
      rw [hslots, regCopyOut_of_no_copies hcopies]
      simpa using hcode
    refine ⟨_, (exec_vdecl_of_ready h).trans (if_neg hlegal), retire_ctx_nc _, retire_ctx_gc _, fun r => ?_, retire_ctx_m _, ?_,
      retire_ctx_x _, retire_setCtx_sameElsewhere s _, retire_setCtx_sameCore s _⟩
    · rw [retire_vr]
      exact Ctx.redeclare_vr _ _ r
    · exact congrArg UCsr.vl (retire_ctx_u _)
  · exact (exec_vdecl_of_ready h).trans (if_pos (hbad.imp_right .inl))
  · intro tag rs hrs htag
    refine ⟨_, exec_vtag_of_ready h hrs htag, fun r => ?_, ?_, retire_setCtx_sameElsewhere _ _, retire_setCtx_sameCore _ _⟩
    · rw [retire_vr]
      exact Ctx.vr_retag (fun n hn => (hrs n hn).1) _ tag r
    · refine (retire_ctx_x _).trans ?_
      show ((viqPush (.vtag rs1 vd) [] s).ctx.retag tag rs).x = _
      rw [Ctx.retag_eq]
      rfl
  · exact ⟨_, exec_vsrseed_of_ready h, retire_ctx_sr _, retire_ctx_v _, retire_ctx_x _, retire_setCtx_sameElsewhere _ _,
      retire_setCtx_sameCore _ _⟩

end Sys2Proof
end

section
/-! SUPPORT. What a V-space form does not write (R120, R127, R129): the frame of each operation of the vector register file, of each
effect, and of the form as it is committed and completes. -/

namespace Sys2Proof.Machine

/-! ## What a V-space effect leaves -/

/-- A context but for what V-space effects may write: vector registers, masks, scale registers, generators, stash copies, flags. -/
def Ctx.vecRest (c : Ctx) : Ctx :=
  { c with
    v := Vector.replicate 32 VReg.vacant
    m := Vector.replicate 8 MReg.clear
    q := Vector.replicate 4 []
    sr := ⟨0, []⟩
    cable := []
    u := { c.u with vxflags := 0 } }

/-- From c to d only the registers rs, the masks ks and, where qs holds, the scale registers are written. Tags and headers stay,
generators may step, and flags only rise. -/
structure VecFrame (rs : List VReg5) (ks : List MReg3) (qs : Prop) (c d : Ctx) : Prop where
  vr : ∀ r ∉ rs, d.vr r = c.vr r
  head : ∀ r, (d.vr r).tag = (c.vr r).tag ∧ (d.vr r).hdr = (c.vr r).hdr
  mbit : ∀ k ∉ ks, ∀ n, d.mbit k n = c.mbit k n
  q : ¬qs → d.q = c.q
  flags : ∀ n, c.u.vxflags.getLsbD n = true → d.u.vxflags.getLsbD n = true
  cable : c.cable = [] → d.cable = []
  rest : d.vecRest = c.vecRest

namespace VecFrame

variable {rs : List VReg5} {ks : List MReg3} {qs : Prop}

theorem refl (c : Ctx) : VecFrame rs ks qs c c :=
  ⟨fun _ _ => rfl, fun _ => ⟨rfl, rfl⟩, fun _ _ _ => rfl, fun _ => rfl, fun _ h => h, fun h => h, rfl⟩

theorem trans {c d e : Ctx} (h : VecFrame rs ks qs c d) (h' : VecFrame rs ks qs d e) : VecFrame rs ks qs c e where
  vr r hr := (h'.vr r hr).trans (h.vr r hr)
  head r := ⟨(h'.head r).1.trans (h.head r).1, (h'.head r).2.trans (h.head r).2⟩
  mbit k hk n := (h'.mbit k hk n).trans (h.mbit k hk n)
  q hq := (h'.q hq).trans (h.q hq)
  flags n hn := h'.flags n (h.flags n hn)
  cable hc := h'.cable (h.cable hc)
  rest := h'.rest.trans h.rest

theorem foldl {α : Type} {f : Ctx → α → Ctx} (hf : ∀ d x, VecFrame rs ks qs d (f d x)) (xs : List α) (c : Ctx) :
    VecFrame rs ks qs c (xs.foldl f c) := by
  induction xs generalizing c with
  | nil => exact refl c
  | cons x xs ih => exact (hf c x).trans (ih (f c x))

/-! ## The operations of the register file -/

section
variable (c : Ctx)

theorem mapVr {r : VReg5} (hr : r ∈ rs) {f : VReg → VReg} (hf : ∀ v, (f v).tag = v.tag ∧ (f v).hdr = v.hdr) :
    VecFrame rs ks qs c (c.mapVr r f) where
  vr k hk := Ctx.vr_setVr_ne (fun e => hk (by rw [e]; exact hr)) c _
  head k := by
    by_cases hk : k = r
    · rw [hk, Ctx.mapVr, Ctx.vr_setVr_same]
      exact hf _
    · rw [Ctx.mapVr, Ctx.vr_setVr_ne hk]
      exact ⟨rfl, rfl⟩
  mbit _ _ _ := rfl
  q _ := rfl
  flags _ h := h
  cable h := h
  rest := rfl

theorem putElem {r : VReg5} (hr : r ∈ rs) (w i b : Nat) : VecFrame rs ks qs c (c.putElem r w i b) :=
  mapVr c hr fun _ => ⟨rfl, rfl⟩

/-- A write makes copies of the operand stash stale, and nothing else. -/
theorem staleWhere (p : Stash → Bool) : VecFrame rs ks qs c (c.staleWhere p) := by
  unfold Ctx.staleWhere
  split
  · exact refl c
  · next hne => exact ⟨fun _ _ => rfl, fun _ => ⟨rfl, rfl⟩, fun _ _ _ => rfl, fun _ => rfl, fun _ h => h,
      fun h => absurd (List.isEmpty_iff.2 h) hne, rfl⟩

theorem fillReg {r : VReg5} (hr : r ∈ rs) : VecFrame rs ks qs c (c.fillReg r) :=
  (mapVr c hr fun v => by unfold VReg.fill; split <;> exact ⟨rfl, rfl⟩).trans (staleWhere _ _)

theorem addFlags (f : Flags) : VecFrame rs ks qs c (c.addFlags f) where
  vr _ _ := rfl
  head _ := ⟨rfl, rfl⟩
  mbit _ _ _ := rfl
  q _ := rfl
  flags n h := by
    show (c.u.vxflags ||| f.setWidth 64).getLsbD n = true
    rw [BitVec.getLsbD_or, h, Bool.true_or]
  cable h := h
  rest := rfl

theorem setSr (g : SrGen) : VecFrame rs ks qs c { c with sr := g } :=
  ⟨fun _ _ => rfl, fun _ => ⟨rfl, rfl⟩, fun _ _ _ => rfl, fun _ => rfl, fun _ h => h, fun h => h, rfl⟩

theorem setQ (hq : qs) (k n v : Nat) : VecFrame rs ks qs c (c.setQ k n v) := by
  unfold Ctx.setQ
  split
  · exact ⟨fun _ _ => rfl, fun _ => ⟨rfl, rfl⟩, fun _ _ _ => rfl, fun h => absurd hq h, fun _ h => h, fun h => h, rfl⟩
  · exact refl c

theorem setMbit {k : MReg3} (hk : k ∈ ks) (i : Nat) (b : Bool) : VecFrame rs ks qs c (c.setMbit k i b) := by
  unfold Ctx.setMbit
  split
  · exact refl c
  · refine ⟨fun _ _ => rfl, fun _ => ⟨rfl, rfl⟩, fun j hj n => ?_, fun _ => rfl, fun _ h => h, fun h => h, rfl⟩
    have hne : k.toNat ≠ j.toNat := fun e => hj (BitVec.eq_of_toNat_eq e ▸ hk)
    rw [Ctx.mbit, Ctx.mbit, Vector.getElem_set_ne _ _ hne]

end

/-! ## The results of a list of elements -/

section
variable {vd : VReg5} (hvd : vd ∈ rs) (c : Ctx)
include hvd

theorem emitOne (w : Nat) (sr : Bool) (f : Nat → Nat × Flags) (i : Nat) : VecFrame rs ks qs c (emitOne vd w sr f c i) := by
  have hwrite := (putElem (ks := ks) (qs := qs) c hvd w i (f i).1).trans (addFlags _ (f i).2)
  unfold Machine.emitOne
  split
  · exact hwrite.trans (setSr _ _)
  · exact hwrite

theorem emitFill (w : Nat) (sr : Bool) (f : Nat → Nat × Flags) (is : List Nat) :
    VecFrame rs ks qs c ((emitAll vd w sr f is c).fillReg vd) :=
  (foldl (fun d i => emitOne hvd d w sr f i) is c).trans (fillReg _ hvd)

theorem emitPairsFill (w : Nat) (ps : List (Nat × Nat × Flags)) : VecFrame rs ks qs c ((emitPairs vd w ps c).fillReg vd) := by
  have hstep (d : Ctx) (p : Nat × Nat × Flags) : VecFrame rs ks qs d ((d.putElem vd w p.1 p.2.1).addFlags p.2.2) :=
    (putElem d hvd w p.1 p.2.1).trans (addFlags _ p.2.2)
  exact (foldl hstep ps c).trans (fillReg _ hvd)

/-! ## The effects (spec/06, spec/07) -/

variable (vs1 : VReg5) (v : VEnv)

theorem binEffect (o : BinOp) (q : Src2) : VecFrame rs ks qs c (binEffect o vs1 vd q v c) := by
  unfold Machine.binEffect
  split
  · exact emitFill hvd c _ _ _ _
  · exact emitFill hvd c _ _ _ _
  · exact refl c
  · exact refl c

theorem mergeEffect (q : Src2) : VecFrame rs ks qs c (mergeEffect vs1 vd q v c) := by
  unfold Machine.mergeEffect
  dsimp only
  split
  · exact emitFill hvd c _ _ _ _
  · exact emitFill hvd c _ _ _ _
  · exact refl c
  · exact refl c

theorem unaryEffect (o : UnOp) : VecFrame rs ks qs c (unaryEffect o vs1 vd v c) := by
  unfold Machine.unaryEffect
  split
  · exact emitFill hvd c _ _ _ _
  · exact emitFill hvd c _ _ _ _
  · exact refl c
  · exact refl c

theorem bcastEffect : VecFrame rs ks qs c (bcastEffect vs1 vd v c) := by
  unfold Machine.bcastEffect
  split
  · exact refl c
  · exact emitFill hvd c _ _ _ _

theorem vidEffect : VecFrame rs ks qs c (vidEffect vd v c) := by
  unfold Machine.vidEffect
  split
  · exact emitFill hvd c _ _ _ _
  · exact refl c
  · exact refl c
  · exact refl c

theorem midxEffect : VecFrame rs ks qs c (midxEffect vd v c) := by
  unfold Machine.midxEffect
  split
  · exact emitPairsFill hvd c _ _
  · exact refl c
  · exact refl c
  · exact refl c

theorem redEffect (o : RedOp) : VecFrame rs ks qs c (redEffect o vs1 vd v c) := by
  have hwrite (w : Nat) (r : Nat × Flags) : VecFrame rs ks qs c (((c.putElem vd w 0 r.1).addFlags r.2).fillReg vd) :=
    ((putElem c hvd w 0 r.1).trans (addFlags _ r.2)).trans (fillReg _ hvd)
  unfold Machine.redEffect
  dsimp only
  split
  · exact refl c
  · split
    · exact hwrite _ _
    · exact hwrite _ _
    · exact refl c
    · exact refl c

theorem quantInto (hq : qs) (mode : RMode) (vxctl : Word) (m : MReg3) (top : Nat) (src : Nat → FVal) (b : Nat) :
    VecFrame rs ks qs c (quantInto vd mode vxctl m top src c b) := by
  unfold Machine.quantInto
  extract_lets t n lo pres r c1 from_ c2 c3
  have h1 : VecFrame rs ks qs c c1 := foldl (fun d (p : Nat × Nat) => putElem d hvd 4 p.1 p.2) _ c
  have h2 : VecFrame rs ks qs c c2 := h1.trans (foldl (fun d i => putElem d hvd 4 i 0) _ c1)
  have h3 : VecFrame rs ks qs c c3 := (h2.trans (setQ c2 hq _ _ _)).trans (addFlags _ _)
  split
  · exact h3.trans (foldl (fun d i => setSr d _) pres c3)
  · exact h3

theorem quantEffect (hq : qs) : VecFrame rs ks qs c (quantEffect vs1 vd v c) :=
  ((foldl (fun d b => quantInto hvd d hq v.mode v.vxctl v.m v.vl (fun i => d.fval vs1 i) b) _ c).trans (fillReg _ hvd)).trans
    (staleWhere _ _)

end

theorem cmpEffect {md : MReg3} (hmd : md ∈ ks) (cc : BitVec 2) (vs1 : VReg5) (q : Src2) (v : VEnv) (c : Ctx) :
    VecFrame rs ks qs c (cmpEffect cc vs1 q md v c) :=
  foldl (fun d i => (setMbit d hmd i _).trans (addFlags _ _)) _ c

theorem maskEffect {md : MReg3} (hmd : md ∈ ks) (o : MaskOp) (ma mb : MReg3) (v : VEnv) (c : Ctx) :
    VecFrame rs ks qs c (maskEffect o ma mb md v c) :=
  foldl (fun d i => setMbit d hmd i _) _ c

theorem momuEffect {vd : VReg5} {c : Ctx} (h0 : vd ∈ rs) (h1 : (momuRegs c vd).1 ∈ rs) (h2 : (momuRegs c vd).2 ∈ rs) (u : UCsr)
    (vs1 : VReg5) (v : VEnv) : VecFrame rs ks qs c (momuEffect u vs1 vd v c) := by
  have hstep (d : Ctx) (i : Nat) (r : (Nat × Nat × Nat) × Flags) : VecFrame rs ks qs d
      ((((d.putElem vd 32 i r.1.1).putElem (momuRegs c vd).1 32 i r.1.2.1).putElem (momuRegs c vd).2 32 i r.1.2.2).addFlags r.2) :=
    (((putElem d h0 32 i r.1.1).trans (putElem _ h1 32 i r.1.2.1)).trans (putElem _ h2 32 i r.1.2.2)).trans (addFlags _ r.2)
  exact (((foldl (fun d i => hstep d i _) _ c).trans (fillReg _ h0)).trans (fillReg _ h1)).trans (fillReg _ h2)

end VecFrame

/-! ## The forms -/

/-- R127, R129: a V-space form writes its destinations and its mask, and scale registers only where it is `vquant`. -/
theorem vecForm_frame {i : Instr} {f : VecForm} (h : vecForm i = some f) (en : VEntry) (v : VEnv) (c : Ctx) :
    VecFrame (vecDests c i) (maskWrites i) (∃ e vs1 m vd, i = .vquant e vs1 m vd) c (f.eff en v c) := by
  cases i <;> cases h
  case vaddVv | vaddVx | vaddVi | vsubVv | vsubVx | vsubVi | vmulVv | vmulVx | vmulVi | vmacVv | vmacVx | vmacVi | vminVv | vminVx | vminVi
    | vmaxVv | vmaxVx | vmaxVi | vandVv | vandVx | vandVi | vorVv | vorVx | vorVi | vxorVv | vxorVx | vxorVi | vshlVv | vshlVx | vshlVi
    | vshrVv | vshrVx | vshrVi | vdivVv | vdivVx | vdivVi => exact .binEffect (List.mem_singleton_self _) c _ v _ _
  case vcmpVv | vcmpVx | vcmpVi => exact .cmpEffect (List.mem_singleton_self _) _ _ _ v c
  case vmergeVv | vmergeVx | vmergeVi => exact .mergeEffect (List.mem_singleton_self _) c _ v _
  case vneg | vabs | vnot | vsqrt | vrsqrt | vrcp | vexp2 | vlog2 | vsin | vcos | vtanh | vsigm | vfloor | vceil | vrnd | vclz | vpopc =>
    exact .unaryEffect (List.mem_singleton_self _) c _ v _
  case vpermGather | vpermSlideVx | vpermSlideVi | vslideupVx | vslideupVi | vmov | vclass | vcvt | vcvtRz | vcvtSr | vcvtSat | vrev
    | vtr8 =>
    exact .emitFill (List.mem_singleton_self _) c _ _ _ _
  case vcompress | vexpand => exact .emitPairsFill (List.mem_singleton_self _) c _ _
  case vid => exact .vidEffect (List.mem_singleton_self _) c v
  case vmidx => exact .midxEffect (List.mem_singleton_self _) c v
  case vbcast => exact .bcastEffect (List.mem_singleton_self _) c _ v
  case vredsum | vredsumt | vredmax | vredmin | vredand | vredor | vredxor => exact .redEffect (List.mem_singleton_self _) c _ v _
  case vquant e vs1 m vd => exact .quantEffect (List.mem_singleton_self _) c _ v ⟨e, vs1, m, vd, rfl⟩
  case mand | mor | mxor | mandn | mnot | mbf | mif | msof | mset | mclr => exact .maskEffect (List.mem_singleton_self _) _ _ _ v c
  case vmomu e vs1 m vd => exact .momuEffect List.mem_cons_self (.tail _ List.mem_cons_self) (.tail _ (.tail _ List.mem_cons_self)) _ _ v

/-- R113, R269: a V-space form is committed to the VIQ, and reads no element of memory. -/
theorem vecForm_committed {i : Instr} {f : VecForm} (h : vecForm i = some f) :
    viqForm i = true ∧ ∀ (s : State) (en : VEntry), en.instr = i → entryNew s en = false := by
  cases i <;> cases h
  all_goals exact ⟨rfl, fun s en he => by rw [entryNew, he]; rfl⟩

/-! ## Completion (R120) -/

theorem vecRun_of_ok {en : VEntry} {m : MReg3} {need : Ctx → Nat → Need} {eff : VEnv → Ctx → Ctx} {s : State}
    (h : needCheck s.ctx en.csr.vl.toNat (need s.ctx (readBound en m s.ctx)) = .ok) :
    vecRun en m need eff s = .done { s.setCtx (eff (envOf s en m) s.ctx) with draws := s.draws + en.csr.vl.toNat } := by
  rw [vecRun, h]

/-- A merge reads every element below VL, so its checks do not ask how far the mask's enabled elements go (R132). -/
theorem runMerge_of_ok {e : Bool} {vs1 vd : VReg5} {q : Src2} {m : MReg3} {en : VEntry} {s : State}
    (h : needCheck s.ctx en.csr.vl.toNat (mergeNeed e vs1 vd q m en.start s.ctx en.csr.vl.toNat) = .ok) :
    runMerge e vs1 vd q m en s = .done { s.setCtx (mergeEffect vs1 vd q (envOf s en m) s.ctx) with draws := s.draws + en.csr.vl.toNat } :=
  vecRun_of_ok (need := fun c _ => mergeNeed e vs1 vd q m en.start c en.csr.vl.toNat) h

/-- With no Cable work queued, `vquant` need not wait for a copy of its scale entries (R167). -/
theorem runQuant_of_done {e : Bool} {vs1 vd : VReg5} {m : MReg3} {en : VEntry} {s t : State} (hc : s.ctx.cable = [])
    (h : vecRun en m (fun c vl => unNeed (quantTags c vd vs1) true e vs1 vd m c vl) (quantEffect vs1 vd) s = .done t) :
    runQuant e vs1 m vd en s = .done t := by
  rw [runQuant, h, qCopying, hc]
  rfl

/-- An entry that has just been committed performs its form's effect where its checks pass. -/
theorem viqRun_of_vecForm {i : Instr} {f : VecForm} (h : vecForm i = some f) {s p : State} (hc : p.ctx.cable = [])
    (hok : needCheck p.ctx s.ctx.u.vl.toNat (f.need p.ctx (readLimit i (viqEntry i [] s) f.m p.ctx)) = .ok) :
    viqRun i (viqEntry i [] s) p = .done { p.setCtx (f.eff (viqEntry i [] s) (envOf p (viqEntry i [] s) f.m) p.ctx) with
      draws := p.draws + s.ctx.u.vl.toNat } := by
  cases i <;> cases h
  case vquant => exact runQuant_of_done hc (vecRun_of_ok hok)
  case vmergeVv | vmergeVx | vmergeVi => exact runMerge_of_ok hok
  all_goals exact vecRun_of_ok hok

section
variable {i : Instr} {f : VecForm} {s : State} (h : vecForm i = some f) (hr : Ready i s)
  (hok : needCheck (viqPush i [] s).ctx s.ctx.u.vl.toNat
    (f.need (viqPush i [] s).ctx (readLimit i (viqEntry i [] s) f.m (viqPush i [] s).ctx)) = .ok)
include h hr hok

/-- A ready V-space form whose checks pass performs its effect, leaves the queue and retires. -/
theorem exec_vecForm_of_ready : exec i s = .next (retire (viqAfter (viqLeave (viqEntry i [] s)
    { (viqPush i [] s).setCtx (f.eff (viqEntry i [] s) (envOf (viqPush i [] s) (viqEntry i [] s) f.m) (viqPush i [] s).ctx) with
      draws := (viqPush i [] s).draws + s.ctx.u.vl.toNat }))) := by
  have hgate := gate_of_ready hr
  obtain ⟨⟨hlag, hviq, hcable, -, hesc, -, -⟩, -, -, -, hfenced⟩ := hr
  obtain ⟨hform, hnew⟩ := vecForm_committed h
  have huse : entryConsumes (viqPush i [] s) (viqEntry i [] s) = false := by
    rw [entryConsumes, hnew _ (viqEntry i [] s) rfl, Bool.and_false]
  have hopen : entryBarred (viqPush i [] s) (viqEntry i [] s) = false := hfenced
  rw [exec_of_viqForm hform]
  refine viqCommit_runs hgate (Ctx.isGuess_of_no_escrow hesc) hviq hlag huse ?_
  rw [viqHead, hopen]
  exact viqRun_of_vecForm h hcable hok

/-- The state it leaves: that of the effect, with the queue empty. -/
theorem exec_vecForm_state : ∃ d n, VecFrame (vecDests s.ctx i) (maskWrites i) (∃ e vs1 m vd, i = .vquant e vs1 m vd) (viqPush i [] s).ctx d
    ∧ exec i s = .next (retire ({ s with draws := n }.setCtx { d with viq := [] })) := by
  have hframe : VecFrame (vecDests s.ctx i) _ _ _ _ :=
    vecForm_frame h (viqEntry i [] s) (envOf (viqPush i [] s) (viqEntry i [] s) f.m) (viqPush i [] s).ctx
  have hexec := exec_vecForm_of_ready h hr hok
  obtain ⟨⟨-, hviq, hcable, hsrq, -, hbar, hheld⟩, -⟩ := hr
  generalize f.eff (viqEntry i [] s) (envOf (viqPush i [] s) (viqEntry i [] s) f.m) (viqPush i [] s).ctx = d at hframe hexec
  have hrest := hframe.rest
  have hq : d.viq = [viqEntry i [] s] := by
    rw [show d.viq = s.ctx.viq ++ _ from congrArg Ctx.viq hrest, hviq]
    rfl
  have hleave : viqLeave (viqEntry i [] s) { (viqPush i [] s).setCtx d with draws := s.draws + s.ctx.u.vl.toNat }
      = { s with draws := s.draws + s.ctx.u.vl.toNat }.setCtx { d with viq := [] } :=
    viqLeave_alone hq rfl rfl ((congrArg Ctx.barrier hrest).trans hbar) hheld
  have hafter : viqAfter ({ s with draws := s.draws + s.ctx.u.vl.toNat }.setCtx { d with viq := [] })
      = { s with draws := s.draws + s.ctx.u.vl.toNat }.setCtx { d with viq := [] } :=
    viqAfter_of_idle (hframe.cable hcable) ((congrArg Ctx.srq hrest).trans hsrq)
  refine ⟨d, s.draws + s.ctx.u.vl.toNat, hframe, hexec.trans ?_⟩
  rw [← hafter, ← hleave]
  rfl

end

@[simp] theorem retire_mbit (s : State) (k : MReg3) (n : Nat) : (retire s).ctx.mbit k n = s.ctx.mbit k n :=
  congrArg (fun m : Vector MReg 8 => decide (k = 0) || getBit m[k.toNat].bits n) (retire_ctx_m s)

/-- Flags that only rise leave none cleared. -/
theorem and_not_eq_zero_of_rises {a b : Word} (h : ∀ n, a.getLsbD n = true → b.getLsbD n = true) : a &&& ~~~b = 0 := by
  apply BitVec.eq_of_getLsbD_eq
  intro n hn
  have hn' := h n
  rw [BitVec.getLsbD_and, BitVec.getLsbD_not]
  cases ha : a.getLsbD n with
  | false => simp
  | true => simp [hn' ha]

end Sys2Proof.Machine

namespace Sys2Proof

open Sys2Proof.Machine

/-- Settles O29: each form runs its effect as it is committed, and the effect's frame is that of the operations it is made of. -/
theorem vectorFormsComplete : Obligations.VectorFormsComplete := by
  unfold Obligations.VectorFormsComplete
  refine ⟨fun i f s h hr => exec_vecForm_of_ready h hr, fun i f s h hr => ?_⟩
  intro p hok
  obtain ⟨d, n, ⟨hvr, hhead, hmbit, hq, hflags, -, hrest⟩, hexec⟩ := exec_vecForm_state h hr hok
  have hu : { d.u with vxflags := s.ctx.u.vxflags } = s.ctx.u := congrArg (fun c : Ctx => { c.u with vxflags := s.ctx.u.vxflags }) hrest
  have hx : d.x = s.ctx.x := (congrArg Ctx.x hrest :)
  have hslots : d.slots = s.ctx.slots := (congrArg Ctx.slots hrest :)
  have hpool : d.pool = s.ctx.pool := (congrArg Ctx.pool hrest :)
  have hpocket : d.pocket = s.ctx.pocket := (congrArg Ctx.pocket hrest :)
  have hatab : d.atab = s.ctx.atab := (congrArg Ctx.atab hrest :)
  refine ⟨_, hexec, fun r hni => (retire_vr _ r).trans (hvr r hni), fun k hk j => (retire_mbit _ k j).trans (hmbit k hk j),
    fun hne => (retire_ctx_q _).trans (hq fun ⟨e, vs1, m, vd, he⟩ => hne e vs1 m vd he), fun r => ?_, ?_, ?_,
    (retire_ctx_x _).trans hx, (retire_ctx_slots _).trans hslots, (retire_ctx_pool _).trans hpool,
    (retire_ctx_pocket _).trans hpocket, (retire_ctx_atab _).trans hatab, retire_ctx_viq _,
    retire_setCtx_sameElsewhere { s with draws := n } _, retire_setCtx_sameCore { s with draws := n } _⟩
  · rw [retire_vr]
    exact hhead r
  · rw [retire_ctx_u]
    exact hu
  · rw [retire_ctx_u]
    exact and_not_eq_zero_of_rises hflags

end Sys2Proof
end

section
/-! SUPPORT. The SYNC group (R136 to R138) and the device fences with nothing outstanding (R261, R262). -/

namespace Sys2Proof.Machine

/-! ## The SRQ (R136) -/

/-- With no escrow loop a produced value at the head goes to the scalar register. -/
theorem srqSettle_produced {c : Ctx} (hesc : c.esc = none) {xd : XReg} {n : Nat} {v : Word} {rest : List SrqEntry}
    (h : c.srq = ⟨xd, n, some v⟩ :: rest) (k : Nat) : srqSettle (k + 1) c = srqSettle k { (c.setX xd v) with srq := rest } := by
  have hactive : ({ c with srq := rest } : Ctx).escActive = none := by
    unfold Ctx.escActive
    rw [hesc]
  rw [srqSettle, h]
  dsimp only
  rw [hactive]
  dsimp only
  unfold Ctx.setX
  split <;> rfl

/-- A produced value that is alone in the SRQ is delivered once the Cable queue is empty. -/
theorem Ctx.srqAll_of_produced {c : Ctx} (hcable : c.cable = []) (hesc : c.esc = none) {xd : XReg} {n : Nat} {v : Word}
    (h : c.srq = [⟨xd, n, some v⟩]) : c.cableAll.srqAll = { (c.setX xd v) with srq := [] } := by
  rw [Ctx.cableAll_of_empty hcable, Ctx.srqAll, congrArg List.length h]
  exact srqSettle_produced hesc h 0

theorem Ctx.x_setX (c : Ctx) (r : XReg) (v : Word) : (c.setX r v).x = if r = 0 then c.x else c.x.set r.toNat v := by
  unfold Ctx.setX
  split <;> rfl

theorem Ctx.v_setX (c : Ctx) (r : XReg) (v : Word) : (c.setX r v).v = c.v := by
  unfold Ctx.setX
  split <;> rfl

/-- The head entry leaves an idle core's queue, and the value it has produced is delivered. -/
theorem viqAfter_viqLeave_of_produced {s : State} {en : VEntry} (hq : s.ctx.viq = [en]) (hw : en.wrote = []) (hf : en.faulting = false)
    (hbar : s.ctx.barrier = none) (hheld : s.heldStores.all (fun h => h.behind.isNone) = true) (hlag : s.lag = false)
    (hcable : s.ctx.cable = []) (hesc : s.ctx.esc = none) {xd : XReg} {n : Nat} {v : Word} (hsrq : s.ctx.srq = [⟨xd, n, some v⟩]) :
    ∃ c : Ctx, viqAfter (viqLeave en s) = s.setCtx c ∧ c.x = (if xd = 0 then s.ctx.x else s.ctx.x.set xd.toNat v) ∧ c.srq = []
      ∧ c.v = s.ctx.v := by
  refine ⟨{ (({ s.ctx with viq := [] } : Ctx).setX xd v) with srq := [] }, ?_, Ctx.x_setX _ xd v, rfl, Ctx.v_setX _ xd v⟩
  rw [viqLeave_alone hq hw hf hbar hheld, viqAfter, ← Ctx.srqAll_of_produced (c := { s.ctx with viq := [] }) hcable hesc hsrq]
  exact if_neg (fun h => Bool.false_ne_true (hlag.symm.trans h))

/-! ## Elements (R136, R137) -/

/-- The SRQ's only entry gets its value. -/
theorem Ctx.srqPut_alone {c : Ctx} {xd : XReg} {id : Nat} (h : c.srq = [⟨xd, id, none⟩]) (v : Word) :
    c.srqPut id v = { c with srq := [⟨xd, id, some v⟩] } := by
  rw [Ctx.srqPut, h]
  simp [updFirst]

/-- The only entry of the queue runs at once, and the instruction that put it there retires. -/
theorem viqRetire_runs {s t : State} {en : VEntry} (hlag : s.lag = false) (hq : s.ctx.viq = [en]) (hfrozen : en.frozen = false)
    (huse : entryConsumes s en = false) (hrun : viqHead en s = .done t) :
    viqRetire s = .next (retire (viqAfter (viqLeave en t))) := by
  rw [viqRetire, hlag, viqAll, hq]
  simp only [Bool.false_eq_true, if_false, List.length_singleton, viqDrain, viqStep_head hq hfrozen huse, hrun, ite_self]

/-- `vxget` of a FULL register produces its element. -/
theorem runVxget_of_full {e : Bool} {vs : VReg5} {en : VEntry} {s : State} {ty : ETy} (hok : s.ctx.vrOk vs = true)
    (hty : s.ctx.ety vs = some ty) (hcap : en.b.toNat < capBits s.ctx ty.bits) (hfull : (s.ctx.vr vs).st = .full) :
    runVxget e vs en s = .done (s.setCtx (s.ctx.srqPut en.id (vxgetValue ty (s.ctx.raw vs en.b.toNat)))) := by
  have htraps : s.ctx.srcTraps e ⟨vs, some (en.b.toNat + 1)⟩ = false := by rw [Ctx.srcTraps, hfull]
  have hwaits : s.ctx.srcWaits ⟨vs, some (en.b.toNat + 1)⟩ = false := by rw [Ctx.srcWaits, hfull]
  simp only [runVxget]
  rw [hok, hty, htraps, hwaits, Ctx.raw_of_ety hty]
  simp only [Bool.not_true, Bool.false_eq_true, if_false, if_neg (Nat.not_le.2 hcap)]

/-- What `vxget` commits (R136): its entry, and the SRQ entry of its xd. -/
def vxgetPush (i : Instr) (rd : XReg) (s : State) : State :=
  (viqPush i [] s).mapCtx fun c => { c with srq := c.srq ++ [⟨rd, s.ctx.viqNext, none⟩] }

theorem State.setCtx_mapCtx (s : State) (f : Ctx → Ctx) (c : Ctx) : (s.mapCtx f).setCtx c = s.setCtx c := rfl

theorem vxgetPush_setCtx (i : Instr) (rd : XReg) (s : State) (c : Ctx) : (vxgetPush i rd s).setCtx c = s.setCtx c := rfl

section
variable {e : Bool} {rs2 : XReg} {vs : VReg5} {rd : XReg} {s : State} {ty : ETy} (h : Ready (.vxget e rs2 vs rd) s)
include h

theorem exec_vxget_commits : exec (.vxget e rs2 vs rd) s = viqRetire (vxgetPush (.vxget e rs2 vs rd) rd s) := by
  show execVxget e rs2 vs rd s = _
  rw [execVxget, guarded_of_ready h]
  obtain ⟨⟨-, hviq, -, hsrq, -⟩, -⟩ := h
  refine if_neg ?_
  rw [viqFull, hviq, hsrq]
  decide

variable (hok : s.ctx.vrOk vs = true) (hty : s.ctx.ety vs = some ty) (hcap : (s.x rs2).toNat < capBits s.ctx ty.bits)
  (hfull : (s.ctx.vr vs).st = .full)
include hok hty hcap hfull

/-- The entry's run gives the SRQ entry its value. -/
theorem viqHead_vxget : viqHead (viqEntry (.vxget e rs2 vs rd) [] s) (vxgetPush (.vxget e rs2 vs rd) rd s)
    = .done ((vxgetPush (.vxget e rs2 vs rd) rd s).mapCtx fun c =>
      { c with srq := [⟨rd, s.ctx.viqNext, some (vxgetValue ty (s.ctx.raw vs (s.x rs2).toNat))⟩] }) := by
  obtain ⟨⟨-, -, -, hsrq, -⟩, -, -, -, hfenced⟩ := h
  have hopen : entryBarred (vxgetPush (.vxget e rs2 vs rd) rd s) (viqEntry (.vxget e rs2 vs rd) [] s) = false := hfenced
  have hone : (vxgetPush (.vxget e rs2 vs rd) rd s).ctx.srq = [⟨rd, s.ctx.viqNext, none⟩] := congrArg (· ++ [_]) hsrq
  have hrun := runVxget_of_full (e := e) (en := viqEntry (.vxget e rs2 vs rd) [] s) (s := vxgetPush (.vxget e rs2 vs rd) rd s)
    hok hty hcap hfull
  rw [viqHead, hopen]
  exact hrun.trans (congrArg (fun c => VOut.done (State.setCtx _ c)) (Ctx.srqPut_alone hone _))

/-- R136: a ready `vxget` of a FULL register delivers its element to xd. -/
theorem exec_vxget_of_full : ∃ c : Ctx, exec (.vxget e rs2 vs rd) s = .next (retire (s.setCtx c))
    ∧ c.x = (s.setX rd (vxgetValue ty (s.ctx.raw vs (s.x rs2).toNat))).ctx.x ∧ c.srq = [] ∧ c.v = s.ctx.v := by
  have hexec := exec_vxget_commits h
  have hrun := viqHead_vxget h hok hty hcap hfull
  obtain ⟨⟨hlag, hviq, hcable, -, hesc, hbar, hheld⟩, -⟩ := h
  generalize vxgetValue ty (s.ctx.raw vs (s.x rs2).toNat) = v at hrun ⊢
  have hq : s.ctx.viq ++ [viqEntry (.vxget e rs2 vs rd) [] s] = [viqEntry (.vxget e rs2 vs rd) [] s] := congrArg (· ++ _) hviq
  have hruns := viqRetire_runs (s := vxgetPush (.vxget e rs2 vs rd) rd s) hlag hq rfl (Bool.and_false _) hrun
  obtain ⟨c, hafter, hx, hsrq, hv⟩ := viqAfter_viqLeave_of_produced (s := (vxgetPush (.vxget e rs2 vs rd) rd s).mapCtx fun c =>
    { c with srq := [⟨rd, s.ctx.viqNext, some v⟩] }) hq rfl rfl hbar hheld hlag hcable hesc rfl
  rw [hafter, State.setCtx_mapCtx, vxgetPush_setCtx] at hruns
  exact ⟨c, hexec.trans hruns, hx.trans (Ctx.x_setX s.ctx rd v).symm, hsrq, hv⟩

end

/-- A completed write of a register, with no Cable work queued. -/
theorem Ctx.fillReg_of_no_cable {c : Ctx} (h : c.cable = []) (r : VReg5) : c.fillReg r = c.mapVr r VReg.fill := by
  rw [Ctx.fillReg, Ctx.stale, Ctx.staleWhere]
  exact if_pos (List.isEmpty_iff.2 h)

/-- A register that no writer waits for is FULL once its write completes. -/
theorem VReg.fill_st {c : Ctx} {r : VReg5} (h : c.dstWaits r = false) : (c.vr r).fill.st = .full := by
  unfold Ctx.dstWaits at h
  unfold VReg.fill
  split at h
  case h_1 | h_2 => cases h
  case h_3 heq => rw [heq]; exact heq
  case h_4 heq => rw [heq]

/-- `vxput` of an element that exists, in a register that no writer waits for, writes it. -/
theorem runVxput_of_free {vd : VReg5} {en : VEntry} {s : State} {ty : ETy} (hok : s.ctx.vrOk vd = true)
    (hty : s.ctx.ety vd = some ty) (hcap : en.b.toNat < capBits s.ctx ty.bits) (hfree : s.ctx.dstWaits vd = false) :
    runVxput vd en s = .done (s.setCtx ((s.ctx.putElem vd ty.bits en.b.toNat (en.a.toNat % 2 ^ ty.bits)).fillReg vd)) := by
  simp only [runVxput]
  rw [hok, hty, hfree]
  simp only [Bool.not_true, Bool.false_eq_true, if_false, if_neg (Nat.not_le.2 hcap)]

/-- R137: a ready `vxput` writes its element. -/
theorem exec_vxput_of_free {rs2 rs1 : XReg} {vd : VReg5} {s : State} {ty : ETy} (h : Ready (.vxput rs2 rs1 vd) s)
    (hok : s.ctx.vrOk vd = true) (hty : s.ctx.ety vd = some ty) (hcap : (s.x rs2).toNat < capBits s.ctx ty.bits)
    (hfree : s.ctx.dstWaits vd = false) :
    exec (.vxput rs2 rs1 vd) s = .next (retire (s.setCtx { (((viqPush (.vxput rs2 rs1 vd) [] s).ctx.putElem vd ty.bits (s.x rs2).toNat
      ((s.x rs1).toNat % 2 ^ ty.bits)).mapVr vd VReg.fill) with viq := [] })) := by
  have hrun := runVxput_of_free (en := viqEntry (.vxput rs2 rs1 vd) [] s) (s := viqPush (.vxput rs2 rs1 vd) [] s) hok hty hcap hfree
  rw [Ctx.fillReg_of_no_cable (by obtain ⟨⟨-, -, hcable, -⟩, -⟩ := h; exact hcable)] at hrun
  exact exec_of_ready_cfg rfl h rfl hrun rfl

/-- An element write that completes sets that element alone. -/
theorem raw_putElem_mapFill {c : Ctx} {r : VReg5} {ty : ETy} (hty : c.ety r = some ty) (hwf : wfBytes (c.vr r).data = true)
    (i k b : Nat) : ((c.putElem r ty.bits i b).mapVr r VReg.fill).raw r k = if k = i then b % 2 ^ ty.bits else c.raw r k := by
  have hvr : ((c.putElem r ty.bits i b).mapVr r VReg.fill).vr r
      = VReg.fill { c.vr r with data := putRaw (c.vr r).data ty.bits i b } := by
    rw [Ctx.mapVr, Ctx.vr_setVr_same, Ctx.vr_putElem_same]
  have hty' : ((c.putElem r ty.bits i b).mapVr r VReg.fill).ety r = some ty := by
    rw [Ctx.ety, hvr, VReg.fill_tag]
    exact hty
  rw [Ctx.raw_of_ety hty', Ctx.raw_of_ety hty, hvr, VReg.fill_data, rawAt_putRaw hwf (etyOf_bits hty)]

@[simp] theorem retire_raw (s : State) (r : VReg5) (k : Nat) : (retire s).ctx.raw r k = s.ctx.raw r k := by
  rw [Ctx.raw, Ctx.raw, Ctx.ety, Ctx.ety, retire_vr]

/-! ## Masks (R138) -/

/-- A direct read of a mask that is not pending delivers it at once. -/
theorem maskRead_of_free {i : Instr} {e : Bool} {k : MReg3} {needVl : Bool} {s : State} (hviq : s.ctx.viq = [])
    (hfree : s.ctx.maskPends k = false) (hvl : (needVl && s.ctx.vlProv.isSome) = false) (rd : XReg) (f : Ctx → Word) :
    maskRead i e k needVl rd f s = .next (retire (s.setX rd (f s.ctx))) := by
  have hbusy : maskBusy s.ctx k = false := by rw [maskBusy, hfree, hviq, List.any_nil, Bool.and_false]; rfl
  rw [maskRead, hbusy, hvl]
  rfl

section
variable {e : Bool} {k : MReg3} {rd : XReg} {s : State} (hfree : s.ctx.maskPends k = false)
include hfree

theorem exec_vmpop_of_ready (hvl : s.ctx.vlProv = none) (h : Ready (.vmpop e k rd) s) : exec (.vmpop e k rd) s =
    .next (retire (s.setX rd (BitVec.ofNat 64 (s.ctx.enabled k 0 s.ctx.u.vl.toNat).length))) := by
  show execVmpop e k rd s = _
  rw [execVmpop, guarded_of_ready h]
  exact maskRead_of_free h.1.2.1 hfree (by rw [hvl]; rfl) rd _

theorem exec_vmfirst_of_ready (hvl : s.ctx.vlProv = none) (h : Ready (.vmfirst e k rd) s) : exec (.vmfirst e k rd) s =
    .next (retire (s.setX rd (match (s.ctx.enabled k 0 s.ctx.u.vl.toNat).head? with
      | some i => BitVec.ofNat 64 i
      | none => -1))) := by
  show execVmfirst e k rd s = _
  rw [execVmfirst, guarded_of_ready h]
  exact maskRead_of_free h.1.2.1 hfree (by rw [hvl]; rfl) rd _

theorem exec_vmrd_of_ready {rs2 : XReg} (h : Ready (.vmrd e rs2 k rd) s) (hj : (s.x rs2).toNat < 1024) :
    exec (.vmrd e rs2 k rd) s = .next (retire (s.setX rd (BitVec.ofNat 64 (maskWord s.ctx k (s.x rs2).toNat)))) := by
  show execVmrd e rs2 k rd s = _
  rw [execVmrd, guarded_of_ready h]
  exact (if_neg (Nat.not_le.2 hj)).trans (maskRead_of_free h.1.2.1 hfree (Bool.false_and _) rd _)

end

theorem exec_vmrd_of_past {e : Bool} {k : MReg3} {rd rs2 : XReg} {s : State} (h : Ready (.vmrd e rs2 k rd) s)
    (hj : 1024 ≤ (s.x rs2).toNat) :
    exec (.vmrd e rs2 k rd) s = .next (enterTrap s false cVlover (instrWord (.vmrd e rs2 k rd))) := by
  show execVmrd e rs2 k rd s = _
  rw [execVmrd, guarded_of_ready h]
  exact (if_pos hj).trans (congrArg _ (raiseTrap_of_ready h cVlover _))

/-! ## Fences (R261, R262) -/

/-- Stores that changed nothing cancel no level. -/
theorem cancelHook_self (s : State) (k : Nat) : cancelHook s s k = s := by
  refine List.foldl_fixed' (fun v => ?_) _
  split
  · rw [Bool.not_and_self]
    rfl
  · rfl

/-- Stores that changed nothing change no CAP word. -/
theorem capHook_self (s : State) (k : Nat) : capHook s s k = s := by
  unfold capHook
  split
  · rfl
  · refine List.foldl_fixed' (fun n => ?_) _
    cases capWord s k n with
    | none => rfl
    | some a => exact if_pos (.inr rfl)

theorem levelHook_self (s : State) : levelHook s s = s :=
  List.foldl_fixed' (fun k => by rw [cancelHook_self, capHook_self]) _

/-- With no store held no mark is left. -/
theorem qfenceMarks_of_none_held {s : State} (h : s.heldStores = []) (scope : Nat) : qfenceMarks scope s = s := by
  unfold qfenceMarks
  simp only [flushWhere_nil h, ite_self, h, List.any_nil, Bool.false_eq_true, if_false]

section
variable {sc : BitVec 5} {s : State}

theorem scopeBad_of_lt (h : sc.toNat < 4) : scopeBad sc = false := decide_eq_false (Nat.not_le.2 h)

theorem scope_not_waiting (hfly : sc = 3 → inFlight s = false) : (decide (sc = 3) && inFlight s) = false := by
  by_cases h : sc = 3
  · rw [hfly h, Bool.and_false]
  · rw [decide_eq_false h, Bool.false_and]

/-- R261: with no store held and nothing in flight a `qfence` only drops the descriptor cache. -/
theorem exec_qfence_of_idle (h : Ready (.qfence sc) s) (hsc : sc.toNat < 4) (hheld : s.heldStores = [])
    (hfly : sc = 3 → inFlight s = false) : exec (.qfence sc) s = .next (retire (s.mapCtx fun c => { c with dcache := [] })) := by
  have hguarded := guarded_of_ready h
  obtain ⟨⟨-, hviq, -⟩, -⟩ := h
  have hsent : sentHead s = none := by rw [sentHead, hviq]
  have hdone : qfenceDone sc.toNat s = retire (s.mapCtx fun c => { c with dcache := [] }) := by
    rw [qfenceDone, qfenceMarks_of_none_held hheld, addBarrier, hsent]
  show execQfence sc s = _
  rw [execQfence, hguarded, scopeBad_of_lt hsc, scope_not_waiting hfly, hviq, hdone]
  rfl

/-- R262: with no engine operation outstanding and no store held an `efence` only drops the descriptor cache. -/
theorem exec_efence_of_idle (h : Ready (.efence sc) s) (hsc : sc.toNat < 4) (hheld : s.heldStores = []) (hbusy : engineBusy s = false)
    (hfly : sc = 3 → inFlight s = false) : exec (.efence sc) s = .next (retire (s.mapCtx fun c => { c with dcache := [] })) := by
  have hstores : efenceStores sc.toNat s = s := settleHeld_nil hheld _
  have hleft : efenceLeft sc.toNat s = false := by rw [efenceLeft, hheld, List.any_nil]
  show execEfence sc s = _
  rw [execEfence, guarded_of_ready h, scopeBad_of_lt hsc]
  dsimp only
  rw [hstores, levelHook_self, hbusy, hleft, scope_not_waiting hfly]
  rfl

theorem exec_qfence_of_badScope (hsc : 4 ≤ sc.toNat) (h : Ready (.qfence sc) s) :
    exec (.qfence sc) s = .next (enterTrap s false cIllegal (instrWord (.qfence sc))) := by
  show execQfence sc s = _
  rw [execQfence, guarded_of_ready h, scopeBad, if_pos (decide_eq_true hsc), illegal, raiseTrap_of_ready h]

theorem exec_efence_of_badScope (hsc : 4 ≤ sc.toNat) (h : Ready (.efence sc) s) :
    exec (.efence sc) s = .next (enterTrap s false cIllegal (instrWord (.efence sc))) := by
  show execEfence sc s = _
  rw [execEfence, guarded_of_ready h, scopeBad, if_pos (decide_eq_true hsc), illegal, raiseTrap_of_ready h]

end

end Sys2Proof.Machine

namespace Sys2Proof

open Sys2Proof.Machine

/-- Settles O33: an element move runs as it is committed, a mask is read directly, and a fence finds nothing to wait for. -/
theorem syncFormsComplete : Obligations.SyncFormsComplete := by
  unfold Obligations.SyncFormsComplete
  refine ⟨fun e rs2 vs rd s ty h hok hty hcap hfull => ?_, fun rs2 rs1 vd s ty h hok hty hcap hfree hwf => ?_,
    fun e k rd s hfree hvl => ⟨exec_vmpop_of_ready hfree hvl, exec_vmfirst_of_ready hfree hvl⟩,
    fun e rs2 k rd s h hfree => ⟨exec_vmrd_of_ready hfree h, exec_vmrd_of_past h⟩,
    fun sc s => exec_qfence_of_idle, fun sc s => exec_efence_of_idle,
    fun sc s hsc => ⟨exec_qfence_of_badScope hsc, exec_efence_of_badScope hsc⟩,
    fun s xd n v rest hesc hsrq => congrArg (fun c => Host.Outcome.next (s.setCtx c)) (srqSettle_produced hesc hsrq 0)⟩
  · obtain ⟨c, hexec, hx, hsrq, hv⟩ := exec_vxget_of_full h hok hty hcap hfull
    exact ⟨_, hexec, (retire_ctx_x _).trans hx, (retire_ctx_srq _).trans hsrq, (retire_ctx_v _).trans hv,
      retire_setCtx_sameElsewhere s c, retire_setCtx_sameCore s c⟩
  · have hexec := exec_vxput_of_free h hok hty hcap hfree
    have hraw (k : Nat) := raw_putElem_mapFill hty hwf (s.x rs2).toNat k ((s.x rs1).toNat % 2 ^ ty.bits)
    refine ⟨_, hexec, ?_, fun k hk => ?_, ?_, fun r hr => ?_, retire_ctx_x _, retire_setCtx_sameElsewhere s _,
      retire_setCtx_sameCore s _⟩
    · rw [retire_raw]
      exact (hraw _).trans ((if_pos rfl).trans (Nat.mod_mod _ _))
    · rw [retire_raw]
      exact (hraw k).trans (if_neg hk)
    · rw [retire_vr]
      exact (congrArg VReg.st (Ctx.vr_setVr_same _ vd _)).trans
        (VReg.fill_st (c := s.ctx.putElem vd ty.bits _ _) (by rw [Ctx.dstWaits, Ctx.vr_putElem_same]; exact hfree))
    · rw [retire_vr]
      exact (Ctx.vr_setVr_ne hr _ _).trans (Ctx.vr_setVr_ne hr _ _)

end Sys2Proof
end

section
/-! SUPPORT. What compares and mask operations write (R93, R131, R133), and what reductions answer (R134, R135). -/

namespace Sys2Proof.Machine

/-! ## A mask after a write (R93, R109) -/

theorem Ctx.addFlags_zero (c : Ctx) : c.addFlags 0 = c := by
  have hor : c.u.vxflags ||| (0 : Flags).setWidth 64 = c.u.vxflags := BitVec.or_zero
  rw [Ctx.addFlags, hor]

/-- A bit string after a write of one bit. -/
theorem getBit_setBit {m : Bytes} (h : wfBytes m = true) (i j : Nat) (b : Bool) :
    getBit (setBit m i b) j = if j = i then b else getBit m j := by
  unfold getBit setBit
  dsimp only
  rw [getByte_setByte h]
  have hi : i % 8 < 8 := Nat.mod_lt _ (by decide)
  have hj : j % 8 < 8 := Nat.mod_lt _ (by decide)
  by_cases hbyte : j / 8 = i / 8
  · have hone : (1#8 <<< (i % 8)).getLsbD (j % 8) = decide (j = i) := by
      rw [BitVec.getLsbD_shiftLeft, BitVec.getLsbD_one]
      rw [Bool.eq_iff_iff]
      simp only [hj, decide_true, Bool.true_and, Bool.and_eq_true, Bool.not_eq_true', decide_eq_false_iff_not, decide_eq_true_eq]
      omega
    rw [if_pos hbyte, hbyte]
    cases b
    · rw [if_neg Bool.false_ne_true, BitVec.getLsbD_and, BitVec.getLsbD_not, hone]
      by_cases hji : j = i <;> simp [hji, hi, hj]
    · rw [if_pos rfl, BitVec.getLsbD_or, hone]
      by_cases hji : j = i <;> simp [hji]
  · rw [if_neg hbyte, if_neg fun e => hbyte (by rw [e])]

section
variable {md : MReg3} (hmd : md ≠ 0) (c : Ctx)
include hmd

theorem Ctx.bits_setMbit (i : Nat) (b : Bool) : (c.setMbit md i b).m[md.toNat].bits = setBit c.m[md.toNat].bits i b := by
  rw [Ctx.setMbit, if_neg hmd]
  exact congrArg MReg.bits (Vector.getElem_set_self _)

theorem Ctx.mbit_eq_getBit (j : Nat) : c.mbit md j = getBit c.m[md.toNat].bits j := by
  rw [Ctx.mbit, decide_eq_false hmd, Bool.false_or]

variable {c} (hwf : wfBytes c.m[md.toNat].bits = true)
include hwf

theorem Ctx.mbit_setMbit (i j : Nat) (b : Bool) : (c.setMbit md i b).mbit md j = if j = i then b else c.mbit md j := by
  rw [Ctx.mbit_eq_getBit hmd, Ctx.mbit_eq_getBit hmd, Ctx.bits_setMbit hmd, getBit_setBit hwf]

/-- Writing the bits of a list of elements, with flags. -/
theorem mbit_foldl_setMbit (f : Nat → Bool) (g : Nat → Flags) (is : List Nat) (j : Nat) :
    (is.foldl (fun d i => (d.setMbit md i (f i)).addFlags (g i)) c).mbit md j = if j ∈ is then f j else c.mbit md j := by
  induction is generalizing c with
  | nil => rfl
  | cons i is ih =>
    have hbits : wfBytes ((c.setMbit md i (f i)).addFlags (g i)).m[md.toNat].bits = true := by
      show wfBytes (c.setMbit md i (f i)).m[md.toNat].bits = true
      rw [Ctx.bits_setMbit hmd]
      exact wfBytes_setBit hwf _ _
    have hone : ((c.setMbit md i (f i)).addFlags (g i)).mbit md j = if j = i then f i else c.mbit md j :=
      Ctx.mbit_setMbit hmd hwf i j (f i)
    rw [List.foldl_cons, ih hbits, hone]
    by_cases hmem : j ∈ is
    · rw [if_pos hmem, if_pos (List.mem_cons_of_mem i hmem)]
    · rw [if_neg hmem]
      by_cases hji : j = i
      · rw [if_pos hji, if_pos (hji ▸ List.mem_cons_self), hji]
      · rw [if_neg hji, if_neg fun h => (List.mem_cons.1 h).elim hji hmem]

end

theorem Ctx.u_setMbit (c : Ctx) (md : MReg3) (i : Nat) (b : Bool) : (c.setMbit md i b).u = c.u := by
  unfold Ctx.setMbit
  split <;> rfl

theorem vxflags_foldl_setMbit (md : MReg3) (f : Nat → Bool) (g : Nat → Flags) (is : List Nat) (c : Ctx) {k : Nat} (hk : k < 6) :
    (is.foldl (fun d i => (d.setMbit md i (f i)).addFlags (g i)) c).u.vxflags.getLsbD k
      = (c.u.vxflags.getLsbD k || is.any fun i => (g i).getLsbD k) := by
  induction is generalizing c with
  | nil => exact (Bool.or_false _).symm
  | cons i is ih =>
    rw [List.foldl_cons, ih]
    simp [Ctx.addFlags, Ctx.u_setMbit, hk, show k < 64 by omega, Bool.or_assoc]

/-- m0 reads all ones. -/
theorem Ctx.mbit_zero (c : Ctx) (i : Nat) : c.mbit 0 i = true := rfl

/-! ## Compares (R131) -/

/-- A compare writes its condition's bit of each enabled element below VL. -/
theorem cmpBits {md : MReg3} {v : VEnv} {c : Ctx} (hes : v.es = 0) (hwf : wfBytes c.m[md.toNat].bits = true) (f : Nat → Bool)
    (g : Nat → Flags) (i : Nat) :
    ((c.enabled v.m v.es v.vl).foldl (fun d i => (d.setMbit md i (f i)).addFlags (g i)) c).mbit md i
      = if md ≠ 0 ∧ i < v.vl ∧ c.mbit v.m i = true then f i else c.mbit md i := by
  by_cases hmd : md = 0
  · subst hmd
    rw [if_neg fun h => h.1 rfl]
    rfl
  · rw [mbit_foldl_setMbit hmd hwf, hes]
    exact if_congr (mem_enabled.trans ⟨fun ⟨_, h⟩ => ⟨hmd, h⟩, fun ⟨_, h⟩ => ⟨Nat.zero_le i, h⟩⟩) rfl rfl

theorem cmpEffect_int {cc : BitVec 2} {vs1 : VReg5} {q : Src2} {md : MReg3} {v : VEnv} {c : Ctx} {t : IntTy}
    (h : c.ety vs1 = some (.int t)) : cmpEffect cc vs1 q md v c = (c.enabled v.m v.es v.vl).foldl
      (fun d i => (d.setMbit md i (intCond cc (c.ival vs1 i) (q.int c v t i))).addFlags 0) c := by
  simp only [cmpEffect, h]

theorem cmpEffect_flt {cc : BitVec 2} {vs1 : VReg5} {q : Src2} {md : MReg3} {v : VEnv} {c : Ctx} {f : FFmt}
    (h : c.ety vs1 = some (.flt f)) : cmpEffect cc vs1 q md v c = (c.enabled v.m v.es v.vl).foldl
      (fun d i => (d.setMbit md i (fltCond cc (c.fval vs1 i) (q.flt c v f i)).1).addFlags (fltCond cc (c.fval vs1 i) (q.flt c v f i)).2)
      c := by
  simp only [cmpEffect, h]

section
variable {a b : FVal}

theorem FVal.not_isNan_of_finite (h : a.finite = true) : a.isNan = false := by
  obtain ⟨s, m, e, rfl⟩ := eq_fin_of_finite h
  rfl

theorem feq_of_nan (h : a.isNan = true ∨ b.isNan = true) : feq a b = false := by
  rcases h with h | h <;> simp [feq, h]

theorem flt_of_nan (h : a.isNan = true ∨ b.isNan = true) : flt a b = false := by
  rcases h with h | h <;> simp [flt, h]

theorem feq_of_finite (ha : a.finite = true) (hb : b.finite = true) : feq a b = decide (a.rat = b.rat) := by
  rw [feq, FVal.not_isNan_of_finite ha, FVal.not_isNan_of_finite hb, fcmp_fin ha hb, Bool.eq_iff_iff]
  simp

theorem flt_of_finite (ha : a.finite = true) (hb : b.finite = true) : flt a b = decide (a.rat < b.rat) := by
  rw [flt, FVal.not_isNan_of_finite ha, FVal.not_isNan_of_finite hb, fcmp_fin ha hb, Bool.eq_iff_iff]
  simp [compare_lt_iff_lt]

/-- An eq, lt or le of a NaN is false; lt and le of one raise NV. -/
theorem fltCond_of_nan (h : a.isNan = true ∨ b.isNan = true) : fltCond 0 a b = (false, 0) ∧ fltCond 1 a b = (true, 0)
    ∧ fltCond 2 a b = (false, flNV) ∧ fltCond 3 a b = (false, flNV) := by
  have hnan : (a.isNan || b.isNan) = true := by rw [Bool.or_eq_true]; exact h
  refine ⟨?_, ?_, ?_, ?_⟩
  · exact congrArg (·, 0) (feq_of_nan h)
  · exact congrArg (fun x => (!x, 0)) (feq_of_nan h)
  · show (flt a b, flagIf (a.isNan || b.isNan) flNV) = _
    rw [flt_of_nan h, hnan]
    rfl
  · show (flt a b || feq a b, flagIf (a.isNan || b.isNan) flNV) = _
    rw [flt_of_nan h, feq_of_nan h, hnan]
    rfl

/-- A compare of two numbers compares the numbers. -/
theorem fltCond_of_finite (ha : a.finite = true) (hb : b.finite = true) : fltCond 0 a b = (decide (a.rat = b.rat), 0)
    ∧ fltCond 1 a b = (decide (a.rat ≠ b.rat), 0) ∧ fltCond 2 a b = (decide (a.rat < b.rat), 0)
    ∧ fltCond 3 a b = (decide (a.rat ≤ b.rat), 0) := by
  have hnan : (a.isNan || b.isNan) = false := by rw [FVal.not_isNan_of_finite ha, FVal.not_isNan_of_finite hb]; rfl
  refine ⟨?_, ?_, ?_, ?_⟩
  · exact congrArg (·, 0) (feq_of_finite ha hb)
  · exact congrArg (·, 0) ((congrArg Bool.not (feq_of_finite ha hb)).trans (decide_not).symm)
  · show (flt a b, flagIf (a.isNan || b.isNan) flNV) = _
    rw [flt_of_finite ha hb, hnan]
    rfl
  · show (flt a b || feq a b, flagIf (a.isNan || b.isNan) flNV) = _
    rw [flt_of_finite ha hb, feq_of_finite ha hb, hnan, ← Bool.decide_or]
    exact congrArg (·, 0) (decide_eq_decide.2 le_iff_lt_or_eq.symm)

end

/-! ## Mask operations (R133) -/

/-- The lowest set index of a mask below VL, VL if there is none. -/
def firstSet (c : Ctx) (ma : MReg3) (vl : Nat) : Nat := ((upFrom 0 vl).find? fun i => c.mbit ma i).getD vl

theorem firstSet_eq {c : Ctx} {ma : MReg3} {vl f : Nat} (hle : f ≤ vl) (hset : f < vl → c.mbit ma f = true)
    (hbelow : ∀ j, j < f → c.mbit ma j = false) : firstSet c ma vl = f := by
  rcases Nat.lt_or_eq_of_le hle with hlt | rfl
  · rw [firstSet, find?_upFrom_eq_some (Nat.zero_le f) (by omega) (hset hlt) fun j _ hj => hbelow j hj]
    rfl
  · have hnone : (upFrom 0 f).find? (fun i => c.mbit ma i) = none := by
      rw [List.find?_eq_none]
      intro j hj
      rw [hbelow j (by have := mem_upFrom.1 hj; omega)]
      exact Bool.false_ne_true
    rw [firstSet, hnone]
    rfl

/-- A mask operation writes the bits below VL. -/
theorem mbit_maskEffect {md : MReg3} {v : VEnv} {c : Ctx} (hes : v.es = 0) (hmd : md ≠ 0) (hwf : wfBytes c.m[md.toNat].bits = true)
    (o : MaskOp) (ma mb : MReg3) (i : Nat) : (maskEffect o ma mb md v c).mbit md i
      = if i < v.vl then maskBitOf o (c.mbit ma i) (c.mbit mb i) i (firstSet c ma v.vl) else c.mbit md i := by
  have hfold : maskEffect o ma mb md v c = (upFrom v.es (v.vl - v.es)).foldl (fun d i =>
      (d.setMbit md i (maskBitOf o (c.mbit ma i) (c.mbit mb i) i (firstSet c ma v.vl))).addFlags 0) c := by
    simp only [Ctx.addFlags_zero]
    rfl
  rw [hfold, mbit_foldl_setMbit hmd hwf]
  refine if_congr ?_ rfl rfl
  rw [mem_upFrom, hes]
  omega

/-- m0 discards writes. -/
theorem maskEffect_zero (o : MaskOp) (ma mb : MReg3) (v : VEnv) (c : Ctx) : maskEffect o ma mb 0 v c = c :=
  List.foldl_fixed' (fun _ => rfl) _

/-! ## Reductions (R134, R135) -/

/-- A choice between two that no other element of the list beats. -/
theorem foldl_choice {α : Type} {le : α → α → Prop} (hrefl : ∀ a, le a a) (htrans : ∀ a b d, le a b → le b d → le a d) {g : α → α → α}
    (hmem : ∀ a b, g a b = a ∨ g a b = b) (hleft : ∀ a b, le a (g a b)) (hright : ∀ a b, le b (g a b)) (x : α) (xs : List α) :
    xs.foldl g x ∈ x :: xs ∧ ∀ y ∈ x :: xs, le y (xs.foldl g x) := by
  induction xs generalizing x with
  | nil => exact ⟨List.mem_singleton_self x, fun y hy => by rw [List.mem_singleton.1 hy]; exact hrefl x⟩
  | cons z xs ih =>
    obtain ⟨hin, hle⟩ := ih (g x z)
    have hall := hle (g x z) List.mem_cons_self
    refine ⟨?_, fun y hy => ?_⟩
    · rcases List.mem_cons.1 hin with he | he
      · rcases hmem x z with h | h
        · exact List.mem_cons.2 (.inl (he.trans h))
        · exact List.mem_cons.2 (.inr (List.mem_cons.2 (.inl (he.trans h))))
      · exact List.mem_cons_of_mem _ (List.mem_cons_of_mem _ he)
    · rcases List.mem_cons.1 hy with rfl | hy
      · exact htrans _ _ _ (hleft y z) hall
      · rcases List.mem_cons.1 hy with rfl | hy
        · exact htrans _ _ _ (hright x y) hall
        · exact hle y (List.mem_cons_of_mem _ hy)

section
variable (t : IntTy) (xs : List Int)

theorem intRed_max (h : xs ≠ []) : ∃ x ∈ xs, (∀ y ∈ xs, y ≤ x) ∧ intRed .max t xs = (t.bits x, 0) := by
  obtain ⟨x, r, rfl⟩ := List.exists_cons_of_ne_nil h
  obtain ⟨hmem, hle⟩ := foldl_choice (le := (· ≤ ·)) (g := fun a b : Int => if a ≤ b then b else a) le_refl (fun _ _ _ => le_trans)
    (fun a b => by split <;> simp) (fun a b => by split <;> omega) (fun a b => by split <;> omega) x r
  exact ⟨_, hmem, hle, rfl⟩

theorem intRed_min (h : xs ≠ []) : ∃ x ∈ xs, (∀ y ∈ xs, x ≤ y) ∧ intRed .min t xs = (t.bits x, 0) := by
  obtain ⟨x, r, rfl⟩ := List.exists_cons_of_ne_nil h
  obtain ⟨hmem, hle⟩ := foldl_choice (le := (· ≥ ·)) (g := fun a b : Int => if a ≤ b then a else b) le_refl
    (fun _ _ _ h h' => le_trans h' h) (fun a b => by split <;> simp) (fun a b => by split <;> omega) (fun a b => by split <;> omega) x r
  exact ⟨_, hmem, hle, rfl⟩

theorem testBit_foldl_and (f : Int → Nat) (a k : Nat) :
    (xs.foldl (fun a x => a &&& f x) a).testBit k = (a.testBit k && xs.all fun x => (f x).testBit k) := by
  induction xs generalizing a with
  | nil => exact (Bool.and_true _).symm
  | cons x xs ih => rw [List.foldl_cons, ih, Nat.testBit_and, List.all_cons, Bool.and_assoc]

theorem testBit_foldl_or (f : Int → Nat) (a k : Nat) :
    (xs.foldl (fun a x => a ||| f x) a).testBit k = (a.testBit k || xs.any fun x => (f x).testBit k) := by
  induction xs generalizing a with
  | nil => exact (Bool.or_false _).symm
  | cons x xs ih => rw [List.foldl_cons, ih, Nat.testBit_or, List.any_cons, Bool.or_assoc]

/-- A bit of an exclusive or is the parity of the set ones. -/
theorem testBit_foldl_xor (f : Int → Nat) (a k : Nat) : (xs.foldl (fun a x => a ^^^ f x) a).testBit k
    = (a.testBit k ^^ decide ((xs.filter fun x => (f x).testBit k).length % 2 = 1)) := by
  induction xs generalizing a with
  | nil => exact (Bool.xor_false _).symm
  | cons x xs ih =>
    rw [List.foldl_cons, ih, Nat.testBit_xor, List.filter_cons, Bool.xor_assoc]
    cases hx : (f x).testBit k with
    | false => rw [if_neg Bool.false_ne_true, Bool.false_xor]
    | true =>
      rw [if_pos rfl, List.length_cons, Bool.true_xor, ← decide_not]
      exact congrArg _ (decide_eq_decide.2 (by omega))

variable {t} {k : Nat}

theorem testBit_intRed_and (hk : k < t.w) : (intRed .and t xs).1.testBit k = xs.all fun x => (t.bits x).testBit k := by
  refine (testBit_foldl_and xs t.bits _ k).trans ?_
  rw [Nat.testBit_two_pow_sub_one, decide_eq_true hk, Bool.true_and]

theorem testBit_intRed_or : (intRed .or t xs).1.testBit k = xs.any fun x => (t.bits x).testBit k := by
  refine (testBit_foldl_or xs t.bits _ k).trans ?_
  rw [Nat.zero_testBit, Bool.false_or]

theorem testBit_intRed_xor :
    (intRed .xor t xs).1.testBit k = decide ((xs.filter fun x => (t.bits x).testBit k).length % 2 = 1) := by
  refine (testBit_foldl_xor xs t.bits _ k).trans ?_
  rw [Nat.zero_testBit, Bool.false_xor]

end

theorem sumUp_concat (f : FFmt) (xs : List FVal) (x : FVal) : sumUp f (xs ++ [x]) = fplus f (sumUp f xs) (some x, 0) :=
  List.foldl_append

theorem rne_zero (f : FFmt) : f.rne (.fin false 0 0) = (0, 0) := FFmt.round_zero ..

/-- The lane tree of thirty-two empty lanes is empty. -/
theorem laneTree_of_empty (f : FFmt) : (laneTree f ((upFrom 0 32).map fun _ => sumUp f []) 5).headD (none, 0) = (none, 0) := by
  simp [laneTree, pairUp, upFrom, sumUp, fplus]

/-- A float sum of nothing is +0. -/
theorem fltRed_sum_nil (f : FFmt) : fltRed .sum f [] = (0, 0) := by
  show ((f.rne (.fin false 0 0)).1, 0 ||| (f.rne (.fin false 0 0)).2) = _
  rw [rne_zero]
  rfl

theorem fltRed_sumt_nil (f : FFmt) : fltRed .sumt f [] = (0, 0) := by
  have hlanes := laneTree_of_empty f
  simp only [fltRed, List.map_nil, List.filter_nil]
  rw [hlanes]
  exact fltRed_sum_nil f

section
variable {vs1 vd : VReg5} {v : VEnv} {c : Ctx} (hwf : wfBytes (c.vr vd).data = true) (hvl : v.vl ≠ 0)
include hwf hvl

/-- A reduction writes element 0 alone (R134). -/
theorem writesElems_redEffect_int {t : IntTy} (h : c.ety vd = some (.int t)) (o : RedOp) :
    WritesElems c (redEffect o vs1 vd v c) vd t.w [0] fun _ => intRed o t ((c.enabled v.m 0 v.vl).map fun i => c.ival vs1 i) := by
  simp only [redEffect, if_neg hvl, h]
  exact writesElems_emitAll_fillReg (ty := .int t) false (fun _ => intRed o t ((c.enabled v.m 0 v.vl).map fun i => c.ival vs1 i)) [0] h hwf

theorem writesElems_redEffect_flt {f : FFmt} (h : c.ety vd = some (.flt f)) (o : RedOp) :
    WritesElems c (redEffect o vs1 vd v c) vd f.width [0] fun _ =>
      fltRed o f ((c.enabled v.m 0 v.vl).map fun i => (i, c.fval vs1 i)) := by
  simp only [redEffect, if_neg hvl, h]
  exact writesElems_emitAll_fillReg (ty := .flt f) false (fun _ => fltRed o f ((c.enabled v.m 0 v.vl).map fun i => (i, c.fval vs1 i))) [0]
    h hwf

end

end Sys2Proof.Machine
end

section
/-! SUPPORT. What the moves of elements (R143 to R153) and a block of `vquant` (R61, R157) write. -/

namespace Sys2Proof.Machine

/-! ## Dense runs (R149 to R151) -/

theorem map_fst_numbered (n : Nat) (is : List Nat) : (numbered n is).map Prod.fst = upFrom n is.length := by
  induction is generalizing n with
  | nil => rfl
  | cons i is ih => rw [numbered, List.map_cons, ih, List.length_cons, upFrom]

theorem map_snd_numbered (n : Nat) (is : List Nat) : (numbered n is).map Prod.snd = is := by
  induction is generalizing n with
  | nil => rfl
  | cons i is ih => rw [numbered, List.map_cons, ih]

/-- A pair of a dense run holds a position and the index that stands there. -/
theorem getD_of_mem_numbered {n : Nat} {is : List Nat} {p : Nat × Nat} (h : p ∈ numbered n is) : n ≤ p.1 ∧ is.getD (p.1 - n) 0 = p.2 := by
  induction is generalizing n with
  | nil => cases h
  | cons i is ih =>
    rw [numbered] at h
    rcases List.mem_cons.1 h with rfl | h
    · exact ⟨le_rfl, by rw [Nat.sub_self, List.getD_cons_zero]⟩
    · obtain ⟨hle, hget⟩ := ih h
      refine ⟨by omega, ?_⟩
      rw [show p.1 - n = p.1 - (n + 1) + 1 by omega, List.getD_cons_succ, hget]

/-- An index's position in a dense run is the number of selected indices below it. -/
theorem position_of_mem_numbered {q : Nat → Bool} {n lo k : Nat} {p : Nat × Nat} (h : p ∈ numbered n ((upFrom lo k).filter q)) :
    lo ≤ p.2 ∧ p.1 = n + ((upFrom lo (p.2 - lo)).filter q).length := by
  induction k generalizing n lo with
  | zero => cases h
  | succ k ih =>
    rw [upFrom, List.filter_cons] at h
    have hstep (hlt : lo + 1 ≤ p.2) : upFrom lo (p.2 - lo) = lo :: upFrom (lo + 1) (p.2 - (lo + 1)) := by
      rw [show p.2 - lo = p.2 - (lo + 1) + 1 by omega, upFrom]
    cases hq : q lo with
    | false =>
      rw [hq, if_neg Bool.false_ne_true] at h
      obtain ⟨hlt, hpos⟩ := ih h
      refine ⟨by omega, ?_⟩
      rw [hstep hlt, List.filter_cons, hq, if_neg Bool.false_ne_true, hpos]
    | true =>
      rw [hq, if_pos rfl, numbered] at h
      rcases List.mem_cons.1 h with rfl | h
      · exact ⟨le_rfl, by rw [Nat.sub_self]; rfl⟩
      · obtain ⟨hlt, hpos⟩ := ih h
        refine ⟨by omega, ?_⟩
        rw [hstep hlt, List.filter_cons, hq, if_pos rfl, List.length_cons, hpos]
        omega

/-- Writing pairs whose results are a function of their elements. -/
theorem emitPairs_eq_emitAll {vd : VReg5} {w : Nat} {f : Nat → Nat × Flags} {ps : List (Nat × Nat × Flags)} (h : ∀ p ∈ ps, p.2 = f p.1)
    (c : Ctx) : emitPairs vd w ps c = emitAll vd w false f (ps.map Prod.fst) c := by
  rw [emitPairs, emitAll, List.foldl_map]
  exact List.foldl_ext _ _ _ fun d p hp => by rw [h p hp]; rfl

/-! ## The moves of elements -/

/-- A list of elements may be given by its members. -/
theorem WritesElems.of_mem_iff {c d : Ctx} {vd : VReg5} {w : Nat} {is js : List Nat} {f : Nat → Nat × Flags} (h : ∀ i, i ∈ is ↔ i ∈ js)
    (hw : WritesElems c d vd w is f) : WritesElems c d vd w js f := by
  obtain ⟨hin, hout, hfl⟩ := hw
  refine ⟨fun i hi => hin i ((h i).2 hi), fun i hi => hout i fun hmem => hi ((h i).1 hmem), fun k hk => ?_⟩
  rw [hfl k hk, Bool.eq_iff_iff]
  simp only [Bool.or_eq_true, List.any_eq_true, h]

/-- A move of an element that there may be. -/
theorem moveOr_ite (c : Ctx) (vd vs1 : VReg5) (p : Prop) [Decidable p] (k : Nat) :
    moveOr c vd vs1 (if p then some k else none) = if p then moveElem c vd vs1 k else (0, 0) := by
  split <;> rfl

section
variable {vs1 vs2 vd : VReg5} {v : VEnv} {c : Ctx} (hwf : wfBytes (c.vr vd).data = true)
include hwf

theorem writesElems_emitPairs {ty : ETy} (h : c.ety vd = some ty) {f : Nat → Nat × Flags} {ps : List (Nat × Nat × Flags)}
    (hps : ∀ p ∈ ps, p.2 = f p.1) : WritesElems c ((emitPairs vd ty.bits ps c).fillReg vd) vd ty.bits (ps.map Prod.fst) f := by
  rw [emitPairs_eq_emitAll hps]
  exact writesElems_emitAll_fillReg false f _ h hwf

/-- Results written at a dense run's positions. -/
theorem writesElems_dense {ty : ETy} (h : c.ety vd = some ty) (f : Nat → Nat × Flags) (is : List Nat) :
    WritesElems c ((emitPairs vd ty.bits ((numbered 0 is).map fun p => (p.1, f p.2)) c).fillReg vd) vd ty.bits (upFrom 0 is.length)
      fun k => f (is.getD k 0) := by
  have hw := writesElems_emitPairs hwf h (f := fun k => f (is.getD k 0)) (ps := (numbered 0 is).map fun p => (p.1, f p.2)) (by
    intro p hp
    obtain ⟨q, hq, rfl⟩ := List.mem_map.1 hp
    exact congrArg f (getD_of_mem_numbered hq).2.symm)
  rw [List.map_map, show Prod.fst ∘ (fun p : Nat × Nat => (p.1, f p.2)) = Prod.fst from rfl, map_fst_numbered] at hw
  exact hw

theorem writesElems_midxEffect {t : IntTy} (h : c.ety vd = some (.int t)) : WritesElems c (midxEffect vd v c) vd t.w
    (upFrom 0 (c.enabled v.m 0 v.vl).length) fun k => t.wrap ((c.enabled v.m 0 v.vl).getD k 0) := by
  simp only [midxEffect, h]
  exact writesElems_dense hwf (ty := .int t) h (fun i => t.wrap i) _

theorem writesElems_vidEffect {t : IntTy} (h : c.ety vd = some (.int t)) (hes : v.es = 0) :
    WritesElems c (vidEffect vd v c) vd t.w (c.enabled v.m 0 v.vl) fun i => t.wrap i := by
  simp only [vidEffect, h, hes]
  exact writesElems_emitAll_fillReg (ty := .int t) false (fun i => t.wrap i) _ h hwf

variable (h : (c.ety vd).isSome = true)
include h

/-- Results written at vd's own width. -/
theorem writesElems_emitAll_width (f : Nat → Nat × Flags) (is : List Nat) :
    WritesElems c ((emitAll vd (c.width vd) false f is c).fillReg vd) vd (c.width vd) is f := by
  obtain ⟨ty, hty⟩ := Option.isSome_iff_exists.1 h
  rw [Ctx.width_of_ety hty]
  exact writesElems_emitAll_fillReg false f is hty hwf

theorem writesElems_gatherEffect : WritesElems c (gatherEffect vs2 vs1 vd v c) vd (c.width vd) (c.enabled v.m 0 v.vl) fun i =>
    if c.raw vs2 i < capBits c (c.width vs1) then moveElem c vd vs1 (c.raw vs2 i) else (0, 0) := by
  simp only [gatherEffect, moveOr_ite]
  exact writesElems_emitAll_width hwf h _ _

theorem writesElems_slideDownEffect (s : Int) : WritesElems c (slideDownEffect s vs1 vd v c) vd (c.width vd) (c.enabled v.m 0 v.vl)
    fun i => if 0 ≤ (i : Int) + s ∧ (i : Int) + s < v.vl then moveElem c vd vs1 ((i : Int) + s).toNat else (0, 0) := by
  simp only [slideDownEffect, moveOr_ite]
  exact writesElems_emitAll_width hwf h _ _

theorem writesElems_slideUpEffect (s : Nat) : WritesElems c (slideUpEffect s vs1 vd v c) vd (c.width vd)
    ((c.enabled v.m 0 v.vl).filter fun i => decide (s ≤ i)) fun i => moveElem c vd vs1 (i - s) := by
  refine WritesElems.of_mem_iff (fun i => ?_) (writesElems_emitAll_width hwf h (fun i => moveElem c vd vs1 (i - s)) (c.enabled v.m s v.vl))
  rw [List.mem_filter, mem_enabled, mem_enabled, decide_eq_true_eq]
  exact ⟨fun ⟨hs, hi⟩ => ⟨⟨Nat.zero_le i, hi⟩, hs⟩, fun ⟨⟨_, hi⟩, hs⟩ => ⟨hs, hi⟩⟩

theorem writesElems_bcastEffect (hvl : v.vl ≠ 0) : WritesElems c (bcastEffect vs1 vd v c) vd (c.width vd) (c.enabled v.m 0 v.vl)
    fun _ => moveElem c vd vs1 0 := by
  rw [bcastEffect, if_neg hvl]
  exact writesElems_emitAll_width hwf h _ _

theorem writesElems_compressEffect : WritesElems c (compressEffect vs1 vd v c) vd (c.width vd)
    (upFrom 0 (c.enabled v.m 0 v.vl).length) fun k => moveElem c vd vs1 ((c.enabled v.m 0 v.vl).getD k 0) := by
  obtain ⟨ty, hty⟩ := Option.isSome_iff_exists.1 h
  rw [compressEffect, Ctx.width_of_ety hty]
  exact writesElems_dense hwf hty _ _

theorem writesElems_expandEffect : WritesElems c (expandEffect vs1 vd v c) vd (c.width vd) (c.enabled v.m 0 v.vl) fun i =>
    if (c.enabled v.m 0 i).length < capBits c (c.width vs1) then moveElem c vd vs1 (c.enabled v.m 0 i).length else (0, 0) := by
  obtain ⟨ty, hty⟩ := Option.isSome_iff_exists.1 h
  simp only [expandEffect, moveOr_ite, Ctx.width_of_ety hty]
  have hw := writesElems_emitPairs hwf hty (f := fun i =>
      if (c.enabled v.m 0 i).length < capBits c (c.width vs1) then moveElem c vd vs1 (c.enabled v.m 0 i).length else (0, 0))
    (ps := (numbered 0 (c.enabled v.m 0 v.vl)).map fun p => (p.2, if p.1 < capBits c (c.width vs1) then moveElem c vd vs1 p.1 else (0, 0)))
    (by
      intro p hp
      obtain ⟨q, hq, rfl⟩ := List.mem_map.1 hp
      have hpos : q.1 = (c.enabled v.m 0 q.2).length := (position_of_mem_numbered hq).2.trans (Nat.zero_add _)
      rw [← hpos])
  rw [List.map_map, show Prod.fst ∘ (fun p : Nat × Nat => (p.2, if p.1 < capBits c (c.width vs1) then moveElem c vd vs1 p.1 else (0, 0)))
    = Prod.snd from rfl, map_snd_numbered] at hw
  exact hw

end

/-! ## Quantising one block (R61, R157) -/

/-- What writing a list of (element, code) pairs leaves of a register of four-bit codes. -/
structure WritesCodes (c d : Ctx) (vd : VReg5) (ps : List (Nat × Nat)) : Prop where
  ety : d.ety vd = some .hx4
  wf : wfBytes (d.vr vd).data = true
  put : ∀ p ∈ ps, d.raw vd p.1 = p.2 % 16
  keep : ∀ i ∉ ps.map Prod.fst, d.raw vd i = c.raw vd i

/-- Writing codes to distinct elements. -/
theorem writesCodes_foldl {vd : VReg5} {ps : List (Nat × Nat)} (hnd : (ps.map Prod.fst).Nodup) {c : Ctx} (h : c.ety vd = some .hx4)
    (hwf : wfBytes (c.vr vd).data = true) : WritesCodes c (ps.foldl (fun d p => d.putElem vd 4 p.1 p.2) c) vd ps := by
  induction ps generalizing c with
  | nil => exact ⟨h, hwf, fun _ hp => absurd hp List.not_mem_nil, fun _ _ => rfl⟩
  | cons p ps ih =>
    obtain ⟨hp, hnd'⟩ := List.nodup_cons.1 hnd
    have hety : (c.putElem vd 4 p.1 p.2).ety vd = some .hx4 := by
      rw [Ctx.ety, Ctx.vr_putElem_same]
      exact h
    have hwf' : wfBytes ((c.putElem vd 4 p.1 p.2).vr vd).data = true := by
      rw [Ctx.vr_putElem_same]
      exact wfBytes_putRaw hwf 4 p.1 p.2
    have hraw (j : Nat) : (c.putElem vd 4 p.1 p.2).raw vd j = if j = p.1 then p.2 % 16 else c.raw vd j := by
      rw [Ctx.raw_of_ety hety, Ctx.raw_of_ety h, Ctx.vr_putElem_same]
      exact rawAt_putRaw hwf (.inl rfl) p.1 j p.2
    obtain ⟨he, hw, hput, hkeep⟩ := ih hnd' hety hwf'
    refine ⟨he, hw, fun q hq => ?_, fun i hi => ?_⟩
    · rcases List.mem_cons.1 hq with rfl | hq
      · exact (hkeep q.1 hp).trans ((hraw q.1).trans (if_pos rfl))
      · exact hput q hq
    · rw [List.map_cons, List.mem_cons, not_or] at hi
      exact (hkeep i hi.2).trans ((hraw i).trans (if_neg hi.1))

theorem nodup_upFrom (lo n : Nat) : (upFrom lo n).Nodup := by
  induction n generalizing lo with
  | zero => exact List.nodup_nil
  | succ n ih => exact List.nodup_cons.2 ⟨fun h => by have := mem_upFrom.1 h; omega, ih (lo + 1)⟩

theorem nodup_enabled (c : Ctx) (m : MReg3) (lo hi : Nat) : (c.enabled m lo hi).Nodup := (nodup_upFrom _ _).filter _

/-- Zeroing the elements from lo up to below hi. -/
theorem zeroed {vd : VReg5} {c : Ctx} (h : c.ety vd = some .hx4) (hwf : wfBytes (c.vr vd).data = true) (lo n : Nat) (i : Nat) :
    ((upFrom lo n).foldl (fun d i => d.putElem vd 4 i 0) c).raw vd i = if lo ≤ i ∧ i < lo + n then 0 else c.raw vd i := by
  have hw := writesCodes_foldl (ps := (upFrom lo n).map fun i => (i, 0))
    (by rw [List.map_map, show Prod.fst ∘ (fun i : Nat => (i, 0)) = id from rfl, List.map_id]; exact nodup_upFrom lo n) h hwf
  rw [List.foldl_map] at hw
  by_cases hi : i ∈ upFrom lo n
  · rw [if_pos (mem_upFrom.1 hi)]
    exact hw.put (i, 0) (List.mem_map_of_mem hi)
  · rw [if_neg fun h => hi (mem_upFrom.2 h)]
    refine hw.keep i ?_
    rw [List.map_map, show Prod.fst ∘ (fun i : Nat => (i, 0)) = id from rfl, List.map_id]
    exact hi

/-! ### The block's entry and codes -/

/-- A block with a NaN or an infinity. -/
def badBlock (xs : List FVal) : Bool := xs.any fun x => x.isNan || x.isInf

theorem badBlock_eq (xs : List FVal) : badBlock xs = (xs.any FVal.isNan || xs.any FVal.isInf) := by
  rw [badBlock, Bool.eq_iff_iff]
  simp only [Bool.or_eq_true, List.any_eq_true, and_or_left, exists_or]

theorem quantBlock_of_bad {rds : List Rnd} {xs : List FVal} (h : badBlock xs = true) :
    (quantBlock rds xs).1 = 0x00FF ∧ (quantBlock rds xs).2.1 = xs.map fun _ => 0 := by
  rw [badBlock_eq] at h
  rw [quantBlock, if_pos h]
  exact ⟨rfl, rfl⟩

/-- Each present element has a code. -/
theorem quantBlock_length {rds : List Rnd} {xs : List FVal} (h : rds.length = xs.length) : (quantBlock rds xs).2.1.length = xs.length := by
  unfold quantBlock
  split
  · exact List.length_map _
  · simp [h]

theorem fin_zero_of_isZero {x : FVal} (h : x.isZero = true) : ∃ s e, x = .fin s 0 e := by
  cases x with
  | nan | inf => cases h
  | fin s m e =>
    cases m with
    | zero => exact ⟨s, e, rfl⟩
    | succ m => cases h

/-- Zero as a block's entry has it. -/
abbrev plusZero : FVal := .fin false 0 0

section
variable {x : FVal} (hx : x.isZero = true)
include hx

theorem finite_of_isZero : x.finite = true := by
  obtain ⟨s, e, rfl⟩ := fin_zero_of_isZero hx
  rfl

theorem rat_of_isZero : x.rat = plusZero.rat := by
  obtain ⟨s, e, rfl⟩ := fin_zero_of_isZero hx
  simp [rat_fin]

theorem magLt_zero : magLt plusZero x = false := by
  obtain ⟨s, e, rfl⟩ := fin_zero_of_isZero hx
  show flt plusZero (.fin false 0 e) = false
  rw [flt_of_finite rfl rfl]
  simp

/-- A comparison with a zero sees only that it is zero. -/
theorem flt_zero_left {y : FVal} (hy : y.finite = true) : flt x y = flt plusZero y := by
  rw [flt_of_finite (finite_of_isZero hx) hy, flt_of_finite rfl hy, rat_of_isZero hx]

theorem flt_zero_right {y : FVal} (hy : y.finite = true) : flt y x = flt y plusZero := by
  rw [flt_of_finite hy (finite_of_isZero hx), flt_of_finite hy rfl, rat_of_isZero hx]

end

theorem maxMag_zeros {xs : List FVal} (h : ∀ x ∈ xs, x.isZero = true) : maxMag xs plusZero = plusZero := by
  induction xs with
  | nil => rfl
  | cons x xs ih =>
    rw [maxMag, magLt_zero (h x List.mem_cons_self), if_neg Bool.false_ne_true]
    exact ih fun y hy => h y (List.mem_cons_of_mem x hy)

/-- The candidates of the entry of a block of zeros are numbers. -/
theorem finite_hx4Cands : ∀ p ∈ hx4Cands 127, p.1.finite = true := by decide

theorem hx4Round_zero (rd : Rnd) {x : FVal} (hx : x.isZero = true) : (hx4Round rd (hx4Cands 127) x).1 = 0 := by
  have hbelow : candBelow (hx4Cands 127) x = some (plusZero, 0) := by
    rw [candBelow, List.filter_congr fun p hp => congrArg Bool.not (flt_zero_left hx (finite_hx4Cands p hp))]
    decide
  have habove : candAbove (hx4Cands 127) x = some (plusZero, 0) := by
    rw [candAbove, List.filter_congr fun p hp => congrArg Bool.not (flt_zero_right hx (finite_hx4Cands p hp))]
    decide
  have heq : feq plusZero x = true := by
    rw [feq_of_finite rfl (finite_of_isZero hx), rat_of_isZero hx]
    exact decide_eq_true rfl
  simp only [hx4Round, hbelow, habove]
  rw [if_pos heq]

/-- A block of zeros has the entry of 1 and every code 0. -/
theorem quantBlock_zeros {rds : List Rnd} {xs : List FVal} (h : ∀ x ∈ xs, x.isZero = true) :
    (quantBlock rds xs).1 = 127 ∧ ∀ n ∈ (quantBlock rds xs).2.1, n = 0 := by
  have hgood : (xs.any FVal.isNan || xs.any FVal.isInf) = false := by
    rw [← badBlock_eq, badBlock, List.any_eq_false]
    intro x hx
    obtain ⟨s, e, rfl⟩ := fin_zero_of_isZero (h x hx)
    exact Bool.false_ne_true
  have hblock : quantBlock rds xs = (127, ((rds.zip xs).map fun p => hx4Round p.1 (hx4Cands 127) p.2).map Prod.fst,
      flagIf (((rds.zip xs).map fun p => hx4Round p.1 (hx4Cands 127) p.2).any Prod.snd) flNX) := by
    rw [quantBlock, hgood, if_neg Bool.false_ne_true, maxMag_zeros h]
    rfl
  rw [hblock]
  refine ⟨rfl, fun n hn => ?_⟩
  obtain ⟨r, hr, rfl⟩ := List.mem_map.1 hn
  obtain ⟨p, hp, rfl⟩ := List.mem_map.1 hr
  exact hx4Round_zero p.1 (h p.2 (List.of_mem_zip hp).2)

/-! ### The block's registers -/

/-- A scale entry that is written is read back. -/
theorem qEntry_setQ {c : Ctx} {k : Nat} (hk : k < 4) (hwf : wfBytes (c.q.toList.getD k []) = true) (n x : Nat) :
    (c.setQ k n x).qEntry k n = x % 2 ^ 16 := by
  have hget (q : Vector Bytes 4) : q.toList.getD k [] = q[k] := by simp [List.getD, hk]
  rw [hget] at hwf
  rw [Ctx.qEntry, Ctx.setQ, dif_pos hk, hget, Vector.getElem_set_self]
  exact getLe_setLe hwf _ 2 x

theorem Ctx.raw_congr {c d : Ctx} {r : VReg5} (h : d.vr r = c.vr r) (i : Nat) : d.raw r i = c.raw r i := by
  rw [Ctx.raw, Ctx.raw, Ctx.ety, Ctx.ety, h]

section
variable {vs1 vd : VReg5} {v : VEnv} {c : Ctx} (hty : c.ety vd = some .hx4) (hwf : wfBytes (c.vr vd).data = true)

/-- The first block's codes, written to its present elements. -/
def codesWritten (vd : VReg5) (v : VEnv) (src : Nat → FVal) (c : Ctx) : Ctx :=
  let is := c.enabled v.m 0 v.vl
  (is.zip (quantBlock (is.map fun i => rndOf v.mode v.vxctl c.sr i) (is.map src)).2.1).foldl (fun d p => d.putElem vd 4 p.1 p.2) c

include hty hwf

theorem writesCodes_codesWritten (src : Nat → FVal) : WritesCodes c (codesWritten vd v src c) vd ((c.enabled v.m 0 v.vl).zip
    (quantBlock ((c.enabled v.m 0 v.vl).map fun i => rndOf v.mode v.vxctl c.sr i) ((c.enabled v.m 0 v.vl).map src)).2.1) := by
  refine writesCodes_foldl ?_ hty hwf
  rw [List.map_fst_zip (by rw [quantBlock_length (by simp), List.length_map])]
  exact nodup_enabled c v.m 0 v.vl

variable (hq : wfBytes (c.q.toList.getD (tagQs (c.vr vd).tag) []) = true) (hle : v.vl ≤ 2 ^ blkLog (c.vr vd).tag)
include hq hle

/-- The first block writes its codes, zeroes what it has no element for, and writes its entry. -/
theorem quantInto_first (src : Nat → FVal) :
    (∀ i, (quantInto vd v.mode v.vxctl v.m v.vl src c 0).raw vd i
      = if (if badBlock ((c.enabled v.m 0 v.vl).map src) then 0 else v.vl) ≤ i ∧ i < 2 ^ blkLog (c.vr vd).tag then 0
        else (codesWritten vd v src c).raw vd i)
    ∧ (quantInto vd v.mode v.vxctl v.m v.vl src c 0).qEntry (tagQs (c.vr vd).tag) 0
      = (quantBlock ((c.enabled v.m 0 v.vl).map fun i => rndOf v.mode v.vxctl c.sr i) ((c.enabled v.m 0 v.vl).map src)).1 % 2 ^ 16 := by
  have hcodes := writesCodes_codesWritten (v := v) hty hwf src
  have hmin : min v.vl (0 + 2 ^ blkLog (c.vr vd).tag) = v.vl := by omega
  have hqs : tagQs (c.vr vd).tag < 4 := BitVec.isLt _
  unfold quantInto
  extract_lets t n lo pres r c1 from_ c2 c3
  have hlo : lo = 0 := Nat.zero_mul _
  have hpres : pres = c.enabled v.m 0 v.vl := by
    show c.enabled v.m lo (min v.vl (lo + n)) = _
    rw [hlo, hmin]
  have hc1 : c1 = codesWritten vd v src c := by
    show (pres.zip (quantBlock (pres.map _) (pres.map src)).2.1).foldl _ c = _
    rw [hpres]
    rfl
  have hfrom : from_ = if badBlock ((c.enabled v.m 0 v.vl).map src) then 0 else v.vl := by
    show (if badBlock (pres.map src) then lo else max lo v.vl) = _
    rw [hpres, hlo, Nat.zero_max]
  have hfromle : from_ ≤ n := by
    rw [hfrom]
    split
    · exact Nat.zero_le n
    · exact hle
  have hraw2 (i : Nat) : c2.raw vd i = if from_ ≤ i ∧ i < n then 0 else (codesWritten vd v src c).raw vd i := by
    show ((upFrom from_ (lo + n - from_)).foldl _ c1).raw vd i = _
    rw [hc1, zeroed hcodes.ety hcodes.wf, hlo, Nat.zero_add, Nat.add_sub_cancel' hfromle]
  have h1 : VecFrame [vd] [] False c c1 := .foldl (fun d (p : Nat × Nat) => .putElem d (List.mem_singleton_self vd) 4 p.1 p.2) _ c
  have h2 : VecFrame [vd] [] False c1 c2 := .foldl (fun d i => .putElem d (List.mem_singleton_self vd) 4 i 0) _ c1
  have hq2 : c2.q = c.q := (h1.trans h2).q id
  have hend : VecFrame [] [] False c3 (if v.mode = .sr then pres.foldl (fun d i => { d with sr := d.sr.step i }) c3 else c3) := by
    split
    · exact .foldl (fun d i => .setSr d _) pres c3
    · exact .refl c3
  have hvr3 : c3.vr vd = c2.vr vd := (VecFrame.setQ (rs := []) (ks := []) c2 trivial _ _ _).vr vd List.not_mem_nil
  have hentry : (c2.setQ (tagQs t) 0 r.1).qEntry (tagQs t) 0 = r.1 % 2 ^ 16 := qEntry_setQ hqs (by rw [hq2]; exact hq) 0 r.1
  refine ⟨fun i => ?_, ?_⟩
  · rw [Ctx.raw_congr ((hend.vr vd List.not_mem_nil).trans hvr3), hraw2, hfrom]
  · have hqEntry (d : Ctx) (hd : d.q = c3.q) : d.qEntry (tagQs t) 0 = r.1 % 2 ^ 16 := by
      rw [Ctx.qEntry, hd]
      exact hentry
    rw [hqEntry _ (hend.q id), show r = quantBlock (pres.map _) (pres.map src) from rfl, hpres]

/-- With VL in the first block `vquant` quantises that block alone. -/
theorem quantEffect_first (hes : v.es = 0) (hvl : 0 < v.vl) : (∀ i, (quantEffect vs1 vd v c).raw vd i
      = if (if badBlock ((c.enabled v.m 0 v.vl).map fun i => c.fval vs1 i) then 0 else v.vl) ≤ i ∧ i < 2 ^ blkLog (c.vr vd).tag then 0
        else (codesWritten vd v (fun i => c.fval vs1 i) c).raw vd i)
    ∧ (quantEffect vs1 vd v c).qEntry (tagQs (c.vr vd).tag) 0
      = (quantBlock ((c.enabled v.m 0 v.vl).map fun i => rndOf v.mode v.vxctl c.sr i)
          ((c.enabled v.m 0 v.vl).map fun i => c.fval vs1 i)).1 % 2 ^ 16 := by
  have hblocks : (v.vl + 2 ^ blkLog (c.vr vd).tag - 1) / 2 ^ blkLog (c.vr vd).tag - v.es / 2 ^ blkLog (c.vr vd).tag = 1 := by
    rw [hes, Nat.zero_div, Nat.sub_zero]
    exact Nat.div_eq_of_lt_le (by omega) (by omega)
  obtain ⟨hraw, hentry⟩ := quantInto_first hty hwf hq hle fun i => c.fval vs1 i
  unfold quantEffect
  extract_lets n first d
  have hd : d = quantInto vd v.mode v.vxctl v.m v.vl (fun i => c.fval vs1 i) c 0 := by
    show (upFrom (v.es / n) (_ - v.es / n)).foldl _ c = _
    rw [hblocks, hes, Nat.zero_div]
    rfl
  have hend : VecFrame [] [] False (d.fillReg vd) ((d.fillReg vd).staleQ (tagQs (c.vr vd).tag)) := .staleWhere _ _
  have hfill : (d.fillReg vd).q = d.q := (VecFrame.fillReg (rs := [vd]) (ks := []) (qs := False) d (List.mem_singleton_self vd)).q id
  refine ⟨fun i => ?_, ?_⟩
  · rw [Ctx.raw_congr (hend.vr vd List.not_mem_nil), Ctx.raw_fillReg_same, hd, hraw]
  · rw [Ctx.qEntry, hend.q id, hfill, hd]
    exact hentry

/-- A masked-off element below VL keeps its code where the block has no NaN and no infinity. -/
theorem raw_quantEffect_masked (hes : v.es = 0) (hvl : 0 < v.vl)
    (hgood : badBlock ((c.enabled v.m 0 v.vl).map fun i => c.fval vs1 i) = false) {i : Nat} (hi : i < v.vl) (hoff : c.mbit v.m i = false) :
    (quantEffect vs1 vd v c).raw vd i = c.raw vd i := by
  have hcodes := writesCodes_codesWritten (v := v) hty hwf fun i => c.fval vs1 i
  rw [(quantEffect_first hty hwf hq hle hes hvl).1, hgood, if_neg Bool.false_ne_true, if_neg fun h => absurd hi (Nat.not_lt.2 h.1)]
  refine hcodes.keep i ?_
  rw [List.map_fst_zip (by rw [quantBlock_length (by simp), List.length_map]), mem_enabled, hoff]
  exact fun h => Bool.false_ne_true h.2.2

/-- Every present element gets its code; a block with a NaN or an infinity has them all 0. -/
theorem raw_quantEffect_present (hes : v.es = 0) (hvl : 0 < v.vl) {k : Nat} (hk : k < (c.enabled v.m 0 v.vl).length) :
    (quantEffect vs1 vd v c).raw vd ((c.enabled v.m 0 v.vl).getD k 0)
      = (quantBlock ((c.enabled v.m 0 v.vl).map fun i => rndOf v.mode v.vxctl c.sr i)
          ((c.enabled v.m 0 v.vl).map fun i => c.fval vs1 i)).2.1.getD k 0 % 16 := by
  have hcodes := writesCodes_codesWritten (v := v) hty hwf fun i => c.fval vs1 i
  have hraw := (quantEffect_first (vs1 := vs1) hty hwf hq hle hes hvl).1
  generalize hxs : (c.enabled v.m 0 v.vl).map (fun i => c.fval vs1 i) = xs at hcodes hraw ⊢
  generalize hrds : (c.enabled v.m 0 v.vl).map (fun i => rndOf v.mode v.vxctl c.sr i) = rds at hcodes ⊢
  have hlen : (quantBlock rds xs).2.1.length = (c.enabled v.m 0 v.vl).length := by
    rw [quantBlock_length (by rw [← hxs, ← hrds, List.length_map, List.length_map]), ← hxs, List.length_map]
  have hkc : k < (quantBlock rds xs).2.1.length := hlen ▸ hk
  have hlt : (c.enabled v.m 0 v.vl)[k] < v.vl := (mem_enabled.1 (List.getElem_mem hk)).2.1
  rw [List.getD_eq_getElem _ _ hk, List.getD_eq_getElem _ _ hkc, hraw]
  cases hbad : badBlock xs with
  | true =>
    have hzero : (quantBlock rds xs).2.1[k] = 0 := by
      have hall : ∀ n ∈ (quantBlock rds xs).2.1, n = 0 := by
        rw [(quantBlock_of_bad hbad).2]
        exact fun n hn => (List.mem_map.1 hn).elim fun _ h => h.2.symm
      exact hall _ (List.getElem_mem hkc)
    rw [hzero, if_pos rfl, if_pos ⟨Nat.zero_le _, lt_of_lt_of_le hlt hle⟩]
  | false =>
    rw [if_neg Bool.false_ne_true, if_neg fun h => absurd hlt (Nat.not_lt.2 h.1)]
    refine hcodes.put ((c.enabled v.m 0 v.vl)[k], (quantBlock rds xs).2.1[k]) ?_
    rw [← List.getElem_zip (h := by rw [List.length_zip]; exact lt_min hk hkc)]
    exact List.getElem_mem _

end

end Sys2Proof.Machine

namespace Sys2Proof

open Sys2Proof.Machine

/-- Settles O31: the bits and elements that each effect writes, and the value of each. -/
theorem compareAndMaskBits : Obligations.CompareAndMaskBits := by
  unfold Obligations.CompareAndMaskBits
  refine ⟨fun cc vs1 q md v c t h hes hwf i => ?_, fun ma mb md v c i hes hmd hwf => ?_,
    fun ma md v c i f hes hmd hwf hle hset hbelow => ?_, fun cc vs1 q md v c f h hes hwf => ?_,
    fun a b => ⟨fltCond_of_nan, fltCond_of_finite⟩, maskEffect_zero,
    fun vs1 vd v c hwf hvl => ⟨fun o t h => writesElems_redEffect_int hwf hvl h o, fun o f h => writesElems_redEffect_flt hwf hvl h o⟩,
    fun t xs => ⟨t.wrap_eq xs.sum, fun h => ⟨intRed_max t xs h, intRed_min t xs h⟩, rfl, rfl,
      fun k hk => ⟨testBit_intRed_and xs hk, testBit_intRed_or xs, testBit_intRed_xor xs⟩⟩,
    fun f xs x => ⟨sumUp_concat f xs x, rfl, fltRed_sum_nil f, fltRed_sumt_nil f⟩,
    fun vs1 vs2 vd v c hwf h => ⟨writesElems_gatherEffect hwf h, writesElems_slideDownEffect hwf h, writesElems_slideUpEffect hwf h,
      writesElems_emitAll_width hwf h _ _, writesElems_emitAll_width hwf h _ _, writesElems_bcastEffect hwf h,
      writesElems_compressEffect hwf h, writesElems_expandEffect hwf h, fun t => writesElems_midxEffect hwf,
      fun t => writesElems_vidEffect hwf⟩,
    fun vs1 vd v c hty hes hwf hq hvl hle => ?_⟩
  · rw [cmpEffect_int h]
    exact cmpBits hes hwf _ _ i
  · have hbits (o : MaskOp) := mbit_maskEffect hes hmd hwf o ma mb i
    exact ⟨hbits .and, hbits .or, hbits .xor, hbits .andn, hbits .not, hbits .set, hbits .clr⟩
  · have hbits (o : MaskOp) := mbit_maskEffect hes hmd hwf o ma 0 i
    rw [firstSet_eq hle hset hbelow] at hbits
    exact ⟨hbits .bf, hbits .if_, hbits .sof⟩
  · rw [cmpEffect_flt h]
    refine ⟨cmpBits hes hwf _ _, ?_⟩
    rw [vxflags_foldl_setMbit md _ _ _ _ (by decide), hes]
  · obtain ⟨hraw, hentry⟩ := quantEffect_first (vs1 := vs1) hty hwf hq hle hes hvl
    refine ⟨hentry, fun k hk => raw_quantEffect_present hty hwf hq hle hes hvl hk,
      fun hgood => ⟨fun i => raw_quantEffect_masked hty hwf hq hle hes hvl hgood, fun i hlo hi => ?_⟩,
      fun hbad => ⟨(quantBlock_of_bad hbad).1, fun i hi => ?_⟩, quantBlock_zeros⟩
    · exact (hraw i).trans (if_pos ⟨le_of_eq_of_le (if_neg (ne_true_of_eq_false hgood)) hlo, hi⟩)
    · exact (hraw i).trans (if_pos ⟨le_of_eq_of_le (if_pos hbad) (Nat.zero_le i), hi⟩)

end Sys2Proof
end

section
/-! SUPPORT. The Cable engine (spec/08): a pool word after a write, what one row of a primitive does (R169, R171), and an entry of the
VIQ that waits for its strand's cut (R269). -/

namespace Sys2Proof.Machine

/-! ## A pool word after a write (R111) -/

namespace Ctx

variable {c : Ctx} (h : Memory.wf c.pool = true)
include h

theorem poolWord_setPool_same (w v : Nat) : (c.setPool w v).poolWord w = v % 2 ^ 32 := getLe_setLe h (4 * w) 4 v

theorem poolWord_setPool_ne {w n : Nat} (hn : n ≠ w) (v : Nat) : (c.setPool w v).poolWord n = c.poolWord n :=
  getLe_setLe_out h v (by omega)

end Ctx

/-- The value of bits is the number they are, modulo 2^w. -/
theorem IntTy.val_emod (t : IntTy) (n : Nat) : t.val n % 2 ^ t.w = n % 2 ^ t.w := by
  unfold IntTy.val
  dsimp only
  split
  · rw [Int.sub_emod_right]
    push_cast
    exact Int.emod_emod _ _
  · push_cast
    exact Int.emod_emod _ _

/-! ## One row of a primitive (R169, R171) -/

/-- The elements of x and of y that row i multiplies. -/
def Prim.aElem (p : Prim) (i : Int) : Nat := (p.aAt + (i - p.aRow)).toNat
def Prim.bElem (p : Prim) (i : Int) : Nat := (p.bAt + (i + p.sh - p.bRow)).toNat

/-- What a product adds to an integer slot's word. -/
def Feed.intTerm (f : Feed) (ea eb : Nat) : Int := if f.neg then -(f.a.int ea * f.b.int eb) else f.a.int ea * f.b.int eb

/-- What a product of two elements, scaled by 2^k, adds to a float slot's word. -/
def Feed.fltTerm (f : Feed) (k : Int) (ea eb : Nat) : FVal :=
  if f.neg then ((fmul (f.a.flt ea) (f.b.flt eb)).1.scale k).negate else (fmul (f.a.flt ea) (f.b.flt eb)).1.scale k

/-- The exponent that the inner planes give row i. -/
def Feed.exponent (f : Feed) (p : Prim) (i : Int) : Int :=
  planeAt f.ga (if p.outer then 0 else i + p.sh) + planeAt f.rb (if p.outer then 0 else i + p.sh)

theorem Feed.exponent_of_no_planes {f : Feed} (ha : f.ga = none) (hb : f.rb = none) (p : Prim) (i : Int) : f.exponent p i = 0 := by
  rw [exponent, ha, hb]
  rfl

/-- The sum of a float slot's word with row i's product, before it is rounded. -/
def Prim.fltSum (f : Feed) (p : Prim) (c : Ctx) (i : Int) : FVal × Flags :=
  fadd .rne (fp32.decode (c.poolWord (p.slot.word i))) (f.fltTerm (f.exponent p i) (p.aElem i) (p.bElem i))

namespace Prim

variable {f : Feed} {p : Prim} {c : Ctx} {i : Int}

/-- R171: zero skipping leaves out a zero element of x. -/
theorem row_of_skipped (h : (f.z && f.a.zero (p.aElem i)) = true) : p.row f c i = c := if_pos h

/-- R169: an integer slot's word takes the wrapped sum. -/
theorem row_of_int (h : (f.z && f.a.zero (p.aElem i)) = false) (hint : p.slot.intCls = true) :
    p.row f c i = (c.setPool (p.slot.word i) (accInt.bits (accInt.val (c.poolWord (p.slot.word i))
        + f.intTerm (p.aElem i) (p.bElem i)))).addFlags
      (accInt.wrap (accInt.val (c.poolWord (p.slot.word i)) + f.intTerm (p.aElem i) (p.bElem i))).2 := by
  refine (if_neg (ne_true_of_eq_false h)).trans ?_
  rw [if_pos hint]
  rfl

/-- R169: a float slot's word takes the sum, rounded once. -/
theorem row_of_flt (h : (f.z && f.a.zero (p.aElem i)) = false) (hflt : p.slot.intCls = false) :
    p.row f c i = (c.setPool (p.slot.word i) (fp32.rne (fltSum f p c i).1).1).addFlags
      ((fmul (f.a.flt (p.aElem i)) (f.b.flt (p.bElem i))).2 ||| (fltSum f p c i).2 ||| (fp32.rne (fltSum f p c i).1).2) := by
  refine (if_neg (ne_true_of_eq_false h)).trans ?_
  rw [if_neg (ne_true_of_eq_false hflt)]
  rfl

/-- A row at most writes its own pool word and raises flags. -/
theorem row_eq_or (f : Feed) (p : Prim) (c : Ctx) (i : Int) :
    p.row f c i = c ∨ ∃ v g, p.row f c i = (c.setPool (p.slot.word i) v).addFlags g := by
  cases hz : f.z && f.a.zero (p.aElem i) with
  | true => exact .inl (row_of_skipped hz)
  | false =>
    refine .inr ?_
    cases hint : p.slot.intCls with
    | true => exact ⟨_, _, row_of_int hz hint⟩
    | false => exact ⟨_, _, row_of_flt hz hint⟩

theorem row_frame (f : Feed) (p : Prim) (c : Ctx) (i : Int) : (p.row f c i).v = c.v ∧ (p.row f c i).slots = c.slots := by
  obtain hrow | ⟨v, g, hrow⟩ := row_eq_or f p c i <;> (rw [hrow]; exact ⟨rfl, rfl⟩)

section
variable (hwf : Memory.wf c.pool = true)
include hwf

theorem poolWord_row_ne {n : Nat} (hn : n ≠ p.slot.word i) : (p.row f c i).poolWord n = c.poolWord n := by
  obtain hrow | ⟨v, g, hrow⟩ := row_eq_or f p c i
  · rw [hrow]
  · rw [hrow]
    exact Ctx.poolWord_setPool_ne hwf hn v

variable (h : (f.z && f.a.zero (p.aElem i)) = false)
include h

theorem poolWord_row_int (hint : p.slot.intCls = true) :
    (accInt.val ((p.row f c i).poolWord (p.slot.word i))
      - (accInt.val (c.poolWord (p.slot.word i)) + f.intTerm (p.aElem i) (p.bElem i))) % 2 ^ 32 = 0 := by
  rw [row_of_int h hint]
  generalize accInt.val (c.poolWord (p.slot.word i)) + f.intTerm (p.aElem i) (p.bElem i) = x
  have hword (g : Flags) : ((c.setPool (p.slot.word i) (accInt.bits x)).addFlags g).poolWord (p.slot.word i) = accInt.bits x :=
    (Ctx.poolWord_setPool_same hwf _ _).trans (Nat.mod_eq_of_lt (accInt.bits_lt x))
  have hval : accInt.val (accInt.bits x) % 2 ^ 32 = x % 2 ^ 32 :=
    (accInt.val_emod _).trans (by rw [IntTy.bits_cast]; exact Int.emod_emod _ _)
  rw [hword]
  exact Int.emod_eq_emod_iff_emod_sub_eq_zero.1 hval

theorem poolWord_row_flt (hflt : p.slot.intCls = false) (hga : f.ga = none) (hrb : f.rb = none) :
    (p.row f c i).poolWord (p.slot.word i) = (fp32.rne (fadd .rne (fp32.decode (c.poolWord (p.slot.word i)))
      (f.fltTerm 0 (p.aElem i) (p.bElem i))).1).1 % 2 ^ 32 := by
  rw [row_of_flt h hflt, fltSum, f.exponent_of_no_planes hga hrb]
  exact Ctx.poolWord_setPool_same hwf _ _

end

end Prim

/-! ## An entry that waits for its strand's cut (R269) -/

/-- A ready form that would consume a new-colour item is queued and retires; its entry waits for the cut. -/
theorem exec_of_ready_consuming {i : Instr} {s : State} (hform : viqForm i = true) (h : Ready i s)
    (hnew : entryConsumes (viqPush i [] s) (viqEntry i [] s) = true) : exec i s = .next (retire (viqPush i [] s)) := by
  have hgate := gate_of_ready h
  obtain ⟨⟨hlag, hviq, -, -, hesc, -, -⟩, -⟩ := h
  have hq : (viqPush i [] s).ctx.viq = [viqEntry i [] s] := by rw [viqPush_viq, hviq]; rfl
  have hwait : viqStep (viqPush i [] s) = .next (viqPush i [] s) := by
    rw [viqStep, hq]
    exact if_pos (by rw [hnew, Bool.or_true])
  have hall : viqAll (viqPush i [] s) = .next (viqPush i [] s) := by
    rw [viqAll, hq, List.length_singleton, viqDrain, hwait]
    exact if_neg (Nat.lt_irrefl _)
  have hroom : viqFull s.ctx = false := by rw [viqFull, hviq]; rfl
  rw [exec_of_viqForm hform, viqCommit, guarded_pass hgate, countGuess_of_not_guess (Ctx.isGuess_of_no_escrow hesc), hroom, viqRetire,
    viqPush_lag, hlag, hall]
  rfl

/-- The core in M-mode before an `atabld` of a table at 0x1000 whose first byte is 7, while its partition takes generation 2: the
table's lines are in the colour of that generation, and no cut has come (R269, R354). -/
def uncutAtabld : State :=
  { State.reset with
    mem := [(0x1000, 7)]
    parts := [{ Partition.reset with taking := true, gen := 2 }] }.setX 1 0x1000

/-- The core before a `dout.q` of slot 0, one FP32 word that holds 1.0, into v1, whose tag is HX4 with scale register 0. -/
def hx4Drain : State := State.reset.mapCtx fun c => { c with
  accw := 1
  pool := setLe [] 0 4 0x3F800000
  slots := c.slots.set 0 ⟨true, false, 0, 0, 1, 0, false, false, 0, 0⟩
  v := c.v.set 1 { VReg.vacant with tag := 13 } }

end Sys2Proof.Machine

namespace Sys2Proof

open Sys2Proof.Machine

/-- Refutes O38: while a generation is being taken, an `atabld` of a strand that has not cut waits for the cut where its table lies on
lines of the new colour (R269), so the table it names is as before. -/
theorem not_slotFormsComplete : ¬ Obligations.SlotFormsComplete := by
  unfold Obligations.SlotFormsComplete
  rintro ⟨-, -, -, -, hatabld, -⟩
  have hready : Ready (.atabld 2 1) uncutAtabld := by decide
  have hplain : PlainAccess uncutAtabld (uncutAtabld.x 1) 8 := by decide
  have hnew : entryConsumes (viqPush (.atabld 2 1) [] uncutAtabld) (viqEntry (.atabld 2 1) [] uncutAtabld) = true := by decide
  obtain ⟨t, hexec, hatab, -⟩ := hatabld 2 1 uncutAtabld hready rfl rfl hplain (by decide) rfl
  cases (exec_of_ready_consuming rfl hready hnew).symm.trans hexec
  have hkept : getByte uncutAtabld.ctx.atab 0 = 7 := by
    rw [← show _ = uncutAtabld.ctx.atab from retire_ctx_atab (viqPush (.atabld 2 1) [] uncutAtabld), hatab]
    exact getByte_setBytes_in rfl 0 _ 0 (by rw [getBytes_length]; decide)
  exact absurd hkept (by decide)

/-- Refutes O39: a `dout.q` into an HX4 register writes that register's scale entries too (R176), here the entry of block 0. -/
theorem not_cableFormsComplete : ¬ Obligations.CableFormsComplete := by
  unfold Obligations.CableFormsComplete
  intro h
  obtain ⟨-, -, -, hq, -⟩ := h (.doutQ false 0 1 0) _ _ hx4Drain rfl (by decide) (by decide)
  rw [retire_ctx_q] at hq
  exact absurd hq (by decide)

/-- Settles O40: the engine's steps are their own operations, and a row is read off its three cases. -/
theorem cableEngineSteps : Obligations.CableEngineSteps := by
  unfold Obligations.CableEngineSteps
  refine ⟨⟨fun v s => rfl, fun s hs => ?_⟩, fun f p c i hwf => ?_⟩
  · show execCableEntryComplete s = _
    rw [execCableEntryComplete, hs]
    rfl
  · exact ⟨fun hz h0 => Prim.row_of_skipped (Bool.and_eq_true_iff.2 ⟨hz, h0⟩), Prim.poolWord_row_int hwf, Prim.poolWord_row_flt hwf,
      fun n => Prim.poolWord_row_ne hwf, Prim.row_frame f p c i⟩

end Sys2Proof
end

section
/-! SUPPORT. The hardware loops (R184 to R192): the end of a body at a retirement, and the loop instructions of the scalar thread. -/

namespace Sys2Proof.Machine

/-! ## Falling past body ends (R184, R186) -/

/-- An active, unsuspended level ends its body at the pc. -/
def Level.bodyEnds (l : Level) (pc : Word) : Prop := l.act = true ∧ l.susp = false ∧ l.stop = pc

/-- The level after the iteration that its count ends with. -/
def Level.popped (l : Level) : Level := { l with rem := 0, idx := l.idx + 1, act := false, susp := false }

/-- The level after an iteration that leaves more. -/
def Level.counted (l : Level) : Level := { l with rem := l.rem - 1, idx := l.idx + 1 }

theorem Level.not_bodyEnds_iff (l : Level) (pc : Word) :
    ¬l.bodyEnds pc ↔ (!l.act || l.susp || decide (l.stop + 4 ≠ pc + 4)) = true := by
  have hstop : l.stop + 4 = pc + 4 ↔ l.stop = pc := add_left_inj 4
  rw [Level.bodyEnds, ← hstop]
  cases l.act <;> cases l.susp <;> simp

/-- R186: one iteration less; at the last one the level is popped. -/
theorem endIter_of_last {l : Level} (h : l.rem = 1) (np : Word) : endIter l np = (l.popped, np, true) := by
  simp [endIter, Level.popped, h]

theorem endIter_of_more {l : Level} (h : l.rem ≠ 1) (np : Word) : endIter l np = (l.counted, l.start, false) := by
  have h0 : l.rem - 1 ≠ 0 := fun h0 => h (by rw [← BitVec.sub_add_cancel l.rem 1, h0]; rfl)
  exact if_neg h0

section
variable {ls : Vector Level 6} {pc : Word} {esc : Option Nat}

theorem fallPast_of_not_ends {k : Fin 6} (h : ¬ls[k].bodyEnds pc) :
    fallPast ls esc (k.val + 1) (pc + 4) = fallPast ls esc k.val (pc + 4) := by
  rw [fallPast, dif_pos k.isLt]
  exact if_pos ((Level.not_bodyEnds_iff _ _).1 h)

/-- Levels that do not end their bodies are passed over. -/
theorem fallPast_skip {m n : Nat} (hmn : m ≤ n) (hn : n ≤ 6) (h : ∀ j : Fin 6, m ≤ j.val → j.val < n → ¬ls[j].bodyEnds pc) :
    fallPast ls esc n (pc + 4) = fallPast ls esc m (pc + 4) := by
  induction n, hmn using Nat.le_induction with
  | base => rfl
  | succ n hmn ih =>
    rw [fallPast_of_not_ends (k := ⟨n, hn⟩) (h ⟨n, hn⟩ hmn (Nat.lt_succ_self n)),
      ih (by omega) fun j hj hjn => h j hj (by omega)]

theorem fallPast_of_none_ends {n : Nat} (hn : n ≤ 6) (h : ∀ j : Fin 6, j.val < n → ¬ls[j].bodyEnds pc) :
    fallPast ls esc n (pc + 4) = (ls, pc + 4) :=
  fallPast_skip n.zero_le hn fun j _ => h j

/-- A level other than the escrow level that ends its body counts its iteration, and its last one is passed. -/
theorem fallPast_of_ends {k : Fin 6} (h : ls[k].bodyEnds pc) (hesc : esc ≠ some k.val) :
    fallPast ls esc (k.val + 1) (pc + 4) =
      if ls[k].rem = 1 then fallPast (ls.set k.val ls[k].popped) esc k.val (pc + 4) else (ls.set k.val ls[k].counted, ls[k].start) := by
  have hends : ¬(!ls[k].act || ls[k].susp || decide (ls[k].stop + 4 ≠ pc + 4)) = true :=
    fun hc => (Level.not_bodyEnds_iff _ _).2 hc h
  rw [fallPast, dif_pos k.isLt]
  refine (if_neg hends).trans ((if_neg hesc).trans ?_)
  show (match endIter ls[k] (pc + 4) with
    | (l', np', true) => fallPast (ls.set k.val l') esc k.val np'
    | (l', np', false) => (ls.set k.val l', np')) = _
  split_ifs with hrem
  · rw [endIter_of_last hrem]
  · rw [endIter_of_more hrem]

/-- The innermost level that ends its body counts its iteration first. -/
theorem fallPast_innermost {k : Fin 6} {n : Nat} (hk : k.val < n) (hn : n ≤ 6) (h : ls[k].bodyEnds pc) (hesc : esc ≠ some k.val)
    (hin : ∀ j : Fin 6, k < j → j.val < n → ¬ls[j].bodyEnds pc) :
    fallPast ls esc n (pc + 4) =
      if ls[k].rem = 1 then fallPast (ls.set k.val ls[k].popped) esc k.val (pc + 4) else (ls.set k.val ls[k].counted, ls[k].start) := by
  rw [fallPast_skip (m := k.val + 1) hk hn fun j hj hjn => hin j hj hjn, fallPast_of_ends h hesc]

/-- The escrow level ends its iterations elsewhere (R198). -/
theorem fallPast_of_escLevel {k : Fin 6} (h : ls[k].bodyEnds pc) : fallPast ls (some k.val) (k.val + 1) (pc + 4) = (ls, pc + 4) := by
  have hends : ¬(!ls[k].act || ls[k].susp || decide (ls[k].stop + 4 ≠ pc + 4)) = true :=
    fun hc => (Level.not_bodyEnds_iff _ _).2 hc h
  rw [fallPast, dif_pos k.isLt]
  exact (if_neg hends).trans (if_pos rfl)

theorem Level.getElem_set_of_ne {k j : Fin 6} (h : j ≠ k) (l : Level) : (ls.set k.val l)[j] = ls[j] :=
  Vector.getElem_set_ne _ _ fun hkj => h (Fin.ext hkj.symm)

/-- No body end makes an inactive level active. -/
theorem fallPast_inactive {j : Fin 6} {n : Nat} (hn : n ≤ 6) (h : ls[j].act = false) :
    (fallPast ls esc n (pc + 4)).1[j].act = false := by
  induction n generalizing ls with
  | zero => exact h
  | succ n ih =>
    by_cases hends : ls[(⟨n, hn⟩ : Fin 6)].bodyEnds pc
    · have hne : j ≠ ⟨n, hn⟩ := by
        rintro rfl
        obtain ⟨hact, -⟩ := hends
        exact Bool.false_ne_true (h.symm.trans hact)
      by_cases hesc : esc = some n
      · subst hesc
        rw [fallPast_of_escLevel (k := ⟨n, hn⟩) hends]
        exact h
      · rw [fallPast_of_ends (k := ⟨n, hn⟩) hends hesc]
        split_ifs
        · exact ih (by omega) (by rw [Level.getElem_set_of_ne hne]; exact h)
        · rw [Level.getElem_set_of_ne hne]
          exact h
    · rw [fallPast_of_not_ends (k := ⟨n, hn⟩) hends]
      exact ih (by omega) h

end

/-! ## Retiring (R88, R186) -/

theorem Ctx.escLevel_of_no_escrow {c : Ctx} (h : c.esc = none) : c.escLevel = none := by
  simp [Ctx.escLevel, Ctx.escActive, h]

theorem Ctx.countRetired_instret_eq (c : Ctx) : c.countRetired.instret = if c.isSpec then c.instret else c.instret + 1 := by
  unfold Ctx.countRetired
  split <;> rfl

theorem retire_instret_eq (s : State) : (retire s).ctx.instret = if s.ctx.isSpec then s.ctx.instret else s.ctx.instret + 1 :=
  Ctx.countRetired_instret_eq _

/-! ## The loop instructions (R185, R188, R192) -/

theorem exec_loop_of_ready {i : BitVec 12} {rs1 : XReg} {l : BitVec 3} {s : State} (h : Ready (.loop i rs1 l) s) :
    let start := s.ctx.pc + 4
    let stop := s.ctx.pc + 4 * i.setWidth 64
    exec (.loop i rs1 l) s = match loopCheck s.ctx l.toNat start stop with
      | some cause => .next (enterTrap s false cause (instrWord (.loop i rs1 l)))
      | none =>
        if s.x rs1 = 0 then .next (retireTo s (stop + 4))
        else if h : l.toNat < 6 then .next (retireAt (s.mapCtx fun c =>
          { c with loops := c.loops.set l.toNat ⟨s.x rs1, start, stop, 0, true, false⟩ }) start)
        else illegal (.loop i rs1 l) s := by
  intro start stop
  obtain ⟨-, -, -, -, hesc, -⟩ := h.1
  show execLoop i rs1 l s = _
  rw [execLoop, guarded_of_ready h]
  dsimp only
  rw [expectsLoop_of_no_escrow hesc]
  cases loopCheck s.ctx l.toNat start stop with
  | some cause => exact congrArg Host.Outcome.next (raiseTrap_of_ready h cause _)
  | none => rfl

theorem exec_lexit_of_ready {l : BitVec 3} {s : State} (h : Ready (.lexit l) s) :
    exec (.lexit l) s = .next (retire (s.mapCtx fun c => { c with loops := popFrom c.loops l.toNat })) := by
  obtain ⟨-, -, -, -, hesc, -⟩ := h.1
  show execLexit l s = _
  rw [execLexit, guarded_of_ready h, Ctx.escLevel_of_no_escrow hesc]
  rfl

theorem exec_lrd_of_ready {sel : BitVec 5} {rd : XReg} {s : State} (h : Ready (.lrd sel rd) s) : exec (.lrd sel rd) s =
    .next (retire (s.setX rd (levelField (s.ctx.loops.toList.getD (sel.toNat / 4) Level.off) (sel.toNat % 4)))) := by
  show execLrd sel rd s = _
  rw [execLrd, guarded_of_ready h]

end Sys2Proof.Machine

namespace Sys2Proof

open Sys2Proof.Machine

/-- Settles O14: the innermost level that ends its body counts first, and once it is popped the levels below it are as they were. -/
theorem retireEndsIterations : Obligations.RetireEndsIterations := by
  unfold Obligations.RetireEndsIterations
  intro s ends popped next
  refine ⟨fun hnone => ?_, fun k hesc hk hin => ?_, retire_instret_eq s, retire_ctx_x s, retire_ctx_u s, by simp [SameElsewhere],
    by simp [SameCore], by simp [SameVector]⟩
  · rw [retire_pc, retire_loops, fallPast_of_none_ends le_rfl fun j _ => hnone j]
    exact ⟨rfl, rfl⟩
  · have hfall := fallPast_innermost (esc := none) k.isLt le_rfl hk nofun fun j hj _ => hin j hj
    rw [retire_pc, retire_loops, Ctx.escLevel_of_no_escrow hesc, hfall]
    have hbelow {j : Fin 6} (hj : j < k) : (s.ctx.loops.set k.val s.ctx.loops[k].popped)[j] = s.ctx.loops[j] :=
      Level.getElem_set_of_ne hj.ne _
    refine ⟨fun hrem => ?_, fun hrem hout => ?_, fun j hrem hjk hj hbetween hremj => ?_⟩
    · rw [if_neg hrem]
      exact ⟨rfl, rfl⟩
    · rw [if_pos hrem, fallPast_of_none_ends k.isLt.le fun j hj => by rw [hbelow hj]; exact hout j hj]
      exact ⟨rfl, rfl⟩
    · rw [if_pos hrem, fallPast_innermost (esc := none) hjk k.isLt.le (by rw [hbelow hjk]; exact hj) nofun fun i hji hik => by
        rw [hbelow hik]; exact hbetween i hji hik, hbelow hjk, if_neg hremj]
      exact ⟨rfl, rfl⟩

/-- Settles O23: each form from its effect where it is ready. -/
theorem loopFormsComplete : Obligations.LoopFormsComplete := by
  unfold Obligations.LoopFormsComplete
  refine ⟨fun i rs1 l s hl h => ⟨fun cause hc => ?_, fun hc hx => ?_, fun hc hx => ?_⟩, fun l s h => exec_lexit_of_ready h,
    fun sel rd s h => exec_lrd_of_ready h⟩
  · rw [exec_loop_of_ready h, hc]
  · rw [exec_loop_of_ready h, hc]
    exact if_pos hx
  · rw [exec_loop_of_ready h, hc]
    exact (if_neg hx).trans (dif_pos hl)

end Sys2Proof
end

section
/-! SUPPORT. The words that one instruction stores in ascending order (R191, R206) where no escrow loop runs: M-mode, untranslated, on a
calm chip. -/

namespace Sys2Proof.Machine

/-! ## A write on a still chip, seen by the escrow loops (R199) -/

/-- With no escrow loop running anywhere a write squashes nothing. -/
theorem escrowSees_of_idle {s : State} (h : s.ctx.escActive = none) (hc : s.cores.all (fun c => c.2.ctx.esc.isNone) = true) (a n : Nat) :
    escrowSees s a n = s := by
  have hcore : s.core.ctx.escActive.isSome = false := by rw [show s.core.ctx.escActive = none from h]; rfl
  have hcores : s.cores.map (fun p => (p.1, if p.2.ctx.escActive.isSome then
      { p.2 with ctx := squashReaders p.2.ctx (a / 128) ((a + n - 1) / 128) } else p.2)) = s.cores := by
    refine (List.map_congr_left fun p hp => ?_).trans (List.map_id _)
    have hnone : p.2.ctx.esc = none := by simpa using List.all_eq_true.1 hc p hp
    simp [Ctx.escActive, hnone]
  simp [escrowSees, hcore, hcores]

/-- What is left of the hardware's own write on a still chip: the bytes, the reservations it breaks, and what the escrow loops see. -/
theorem rawWrite_still {s : State} (h : s.parts.all Partition.still = true) {bs : List Byte} (hb : bs ≠ []) (k : Nat) (new : Bool)
    (core : Option Nat) (page : Option PageRef) (a : Nat) : rawWrite s k new core page a bs =
      escrowSees (breakResv { s with mem := setBytes s.mem a bs } core a bs.length) a bs.length := by
  have hempty : bs.isEmpty = false := by simpa using hb
  simp only [rawWrite, hempty, Bool.false_eq_true, if_false, snapBefore_still h]
  rw [paintLines_still (s := { s with mem := setBytes s.mem a bs }) h]

theorem wrote_rawWrite_of_idle {s : State} (h : s.Calm) (he : s.ctx.escActive = none) {bs : List Byte} (hb : bs ≠ []) (k : Nat)
    (new : Bool) (core : Option Nat) (page : Option PageRef) (a : Nat) :
    Wrote s (rawWrite s k new core page a bs) (setBytes s.mem a bs) ∧ (rawWrite s k new core page a bs).parts = s.parts := by
  have hw := wrote_breakResv h (setBytes s.mem a bs) core a bs.length
  have hidle : (breakResv { s with mem := setBytes s.mem a bs } core a bs.length).ctx.escActive = none := by rw [hw.ctx_eq]; exact he
  rw [rawWrite_still h.partsStill hb, escrowSees_of_idle hidle hw.calm.noEscrow]
  exact ⟨hw, rfl⟩

/-- Below the Commons a store's bytes are written as the hardware's own. -/
theorem physBytes_below {s : State} (h : s.Calm) {a : Nat} {bs : List Byte} (hb : bs ≠ []) (hlow : a + bs.length ≤ Config.commonsBase)
    (k : Nat) (new : Bool) (w : Writer) (page : Option PageRef) :
    physBytes s k new w page a bs = rawWrite s k new w.core page a bs := by
  have hlen : 0 < bs.length := List.length_pos_iff.2 hb
  have hempty : bs.isEmpty = false := by simpa using hb
  have hbytes : w.bytes s a bs = bs := by
    unfold Writer.bytes
    split <;> [exact softBytes_calm h.partsCalm _ (mail_of_below hlow s); rfl]
  simp only [physBytes, hempty, inCounterBlock_of_below hlow hlen, Bool.or_self, Bool.false_eq_true, if_false,
    mapReaders_still h.partsStill, readJobMap_nil, hbytes]
  exact mailSee_of_disjoint (mail_of_below hlow _)

/-! ## What stands before a word's store -/

/-- Nothing lags, M-mode is untranslated, and no escrow loop runs. -/
structure Untranslated (s : State) : Prop where
  lag : s.lag = false
  priv : s.core.priv = .machine
  mprv : s.core.csr.mstatus.getLsbD bitMPRV = false
  idle : s.ctx.escActive = none

theorem Wrote.untranslated {s t : State} {m : Bytes} (h : Wrote s t m) (hs : Untranslated s) : Untranslated t := by
  obtain ⟨hlag, hpriv, hmprv, hidle⟩ := hs
  rw [h.eq]
  exact ⟨hlag, hpriv, hmprv, hidle⟩

/-- A run of n words in one installed memory below the Commons (R415). -/
structure PlainWords (a : Word) (n : Nat) : Prop where
  aligned : a.toNat % 8 = 0
  installed : physOk a.toNat (8 * n) = true
  below : a.toNat + 8 * n ≤ Config.commonsBase

theorem PlainWords.toNat_next {a : Word} {n : Nat} (h : PlainWords a (n + 1)) : (a + 8).toNat = a.toNat + 8 := by
  have hbelow := h.below
  have hbase : Config.commonsBase = 0x40000000000 := rfl
  rw [BitVec.toNat_add]
  exact Nat.mod_eq_of_lt (by show a.toNat + 8 < 2 ^ 64; omega)

theorem physOk_within {a b m n : Nat} (h : physOk a n = true) (hlo : a ≤ b) (hhi : b + m ≤ a + n) : physOk b m = true := by
  rw [physOk_iff] at *
  omega

theorem PlainWords.next {a : Word} {n : Nat} (h : PlainWords a (n + 1)) : PlainWords (a + 8) n := by
  have haligned := h.aligned
  have hbelow := h.below
  refine ⟨?_, physOk_within h.installed ?_ ?_, ?_⟩ <;> rw [h.toNat_next] <;> omega

theorem PlainWords.access {a : Word} {n : Nat} {s : State} (h : PlainWords a (n + 1)) (hpriv : s.core.priv = .machine)
    (hmprv : s.core.csr.mstatus.getLsbD bitMPRV = false) : PlainAccess s a 8 := by
  have hbelow := h.below
  exact ⟨hpriv, hmprv, h.aligned, physOk_within h.installed le_rfl (by omega), isCommons_of_below (n := 8) (by omega) (by decide)⟩

/-- The run that a plain access of its first word begins, in one installed memory. -/
theorem PlainAccess.words {s : State} {a : Word} {m n : Nat} (h : PlainAccess s a m) (hm : 8 ∣ m) (hn : 0 < n)
    (hok : physOk a.toNat (8 * n) = true) : PlainWords a n := by
  obtain ⟨-, -, hal, -, hcom⟩ := h
  exact ⟨Nat.mod_eq_zero_of_dvd (hm.trans (Nat.dvd_of_mod_eq_zero hal)), hok, below_of_physOk hok hcom (by omega)⟩

/-! ## The stores -/

/-- A computation mapped by a function. -/
theorem Runs.map {α β : Type} {m : M α} {s t : State} {a : α} (h : Runs m s a t) (f : α → β) : Runs (ExceptT.map f m) s (f a) t :=
  h.bind (Runs.pure _ t)

/-- The places of words at ascending addresses. -/
def plainPlaces (a : Word) : List Word → List (Loc × List Byte × Word)
  | [] => []
  | w :: ws => (.phys a.toNat kindRC none, natBytes 8 w.toNat, a) :: plainPlaces (a + 8) ws

theorem natBytes_ne_nil {n : Nat} (hn : 0 < n) (v : Nat) : natBytes n v ≠ [] := by
  rw [← List.length_pos_iff, natBytes_length]
  exact hn

theorem setBytes_append (m : Bytes) (a : Nat) (xs ys : List Byte) :
    setBytes m a (xs ++ ys) = setBytes (setBytes m a xs) (a + xs.length) ys := by
  induction xs generalizing m a with
  | nil => rfl
  | cons x xs ih =>
    rw [List.cons_append, setBytes, ih, setBytes, List.length_cons]
    congr 1
    omega

section
variable {s : State} (hs : Untranslated s) (hc : s.Calm)
include hs hc

theorem runs_storePlace {a : Word} {n : Nat} (h : PlainWords a (n + 1)) :
    Runs (storePlace a 8) s (.phys a.toNat kindRC none) (s.mapCtx (dropDesc a 8)) := by
  have hstill : (s.mapCtx (dropDesc a 8)).parts.all Partition.still = true := hc.partsStill
  have hloc := runs_scalarLoc_plain (acc := .store) (h.access hs.priv hs.mprv) fun _ => frameProtected_calm hc.partsCalm _
  exact hloc.bind (Runs.modify_bind (Runs.get_bind (Runs.ite_neg (by rw [transitHit_still hstill]; exact Bool.false_ne_true)
    (Runs.pure _ _))))

/-- A store of a word is accepted at once: nothing lags, and no barrier or queued access holds M-mode's. -/
theorem runs_acceptStore {a : Nat} {bs : List Byte} (hb : bs ≠ []) (hlow : a + bs.length ≤ Config.commonsBase) (g : Nat) (va : Word) :
    ∃ t, Runs (acceptStore (some g) (.phys a kindRC none) bs va) s () t ∧ Wrote s t (setBytes s.mem a bs) ∧ t.parts = s.parts := by
  have hbehind : heldBehind s (.phys a kindRC none) = none := by
    unfold heldBehind
    split
    · simp [hs.priv]
    · rfl
  have hheld := hc.noHeld
  have hkind : ¬((Loc.phys a kindRC none).kind = kindSO ∧ s.ctx.viq.any memEntry = true) := fun h => absurd h.1 (by decide : kindRC ≠ kindSO)
  have hport : isPort a = false := isPort_of_below hlow
  obtain ⟨hw, hp⟩ := wrote_rawWrite_of_idle hc hs.idle hb s.pidx (colourNew s s.pidx s.ctx) s.writer.core none a
  rw [← physBytes_below hc hb hlow s.pidx (colourNew s s.pidx s.ctx) s.writer none] at hw hp
  refine ⟨_, Runs.get_bind (Runs.ite_neg hkind (Runs.ite_neg ?_ (Runs.ite_neg ?_ (Runs.modify_bind ?_)))), hw, hp⟩
  · simp [hbehind, hs.lag, orderFor_nil hheld, mustWait_nil hheld]
  · simp [hbehind]
  · rw [orderFor_nil hheld]
    refine Runs.get_bind (Runs.ite_neg ?_ (Runs.ite_neg ?_ ?_))
    · simp [mustWait_nil hheld]
    · simp [hport]
    · exact Runs.set s _

omit hs hc in
theorem runs_wordPlaces {a : Word} {ws : List Word} (h : PlainWords a ws.length) (hs : Untranslated s) (hc : s.Calm) :
    ∃ t, Runs (wordPlaces a ws) s (plainPlaces a ws, none) t ∧ Wrote s t s.mem ∧ t.parts = s.parts := by
  induction ws generalizing a s with
  | nil => exact ⟨s, Runs.pure _ s, Wrote.refl hc, rfl⟩
  | cons w ws ih =>
    have hd := wrote_dropDesc hc a 8
    obtain ⟨t, hrun, hw, hp⟩ := ih h.next (hd.untranslated hs) hd.calm
    exact ⟨t, ((runs_storePlace hs hc h).map Except.ok).tryCatch.bind (hrun.bind (Runs.pure _ t)), hd.trans hw, hp⟩

omit hs hc in
theorem runs_acceptWords {a : Word} {ws : List Word} (h : PlainWords a ws.length) (hs : Untranslated s) (hc : s.Calm) (g : Nat) :
    ∃ t, Runs (acceptWords g (plainPlaces a ws)) s none t ∧ Wrote s t (setBytes s.mem a.toNat (wordBytes ws)) ∧ t.parts = s.parts := by
  induction ws generalizing a s with
  | nil => exact ⟨s, Runs.pure _ s, Wrote.refl hc, rfl⟩
  | cons w ws ih =>
    have hlow : a.toNat + (natBytes 8 w.toNat).length ≤ Config.commonsBase := by
      have hbelow := h.below
      rw [List.length_cons] at hbelow
      rw [natBytes_length]
      omega
    obtain ⟨u, hrun, hu, hup⟩ := runs_acceptStore hs hc (natBytes_ne_nil (by decide) w.toNat) hlow g a
    obtain ⟨t, hrest, ht, htp⟩ := ih h.next (hu.untranslated hs) hu.calm
    have hmem : setBytes u.mem (a + 8).toNat (wordBytes ws) = setBytes s.mem a.toNat (wordBytes (w :: ws)) := by
      rw [hu.mem_eq, h.toNat_next, wordBytes, wordBytes, List.flatMap_cons, setBytes_append, natBytes_length]
    refine ⟨t, (hrun.tryCatch.map fun _ => none).tryCatch.bind hrest, ?_, htp.trans hup⟩
    rw [← hmem]
    exact hu.trans ht

/-- R191, R206: the words are in memory, and only the descriptor cache and reservations differ beside them. -/
theorem runs_storeWords {a : Word} {ws : List Word} (h : PlainWords a ws.length) :
    ∃ t, Runs (storeWords a ws) s () t ∧ Wrote s t (setBytes s.mem a.toNat (wordBytes ws)) ∧ t.parts = s.parts := by
  obtain ⟨u, hplaces, hu, hup⟩ := runs_wordPlaces h hs hc
  obtain ⟨t, hwords, ht, htp⟩ := runs_acceptWords h (hu.untranslated hs) hu.calm u.draws
  rw [hu.mem_eq] at ht
  have hclose (held : Held → Bool) (ws : List RunWrite) : closeGranules t held ws = t := by
    rw [closeGranules, coverHeld, ht.calm.noHeld, List.any_nil, if_neg Bool.false_ne_true, granuleBatch_calm ht.calm.noEcc]
  refine ⟨t, hplaces.bind (Runs.get_bind (hwords.bind (Runs.ite_neg nofun (Runs.modify_bind ?_)))), hu.trans ht, htp.trans hup⟩
  rw [hclose]
  dsimp only
  rw [ht.calm.noHeld]
  exact Runs.pure () t

end

end Sys2Proof.Machine
end

section
/-! SUPPORT. The loop stack's image (R191): the bits of its head word, the words of each level, and what `lsave` stores and `lrest`
reads. -/

namespace Sys2Proof.Machine

/-! ## The head word -/

/-- One more bit set above a number's own. -/
theorem testBit_addBit {acc lo : Nat} (hacc : acc < 2 ^ lo) (b : Bool) (i : Nat) :
    (if b then acc + 2 ^ lo else acc).testBit i = if i = lo then b else acc.testBit i := by
  have hacc' : acc.testBit lo = false := Nat.testBit_lt_two_pow hacc
  cases b with
  | false =>
    rw [if_neg Bool.false_ne_true]
    split_ifs with hi
    · rw [hi, hacc']
    · rfl
  | true =>
    rw [if_pos rfl, Nat.add_comm]
    rcases Nat.lt_trichotomy i lo with hi | rfl | hi
    · rw [Nat.testBit_two_pow_add_gt hi, if_neg hi.ne]
    · rw [Nat.testBit_two_pow_add_eq, hacc', if_pos rfl]
      rfl
    · have hle : 2 ^ (lo + 1) ≤ 2 ^ i := Nat.pow_le_pow_right (by decide) hi
      have hsum : 2 ^ lo + acc < 2 ^ i := by rw [Nat.pow_succ] at hle; omega
      rw [Nat.testBit_lt_two_pow hsum, if_neg hi.ne', Nat.testBit_lt_two_pow (by omega)]

/-- Bits set one by one upward: those of the run come from g, those below it are as before. -/
theorem foldl_addBit (g : Nat → Bool) (n lo acc : Nat) (hacc : acc < 2 ^ lo) :
    let r := (upFrom lo n).foldl (fun acc i => if g i then acc + 2 ^ i else acc) acc
    r < 2 ^ (lo + n) ∧ ∀ i, r.testBit i = if lo ≤ i ∧ i < lo + n then g i else acc.testBit i := by
  induction n generalizing lo acc with
  | zero => exact ⟨hacc, fun i => (if_neg (by omega)).symm⟩
  | succ n ih =>
    have hstep : (if g lo then acc + 2 ^ lo else acc) < 2 ^ (lo + 1) := by
      rw [Nat.pow_succ]
      split_ifs
      · omega
      · omega
    obtain ⟨hlt, hbit⟩ := ih (lo + 1) _ hstep
    rw [show lo + 1 + n = lo + (n + 1) by omega] at hlt hbit
    refine ⟨hlt, fun i => (hbit i).trans ?_⟩
    rw [testBit_addBit hacc]
    by_cases hi : i = lo
    · subst hi
      rw [if_neg (show ¬(i + 1 ≤ i ∧ i < i + (n + 1)) by omega), if_pos rfl, if_pos (show i ≤ i ∧ i < i + (n + 1) by omega)]
    · rw [if_neg hi]
      exact if_congr (by omega) rfl rfl

theorem levelBits_lt (ls : Vector Level 6) (f : Level → Bool) : levelBits ls f < 2 ^ 6 := by
  obtain ⟨hlt, -⟩ := foldl_addBit (fun i => f (ls.toList.getD i Level.off)) 6 0 0 (by decide)
  exact hlt

theorem testBit_levelBits (ls : Vector Level 6) (f : Level → Bool) (n : Fin 6) : (levelBits ls f).testBit n = f ls[n] := by
  obtain ⟨-, hbit⟩ := foldl_addBit (fun i => f (ls.toList.getD i Level.off)) 6 0 0 (by decide)
  rw [← Level.getD_toList ls n]
  exact (hbit n).trans (if_pos ⟨n.val.zero_le, by omega⟩)

/-- The head word of an image. -/
def loopHead (c : Ctx) : Nat :=
  levelBits c.loops (fun l => l.act) + levelBits c.loops (fun l => l.act && l.susp) * 256 + (if c.escLevel.isSome then 65536 else 0)

/-- The four words of a level. -/
def Level.words (l : Level) : List Word := if l.act then [l.rem, l.start, l.stop, l.idx] else [0, 0, 0, 0]

theorem Level.words_length (l : Level) : l.words.length = 4 := by
  unfold Level.words
  split <;> rfl

theorem loopImage_eq (c : Ctx) : loopImage c = BitVec.ofNat 64 (loopHead c) :: c.loops.toList.flatMap Level.words := rfl

/-- The head word by its bytes: which levels are active, which are suspended, and the escrow flag. -/
theorem loopHead_eq (c : Ctx) : loopHead c = 2 ^ 8 * (2 ^ 8 * (if c.escLevel.isSome then 1 else 0)
    + levelBits c.loops (fun l => l.act && l.susp)) + levelBits c.loops (fun l => l.act) := by
  unfold loopHead
  split <;> omega

theorem loopHead_act (c : Ctx) (n : Fin 6) : (BitVec.ofNat 64 (loopHead c)).getLsbD n.val = c.loops[n].act := by
  have hlt := levelBits_lt c.loops (fun l => l.act)
  rw [BitVec.getLsbD_ofNat, decide_eq_true (by omega : n.val < 64), Bool.true_and, loopHead_eq,
    Nat.testBit_two_pow_mul_add _ (by omega), if_pos (by omega), testBit_levelBits]

theorem loopHead_susp (c : Ctx) (n : Fin 6) :
    (BitVec.ofNat 64 (loopHead c)).getLsbD (8 + n.val) = (c.loops[n].act && c.loops[n].susp) := by
  have hact := levelBits_lt c.loops (fun l => l.act)
  have hsusp := levelBits_lt c.loops (fun l => l.act && l.susp)
  rw [BitVec.getLsbD_ofNat, decide_eq_true (by omega : 8 + n.val < 64), Bool.true_and, loopHead_eq,
    Nat.testBit_two_pow_mul_add _ (by omega), if_neg (by omega), Nat.testBit_two_pow_mul_add _ (by omega), if_pos (by omega),
    Nat.add_sub_cancel_left, testBit_levelBits]

/-! ## The levels -/

/-- Element j of the i-th run of four. -/
theorem getD_flatMap_four {α β : Type} {f : α → List β} (hf : ∀ x, (f x).length = 4) (xs : List α) (d : β) {i j : Nat} {x : α}
    (hx : xs[i]? = some x) (hj : j < 4) : (xs.flatMap f).getD (4 * i + j) d = (f x).getD j d := by
  induction xs generalizing i with
  | nil => cases hx
  | cons y ys ih =>
    rw [List.flatMap_cons, List.getD_eq_getElem?_getD, List.getD_eq_getElem?_getD]
    cases i with
    | zero =>
      cases hx
      rw [Nat.mul_zero, Nat.zero_add, List.getElem?_append_left (by rw [hf]; exact hj)]
    | succ i =>
      rw [List.getElem?_append_right (by rw [hf]; omega), hf, show 4 * (i + 1) + j - 4 = 4 * i + j by omega]
      rw [← List.getD_eq_getElem?_getD, ← List.getD_eq_getElem?_getD]
      exact ih hx

theorem loopImage_word (c : Ctx) (n : Fin 6) {j : Nat} (hj : j < 4) :
    (loopImage c).getD (1 + 4 * n.val + j) 0 = c.loops[n].words.getD j 0 := by
  have hlevel : c.loops.toList[n.val]? = some c.loops[n] := by simp
  rw [loopImage_eq, show 1 + 4 * n.val + j = 4 * n.val + j + 1 by omega, List.getD_cons_succ]
  exact getD_flatMap_four Level.words_length _ 0 hlevel hj

theorem imageLevel_loopImage (c : Ctx) (n : Fin 6) :
    imageLevel (loopImage c) n.val = if c.loops[n].act then c.loops[n] else Level.off := by
  have hhead : (loopImage c).getD 0 0 = BitVec.ofNat 64 (loopHead c) := rfl
  unfold imageLevel
  dsimp only
  rw [hhead, loopHead_act, loopHead_susp, loopImage_word c n (by decide : 0 < 4), loopImage_word c n (by decide : 1 < 4),
    loopImage_word c n (by decide : 2 < 4), loopImage_word c n (by decide : 3 < 4)]
  generalize c.loops[n] = l
  obtain ⟨rem, start, stop, idx, act, susp⟩ := l
  cases act <;> rfl

theorem loopImage_length (c : Ctx) : (loopImage c).length = 25 := by
  rw [loopImage_eq, List.length_cons, List.length_flatMap]
  have hsum : (c.loops.toList.map fun l => l.words.length) = List.replicate 6 4 :=
    List.eq_replicate_iff.2 ⟨by simp, fun n hn => by
      obtain ⟨l, -, rfl⟩ := List.mem_map.1 hn
      exact l.words_length⟩
  rw [hsum]
  rfl

/-! ## Reading words -/

/-- Words of memory at ascending addresses. -/
def wordsAt (m : Bytes) (a n : Nat) : List Word := (upFrom 0 n).map fun k => leWord (getBytes m (a + 8 * k) 8)

theorem upFrom_succ_lo (lo n : Nat) : upFrom (lo + 1) n = (upFrom lo n).map (· + 1) := by
  induction n generalizing lo with
  | zero => rfl
  | succ n ih => rw [upFrom, upFrom, ih (lo + 1), List.map_cons]

theorem wordsAt_succ (m : Bytes) (a n : Nat) : wordsAt m a (n + 1) = leWord (getBytes m a 8) :: wordsAt m (a + 8) n := by
  have hshift (k : Nat) : a + 8 * (k + 1) = a + 8 + 8 * k := by omega
  rw [wordsAt, wordsAt, upFrom, List.map_cons, upFrom_succ_lo, List.map_map, Nat.mul_zero, Nat.add_zero]
  exact congrArg _ (List.map_congr_left fun k _ => by rw [Function.comp_apply, hshift])

/-- In M-mode, untranslated, with nothing older about, the words of plain memory are read. -/
theorem runs_loadWords {s : State} (hq : Quiet s) (hpriv : s.core.priv = .machine) (hmprv : s.core.csr.mstatus.getLsbD bitMPRV = false)
    {a : Word} {n : Nat} (h : PlainWords a n) : Runs (loadWords a n) s (wordsAt s.mem a.toNat n) s := by
  induction n generalizing a with
  | zero => exact Runs.pure [] s
  | succ n ih =>
    have hbelow := h.below
    have hload := runs_scalarLoad (runs_scalarLoc_plain (acc := .load) (h.access hpriv hmprv) nofun) hq
      (isPort_of_below (n := 8) (by omega))
    rw [wordsAt_succ, ← h.toNat_next]
    exact hload.bind ((ih h.next).bind (Runs.pure _ s))

/-! ## lsave and lrest -/

theorem exec_lsave_of_ready {rs1 : XReg} {s : State} (h : Ready (.lsave rs1) s) (hc : s.Calm) (hp : PlainAccess s (s.x rs1) 8)
    (hok : physOk (s.x rs1).toNat 200 = true) :
    ∃ t, exec (.lsave rs1) s = .next (retire t) ∧ Wrote s t (setBytes s.mem (s.x rs1).toNat (wordBytes (loopImage s.ctx))) := by
  have ⟨hpriv, hmprv, _⟩ := hp
  obtain ⟨hlag, -, -, -, hesc, -⟩ := h.1
  have hwords : PlainWords (s.x rs1) (loopImage s.ctx).length := by
    rw [loopImage_length]
    exact hp.words (dvd_refl 8) (by decide) hok
  obtain ⟨t, hrun, hw, -⟩ := runs_storeWords ⟨hlag, hpriv, hmprv, by simp [Ctx.escActive, hesc]⟩ hc hwords
  refine ⟨t, ?_, hw⟩
  show execLsave rs1 s = _
  rw [execLsave, guarded_of_ready h]
  exact runM_of_runs (Runs.withLevels hc.partsStill (hrun.bind (Runs.modify _ _)))

theorem State.narrow_of_no_escrow {s : State} (h : s.ctx.esc = none) : s.narrow = s := by
  simp [State.narrow, Ctx.escActive, h]

theorem reseatEscrow_of_no_escrow {c : Ctx} (h : c.esc = none) (esc : Bool) (home : Nat) : reseatEscrow c esc home = c := by
  unfold reseatEscrow
  rw [h]

section
variable {rs1 : XReg} {s : State} (h : Ready (.lrest rs1) s) (he : s.ecc = []) (hh : s.heldStores = [])
  (hp : PlainAccess s (s.x rs1) 8) (hok : physOk (s.x rs1).toNat 200 = true)
include h he hh hp hok

theorem runs_lrestWords : Runs (loadWords (s.x rs1) 25) s (wordsAt s.mem (s.x rs1).toNat 25) s := by
  have ⟨hpriv, hmprv, _⟩ := hp
  exact runs_loadWords (h.1.quiet he hh) hpriv hmprv (hp.words (dvd_refl 8) (by decide) hok)

/-- An image that passes the checks replaces the stack. -/
theorem exec_lrest_of_ok (himg : imageOk s.ctx (wordsAt s.mem (s.x rs1).toNat 25) = true) :
    exec (.lrest rs1) s = .next (retire (s.mapCtx fun c =>
      { c with loops := Vector.ofFn fun (i : Fin 6) => imageLevel (wordsAt s.mem (s.x rs1).toNat 25) i.val })) := by
  obtain ⟨-, -, -, -, hesc, -⟩ := h.1
  show execLrest rs1 s = _
  rw [execLrest, guarded_of_ready h]
  refine runM_of_runs ((runs_lrestWords h he hh hp hok).bind (Runs.get_bind (Runs.ite_pos himg ?_)))
  have hseat (esc : Bool) (ls : Vector Level 6) (home : Nat) :
      reseatEscrow { s.ctx with loops := ls } esc home = { s.ctx with loops := ls } :=
    reseatEscrow_of_no_escrow (c := { s.ctx with loops := ls }) hesc esc home
  rw [State.narrow_of_no_escrow hesc]
  show Runs (set (retire (s.setCtx (reseatEscrow { s.ctx with loops := _ } _ _)))) s () _
  rw [hseat]
  exact Runs.set s _

/-- Any other traps. -/
theorem exec_lrest_of_bad (himg : imageOk s.ctx (wordsAt s.mem (s.x rs1).toNat 25) = false) :
    exec (.lrest rs1) s = .next (enterTrap s false cLoop (instrWord (.lrest rs1))) := by
  show execLrest rs1 s = _
  rw [execLrest, guarded_of_ready h]
  exact runM_of_ready_trap h ((runs_lrestWords h he hh hp hok).bind_stops (Stops.get_bind (Stops.ite_neg (ne_true_of_eq_false himg)
    (Stops.trapM _ _ _))))

end

end Sys2Proof.Machine

namespace Sys2Proof

open Sys2Proof.Machine

/-- Settles O24: the words of the image stored and read one after another, and each level's own words in it. -/
theorem loopImageRoundTrip : Obligations.LoopImageRoundTrip := by
  unfold Obligations.LoopImageRoundTrip
  refine ⟨fun rs1 s h hc hwf hp hok => ?_, fun rs1 s h he hh hp hok => ⟨exec_lrest_of_ok h he hh hp hok,
    exec_lrest_of_bad h he hh hp hok⟩, imageLevel_loopImage⟩
  obtain ⟨t, hexec, hw⟩ := exec_lsave_of_ready h hc hp hok
  have hthread := hw.sameThread
  exact ⟨_, hexec, hw.mem_eq, hthread.retire_x 0 0, hthread.retire_pc, hthread.retire_loops, hthread.retire_sameCore 0 0,
    hthread.retire_sameVector 0 0⟩

end Sys2Proof
end

section
/-! SUPPORT. Escrow loops (R194 to R208): the loop that is active, the participant in focus, and what the parts of a participant's
start, its focus and its guess routine leave of the loop. -/

namespace Sys2Proof.Machine

/-! ## The active loop and its focus (R196) -/

theorem Ctx.escActive_eq_some {c : Ctx} {e : Escrow} :
    c.escActive = some e ↔ c.esc = some e ∧ e.level.isSome = true ∧ e.done = false := by
  unfold Ctx.escActive
  cases c.esc with
  | none => simp
  | some e' =>
    dsimp only
    split_ifs with h
    · rw [Bool.and_eq_true, Bool.not_eq_true'] at h
      constructor
      · rintro ⟨⟩
        exact ⟨rfl, h⟩
      · rintro ⟨⟨⟩, -⟩
        rfl
    · refine ⟨nofun, ?_⟩
      rintro ⟨⟨⟩, hl, hd⟩
      exact absurd (by rw [hl, hd]; rfl) h

theorem Ctx.escActive_of_done {c : Ctx} {e : Escrow} (h : c.esc = some e) (hd : e.done = true) : c.escActive = none := by
  simp [Ctx.escActive, h, hd]

theorem Ctx.escActive_of_no_level {c : Ctx} {e : Escrow} (h : c.esc = some e) (hl : e.level = none) : c.escActive = none := by
  simp [Ctx.escActive, h, hl]

theorem Ctx.isSpec_of_idle {c : Ctx} (h : c.escActive = none) : c.isSpec = false := by
  simp [Ctx.isSpec, h]

section
variable {c : Ctx} {e : Escrow} {p : EscPart} (h : c.escActive = some e) (hp : e.focusPart = some p)
include h hp

theorem Ctx.isGuess_eq : c.isGuess = p.guessing := by
  simp [Ctx.isGuess, h, hp]

theorem Ctx.isSpec_eq : c.isSpec = (p.guessing || decide (p.iter ≠ some e.oldest)) := by
  simp [Ctx.isSpec, h, hp]

end

theorem getElem?_setAt_self {α : Type} {xs : List α} {n : Nat} {y : α} (h : xs[n]? = some y) (x : α) : (setAt xs n x)[n]? = some x := by
  rw [setAt_eq_set, List.getElem?_set_self (List.getElem?_eq_some_iff.1 h).1]

theorem getElem?_setAt_ne {α : Type} {m n : Nat} (h : n ≠ m) (xs : List α) (x : α) : (setAt xs n x)[m]? = xs[m]? := by
  rw [setAt_eq_set, List.getElem?_set_ne h]

/-- A participant put in the focus's place. -/
theorem Escrow.focusPart_setAt {e : Escrow} {p : EscPart} (h : e.focusPart = some p) (q : EscPart) :
    ({ e with parts := setAt e.parts e.focus q } : Escrow).focusPart = some q := getElem?_setAt_self h q

/-- The loop with the context's x and pc put back into its focus participant. -/
theorem Ctx.storeFocus_eq {c : Ctx} {e : Escrow} {p : EscPart} (h : e.focusPart = some p) :
    c.storeFocus e = { e with parts := setAt e.parts e.focus { p with x := c.x, pc := c.pc } } := by
  simp [Ctx.storeFocus, h]

/-- The focus moves to a participant: the context takes its x and pc. -/
theorem Ctx.focusOn_eq {c : Ctx} {e : Escrow} {p : EscPart} {k : Nat} (h : c.esc = some e)
    (hp : (c.storeFocus e).parts[k]? = some p) : c.focusOn k = { c with
      x := p.x
      pc := p.pc
      loops := (c.storeFocus e).loopsFor c.loops (p.iter.getD (c.storeFocus e).oldest)
      esc := some { c.storeFocus e with focus := k } } := by
  unfold Ctx.focusOn
  rw [h]
  dsimp only
  rw [hp]

theorem Escrow.withCarries_getElem (e : Escrow) (out : Vector Word 32) (i : Fin 32) :
    (e.withCarries out)[i] = if e.cmask.getLsbD i.val then out[i] else e.entryX[i] := by
  simp [Escrow.withCarries]

/-! ## A guess routine's end (R197) -/

/-- The registers a guess routine ends with: its own carries, or those it started with. -/
def Ctx.guessEndX (c : Ctx) (e : Escrow) (p : EscPart) (keep : Bool) : Vector Word 32 := if keep then e.withCarries c.x else p.guess

/-- The participant after its guess routine. -/
def Ctx.guessEndPart (c : Ctx) (e : Escrow) (p : EscPart) (keep : Bool) : EscPart :=
  { p.clean with iter := p.iter, x := c.guessEndX e p keep, pc := e.bodyStart c.loops, guess := c.guessEndX e p keep }

section
variable {c : Ctx} {e : Escrow} {p : EscPart} (hp : e.focusPart = some p)
include hp

theorem Ctx.endGuess_eq (h : c.esc = some e) (keep : Bool) : c.endGuess keep = { c with
    x := c.guessEndX e p keep
    pc := e.bodyStart c.loops
    esc := some { e with parts := setAt e.parts e.focus (c.guessEndPart e p keep) } } := by
  unfold Ctx.endGuess
  rw [h]
  dsimp only
  rw [hp]
  rfl

theorem Ctx.isGuess_endGuess (h : c.escActive = some e) (keep : Bool) : (c.endGuess keep).isGuess = false := by
  obtain ⟨hesc, hl, hd⟩ := Ctx.escActive_eq_some.1 h
  rw [Ctx.endGuess_eq hp hesc]
  exact (Ctx.isGuess_eq (e := { e with parts := setAt e.parts e.focus (c.guessEndPart e p keep) })
    (Ctx.escActive_eq_some.2 ⟨rfl, hl, hd⟩) (Escrow.focusPart_setAt hp _)).trans rfl

end

/-! ## Participants given their iterations (R198 step 5) -/

/-- Handing out iterations changes the participants alone, not their number. -/
theorem Escrow.fill_eq (e : Escrow) (ls : Vector Level 6) (n k : Nat) :
    ∃ ps, e.fill ls n k = { e with parts := ps } ∧ ps.length = e.parts.length := by
  induction n generalizing e k with
  | zero => exact ⟨e.parts, rfl, rfl⟩
  | succ n ih =>
    unfold Escrow.fill
    split
    · split
      · obtain ⟨ps, hps, hlen⟩ := ih { e with parts := setAt e.parts k _ } (k + 1)
        refine ⟨ps, hps, hlen.trans ?_⟩
        rw [setAt_eq_set, List.length_set]
      · exact ih e (k + 1)
    · exact ⟨e.parts, rfl, rfl⟩
    · exact ⟨e.parts, rfl, rfl⟩

theorem Escrow.fill_length (e : Escrow) (ls : Vector Level 6) (n k : Nat) : (e.fill ls n k).parts.length = e.parts.length := by
  obtain ⟨ps, hps, hlen⟩ := e.fill_eq ls n k
  rw [hps]
  exact hlen

/-! ## Helpers (R49, R195) -/

theorem coreAt_putHelperOf (s : State) (n : Nat) (o : Option Nat) :
    ((s.mapCoreAt n fun c => { c with helperOf := o }).coreAt n).helperOf = o :=
  congrArg Core.helperOf (coreAt_mapCoreAt s n (f := fun c => { c with helperOf := o }) fun _ => rfl)

theorem coreAt_mapCtx_helperOf (s : State) (g : Ctx → Ctx) (n : Nat) : ((s.mapCtx g).coreAt n).helperOf = (s.coreAt n).helperOf := by
  show (if s.core.id = n then _ else _ : Core).helperOf = (if s.core.id = n then _ else _ : Core).helperOf
  split <;> rfl

/-- A listed core after an update of all that leaves cores at reset as they are. -/
theorem findCore_map {f : Core → Core} (hf : ∀ n, f (Core.reset n) = Core.reset n) (cs : List (Nat × Core)) (j : Nat) :
    findCore (cs.map fun p => (p.1, f p.2)) j = f (findCore cs j) := by
  induction cs with
  | nil => exact (hf j).symm
  | cons p cs ih =>
    obtain ⟨k, c⟩ := p
    rw [List.map_cons, findCore, findCore, ih]
    split <;> rfl

/-- A helper of a home core is freed. -/
def Core.freed (home : Nat) (c : Core) : Core := if c.helperOf = some home then { c with helperOf := none } else c

theorem Core.freed_id (home : Nat) (c : Core) : (c.freed home).id = c.id := by
  unfold Core.freed
  split <;> rfl

theorem Core.freed_helperOf (home : Nat) (c : Core) : (c.freed home).helperOf = if c.helperOf = some home then none else c.helperOf := by
  unfold Core.freed
  split <;> rfl

theorem Core.freed_ctx (home : Nat) (c : Core) : (c.freed home).ctx = c.ctx := by
  unfold Core.freed
  split <;> rfl

theorem freeHelpers_eq (s : State) (home : Nat) : s.freeHelpers home =
    { s with core := s.core.freed home, cores := s.cores.map fun p => (p.1, p.2.freed home) } := rfl

theorem coreAt_freeHelpers (s : State) (home n : Nat) : (s.freeHelpers home).coreAt n = (s.coreAt n).freed home := by
  rw [freeHelpers_eq, State.coreAt, State.coreAt, Core.freed_id, findCore_map fun _ => rfl]
  split <;> rfl

theorem coreAt_narrow_helperOf {s : State} {n : Nat} (h : (s.coreAt n).helperOf = none) : (s.narrow.coreAt n).helperOf = none := by
  unfold State.narrow
  split
  · rw [coreAt_freeHelpers, Core.freed_helperOf, coreAt_mapCtx_helperOf, h]
    rfl
  · exact h

/-- R195: the core joins as a participant, and the lowest unstarted iteration is handed out. -/
theorem exec_escrowHelperJoin {n : Nat} {s : State} {e : Escrow} (he : s.ctx.escActive = some e) (hw : e.way = true)
    (hn : e.narrow = false) (hlen : e.parts.length < e.want) (hne : n ≠ s.core.id) (hrib : ribOf n = ribOf s.core.id)
    (hidle : idleCore s n = true) (hcov : covers s n s.ctx.usemask = true) :
    ∃ t, exec (.escrowHelperJoin n) s = .next t ∧ (t.coreAt n).helperOf = some s.core.id
      ∧ t.ctx.esc.map (fun e' => e'.parts.length) = some (e.parts.length + 1) := by
  have hcond : (e.way && !e.narrow && decide (e.parts.length < e.want) && decide (n ≠ s.core.id)
      && decide (ribOf n = ribOf s.core.id) && idleCore s n && covers s n s.ctx.usemask) = true := by
    simp [hw, hn, hlen, hne, hrib, hidle, hcov]
  show ∃ t, execEscrowHelperJoin n s = .next t ∧ _
  unfold execEscrowHelperJoin
  rw [he]
  dsimp only
  rw [if_pos hcond]
  refine ⟨_, rfl, ?_, ?_⟩
  · rw [coreAt_mapCtx_helperOf, coreAt_putHelperOf]
  · exact congrArg some ((Escrow.fill_length _ _ _ _).trans (by rw [List.length_append]; rfl))

/-- R49: the core taken back helps no one, whatever becomes of the loop. -/
theorem exec_escrowHelperReclaim {n k : Nat} {s : State} {e : Escrow} (he : s.ctx.esc = some e)
    (hk : (e.parts.findIdx? fun p => decide (p.core = n) && !p.home) = some k) :
    ∃ t, exec (.escrowHelperReclaim n) s = .next t ∧ (t.coreAt n).helperOf = none := by
  have hfree := coreAt_putHelperOf s n none
  show ∃ t, execEscrowHelperReclaim n s = .next t ∧ _
  unfold execEscrowHelperReclaim
  rw [he]
  dsimp only
  rw [hk]
  dsimp only
  split_ifs
  · exact ⟨_, rfl, by rw [coreAt_mapCtx_helperOf, hfree]⟩
  · exact ⟨_, rfl, coreAt_narrow_helperOf hfree⟩
  · exact ⟨_, rfl, by rw [coreAt_mapCtx_helperOf, hfree]⟩

/-- R200: the context takes the oldest iteration's x and pc. -/
theorem exec_escrowDeferredResume {s : State} {e : Escrow} {p : EscPart} (he : s.ctx.escActive = some e)
    (hp : (s.ctx.storeFocus e).parts[e.oldestPart]? = some p) :
    ∃ t, exec .escrowDeferredResume s = .next t ∧ t.ctx.x = p.x ∧ t.ctx.pc = p.pc := by
  obtain ⟨hesc, -, -⟩ := Ctx.escActive_eq_some.1 he
  have hcore : s.core.ctx.escActive = some e := he
  show ∃ t, execEscrowDeferredResume s = .next t ∧ _
  simp only [execEscrowDeferredResume, State.mapCtx, hcore]
  rw [Ctx.focusOn_eq hesc hp]
  exact ⟨_, rfl, rfl, rfl⟩

/-! ## Opening a loop (R204), and the forms with no loop open (R205 to R208) -/

/-- The eight words of a descriptor that passes the checks give the loop. -/
theorem exec_escOpen_of_ready {rs1 : XReg} {s : State} (h : Ready (.escOpen rs1) s) (he : s.ecc = []) (hh : s.heldStores = [])
    (hsusp : anySusp s.ctx.loops = false) (hp : PlainAccess s (s.x rs1) 64) :
    let w (k : Nat) : Word := leWord (getBytes s.mem ((s.x rs1).toNat + 8 * k) 8)
    escDescOk s (w 0) (w 1) (w 2) = true →
    ∃ e, exec (.escOpen rs1) s = .next (retire (s.mapCtx fun c => { c with esc := some e, escLast := ⟨0, 0, 0, 0⟩ }))
      ∧ e.desc = s.x rs1 ∧ e.expectLoop = true ∧ e.level = none
      ∧ e.cmask = (w 0).extractLsb' 0 32 ∧ e.want = ((w 0).extractLsb' 32 4).toNat ∧ e.gpc = w 1
      ∧ e.cmode = (w 2).extractLsb' 0 16 ∧ e.ncom = 0 ∧ e.nmis = 0 ∧ e.ncon = 0 ∧ e.ndef = 0 := by
  intro w hw
  have ⟨hpriv, hmprv, hal, hok, _⟩ := hp
  obtain ⟨-, -, -, -, hesc, -⟩ := h.1
  have hload := runs_loadWords (h.1.quiet he hh) hpriv hmprv (hp.words (by decide : 8 ∣ 64) (by decide : 0 < 8) hok)
  have hpass : ¬(s.ctx.esc.isSome || anySusp s.ctx.loops || !escDescOk s (w 0) (w 1) (w 2)) = true := by
    simp [hesc, hsusp, hw]
  show ∃ e, execEscOpen rs1 s = _ ∧ _
  rw [execEscOpen, guarded_of_ready h]
  exact ⟨_, runM_of_runs (Runs.ite_neg (not_not.2 hal) (hload.bind (Runs.get_bind (Runs.ite_neg hpass (Runs.set s _))))),
    rfl, rfl, rfl, rfl, rfl, rfl, rfl, rfl, rfl, rfl, rfl⟩

theorem exec_escOpen_misaligned {rs1 : XReg} {s : State} (h : Ready (.escOpen rs1) s) (hm : (s.x rs1).toNat % 64 ≠ 0) :
    exec (.escOpen rs1) s = .next (enterTrap s false cMisLoad (s.x rs1)) := by
  show execEscOpen rs1 s = _
  rw [execEscOpen, guarded_of_ready h]
  exact runM_of_ready_trap h (Stops.ite_pos hm (Stops.trapM _ _ _).bind)

theorem exec_escStat_of_ready {rd : XReg} {s : State} (h : Ready (.escStat rd) s) :
    exec (.escStat rd) s = .next (retire (s.setX rd (BitVec.ofNat 64 (sat16 s.ctx.escLast.ndef * 2 ^ 48
      + sat16 s.ctx.escLast.ncon * 2 ^ 32 + sat16 s.ctx.escLast.nmis * 2 ^ 16 + sat16 s.ctx.escLast.ncom)))) := by
  obtain ⟨-, -, -, -, hesc, -⟩ := h.1
  show execEscStat rd s = _
  rw [execEscStat, guarded_of_ready h, hesc]

theorem atEscEnd_of_no_escrow {c : Ctx} (h : c.esc = none) : atEscEnd c = false := by
  simp [atEscEnd, Ctx.escActive, h]

/-- With no loop open the forms that need one trap ESCROW. -/
theorem exec_escForm_of_none {i : Instr} {s : State} (hi : i = .escClose ∨ i = .escRet ∨ i = .escAbort ∨ ∃ rd, i = .escCmp rd)
    (h : Ready i s) : exec i s = .next (enterTrap s false cEscrow (instrWord i)) := by
  obtain ⟨-, -, -, -, hesc, -⟩ := h.1
  rw [← raiseTrap_of_ready h]
  rcases hi with rfl | rfl | rfl | ⟨rd, rfl⟩
  · show execEscClose s = _
    rw [execEscClose, guarded_of_ready h, hesc]
  · show execEscRet s = _
    rw [execEscRet, guarded_of_ready h, Ctx.isGuess_of_no_escrow hesc]
    rfl
  · show execEscAbort s = _
    rw [execEscAbort, guarded_of_ready h, hesc]
  · show execEscCmp rd s = _
    rw [execEscCmp, guarded_of_ready h, atEscEnd_of_no_escrow hesc]
    rfl

/-! ## The steps of a loop's other agents (R197, R199) -/

theorem exec_guessRoutineEnd {s : State} {e : Escrow} {p : EscPart} (he : s.ctx.escActive = some e) (hp : e.focusPart = some p)
    (hg : p.guessing = true) : exec .guessRoutineEnd s = .next (s.mapCtx fun c => c.endGuess false) := by
  show execGuessRoutineEnd s = _
  rw [execGuessRoutineEnd, Ctx.isGuess_eq he hp, hg]
  rfl

theorem exec_escrowConflictSquash {a : Word} (v : Byte) {s : State} (h : physOk a.toNat 1 = true) :
    exec (.escrowConflictSquash a v) s = .next (physWrite s s.pidx true (.agent .supervisor) none a.toNat [v]) :=
  if_pos h

end Sys2Proof.Machine

namespace Sys2Proof

open Sys2Proof.Machine

/-- Settles O25: the opened loop from the words read, the forms with no loop open, and each agent's step by itself. -/
theorem escrowFormsComplete : Obligations.EscrowFormsComplete := by
  unfold Obligations.EscrowFormsComplete
  refine ⟨⟨fun rs1 s h he hh hsusp hp hw => ?_, fun rs1 s h hm => exec_escOpen_misaligned h hm,
    fun rd s h => exec_escStat_of_ready h, fun i s hi h => exec_escForm_of_none hi h⟩,
    fun s e p he hp hg => ?_, fun n s e => exec_escrowHelperJoin, fun n k s e => exec_escrowHelperReclaim,
    fun a v s h => exec_escrowConflictSquash v h, fun s e p => exec_escrowDeferredResume⟩
  · obtain ⟨e, hexec, hdesc, hloop, hlevel, hrest⟩ := exec_escOpen_of_ready h he hh hsusp hp hw
    have hspec : (s.mapCtx fun c => { c with esc := some e, escLast := ⟨0, 0, 0, 0⟩ }).core.ctx.isSpec = false :=
      Ctx.isSpec_of_idle (Ctx.escActive_of_no_level rfl hlevel)
    obtain ⟨hcmask, hwant, hgpc, hcmode, hncom, hnmis, hncon, hndef⟩ := hrest
    exact ⟨_, e, hexec, retire_ctx_esc _ hspec, hdesc, hloop, hlevel, hcmask, hwant, hgpc, hcmode, hncom, hnmis, hncon, hndef,
      retire_ctx_x _, by simp [SameElsewhere], by simp [SameCore], by simp [SameVector]⟩
  · obtain ⟨hesc, -, -⟩ := Ctx.escActive_eq_some.1 he
    have hend := Ctx.endGuess_eq hp hesc false
    refine ⟨_, exec_guessRoutineEnd he hp hg, ?_, ?_, Ctx.isGuess_endGuess hp he false⟩
    · exact congrArg Ctx.x hend
    · exact congrArg Ctx.pc hend

end Sys2Proof
end

section
/-! SUPPORT. The commit boundary of an escrow loop (R198, R199): one commit at `esc.cmp`, what the oldest iteration keeps while a
commit's stores reach the other iterations' read sets, and the end of the loop. -/

namespace Sys2Proof.Machine

/-! ## The oldest iteration in focus -/

/-- The context holds the oldest iteration of its loop, past its guess routine and not waiting at `esc.cmp`. -/
def Ctx.Leads (c : Ctx) (e : Escrow) : Prop :=
  c.esc = some e ∧ ∃ p, e.focusPart = some p ∧ p.iter = some e.oldest ∧ p.guessing = false ∧ p.waiting = false

theorem Ctx.Leads.isSpec {c : Ctx} {e : Escrow} (h : c.Leads e) : c.isSpec = false := by
  obtain ⟨hesc, p, hp, hiter, hguess, -⟩ := h
  cases hact : c.escActive with
  | none => exact Ctx.isSpec_of_idle hact
  | some e' =>
    obtain ⟨hesc', -⟩ := Ctx.escActive_eq_some.1 hact
    cases hesc.symm.trans hesc'
    rw [Ctx.isSpec_eq hact hp, hguess, hiter]
    simp

/-- c' holds the same iteration as c does, where c stands, with as many commits and mispredictions counted. -/
structure SameLead (c : Ctx) (e : Escrow) (c' : Ctx) (e' : Escrow) : Prop where
  leads : c'.Leads e'
  x : c'.x = c.x
  pc : c'.pc = c.pc
  oldest : e'.oldest = e.oldest
  ncom : e'.ncom = e.ncom
  nmis : e'.nmis = e.nmis

theorem SameLead.refl {c : Ctx} {e : Escrow} (h : c.Leads e) : SameLead c e c e := ⟨h, rfl, rfl, rfl, rfl, rfl⟩

theorem SameLead.trans {a b c : Ctx} {d e f : Escrow} (h : SameLead a d b e) (g : SameLead b e c f) : SameLead a d c f :=
  ⟨g.leads, g.x.trans h.x, g.pc.trans h.pc, g.oldest.trans h.oldest, g.ncom.trans h.ncom, g.nmis.trans h.nmis⟩

/-- R199: a squash restarts speculative iterations only. -/
theorem squashWhere_keeps_lead {c : Ctx} {e : Escrow} (h : c.Leads e) (bad : EscPart → Bool) (conflict : Bool) :
    ∃ e', SameLead c e (squashWhere bad conflict c) e' := by
  unfold squashWhere
  split
  · exact ⟨e, SameLead.refl h⟩
  · obtain ⟨hesc, p, hp, hiter, hguess, hwait⟩ := h
    let p' : EscPart := { p with x := c.x, pc := c.pc }
    have hfocus : (setAt e.parts e.focus p')[e.focus]? = some p' := Escrow.focusPart_setAt hp p'
    simp only [hesc, Ctx.storeFocus_eq hp]
    rw [List.getElem?_map, hfocus, Option.map_some, if_neg (by simp [p', hguess, hiter])]
    refine ⟨_, ⟨rfl, p', ?_, hiter, hguess, hwait⟩, rfl, rfl, rfl, rfl, rfl⟩
    show (List.map _ _)[e.focus]? = _
    rw [List.getElem?_map, hfocus, Option.map_some, if_neg (by simp [p', hguess, hiter])]

/-- R199: what the escrow loops see of a write. -/
theorem escrowSees_keeps_lead {s : State} {e : Escrow} (h : s.ctx.Leads e) (a n : Nat) :
    ∃ e', SameLead s.ctx e (escrowSees s a n).ctx e' := by
  show ∃ e', SameLead s.ctx e (if s.core.ctx.escActive.isSome then _ else s.core : Core).ctx e'
  split
  · exact squashWhere_keeps_lead h _ true
  · exact ⟨e, SameLead.refl h⟩

theorem mailSee_parts_ctx (s : State) (a n : Nat) : (mailSee s a n).parts = s.parts ∧ (mailSee s a n).ctx = s.ctx := by
  unfold mailSee
  generalize upFrom 0 s.nparts = ks
  induction ks generalizing s with
  | nil => exact ⟨rfl, rfl⟩
  | cons k ks ih =>
    rw [List.foldl_cons]
    dsimp only
    split_ifs
    · exact ih { s with mboxWait := _ }
    · exact ih { s with mboxWait := _ }
    · exact ih s

theorem rawWrite_keeps_lead {s : State} {e : Escrow} (hp : s.parts.all Partition.still = true) (h : s.ctx.Leads e) (k : Nat)
    (new : Bool) (core : Option Nat) (page : Option PageRef) (a : Nat) {bs : List Byte} (hb : bs ≠ []) :
    (rawWrite s k new core page a bs).parts = s.parts ∧ ∃ e', SameLead s.ctx e (rawWrite s k new core page a bs).ctx e' := by
  have hctx := breakResv_ctx { s with mem := setBytes s.mem a bs } core a bs.length
  have hlead : (breakResv { s with mem := setBytes s.mem a bs } core a bs.length).ctx.Leads e := by
    rw [hctx]
    exact h
  obtain ⟨e', he'⟩ := escrowSees_keeps_lead hlead a bs.length
  rw [hctx] at he'
  rw [rawWrite_still hp hb]
  exact ⟨rfl, e', he'⟩

/-- A store of an iteration's bytes on a still chip. -/
theorem physBytes_keeps_lead {s : State} {e : Escrow} (hp : s.parts.all Partition.still = true) (h : s.ctx.Leads e) (k : Nat)
    (new : Bool) (w : Writer) (page : Option PageRef) (a : Nat) (bs : List Byte) :
    (physBytes s k new w page a bs).parts = s.parts ∧ ∃ e', SameLead s.ctx e (physBytes s k new w page a bs).ctx e' := by
  unfold physBytes
  split
  · exact ⟨rfl, e, SameLead.refl h⟩
  · rename_i hne
    have hb : w.bytes s a bs ≠ [] := by
      rw [← List.isEmpty_eq_false_iff, Writer.bytes_isEmpty]
      simp only [Bool.or_eq_true, not_or, Bool.not_eq_true] at hne
      exact hne.1
    obtain ⟨hparts, e', he'⟩ := rawWrite_keeps_lead hp h k new w.core page a hb
    dsimp only
    rw [mapReaders_still hp, readJobMap_nil]
    obtain ⟨hmparts, hmctx⟩ := mailSee_parts_ctx (rawWrite s k new w.core page a (w.bytes s a bs)) a bs.length
    rw [hmparts, hmctx]
    exact ⟨hparts, e', he'⟩

/-- R199: a commit's stores leave the iteration that follows where it stands. -/
theorem commitStores_keeps_lead {s : State} {e : Escrow} (hp : s.parts.all Partition.still = true) (hecc : s.ecc = [])
    (h : s.ctx.Leads e) (p : EscPart) : ∃ e', SameLead s.ctx e (commitStores s p).ctx e' := by
  have hgran (rs : List (Nat × Nat)) : rs.foldl (fun t r => granuleRun t r.1 r.2) s = s := by
    induction rs with
    | nil => rfl
    | cons r rs ih => rw [List.foldl_cons, granuleRun_calm hecc, ih]
  unfold commitStores
  dsimp only
  rw [hgran]
  clear hgran hecc
  generalize lineRuns p.written = rs
  induction rs generalizing s e with
  | nil => exact ⟨e, SameLead.refl h⟩
  | cons r rs ih =>
    obtain ⟨hparts, e', he'⟩ := physBytes_keeps_lead hp h s.pidx (colourNew s s.pidx s.ctx) s.writer
      ((p.pages.find? fun q => decide (q.1 = r.1 / 128)).map Prod.snd) r.1 (getBytes p.stores r.1 r.2)
    obtain ⟨e'', he''⟩ := ih (hparts ▸ hp) he'.leads
    exact ⟨e'', he'.trans he''⟩

/-! ## One commit (R198 steps 1 to 3) -/

/-- The loop after its oldest iteration's commit: its carries are the last ones, and the commit is counted. -/
def Escrow.committed (e : Escrow) (out : Vector Word 32) : Escrow :=
  { e with
    outX := Vector.ofFn fun (i : Fin 32) => if e.cmask.getLsbD i.val then out[i] else e.outX[i]
    last := some e.oldest
    ncom := e.ncom + 1
    narrow := false }

section
variable (e : Escrow) (out : Vector Word 32)

@[simp] theorem Escrow.committed_cmask : (e.committed out).cmask = e.cmask := by rw [Escrow.committed]
@[simp] theorem Escrow.committed_entryX : (e.committed out).entryX = e.entryX := by rw [Escrow.committed]
@[simp] theorem Escrow.committed_oldest : (e.committed out).oldest = e.oldest := by rw [Escrow.committed]
@[simp] theorem Escrow.committed_ncom : (e.committed out).ncom = e.ncom + 1 := by rw [Escrow.committed]
@[simp] theorem Escrow.committed_nmis : (e.committed out).nmis = e.nmis := by rw [Escrow.committed]
@[simp] theorem Escrow.committed_level : (e.committed out).level = e.level := by rw [Escrow.committed]
@[simp] theorem Escrow.committed_focus : (e.committed out).focus = e.focus := by rw [Escrow.committed]
@[simp] theorem Escrow.committed_parts : (e.committed out).parts = e.parts := by rw [Escrow.committed]
@[simp] theorem Escrow.committed_focusPart : (e.committed out).focusPart = e.focusPart := by
  rw [Escrow.focusPart, Escrow.committed_parts, Escrow.committed_focus, Escrow.focusPart]
@[simp] theorem Escrow.committed_bodyStart (ls : Vector Level 6) : (e.committed out).bodyStart ls = e.bodyStart ls := by
  simp [Escrow.bodyStart]

end

/-- The loop e' goes on with the iteration of a participant at its start. -/
def State.startAt (s : State) (e' : Escrow) (own : EscPart) : State := s.mapCtx fun c =>
  { c with x := own.x, pc := own.pc, loops := e'.loopsFor c.loops e'.oldest, esc := some e' }

/-- A participant whose iteration is no longer speculative. -/
def EscPart.confirmed (p : EscPart) : EscPart :=
  { p with reads := [], lines := [], stores := [], written := [], writes := [], pages := [], retired := 0, stalled := false, trapped := false }

/-- A committed loop e with the participant k, which ran ahead, as its oldest. -/
def Escrow.confirm (e : Escrow) (out : Vector Word 32) (k : Nat) (p : EscPart) : Escrow :=
  { e with
    parts := setAt (setAt e.parts e.focus ((e.focusPart.map fun q => { q.clean with iter := none, x := out }).getD p)) k p.confirmed
    oldest := e.oldest + 1 }

/-- The context of a committed loop e that goes on with the participant k, which ran ahead. -/
def State.confirmAhead (s : State) (e : Escrow) (k : Nat) (p : EscPart) : State :=
  (s.mapCtx fun c => { c with
    esc := some (e.confirm s.ctx.x k p)
    instret := c.instret + BitVec.ofNat 64 p.retired
    u := { s.ctx.u with vl := p.csrVl.getD s.ctx.u.vl, vxflags := p.csrXf.getD s.ctx.u.vxflags } }).mapCtx fun c => c.focusOn k

/-- A committed loop e whose focus participant starts the next iteration. -/
def Escrow.startNext (e : Escrow) (own : EscPart) : Escrow := { e with parts := setAt e.parts e.focus own, oldest := e.oldest + 1 }

/-- A committed loop e whose next iteration ran ahead on another guess than the carries: the focus participant starts it again. -/
def Escrow.restartNext (e : Escrow) (k : Nat) (p own : EscPart) : Escrow :=
  { e with
    parts := setAt (setAt e.parts k { p.clean with iter := none }) e.focus own
    oldest := e.oldest + 1
    nmis := e.nmis + 1 }

section
variable (e : Escrow) (own : EscPart)

@[simp] theorem Escrow.startNext_oldest : (e.startNext own).oldest = e.oldest + 1 := rfl
@[simp] theorem Escrow.startNext_ncom : (e.startNext own).ncom = e.ncom := rfl
@[simp] theorem Escrow.startNext_nmis : (e.startNext own).nmis = e.nmis := rfl
@[simp] theorem Escrow.restartNext_oldest (k : Nat) (p : EscPart) : (e.restartNext k p own).oldest = e.oldest + 1 := rfl
@[simp] theorem Escrow.restartNext_ncom (k : Nat) (p : EscPart) : (e.restartNext k p own).ncom = e.ncom := rfl
@[simp] theorem Escrow.restartNext_nmis (k : Nat) (p : EscPart) : (e.restartNext k p own).nmis = e.nmis + 1 := rfl

end

section
variable {s : State} {e : Escrow} (he : s.ctx.esc = some e) (rd : XReg)
include he

theorem commitOnce_last (hlast : e.oldest + 1 = e.trip.toNat) : commitOnce s rd false =
    ((finishEscrow ((s.setX rd 1).mapCtx fun c => { c with esc := some (e.committed s.ctx.x) })).setX rd 1, true) := by
  unfold commitOnce
  simp only [Bool.false_eq_true, if_false, he]
  rw [if_pos (decide_eq_true hlast)]
  rfl

variable {q : EscPart} (hq : e.focusPart = some q) (hmore : e.oldest + 1 ≠ e.trip.toNat)
include hq hmore

/-- With no iteration running ahead the next one starts as the oldest. -/
theorem commitOnce_next (hpart : e.partOf (e.oldest + 1) = none) :
    let own := (e.committed s.ctx.x).startOldest s.ctx.loops q (e.oldest + 1)
    commitOnce s rd false = ((s.startAt ((e.committed s.ctx.x).startNext own) own).setX rd 1, false) := by
  unfold Escrow.partOf at hpart
  unfold Escrow.focusPart at hq
  simp only [commitOnce, Bool.false_eq_true, if_false, he, hmore, decide_false, Escrow.partOf, hpart, Option.bind_none,
    Escrow.focusPart, hq, State.startAt, Escrow.startNext, Escrow.committed]

variable {p : EscPart} {k : Nat} (hpart : e.partOf (e.oldest + 1) = some k) (hk : e.parts[k]? = some p)
include hpart hk

omit hq in
/-- An iteration that ran ahead on the carries committed goes on from where it stands. -/
theorem commitOnce_confirm (heq : carriesEqual e p.guess s.ctx.x = true) :
    commitOnce s rd false = ((commitStores (s.confirmAhead (e.committed s.ctx.x) k p) p).setX rd 1, false) := by
  unfold Escrow.partOf at hpart
  unfold carriesEqual at heq
  simp only [commitOnce, Bool.false_eq_true, if_false, he, hmore, decide_false, Escrow.partOf, hpart, Option.bind_some, hk,
    Option.map_some, carriesEqual, heq, if_true, State.confirmAhead, Escrow.confirm, EscPart.confirmed, Escrow.committed, Escrow.focusPart]

/-- One that ran ahead on others starts again. -/
theorem commitOnce_restart (hne : carriesEqual e p.guess s.ctx.x = false) :
    let own := (e.committed s.ctx.x).startOldest s.ctx.loops q (e.oldest + 1)
    commitOnce s rd false = ((s.startAt ((e.committed s.ctx.x).restartNext k p own) own).setX rd 0, false) := by
  unfold Escrow.partOf at hpart
  unfold Escrow.focusPart at hq
  unfold carriesEqual at hne
  simp only [commitOnce, Bool.false_eq_true, if_false, he, hmore, decide_false, Escrow.partOf, hpart, Option.bind_some, hk,
    Option.map_some, carriesEqual, hne, Escrow.focusPart, hq, Option.getD_some, State.startAt, Escrow.restartNext, Escrow.committed]

end

/-! ## The registers and the lead after a commit -/

/-- The registers an iteration starts with after a commit: the carries committed, and the entry values of the others. -/
theorem Escrow.committed_startOldest_x (e : Escrow) (out : Vector Word 32) (ls : Vector Level 6) (q : EscPart) (j : Nat) (i : Fin 32) :
    ((e.committed out).startOldest ls q j).x[i] = if e.cmask.getLsbD i.val then out[i] else e.entryX[i] := by
  have hout : (e.committed out).outX = Vector.ofFn fun (i : Fin 32) => if e.cmask.getLsbD i.val then out[i] else e.outX[i] := rfl
  have hx : ((e.committed out).startOldest ls q j).x = (e.committed out).withCarries (e.committed out).outX := rfl
  rw [hx, Escrow.withCarries_getElem, hout, Escrow.committed_cmask, Escrow.committed_entryX]
  cases hi : e.cmask.getLsbD i.val with
  | true => simp [hi]
  | false => rw [if_neg Bool.false_ne_true, if_neg Bool.false_ne_true]

theorem Ctx.Leads.setX {c : Ctx} {e : Escrow} (h : c.Leads e) (r : XReg) (v : Word) : (c.setX r v).Leads e :=
  ⟨(Ctx.setX_esc c r v).trans h.1, h.2⟩

@[simp] theorem State.startAt_mem (s : State) (e' : Escrow) (own : EscPart) : (s.startAt e' own).mem = s.mem := rfl

theorem leads_startAt {s : State} {e : Escrow} {own : EscPart} (hp : e.focusPart = some own) (hiter : own.iter = some e.oldest)
    (hguess : own.guessing = false) (hwait : own.waiting = false) : (s.startAt e own).ctx.Leads e :=
  ⟨rfl, own, hp, hiter, hguess, hwait⟩

/-- The participant that ran ahead holds the oldest iteration once it is confirmed. -/
theorem confirmAhead_leads {s : State} {e : Escrow} {q p : EscPart} {k : Nat} (hq : e.focusPart = some q) (hk : e.parts[k]? = some p)
    (hne : e.focus ≠ k) (hiter : p.iter = some (e.oldest + 1)) (hguess : p.guessing = false) (hwait : p.waiting = false) :
    ∃ e', (s.confirmAhead e k p).ctx.Leads e' ∧ (s.confirmAhead e k p).ctx.x = p.x ∧ (s.confirmAhead e k p).ctx.pc = p.pc
      ∧ e'.oldest = e.oldest + 1 ∧ e'.ncom = e.ncom ∧ e'.nmis = e.nmis := by
  let own : EscPart := { q.clean with iter := none, x := s.ctx.x }
  have hconfirm : e.confirm s.ctx.x k p =
      { e with parts := setAt (setAt e.parts e.focus own) k p.confirmed, oldest := e.oldest + 1 } := by
    rw [Escrow.confirm, hq]
    rfl
  have hown : (e.confirm s.ctx.x k p).focusPart = some own := by
    rw [hconfirm]
    exact (getElem?_setAt_ne hne.symm _ _).trans (getElem?_setAt_self hq own)
  let c : Ctx := { s.ctx with
    esc := some (e.confirm s.ctx.x k p)
    instret := s.ctx.instret + BitVec.ofNat 64 p.retired
    u := { s.ctx.u with vl := p.csrVl.getD s.ctx.u.vl, vxflags := p.csrXf.getD s.ctx.u.vxflags } }
  have hplace : (c.storeFocus (e.confirm s.ctx.x k p)).parts[k]? = some p.confirmed := by
    rw [Ctx.storeFocus_eq hown, hconfirm]
    refine (getElem?_setAt_ne hne _ _).trans (getElem?_setAt_self (y := p) ?_ p.confirmed)
    exact (getElem?_setAt_ne hne _ _).trans hk
  have hfocus : (s.confirmAhead e k p).ctx = _ := Ctx.focusOn_eq (c := c) rfl hplace
  rw [hfocus]
  refine ⟨_, ⟨rfl, p.confirmed, hplace, ?_, hguess, hwait⟩, rfl, rfl, ?_⟩
  · rw [Ctx.storeFocus_eq hown]
    exact hiter
  · rw [Ctx.storeFocus_eq hown]
    exact ⟨rfl, rfl, rfl⟩

/-! ## The boundary (R198) -/

theorem escActive_of_atEscEnd {c : Ctx} {e : Escrow} (h : atEscEnd c = true) (he : c.esc = some e) :
    c.escActive = some e ∧ c.isGuess = false := by
  unfold atEscEnd at h
  cases hact : c.escActive with
  | none => simp [hact] at h
  | some e' =>
    obtain ⟨he', hlevel, -⟩ := Ctx.escActive_eq_some.1 hact
    cases he.symm.trans he'
    refine ⟨rfl, ?_⟩
    obtain ⟨l, hl⟩ := Option.isSome_iff_exists.1 hlevel
    simp only [hact, hl, Bool.and_eq_true, Bool.not_eq_true'] at h
    exact h.2

/-- The oldest iteration's participant, in focus at its body end. -/
theorem focusPart_of_not_spec {c : Ctx} {e : Escrow} {q : EscPart} (he : c.escActive = some e) (hq : e.focusPart = some q)
    (h : c.isSpec = false) : q.iter = some e.oldest := by
  rw [Ctx.isSpec_eq he hq] at h
  simp only [Bool.or_eq_false_iff, decide_eq_false_iff_not, not_not] at h
  exact h.2

theorem commitAll_of_ends {s t : State} {rd : XReg} {due : Bool} (h : commitOnce s rd due = (t, true)) (n : Nat) :
    commitAll s rd due (n + 1) = (t, true) := by
  rw [commitAll, h]

/-- The commits stop at an iteration that does not wait at `esc.cmp`. -/
theorem commitAll_of_leads {s t : State} {rd : XReg} {due : Bool} {e : Escrow} (h : commitOnce s rd due = (t, false))
    (hl : t.ctx.Leads e) (n : Nat) : commitAll s rd due (n + 1) = (tick t, false) := by
  have hesc : (tick t).ctx.esc = some e := (tick_ctx_esc t hl.isSpec).trans hl.1
  obtain ⟨-, p, hp, -, -, hwait⟩ := hl
  rw [commitAll, h]
  dsimp only
  rw [hesc]
  dsimp only
  rw [hp, Option.any_some, hwait]
  rfl

/-- R199: with memory as it was no CAP word has been written. -/
theorem capsHook_of_mem_eq {s t : State} (h : t.mem = s.mem) : capsHook s t = t := if_pos h

theorem exec_escAtBoundary {rd : XReg} {s : State} {e : Escrow} (hg : gate (.escCmp rd) s = .pass) (he : s.ctx.esc = some e)
    (hend : atEscEnd s.ctx = true) (hspec : s.ctx.isSpec = false) (hheld : s.heldStores = []) (hviq : s.ctx.viq = [])
    (hdue : boundaryDue s = false) (hahead : e.guessAhead (e.oldest + 1) = none) :
    exec (.escCmp rd) s =
      if (commitAll s rd false 9).2 then .next ((retireTo (capsHook s (commitAll s rd false 9).1) (s.ctx.pc + 4)).mapCtx fun c =>
        { c with atPoint := true })
      else .next ((capsHook s (commitAll s rd false 9).1).mapCtx fun c => { c with
        atPoint := true
        esc := c.esc.map fun e => e.fill c.loops e.parts.length 0 }) := by
  obtain ⟨-, hguess⟩ := escActive_of_atEscEnd hend he
  show execEscCmp rd s = _
  rw [execEscCmp, guarded_pass hg, countGuess_of_not_guess hguess]
  simp only [hend, hspec, hviq, hdue, flushHeld_nil hheld, hheld, List.any_nil, Bool.not_true, Bool.false_eq_true, if_false, he,
    Option.bind_some, hahead]

section
variable {rd : XReg} {s : State} {e : Escrow} (hg : gate (.escCmp rd) s = .pass) (he : s.ctx.esc = some e)
  (hend : atEscEnd s.ctx = true) (hspec : s.ctx.isSpec = false) (hheld : s.heldStores = []) (hviq : s.ctx.viq = [])
  (hdue : boundaryDue s = false) (hahead : e.guessAhead (e.oldest + 1) = none)
include hg he hend hspec hheld hviq hdue hahead

/-- A commit after which the loop goes on: the iteration it leaves in focus goes on, and free participants get theirs. -/
theorem exec_escCmp_goesOn {u : State} {e' : Escrow} (hone : commitOnce s rd false = (u, false)) (hl : u.ctx.Leads e')
    (hcaps : capsHook s (tick u) = tick u) : ∃ t e'', exec (.escCmp rd) s = .next t ∧ t.ctx.esc = some e'' ∧ e''.oldest = e'.oldest
      ∧ e''.ncom = e'.ncom ∧ e''.nmis = e'.nmis ∧ t.ctx.pc = u.ctx.pc ∧ t.ctx.x = u.ctx.x := by
  obtain ⟨ps, hfill, -⟩ := e'.fill_eq (tick u).ctx.loops e'.parts.length 0
  have hesc : (tick u).ctx.esc = some e' := (tick_ctx_esc u hl.isSpec).trans hl.1
  have hexec := exec_escAtBoundary hg he hend hspec hheld hviq hdue hahead
  rw [commitAll_of_leads hone hl 8, if_neg Bool.false_ne_true, hcaps] at hexec
  refine ⟨_, { e' with parts := ps }, hexec, ?_, rfl, rfl, rfl, tick_ctx_pc u, tick_ctx_x u⟩
  show ((tick u).ctx.esc.map fun e => e.fill (tick u).ctx.loops e.parts.length 0) = _
  rw [hesc, Option.map_some, hfill]

/-- The last commit: the loop has ended, and `esc.cmp` retires past it. -/
theorem exec_escCmp_ends {u : State} (hone : commitOnce s rd false = (u, true)) (hmem : u.mem = s.mem) :
    exec (.escCmp rd) s = .next ((retireTo u (s.ctx.pc + 4)).mapCtx fun c => { c with atPoint := true }) := by
  have hexec := exec_escAtBoundary hg he hend hspec hheld hviq hdue hahead
  rw [commitAll_of_ends hone 8, if_pos rfl, capsHook_of_mem_eq hmem] at hexec
  exact hexec

end

/-! ## The end of the loop (R198 step 2, R203) -/

/-- The loop stack without the loop's level and those above it. -/
def Escrow.popLevel (e : Escrow) (ls : Vector Level 6) : Vector Level 6 :=
  match e.level with
  | some l => popFrom ls l.toNat
  | none => ls

theorem finishEscrow_ctx {s : State} {e : Escrow} (h : s.ctx.esc = some e) : (finishEscrow s).ctx =
    { s.ctx with x := e.afterX s.ctx.x s.draws, loops := e.popLevel s.ctx.loops, esc := some e.rest } := by
  have hcore : s.core.ctx.esc = some e := h
  cases hl : e.level with
  | none => simp only [finishEscrow, State.ctx, State.mapCtx, State.setCtx, hcore, Escrow.popLevel, hl]
  | some l => simp only [finishEscrow, State.ctx, State.mapCtx, State.setCtx, hcore, Escrow.popLevel, hl]

@[simp] theorem finishEscrow_mem (s : State) : (finishEscrow s).mem = s.mem := by
  unfold finishEscrow
  split
  · rfl
  · dsimp only [State.mapCtx, State.setCtx]

@[simp] theorem Escrow.rest_done (e : Escrow) : e.rest.done = true := rfl
@[simp] theorem Escrow.rest_ncom (e : Escrow) : e.rest.ncom = e.ncom := rfl

theorem Escrow.afterX_carry (e : Escrow) (x : Vector Word 32) (draws : Nat) {i : Fin 32} (h : e.cmask.getLsbD i.val = true) :
    (e.afterX x draws)[i] = x[i] := by
  simp [Escrow.afterX, h]

/-- The carries are the last iteration's. -/
theorem finishEscrow_x_carry {s : State} {e : Escrow} (h : s.ctx.esc = some e) {r : XReg} (hr : e.cmask.getLsbD r.toNat = true) :
    (finishEscrow s).x r = s.x r := by
  show (finishEscrow s).ctx.getX r = s.ctx.getX r
  by_cases h0 : r = 0
  · rw [Ctx.getX, Ctx.getX, if_pos h0, if_pos h0]
  · rw [Ctx.getX, Ctx.getX, if_neg h0, if_neg h0, finishEscrow_ctx h]
    exact e.afterX_carry s.ctx.x s.draws (i := ⟨r.toNat, r.isLt⟩) hr

theorem popFrom_act {n j : Fin 6} (h : n ≤ j) (ls : Vector Level 6) : (popFrom ls n.val)[j].act = false := by
  rw [popFrom_getElem, if_neg (not_lt.2 h)]

theorem Escrow.popLevel_act {e : Escrow} {n j : Fin 6} (h : e.level = some (BitVec.ofNat 3 n.val)) (hj : n ≤ j) (ls : Vector Level 6) :
    (e.popLevel ls)[j].act = false := by
  have hn : (BitVec.ofNat 3 n.val).toNat = n.val := Nat.mod_eq_of_lt (by omega)
  have hpop : e.popLevel ls = popFrom ls n.val := by
    simp only [Escrow.popLevel, h, hn]
  rw [hpop]
  exact popFrom_act hj ls

theorem retireTo_pc (s : State) (np : Word) : (retireTo s np).ctx.pc = (fallPast s.ctx.loops s.ctx.escLevel 6 np).2 :=
  Ctx.countRetired_pc _

theorem retireTo_pc_of_idle {s : State} (h : ∀ j : Fin 6, s.ctx.loops[j].act = false) (pc : Word) :
    (retireTo s (pc + 4)).ctx.pc = pc + 4 := by
  rw [retireTo_pc, fallPast_of_none_ends le_rfl fun j _ hends => Bool.false_ne_true ((h j).symm.trans hends.1)]

end Sys2Proof.Machine
end

section
/-! SUPPORT. `esc.close` (R206): words read where they were stored, the partition's totals in the Commons, and the closed loop. -/

namespace Sys2Proof.Machine

/-! ## Words stored and counters added to -/

theorem wfBytes_wordBytes {m : Bytes} (h : wfBytes m = true) (a : Nat) (ws : List Word) : wfBytes (setBytes m a (wordBytes ws)) = true :=
  wfBytes_setBytes h a _

theorem wordBytes_length (ws : List Word) : (wordBytes ws).length = 8 * ws.length := by
  induction ws with
  | nil => rfl
  | cons w ws ih =>
    rw [wordBytes, List.flatMap_cons, List.length_append, natBytes_length, ← wordBytes, ih, List.length_cons]
    omega

theorem setBytes_wordBytes_cons (m : Bytes) (a : Nat) (w : Word) (ws : List Word) :
    setBytes m a (wordBytes (w :: ws)) = setBytes (setLe m a 8 w.toNat) (a + 8) (wordBytes ws) := by
  rw [wordBytes, List.flatMap_cons, setBytes_append, natBytes_length]
  rfl

theorem getLe_setBytes_out {m : Bytes} (h : wfBytes m = true) {a b k : Nat} {bs : List Byte} (hx : b + k ≤ a ∨ a + bs.length ≤ b) :
    getLe (setBytes m a bs) b k = getLe m b k := by
  unfold getLe
  rw [getBytes_congr fun x hlo hhi => getByte_setBytes_out h a bs x (by omega)]

/-- A word read where a run of words was stored. -/
theorem getLe_wordBytes {m : Bytes} (h : wfBytes m = true) (a : Nat) {ws : List Word} {k : Nat} (hk : k < ws.length) :
    getLe (setBytes m a (wordBytes ws)) (a + 8 * k) 8 = (ws.getD k 0).toNat := by
  induction ws generalizing m a k with
  | nil => exact absurd hk (Nat.not_lt_zero k)
  | cons w ws ih =>
    have hwf : wfBytes (setLe m a 8 w.toNat) = true := wfBytes_setBytes h a _
    rw [setBytes_wordBytes_cons]
    cases k with
    | zero =>
      rw [getLe_setBytes_out hwf (by omega), Nat.mul_zero, Nat.add_zero, getLe_setLe h]
      exact Nat.mod_eq_of_lt w.isLt
    | succ k =>
      rw [show a + 8 * (k + 1) = a + 8 + 8 * k by omega]
      exact ih hwf (a + 8) (Nat.lt_of_succ_lt_succ hk)

/-- Memory with n added to a 64-bit counter. -/
def addLe (m : Bytes) (a n : Nat) : Bytes := setLe m a 8 ((getLe m a 8 + n) % 2 ^ 64)

/-- Memory with words added to counters at ascending addresses. -/
def addWords (m : Bytes) (a : Nat) : List Word → Bytes
  | [] => m
  | w :: ws => addWords (addLe m a w.toNat) (a + 8) ws

theorem wfBytes_addLe {m : Bytes} (h : wfBytes m = true) (a n : Nat) : wfBytes (addLe m a n) = true := wfBytes_setBytes h a _

theorem getByte_addWords_out {m : Bytes} (h : wfBytes m = true) {a x : Nat} {ws : List Word} (hx : x < a ∨ a + 8 * ws.length ≤ x) :
    getByte (addWords m a ws) x = getByte m x := by
  induction ws generalizing m a with
  | nil => rfl
  | cons w ws ih =>
    rw [List.length_cons] at hx
    rw [addWords, ih (wfBytes_addLe h a _) (by omega)]
    exact getByte_natBytes_out h _ (by omega)

theorem getLe_addWords_out {m : Bytes} (h : wfBytes m = true) {a b k : Nat} {ws : List Word} (hx : b + k ≤ a ∨ a + 8 * ws.length ≤ b) :
    getLe (addWords m a ws) b k = getLe m b k := by
  unfold getLe
  rw [getBytes_congr fun x hlo hhi => getByte_addWords_out h (by omega)]

/-- Each counter takes its own word. -/
theorem getLe_addWords {m : Bytes} (h : wfBytes m = true) (a : Nat) {ws : List Word} {k : Nat} (hk : k < ws.length) :
    getLe (addWords m a ws) (a + 8 * k) 8 = (getLe m (a + 8 * k) 8 + (ws.getD k 0).toNat) % 2 ^ 64 := by
  induction ws generalizing m a k with
  | nil => exact absurd hk (Nat.not_lt_zero k)
  | cons w ws ih =>
    have hwf := wfBytes_addLe h a w.toNat
    rw [addWords]
    cases k with
    | zero =>
      rw [getLe_addWords_out hwf (by omega), Nat.mul_zero, Nat.add_zero, addLe, getLe_setLe h]
      exact Nat.mod_eq_of_lt (Nat.mod_lt _ (by decide))
    | succ k =>
      rw [show a + 8 * (k + 1) = a + 8 + 8 * k by omega, ih hwf (a + 8) (Nat.lt_of_succ_lt_succ hk), addLe,
        getLe_setLe_out h _ (by omega)]
      rfl

/-! ## The counters of a partition (Table 16.2) -/

theorem nparts_cases (s : State) : s.nparts = 1 ∨ s.nparts = 2 ∨ s.nparts = 4 ∨ s.nparts = 8 ∨ s.nparts = 16 := by
  have hle : min s.pcnt.toNat 4 ≤ 4 := Nat.min_le_right _ _
  unfold State.nparts
  interval_cases min s.pcnt.toNat 4 <;> decide

/-- The partition of a core that is no clerk is one of those in force. -/
theorem pidx_lt_nparts {s : State} (h : isClerk s.core.id = false) : s.pidx < s.nparts := by
  have hid : s.core.id < 256 := by simpa [isClerk] using h
  unfold State.pidx State.partOfCore
  rw [ribOf, if_pos hid]
  rcases nparts_cases s with hn | hn | hn | hn | hn <;> rw [hn] <;> omega

/-- A counter block lies in the Commons. -/
theorem counterBlock_le {s : State} {k : Nat} (hk : k < s.nparts) : counterBlock s k + 4096 ≤ Config.commonsBytes := by
  have hbytes : Config.commonsBytes = 48 * 0x400000 := rfl
  rw [hbytes, counterBlock]
  rcases nparts_cases s with hn | hn | hn | hn | hn <;> rw [hn] at hk ⊢ <;> omega

theorem privOk_of_gate_pass {i : Instr} {s : State} (h : gate i s = .pass) : privOk s (opAttr i) = true := by
  by_contra hp
  rw [Bool.not_eq_true] at hp
  unfold gate at h
  dsimp only at h
  rw [hp] at h
  split at h
  · cases h
  · split at h <;> cases h

theorem wrote_bump {s : State} (h : s.Calm) (he : s.ctx.escActive = none) (k off n : Nat) :
    Wrote s (bump s k off n) (addLe s.mem (Config.commonsBase + counterBlock s k + off) n) := by
  obtain ⟨hw, -⟩ := wrote_rawWrite_of_idle h he (natBytes_ne_nil (by decide : 0 < 8)
    ((getLe s.mem (Config.commonsBase + counterBlock s k + off) 8 + n) % 2 ^ 64)) k true none none
    (Config.commonsBase + counterBlock s k + off)
  exact hw

theorem Wrote.counterBlock_eq {s t : State} {m : Bytes} (h : Wrote s t m) (k : Nat) : counterBlock t k = counterBlock s k := by
  rw [h.eq]
  rfl

theorem Wrote.escActive_eq {s t : State} {m : Bytes} (h : Wrote s t m) : t.ctx.escActive = s.ctx.escActive := by
  rw [h.ctx_eq]
  rfl

/-- The four counters of a loop, in the order of its descriptor. -/
def Escrow.counters (e : Escrow) : List Word := [e.ncom, e.nmis, e.ncon, e.ndef]

/-- The loop's counters are added to the partition's. -/
theorem wrote_bumpEscrow {s : State} (h : s.Calm) (he : s.ctx.escActive = none) (k : Nat) (e : Escrow) :
    Wrote s (bumpEscrow s k e) (addWords s.mem (Config.commonsBase + counterBlock s k + 0x38) e.counters) := by
  have h1 := wrote_bump h he k 0x38 e.ncom.toNat
  have h2 := wrote_bump h1.calm (h1.escActive_eq.trans he) k 0x40 e.nmis.toNat
  rw [h1.mem_eq, h1.counterBlock_eq] at h2
  have h12 := h1.trans h2
  have h3 := wrote_bump h12.calm (h12.escActive_eq.trans he) k 0x48 e.ncon.toNat
  rw [h12.mem_eq, h12.counterBlock_eq] at h3
  have h123 := h12.trans h3
  have h4 := wrote_bump h123.calm (h123.escActive_eq.trans he) k 0x50 e.ndef.toNat
  rw [h123.mem_eq, h123.counterBlock_eq] at h4
  exact h123.trans h4

end Sys2Proof.Machine
end

section
/-! SUPPORT. The escrow instructions (R197, R198, R203, R206): a commit with and without an iteration running ahead, the last commit, and
the loop's abort, close and guess routine's return. -/

namespace Sys2Proof.Machine

/-! ## Registers -/

theorem Ctx.setX_x_getElem_ne (c : Ctx) (r : XReg) (v : Word) {i : Fin 32} (h : i.val ≠ r.toNat) : (c.setX r v).x[i] = c.x[i] := by
  unfold Ctx.setX
  split
  · rfl
  · exact Vector.getElem_set_ne r.isLt i.isLt h.symm

theorem State.x_eq_getElem (s : State) {r : XReg} (hr : r ≠ 0) : s.x r = s.ctx.x[(⟨r.toNat, r.isLt⟩ : Fin 32)] := if_neg hr

theorem State.x_congr {s t : State} (h : t.ctx.x = s.ctx.x) (r : XReg) : t.x r = s.x r := by
  rw [State.x, State.x, Ctx.getX, Ctx.getX, h]

/-! ## The last commit (R198 step 2) -/

theorem commitOnce_ends {s : State} {e : Escrow} (he : s.ctx.esc = some e) (rd : XReg) (hlast : e.oldest + 1 = e.trip.toNat) :
    ∃ t, commitOnce s rd false = (t, true) ∧ t.mem = s.mem ∧ t.ctx.esc = some (e.committed s.ctx.x).rest ∧ (rd ≠ 0 → t.x rd = 1)
      ∧ (∀ r : XReg, r ≠ rd → e.cmask.getLsbD r.toNat = true → t.x r = s.x r)
      ∧ (e.level = some 0 → ∀ j : Fin 6, t.ctx.loops[j].act = false) := by
  let u : State := (s.setX rd 1).mapCtx fun c => { c with esc := some (e.committed s.ctx.x) }
  have hu : u.ctx.esc = some (e.committed s.ctx.x) := rfl
  have hctx := finishEscrow_ctx hu
  refine ⟨(finishEscrow u).setX rd 1, commitOnce_last he rd hlast, (finishEscrow u).setX_mem rd 1 |>.trans (finishEscrow_mem u), ?_,
    fun h0 => Ctx.getX_setX_same h0 _ 1, fun r hr hc => ?_, fun hlevel j => ?_⟩
  · exact (Ctx.setX_esc _ _ _).trans (by rw [hctx])
  · calc ((finishEscrow u).setX rd 1).x r = (finishEscrow u).x r := Ctx.getX_setX_ne hr _ 1
      _ = u.x r := finishEscrow_x_carry hu (by rwa [Escrow.committed_cmask])
      _ = s.x r := Ctx.getX_setX_ne hr _ 1
  · have hloops : ((finishEscrow u).setX rd 1).ctx.loops = (e.committed s.ctx.x).popLevel u.ctx.loops :=
      (Ctx.setX_loops _ _ _).trans (by rw [hctx])
    rw [hloops]
    exact Escrow.popLevel_act (n := 0) ((e.committed_level _).trans hlevel) (Fin.zero_le j) _

/-! ## A commit after which the loop goes on (R198) -/

section
variable {rd : XReg} {s : State} {e : Escrow} (hg : gate (.escCmp rd) s = .pass) (he : s.ctx.esc = some e)
  (hend : atEscEnd s.ctx = true) (hspec : s.ctx.isSpec = false) (hheld : s.heldStores = []) (hviq : s.ctx.viq = [])
  (hdue : boundaryDue s = false)
include hg he hend hspec hheld hviq hdue

/-- The next iteration starts at its body's start, with the carries of this one and the entry values of every other register. -/
theorem exec_escCmp_starts {q : EscPart} {e' : Escrow} {v : Word} (hahead : e.guessAhead (e.oldest + 1) = none)
    (hone : let own := (e.committed s.ctx.x).startOldest s.ctx.loops q (e.oldest + 1)
      commitOnce s rd false = ((s.startAt e' own).setX rd v, false) ∧ e'.focusPart = some own)
    (hold : e'.oldest = e.oldest + 1) :
    ∃ t e'', exec (.escCmp rd) s = .next t ∧ t.ctx.pc = e.bodyStart s.ctx.loops ∧ (rd ≠ 0 → t.x rd = v)
      ∧ (∀ i : Fin 32, i.val ≠ rd.toNat → t.ctx.x[i] = if e.cmask.getLsbD i.val then s.ctx.x[i] else e.entryX[i])
      ∧ t.ctx.esc = some e'' ∧ e''.oldest = e.oldest + 1 ∧ e''.ncom = e'.ncom ∧ e''.nmis = e'.nmis := by
  obtain ⟨hone, hfocus⟩ := hone
  have hlead := leads_startAt (s := s) hfocus (congrArg some hold.symm) rfl rfl
  obtain ⟨t, e'', hexec, hesc, hold', hncom, hnmis, hpc, hx⟩ := exec_escCmp_goesOn hg he hend hspec hheld hviq hdue hahead hone
    (hlead.setX rd v) (capsHook_of_mem_eq (by simp))
  refine ⟨t, e'', hexec, ?_, fun hrd => ?_, fun i hi => ?_, hesc, hold'.trans hold, hncom, hnmis⟩
  · rw [hpc]
    exact (Ctx.setX_pc _ _ _).trans (e.committed_bodyStart _ _)
  · rw [State.x_congr hx]
    exact Ctx.getX_setX_same hrd _ v
  · rw [hx]
    exact (Ctx.setX_x_getElem_ne _ _ _ hi).trans (e.committed_startOldest_x s.ctx.x s.ctx.loops q (e.oldest + 1) i)

variable {q : EscPart} (hq : e.focusPart = some q)
include hq

theorem exec_escCmp_next (hpart : e.partOf (e.oldest + 1) = none) (hmore : e.oldest + 1 ≠ e.trip.toNat) :
    ∃ t e', exec (.escCmp rd) s = .next t ∧ t.ctx.pc = e.bodyStart s.ctx.loops ∧ (rd ≠ 0 → t.x rd = 1)
      ∧ (∀ i : Fin 32, i.val ≠ rd.toNat → t.ctx.x[i] = if e.cmask.getLsbD i.val then s.ctx.x[i] else e.entryX[i])
      ∧ t.ctx.esc = some e' ∧ e'.oldest = e.oldest + 1 ∧ e'.ncom = e.ncom + 1 ∧ e'.nmis = e.nmis := by
  have hahead : e.guessAhead (e.oldest + 1) = none := by rw [Escrow.guessAhead, hpart]; rfl
  obtain ⟨t, e', hexec, hpc, hrd, hx, hesc, hold, hncom, hnmis⟩ := exec_escCmp_starts hg he hend hspec hheld hviq hdue (q := q)
    (e' := (e.committed s.ctx.x).startNext ((e.committed s.ctx.x).startOldest s.ctx.loops q (e.oldest + 1))) hahead
    ⟨commitOnce_next he rd hq hmore hpart, Escrow.focusPart_setAt ((e.committed_focusPart _).trans hq) _⟩
    (by simp)
  exact ⟨t, e', hexec, hpc, hrd, hx, hesc, hold, hncom.trans (by simp), hnmis.trans (by simp)⟩

omit hq in
/-- The last commit: the loop ends, and the carries are this iteration's. -/
theorem exec_escCmp_last (hpart : e.partOf (e.oldest + 1) = none) (hlast : e.oldest + 1 = e.trip.toNat) :
    ∃ t e', exec (.escCmp rd) s = .next t ∧ t.ctx.esc = some e' ∧ e'.done = true ∧ e'.ncom = e.ncom + 1 ∧ (rd ≠ 0 → t.x rd = 1)
      ∧ (∀ r : XReg, r ≠ rd → e.cmask.getLsbD r.toNat = true → t.x r = s.x r) ∧ (e.level = some 0 → t.ctx.pc = s.ctx.pc + 4) := by
  have hahead : e.guessAhead (e.oldest + 1) = none := by rw [Escrow.guessAhead, hpart]; rfl
  obtain ⟨t, hone, hmem, hesc, hrd, hcarry, hidle⟩ := commitOnce_ends he rd hlast
  have hspec' : t.ctx.isSpec = false := Ctx.isSpec_of_idle (Ctx.escActive_of_done hesc (Escrow.rest_done _))
  have hexec := exec_escCmp_ends hg he hend hspec hheld hviq hdue hahead hone hmem
  have hx (r : XReg) : ((retireTo t (s.ctx.pc + 4)).mapCtx fun c => { c with atPoint := true }).x r = t.x r :=
    State.x_congr (retireTo_ctx_x t _) r
  refine ⟨_, (e.committed s.ctx.x).rest, hexec, (retireTo_ctx_esc t _ hspec').trans hesc, Escrow.rest_done _, by simp,
    fun h0 => (hx rd).trans (hrd h0), fun r hr hc => (hx r).trans (hcarry r hr hc), fun hlevel => ?_⟩
  exact retireTo_pc_of_idle (hidle hlevel) s.ctx.pc

end

/-! ## A commit with an iteration running ahead (R198 steps 1 and 3) -/

theorem Escrow.partOf_iter {e : Escrow} {j k : Nat} {p : EscPart} (h : e.partOf j = some k) (hk : e.parts[k]? = some p) :
    p.iter = some j := by
  obtain ⟨hlt, hiter, -⟩ := List.findIdx?_eq_some_iff_getElem.1 h
  rw [List.getElem?_eq_getElem hlt] at hk
  cases hk
  exact of_decide_eq_true hiter

theorem Escrow.guessAhead_none {e : Escrow} {j k : Nat} {p : EscPart} (h : e.partOf j = some k) (hk : e.parts[k]? = some p)
    (hguess : p.guessing = false) : e.guessAhead j = none := by
  rw [Escrow.guessAhead, h, Option.bind_some, hk, Option.any_some, hguess]
  rfl

theorem Escrow.restartNext_focusPart {e : Escrow} {q : EscPart} (hq : e.focusPart = some q) (k : Nat) (p own : EscPart) :
    (e.restartNext k p own).focusPart = some own := by
  obtain ⟨hlt, -⟩ := List.getElem?_eq_some_iff.1 hq
  show (setAt (setAt e.parts k _) e.focus own)[e.focus]? = some own
  rw [setAt_eq_set, setAt_eq_set, List.getElem?_set_self (by rwa [List.length_set])]

/-- The registers a next iteration starts with, read as registers. -/
theorem State.x_of_start {s t : State} {e : Escrow} {rd r : XReg} (hne : r ≠ rd) (hr : r ≠ 0)
    (h : ∀ i : Fin 32, i.val ≠ rd.toNat → t.ctx.x[i] = if e.cmask.getLsbD i.val then s.ctx.x[i] else e.entryX[i]) :
    t.x r = if e.cmask.getLsbD r.toNat then s.ctx.x[r.toNat] else e.entryX[r.toNat] := by
  rw [State.x_eq_getElem t hr]
  exact h ⟨r.toNat, r.isLt⟩ fun hv => hne (BitVec.eq_of_toNat_eq hv)

section
variable {rd : XReg} {s : State} {e : Escrow} {q p : EscPart} {k : Nat} (hg : gate (.escCmp rd) s = .pass) (he : s.ctx.esc = some e)
  (hend : atEscEnd s.ctx = true) (hspec : s.ctx.isSpec = false) (hheld : s.heldStores = []) (hviq : s.ctx.viq = [])
  (hdue : boundaryDue s = false) (hq : e.focusPart = some q) (hpart : e.partOf (e.oldest + 1) = some k)
  (hk : e.parts[k]? = some p) (hguess : p.guessing = false) (hmore : e.oldest + 1 ≠ e.trip.toNat)
include hg he hend hspec hheld hviq hdue hq hpart hk hguess hmore

/-- An iteration that ran ahead on other carries starts again. -/
theorem exec_escCmp_restart (hne : carriesEqual e p.guess s.ctx.x = false) :
    ∃ t e', exec (.escCmp rd) s = .next t ∧ t.ctx.pc = e.bodyStart s.ctx.loops ∧ (rd ≠ 0 → t.x rd = 0)
      ∧ (∀ i : Fin 32, i.val ≠ rd.toNat → t.ctx.x[i] = if e.cmask.getLsbD i.val then s.ctx.x[i] else e.entryX[i])
      ∧ t.ctx.esc = some e' ∧ e'.oldest = e.oldest + 1 ∧ e'.ncom = e.ncom + 1 ∧ e'.nmis = e.nmis + 1 := by
  let own := (e.committed s.ctx.x).startOldest s.ctx.loops q (e.oldest + 1)
  have hfocus := Escrow.restartNext_focusPart (e := e.committed s.ctx.x) ((e.committed_focusPart _).trans hq) k p own
  obtain ⟨t, e', hexec, hpc, hrd, hx, hesc, hold, hncom, hnmis⟩ := exec_escCmp_starts hg he hend hspec hheld hviq hdue (q := q)
    (e' := (e.committed s.ctx.x).restartNext k p own) (Escrow.guessAhead_none hpart hk hguess)
    ⟨commitOnce_restart he rd hq hmore hpart hk hne, hfocus⟩ (by simp)
  exact ⟨t, e', hexec, hpc, hrd, hx, hesc, hold, hncom.trans (by simp), hnmis.trans (by simp)⟩

/-- One that ran ahead on the carries committed goes on from where it stands. -/
theorem exec_escCmp_confirm (hcalm : s.Calm) (hwait : p.waiting = false) (heq : carriesEqual e p.guess s.ctx.x = true) :
    ∃ t e', exec (.escCmp rd) s = .next t ∧ t.ctx.esc = some e' ∧ e'.oldest = e.oldest + 1 ∧ e'.ncom = e.ncom + 1
      ∧ e'.nmis = e.nmis ∧ t.ctx.pc = p.pc ∧ (rd ≠ 0 → t.x rd = 1) ∧ ∀ r : XReg, r ≠ rd → r ≠ 0 → t.x r = p.x[r.toNat] := by
  have hiter := Escrow.partOf_iter hpart hk
  have hne : e.focus ≠ k := by
    rintro rfl
    have hold := focusPart_of_not_spec (escActive_of_atEscEnd hend he).1 hq hspec
    rw [Escrow.focusPart, hk] at hq
    cases hq
    rw [hiter] at hold
    injection hold with hold
    omega
  obtain ⟨e₁, hlead, hx₁, hpc₁, hold₁, hncom₁, hnmis₁⟩ := confirmAhead_leads (s := s) (e := e.committed s.ctx.x) (q := q) (p := p) (k := k)
    (by rwa [Escrow.committed_focusPart]) (by rwa [Escrow.committed_parts]) (by rwa [Escrow.committed_focus])
    (by rwa [Escrow.committed_oldest]) hguess hwait
  rw [Escrow.committed_oldest] at hold₁
  rw [Escrow.committed_ncom] at hncom₁
  rw [Escrow.committed_nmis] at hnmis₁
  have hparts : (s.confirmAhead (e.committed s.ctx.x) k p).parts = s.parts := rfl
  have hecc : (s.confirmAhead (e.committed s.ctx.x) k p).ecc = s.ecc := rfl
  obtain ⟨e₂, hsame⟩ := commitStores_keeps_lead (hparts ▸ hcalm.partsStill) (hecc.trans hcalm.noEcc) hlead p
  obtain ⟨t, e', hexec, hesc, hold, hncom, hnmis, hpc, hx⟩ := exec_escCmp_goesOn hg he hend hspec hheld hviq hdue
    (Escrow.guessAhead_none hpart hk hguess) (commitOnce_confirm he rd hmore hpart hk heq) (hsame.leads.setX rd 1)
    (capsHook_still s hcalm.partsStill _)
  refine ⟨t, e', hexec, hesc, hold.trans (hsame.oldest.trans hold₁), hncom.trans (hsame.ncom.trans hncom₁),
    hnmis.trans (hsame.nmis.trans hnmis₁), ?_, fun hrd => ?_, fun r hr h0 => ?_⟩
  · rw [hpc]
    exact (Ctx.setX_pc _ _ _).trans (hsame.pc.trans hpc₁)
  · rw [State.x_congr hx]
    exact Ctx.getX_setX_same hrd _ 1
  · rw [State.x_congr hx]
    refine (Ctx.getX_setX_ne hr _ 1).trans ?_
    rw [Ctx.getX, if_neg h0, hsame.x, hx₁]

end

end Sys2Proof.Machine
end

section
/-! SUPPORT. `esc.close`, `esc.abort` and `esc.ret` (R197, R203, R206), and the obligations about escrow loops. -/

namespace Sys2Proof.Machine

theorem Ctx.isGuess_of_idle {c : Ctx} (h : c.escActive = none) : c.isGuess = false := by
  simp [Ctx.isGuess, h]

theorem retire_helperOf (s : State) (n : Nat) : ((retire s).coreAt n).helperOf = (s.coreAt n).helperOf := by
  show (if s.core.id = n then _ else _ : Core).helperOf = (if s.core.id = n then _ else _ : Core).helperOf
  split <;> rfl

/-! ## Closing a loop (R206) -/

/-- Memory after `esc.close`: the counters in the descriptor at a, and added to those at b. -/
def closedMem (m : Bytes) (a b : Nat) (cs : List Word) : Bytes := addWords (setBytes m a (wordBytes cs)) b cs

section
variable {m : Bytes} (hm : wfBytes m = true) {a b : Nat} {cs : List Word} (hab : a + 8 * cs.length ≤ b)
include hm hab

theorem closedMem_descriptor {k : Nat} (hk : k < cs.length) : getLe (closedMem m a b cs) (a + 8 * k) 8 = (cs.getD k 0).toNat := by
  rw [closedMem, getLe_addWords_out (wfBytes_wordBytes hm a cs) (by omega), getLe_wordBytes hm a hk]

theorem closedMem_counter {k : Nat} (hk : k < cs.length) :
    getLe (closedMem m a b cs) (b + 8 * k) 8 = (getLe m (b + 8 * k) 8 + (cs.getD k 0).toNat) % 2 ^ 64 := by
  rw [closedMem, getLe_addWords (wfBytes_wordBytes hm a cs) b hk,
    getLe_setBytes_out hm (Or.inr (by rw [wordBytes_length]; omega))]

omit hab in
theorem closedMem_out {x : Nat} (ha : x < a ∨ a + 8 * cs.length ≤ x) (hb : x < b ∨ b + 8 * cs.length ≤ x) :
    getByte (closedMem m a b cs) x = getByte m x := by
  rw [closedMem, getByte_addWords_out (wfBytes_wordBytes hm a cs) hb, getByte_setBytes_out hm a _ x (by rwa [wordBytes_length])]

end

/-- The closed loop leaves its counters, and its helpers are free. -/
def State.closeLoop (s : State) (home : Nat) (e : Escrow) : State :=
  (s.freeHelpers home).mapCtx fun c => { c with esc := none, escLast := ⟨e.ncom, e.nmis, e.ncon, e.ndef⟩ }

/-- The partition's escrow counters lie in the Commons. -/
theorem counters_inCommons {i : Instr} {s : State} (hg : gate i s = .pass) (hi : (opAttr i).group = .seq) :
    counterBlock s s.pidx + 4096 ≤ Config.commonsBytes := by
  have hpriv := privOk_of_gate_pass hg
  unfold privOk at hpriv
  rw [hi] at hpriv
  simp only [Bool.and_eq_true, Bool.not_eq_true'] at hpriv
  exact counterBlock_le (pidx_lt_nparts hpriv.2)

section
variable {s : State} {e : Escrow} (hg : gate .escClose s = .pass) (he : s.ctx.esc = some e) (hd : e.done = true) (hlag : s.lag = false)
  (hc : s.Calm) (hp : PlainAccess s (e.desc + 32) 32)
include hg he hd hlag hc hp

theorem exec_escClose_of_done : ∃ u, exec .escClose s = .next (retire (u.closeLoop s.core.id e)) ∧ Wrote s u
    (closedMem s.mem (e.desc + 32).toNat (Config.commonsBase + counterBlock s s.pidx + 0x38) e.counters) := by
  have hidle := Ctx.escActive_of_done he hd
  have ⟨hpriv, hmprv, _, hok, _⟩ := hp
  have hwords : PlainWords (e.desc + 32) e.counters.length := hp.words (by decide : 8 ∣ 32) (by decide : 0 < 4) hok
  obtain ⟨t, hrun, hw, -⟩ := runs_storeWords ⟨hlag, hpriv, hmprv, hidle⟩ hc hwords
  have hbump := wrote_bumpEscrow hw.calm (hw.escActive_eq.trans hidle) t.pidx e
  have hid : t.core.id = s.core.id := by
    rw [hw.eq]
  have hpidx : t.pidx = s.pidx := by
    rw [hw.eq]
    rfl
  rw [hw.mem_eq, hw.counterBlock_eq] at hbump
  refine ⟨bumpEscrow t t.pidx e, ?_, ?_⟩
  · show execEscClose s = _
    rw [execEscClose, guarded_pass hg, countGuess_of_not_guess (Ctx.isGuess_of_idle hidle), he]
    dsimp only
    rw [if_pos hd]
    rw [← hid]
    exact runM_of_runs (Runs.withLevels hc.partsStill (hrun.bind (Runs.modify _ _)))
  · rw [closedMem, ← hpidx]
    exact hw.trans hbump

/-- What the closed loop leaves. -/
theorem exec_escClose_closes : ∃ t, exec .escClose s = .next t ∧ t.ctx.esc = none
    ∧ t.ctx.escLast = ⟨e.ncom, e.nmis, e.ncon, e.ndef⟩
    ∧ t.mem = closedMem s.mem (e.desc + 32).toNat (Config.commonsBase + counterBlock s s.pidx + 0x38) e.counters
    ∧ t.ctx.x = s.ctx.x ∧ ∀ n : Nat, (t.coreAt n).helperOf ≠ some s.core.id := by
  obtain ⟨u, hexec, hw⟩ := exec_escClose_of_done hg he hd hlag hc hp
  have hspec : (u.closeLoop s.core.id e).core.ctx.isSpec = false := Ctx.isSpec_of_no_escrow rfl
  have hx : (u.closeLoop s.core.id e).ctx.x = s.ctx.x := by
    show (u.core.freed s.core.id).ctx.x = s.ctx.x
    have hctx : u.core.ctx.x = s.ctx.x := by
      rw [show u.core.ctx = _ from hw.ctx_eq]
    rw [Core.freed_ctx, hctx]
  refine ⟨_, hexec, (retire_ctx_esc _ hspec).trans rfl, (retire_ctx_escLast _).trans rfl, hw.mem_eq, (retire_ctx_x _).trans hx,
    fun n => ?_⟩
  have hfree : ((retire (u.closeLoop s.core.id e)).coreAt n).helperOf = ((u.coreAt n).freed s.core.id).helperOf := by
    rw [retire_helperOf, State.closeLoop, coreAt_mapCtx_helperOf, coreAt_freeHelpers]
  rw [hfree, Core.freed_helperOf]
  split_ifs with h
  · exact nofun
  · exact h

end

/-! ## Ending a loop early (R203, R208) -/

section
variable {s : State} {e : Escrow} (hg : gate .escAbort s = .pass) (he : s.ctx.esc = some e) (hguess : s.ctx.isGuess = false)
include hg he hguess

theorem exec_escAbort_eq : exec .escAbort s = .next (retire (if e.done then s else finishEscrow s)) := by
  show execEscAbort s = _
  rw [execEscAbort, guarded_pass hg, countGuess_of_not_guess hguess, he]
  dsimp only
  split_ifs
  · rfl
  · rfl

/-- An open loop ends: no participant runs an iteration, and the loop's level is popped. -/
theorem exec_escAbort_open (hd : e.done = false) : ∃ t e', exec .escAbort s = .next t ∧ t.ctx.esc = some e' ∧ e'.done = true
    ∧ (∀ p ∈ e'.parts, p.iter = none) ∧ ∀ l : Fin 6, e.level = some (BitVec.ofNat 3 l.val) → t.ctx.loops[l].act = false := by
  have hexec := exec_escAbort_eq hg he hguess
  rw [hd, if_neg Bool.false_ne_true] at hexec
  have hctx := finishEscrow_ctx he
  have hesc : (finishEscrow s).ctx.esc = some e.rest := by
    rw [hctx]
  have hspec : (finishEscrow s).core.ctx.isSpec = false := Ctx.isSpec_of_idle (Ctx.escActive_of_done hesc e.rest_done)
  refine ⟨_, e.rest, hexec, (retire_ctx_esc _ hspec).trans hesc, e.rest_done, fun p hp => ?_, fun l hl => ?_⟩
  · obtain ⟨q, -, rfl⟩ := List.mem_map.1 hp
    rfl
  · have hloops : (finishEscrow s).ctx.loops = e.popLevel s.ctx.loops := by
      rw [hctx]
    rw [retire_loops, hloops]
    exact fallPast_inactive le_rfl (Escrow.popLevel_act hl le_rfl _)

end

/-! ## A guess routine's return (R197, R207) -/

/-- c' runs the same guess routine as c does, with another count of what it ran. -/
structure SameGuess (c : Ctx) (e : Escrow) (c' : Ctx) (e' : Escrow) : Prop where
  active : c'.escActive = some e'
  guessing : ∃ p, e'.focusPart = some p ∧ p.guessing = true
  x : c'.x = c.x
  loops : c'.loops = c.loops
  cmask : e'.cmask = e.cmask
  entryX : e'.entryX = e.entryX
  level : e'.level = e.level

theorem SameGuess.trans {a b c : Ctx} {d e f : Escrow} (h : SameGuess a d b e) (g : SameGuess b e c f) : SameGuess a d c f :=
  ⟨g.active, g.guessing, g.x.trans h.x, g.loops.trans h.loops, g.cmask.trans h.cmask, g.entryX.trans h.entryX, g.level.trans h.level⟩

theorem SameGuess.isGuess {c c' : Ctx} {e e' : Escrow} (h : SameGuess c e c' e') : c'.isGuess = true := by
  obtain ⟨p, hp, hguess⟩ := h.guessing
  rw [Ctx.isGuess_eq h.active hp, hguess]

/-- The loop with another participant in the focus's place. -/
def Escrow.putFocus (e : Escrow) (p : EscPart) : Escrow := { e with parts := setAt e.parts e.focus p }

section
variable {c : Ctx} {e : Escrow} {p : EscPart} (h : c.escActive = some e) (hp : e.focusPart = some p) (hguess : p.guessing = true)
include h hp

theorem Ctx.sameGuess_putFocus {p' : EscPart} (hguess : p'.guessing = true) :
    SameGuess c e { c with esc := some (e.putFocus p') } (e.putFocus p') := by
  obtain ⟨-, hl, hd⟩ := Ctx.escActive_eq_some.1 h
  exact ⟨Ctx.escActive_eq_some.2 ⟨rfl, hl, hd⟩, ⟨p', Escrow.focusPart_setAt hp p', hguess⟩, rfl, rfl, rfl, rfl, rfl⟩

include hguess

theorem Ctx.sameGuess_countRetired : ∃ e', SameGuess c e c.countRetired e' := by
  obtain ⟨hesc, -, -⟩ := Ctx.escActive_eq_some.1 h
  have hspec : c.isSpec = true := by rw [Ctx.isSpec_eq h hp, hguess, Bool.true_or]
  have heq : c.countRetired = { c with esc := some (e.putFocus { p with retired := p.retired + 1 }) } := by
    simp [Ctx.countRetired, hspec, hesc, hp, Escrow.putFocus]
  rw [heq]
  exact ⟨_, Ctx.sameGuess_putFocus h hp hguess⟩

end

/-- The routine's end: the iteration starts at its body with the carries set, and the entry values of every other register. -/
theorem SameGuess.endGuess {c c' : Ctx} {e e' : Escrow} (h : SameGuess c e c' e') :
    (c'.endGuess true).pc = e.bodyStart c.loops ∧ (c'.endGuess true).isGuess = false
    ∧ ∀ i : Fin 32, (c'.endGuess true).x[i] = if e.cmask.getLsbD i.val then c.x[i] else e.entryX[i] := by
  obtain ⟨p, hp, -⟩ := h.guessing
  obtain ⟨hesc, -, -⟩ := Ctx.escActive_eq_some.1 h.active
  have hend := Ctx.endGuess_eq hp hesc true
  refine ⟨?_, Ctx.isGuess_endGuess hp h.active true, fun i => ?_⟩
  · rw [hend]
    simp only [Escrow.bodyStart, h.level, h.loops]
  · have hx : (c'.endGuess true).x = e'.withCarries c'.x := by
      rw [hend, Ctx.guessEndX, if_pos rfl]
    rw [hx, Escrow.withCarries_getElem, h.cmask, h.entryX, h.x]

section
variable {s : State} {e : Escrow} {p : EscPart} (h : s.ctx.escActive = some e) (hp : e.focusPart = some p) (hguess : p.guessing = true)
include h hp hguess

theorem sameGuess_countGuess : ∃ e', SameGuess s.ctx e (countGuess s).ctx e' := by
  obtain ⟨hesc, -, -⟩ := Ctx.escActive_eq_some.1 h
  have hisGuess : s.ctx.isGuess = true := (Ctx.isGuess_eq h hp).trans hguess
  have heq : (countGuess s).ctx = { s.ctx with esc := some (e.putFocus { p with steps := p.steps + 1 }) } := by
    rw [countGuess, if_pos hisGuess]
    show (match s.ctx.esc with | some e => _ | none => _ : Ctx) = _
    rw [hesc]
    dsimp only
    rw [hp]
    rfl
  rw [heq]
  exact ⟨_, Ctx.sameGuess_putFocus h hp hguess⟩

theorem sameGuess_tick : ∃ e', SameGuess s.ctx e (tick s).ctx e' := by
  obtain ⟨e', he'⟩ := Ctx.sameGuess_countRetired h hp hguess
  exact ⟨e', he'.active, he'.guessing, he'.x, he'.loops, he'.cmask, he'.entryX, he'.level⟩

theorem exec_escRet_of_guess (hg : gate .escRet s = .pass) : ∃ t, exec .escRet s = .next t ∧ t.ctx.pc = e.bodyStart s.ctx.loops
    ∧ t.ctx.isGuess = false ∧ ∀ i : Fin 32, t.ctx.x[i] = if e.cmask.getLsbD i.val then s.ctx.x[i] else e.entryX[i] := by
  obtain ⟨e₁, h₁⟩ := sameGuess_countGuess h hp hguess
  obtain ⟨p₁, hp₁, hguess₁⟩ := h₁.guessing
  obtain ⟨e₂, h₂⟩ := sameGuess_tick h₁.active hp₁ hguess₁
  have hexec : exec .escRet s = .next ((tick (countGuess s)).mapCtx fun c => c.endGuess true) := by
    show execEscRet s = _
    rw [execEscRet, guarded_pass hg, if_pos h₁.isGuess]
  exact ⟨_, hexec, (h₁.trans h₂).endGuess⟩

end

end Sys2Proof.Machine

namespace Sys2Proof

open Sys2Proof.Machine

/-- Settles O26: the commits from one commit of the oldest iteration, and the loop's own end, close and guess routine's return. -/
theorem escrowCommits : Obligations.EscrowCommits := by
  unfold Obligations.EscrowCommits
  refine ⟨fun rd s e q hg he hend hspec hheld hviq hdue hq hpart =>
      ⟨exec_escCmp_next hg he hend hspec hheld hviq hdue hq hpart, exec_escCmp_last hg he hend hspec hheld hviq hdue hpart⟩,
    fun s e hg he hd hlag hc hwf hp => ?_, fun s e => exec_escAbort_eq, fun s e p hg h hp hguess => exec_escRet_of_guess h hp hguess hg⟩
  obtain ⟨t, hexec, hesc, hlast, hmem, hx, -⟩ := exec_escClose_closes hg he hd hlag hc hp
  have hblock := counters_inCommons hg rfl
  have hcom : Config.commonsBase ≤ Config.commonsBase + counterBlock s s.pidx + 0x38 := by omega
  obtain ⟨-, -, -, hok, hlow⟩ := hp
  have hbelow := below_of_physOk hok hlow (by decide)
  have hab : (e.desc + 32).toNat + 8 * e.counters.length ≤ Config.commonsBase + counterBlock s s.pidx + 0x38 := hbelow.trans hcom
  refine ⟨t, hexec, hesc, hlast, fun k => ?_, fun b hb hout => ?_, fun k => ?_, hx⟩
  · rw [hmem]
    exact closedMem_descriptor hwf hab k.isLt
  · rw [hmem]
    refine closedMem_out hwf hb ?_
    rw [isCommons, Bool.and_eq_false_iff, decide_eq_false_iff_not, decide_eq_false_iff_not] at hout
    show _ ∨ _ + 32 ≤ b
    omega
  · rw [hmem]
    exact closedMem_counter hwf hab k.isLt

/-- Settles O27: an iteration that ran ahead is confirmed or starts again, by whether its guess was the carries committed. -/
theorem escrowInstructionsComplete : Obligations.EscrowInstructionsComplete := by
  unfold Obligations.EscrowInstructionsComplete
  refine ⟨fun rd s e q p k hg he hend hspec hheld hviq hdue hq hpart hk hguess hwait hmore =>
      ⟨fun hc heq => exec_escCmp_confirm hg he hend hspec hheld hviq hdue hq hpart hk hguess hmore hc hwait heq, fun hne => ?_⟩,
    fun s e hg he hd hlag hc _ hp => ?_, fun s e hg he hguess => ⟨fun hd => ?_, exec_escAbort_open hg he hguess⟩,
    fun s e p hg h hp hguess => exec_escRet_of_guess h hp hguess hg⟩
  · obtain ⟨t, e', hexec, hpc, hrd, hx, hesc, hold, hncom, hnmis⟩ :=
      exec_escCmp_restart hg he hend hspec hheld hviq hdue hq hpart hk hguess hmore hne
    exact ⟨t, e', hexec, hesc, hold, hncom, hnmis, hpc, hrd, fun r hr h0 => State.x_of_start hr h0 hx⟩
  · obtain ⟨t, hexec, hesc, hlast, -, -, hfree⟩ := exec_escClose_closes hg he hd hlag hc hp
    exact ⟨t, hexec, hesc, hlast, hfree⟩
  · rw [exec_escAbort_eq hg he hguess, if_pos hd]

end Sys2Proof
end

section
/-! SUPPORT. Vector stores to the pocket (R221, R222, R226, R230) where nothing older stands before them: the checks of their elements,
the writes they make in order, and the bytes that those leave. -/

namespace Sys2Proof.Machine

/-! ## Runs of bytes written in order -/

/-- A byte store after a run of bytes is written at each place of a list in turn. -/
def putRuns (a : Nat → Nat) (B : Nat → List Byte) (is : List Nat) (m : Bytes) : Bytes := is.foldl (fun p k => setBytes p (a k) (B k)) m

section
variable {a : Nat → Nat} {B : Nat → List Byte} {is : List Nat} {m : Bytes} (h : wfBytes m = true)
include h

theorem wfBytes_putRuns : wfBytes (putRuns a B is m) = true := by
  induction is generalizing m with
  | nil => exact h
  | cons k is ih => exact ih (wfBytes_setBytes h _ _)

/-- A byte that no run meets is as before. -/
theorem getByte_putRuns_out {x : Nat} (hx : ∀ k ∈ is, x < a k ∨ a k + (B k).length ≤ x) :
    getByte (putRuns a B is m) x = getByte m x := by
  induction is generalizing m with
  | nil => rfl
  | cons k is ih =>
    exact (ih (wfBytes_setBytes h _ _) fun j hj => hx j (List.mem_cons_of_mem k hj)).trans
      (getByte_setBytes_out h _ _ x (hx k List.mem_cons_self))

/-- Where the runs are single bytes and their list rises, the last one at a place leaves its byte there. -/
theorem getByte_putRuns_last {b : Nat → Byte} (hup : is.Pairwise (· < ·)) {k : Nat} (hk : k ∈ is)
    (hlast : ∀ j ∈ is, k < j → a j ≠ a k) : getByte (putRuns a (fun j => [b j]) is m) (a k) = b k := by
  obtain ⟨before, after, rfl⟩ := List.append_of_mem hk
  obtain ⟨-, hrest, -⟩ := List.pairwise_append.1 hup
  obtain ⟨hgreater, -⟩ := List.pairwise_cons.1 hrest
  have hafter : ∀ j ∈ after, a k < a j ∨ a j + 1 ≤ a k := fun j hj => by
    have hne := hlast j (List.mem_append_right _ (List.mem_cons_of_mem k hj)) (hgreater j hj)
    omega
  have hwf : wfBytes (putRuns a (fun j => [b j]) before m) = true := wfBytes_putRuns h
  rw [putRuns, List.foldl_append, List.foldl_cons]
  refine (getByte_putRuns_out (wfBytes_setBytes hwf _ _) hafter).trans ?_
  exact (getByte_setByte hwf _ _ _).trans (if_pos rfl)

end

theorem upFrom_pairwise (a n : Nat) : (upFrom a n).Pairwise (· < ·) := by
  induction n generalizing a with
  | zero => exact List.Pairwise.nil
  | succ n ih => exact List.pairwise_cons.2 ⟨fun x hx => (mem_upFrom.1 hx).1, ih (a + 1)⟩

theorem Ctx.enabled_pairwise (c : Ctx) (m : MReg3) (lo hi : Nat) : (c.enabled m lo hi).Pairwise (· < ·) :=
  (upFrom_pairwise _ _).filter _

/-! ## HX4 elements in bytes (R59, R221) -/

theorem getNibble_toNat (m : Bytes) (a k : Nat) : (getNibble m (2 * a + k % 2)).toNat = (getByte m a).toNat / 16 ^ (k % 2) % 16 := by
  have hbyte : (2 * a + k % 2) / 2 = a := by omega
  have hhalf : (2 * a + k % 2) % 2 = k % 2 := by omega
  rw [getNibble, hbyte, hhalf, BitVec.extractLsb'_toNat, Nat.shiftRight_eq_div_pow, Nat.pow_mul]

/-- The half byte that an element leaves. -/
theorem nibbleByte_own {v : Nat} (hv : v < 16) {k : Nat} {lower : Option Nat} (hl : ∀ l ∈ lower, l < 16) (old : Byte) :
    (nibbleByte old k v lower).toNat / 16 ^ (k % 2) % 16 = v := by
  have hold : lower.getD (old.toNat % 16) < 16 := by
    cases lower with
    | none => exact Nat.mod_lt _ (by decide)
    | some l => exact hl l rfl
  unfold nibbleByte
  rcases Nat.mod_two_eq_zero_or_one k with hk | hk <;> rw [hk]
  · rw [if_pos rfl, BitVec.toNat_ofNat]
    omega
  · rw [if_neg (by decide), BitVec.toNat_ofNat]
    omega

/-- An odd element stored after its even neighbour leaves that one's half. -/
theorem nibbleByte_lower {v l : Nat} (hl : l < 16) {k : Nat} (hk : k % 2 = 1) (old : Byte) :
    (nibbleByte old k v (some l)).toNat % 16 = l := by
  rw [nibbleByte, hk, if_neg (by decide), BitVec.toNat_ofNat, Option.getD_some]
  omega

/-- Only HX4 has elements of half a byte. -/
theorem etyOf_hx4 {t : Byte} {ty : ETy} (h : etyOf t = some ty) (hbits : ty.bits = 4) : ty = .hx4 := by
  unfold etyOf at h
  split at h
  case h_13 =>
    split at h
    · cases h
    · cases h; rfl
  case h_14 => cases h
  all_goals cases h; exact absurd hbits (by decide)

theorem Ctx.ety_of_width_four {c : Ctx} {r : VReg5} (h : c.width r = 4) : c.ety r = some .hx4 := by
  cases hty : c.ety r with
  | none => rw [Ctx.width, hty] at h; cases h
  | some ty => rw [etyOf_hx4 hty ((Ctx.width_of_ety hty).symm.trans h)]

theorem Ctx.raw_lt_of_hx4 {c : Ctx} {r : VReg5} (h : c.ety r = some .hx4) (i : Nat) : c.raw r i < 16 := by
  rw [Ctx.raw_of_ety h]
  exact (getNibble _ i).isLt

/-! ## An element's place in the pocket (R213, R222) -/

section
variable {acc : Acc} {p : Priv} {w : Nat} {va : Word} {s : State} (hal : va.toNat % elemBytes w = 0)
  (hin : va.toNat + elemBytes w ≤ s.ctx.pocb)
include hal hin

theorem runs_elemLoc_pocket : Runs (elemLoc acc 2 p w va) s (.pocket va.toNat) s :=
  Runs.ite_neg (not_not.2 hal) (Runs.get_bind (Runs.ite_pos hin (Runs.pure _ s)))

/-- The pocket has no port, no transit filter and no other chip, so an element's store side ends there. -/
theorem runs_storeLoc_pocket {en : VEntry} (hsp : stSpace en = 2) : Runs (storeLoc en w va) s (.pocket va.toNat) s := by
  rw [storeLoc, hsp]
  exact (runs_elemLoc_pocket hal hin).bind (Runs.get_bind (Runs.pure _ s))

end

/-! ## The stores of a scan (R223, R224) -/

/-- The bytes that a vector store puts at the pocket address of element k. -/
def pocketBytes (c : Ctx) (vs3 : VReg5) (lower : Nat → Option Nat) (a k : Nat) : List Byte :=
  if c.width vs3 = 4 then [nibbleByte (getByte c.pocket a) k (c.raw vs3 k) (lower k)] else natBytes (c.width vs3 / 8) (c.raw vs3 k)

/-- Its write. -/
def pocketWriteOf (c : Ctx) (vs3 : VReg5) (lower : Nat → Option Nat) (a k : Nat) : ElemWrite where
  loc := .pocket a
  bytes := pocketBytes c vs3 lower a k
  whole := if c.width vs3 = 4 then decide (k % 2 = 1) && (lower k).isSome else true

theorem pocketBytes_length (c : Ctx) (vs3 : VReg5) (lower : Nat → Option Nat) (a k : Nat) :
    (pocketBytes c vs3 lower a k).length = elemBytes (c.width vs3) := by
  unfold pocketBytes elemBytes
  split
  · rfl
  · exact natBytes_length _ _

theorem runs_storeElem_pocket {en : VEntry} (hsp : stSpace en = 2) {vs3 : VReg5} {s : State} {addr : Ctx → Nat → Word} {k : Nat}
    (hal : (addr s.ctx k).toNat % elemBytes (s.ctx.width vs3) = 0)
    (hin : (addr s.ctx k).toNat + elemBytes (s.ctx.width vs3) ≤ s.ctx.pocb) (lower : Nat → Option Nat) :
    ∃ n, Runs (storeElem vs3 en lower addr k) s (pocketWriteOf s.ctx vs3 lower (addr s.ctx k).toNat k) { s with draws := n } := by
  have hloc := runs_storeLoc_pocket hal hin hsp
  by_cases hw : s.ctx.width vs3 = 4
  · refine ⟨s.draws + 1, Runs.get_bind (hloc.bind (Runs.ite_pos hw (Runs.get_bind (Runs.modify_bind ?_))))⟩
    rw [pocketWriteOf, pocketBytes, if_pos hw, if_pos hw]
    exact Runs.pure _ _
  · refine ⟨s.draws, Runs.get_bind (hloc.bind (Runs.ite_neg hw ?_))⟩
    rw [pocketWriteOf, pocketBytes, if_neg hw, if_neg hw]
    exact Runs.pure _ _

/-- A scan whose every element passes, whatever has been drawn before it, collects all their writes. -/
theorem storeScan_of_runs {f : Nat → M ElemWrite} {W : Nat → ElemWrite} {is : List Nat} {s : State}
    (h : ∀ k ∈ is, ∀ n, ∃ n', Runs (f k) { s with draws := n } (W k) { s with draws := n' }) (n : Nat) (acc : List ElemWrite) :
    ∃ n', storeScan f is { s with draws := n } acc = (acc.reverse ++ is.map W, .done { s with draws := n' }) := by
  induction is generalizing n acc with
  | nil => exact ⟨n, by rw [storeScan, List.map_nil, List.append_nil]⟩
  | cons k is ih =>
    obtain ⟨n₁, hk⟩ := h k List.mem_cons_self n
    obtain ⟨n₂, hrest⟩ := ih (fun j hj => h j (List.mem_cons_of_mem k hj)) n₁ (W k :: acc)
    refine ⟨n₂, ?_⟩
    unfold Runs at hk
    rw [storeScan, hk]
    simpa using hrest

/-- The scan of a store whose elements lie in the pocket passes. -/
theorem storeScan_pocket {en : VEntry} (hsp : stSpace en = 2) {vs3 : VReg5} {s : State} {addr : Ctx → Nat → Word} {is : List Nat}
    (hin : ∀ k ∈ is, (addr s.ctx k).toNat % elemBytes (s.ctx.width vs3) = 0
      ∧ (addr s.ctx k).toNat + elemBytes (s.ctx.width vs3) ≤ s.ctx.pocb) (lower : Nat → Option Nat) :
    ∃ n, storeScan (storeElem vs3 en lower addr) is s []
      = (is.map fun k => pocketWriteOf s.ctx vs3 lower (addr s.ctx k).toNat k, .done { s with draws := n }) := by
  have hruns : ∀ k ∈ is, ∀ n, ∃ n', Runs (storeElem vs3 en lower addr k) { s with draws := n }
      (pocketWriteOf s.ctx vs3 lower (addr s.ctx k).toNat k) { s with draws := n' } := fun k hk n => by
    obtain ⟨hal, hfit⟩ := hin k hk
    exact runs_storeElem_pocket (s := { s with draws := n }) hsp hal hfit lower
  exact storeScan_of_runs hruns s.draws []

/-! ## Writing to the pocket -/

/-- t is s with pocket m: beside it only reservations may differ. -/
def PocketWrote (s t : State) (m : Bytes) : Prop :=
  ∃ r cs, t = { s with core := { s.core with resv := r, ctx := { s.core.ctx with pocket := m } }, cores := cs }

theorem PocketWrote.refl (s : State) : PocketWrote s s s.ctx.pocket := ⟨s.core.resv, s.cores, rfl⟩

/-- One more run of bytes, which may break reservations (R86). -/
theorem PocketWrote.write {s t : State} {m : Bytes} (h : PocketWrote s t m) (o : Nat) (bs : List Byte) (w : Option Nat) (a n : Nat) :
    PocketWrote s (breakResv (pocketBytesTo t o bs) w a n) (setBytes m o bs) := by
  obtain ⟨r, cs, rfl⟩ := h
  rw [breakResv_eq, Core.afterWrite_eq]
  exact ⟨_, _, rfl⟩

/-- Nothing is held at the ordering point, so a store to the pocket is performed. -/
theorem strandWrite_pocket {en : VEntry} {t : State} (hh : t.heldStores = []) {w : ElemWrite} {o : Nat} (hloc : w.loc = .pocket o)
    (hgood : w.poison = false) :
    strandWrite en t w = breakResv (pocketBytesTo t o w.bytes) none (pocketKey t.core.id o) w.bytes.length := by
  have hfree : holdsElem t w = false := by simp [holdsElem, hloc, holdable]
  simp only [strandWrite, hfree, Bool.false_and, Bool.false_eq_true, if_false, orderFor_nil hh, elemWrite, hloc, hgood]
  rfl

section
variable {en : VEntry} {s : State} {a : Nat → Nat} {W : Nat → ElemWrite} (hloc : ∀ k, (W k).loc = .pocket (a k))
  (hgood : ∀ k, (W k).poison = false) (hh : s.heldStores = []) (hw : waiters s = [])
include hloc hgood hh hw

theorem pocketWrote_foldl (is : List Nat) {t : State} {m : Bytes} (h : PocketWrote s t m) :
    PocketWrote s ((is.map W).foldl (fun t w => served s (strandWrite en t w)) t) (putRuns a (fun k => (W k).bytes) is m) := by
  induction is generalizing t m with
  | nil => exact h
  | cons k is ih =>
    have hh' : t.heldStores = [] := by obtain ⟨r, cs, rfl⟩ := h; exact hh
    rw [List.map_cons, List.foldl_cons, served_none hw, strandWrite_pocket hh' (hloc k) (hgood k)]
    exact ih (h.write _ _ _ _ _)

/-- R224: the writes of a scan are performed in its order. -/
theorem storeFinish_pocket (he : s.ecc = []) (hlag : s.lag = false) (hp : s.parts.all Partition.still = true) (is : List Nat) :
    ∃ t, storeFinish en (is.map W, .done s) = .done t ∧ PocketWrote s t (putRuns a (fun k => (W k).bytes) is s.ctx.pocket) := by
  refine ⟨_, ?_, pocketWrote_foldl (en := en) hloc hgood hh hw is (PocketWrote.refl s)⟩
  have hfree : storeStuck s (is.map W) = false := by simp [storeStuck, hh]
  have hnote (rs : List RunWrite) (u : State) (hu : u.ecc.isEmpty && !u.lag) : noteRuns en.id rs u = u := if_pos hu
  simp only [storeFinish, hfree, Bool.false_eq_true, if_false, strandWrites, levelHook_still s hp]
  obtain ⟨r, cs, heq⟩ := pocketWrote_foldl (en := en) hloc hgood hh hw is (PocketWrote.refl s)
  rw [hnote _ _ (by rw [heq]; simp [he, hlag])]

end

/-! ## The forms (R226, R230) -/

/-- The even neighbour that a store of an odd HX4 element puts into their byte too: one that `vst` stores itself (R221). -/
def storeLower (i : Instr) (m : MReg3) (vs3 : VReg5) (en : VEntry) (c : Ctx) (k : Nat) : Option Nat :=
  match i with
  | .vstc _ _ _ _ => none
  | _ => if k % 2 = 1 ∧ en.start + 1 ≤ k ∧ c.mbit m (k - 1) = true then some (c.raw vs3 (k - 1)) else none

theorem viqRun_of_storeForm {i : Instr} {mode : MMode} {e : Bool} {m : MReg3} {vs3 : VReg5} (h : storeForm i = some (mode, e, m, vs3))
    (en : VEntry) (s : State) : viqRun i en s = memCheck en (stNeed mode e m vs3 s.ctx (readBound en m s.ctx)) (stSpace en) s fun s =>
      storeFinish en (storeScan (storeElem vs3 en (storeLower i m vs3 en s.ctx) fun c k => storeAddr i mode (s.ctx.width vs3) en c m k)
        (enabledFrom m en s) s []) := by
  cases i <;> cases h <;> rfl

/-- R113, R269: a store is committed to the VIQ, and reads no element of memory. -/
theorem storeForm_committed {i : Instr} {mode : MMode} {e : Bool} {m : MReg3} {vs3 : VReg5} (h : storeForm i = some (mode, e, m, vs3)) :
    viqForm i = true ∧ ∀ (s : State) (en : VEntry), en.instr = i → entryNew s en = false := by
  cases i <;> cases h
  all_goals exact ⟨rfl, fun s en he => by rw [entryNew, he]; rfl⟩

theorem memCheck_of_ok {en : VEntry} {need : Need} {space : Nat} {s : State} (h : needCheck s.ctx en.csr.vl.toNat need = .ok)
    (hsp : space < 4) (go : State → VOut) : memCheck en need space s go = go s := by
  rw [memCheck, h]
  exact if_neg (Nat.not_le.2 hsp)

theorem waiters_mapCtx (s : State) (f : Ctx → Ctx) : waiters (s.mapCtx f) = waiters s := by
  have hcore (n : Nat) : ((s.mapCtx f).coreAt n).hwait = (s.coreAt n).hwait ∧ ((s.mapCtx f).coreAt n).stop = (s.coreAt n).stop := by
    show (if s.core.id = n then _ else _ : Core).hwait = (if s.core.id = n then _ else _ : Core).hwait ∧
      (if s.core.id = n then _ else _ : Core).stop = (if s.core.id = n then _ else _ : Core).stop
    split <;> exact ⟨rfl, rfl⟩
  simp only [waiters, hcore]
  rfl

/-- Where a store form puts element k in the pocket. -/
def storePlaceAt (i : Instr) (mode : MMode) (m : MReg3) (vs3 : VReg5) (en : VEntry) (c : Ctx) (k : Nat) : Nat :=
  (storeAddr i mode (c.width vs3) en c m k).toNat

/-- The bytes it puts there. -/
def storeBytesAt (i : Instr) (mode : MMode) (m : MReg3) (vs3 : VReg5) (en : VEntry) (c : Ctx) (k : Nat) : List Byte :=
  pocketBytes c vs3 (storeLower i m vs3 en c) (storePlaceAt i mode m vs3 en c k) k

/-- The pocket after the store of the elements of a list. -/
def storedPocket (i : Instr) (mode : MMode) (m : MReg3) (vs3 : VReg5) (en : VEntry) (c : Ctx) (is : List Nat) : Bytes :=
  putRuns (storePlaceAt i mode m vs3 en c) (storeBytesAt i mode m vs3 en c) is c.pocket

/-- R226, R230: an entry's run puts its elements into the pocket, where no other agent takes part. -/
theorem viqRun_store_pocket {i : Instr} {mode : MMode} {e : Bool} {m : MReg3} {vs3 : VReg5} {s : State} {en : VEntry}
    (hform : storeForm i = some (mode, e, m, vs3)) (hc : s.Calm) (hlag : s.lag = false)
    (hok : needCheck s.ctx en.csr.vl.toNat (stNeed mode e m vs3 s.ctx (readBound en m s.ctx)) = .ok) (hsp : stSpace en = 2)
    (hin : ∀ k ∈ enabledFrom m en s, storePlaceAt i mode m vs3 en s.ctx k % elemBytes (s.ctx.width vs3) = 0
      ∧ storePlaceAt i mode m vs3 en s.ctx k + elemBytes (s.ctx.width vs3) ≤ s.ctx.pocb) :
    ∃ t n, viqRun i en s = .done t
      ∧ PocketWrote { s with draws := n } t (storedPocket i mode m vs3 en s.ctx (enabledFrom m en s)) := by
  obtain ⟨hecc, hheld, -, hparts, -, hwait⟩ := hc
  obtain ⟨n, hscan⟩ := storeScan_pocket (addr := fun c k => storeAddr i mode (s.ctx.width vs3) en c m k) hsp hin
    (storeLower i m vs3 en s.ctx)
  obtain ⟨t, hfinish, hwrote⟩ := storeFinish_pocket (en := en) (s := { s with draws := n })
    (W := fun k => pocketWriteOf s.ctx vs3 (storeLower i m vs3 en s.ctx) (storePlaceAt i mode m vs3 en s.ctx k) k)
    (fun _ => rfl) (fun _ => rfl) hheld hwait hecc hlag (all_still hparts) (enabledFrom m en s)
  refine ⟨t, n, ?_, hwrote⟩
  rw [viqRun_of_storeForm hform, memCheck_of_ok hok (by rw [hsp]; decide), hscan]
  exact hfinish

theorem State.Calm.mapCtx {s : State} (h : s.Calm) (f : Ctx → Ctx) : (s.mapCtx f).Calm := by
  obtain ⟨he, hh, hm, hp, hc, hw⟩ := h
  exact ⟨he, hh, hm, hp, hc, (waiters_mapCtx s f).trans hw⟩

/-- A ready store whose elements lie in the pocket writes them and retires. -/
theorem exec_store_pocket {i : Instr} {mode : MMode} {e : Bool} {m : MReg3} {vs3 : VReg5} {s : State}
    (hform : storeForm i = some (mode, e, m, vs3)) (hr : Ready i s) (hc : s.Calm)
    (hok : needCheck s.ctx s.ctx.u.vl.toNat (stNeed mode e m vs3 s.ctx (readBound (viqEntry i [] s) m s.ctx)) = .ok)
    (hsp : stSpace (viqEntry i [] s) = 2)
    (hin : ∀ k ∈ s.ctx.enabled m 0 s.ctx.u.vl.toNat,
      storePlaceAt i mode m vs3 (viqEntry i [] s) s.ctx k % elemBytes (s.ctx.width vs3) = 0
        ∧ storePlaceAt i mode m vs3 (viqEntry i [] s) s.ctx k + elemBytes (s.ctx.width vs3) ≤ s.ctx.pocb) :
    ∃ r cs n, exec i s = .next (retire (State.setCtx
      { s with core := { s.core with resv := r }, cores := cs, draws := n }
      { (viqPush i [] s).ctx with
        viq := []
        pocket := storedPocket i mode m vs3 (viqEntry i [] s) s.ctx (s.ctx.enabled m 0 s.ctx.u.vl.toNat) })) := by
  have hgate := gate_of_ready hr
  obtain ⟨⟨hlag, hviq, hcable, hsrq, hesc, hbar, hheld⟩, -, -, -, hfenced⟩ := hr
  obtain ⟨t, n, hrun, r, cs, hwrote⟩ := viqRun_store_pocket (s := viqPush i [] s) hform (hc.mapCtx _) hlag hok hsp hin
  obtain ⟨hviqForm, hnew⟩ := storeForm_committed hform
  have huse : entryConsumes (viqPush i [] s) (viqEntry i [] s) = false := by
    rw [entryConsumes, hnew _ (viqEntry i [] s) rfl, Bool.and_false]
  have hopen : entryBarred (viqPush i [] s) (viqEntry i [] s) = false := hfenced
  have hhead : viqHead (viqEntry i [] s) (viqPush i [] s) = .done t := by
    rw [viqHead, hopen]
    exact hrun
  have hq : t.ctx.viq = [viqEntry i [] s] := by
    rw [hwrote]
    show s.ctx.viq ++ _ = _
    rw [hviq]
    rfl
  have hleave := viqLeave_alone hq rfl rfl (by rw [hwrote]; exact hbar) (by rw [hwrote]; exact hheld)
  refine ⟨r, cs, n, ?_⟩
  rw [exec_of_viqForm hviqForm, viqCommit_runs hgate (Ctx.isGuess_of_no_escrow hesc) hviq hlag huse hhead, hleave,
    viqAfter_of_idle (by rw [hwrote]; exact hcable) (by rw [hwrote]; exact hsrq), hwrote]
  rfl

/-! ## The bytes and half bytes that a store leaves (R221, R230) -/

theorem needCheck_tagOk {c : Ctx} {vl : Nat} {n : Need} (h : needCheck c vl n = .ok) : n.tagOk = true := by
  unfold needCheck at h
  split at h
  · cases h
  · split at h
    · cases h
    · rename_i _ htag
      simpa using htag

/-- R221: HX4 is stored at unit stride only. -/
theorem mode_of_stNeed_hx4 {mode : MMode} {e : Bool} {m : MReg3} {vs3 : VReg5} {c : Ctx} {vl n : Nat}
    (h : needCheck c vl (stNeed mode e m vs3 c n) = .ok) (hty : c.ety vs3 = some .hx4) : mode = .unit := by
  have htag : (dataOk c mode vs3 && indexOk c mode) = true := needCheck_tagOk h
  simp only [dataOk, hty] at htag
  simpa using (Bool.and_eq_true_iff.1 htag).1

section
variable {i : Instr} {e : Bool} {m : MReg3} {vs3 : VReg5} (h : storeForm i = some (.unit, e, m, vs3)) (en : VEntry) {c : Ctx}
include h

theorem storeLower_unit (k : Nat) : storeLower i m vs3 en c k
    = if k % 2 = 1 ∧ en.start + 1 ≤ k ∧ c.mbit m (k - 1) = true then some (c.raw vs3 (k - 1)) else none := by
  cases i <;> cases h
  rfl

variable (hw : c.width vs3 = 4)
include hw

/-- R222: HX4 elements lie two in a byte. -/
theorem storePlaceAt_hx4 (k : Nat) : storePlaceAt i .unit m vs3 en c k = (en.a + BitVec.ofNat 64 (k / 2)).toNat := by
  cases i <;> cases h
  show (elemAddr .unit (c.width vs3) en c k).toNat = _
  rw [elemAddr, hw]
  rfl

/-- Below the largest VL no two bytes of elements fall on one address. -/
theorem half_eq_of_storePlaceAt_eq {j k : Nat} (hj : j < 2 ^ 64) (hk : k < 2 ^ 64)
    (heq : storePlaceAt i .unit m vs3 en c j = storePlaceAt i .unit m vs3 en c k) : j / 2 = k / 2 := by
  rw [storePlaceAt_hx4 h en hw, storePlaceAt_hx4 h en hw] at heq
  have hword := congrArg BitVec.toNat ((BitVec.add_right_inj en.a).1 (BitVec.eq_of_toNat_eq heq))
  rw [BitVec.toNat_ofNat, BitVec.toNat_ofNat] at hword
  omega

end

section
variable {i : Instr} {mode : MMode} {e : Bool} {m : MReg3} {vs3 : VReg5} {en : VEntry} {c : Ctx} (hwf : wfBytes c.pocket = true)
include hwf

/-- A byte that no stored element reaches is as before. -/
theorem getByte_storedPocket_out {is : List Nat} {b : Nat} (hb : ∀ k ∈ is, b < storePlaceAt i mode m vs3 en c k
      ∨ storePlaceAt i mode m vs3 en c k + elemBytes (c.width vs3) ≤ b) :
    getByte (storedPocket i mode m vs3 en c is) b = getByte c.pocket b :=
  getByte_putRuns_out hwf fun k hk => by
    rw [storeBytesAt, pocketBytes_length]
    exact hb k hk

/-- R221: each enabled HX4 element is in its half of its byte, whether or not the other half is stored too. -/
theorem getNibble_storedPocket (hform : storeForm i = some (.unit, e, m, vs3)) (hty : c.ety vs3 = some .hx4) (hstart : en.start = 0)
    {vl : Nat} (hvl : vl ≤ 2 ^ 64) {k : Nat} (hk : k ∈ c.enabled m 0 vl) :
    (getNibble (storedPocket i .unit m vs3 en c (c.enabled m 0 vl)) (2 * storePlaceAt i .unit m vs3 en c k + k % 2)).toNat
      = c.raw vs3 k := by
  have hw : c.width vs3 = 4 := Ctx.width_of_ety hty
  have hraw := Ctx.raw_lt_of_hx4 hty
  obtain ⟨-, hklt, hkbit⟩ := mem_enabled.1 hk
  have hsame {j : Nat} (hj : j ∈ c.enabled m 0 vl) (h : storePlaceAt i .unit m vs3 en c j = storePlaceAt i .unit m vs3 en c k) :
      j / 2 = k / 2 := by
    obtain ⟨-, hjlt, -⟩ := mem_enabled.1 hj
    exact half_eq_of_storePlaceAt_eq hform en hw (hjlt.trans_le hvl) (hklt.trans_le hvl) h
  have hbytes : storeBytesAt i .unit m vs3 en c = fun j => [nibbleByte (getByte c.pocket (storePlaceAt i .unit m vs3 en c j)) j
      (c.raw vs3 j) (storeLower i m vs3 en c j)] := funext fun j => by rw [storeBytesAt, pocketBytes, if_pos hw]
  rw [getNibble_toNat, storedPocket, hbytes]
  by_cases hnext : k % 2 = 0 ∧ k + 1 ∈ c.enabled m 0 vl
  · obtain ⟨heven, hmem⟩ := hnext
    have hbyte : storePlaceAt i .unit m vs3 en c k = storePlaceAt i .unit m vs3 en c (k + 1) := by
      rw [storePlaceAt_hx4 hform en hw, storePlaceAt_hx4 hform en hw, show (k + 1) / 2 = k / 2 by omega]
    have hpair : storeLower i m vs3 en c (k + 1) = some (c.raw vs3 k) := by
      rw [storeLower_unit hform, hstart, if_pos ⟨by omega, by omega, hkbit⟩, Nat.add_sub_cancel]
    rw [hbyte, getByte_putRuns_last hwf (c.enabled_pairwise m 0 vl) hmem fun j hj hlt heq =>
      absurd (hsame hj (heq.trans hbyte.symm)) (by omega), hpair, heven, pow_zero, Nat.div_one]
    exact nibbleByte_lower (hraw k) (by omega) _
  · rw [getByte_putRuns_last hwf (c.enabled_pairwise m 0 vl) hk fun j hj hlt heq => ?_]
    · refine nibbleByte_own (hraw k) (fun l hl => ?_) _
      rw [storeLower_unit hform] at hl
      split at hl
      · exact Option.some.inj hl ▸ hraw (k - 1)
      · cases hl
    · have hhalf := hsame hj heq
      exact hnext ⟨by omega, by rwa [show k + 1 = j by omega]⟩

end

end Sys2Proof.Machine

namespace Sys2Proof

open Sys2Proof.Machine

/-- Settles O35: the entry's scan passes each element in the pocket, and the writes it collects are made in its order. -/
theorem vectorStoresComplete : Obligations.VectorStoresComplete := by
  unfold Obligations.VectorStoresComplete
  intro i mode e m vs3 s hform hr hc en w vl adr hok hsp hin
  obtain ⟨r, cs, n, hexec⟩ := exec_store_pocket hform hr hc hok hsp hin
  refine ⟨_, hexec, fun hw => ?_, fun hw hwf k hk => ?_, fun hwf b hb => ?_, retire_ctx_v _, retire_ctx_m _, retire_ctx_x _, rfl, rfl,
    rfl, rfl, rfl, rfl, rfl, rfl, rfl, rfl⟩
  · have hbytes : storeBytesAt i mode m vs3 en s.ctx = fun k => natBytes (w / 8) (s.ctx.raw vs3 k) := funext fun k => if_neg hw
    rw [retire_ctx_pocket]
    show putRuns adr (storeBytesAt i mode m vs3 en s.ctx) _ _ = _
    rw [hbytes]
    rfl
  · have hty := Ctx.ety_of_width_four hw
    obtain rfl := mode_of_stNeed_hx4 hok hty
    rw [retire_ctx_pocket]
    exact getNibble_storedPocket hwf hform hty rfl s.ctx.u.vl.isLt.le hk
  · rw [retire_ctx_pocket]
    exact getByte_storedPocket_out hwf hb

end Sys2Proof
end

section
/-! SUPPORT. Where the statements on vector loads (R226, R229, R231, R232) and on the platform's background steps (R220) say more than
the spec: a load that a fence makes wait for an older store, and a scrubbed granule that lies in SPOOL. -/

namespace Sys2Proof.Machine

/-- The state that a step goes on to. -/
def nextState (o : Host.Outcome State Fault Refusal) : Option State :=
  match o with
  | .next t => some t
  | .fault _ => none
  | .refused _ => none

/-- A byte that core 0 has stored to HBM and that is not performed yet; a `qfence` of chip scope stands between it and everything
younger (R261, R268). -/
def fencedStore : Held :=
  ⟨0, 0, none, false, .machine, .phys 0x1000 kindRC none, [7], 0, none, none, [], 0, none, [⟨0, 3⟩]⟩

/-- Core 0 with that store held, before a load of one element from the pocket: VL is 1, and v1 is a vacant register of INT8. -/
def fencedLoad : State :=
  { State.reset.mapCtx fun c => { c with
      pocb := 64
      u := { c.u with vl := 1, mtyp := 2 }
      v := c.v.set 1 { VReg.vacant with tag := 1 } } with
    heldStores := [fencedStore] }

/-- The chip while partition 0 takes generation 1 with SPOOL in the first 64 KiB of the second tier (its job block and its manifest lie
in the Commons). The page of its counter block is not split yet, and the first granule of that page is poisoned. -/
def unsplitCounters : State :=
  { State.reset with
    mem := [(Config.commonsBase + 18, 1)]
    ecc := [(Config.commonsBase + 0x0BFFF000, .poisoned)]
    parts := [{ Partition.reset with
      ctxbase := BitVec.ofNat 64 Config.windowBase
      gen := 1
      taking := true
      manifests := [⟨1, false, Config.windowBase + 0x1000, 128, [], [], 0, [], []⟩] }] }

end Sys2Proof.Machine

namespace Sys2Proof

open Sys2Proof.Machine

/-- Refutes O34: the statement does not ask that no store be held. An older store of the strand that a `qfence` orders before its younger
accesses is performed before the load's first access (R261), also where that is to the pocket, so it is held no longer. -/
theorem not_vectorLoadsComplete : ¬ Obligations.VectorLoadsComplete := by
  unfold Obligations.VectorLoadsComplete
  intro h
  obtain ⟨t, hexec, -, -, -, -, -, -, -, -, ⟨-, -, -, -, -, hheld, -⟩, -⟩ :=
    h (.vldUnit false 0 0 1) .unit false 0 1 fencedLoad rfl (by decide) rfl rfl (by decide) rfl (by decide)
  have hperformed : (nextState (exec (.vldUnit false 0 0 1) fencedLoad)).map State.heldStores = some [] := by decide
  rw [hexec] at hperformed
  cases hheld.symm.trans (Option.some.inj hperformed)

/-- Refutes O36: as for O34, here by the clause of `vmld`, whose read of its mask's word performs the fenced store (R261). -/
theorem not_windowAndImageMoves : ¬ Obligations.WindowAndImageMoves := by
  unfold Obligations.WindowAndImageMoves
  rintro ⟨⟨-, -, -, hvmld, -⟩, -⟩
  obtain ⟨t, hexec, -, -, -, -, ⟨-, -, -, -, -, hheld, -⟩, -⟩ :=
    hvmld 0 1 fencedLoad (by decide) rfl rfl rfl (by decide) (by decide) (by decide) rfl
  have hperformed : (nextState (exec (.vmld 0 1) fencedLoad)).map State.heldStores = some [] := by decide
  rw [hexec] at hperformed
  cases hheld.symm.trans (Option.some.inj hperformed)

/-- Refutes O60: the correction of a granule is counted (R333), and while a generation is being taken the counter's write may split its
page first (R355). The copy goes to SPOOL with the page's poison (R218), and that granule of SPOOL may be the very one corrected. -/
theorem not_platformStepsComplete : ¬ Obligations.PlatformStepsComplete := by
  unfold Obligations.PlatformStepsComplete
  rintro ⟨⟨hscrub, -⟩, -⟩
  obtain ⟨-, hcorrected, -⟩ := hscrub Config.tier2Base .correctable unsplitCounters (by decide) (by decide)
  obtain ⟨t, hexec, hclean⟩ := hcorrected rfl
  have hpoison : (nextState (exec (.scrubGranule Config.tier2Base .correctable) unsplitCounters)).bind
      (fun t => eccAt t (granuleOf Config.tier2Base)) = some .poisoned := by decide
  rw [hexec] at hpoison
  cases hclean.symm.trans hpoison

end Sys2Proof
end

section
/-! SUPPORT. Writes of a still chip (R29, R86, R199): what a physical write outside the mailboxes leaves of the state, and the
words of the Commons that a Teller operation names (R252). -/

namespace Sys2Proof.Machine

/-! ## A still chip -/

section
variable {s : State} (h : s.Still)
include h

theorem State.Still.noEcc : s.ecc = [] := by
  obtain ⟨he, -⟩ := h
  exact he

theorem State.Still.noHeld : s.heldStores = [] := by
  obtain ⟨-, hh, -⟩ := h
  exact hh

theorem State.Still.partsStill : s.parts.all Partition.still = true := by
  obtain ⟨-, -, -, hp, -⟩ := h
  exact hp

/-- A still chip whose partitions are calm is calm. -/
theorem State.Still.calm (hp : s.parts.all Partition.calm = true) : s.Calm := by
  obtain ⟨he, hh, hm, -, hc⟩ := h
  exact ⟨he, hh, hm, hp, hc⟩

end

/-- With no launch only a handler, or a core with no strand, waits. -/
theorem waiters_still {s : State} (h : s.parts.all Partition.still = true) :
    waiters s = (s.liveCores.filter fun n => (s.coreAt n).hwait.isSome).map .thread := by
  have hl (k : Nat) : (s.part k).launches = [] := by
    obtain ⟨-, -, -, -, -, -, -, hlaunch, -⟩ := still_fields (part_still h k)
    exact hlaunch
  simp [waiters, hl]

/-- A write breaks reservations, and ends no wait by itself. -/
theorem waiters_breakResv_still {s : State} (h : s.parts.all Partition.still = true) (w : Option Nat) (a n : Nat) :
    waiters (breakResv s w a n) = waiters s := by
  have hlive : (breakResv s w a n).liveCores = s.liveCores := by
    rw [breakResv_eq, State.liveCores, State.liveCores, Core.afterWrite_id, List.map_map]
    rfl
  have hparts : (breakResv s w a n).parts.all Partition.still = true := h
  rw [waiters_still h, waiters_still hparts, hlive]
  simp only [coreAt_breakResv, Core.afterWrite_hwait]

/-! ## Writes outside the mailboxes -/

/-- No mailbox meets a run of n bytes (R388). -/
abbrev MailFree (s : State) (a n : Nat) : Prop := ∀ k < s.nparts, a + n ≤ mailboxAt s k ∨ mailboxAt s k + 256 ≤ a

/-- A run that meets no control structure meets no mailbox. -/
theorem mailFree_of_softRun {s : State} {a n : Nat} (h : SoftRun s a n) : MailFree s a n := fun k hk => by
  refine h ⟨.mail k, mailboxAt s k, 0, 256⟩ (List.mem_flatMap.2 ⟨k, ?_, List.mem_cons_self⟩)
  simpa [mem_upFrom] using hk

/-- A run that meets no control structure is stored as it is (R29). -/
theorem softBytes_of_softRun {s : State} {a : Nat} {bs : List Byte} (h : SoftRun s a bs.length) (p : Priv) : softBytes s p a bs = bs := by
  have hnone : ((ctlRuns s).filter fun r => decide (r.phys < a + bs.length) && decide (a < r.phys + r.len)) = [] := by
    rw [List.filter_eq_nil_iff]
    intro r hr
    have := h r hr
    simp only [Bool.and_eq_true, decide_eq_true_eq, not_and]
    omega
  simp [softBytes, hnone]

theorem bytes_of_softRun {s : State} {a : Nat} {bs : List Byte} (h : SoftRun s a bs.length) (w : Writer) : w.bytes s a bs = bs := by
  unfold Writer.bytes
  split <;> [exact softBytes_of_softRun h _; rfl]

theorem bytes_of_calm {s : State} (hc : s.Calm) {a : Nat} {bs : List Byte} (h : MailFree s a bs.length) (w : Writer) :
    w.bytes s a bs = bs := by
  unfold Writer.bytes
  split <;> [exact softBytes_calm hc.partsCalm _ h; rfl]

/-- t is s with memory m, but for the reservations, and no other agent takes part in a write of t either. -/
structure MemWrote (s t : State) (m : Bytes) : Prop where
  eq : t = { s with mem := m, cores := t.cores, core := { s.core with resv := t.core.resv } }
  still : t.Still

namespace MemWrote

variable {s t : State} {m : Bytes}

theorem refl (h : s.Still) : MemWrote s s s.mem := ⟨rfl, h⟩

section
variable (h : MemWrote s t m)
include h

theorem mem_eq : t.mem = m := by rw [h.eq]
theorem ctx_eq : t.ctx = s.ctx := by rw [h.eq]
theorem parts_eq : t.parts = s.parts := by rw [h.eq]

theorem calm (hc : s.Calm) : t.Calm := h.still.calm (by rw [h.parts_eq]; exact hc.partsCalm)

theorem sameThread : SameThread s t := by
  refine ⟨?_, by rw [h.ctx_eq]⟩
  rw [h.eq]
  exact ⟨rfl, rfl, rfl, rfl, rfl, rfl, rfl, rfl⟩

theorem inCounterBlock_eq (a : Nat) : inCounterBlock t a = inCounterBlock s a := by rw [h.eq]; rfl

theorem mailFree {a n : Nat} (hm : MailFree s a n) : MailFree t a n := by rw [h.eq]; exact hm

end

/-- One more write outside the mailboxes, of bytes that its writer may write. -/
theorem write (h : MemWrote s t m) (he : s.ctx.esc = none) {a : Nat} {bs : List Byte} {w : Writer} (hb : bs ≠ [])
    (hc : inCounterBlock s a = false) (hm : MailFree s a bs.length) (hw : w.bytes t a bs = bs) (k : Nat) (new : Bool)
    (page : Option PageRef) : MemWrote s (physWrite t k new w page a bs) (setBytes m a bs) := by
  have hwrite : physWrite t k new w page a bs = breakResv { t with mem := setBytes m a bs } w.core a bs.length := by
    rw [physWrite_still h.still (by rw [h.ctx_eq]; exact he) (by rw [h.inCounterBlock_eq]; exact hc) k new w page bs hb, hw,
      h.mem_eq]
    exact mailSee_of_disjoint (h.mailFree hm)
  rw [hwrite]
  obtain ⟨hecc, hheld, hmail, hparts, hesc, hwait⟩ := h.still
  refine ⟨?_, hecc, hheld, hmail, hparts, ?_, ?_⟩
  · rw [breakResv_eq, h.eq]
    have hcore := Core.afterWrite_eq w.core a bs.length { s.core with resv := t.core.resv }
    show State.mk .. = State.mk ..
    congr 1
  · rw [breakResv_eq, List.all_map]
    refine List.all_eq_true.2 fun p hp => ?_
    show (p.2.afterWrite w.core a bs.length).ctx.esc.isNone = true
    rw [Core.afterWrite_ctx]
    exact List.all_eq_true.1 hesc p hp
  · exact (waiters_breakResv_still (s := { t with mem := _ }) hparts w.core a bs.length).trans hwait

end MemWrote

end Sys2Proof.Machine
end

section
/-! SUPPORT. The Teller's words (R241, R252): a Teller operation's place, and a write on behalf of the thread. -/

namespace Sys2Proof.Machine

/-- A word of the Commons lies in its window, aligned, in the partition's bank group. -/
theorem commonsWord_some {s : State} {k al n a : Nat} {p : Priv} {va : Word} (h : commonsWord s k p va al n = some a) :
    Config.windowBase ≤ va.toNat ∧ va.toNat < Config.windowBase + Config.commonsBytes ∧ va.toNat % al = 0
      ∧ commonsOk s k p (va.toNat - Config.windowBase) n = true ∧ a = Config.commonsBase + (va.toNat - Config.windowBase) := by
  simp only [commonsWord] at h
  split at h
  next hin =>
    obtain ⟨hlo, hhi, hal, hok⟩ := hin
    exact ⟨hlo, hhi, hal, hok, (Option.some.inj h).symm⟩
  next => cases h

section
variable {s : State} (hq : Quiet s) {va : Word} {al n a : Nat}
include hq

theorem Quiet.barred : barred s = false := by simp [Machine.barred, hq.barrier]

/-- A word of the partition's Commons, outside the counter block, is the place of the operation. -/
theorem runs_tellerAddr (hw : commonsWord s s.pidx (dataPriv s) va al n = some a) (hc : inCounterBlock s a = false) :
    Runs (tellerAddr va al n) s a s := by
  have hplace : Runs (tellerPlace va al n) s a s := by
    refine Runs.get_bind (Runs.ite_neg (by simp [hq.barred]) ?_)
    rw [hw]
    refine Runs.ite_neg (by simp [hc]) ?_
    simp only [orderFor_nil hq.held, mustWait_nil hq.held]
    exact Runs.ite_neg Bool.false_ne_true (Runs.set_bind (Runs.pure a s))
  have hpoison : Runs (tellerPoison va a n) s () s := by
    refine Runs.get_bind ?_
    rw [scrubRead_of_no_ecc hq.ecc]
    exact Runs.set_bind (Runs.ite_neg Bool.false_ne_true (Runs.pure () s))
  exact hplace.bind (hpoison.bind (Runs.pure a s))

/-- Any other address traps TELLER. -/
theorem stops_tellerAddr (hw : commonsWord s s.pidx (dataPriv s) va al n = none) :
    Stops (tellerAddr va al n) s (.trap cTeller va) s := by
  have hplace : Stops (tellerPlace va al n) s (.trap cTeller va) s := by
    refine Stops.get_bind (Stops.ite_neg (by simp [hq.barred]) ?_)
    rw [hw]
    exact Stops.trapM cTeller va s
  exact hplace.bind

end

theorem atomicBytes_pos (w : BitVec 2) : 0 < atomicBytes w := by unfold atomicBytes; split <;> decide

/-- Software's write of a run that meets no control structure. -/
theorem memWrote_threadWrite {s : State} (h : s.Still) (he : s.ctx.esc = none) {a : Nat} {bs : List Byte} (hb : bs ≠ [])
    (hc : inCounterBlock s a = false) (hs : SoftRun s a bs.length) : MemWrote s (threadWrite s a bs) (setBytes s.mem a bs) :=
  (MemWrote.refl h).write he hb hc (mailFree_of_softRun hs) (bytes_of_softRun hs _) _ _ _

/-! ## The scalar atomics (R244 to R246) -/

theorem exec_of_tellerForm {i : Instr} {op : Nat} {w : BitVec 2} {rs2 rs1 rd : XReg} (h : tellerForm i = some (op, w, rs2, rs1, rd))
    (s : State) : exec i s = tellerAtomic i op w rs2 rs1 rd s := by
  unfold tellerForm at h
  split at h <;> cases h <;> rfl

section
variable {i : Instr} {op : Nat} {w : BitVec 2} {rs2 rs1 rd : XReg} {s : State} {a : Nat}
  (hform : tellerForm i = some (op, w, rs2, rs1, rd)) (hr : Ready i s) (hs : s.Still)
include hform hr hs

/-- An atomic on a word of the Commons: the old word is answered, the combined one written. -/
theorem exec_tellerAtomic (hw : commonsWord s s.pidx (dataPriv s) (s.x rs1) (atomicBytes w) (atomicBytes w) = some a)
    (hc : inCounterBlock s a = false) (hsoft : SoftRun s a (atomicBytes w)) :
    ∃ t, exec i s = .next (retire (t.setX rd (atomicResult w (getLe s.mem a (atomicBytes w)))))
      ∧ MemWrote s t (setBytes s.mem a (natBytes (atomicBytes w) (tellerNew op w (getLe s.mem a (atomicBytes w))
          ((s.x rs2).toNat % 2 ^ (8 * atomicBytes w)) ((s.x rd).toNat % 2 ^ (8 * atomicBytes w))))) := by
  have hq : Quiet s := hr.1.quiet hs.noEcc hs.noHeld
  obtain ⟨-, -, hal, -⟩ := commonsWord_some hw
  refine ⟨_, ?_, memWrote_threadWrite hs hq.esc (natBytes_ne_nil (atomicBytes_pos w) _) hc (by rwa [natBytes_length])⟩
  rw [exec_of_tellerForm hform, tellerAtomic, guarded_of_ready hr]
  refine runM_of_runs (Runs.withLevels hs.partsStill ?_)
  refine Runs.ite_neg (not_not.2 hal) ((runs_tellerAddr hq hw hc).bind ?_)
  exact Runs.bind (Runs.get_bind (Runs.set_bind (Runs.pure _ _))) (Runs.modify _ _)

theorem exec_tellerAtomic_misaligned (hal : (s.x rs1).toNat % atomicBytes w ≠ 0) :
    exec i s = .next (enterTrap s false cMisStore (s.x rs1)) := by
  rw [exec_of_tellerForm hform, tellerAtomic, guarded_of_ready hr]
  exact runM_of_ready_trap hr (Stops.withLevels hs.partsStill (Stops.ite_pos hal (Stops.trapM _ _ s).bind))

theorem exec_tellerAtomic_outside (hal : (s.x rs1).toNat % atomicBytes w = 0)
    (hw : commonsWord s s.pidx (dataPriv s) (s.x rs1) (atomicBytes w) (atomicBytes w) = none) :
    exec i s = .next (enterTrap s false cTeller (s.x rs1)) := by
  have hq : Quiet s := hr.1.quiet hs.noEcc hs.noHeld
  rw [exec_of_tellerForm hform, tellerAtomic, guarded_of_ready hr]
  exact runM_of_ready_trap hr (Stops.withLevels hs.partsStill (Stops.ite_neg (not_not.2 hal) (stops_tellerAddr hq hw).bind))

end

end Sys2Proof.Machine

namespace Sys2Proof

open Sys2Proof.Machine

/-- Settles O45: the atomic is one read and one write of its word, which leave all but memory and the reservations. -/
theorem tellerAtomicsComplete : Obligations.TellerAtomicsComplete := by
  unfold Obligations.TellerAtomicsComplete
  refine ⟨⟨?complete, ?traps⟩, ?numbers⟩
  case complete =>
    intro i op w rs2 rs1 rd s a hform hr hs hwf n hw hc hsoft old
    obtain ⟨t, hexec, ht⟩ := exec_tellerAtomic hform hr hs hw hc hsoft
    have hmem : (retire (t.setX rd (atomicResult w old))).mem = t.mem := by simp
    refine ⟨_, hexec, hmem.trans ht.mem_eq, fun b hb => ?_, ht.sameThread.retire_x rd _, ht.sameThread.retire_u rd _,
      ht.sameThread.retire_sameCore rd _, ht.sameThread.retire_sameVector rd _⟩
    rw [hmem, ht.mem_eq]
    exact getByte_natBytes_out hwf _ hb
  case traps =>
    intro i op w rs2 rs1 rd s hform hr hs
    exact ⟨exec_tellerAtomic_misaligned hform hr hs, exec_tellerAtomic_outside hform hr hs⟩
  case numbers =>
    intro w old b e
    refine ⟨?_, ?_, ?_, ?_, rfl, rfl, rfl, fun h => if_pos h, fun h => if_neg h⟩ <;> rintro rfl <;> rfl

end Sys2Proof
end

section
/-! SUPPORT. The Teller's in-place commands (R247 to R249): the purse that a command names, and the zeroes of ZERO. -/

namespace Sys2Proof.Machine

/-- The Commons holds no device port (R415). -/
theorem isPort_of_commonsWord {s : State} {k al n a : Nat} {p : Priv} {va : Word} (h : commonsWord s k p va al n = some a) :
    isPort a = false := by
  obtain ⟨hlo, hhi, -, -, ha⟩ := commonsWord_some h
  have hports : Config.commonsBase + Config.commonsBytes ≤ Config.portBase := by decide
  rw [isPort, decide_eq_false (by omega), Bool.false_and]

/-- The purse table names the purse whose address its entry holds (R276). -/
theorem runs_purseOf {s : State} (hq : Quiet s) {pr : Priv} {pbase : Word} {p purse : Nat} (h : purseAt s pr pbase p = some purse)
    (tv : Word → Word) : Runs (purseOf pr pbase p tv) s purse s := by
  unfold purseAt at h
  split at h
  case h_1 => cases h
  case h_2 e hent =>
    split at h
    case h_1 => cases h
    case h_2 a hword =>
      split_ifs at h with hc
      obtain rfl := Option.some.inj h
      refine Runs.get_bind ?_
      simp only [hent]
      refine (runs_readLoc hq (isPort_of_commonsWord hent)).bind (Runs.get_bind ?_)
      simp only [hword]
      exact Runs.ite_neg hc (Runs.pure a s)

section
variable {rs2 rs1 : XReg} {p : BitVec 5} {s : State} {purse : Nat} (h : Ready (.tcmd rs2 rs1 p) s) (he : s.ecc = [])
  (hh : s.heldStores = [])
include h he hh

/-- A command whose checks pass is carried out at once by a Teller that does not lag. -/
theorem exec_tcmd_of_ready (hlegal : (tcmdOf (s.x rs2)).legal = true)
    (hal : (s.x rs1).toNat % (if (tcmdOf (s.x rs2)).cmd = 6 then 8
      else max (codeBytes (tcmdOf (s.x rs2)).sfmt) (tcmdOf (s.x rs2)).dbytes) = 0)
    (hwin : Config.windowBase ≤ (s.x rs1).toNat)
    (hrun : commonsRun s s.pidx (dataPriv s) ((s.x rs1).toNat - Config.windowBase + (tcmdOf (s.x rs2)).first)
      (tcmdOf (s.x rs2)).span = true)
    (hpurse : purseAt s (dataPriv s) s.ctx.u.pbase p.toNat = some purse) (hroom : tcmdHeld s < 16) :
    exec (.tcmd rs2 rs1 p) s = .next (retire (tcmdRun s
      { part := s.pidx, owner := s.core.strand, colour := s.ctx.snapCol, core := s.core.id, priv := dataPriv s,
        cmd := (tcmdOf (s.x rs2)).cmd,
        fields := [BitVec.ofNat 64 (Config.commonsBase + ((s.x rs1).toNat - Config.windowBase)), s.x rs2], purse := purse,
        bytes := (tcmdOf (s.x rs2)).bytes }
      (Config.commonsBase + ((s.x rs1).toNat - Config.windowBase)) (tcmdOf (s.x rs2)))) := by
  have hq : Quiet s := h.1.quiet he hh
  show execTcmd rs2 rs1 p s = _
  rw [execTcmd, guarded_of_ready h]
  refine runM_of_runs (Runs.ite_neg (by simp [hq.barred]) ?_)
  refine Runs.ite_neg (by simp [hlegal]) (Runs.ite_neg (not_not.2 hal) (Runs.ite_neg ?_ ?_))
  · rintro ⟨-, hlow | hout⟩
    · omega
    · exact Bool.false_ne_true (hout.symm.trans hrun)
  · refine (runs_purseOf hq hpurse _).bind (Runs.get_bind (Runs.ite_neg (by omega) ?_))
    simp only [flushWhere_nil hh]
    refine Runs.ite_neg (by simp [hh]) (Runs.ite_neg (by simp [hq.lag]) (Runs.set s _))

end

theorem exec_tcmdComplete_at {pos : Nat} {s : State} {o : TcmdOp} (h : s.tcmds[pos]? = some o) :
    exec (.tcmdComplete pos) s =
      .next (tcmdRun { s with tcmds := s.tcmds.eraseIdx pos } o (o.fields.getD 0 0).toNat (tcmdOf (o.fields.getD 1 0))) := by
  show execTcmdComplete pos s = _
  rw [execTcmdComplete, h]

theorem natBytes_zero (n : Nat) : natBytes n 0 = List.replicate n 0 := by
  induction n with
  | zero => rfl
  | succ n ih => rw [natBytes, List.replicate_succ, ← ih]; rfl

/-- ZERO's new element is 0, whatever the old one (Table 11.3). -/
theorem Tcmd.elem_of_zero {t : Tcmd} (h : t.cmd = 0) (bits : Nat) : t.elem bits = 0 := by
  obtain ⟨cmd, sfmt, dfmt, count, arg⟩ := t
  subst h
  rfl

theorem zero_of_mem_tcmdWrites {s : State} {a : Nat} {t : Tcmd} (h : t.cmd = 0) {w : ElemWrite} (hw : w ∈ tcmdWrites s a t) :
    w.bytes = List.replicate t.dbytes 0 ∧ w.poison = false := by
  rw [tcmdWrites, if_neg (by omega)] at hw
  obtain ⟨i, -, rfl⟩ := List.mem_map.1 hw
  exact ⟨by rw [Tcmd.elem_of_zero h, natBytes_zero], by simp [h]⟩

end Sys2Proof.Machine

namespace Sys2Proof

open Sys2Proof.Machine

/-- Settles O49: a Teller that does not lag carries the command out at issue, and TCMD_COMPLETE the one at its position. -/
theorem tellerCommandsComplete : Obligations.TellerCommandsComplete := by
  unfold Obligations.TellerCommandsComplete
  refine ⟨fun rs2 rs1 p s purse h => ?_, fun pos s o => exec_tcmdComplete_at, fun s a t h w => zero_of_mem_tcmdWrites h⟩
  intro va t o hlegal hal hwin hrun he hh hpurse hroom
  exact exec_tcmd_of_ready h he hh hlegal hal hwin hrun hpurse hroom

end Sys2Proof
end

section
/-! SUPPORT. The requests of a bank's other agents (R239 to R241) and `wqpost` (R287, R291). -/

namespace Sys2Proof.Machine

/-! ## The store of an agent, bank by bank -/

/-- A store of another agent to a run that meets no counter block and no mailbox. -/
theorem memWrote_bankPieces {s : State} (hc : s.Calm) (he : s.ctx.esc = none) (w : Writer) (n : Nat) {a : Nat} {bs : List Byte}
    {t : State} {m : Bytes} (hlen : a % 4096 + bs.length ≤ 4096 * n) (hp : PlainCommons s a bs.length) (ht : MemWrote s t m) :
    MemWrote s ((bankPieces n a bs).foldl (fun u p => physWrite u (ownerOf u p.1) true w none p.1 p.2) t) (setBytes m a bs) := by
  induction n generalizing a bs t m with
  | zero =>
    obtain rfl := List.eq_nil_of_length_eq_zero (by omega : bs.length = 0)
    exact ht
  | succ n ih =>
    by_cases hb : bs = []
    · subst hb
      exact ht
    · rw [bankPieces, if_neg (by simpa using hb), List.foldl_cons]
      generalize hk : 4096 - a % 4096 = k
      have hpos : 0 < bs.length := List.length_pos_iff.2 hb
      have htake : bs.take k ≠ [] := by
        rw [← List.length_pos_iff, List.length_take]
        omega
      have hmail : MailFree s a (bs.take k).length :=
        plain_mail (List.length_pos_iff.2 htake) fun b hlo hhi => (hp b hlo (by rw [List.length_take] at hhi; omega)).2
      have hfirst : MemWrote s (physWrite t (ownerOf t a) true w none a (bs.take k)) (setBytes m a (bs.take k)) :=
        ht.write he htake (hp a le_rfl (by omega)).1 hmail (bytes_of_calm (ht.calm hc) (ht.mailFree hmail) w) _ _ _
      have hrest := ih (a := a + k) (bs := bs.drop k) (by rw [List.length_drop]; omega)
        (fun b hlo hhi => hp b (by omega) (by rw [List.length_drop] at hhi; omega)) hfirst
      have hsplit : setBytes (setBytes m a (bs.take k)) (a + k) (bs.drop k) = setBytes m a bs := by
        rcases Nat.le_total k bs.length with hle | hle
        · conv_rhs => rw [← List.take_append_drop k bs, setBytes_append, List.length_take, Nat.min_eq_left hle]
        · rw [List.drop_of_length_le hle, List.take_of_length_le hle]
          rfl
      rwa [hsplit] at hrest

theorem memWrote_agentStores {s : State} (hc : s.Calm) (he : s.ctx.esc = none) (w : Writer) {a : Nat} {bs : List Byte}
    (hp : PlainCommons s a bs.length) : MemWrote s (agentStores s w a bs) (setBytes s.mem a bs) := by
  rw [agentStores, levelHook_still s hc.partsStill]
  exact memWrote_bankPieces hc he w _ (by omega) hp (MemWrote.refl hc.still)

/-- A write on a still chip leaves the context of the core whose turn it is. -/
theorem physWrite_still_ctx {s : State} (h : s.Still) (he : s.ctx.esc = none) {a : Nat} (hc : inCounterBlock s a = false) (k : Nat)
    (new : Bool) (w : Writer) (page : Option PageRef) {bs : List Byte} (hb : bs ≠ []) :
    (physWrite s k new w page a bs).ctx = s.ctx := by
  rw [physWrite_still h he hc k new w page bs hb, (mailSee_parts_ctx _ _ _).2, breakResv_ctx]

theorem exec_tellerRequest_atomic {s : State} (h : s.Still) {op : BitVec 3} {w : BitVec 2} {off : Nat} {v e : Word}
    (hal : off % atomicBytes w = 0) (hin : off + atomicBytes w ≤ Config.commonsBytes)
    (hc : inCounterBlock s (Config.commonsBase + off) = false) :
    exec (.tellerRequest (.atomic op w off v e)) s = .next (physWrite s (bankPart s off) true .device none (Config.commonsBase + off)
      (natBytes (atomicBytes w) (tellerNew op.toNat w (getLe s.mem (Config.commonsBase + off) (atomicBytes w))
        (v.toNat % 2 ^ (8 * atomicBytes w)) (e.toNat % 2 ^ (8 * atomicBytes w))))) := by
  show execTellerRequest (.atomic op w off v e) s = _
  have hok : off % atomicBytes w = 0 ∧ off + atomicBytes w ≤ Config.commonsBytes ∧ inCounterBlock s (Config.commonsBase + off) = false
      ∧ (scrubRead s (Config.commonsBase + off) (atomicBytes w)).1 = false :=
    ⟨hal, hin, hc, by rw [scrubRead_of_no_ecc h.noEcc]⟩
  rw [execTellerRequest, if_pos hok]
  exact congrArg Host.Outcome.next (levelHook_still s h.partsStill _)

/-! ## The words of a record -/

theorem leNat_lt (bs : List Byte) : leNat bs < 256 ^ bs.length := by
  induction bs with
  | nil => exact Nat.one_pos
  | cons b bs ih =>
    rw [leNat, List.length_cons, Nat.pow_succ]
    have := b.isLt
    omega

theorem natBytes_leNat (bs : List Byte) : natBytes bs.length (leNat bs) = bs := by
  induction bs with
  | nil => rfl
  | cons b bs ih =>
    have hb := b.isLt
    have hdiv : (b.toNat + 256 * leNat bs) / 256 = leNat bs := by omega
    have hlow : BitVec.ofNat 8 (b.toNat + 256 * leNat bs) = b := by
      apply BitVec.eq_of_toNat_eq
      rw [BitVec.toNat_ofNat]
      omega
    rw [List.length_cons, leNat, natBytes, hdiv, hlow, ih]

theorem natBytes_leWord {bs : List Byte} (h : bs.length = 8) : natBytes 8 (leWord bs).toNat = bs := by
  have hlt := leNat_lt bs
  rw [h, show 256 ^ 8 = 2 ^ 64 from rfl] at hlt
  rw [leWord, BitVec.toNat_ofNat, Nat.mod_eq_of_lt hlt, ← h, natBytes_leNat]

theorem getBytes_add (m : Bytes) (a k n : Nat) : getBytes m a (k + n) = getBytes m a k ++ getBytes m (a + k) n := by
  induction k generalizing a with
  | zero => rw [Nat.zero_add]; rfl
  | succ k ih => rw [Nat.succ_add, getBytes, ih, getBytes, List.cons_append, Nat.add_right_comm, Nat.add_assoc]

/-- The bytes of the words of a run are the run's. -/
theorem wordBytes_wordsAt (m : Bytes) (a n : Nat) : wordBytes (wordsAt m a n) = getBytes m a (8 * n) := by
  induction n generalizing a with
  | zero => rfl
  | succ n ih =>
    have hlen : 8 * (n + 1) = 8 + 8 * n := by omega
    rw [hlen, getBytes_add, wordsAt_succ, wordBytes, List.flatMap_cons, natBytes_leWord (getBytes_length m a 8), ← ih, wordBytes]

/-! ## The control structures of a work queue -/

/-- A control structure outside the Commons lies below it (R415). -/
theorem sysAddr_below {s : State} {k va a : Nat} (h : sysAddr s k va = some a) (hcom : isCommons a = false) :
    a + 4096 ≤ Config.commonsBase := by
  have hbase : Config.commonsBase = 0x40000000000 := rfl
  have htier : Config.tier2Base + Config.tier2Bytes = 0x30000000000 := rfl
  have hhbm : Config.hbmBytes = 0x6000000000 := rfl
  unfold sysAddr at h
  split_ifs at h with hwin hin hhigh
  · have ha := Option.some.inj h
    rw [isCommons, Bool.and_eq_false_iff, decide_eq_false_iff_not, decide_eq_false_iff_not] at hcom
    omega
  · split at h
    · simp only at h
      split_ifs at h <;> have ha := Option.some.inj h <;> omega
    all_goals cases h

/-- The hardware's access to a marked page changes nothing where no granule is listed. -/
theorem sysTouch_of_marked {s : State} (he : s.ecc = []) {k va : Nat} (h : pageMarked s k va = true) (n : Nat) :
    sysTouch s k va n = s := by
  unfold sysTouch
  split
  · rw [scrubRead_of_no_ecc he]
  next hwin =>
    rw [pageMarked, decide_eq_false hwin, Bool.false_or] at h
    have hempty : s.ecc.isEmpty = true := by rw [he]; rfl
    cases hwalk : walk s k va with
    | leaf pte w base size =>
      rw [hwalk] at h
      have hAD : setAD s k true pte w .store = s := by rw [setAD, if_pos (of_decide_eq_true h)]
      simp only [hempty, if_true, hAD, ite_self, scrubRead_of_no_ecc he]
    | fault | access | poison => simp only [hempty, if_true]

theorem putAD_of_marked {s : State} {k va : Nat} (h : pageMarked s k va = true) (put : State → Nat → List Byte → State) :
    putAD put s k va = s := by
  unfold putAD
  split
  · rfl
  next hwin =>
    rw [pageMarked, decide_eq_false hwin, Bool.false_or] at h
    cases hwalk : walk s k va with
    | leaf pte w base size =>
      rw [hwalk] at h
      simp only [of_decide_eq_true h, beq_self_eq_true, Bool.or_true, if_true]
    | fault | access | poison => rfl

end Sys2Proof.Machine
end

section
/-! SUPPORT. `wqpost` from plain memory to a work queue whose page is marked (R287, R291). -/

namespace Sys2Proof.Machine

/-- What `wqpost` leaves where the record's bytes are bs and the queue's control block lies at cb (R291). -/
def wqPosted (s : State) (rd : XReg) (cb : Nat) (bs : List Byte) : State :=
  if wqEna s cb = false ∨ wqOwn s cb = false then retire (s.setX rd 2)
  else if wqUsed s cb = 2 ^ wqLsz s cb then retire (s.setX rd 1)
  else match sysLoc s s.pidx (wqRecord s cb (wqTail s cb)) with
  | none => retire (s.setX rd 2)
  | some (a, page) =>
    let new := colourNew s s.pidx s.ctx
    let t := putAD (fun v b bs => rawWrite v s.pidx new none none b bs) s s.pidx (wqRecord s cb (wqTail s cb))
    let u := physWrite t s.pidx new .device page a bs
    retire ((physWrite u u.pidx new .device none (cb + 16) (natBytes 4 ((wqTail s cb + 1) % 2 ^ 32))).setX rd 0)

section
variable {s : State} {rd : XReg} {cb : Nat} {bs : List Byte}

theorem wqPosted_of_disabled (h : wqEna s cb = false ∨ wqOwn s cb = false) : wqPosted s rd cb bs = retire (s.setX rd 2) := if_pos h

theorem wqPosted_of_full (hena : wqEna s cb = true) (hown : wqOwn s cb = true) (hfull : wqUsed s cb = 2 ^ wqLsz s cb) :
    wqPosted s rd cb bs = retire (s.setX rd 1) := by
  rw [wqPosted, if_neg (by simp [hena, hown]), if_pos hfull]

/-- With room, the record and then the tail are written, and nothing else but reservations. -/
theorem wqPosted_of_room (hs : s.Still) (he : s.ctx.esc = none) (hena : wqEna s cb = true) (hown : wqOwn s cb = true)
    (hroom : wqUsed s cb ≠ 2 ^ wqLsz s cb) {a : Nat} {page : Option PageRef}
    (hloc : sysLoc s s.pidx (wqRecord s cb (wqTail s cb)) = some (a, page))
    (hmark : pageMarked s s.pidx (wqRecord s cb (wqTail s cb)) = true) (hb : bs ≠ [])
    (ha : a + bs.length ≤ Config.commonsBase) (hcb : cb + 16 + 4 ≤ Config.commonsBase) :
    ∃ t, wqPosted s rd cb bs = retire (t.setX rd 0)
      ∧ MemWrote s t (setBytes (setBytes s.mem a bs) (cb + 16) (natBytes 4 ((wqTail s cb + 1) % 2 ^ 32))) := by
  have hrecord : MemWrote s (physWrite s s.pidx (colourNew s s.pidx s.ctx) .device page a bs) (setBytes s.mem a bs) :=
    (MemWrote.refl hs).write he hb (inCounterBlock_of_below ha (List.length_pos_iff.2 hb) s) (mail_of_below ha s) rfl _ _ _
  have htail := hrecord.write (w := .device) he (natBytes_ne_nil (by decide : 0 < 4) ((wqTail s cb + 1) % 2 ^ 32))
    (inCounterBlock_of_below hcb (by decide) s) (by rw [natBytes_length]; exact mail_of_below hcb s) rfl
  refine ⟨_, ?_, htail (physWrite s s.pidx (colourNew s s.pidx s.ctx) .device page a bs).pidx (colourNew s s.pidx s.ctx) none⟩
  rw [wqPosted, if_neg (by simp [hena, hown]), if_neg hroom, hloc]
  simp only [putAD_of_marked hmark]

end

/-- A ready `wqpost` of a record in plain memory, to a queue whose control block is in a marked page. -/
theorem exec_wqpost_of_ready {rs2 rs1 rd : XReg} {s : State} {cb : Nat} (h : Ready (.wqpost rs2 rs1 rd) s) (he : s.ecc = [])
    (hh : s.heldStores = []) (hp : PlainAccess s (s.x rs2) 64) (hq : (s.x rs1).toNat < 16384 / s.nparts)
    (hcb : sysAddr s s.pidx (wqBlock s s.pidx (s.x rs1).toNat) = some cb)
    (hmark : pageMarked s s.pidx (wqBlock s s.pidx (s.x rs1).toNat) = true) :
    exec (.wqpost rs2 rs1 rd) s = .next (wqPosted s rd cb (getBytes s.mem (s.x rs2).toNat 64)) := by
  have hquiet : Quiet s := h.1.quiet he hh
  have ⟨hpriv, hmprv, hal, hok, _⟩ := hp
  have hload : Runs (loadWords (s.x rs2) 8) s (wordsAt s.mem (s.x rs2).toNat 8) s :=
    runs_loadWords hquiet hpriv hmprv (hp.words (by decide) (by decide) hok)
  have hrelease : Runs releaseM s () s := releaseM_run_of_idle hquiet.viq hh
  show execWqpost rs2 rs1 rd s = _
  rw [execWqpost, guarded_of_ready h]
  refine runM_of_runs (Runs.ite_neg (by omega) (Runs.ite_neg (not_not.2 hal) (hload.bind (hrelease.bind (Runs.modify_bind ?_)))))
  rw [sysTouch_of_marked he hmark]
  refine Runs.get_bind ?_
  simp only [hcb]
  have hbytes : ((wordsAt s.mem (s.x rs2).toNat 8).flatMap fun w => natBytes 8 w.toNat) = getBytes s.mem (s.x rs2).toNat 64 :=
    wordBytes_wordsAt s.mem (s.x rs2).toNat 8
  rw [hbytes]
  unfold wqPosted
  split
  · exact Runs.set s _
  · split
    · exact Runs.set s _
    · cases sysLoc s s.pidx (wqRecord s cb (wqTail s cb)) <;> exact Runs.set s _

end Sys2Proof.Machine

namespace Sys2Proof

open Sys2Proof.Machine

/-- Settles O50: an agent's store is its pieces' writes one after another, an atomic is one write of its word, and `wqpost` is
the write of the record and then of the tail. -/
theorem bankRequestsAndPosts : Obligations.BankRequestsAndPosts := by
  unfold Obligations.BankRequestsAndPosts
  refine ⟨?store, ?atomic, fun bank s hbank => if_pos hbank, ?post⟩
  case store =>
    intro off bytes s hc he hin hp
    have hw := memWrote_agentStores hc he (.agent .supervisor) hp
    exact ⟨_, if_pos hin, hw.mem_eq, hw.ctx_eq⟩
  case atomic =>
    intro op w off v e s hs he hal hin hc n a
    have hb := natBytes_ne_nil (atomicBytes_pos w) (tellerNew op.toNat w (getLe s.mem a n) (v.toNat % 2 ^ (8 * n)) (e.toNat % 2 ^ (8 * n)))
    exact ⟨_, exec_tellerRequest_atomic hs hal hin hc, physWrite_still_ctx hs he hc _ _ _ _ hb,
      physWrite_still_mem hs he hc _ _ _ _ _ hb⟩
  case post =>
    intro rs2 rs1 rd s cb h hs _ hp hq hcb hlow _ hmark
    have hexec := exec_wqpost_of_ready h hs.noEcc hs.noHeld hp hq hcb hmark
    have hbelow := sysAddr_below hcb hlow
    refine ⟨fun hoff => ?_, fun hena hown hfull => ?_, fun a page hena hown hroom hloc hcom hrec => ?_⟩
    · rw [hexec, wqPosted_of_disabled hoff]
    · rw [hexec, wqPosted_of_full hena hown hfull]
    · obtain ⟨-, -, -, -, hesc, -⟩ := h.1
      have ha : a + 4096 ≤ Config.commonsBase := by
        obtain ⟨b, hb, hab⟩ := Option.map_eq_some_iff.1 hloc
        obtain ⟨rfl, -⟩ := Prod.mk.inj hab
        exact sysAddr_below hb hcom
      obtain ⟨t, hposted, ht⟩ := wqPosted_of_room (rd := rd) (bs := getBytes s.mem (s.x rs2).toNat 64) hs hesc hena hown hroom hloc
        hrec (List.ne_nil_of_length_pos (by rw [getBytes_length]; decide)) (by rw [getBytes_length]; omega) (by omega)
      refine ⟨_, by rw [hexec, hposted], ?_, ht.sameThread.retire_x rd _, ht.sameThread.retire_sameCore rd _,
        ht.sameThread.retire_sameVector rd _⟩
      rw [← ht.mem_eq]
      simp

end Sys2Proof
end

section
/-! SUPPORT. The vector scatter atomics (R251): one element's atomic, and an entry's run over its enabled elements. -/

namespace Sys2Proof.Machine

/-! ## What an entry's atomics leave of memory -/

/-- Memory after the scatter atomics of the elements of a list, each with its word's address and its own value. -/
def scatteredMem (op : Nat) (ty : ETy) (word raw : Nat → Nat) (is : List Nat) (m : Bytes) : Bytes :=
  is.foldl (fun q k => setBytes q (word k) (natBytes (ty.bits / 8) (scatterNew op ty (getLe q (word k) (ty.bits / 8)) (raw k)))) m

/-- A byte of no word that the elements name is as before. -/
theorem getByte_scatteredMem_out {op : Nat} {ty : ETy} {word raw : Nat → Nat} {is : List Nat} {m : Bytes} (hm : wfBytes m = true)
    {b : Nat} (hb : ∀ k ∈ is, b < word k ∨ word k + ty.bits / 8 ≤ b) :
    getByte (scatteredMem op ty word raw is m) b = getByte m b := by
  induction is generalizing m with
  | nil => rfl
  | cons k is ih =>
    rw [scatteredMem, List.foldl_cons]
    exact (ih (wfBytes_setBytes hm _ _) fun j hj => hb j (List.mem_cons_of_mem k hj)).trans
      (getByte_natBytes_out hm _ (hb k List.mem_cons_self))

theorem bytes_pos_of_scatterTag {ty : ETy} (h : scatterTag ty = true) : 0 < ty.bits / 8 := by
  cases ty with
  | int t =>
    have hw : 32 ≤ t.w := of_decide_eq_true h
    exact Nat.div_pos (by show 8 ≤ t.w; omega) (by decide)
  | flt f =>
    rcases Bool.or_eq_true_iff.1 h with hf | hf <;> rw [of_decide_eq_true hf] <;> decide
  | hx4 => cases h

/-! ## One element -/

/-- Where an indexed element's word lies: the Commons offset that its address is. -/
def scatterAdr (vs2 : VReg5) (ty : ETy) (en : VEntry) (c : Ctx) (k : Nat) : Nat := (elemAddr (.indexed vs2) ty.bits en c k).toNat

/-- An n-byte word at a Commons offset that an atomic of the partition may combine: aligned, in its bank group, and no part of a
counter block or a mailbox (R251, R333, R388). -/
structure ScatterFits (s : State) (p : Priv) (o n : Nat) : Prop where
  aligned : o % n = 0
  own : commonsOk s s.pidx p o n = true
  counter : inCounterBlock s (Config.commonsBase + o) = false
  mail : MailFree s (Config.commonsBase + o) n

theorem isPort_of_commonsOk {s : State} {k o n : Nat} {p : Priv} (h : commonsOk s k p o n = true) : isPort (Config.commonsBase + o) = false := by
  simp only [commonsOk, Bool.and_eq_true, decide_eq_true_eq] at h
  obtain ⟨⟨hin, -⟩, -⟩ := h
  have hports : Config.commonsBase + Config.commonsBytes < Config.portBase := by decide
  rw [isPort, decide_eq_false (by omega), Bool.false_and]

theorem runs_resolveSpace_commons {s : State} {p : Priv} {a : Word} {n : Nat} (h : commonsOk s s.pidx p a.toNat n = true) (acc : Acc) :
    Runs (resolveSpace 1 acc p a n) s (.phys (Config.commonsBase + a.toNat) kindRC none) s :=
  Runs.get_bind (Runs.ite_pos h (Runs.pure _ s))

section
variable {s t : State} {m : Bytes} {op : Nat} {vs2 vs3 : VReg5} {en : VEntry} {ty : ETy} (hc : s.Calm) (he : s.ctx.esc = none)
  (hty : s.ctx.ety vs3 = some ty) (hn : 0 < ty.bits / 8)
include hc he hty hn

/-- One element's atomic combines its word, and changes nothing else but reservations. -/
theorem runs_scatterElem (ht : MemWrote s t m) {k : Nat} (hfit : ScatterFits s en.priv (scatterAdr vs2 ty en s.ctx k) (ty.bits / 8)) :
    ∃ u, Runs (scatterElem op vs2 vs3 en k) t () u
      ∧ MemWrote s u (scatteredMem op ty (fun j => Config.commonsBase + scatterAdr vs2 ty en s.ctx j) (s.ctx.raw vs3) [k] m) := by
  have hbytes (v : Nat) : natBytes (ty.bits / 8) v ≠ [] := natBytes_ne_nil hn v
  have hmail (v : Nat) : MailFree s (Config.commonsBase + scatterAdr vs2 ty en s.ctx k) (natBytes (ty.bits / 8) v).length := by
    rw [natBytes_length]
    exact hfit.mail
  have hown : commonsOk t t.pidx en.priv (scatterAdr vs2 ty en s.ctx k) (ty.bits / 8) = true := by
    rw [ht.eq]
    exact hfit.own
  have hport := isPort_of_commonsOk hown
  have hcounter := (ht.inCounterBlock_eq _).trans hfit.counter
  obtain ⟨hecc, hheld, -, hparts, -, hwait⟩ := ht.still
  refine ⟨_, ?_, ht.write he (hbytes _) hfit.counter (hmail _) (bytes_of_calm (ht.calm hc) (ht.mailFree (hmail _)) (.agent en.priv))
    t.pidx (colourNew t t.pidx t.ctx) none⟩
  refine Runs.get_bind ?_
  simp only [ht.ctx_eq, hty]
  refine Runs.ite_neg (not_not.2 hfit.aligned) ((runs_resolveSpace_commons hown .store).bind (Runs.get_bind ?_))
  refine Runs.ite_neg (fun h => Bool.false_ne_true (hcounter.symm.trans h)) ?_
  simp only [orderFor_nil hheld, mustWait_nil hheld]
  refine Runs.ite_neg Bool.false_ne_true (Runs.set_bind ((runs_readRaw_phys hport hecc hheld).bind ?_))
  unfold Runs
  rw [← ht.mem_eq, ht.ctx_eq]
  show (Except.ok (), served t (levelHook t _)) = _
  rw [served_none hwait, levelHook_still t hparts, ht.ctx_eq]
  rfl

/-- An entry's atomics, in the order of its elements. -/
theorem elemLoop_scatterElem {is : List Nat} (ht : MemWrote s t m)
    (hfit : ∀ k ∈ is, ScatterFits s en.priv (scatterAdr vs2 ty en s.ctx k) (ty.bits / 8)) :
    ∃ u, elemLoop (scatterElem op vs2 vs3 en) is t = .done u
      ∧ MemWrote s u (scatteredMem op ty (fun j => Config.commonsBase + scatterAdr vs2 ty en s.ctx j) (s.ctx.raw vs3) is m) := by
  induction is generalizing t m with
  | nil => exact ⟨t, rfl, ht⟩
  | cons k is ih =>
    obtain ⟨u, hrun, hu⟩ := runs_scatterElem (op := op) hc he hty hn ht (hfit k List.mem_cons_self)
    obtain ⟨v, hloop, hv⟩ := ih hu fun j hj => hfit j (List.mem_cons_of_mem k hj)
    refine ⟨v, ?_, hv⟩
    unfold Runs at hrun
    rw [elemLoop, hrun]
    exact hloop

end

/-! ## The entry -/

theorem viqRun_of_scatterForm {i : Instr} {op : Nat} {e : Bool} {vs2 vs3 : VReg5} {m : MReg3}
    (h : scatterForm i = some (op, e, vs2, m, vs3)) : viqForm i = true ∧ ∀ en s, viqRun i en s = runScatter op e vs2 m vs3 en s := by
  unfold scatterForm at h
  split at h <;> cases h <;> exact ⟨rfl, fun _ _ => rfl⟩

/-- With no snapshot being taken, no cut comes before an entry (R269). -/
theorem entryConsumes_of_still {s : State} (h : s.parts.all Partition.still = true) (en : VEntry) : entryConsumes s en = false := by
  obtain ⟨-, -, htaking, -⟩ := still_fields (part_still h s.pidx)
  rw [entryConsumes, uncut, htaking]
  rfl

/-- What a scatter atomic needs (R120, R251). -/
def scatterNeed (e : Bool) (vs2 : VReg5) (m : MReg3) (vs3 : VReg5) (en : VEntry) (c : Ctx) : Need :=
  { stNeed (.indexed vs2) e m vs3 c (readBound en m c) with
    tagOk := (c.ety vs3).any scatterTag && indexOk c (.indexed vs2) }

/-- An entry whose checks pass and whose words may be combined is its enabled elements' atomics, in ascending order. -/
theorem runScatter_of_ok {op : Nat} {e : Bool} {vs2 vs3 : VReg5} {m : MReg3} {en : VEntry} {s : State} {ty : ETy} (hc : s.Calm)
    (he : s.ctx.esc = none) (hty : s.ctx.ety vs3 = some ty) (htag : scatterTag ty = true)
    (hok : needCheck s.ctx en.csr.vl.toNat (scatterNeed e vs2 m vs3 en s.ctx) = .ok)
    (hfit : ∀ k ∈ enabledFrom m en s, ScatterFits s en.priv (scatterAdr vs2 ty en s.ctx k) (ty.bits / 8)) :
    ∃ t, runScatter op e vs2 m vs3 en s = .done t
      ∧ MemWrote s t (scatteredMem op ty (fun k => Config.commonsBase + scatterAdr vs2 ty en s.ctx k) (s.ctx.raw vs3)
          (enabledFrom m en s) s.mem) := by
  obtain ⟨t, hloop, ht⟩ := elemLoop_scatterElem (op := op) hc he hty (bytes_pos_of_scatterTag htag) (MemWrote.refl hc.still) hfit
  exact ⟨t, (memCheck_of_ok hok (by decide) _).trans hloop, ht⟩

/-- A ready scatter atomic whose words may be combined runs as it is committed, and leaves the queue. -/
theorem exec_scatterForm {i : Instr} {op : Nat} {e : Bool} {vs2 vs3 : VReg5} {m : MReg3} {s : State} {ty : ETy}
    (hform : scatterForm i = some (op, e, vs2, m, vs3)) (hr : Ready i s) (hc : s.Calm) (hty : s.ctx.ety vs3 = some ty)
    (htag : scatterTag ty = true)
    (hok : needCheck s.ctx s.ctx.u.vl.toNat (scatterNeed e vs2 m vs3 (viqEntry i [] s) s.ctx) = .ok)
    (hfit : ∀ k ∈ s.ctx.enabled m 0 s.ctx.u.vl.toNat,
      ScatterFits s (dataPriv s) (scatterAdr vs2 ty (viqEntry i [] s) s.ctx k) (ty.bits / 8)) :
    ∃ t, exec i s = .next (retire (t.setCtx { t.ctx with viq := [] }))
      ∧ MemWrote (viqPush i [] s) t (scatteredMem op ty
          (fun k => Config.commonsBase + scatterAdr vs2 ty (viqEntry i [] s) s.ctx k) (s.ctx.raw vs3)
          (s.ctx.enabled m 0 s.ctx.u.vl.toNat) s.mem) := by
  have hgate := gate_of_ready hr
  obtain ⟨⟨hlag, hviq, hcable, hsrq, hesc, hbar, hheld⟩, -, -, -, hfenced⟩ := hr
  obtain ⟨hviqForm, hrunForm⟩ := viqRun_of_scatterForm hform
  have hpush : (viqPush i [] s).Calm := hc.mapCtx _
  obtain ⟨t, hscatter, ht⟩ := runScatter_of_ok (op := op) (en := viqEntry i [] s) hpush hesc hty htag hok fun k hk =>
    ⟨(hfit k hk).aligned, (hfit k hk).own, (hfit k hk).counter, (hfit k hk).mail⟩
  have hopen : entryBarred (viqPush i [] s) (viqEntry i [] s) = false := hfenced
  have hhead : viqHead (viqEntry i [] s) (viqPush i [] s) = .done t := by
    rw [viqHead, hopen]
    exact (hrunForm _ _).trans hscatter
  have hq : t.ctx.viq = [viqEntry i [] s] := by
    rw [ht.ctx_eq, viqPush_viq, hviq]
    rfl
  have hnoHeld : t.heldStores.all (fun h => h.behind.isNone) = true := by
    rw [ht.still.noHeld]
    rfl
  have hleave := viqLeave_alone hq rfl rfl (by rw [ht.ctx_eq]; exact hbar) hnoHeld
  refine ⟨t, ?_, ht⟩
  rw [exec_of_viqForm hviqForm, viqCommit_runs hgate (Ctx.isGuess_of_no_escrow hesc) hviq hlag
    (entryConsumes_of_still hpush.partsStill _) hhead, hleave,
    viqAfter_of_idle (by show t.ctx.cable = []; rw [ht.ctx_eq]; exact hcable) (by show t.ctx.srq = []; rw [ht.ctx_eq]; exact hsrq)]

end Sys2Proof.Machine

namespace Sys2Proof

open Sys2Proof.Machine

/-- Settles O37: the entry's run is one atomic per enabled element, in their order, and leaves the queue alone. -/
theorem scatterAtomicsComplete : Obligations.ScatterAtomicsComplete := by
  unfold Obligations.ScatterAtomicsComplete
  intro i op e vs2 m vs3 s ty hform hr hc hwf hty htag en vl n adr word hok hfit
  obtain ⟨t, hexec, ht⟩ := exec_scatterForm hform hr hc hty htag hok fun k hk => by
    obtain ⟨hal, hown, hcounter, hsoft⟩ := hfit k hk
    exact ⟨hal, hown, hcounter, mailFree_of_softRun hsoft⟩
  generalize hu : t.setCtx { t.ctx with viq := [] } = u at hexec
  have hctx : u.ctx = { (viqPush i [] s).ctx with viq := [] } := by
    rw [← hu, ← ht.ctx_eq]
    rfl
  have hmem : u.mem = scatteredMem op ty word (s.ctx.raw vs3) (s.ctx.enabled m 0 vl) s.mem := by
    rw [← hu]
    exact ht.mem_eq
  have hcore : SameCore s u := by
    rw [← hu]
    exact ht.sameThread.core
  have hfinal : (retire u).mem = u.mem := by simp
  obtain ⟨hv, hm, hcsr, hx, hpocket⟩ : u.ctx.v = s.ctx.v ∧ u.ctx.m = s.ctx.m ∧ u.ctx.u = s.ctx.u ∧ u.ctx.x = s.ctx.x
      ∧ u.ctx.pocket = s.ctx.pocket := by
    rw [hctx]
    exact ⟨rfl, rfl, rfl, rfl, rfl⟩
  refine ⟨_, hexec, hfinal.trans hmem, fun b hb => ?_, ?_, (retire_ctx_v u).trans hv, (retire_ctx_m u).trans hm,
    (retire_ctx_u u).trans hcsr, (retire_ctx_x u).trans hx, (retire_ctx_pocket u).trans hpocket, by simpa [SameCore] using hcore⟩
  · rw [hfinal, hmem]
    exact getByte_scatteredMem_out hwf hb
  · rw [retire_pc, retire_pc, hctx]
    rfl

end Sys2Proof
end

section
/-! SUPPORT. Where the statement on `cring` (R286) says more than the spec: a purse whose withdrawal is an overdraft that traps. -/

namespace Sys2Proof.Machine

/-- Core 0 in M-mode before a `cring` of no elements into an open ring of one free slot, its header at the window's offset 0x3200. The
purse (at 0x3100, named by the table at 0x3000) has TRP set and BAL -1, so the withdrawal of 0 bytes is an overdraft (R323, R324). No
strand issued the copy, so the overdraft is an event of the host's queue 0, whose control block the page table at 0x1000 maps to
physical 0 and whose one record lies where the ring's header is. -/
def overdraftRing : State :=
  { State.reset with
    parts := [{ Partition.reset with ptroot := 0x1000 }]
    mem := setLe (setLe (setLe (setLe (setLe (setLe (setLe (setLe [] 0 8 (Config.commonsBase + 0x3200)) 8 8 (2 ^ 63)) 0x1000 8 0xC7)
      (Config.commonsBase + 0x3000) 8 0x3F0000003100) (Config.commonsBase + 0x3100) 8 (2 ^ 34 + 0xFFFFFFFF))
      (Config.commonsBase + 0x3200) 8 0x3F0000003400) (Config.commonsBase + 0x3208) 8 (1 + 1 * 2 ^ 16 + 1 * 2 ^ 32))
      (Config.commonsBase + 0x3210) 8 1 }.mapCtx fun c => { c with
        x := c.x.set 10 0x3F0000003200
        u := { c.u with pbase := 0x3F0000003000, mtyp := 2 } }

/-- A run of Commons bytes is plain where each of its bytes is. -/
theorem plainCommons_of_bytes {s : State} {a n : Nat} (h : ∀ i : Nat, i < n → inCounterBlock s (a + i) = false
    ∧ ∀ k : Nat, k < s.nparts → a + i < mailboxAt s k ∨ mailboxAt s k + 256 ≤ a + i) : PlainCommons s a n := fun b hlo hhi => by
  have hb := h (b - a) (by omega)
  rwa [Nat.add_sub_cancel' hlo] at hb

end Sys2Proof.Machine

namespace Sys2Proof

open Sys2Proof.Machine

/-- Refutes O43: the statement does not ask that the purse's TRP be clear. The withdrawal of a purse that goes into overdraft raises an
event (R324), a record that the fabric logic writes where an event queue's BASE says (R340), here over the ring's header. -/
theorem not_ringCopyCompletes : ¬ Obligations.RingCopyCompletes := by
  unfold Obligations.RingCopyCompletes
  intro h
  have hheader : PlainCommons overdraftRing (Config.commonsBase + 0x3200) 32 := plainCommons_of_bytes (by decide +kernel)
  have hpurse : PlainCommons overdraftRing (Config.commonsBase + 0x3100) 8 := plainCommons_of_bytes (by decide +kernel)
  have hslot : PlainCommons overdraftRing (Config.commonsBase + 0x3400) 64 := plainCommons_of_bytes (by decide +kernel)
  have hmem : Memory.wf overdraftRing.mem = true := by decide +kernel
  obtain ⟨t, hexec, -, hring, -⟩ := h 0 5 10 0 overdraftRing (Config.commonsBase + 0x3200) (Config.commonsBase + 0x3100)
    (by decide +kernel) (by decide +kernel) hmem rfl rfl rfl (by decide +kernel) (by decide +kernel) (by decide +kernel)
    (by decide +kernel) (by decide +kernel) (by decide +kernel) (by decide +kernel) (by decide +kernel) (by decide +kernel)
    (by decide +kernel) (by decide +kernel) (by decide +kernel) (by decide +kernel) (by decide +kernel) hheader hpurse hslot
  have hevent : (nextState (exec (.cring 0 5 10 0) overdraftRing)).map (fun t => (ringAt t (Config.commonsBase + 0x3200)).count)
      = some 0 := by decide +kernel
  rw [hexec] at hevent
  have hcount : (ringAt t (Config.commonsBase + 0x3200)).count = 1 := by
    rw [hring]
    decide +kernel
  cases hcount.symm.trans (Option.some.inj hevent)

end Sys2Proof
end

section
/-! SUPPORT. What writes of memory, whoever makes them, leave of a core's copy queue, of the writes that are still on their way to
other chips, and of the vector registers. -/

namespace Sys2Proof.Machine

/-- A context in which no escrow loop runs, but for a pending overdraft: nothing that another agent writes reaches more of it. -/
def Ctx.idle (c : Ctx) : Option Ctx := if c.escActive.isSome then none else some { c with overdraft := none }

/-- What writes of memory leave alone: the copy queue, the flights, the held stores, the vector registers, and the context where no
escrow loop runs. -/
structure EngineView where
  copies : List CopyOp
  flights : List Flight
  held : List Held
  v : Vector VReg 32
  idle : Option Ctx

/-- That part of a state. -/
def State.engine (s : State) : EngineView := ⟨s.core.copies, s.flights, s.heldStores, s.ctx.v, s.ctx.idle⟩

theorem State.engine_eq_iff {s t : State} :
    t.engine = s.engine ↔ t.core.copies = s.core.copies ∧ t.flights = s.flights ∧ t.heldStores = s.heldStores
      ∧ t.ctx.v = s.ctx.v ∧ t.ctx.idle = s.ctx.idle := by
  simp [State.engine]

/-- What a write of memory leaves of a context that runs no escrow loop: at most an overdraft becomes pending. -/
theorem State.ctx_of_engine_eq {s t : State} (h : t.engine = s.engine) (he : s.ctx.escActive = none) :
    t.ctx = { s.ctx with overdraft := t.ctx.overdraft } := by
  obtain ⟨-, -, -, -, hidle⟩ := State.engine_eq_iff.1 h
  have hs : s.ctx.idle = some { s.ctx with overdraft := none } := by simp [Ctx.idle, he]
  rw [hs, Ctx.idle] at hidle
  split at hidle
  · cases hidle
  · exact congrArg (fun c : Ctx => { c with overdraft := t.ctx.overdraft }) (Option.some.inj hidle)

theorem engine_foldl {α : Type} {f : State → α → State} (hf : ∀ t x, (f t x).engine = t.engine) (l : List α) (s : State) :
    (l.foldl f s).engine = s.engine := by
  induction l generalizing s with
  | nil => rfl
  | cons x t ih => rw [List.foldl_cons, ih, hf]

/-- `put` leaves the engine's part of every state, whatever it writes. -/
abbrev PutKeepsEngine (put : State → Nat → List Byte → State) : Prop := ∀ t a bs, (put t a bs).engine = t.engine

/-! ## Single effects of a write -/

@[simp] theorem mapPart_engine (s : State) (k : Nat) (f : Partition → Partition) : (s.mapPart k f).engine = s.engine := rfl
@[simp] theorem setEcc_engine (s : State) (g : Nat) (e : Option Ecc) : (setEcc s g e).engine = s.engine := rfl

@[simp] theorem breakResv_engine (s : State) (w : Option Nat) (a n : Nat) : (breakResv s w a n).engine = s.engine := by
  rw [breakResv_eq, State.engine, State.engine, State.ctx, Core.afterWrite_eq]

/-- A squash restarts iterations, and writes no vector register (R199). -/
theorem squashWhere_v (bad : EscPart → Bool) (conflict : Bool) (c : Ctx) : (squashWhere bad conflict c).v = c.v := by
  unfold squashWhere
  split
  · rfl
  · extract_lets d
    have hd : d.v = c.v := by unfold d; split <;> rfl
    rw [← hd]
    split
    · rfl
    · extract_lets pick n restart parts c'
      split <;> rfl

theorem Ctx.escActive_isSome (c : Ctx) : c.escActive.isSome = c.esc.any fun e => e.level.isSome && !e.done := by
  unfold Ctx.escActive
  cases c.esc with
  | none => rfl
  | some e =>
    dsimp only
    split
    · next h => simpa using h
    · next h => simpa using h

/-- A loop whose iterations are squashed goes on. -/
theorem squashWhere_escActive (bad : EscPart → Bool) (conflict : Bool) (c : Ctx) :
    (squashWhere bad conflict c).escActive.isSome = c.escActive.isSome := by
  unfold squashWhere
  split
  · rfl
  · next f hf =>
    obtain ⟨e, hesc⟩ : ∃ e, c.esc = some e := by
      cases h : c.esc with
      | none => simp [Ctx.escActive, h] at hf
      | some e => exact ⟨e, rfl⟩
    rw [Ctx.escActive_isSome, Ctx.escActive_isSome, hesc]
    dsimp only
    split <;> rfl

@[simp] theorem escrowSees_engine (s : State) (a n : Nat) : (escrowSees s a n).engine = s.engine := by
  unfold escrowSees
  extract_lets f
  have hf (c : Core) : (f c).copies = c.copies ∧ (f c).ctx.v = c.ctx.v ∧ (f c).ctx.idle = c.ctx.idle := by
    unfold f squashReaders
    split
    · next h => simp [squashWhere_v, Ctx.idle, squashWhere_escActive, h]
    · exact ⟨rfl, rfl, rfl⟩
  obtain ⟨hc, hv, hi⟩ := hf s.core
  exact State.engine_eq_iff.2 ⟨hc, rfl, rfl, hv, hi⟩

@[simp] theorem paintLines_engine (s : State) (k : Nat) (new : Bool) (a n : Nat) : (paintLines s k new a n).engine = s.engine := by
  unfold paintLines; extract_lets odd; split <;> rfl

@[simp] theorem copyEcc_engine (s : State) (b z d : Nat) : (copyEcc s b z d).engine = s.engine := by
  refine engine_foldl (fun t x => ?_) _ _
  split <;> rfl

@[simp] theorem readJobMap_engine (s : State) (ks : List Nat) : (readJobMap ks s).engine = s.engine :=
  engine_foldl (f := fun t k => t.mapPart k _) (fun _ _ => rfl) _ _

@[simp] theorem mailSee_engine (s : State) (a n : Nat) : (mailSee s a n).engine = s.engine := by
  refine engine_foldl (fun t x => ?_) _ _
  extract_lets m
  split
  · rfl
  · split <;> rfl

/-! ## The snapshot logic's writes (R355 to R359) -/

@[simp] theorem agentSet_engine (s : State) (k a : Nat) (bs : List Byte) : (agentSet s k a bs).engine = s.engine := by
  unfold agentSet
  split
  · rfl
  · rw [escrowSees_engine, breakResv_engine, paintLines_engine]; rfl

theorem putAD_engine {put : State → Nat → List Byte → State} (hp : PutKeepsEngine put) (s : State) (k va : Nat) :
    (putAD put s k va).engine = s.engine := by
  unfold putAD
  split
  · rfl
  · split
    · split <;> [rfl; exact hp _ _ _]
    all_goals rfl

@[simp] theorem markPage_engine (s : State) (k b : Nat) (pte gen : Option Nat) : (markPage s k b pte gen).engine = s.engine := by
  unfold markPage
  split
  · exact agentSet_engine _ _ _ _
  · rfl

@[simp] theorem dropManifest_engine (s : State) (k : Nat) (m : Manifest) : (dropManifest s k m).engine = s.engine := by
  unfold dropManifest
  extract_lets t u
  have ht : t.engine = s.engine := by
    refine engine_foldl (fun t r => ?_) _ _
    extract_lets pte
    split <;> [exact markPage_engine _ _ _ _ _; rfl]
  split
  · rw [agentSet_engine]; exact ht
  · exact ht

theorem showJobStateBy_engine {put : State → Nat → List Byte → State} (hp : PutKeepsEngine put) (s : State) (k : Nat) :
    (showJobStateBy put s k).engine = s.engine := by
  unfold showJobStateBy
  split
  · rfl
  · exact (hp _ _ _).trans (putAD_engine hp _ _ _)

@[simp] theorem abandonAll_engine (s : State) (k : Nat) : (abandonAll s k).engine = s.engine :=
  (showJobStateBy_engine (fun t a bs => agentSet_engine t k a bs) _ k).trans
    (engine_foldl (fun t m => dropManifest_engine t k m) _ s)

/-- An event's record and its control block are memory (R340). -/
theorem raiseEventBy_engine {put : State → Nat → List Byte → State} (hp : PutKeepsEngine put) (s : State)
    (k q code : Nat) (arg strd : Word) : (raiseEventBy put s k q code arg strd).engine = s.engine := by
  unfold raiseEventBy
  extract_lets e u lost
  have hu : u.engine = s.engine := putAD_engine hp _ _ _
  split
  · rfl
  · extract_lets ena lsz head tail w0 bytes v w drop x
    split
    · rw [mapPart_engine, hp]
      unfold w
      split <;> [exact (hp _ _ _).trans hu; exact hu]
    · rw [mapPart_engine, hp]
      exact hu

@[simp] theorem enterPage_engine (s : State) (k : Nat) (m : Manifest) (r : PageRec) : (enterPage s k m r).engine = s.engine := by
  have hp : PutKeepsEngine fun t a bs => agentSet t k a bs := fun t a bs => agentSet_engine t k a bs
  unfold enterPage
  rw [mapPart_engine]
  split
  · rw [agentSet_engine, agentSet_engine, putAD_engine hp, putAD_engine hp]
  all_goals rfl

@[simp] theorem splitAt_engine (s : State) (k : Nat) (m : Manifest) (b z va off : Nat) (pte : Option Nat) :
    (splitAt s k m b z va off pte).engine = s.engine := by
  unfold splitAt
  rw [enterPage_engine, markPage_engine, escrowSees_engine, breakResv_engine, copyEcc_engine]
  rfl

@[simp] theorem splitTry_engine (s : State) (k b z va : Nat) (pte : Option Nat) (n : Nat) :
    (splitTry s k b z va pte n).engine = s.engine := by
  induction n generalizing s with
  | zero => rfl
  | succ n ih =>
    unfold splitTry
    dsimp only
    split
    · rfl
    · split
      · exact splitAt_engine _ _ _ _ _ _ _ _
      all_goals
        split
        · rw [ih, dropManifest_engine]
        · rw [raiseEventBy_engine fun t a bs => agentSet_engine t k a bs, abandonAll_engine]
          rfl

@[simp] theorem snapBefore_engine (s : State) (k : Nat) (new : Bool) (page : Option PageRef) (a : Nat) :
    (snapBefore s k new page a).1.engine = s.engine := by
  unfold snapBefore
  split
  · rfl
  · split
    · rfl
    · split
      · split <;> rfl
      · split <;> [exact splitTry_engine _ _ _ _ _ _ _; rfl]

/-! ## Writes of memory with their granules and counters -/

@[simp] theorem rawWrite_engine (s : State) (k : Nat) (new : Bool) (core : Option Nat) (page : Option PageRef) (a : Nat)
    (bs : List Byte) : (rawWrite s k new core page a bs).engine = s.engine := by
  unfold rawWrite
  split
  · rfl
  · rw [← snapBefore_engine s k new page a]
    generalize snapBefore s k new page a = r
    obtain ⟨t, d⟩ := r
    dsimp only
    rw [escrowSees_engine, breakResv_engine, paintLines_engine]
    split
    · rw [escrowSees_engine, breakResv_engine]; rfl
    · rfl

@[simp] theorem bump_engine (s : State) (k off n : Nat) : (bump s k off n).engine = s.engine := rawWrite_engine _ _ _ _ _ _ _

@[simp] theorem bumpEcc_engine (s : State) (a off : Nat) : (bumpEcc s a off).engine = s.engine := bump_engine _ _ _ _

@[simp] theorem granuleWrite_engine (s : State) (g covered : Nat) : (granuleWrite s g covered).engine = s.engine := by
  unfold granuleWrite
  split
  · rfl
  · split
    · rfl
    · split <;> rw [bumpEcc_engine, setEcc_engine]

@[simp] theorem granuleRun_engine (s : State) (a n : Nat) : (granuleRun s a n).engine = s.engine :=
  engine_foldl (fun _ _ => granuleWrite_engine _ _ _) _ s

@[simp] theorem granuleBatch_engine (s : State) (held : Held → Bool) (ws : List RunWrite) :
    (granuleBatch s held ws).engine = s.engine := by
  refine engine_foldl (fun t g => ?_) _ _
  extract_lets bytes
  split <;> [exact granuleWrite_engine _ _ _; rfl]

@[simp] theorem scrubRead_engine (s : State) (a n : Nat) : (scrubRead s a n).2.engine = s.engine := by
  unfold scrubRead
  suffices ∀ (l : List Nat) (acc : Bool × State), (l.foldl (fun (acc : Bool × State) g =>
      match eccAt acc.2 g with
      | none => acc
      | some .correctable => (acc.1, bumpEcc (setEcc acc.2 g none) g ctrCorr)
      | some .uncorrectable => (true, bumpEcc (setEcc acc.2 g (some .poisoned)) g ctrUncorr)
      | some .poisoned => (true, acc.2)) acc).2.engine = acc.2.engine from this _ _
  intro l
  induction l with
  | nil => exact fun _ => rfl
  | cons g t ih =>
    intro acc
    refine (ih _).trans ?_
    beta_reduce
    split
    · rfl
    · rw [bumpEcc_engine, setEcc_engine]
    · rw [bumpEcc_engine, setEcc_engine]
    · rfl

@[simp] theorem physBytes_engine (s : State) (k : Nat) (new : Bool) (w : Writer) (page : Option PageRef) (a : Nat)
    (bs : List Byte) : (physBytes s k new w page a bs).engine = s.engine := by
  unfold physBytes
  split
  · rfl
  · rw [mailSee_engine, readJobMap_engine, rawWrite_engine]

@[simp] theorem physWrite_engine (s : State) (k : Nat) (new : Bool) (w : Writer) (page : Option PageRef) (a : Nat)
    (bs : List Byte) : (physWrite s k new w page a bs).engine = s.engine := by
  unfold physWrite
  split
  · rfl
  · rw [physBytes_engine, granuleRun_engine]

@[simp] theorem poisonRun_engine (s : State) (a n : Nat) : (poisonRun s a n).engine = s.engine := by
  refine engine_foldl (fun t g => ?_) _ _
  split <;> [rfl; rw [bumpEcc_engine, setEcc_engine]]

@[simp] theorem walkTouch_engine (s : State) (k va : Nat) : (walkTouch s k va).engine = s.engine :=
  engine_foldl (fun _ _ => scrubRead_engine _ _ _) _ s

@[simp] theorem setAD_engine (s : State) (k : Nat) (new : Bool) (pte : Nat) (w : Word) (acc : Acc) :
    (setAD s k new pte w acc).engine = s.engine := by
  unfold setAD
  split <;> [rfl; exact rawWrite_engine _ _ _ _ _ _ _]

@[simp] theorem sysTouch_engine (s : State) (k va n : Nat) : (sysTouch s k va n).engine = s.engine := by
  have hw : (if s.ecc.isEmpty then s else walkTouch s k va).engine = s.engine := by
    split <;> [rfl; exact walkTouch_engine _ _ _]
  unfold sysTouch
  split
  · exact scrubRead_engine _ _ _
  · split
    · dsimp only
      rw [scrubRead_engine]
      split <;> [exact hw; exact (setAD_engine _ _ _ _ _ _).trans hw]
    all_goals exact hw

@[simp] theorem raiseEvent_engine (s : State) (k q code : Nat) (arg strd : Word) :
    (raiseEvent s k q code arg strd).engine = s.engine :=
  (raiseEventBy_engine (put := fun t a bs => sysWrite t k a bs) (fun _ _ _ => physWrite_engine _ _ _ _ _ _ _) _ _ _ _ _ _).trans
    (sysTouch_engine _ _ _ _)

/-! ## Purses (R323, R324) -/

/-- A change of a strand's context, wherever it runs, that at most makes an overdraft pending. -/
theorem mapOwner_engine (s : State) (k : Nat) (r : SRef) {f : Ctx → Ctx}
    (hf : ∀ c, (f c).v = c.v ∧ (f c).idle = c.idle) : (s.mapOwner k r f).engine = s.engine := by
  unfold State.mapOwner
  split
  · rfl
  · split
    · next n _ =>
      unfold State.mapCoreAt State.putCoreAt State.coreAt
      split
      · obtain ⟨hv, hi⟩ := hf s.core.ctx
        exact State.engine_eq_iff.2 ⟨rfl, rfl, rfl, hv, hi⟩
      · rfl
    · rfl

@[simp] theorem raiseOverdraft_engine (s : State) (k : Nat) (owner : Option SRef) (va : Word) :
    (raiseOverdraft s k owner va).engine = s.engine := by
  unfold raiseOverdraft
  split
  · exact raiseEvent_engine _ _ _ _ _ _
  · split
    · exact raiseEvent_engine _ _ _ _ _ _
    · exact mapOwner_engine _ _ _ fun c => ⟨rfl, rfl⟩

@[simp] theorem arrive_engine (s : State) (k a n : Nat) (err : Bool) (owner : Option SRef) (new : Bool) :
    (arrive s k a n err owner new).engine = s.engine := by
  unfold arrive
  dsimp only
  split
  · rw [raiseOverdraft_engine, physBytes_engine]
  · exact physBytes_engine _ _ _ _ _ _ _

end Sys2Proof.Machine
end

section
/-! SUPPORT. The copy engine performing elements (R277, R278): what it leaves of the copy queue; and the engine's own steps. -/

namespace Sys2Proof.Machine

/-! ## Reading a source and leaving the queue -/

/-- Reading a source corrects granules or asks another chip (R217, R338). -/
@[simp] theorem touch_engine (k w : Nat) (s : State) (x : CopySrc) : (x.touch k w s).engine = s.engine := by
  cases x with
  | val bs bad => rfl
  | zero => rfl
  | mem l =>
    cases l with
    | phys a kind page => exact scrubRead_engine _ _ _
    | pocket o => exact scrubRead_engine _ _ _
    | peer chip va => rfl

/-- A copy that leaves changes the queue by itself alone; no form but a ring's has more to do (R296). -/
theorem copyLeave_engine (s : State) (pos : Nat) {o : CopyOp} (hf : ∀ h x, o.form ≠ .ring h x) (err : Bool) :
    (copyLeave s pos o err).engine = { s.engine with copies := s.core.copies.eraseIdx pos } := by
  unfold copyLeave
  extract_lets k t u w
  have hw : w.engine = { s.engine with copies := s.core.copies.eraseIdx pos } := by
    have hu : u.engine = { s.engine with copies := s.core.copies.eraseIdx pos } := by
      unfold u
      split <;> [exact bump_engine _ _ _ _; rfl]
    unfold w
    split <;> [exact (arrive_engine _ _ _ _ _ _ _).trans hu; exact hu]
  split
  · next h _ => exact absurd h (hf _ _)
  · next h _ => exact absurd h (hf _ _)
  all_goals exact hw

/-! ## Performing a copy whose destinations are on this chip -/

/-- The engine is left with a queue, nothing on its way to another chip, and no held store. -/
def State.EngineIdle (s : State) (cs : List CopyOp) : Prop := s.core.copies = cs ∧ s.flights = [] ∧ s.heldStores = []

theorem EngineIdle.congr {s t : State} {cs : List CopyOp} (h : s.EngineIdle cs) (e : t.engine = s.engine) : t.EngineIdle cs := by
  obtain ⟨hc, hf, hh, -, -⟩ := State.engine_eq_iff.1 e
  exact ⟨hc.trans h.1, hf.trans h.2.1, hh.trans h.2.2⟩

/-- Writing an element leaves the queue; only a store to another chip is under way after it. -/
theorem EngineIdle.elemWrite {s : State} {cs : List CopyOp} (h : s.EngineIdle cs) (o : Issuer) (by_ : Writer) (core : Nat)
    {w : ElemWrite} (hl : ∀ chip va, w.loc ≠ .peer chip va) : (elemWrite s o by_ core w).EngineIdle cs := by
  unfold Machine.elemWrite
  extract_lets t
  have ht : t.EngineIdle cs := by
    unfold t
    split
    · exact EngineIdle.congr h (physBytes_engine _ _ _ _ _ _ _)
    · exact EngineIdle.congr (s := pocketBytesTo s _ w.bytes) h (breakResv_engine _ _ _ _)
    · next h => exact absurd h (hl _ _)
  split
  · split
    · split <;> [exact ht; exact EngineIdle.congr ht (poisonRun_engine _ _ _)]
    · exact ht
  · exact ht

/-- Writing one element, in memory or in a register, leaves the queue. -/
theorem EngineIdle.copyPut {s : State} {cs : List CopyOp} (h : s.EngineIdle cs) {o : CopyOp} {e : CopyElem}
    (hp : ∀ chip va, o.place e ≠ some (.peer chip va)) (core : Nat) (bad : Bool) (bs : List Byte) :
    (copyPut o core bad bs s e).EngineIdle cs := by
  unfold Machine.copyPut
  split
  · next l _ hl => exact EngineIdle.elemWrite h _ _ _ fun chip va hw => hp chip va (hl.trans (congrArg some hw))
  all_goals exact h

/-- A copy that may still differ in what it has done, not in what it is to do. -/
def CopyOp.SameWork (o p : CopyOp) : Prop := p.elems = o.elems ∧ p.form = o.form

/-- Performing an element leaves the queue, and the copy's elements and form. -/
theorem EngineIdle.copyElem {orig : State} {p : State × CopyOp} {cs : List CopyOp} {o : CopyOp}
    (h : p.1.EngineIdle cs) (hs : o.SameWork p.2)
    (hp : ∀ e ∈ p.2.elems, ∀ chip va, p.2.place e ≠ some (.peer chip va)) (i : Nat) :
    (copyElem orig p i).1.EngineIdle cs ∧ o.SameWork (copyElem orig p i).2 := by
  obtain ⟨s, q⟩ := p
  unfold Machine.copyElem
  dsimp only at h hs hp ⊢
  split
  · exact ⟨h, hs⟩
  · next e he =>
    have hsettle : copyOrder q e s = s := settleHeld_nil h.2.2 _
    rw [hsettle]
    split
    · exact ⟨h, hs⟩
    · exact ⟨EngineIdle.copyPut (o := { q with landed := _, err := _ }) (s := { s with draws := s.draws + 2 }) h
        (hp e (List.mem_of_getElem? he)) _ _ _, hs⟩

/-- The places of a copy's elements are those of its form. -/
theorem CopyOp.SameWork.place {o p : CopyOp} (h : o.SameWork p) (e : CopyElem) : p.place e = o.place e := by
  unfold CopyOp.place
  rw [h.2]

/-- Performing a copy whose places are on this chip leaves the queue, where no thread waits and no page is followed (R243, R332). -/
theorem EngineIdle.copyPerform {s : State} {cs : List CopyOp} (h : s.EngineIdle cs) (hw : waiters s = [])
    (hp : s.parts.all Partition.still = true) {o : CopyOp}
    (hd : ∀ e ∈ o.elems, ∀ chip va, o.place e ≠ some (.peer chip va)) : (copyPerform s o).1.EngineIdle cs := by
  unfold Machine.copyPerform
  extract_lets s1 r
  rw [levelHook_still s hp]
  refine EngineIdle.congr (s := (o.left.foldl _ (s1, o)).1) ?_ (granuleBatch_engine _ _ _)
  have h1 : s1.EngineIdle cs := EngineIdle.congr h (engine_foldl (fun t e => touch_engine _ _ _ _) _ _)
  suffices ∀ (l : List Nat) (p : State × CopyOp), p.1.EngineIdle cs → o.SameWork p.2 → (l.foldl (fun p i =>
      let q := Machine.copyElem s p i; (served s q.1, q.2)) p).1.EngineIdle cs from this _ _ h1 ⟨rfl, rfl⟩
  intro l
  induction l with
  | nil => exact fun _ h _ => h
  | cons i l ih =>
    intro p hi hs
    obtain ⟨hi', hs'⟩ := EngineIdle.copyElem (orig := s) hi hs (fun e he => by rw [hs.place]; exact hd e (hs.1 ▸ he)) i
    rw [List.foldl_cons]
    refine ih _ ?_ hs'
    show (served s (Machine.copyElem s p i).1).EngineIdle cs
    rw [served_none hw]
    exact hi'

/-- R277: a plain copy that waits for nothing completes and leaves its queue. -/
theorem copyFinish_plain_copies {s : State} {pos : Nat} {o : CopyOp} (h : s.Calm) (hw : waiters s = [])
    (ho : s.core.copies[pos]? = some o) (hform : o.form = .plain) (hwait : copyWaits s o = false) (hfl : s.flights = [])
    (hd : ∀ e ∈ o.elems, ∀ chip va, e.dst ≠ .mem (.peer chip va)) :
    (copyFinish s pos).core.copies = s.core.copies.eraseIdx pos := by
  have hplace : ∀ e ∈ o.elems, ∀ chip va, o.place e ≠ some (.peer chip va) := by
    intro e he chip va
    have := hd e he chip va
    unfold CopyOp.place
    split <;> simp_all
  have hheld : copyHeld s o = false := by simp [copyHeld, h.noHeld]
  obtain ⟨hc, hf, -⟩ := EngineIdle.copyPerform (cs := s.core.copies) ⟨rfl, hfl, h.noHeld⟩ hw h.partsStill hplace
  have hfly : copyFlying (copyPerform s o).1 o = false := by simp [copyFlying, hf]
  unfold copyFinish
  simp only [ho, hform]
  unfold copyEnd
  rw [hwait, hheld]
  simp only [Bool.or_false, Bool.false_eq_true, if_false, hfly]
  have := congrArg EngineView.copies (copyLeave_engine ((copyPerform s o).1.mapCtx id) pos (o := o) (by simp [hform])
    (copyPerform s o).2.err)
  exact this.trans (congrArg (·.eraseIdx pos) hc)

/-! ## An element of a `cpyv` lands (R280) -/

/-- A copy into a register that leaves writes no vector register. -/
theorem copyLeave_vr (s : State) (pos : Nat) {o : CopyOp} {r : VReg5} {vl : Nat} (hf : o.form = .toReg r vl) (err : Bool)
    (q : VReg5) : (copyLeave s pos o err).ctx.vr q = s.ctx.vr q :=
  congrArg (fun x : EngineView => x.v[q.toNat]) (copyLeave_engine s pos (by simp [hf]) err)

/-- Putting a `cpyv` back, or finishing it, leaves the bytes of its register. -/
theorem cpyvUpdate_data (s : State) (pos : Nat) {o : CopyOp} {v : VReg5} {vl : Nat} (hf : o.form = .toReg v vl) :
    ((cpyvUpdate s pos o v vl).ctx.vr v).data = (s.ctx.vr v).data := by
  unfold cpyvUpdate
  split
  · unfold cpyvFinish
    rw [copyLeave_vr _ _ hf]
    show ((match o.poisoned, ((s.ctx.mapVr v VReg.filled).stale v).cpyPoison with
      | some i, none => { (s.ctx.mapVr v VReg.filled).stale v with cpyPoison := (o.elems[i]?).map fun e => e.addr }
      | some _, some _ => (s.ctx.mapVr v VReg.filled).stale v
      | none, _ => (s.ctx.mapVr v VReg.filled).stale v : Ctx).vr v).data = (s.ctx.vr v).data
    have hd : (((s.ctx.mapVr v VReg.filled).stale v).vr v).data = (s.ctx.vr v).data := by
      rw [Ctx.vr_stale, Ctx.mapVr, Ctx.vr_setVr_same]
      rfl
    split <;> exact hd
  · exact (congrArg VReg.data : _ → _ = ({ s.ctx.vr v with landed := some (o.landedPrefix vl) } : VReg).data)
      (Ctx.vr_setVr_same s.ctx v { s.ctx.vr v with landed := some (o.landedPrefix vl) })

/-- R280: a clean element of a `cpyv` lands in its place of the register, and nowhere else in it. -/
theorem cpyvLand_data {s : State} {pos k : Nat} {o : CopyOp} {v : VReg5} {vl : Nat} {e : CopyElem} {bs : List Byte}
    (hform : o.form = .toReg v vl) (hk : k < vl) (hnew : k ∉ o.landed) (he : o.elems[k]? = some e)
    (hread : o.reads s e = (false, bs)) (hturn : o.turn k = true) (hheld : s.heldStores = []) :
    ((cpyvLand s pos o v vl k).ctx.vr v).data = putRaw (s.ctx.vr v).data (8 * o.width) k (leNat bs) := by
  have hsettle : copyOrder o e s = s := settleHeld_nil hheld _
  have hstuck : copyStuck o e s = false := by simp [copyStuck, hheld]
  have hgo : ¬(k ∈ o.landed ∨ vl ≤ k ∨ o.turn k = false ∨ copyStuck o e s = true) := by
    simp [hnew, hturn, hstuck, hk]
  unfold cpyvLand
  simp only [he, hsettle, hgo, if_false, hread, Bool.false_eq_true]
  refine (cpyvUpdate_data _ _ (o := { o with landed := insertRising o.landed k }) hform).trans ?_
  have ht : (e.src.touch o.part o.width s).ctx.vr v = s.ctx.vr v :=
    congrArg (fun x : EngineView => x.v[v.toNat]) (touch_engine o.part o.width s e.src)
  rw [← ht]
  exact congrArg VReg.data (Ctx.vr_putElem_same _ _ _ _ _)

/-! ## The steps together -/

/-- Settles O44, by one clause for each step: the first rests on what a copy's writes leave of its queue, the second on what
landing an element leaves of its register. -/
theorem copyEngineSteps : Obligations.CopyEngineSteps := by
  unfold Obligations.CopyEngineSteps
  refine ⟨?_, ?_, ?_, ?_⟩
  · intro pos s o h _ ho hform hwait hfl hd
    obtain ⟨-, -, -, -, -, hw⟩ := h.still
    exact ⟨_, rfl, copyFinish_plain_copies h hw ho hform hwait hfl hd⟩
  · intro pos k s o v vl e bs ho hform hk hnew he hread hturn hheld hwidth hlen hwf
    refine ⟨cpyvLand s pos o v vl k, ?_, ?_⟩
    · show execCpyvElementLand pos k s = _
      simp [execCpyvElementLand, ho, hform]
    rw [cpyvLand_data hform hk hnew he hread hturn hheld]
    have hdiv : 8 * o.width = 4 ∨ 8 ∣ 8 * o.width := .inr (Nat.dvd_mul_right _ _)
    refine ⟨?_, fun j hj => ?_⟩
    · rw [rawAt_putRaw hwf hdiv, if_pos rfl, Nat.mod_eq_of_lt]
      calc leNat bs < 256 ^ bs.length := leNat_lt bs
        _ = 2 ^ (8 * o.width) := by rw [hlen, Nat.pow_mul]
    · rw [rawAt_putRaw hwf hdiv, if_neg hj]
  · intro pos s o hdr slot r ho hform hcan husable hres
    show execCringReserve pos s = _
    simp [execCringReserve, ho, hform, cringTry, hcan, husable, hres]
  · intro s va hpriv hesc hover hrb hvf hcp
    show execOverdraft s = _
    simp [execOverdraft, hpriv, hrb, hvf, hcp, takeOverdraft, hover, State.narrow_of_no_escrow hesc]

end Sys2Proof.Machine
end

section
/-! SUPPORT. Copies that the VIQ runs, as their checks pass (R280, R281), a `mint` and its result (R381, R385), and requests from other
chips (R338). -/

namespace Sys2Proof.Machine

/-! ## Entries of the VIQ -/

theorem wholeM_of_runs {m : M Unit} {s t : State} (h : Runs m s () t) : wholeM m s = .done t := by
  unfold Runs at h
  rw [wholeM, elemLoop, h]
  rfl

/-- A ready instruction of the VIQ that waits for no cut completes as it is committed, where its run does. -/
theorem exec_of_ready_viq {i : Instr} {s t : State} (hform : viqForm i = true) (h : Ready i s)
    (hnew : entryConsumes (viqPush i [] s) (viqEntry i [] s) = false)
    (hrun : viqRun i (viqEntry i [] s) (viqPush i [] s) = .done t) :
    exec i s = .next (retire (viqAfter (viqLeave (viqEntry i [] s) t))) := by
  have hgate := gate_of_ready h
  obtain ⟨⟨hlag, hviq, -, -, hesc, -, -⟩, -, -, -, hfenced⟩ := h
  have hopen : entryBarred (viqPush i [] s) (viqEntry i [] s) = false := hfenced
  have hhead : viqHead (viqEntry i [] s) (viqPush i [] s) = .done t := by
    rw [viqHead, hopen]
    exact hrun
  rw [exec_of_viqForm hform, viqCommit_runs hgate (Ctx.isGuess_of_no_escrow hesc) hviq hlag hnew hhead]

/-! ## `cpyv` and `cpyvs` (R280, R281) -/

/-- The elements of a `cpyv`: places into positions of its register. -/
def cpyvElems (vd : VReg5) (as : List Word) (n : Nat) (ls : List Loc) : List CopyElem :=
  pairElems as ls ((upFrom 0 n).map fun k => CopyDst.reg vd k)

/-- A `cpyv` whose checks pass becomes a copy into its register, which is pending. -/
theorem runCpyv_of_runs {w : BitVec 2} {vd : VReg5} {en : VEntry} {s u : State} {r : List Loc × List Loc}
    (hreg : copyRegBad s.ctx vd (copyBytes w) en.csr.vl.toNat = none) (hroom : copyFull s = false)
    (hfree : s.ctx.dstWaits vd = false)
    (hplaces : Runs (copyPlaces en.priv (en.word.setWidth 64) (copyBytes w) (ldSpace en) 0 true false
      (strideAddrs en.a (if en.b = 0 then (copyBytes w : Int) else en.b.toInt) en.csr.vl.toNat) []) s r u) :
    runCpyv w vd en s =
      let t := u.mapCtx fun c => c.mapVr vd fun v => { v with st := .pending, landed := some 0 }
      .done (copyEnter t (copyOp t en.priv (.toReg vd en.csr.vl.toNat) (copyBytes w)
        (cpyvElems vd (strideAddrs en.a (if en.b = 0 then (copyBytes w : Int) else en.b.toInt) en.csr.vl.toNat)
          en.csr.vl.toNat r.1) none 0)) := by
  unfold runCpyv
  simp only [hreg, hroom, hfree, Bool.or_self, Bool.false_eq_true, if_false]
  exact wholeM_of_runs (hplaces.bind (Runs.modify _ _))

/-- The elements of a `cpyvs`: what its register holds, for its places. -/
def cpyvsElems (c : Ctx) (vs : VReg5) (b : Nat) (as : List Word) (n : Nat) (ls : List Loc) : List CopyElem :=
  ((upFrom 0 n).zip (as.zip ls)).map fun q =>
    { src := .val (natBytes b (c.raw vs q.1)) false, dst := .mem q.2.2, addr := q.2.1 }

/-- A `cpyvs` whose checks pass becomes a copy of what its register holds, with the purse and the bytes. -/
theorem runCpyvs_of_runs {w : BitVec 2} {vs : VReg5} {en : VEntry} {s s₁ u : State} {r : List Loc × List Loc} {a : Nat}
    (hreg : copyRegBad s.ctx vs (copyBytes w) en.csr.vl.toNat = none) (hroom : copyFull s = false)
    (hready : s.ctx.srcWaits ⟨vs, some en.csr.vl.toNat⟩ = false)
    (hpurse : Runs (purseOf en.priv en.csr.pbase (en.b.extractLsb' 0 5).toNat fun _ => en.word.setWidth 64) s a s₁)
    (hplaces : Runs (copyPlaces en.priv (en.word.setWidth 64) (copyBytes w) 0 (stSpace en) false true []
      (strideAddrs en.a (copyBytes w) en.csr.vl.toNat)) s₁ r u)
    (hheld : (u.ctx.vr vs).st ≠ .vacant) :
    runCpyvs w vs en s = .done (copyEnter u { copyOp u en.priv .plain (copyBytes w)
      (cpyvsElems u.ctx vs (copyBytes w) (strideAddrs en.a (copyBytes w) en.csr.vl.toNat) en.csr.vl.toNat r.2) (some a)
      (en.csr.vl.toNat * copyBytes w) with usesStrand := true }) := by
  unfold runCpyvs
  simp only [hreg, hroom, hready, Bool.or_self, Bool.false_eq_true, if_false]
  exact wholeM_of_runs (hpurse.bind (hplaces.bind (Runs.get_bind (Runs.ite_neg hheld (Runs.set _ _)))))

/-! ## `mint` (R381 to R385) -/

section
variable {rs1 rd : XReg} {s t : State} {ws : List Word} (h : Ready (.mint rs1 rd) s) (hheld : s.heldStores = [])
  (hload : (loadWords (s.x rs1) 4).run s = (.ok ws, t)) (hmay : (mintReqOf ws).rem = true → t.core.priv ≠ .user)
include h hheld hload hmay

/-- A request that can be read, and done with nothing beside it, is answered at once. -/
theorem exec_mint_of_done (hlag : t.lag = false) (hjob : mintJob t (s.x rs1) = none) {v : Word} {u : State}
    (hdo : mintDo t t.pidx ws = (.ok v, u)) : exec (.mint rs1 rd) s = .next (retire (u.setX rd v)) := by
  obtain ⟨-, hviq, -⟩ := h.1
  have hallowed : ¬((mintReqOf ws).rem && decide (t.core.priv = .user)) = true := by simpa using hmay
  show execMint rs1 rd s = _
  rw [execMint, guarded_of_ready h]
  refine runM_of_runs (Runs.bind (releaseM_run_of_idle hviq hheld) (Runs.bind hload (Runs.get_bind ?_)))
  refine Runs.ite_neg hallowed ?_
  rw [hjob]
  simp only [hlag, hdo]
  exact Runs.set _ _

/-- A request whose job has its result takes it. -/
theorem exec_mint_of_result {j : MintJob} {v : Word} (hjob : mintJob t (s.x rs1) = some j) (hres : j.result = some v) :
    exec (.mint rs1 rd) s = .next (retire
      ((t.mapPart t.pidx fun p => { p with mints := p.mints.filter fun i => decide (i ≠ j) }).setX rd v)) := by
  obtain ⟨-, hviq, -⟩ := h.1
  have hallowed : ¬((mintReqOf ws).rem && decide (t.core.priv = .user)) = true := by simpa using hmay
  show execMint rs1 rd s = _
  rw [execMint, guarded_of_ready h]
  refine runM_of_runs (Runs.bind (releaseM_run_of_idle hviq hheld) (Runs.bind hload (Runs.get_bind ?_)))
  refine Runs.ite_neg hallowed ?_
  rw [hjob]
  simp only [hres]
  exact Runs.set _ _

end

/-- MINT_RESULT goes on with the rib's oldest request that has no result (R385). -/
theorem exec_mintResult {s : State} {j : MintJob}
    (h : ((s.part s.pidx).mints.find? fun j => decide (ribOf j.core = ribOf s.core.id) && j.result.isNone) = some j) :
    exec .mintResult s = .next (mintAdvance s s.pidx j) := by
  show execMintResult s = _
  simp only [execMintResult, h]

/-! ## Requests from other chips (R338) -/

/-- A load from another chip is answered with the bytes. -/
theorem exec_peerLoad {link : Nat} {job : BitVec 32} {va : Word} {size k a : Nat} {kind : BitVec 2} {page : Option PageRef}
    {s t : State} (hlink : link < 18) (hpart : jobPart s job = some k)
    (hx : peerXlate s k .load va = (some (.phys a kind page), t)) (hgood : (scrubRead t a size).1 = false)
    (hphys : physOk a size = true) :
    exec (.peerRequest ⟨link, .load job va size⟩) s = .next { (scrubRead t a size).2 with
      outMsgs := (scrubRead t a size).2.outMsgs ++ [Msg.peerReply (getBytes (scrubRead t a size).2.mem a size)] } := by
  show execPeerRequest _ s = _
  simp [execPeerRequest, Nat.not_le.2 hlink, hpart, hx, hgood, hphys]

/-- A store from another chip is made in its packet's colour. -/
theorem exec_peerStore {link : Nat} {job : BitVec 32} {va : Word} {bytes : List Byte} {colour : Bool} {k a : Nat} {kind : BitVec 2}
    {page : Option PageRef} {s t : State} (hlink : link < 18) (hpart : jobPart s job = some k)
    (horder : outOfOrder s k link 1 colour = false) (hx : peerXlate s k .store va = (some (.phys a kind page), t))
    (hfree : frameProtected t a = false) (htransit : transitHit t k (.phys a kind page) = false)
    (hphys : physOk a bytes.length = true) :
    exec (.peerRequest ⟨link, .store job va bytes colour⟩) s =
      .next (levelHook t (physWrite t k (newColour t k colour) (.agent .user) page a bytes)) := by
  show execPeerRequest _ s = _
  simp [execPeerRequest, Nat.not_le.2 hlink, hpart, horder, hx, hfree, htransit, hphys]

end Sys2Proof.Machine
end

section
/-! SUPPORT. Copies on a calm chip whose elements lie on it (R277, R278): an invariant over the elements performed, and what the purse
and the copy queue are left with. -/

namespace Sys2Proof.Machine

/-! ## Elements of this chip -/

/-- A source on this chip, not poisoned. -/
def CopySrc.Here : CopySrc → Prop
  | .val _ bad => bad = false
  | .zero => True
  | .mem (.phys _ _ _) => True
  | .mem (.pocket _) => True
  | .mem (.peer _ _) => False

/-- A destination on this chip, whose page cannot be lost. -/
def CopyDst.Here : CopyDst → Prop
  | .reg _ _ => True
  | .mem (.phys _ _ page) => page = none
  | .mem (.pocket _) => True
  | .mem (.peer _ _) => False
  | .slot _ => False

/-- The bytes of a source of this chip. -/
def CopySrc.bytesIn (m p : Bytes) (w : Nat) : CopySrc → List Byte
  | .val bs _ => bs
  | .zero => List.replicate w 0
  | .mem (.phys a _ _) => getBytes m a w
  | .mem (.pocket o) => getBytes p o w
  | .mem (.peer _ _) => []

section
variable {s : State} {o : CopyOp} {e : CopyElem}

theorem runBad_of_no_ecc (h : s.ecc = []) (a n : Nat) : runBad s a n = false := by simp [runBad, eccAt, h]

/-- Nothing is poisoned or held: a source reads its bytes. -/
theorem reads_of_here (hecc : s.ecc = []) (hheld : s.heldStores = []) (h : e.src.Here) :
    o.reads s e = (false, e.src.bytesIn s.mem s.ctx.pocket o.width) := by
  unfold CopyOp.reads CopySrc.read CopySrc.bytesIn
  cases hs : e.src with
  | val bs bad =>
    rw [hs] at h
    exact congrArg (·, bs) h
  | zero => rfl
  | mem l =>
    cases l with
    | phys a kind page => simp [runBad_of_no_ecc hecc, seenBytes_of_no_held hheld]
    | pocket p => simp [runBad_of_no_ecc hecc]
    | peer chip va => rw [hs] at h; exact h.elim

theorem touch_of_here (hecc : s.ecc = []) {x : CopySrc} (h : x.Here) (k w : Nat) : x.touch k w s = s := by
  cases x with
  | val bs bad => rfl
  | zero => rfl
  | mem l =>
    cases l with
    | phys a kind page => simp [CopySrc.touch, scrubRead_of_no_ecc hecc]
    | pocket p => simp [CopySrc.touch, scrubRead_of_no_ecc hecc]
    | peer chip va => exact h.elim

/-- The place of a destination on this chip does not depend on the form. -/
theorem place_of_here (h : e.dst.Here) : o.place e = match e.dst with
    | .mem l => some l
    | .reg _ _ => none
    | .slot _ => none := by
  unfold CopyOp.place
  cases hd : e.dst with
  | mem l => rfl
  | reg v i => rfl
  | slot off => rw [hd] at h; exact h.elim

theorem lost_of_here (h : e.dst.Here) : o.lost s e = false := by
  rw [CopyOp.lost, place_of_here h]
  cases hd : e.dst with
  | reg v i => rfl
  | slot off => rfl
  | mem l =>
    rw [hd] at h
    cases l with
    | phys a kind page => cases h; rfl
    | pocket p => rfl
    | peer chip va => exact h.elim

end

/-! ## Performing the elements in order -/

/-- Nothing that an element would wait for, correct or be seen by: no condition of a granule, no held store, no write to another chip. -/
structure EngineClear (s : State) : Prop where
  ecc : s.ecc = []
  held : s.heldStores = []
  flights : s.flights = []

/-- A copy as it was, but for what it notes of its progress. -/
def CopyOp.Progress (o p : CopyOp) : Prop := ∃ l w, p = { o with landed := l, wrote := w }

section
variable {s : State} {o : CopyOp} (hs : EngineClear s)
include hs

/-- R278: an element of this chip is put in its place with its source's bytes, as they were or as they are. -/
theorem copyElem_of_here {t : State} {p : CopyOp} (ht : EngineClear t) (hp : o.Progress p) {i : Nat} {e : CopyElem}
    (he : o.elems[i]? = some e) (hsrc : e.src.Here) (hdst : e.dst.Here) :
    ∃ n bs, (bs = e.src.bytesIn s.mem s.ctx.pocket o.width ∨ bs = e.src.bytesIn t.mem t.ctx.pocket o.width)
      ∧ (copyElem s (t, p) i).1 = copyPut o t.core.id false bs { t with draws := n } e
      ∧ o.Progress (copyElem s (t, p) i).2 := by
  obtain ⟨l, w, rfl⟩ := hp
  have hord (u : State) (hu : EngineClear u) : copyOrder { o with landed := l, wrote := w } e u = u := settleHeld_nil hu.held _
  have hwas := reads_of_here (o := { o with landed := l, wrote := w }) hs.ecc hs.held hsrc
  have hnow := reads_of_here (o := { o with landed := l, wrote := w }) ht.ecc ht.held hsrc
  have hkeep : CopyOp.lost { o with landed := l, wrote := w } t e = false := lost_of_here hdst
  unfold copyElem
  simp only [he, hord s hs, hord t ht, hwas, hnow, hkeep, Bool.or_false, Bool.false_eq_true, if_false]
  refine ⟨t.draws + 2, _, ?_, rfl, _, _, rfl⟩
  split <;> [exact .inr rfl; exact .inl rfl]

variable {I : List CopyElem → State → Prop} (hsrc : ∀ e ∈ o.elems, e.src.Here) (hdst : ∀ e ∈ o.elems, e.dst.Here)
  (hclear : ∀ l t, I l t → EngineClear t)
  (hstep : ∀ l e, l ++ [e] <+: o.elems → ∀ t, I l t → ∀ n bs,
    (bs = e.src.bytesIn s.mem s.ctx.pocket o.width ∨ bs = e.src.bytesIn t.mem t.ctx.pocket o.width) →
    I (l ++ [e]) (copyPut o t.core.id false bs { t with draws := n } e))
include hsrc hdst hclear hstep

/-- What each element keeps, the elements that follow keep together. -/
theorem copyElems_invariant (post : List CopyElem) : ∀ (pre : List CopyElem) (t : State) (p : CopyOp), o.elems = pre ++ post →
    I pre t → o.Progress p → I o.elems ((upFrom pre.length post.length).foldl (copyElem s) (t, p)).1
      ∧ o.Progress ((upFrom pre.length post.length).foldl (copyElem s) (t, p)).2 := by
  induction post with
  | nil =>
    intro pre t p heq hi hp
    rw [heq, List.append_nil]
    exact ⟨hi, hp⟩
  | cons e post ih =>
    intro pre t p heq hi hp
    have hmem : e ∈ o.elems := by rw [heq]; simp
    have he : o.elems[pre.length]? = some e := by rw [heq]; simp
    have hpre : pre ++ [e] <+: o.elems := ⟨post, by rw [heq]; simp⟩
    obtain ⟨n, bs, hbs, hput, hprog⟩ := copyElem_of_here hs (hclear _ _ hi) hp he (hsrc e hmem) (hdst e hmem)
    have hlen : pre.length + 1 = (pre ++ [e]).length := by simp
    rw [List.length_cons, upFrom, List.foldl_cons, hlen]
    refine ih (pre ++ [e]) (copyElem s (t, p) pre.length).1 (copyElem s (t, p) pre.length).2 (by rw [heq]; simp) ?_ hprog
    rw [hput]
    exact hstep pre e hpre t hi n bs hbs

/-- R277: what each element of a copy keeps, performing it whole keeps. -/
theorem copyPerform_invariant (hw : waiters s = []) (hp : s.parts.all Partition.still = true) (hland : o.landed = []) (hstart : I [] s) :
    I o.elems (copyPerform s o).1 ∧ (copyPerform s o).2.err = o.err := by
  have hleft : o.left = upFrom 0 o.elems.length := by
    rw [CopyOp.left, hland]
    exact List.filter_eq_self.2 fun _ _ => rfl
  have htouch : (o.left.filterMap fun i => o.elems[i]?).foldl (fun t e => e.src.touch o.part o.width t) s = s := by
    have hall : ∀ e ∈ o.left.filterMap fun i => o.elems[i]?, e.src.touch o.part o.width s = s := fun e he => by
      obtain ⟨i, -, hi⟩ := List.mem_filterMap.1 he
      exact touch_of_here hs.ecc (hsrc e (List.mem_of_getElem? hi)) _ _
    generalize (o.left.filterMap fun i => o.elems[i]?) = es at hall
    induction es with
    | nil => rfl
    | cons e es ih =>
      rw [List.foldl_cons, hall e List.mem_cons_self]
      exact ih fun d hd => hall d (List.mem_cons_of_mem e hd)
  have hserved : (fun (p : State × CopyOp) i => let q := copyElem s p i; (served s q.1, q.2)) = copyElem s :=
    funext fun p => funext fun i => Prod.ext (served_none hw _) rfl
  obtain ⟨hi, l, w, hprog⟩ := copyElems_invariant hs hsrc hdst hclear hstep o.elems [] s o rfl hstart ⟨o.landed, o.wrote, rfl⟩
  rw [List.length_nil] at hi hprog
  unfold copyPerform
  rw [htouch, hserved, hleft]
  dsimp only
  rw [levelHook_still s hp, copyClose, granuleBatch_calm (hclear _ _ hi).ecc]
  refine ⟨hi, ?_⟩
  rw [hprog]

/-- R277: nothing stands before a copy that has all its elements here: it is performed and leaves its queue. -/
theorem copyEnd_of_here (hw : waiters s = []) (hp : s.parts.all Partition.still = true) (hland : o.landed = []) (herr : o.err = false)
    (hstart : I [] s) (pos : Nat) (done : Ctx → Ctx) :
    ∃ r, I o.elems r ∧ copyEnd s pos o done = copyLeave (r.mapCtx done) pos o false := by
  obtain ⟨hi, he⟩ := copyPerform_invariant hs hsrc hdst hclear hstep hw hp hland hstart
  have hwaits : copyWaits s o = false := by
    have htransit : transitHit s o.part = fun _ => false := funext fun l => transitHit_still hp _ l
    simp [copyWaits, htransit]
  have hheld : copyHeld s o = false := by simp [copyHeld, hs.held]
  have hfly : copyFlying (copyPerform s o).1 o = false := by simp [copyFlying, (hclear _ _ hi).flights]
  refine ⟨_, hi, ?_⟩
  unfold copyEnd
  rw [hwaits, hheld]
  simp only [Bool.or_self, Bool.false_eq_true, if_false, hfly, he, herr]

end

/-! ## What a calm chip is left with -/

/-- t is s with memory m and context c: beside them only draws and reservations may differ, and no other agent takes part in an access
of t either. -/
structure Worked (s t : State) (c : Ctx) (m : Bytes) : Prop where
  eq : t = { s with
    mem := m
    cores := t.cores
    draws := t.draws
    core := { s.core with resv := t.core.resv, ctx := c } }
  calm : t.Calm

namespace Worked

variable {s t : State} {c : Ctx} {m : Bytes}

theorem refl (h : s.Calm) : Worked s s s.ctx s.mem := ⟨rfl, h⟩

theorem ctx_eq (h : Worked s t c m) : t.ctx = c := by rw [h.eq]
theorem mem_eq (h : Worked s t c m) : t.mem = m := by rw [h.eq]
theorem flights_eq (h : Worked s t c m) : t.flights = s.flights := by rw [h.eq]
theorem copies_eq (h : Worked s t c m) : t.core.copies = s.core.copies := by rw [h.eq]

theorem engineClear (h : Worked s t c m) (hf : s.flights = []) : EngineClear t :=
  ⟨h.calm.noEcc, h.calm.noHeld, h.flights_eq.trans hf⟩

theorem draw (h : Worked s t c m) (n : Nat) : Worked s { t with draws := n } c m :=
  ⟨congrArg (fun u : State => { u with draws := n }) h.eq, h.calm⟩

theorem mapCtx (h : Worked s t c m) (f : Ctx → Ctx) : Worked s (t.mapCtx f) (f c) m := by
  refine ⟨?_, h.calm.mapCtx f⟩
  have heq := congrArg (fun u : State => u.mapCtx f) h.eq
  exact heq

/-- Bytes put in memory, with the reservations they break (R86). -/
theorem write (h : Worked s t c m) (m' : Bytes) (w : Option Nat) (a n : Nat) :
    Worked s (Machine.breakResv { t with mem := m' } w a n) c m' := by
  have hw := wrote_breakResv h.calm m' w a n
  refine ⟨?_, hw.calm⟩
  have heq := h.eq
  rw [breakResv_eq, Core.afterWrite_eq, heq]

theorem breakResv (h : Worked s t c m) (w : Option Nat) (a n : Nat) : Worked s (Machine.breakResv t w a n) c m := by
  have hmem : { t with mem := m } = t := by rw [h.eq]
  have hw := h.write m w a n
  rwa [hmem] at hw

end Worked

end Sys2Proof.Machine
end

section
/-! SUPPORT. The elements that a copy writes on a calm chip, one destination at a time; a copy that leaves with its purse withdrawn
(R277, R323); and a copy that enters an empty queue and completes. -/

namespace Sys2Proof.Machine

/-! ## One element -/

namespace Worked

variable {s t : State} {c : Ctx} {m : Bytes}

/-- An element put in the pocket. -/
theorem copyPut_pocket (h : Worked s t c m) (o : CopyOp) (core : Nat) (bs : List Byte) {e : CopyElem} {p : Nat}
    (hd : e.dst = .mem (.pocket p)) :
    Worked s (copyPut o core false bs t e) { c with pocket := setBytes c.pocket p bs } m := by
  have hplace : o.place e = some (.pocket p) := by rw [place_of_here (by rw [hd]; trivial), hd]
  unfold copyPut
  rw [hplace]
  exact (h.mapCtx fun c => { c with pocket := setBytes c.pocket p bs }).breakResv _ _ _

/-- An element put in memory below the Commons. -/
theorem copyPut_below (h : Worked s t c m) (hesc : c.esc = none) (o : CopyOp) (core : Nat) {bs : List Byte} (hb : bs ≠ [])
    {e : CopyElem} {a : Nat} {kind : BitVec 2} (hd : e.dst = .mem (.phys a kind none)) (hlow : a + bs.length ≤ Config.commonsBase) :
    Worked s (copyPut o core false bs t e) c (setBytes m a bs) := by
  have hplace : o.place e = some (.phys a kind none) := by rw [place_of_here (by rw [hd]; rfl), hd]
  unfold copyPut
  rw [hplace]
  show Worked s (physBytes t o.part _ _ none a bs) _ _
  rw [physBytes_calm h.calm (by rw [h.ctx_eq]; exact hesc) hb hlow, h.mem_eq]
  exact h.write _ _ _ _

/-- An element put in a register. -/
theorem copyPut_reg (h : Worked s t c m) (o : CopyOp) (core : Nat) (bs : List Byte) {e : CopyElem} {v : VReg5} {i : Nat}
    (hd : e.dst = .reg v i) : Worked s (copyPut o core false bs t e) (c.putElem v (8 * o.width) i (leNat bs)) m := by
  have hplace : o.place e = none := by rw [place_of_here (by rw [hd]; trivial), hd]
  unfold copyPut
  rw [hplace, hd]
  exact h.mapCtx _

end Worked

/-! ## The copy queue of the core whose turn it is -/

/-- The core's copy queue replaced. -/
def State.setCopies (s : State) (cs : List CopyOp) : State := { s with core := { s.core with copies := cs } }

/-- A copy queue keeps no other agent waiting. -/
theorem State.Calm.setCopies {s : State} (h : s.Calm) (cs : List CopyOp) : (s.setCopies cs).Calm := by
  obtain ⟨he, hh, hm, hp, hc, hw⟩ := h
  refine ⟨he, hh, hm, hp, hc, ?_⟩
  have hcore (n : Nat) : ((s.setCopies cs).coreAt n).hwait = (s.coreAt n).hwait
      ∧ ((s.setCopies cs).coreAt n).stop = (s.coreAt n).stop := by
    show (if s.core.id = n then _ else _ : Core).hwait = (if s.core.id = n then _ else _ : Core).hwait ∧
      (if s.core.id = n then _ else _ : Core).stop = (if s.core.id = n then _ else _ : Core).stop
    split <;> exact ⟨rfl, rfl⟩
  have hsame : waiters (s.setCopies cs) = waiters s := by
    simp only [waiters, hcore]
    rfl
  exact hsame.trans hw

/-! ## Leaving the queue -/

theorem physBytes_device_mem {s : State} (h : s.Calm) (he : s.ctx.esc = none) {a : Nat} (hc : inCounterBlock s a = false) (k : Nat)
    (new : Bool) (page : Option PageRef) {bs : List Byte} (hb : bs ≠ []) :
    (physBytes s k new .device page a bs).mem = setBytes s.mem a bs := by
  have hmem := physWrite_still_mem h.still he hc k new .device page bs hb
  have hempty : bs.isEmpty = false := by simpa using hb
  rwa [physWrite, hempty, hc, if_neg (by simp), granuleRun_calm h.noEcc] at hmem

/-- R323: an arrival that cannot overdraw with a trap withdraws its count from the purse, and is all that memory is written with. -/
theorem arrive_mem {s : State} (h : s.Calm) (he : s.ctx.esc = none) {a : Nat} (hc : inCounterBlock s a = false)
    {w : Word} (hw : BitVec.ofNat 64 (getLe s.mem a 8) = w) (hquiet : w.getLsbD 34 = false) (k n : Nat) (err : Bool)
    (owner : Option SRef) (new : Bool) : (arrive s k a n err owner new).mem = setLe s.mem a 8 (arrived w n err).toNat := by
  unfold arrive
  simp only [hw, hquiet, Bool.and_false, Bool.false_eq_true, if_false]
  exact physBytes_device_mem h he hc _ _ _ (natBytes_ne_nil (by decide) _)

/-- What is left of a copy with a purse that leaves the queue where no escrow loop runs: at most an overdraft pending or shown, and the
purse's word. -/
structure Left (s t : State) (cs : List CopyOp) (a n : Nat) : Prop where
  copies : t.core.copies = cs
  ctx : t.ctx = { s.ctx with overdraft := t.ctx.overdraft }
  held : t.heldStores = s.heldStores
  mem : (BitVec.ofNat 64 (getLe s.mem a 8) : Word).getLsbD 34 = false →
    t.mem = setLe s.mem a 8 (arrived (BitVec.ofNat 64 (getLe s.mem a 8)) n false).toNat

/-- R277: a copy that leaves without an error has its purse's Teller withdraw the whole count. -/
theorem copyLeave_left {s : State} (h : s.Calm) (he : s.ctx.esc = none) {o : CopyOp} (hf : ∀ hdr x, o.form ≠ .ring hdr x) {a : Nat}
    (hp : o.purse = some a) (hc : inCounterBlock s a = false) (pos : Nat) :
    Left s (copyLeave s pos o false) (s.core.copies.eraseIdx pos) a o.bytes := by
  have hleave : copyLeave s pos o false = arrive (s.setCopies (s.core.copies.eraseIdx pos)) o.part a o.bytes false o.owner
      (newColour s o.part o.colour) := by
    unfold copyLeave
    simp only [hp, Bool.false_eq_true, if_false]
    split
    · next heq _ => exact absurd heq (hf _ _)
    · next heq _ => exact absurd heq (hf _ _)
    all_goals rfl
  have hidle : s.ctx.escActive = none := by simp [Ctx.escActive, he]
  have hengine : (copyLeave s pos o false).engine = (s.setCopies (s.core.copies.eraseIdx pos)).engine := by
    rw [hleave, arrive_engine]
  obtain ⟨hcopies, -, hheld, -, -⟩ := State.engine_eq_iff.1 hengine
  refine ⟨hcopies, State.ctx_of_engine_eq (s := s.setCopies (s.core.copies.eraseIdx pos)) hengine hidle, hheld, fun hquiet => ?_⟩
  rw [hleave]
  generalize hw : (BitVec.ofNat 64 (getLe s.mem a 8) : Word) = w at hquiet ⊢
  have hmem : (s.setCopies (s.core.copies.eraseIdx pos)).mem = s.mem := rfl
  rw [arrive_mem (h.setCopies (s.core.copies.eraseIdx pos)) he hc (by rw [hmem, hw]) hquiet, hmem]

/-! ## Entering an empty queue -/

/-- The state in which a copy that enters an empty queue is performed. -/
def entered (s : State) (o : CopyOp) : State := { s.setCopies [{ o with id := s.draws }] with draws := s.draws + 1 }

section
variable {s : State} {o : CopyOp} (hlag : s.lag = false) (hq : s.core.copies = [])
include hlag hq

theorem copyEnter_of_empty : copyEnter s o = copyFinish (entered s o) 0 := by
  unfold copyEnter
  dsimp only
  rw [if_neg (by simp [hlag]), hq]
  rfl

/-- A plain copy has nothing more to do as it ends. -/
theorem copyEnter_plain (hf : o.form = .plain) : copyEnter s o = copyEnd (entered s o) 0 { o with id := s.draws } id := by
  rw [copyEnter_of_empty hlag hq, copyFinish]
  simp only [entered, State.setCopies, List.getElem?_cons_zero, hf]

/-- A tile fills its register and its mask as it ends (R285). -/
theorem copyEnter_tile {v : Option VReg5} {k : MReg3} {n : Nat} {bits : List Bool} (hf : o.form = .tile v k n bits) :
    copyEnter s o = copyEnd (entered s o) 0 { o with id := s.draws } (tileDone v k bits) := by
  rw [copyEnter_of_empty hlag hq, copyFinish]
  simp only [entered, State.setCopies, List.getElem?_cons_zero, hf]

end

theorem worked_entered {s : State} (h : s.Calm) (o : CopyOp) :
    Worked (s.setCopies [{ o with id := s.draws }]) (entered s o) s.ctx s.mem :=
  (Worked.refl (h.setCopies _)).draw _

end Sys2Proof.Machine
end

section
/-! SUPPORT. The checks of a copy whose addresses lie in the pocket or in plain memory (R276), and its way through the VIQ on a calm
chip. -/

namespace Sys2Proof.Machine

/-! ## Places -/

/-- Where an address of the pocket's space, or else of untranslated memory, lands. -/
def placeIn (space : Nat) (a : Word) : Loc := if space = 2 then .pocket a.toNat else .phys a.toNat kindRC none

/-- An address passes the checks of R276 in the pocket or in plain memory. -/
def PlaceOk (s : State) (pr : Priv) (space w : Nat) (a : Word) : Prop :=
  a.toNat % w = 0 ∧ ((space = 2 ∧ a.toNat + w ≤ s.ctx.pocb)
    ∨ (space = 0 ∧ pr = .machine ∧ physOk a.toNat w = true ∧ isCommons a.toNat = false))

section
variable {s : State} {pr : Priv} {space w : Nat} {acc : Acc} (hf : s.parts.all Partition.calm = true)
include hf

theorem runs_resolveSpace_of_placeOk {a : Word} (h : PlaceOk s pr space w a) :
    Runs (resolveSpace space acc pr a w) s (placeIn space a) s := by
  obtain ⟨-, ⟨rfl, hin⟩ | ⟨rfl, rfl, hok, -⟩⟩ := h
  · exact Runs.get_bind (Runs.ite_pos hin (Runs.pure _ s))
  · exact Runs.get_bind (runs_resolveGlobal_machine hok fun _ => frameProtected_calm hf _)

theorem runs_copyAddrs {as : List Word} (h : ∀ a ∈ as, PlaceOk s pr space w a) : Runs (copyAddrs acc space pr w as) s () s := by
  induction as with
  | nil => exact Runs.pure _ s
  | cons a as ih =>
    have ha := h a List.mem_cons_self
    have hres := runs_resolveSpace_of_placeOk (acc := acc) hf ha
    unfold Runs at hres
    refine Runs.bind (t := s) (a := ()) ?_ (ih fun b hb => h b (List.mem_cons_of_mem a hb))
    refine Runs.ite_neg (not_not.2 ha.1) (Runs.get_bind ?_)
    rw [hres]
    exact Runs.pure _ s

theorem runs_copyXlate (hw : 0 < w) {as : List Word} (h : ∀ a ∈ as, PlaceOk s pr space w a) :
    Runs (copyXlate acc space pr w as) s (as.map (placeIn space)) s := by
  induction as with
  | nil => exact Runs.pure _ s
  | cons a as ih =>
    have ha := h a List.mem_cons_self
    have hpeer : Runs (peerSource acc (placeIn space a) a) s () s := by
      refine Runs.get_bind ?_
      by_cases hsp : space = 2
      · rw [placeIn, if_pos hsp]
        cases acc <;> exact Runs.pure _ s
      · rw [placeIn, if_neg hsp]
        cases acc <;> exact Runs.pure _ s
    have hport : locPort (placeIn space a) = none := by
      obtain ⟨-, ⟨rfl, -⟩ | ⟨rfl, -, hok, -⟩⟩ := ha
      · rfl
      · exact if_neg (by rw [isPort_of_physOk hok hw]; exact Bool.false_ne_true)
    refine (runs_resolveSpace_of_placeOk hf ha).bind (hpeer.bind ?_)
    rw [hport]
    exact (ih fun b hb => h b (List.mem_cons_of_mem a hb)).bind (Runs.pure _ s)

end

/-- R276: steps 3 to 5 for addresses that pass. -/
theorem runs_copyPlaces {s : State} {pr : Priv} {word : Word} {w lsp ssp : Nat} {useLd useSt : Bool} {srcs dsts : List Word}
    (hf : s.parts.all Partition.calm = true) (hw : 0 < w) (hlsp : useLd = true → lsp < 4) (hssp : useSt = true → ssp < 4)
    (hsrc : ∀ a ∈ srcs, PlaceOk s pr lsp w a) (hdst : ∀ a ∈ dsts, PlaceOk s pr ssp w a) :
    Runs (copyPlaces pr word w lsp ssp useLd useSt srcs dsts) s (srcs.map (placeIn lsp), dsts.map (placeIn ssp)) s := by
  have hspaces : ¬((useLd && decide (4 ≤ lsp)) || (useSt && decide (4 ≤ ssp))) = true := by
    simp only [Bool.or_eq_true, Bool.and_eq_true, decide_eq_true_eq]
    rintro (⟨hu, hge⟩ | ⟨hu, hge⟩)
    · exact absurd (hlsp hu) (by omega)
    · exact absurd (hssp hu) (by omega)
  exact Runs.ite_neg hspaces ((runs_copyAddrs hf hsrc).bind ((runs_copyAddrs hf hdst).bind
    ((runs_copyXlate hf hw hsrc).bind ((runs_copyXlate hf hw hdst).bind (Runs.pure _ s)))))

theorem copyBytes_pos (w : BitVec 2) : 0 < copyBytes w := Nat.two_pow_pos _

/-- The addresses of a run, by position. -/
theorem strideAddrs_eq (a : Word) (st : Int) (n : Nat) :
    strideAddrs a st n = (upFrom 0 n).map fun k : Nat => a + BitVec.ofInt 64 (k * st) := by
  simp [strideAddrs, ← List.map_eq_flatMap]

/-! ## The way through the VIQ -/

/-- What a run leaves of a queue that holds its entry alone, where nothing else is outstanding. -/
structure Alone (en : VEntry) (t : State) : Prop where
  viq : t.ctx.viq = [en]
  cable : t.ctx.cable = []
  srq : t.ctx.srq = []
  barrier : t.ctx.barrier = none
  held : t.heldStores = []

/-- An entry that leaves alone empties the queue, and nothing follows it. -/
theorem Alone.leave {en : VEntry} {t : State} (h : Alone en t) (hw : en.wrote = []) (hf : en.faulting = false) :
    viqAfter (viqLeave en t) = t.setCtx { t.ctx with viq := [] } := by
  obtain ⟨hviq, hcable, hsrq, hbar, hheld⟩ := h
  rw [viqLeave_alone hviq hw hf hbar (by rw [hheld]; rfl)]
  exact viqAfter_of_idle hcable hsrq

end Sys2Proof.Machine
end

section
/-! SUPPORT. `cpyv` on a calm chip (R280): its elements land in order, and its register is FULL. -/

namespace Sys2Proof.Machine

/-! ## Positions of a run -/

theorem upFrom_eq_range' (a n : Nat) : upFrom a n = List.range' a n := by
  induction n generalizing a with
  | zero => rfl
  | succ n ih => rw [upFrom, ih, List.range'_succ]

theorem upFrom_concat (a n : Nat) : upFrom a (n + 1) = upFrom a n ++ [a + n] := by
  rw [upFrom_eq_range', upFrom_eq_range', List.range'_concat, Nat.one_mul]

theorem getElem?_upFrom {n k : Nat} (h : k < n) (a : Nat) : (upFrom a n)[k]? = some (a + k) := by
  rw [upFrom_eq_range', List.getElem?_range' h, Nat.one_mul]

/-- The landed elements of a copy that lands them in order. -/
theorem insertRising_upFrom (a n : Nat) : insertRising (upFrom a n) (a + n) = upFrom a (n + 1) := by
  induction n generalizing a with
  | zero => rfl
  | succ n ih =>
    have hnext : a + (n + 1) = a + 1 + n := by omega
    rw [upFrom, insertRising, if_neg (by omega), if_neg (by omega), hnext, ih]
    rfl

/-! ## A register filled element by element -/

/-- The bytes of a register after the elements of a list. -/
def filledData (w : Nat) (val : Nat → Nat) (is : List Nat) (d : Bytes) : Bytes := is.foldl (fun d k => putRaw d w k (val k)) d

theorem rawAt_filledData {w : Nat} (hw : w = 4 ∨ 8 ∣ w) (val : Nat → Nat) (is : List Nat) {d : Bytes} (h : wfBytes d = true) (j : Nat) :
    rawAt (filledData w val is d) w j = if j ∈ is then val j % 2 ^ w else rawAt d w j := by
  unfold filledData
  induction is generalizing d with
  | nil => simp
  | cons k is ih =>
    rw [List.foldl_cons, ih (wfBytes_putRaw h _ _ _), rawAt_putRaw h hw]
    by_cases hj : j ∈ is
    · simp [hj]
    · by_cases hk : j = k
      · simp [hk]
      · simp [hj, hk]

@[simp] theorem Ctx.setVr_setVr (c : Ctx) (r : VReg5) (v w : VReg) : (c.setVr r v).setVr r w = c.setVr r w := by
  simp [Ctx.setVr]

/-! ## Elements of paired lists -/

theorem pairElems_map (f : Nat → Word) (g : Nat → Loc) (d : Nat → CopyDst) (is : List Nat) :
    pairElems (is.map f) (is.map g) (is.map d) = is.map fun k => { src := .mem (g k), dst := d k, addr := f k } := by
  simp [pairElems, List.zip_map']

/-! ## Landing -/

/-- A `cpyv` into register v at the head of the queue of a chip where nothing is held or poisoned, its sources on this chip. -/
structure CpyvReady (s : State) (o : CopyOp) (v : VReg5) (n : Nat) (E : Nat → CopyElem) : Prop where
  form : o.form = .toReg v n
  elems : o.elems = (upFrom 0 n).map E
  here : ∀ k < n, (E k).src.Here
  dst : ∀ k < n, (E k).dst.Here
  order : ∀ k < n, o.so (E k) = false
  poisoned : o.poisoned = none
  purse : o.purse = none
  ecc : s.ecc = []
  held : s.heldStores = []
  cable : s.ctx.cable = []

/-- The value of element k of a `cpyv`. -/
def cpyvValue (s : State) (o : CopyOp) (E : Nat → CopyElem) (k : Nat) : Nat := leNat ((E k).src.bytesIn s.mem s.ctx.pocket o.width)

/-- The copy whose first j elements have landed. -/
def CopyOp.landing (o : CopyOp) (j : Nat) : CopyOp := { o with landed := upFrom 0 j }

/-- The state with the first j elements of a `cpyv` in the register, whose copy notes those of them that p does. -/
def cpyvAt (s : State) (o : CopyOp) (v : VReg5) (E : Nat → CopyElem) (p : CopyOp) (j : Nat) (l : Option Nat) : State :=
  (s.setCopies [p]).setCtx (s.ctx.setVr v { s.ctx.vr v with
    landed := l, data := filledData (8 * o.width) (cpyvValue s o E) (upFrom 0 j) (s.ctx.vr v).data })

/-- All n elements of a `cpyv` have landed, and it has left the queue. -/
def cpyvDone (s : State) (o : CopyOp) (v : VReg5) (E : Nat → CopyElem) (n : Nat) : State :=
  (s.setCopies []).setCtx (s.ctx.setVr v { s.ctx.vr v with
    st := .full, landed := none, data := filledData (8 * o.width) (cpyvValue s o E) (upFrom 0 n) (s.ctx.vr v).data })

theorem cpyvAt_ctx (s : State) (o : CopyOp) (v : VReg5) (E : Nat → CopyElem) (p : CopyOp) (j : Nat) (l : Option Nat) :
    (cpyvAt s o v E p j l).core.ctx = s.ctx.setVr v { s.ctx.vr v with
      landed := l, data := filledData (8 * o.width) (cpyvValue s o E) (upFrom 0 j) (s.ctx.vr v).data } := rfl

/-- One more element in the register. -/
theorem cpyvAt_putElem (s : State) (o : CopyOp) (v : VReg5) (E : Nat → CopyElem) (p : CopyOp) (j : Nat) (l : Option Nat) :
    ((cpyvAt s o v E p j l).mapCtx fun c => c.putElem v (8 * o.width) j (cpyvValue s o E j)) = cpyvAt s o v E p (j + 1) l := by
  have hdata : filledData (8 * o.width) (cpyvValue s o E) (upFrom 0 (j + 1)) (s.ctx.vr v).data =
      putRaw (filledData (8 * o.width) (cpyvValue s o E) (upFrom 0 j) (s.ctx.vr v).data) (8 * o.width) j (cpyvValue s o E j) := by
    rw [upFrom_concat, Nat.zero_add, filledData, List.foldl_append]
    rfl
  rw [State.mapCtx, cpyvAt_ctx, Ctx.putElem, Ctx.mapVr, Ctx.vr_setVr_same, Ctx.setVr_setVr, cpyvAt, cpyvAt, hdata]
  rfl

section
variable {s : State} {o : CopyOp} {v : VReg5} {n : Nat} {E : Nat → CopyElem} (h : CpyvReady s o v n E)
include h

/-- A `cpyv` that has no purse leaves the queue as it finishes, its register FULL. -/
theorem cpyvFinish_eq (p : CopyOp) (l : Option Nat) (j : Nat) : cpyvFinish (cpyvAt s o v E p n l) 0 (o.landing j) v = cpyvDone s o v E n := by
  have hfull (d : VReg) : ((s.ctx.setVr v d).mapVr v VReg.filled).stale v = s.ctx.setVr v { d with st := .full, landed := none } := by
    have hcable : ((s.ctx.setVr v d).mapVr v VReg.filled).cable = [] := h.cable
    rw [Ctx.stale, Ctx.staleWhere, hcable, List.isEmpty_nil, if_pos rfl, Ctx.mapVr, Ctx.vr_setVr_same, Ctx.setVr_setVr]
    rfl
  unfold cpyvFinish State.mapCtx copyLeave CopyOp.landing
  simp only [h.poisoned, h.purse, h.form, cpyvAt_ctx, hfull, Bool.false_eq_true, if_false]
  rfl

/-- R280: element j lands where the ones below it have. -/
theorem cpyvLand_next {j : Nat} (hj : j < n) (l : Option Nat) :
    cpyvLand (cpyvAt s o v E (o.landing j) j l) 0 (o.landing j) v n j =
      if j + 1 = n then cpyvDone s o v E n
      else cpyvAt s o v E (o.landing (j + 1)) (j + 1) (some ((o.landing (j + 1)).landedPrefix n)) := by
  generalize ht : cpyvAt s o v E (o.landing j) j l = t
  have hecc : t.ecc = [] := by rw [← ht]; exact h.ecc
  have hheld : t.heldStores = [] := by rw [← ht]; exact h.held
  have he : (o.landing j).elems[j]? = some (E j) := by
    show o.elems[j]? = _
    rw [h.elems, List.getElem?_map, getElem?_upFrom hj, Nat.zero_add]
    rfl
  have hord : copyOrder (o.landing j) (E j) t = t := settleHeld_nil hheld _
  have hstuck : copyStuck (o.landing j) (E j) t = false := by simp [copyStuck, hheld]
  have hturn : (o.landing j).turn j = true := by
    have hso : (o.landing j).so (E j) = false := h.order j hj
    simp [CopyOp.turn, he, hso]
  have hgo : ¬(j ∈ (o.landing j).landed ∨ n ≤ j ∨ (o.landing j).turn j = false ∨ copyStuck (o.landing j) (E j) t = true) := by
    have hfresh : j ∉ (o.landing j).landed := by simp [CopyOp.landing, mem_upFrom]
    simp [hfresh, hturn, hstuck, hj]
  have hread : (o.landing j).reads t (E j) = (false, (E j).src.bytesIn s.mem s.ctx.pocket o.width) := by
    rw [reads_of_here hecc hheld (h.here j hj), ← ht]
    rfl
  have htouch : (E j).src.touch (o.landing j).part (o.landing j).width t = t := touch_of_here hecc (h.here j hj) _ _
  have hland : ({ o.landing j with landed := insertRising (o.landing j).landed j } : CopyOp) = o.landing (j + 1) := by
    have hnext : insertRising (upFrom 0 j) j = upFrom 0 (j + 1) := by simpa using insertRising_upFrom 0 j
    rw [CopyOp.landing, hnext]
    rfl
  have hput : (t.mapCtx fun c => c.putElem v (8 * (o.landing j).width) j (leNat ((E j).src.bytesIn s.mem s.ctx.pocket o.width))) =
      cpyvAt s o v E (o.landing j) (j + 1) l := by
    rw [← ht]
    exact cpyvAt_putElem s o v E (o.landing j) j l
  unfold cpyvLand
  simp only [he, hord, hgo, if_false, hread, htouch, hland, hput, Bool.false_eq_true]
  unfold cpyvUpdate
  have hlen : (o.landing (j + 1)).landed.length = j + 1 := upFrom_length 0 (j + 1)
  rw [hlen]
  split
  · next hn => rw [hn, ← cpyvFinish_eq h (o.landing j) l n]
  · show State.setCtx _ ((s.ctx.setVr v _).mapVr v _) = _
    rw [Ctx.mapVr, Ctx.vr_setVr_same, Ctx.setVr_setVr]
    rfl

/-- Landing the elements from j up, in order, lands them all. -/
theorem cpyvLandAll_from (k j : Nat) (hk : 0 < k) (hjk : j + k = n) (l : Option Nat) :
    cpyvLandAll v n 0 (upFrom j k) (cpyvAt s o v E (o.landing j) j l) = cpyvDone s o v E n := by
  induction k generalizing j l with
  | zero => omega
  | succ k ih =>
    have hform : (o.landing j).form = .toReg v n := h.form
    have hclean : (o.landing j).poisoned = none := h.poisoned
    have hcopies : (cpyvAt s o v E (o.landing j) j l).core.copies[0]? = some (o.landing j) := rfl
    rw [upFrom, cpyvLandAll]
    simp only [hcopies, hform, hclean, Option.any_none, Bool.false_eq_true, if_false]
    rw [cpyvLand_next h (by omega)]
    cases k with
    | zero => rw [if_pos (by omega)]; rfl
    | succ k => rw [if_neg (by omega)]; exact ih (j + 1) (by omega) (by omega) _

/-- R280: a `cpyv` that waits for nothing fills its register; log 21 has one of no elements leave it FULL too. -/
theorem copyFinish_cpyv (hq : s.core.copies = [o]) (hland : o.landed = []) : copyFinish s 0 = cpyvDone s o v E n := by
  have hfirst : s.core.copies[0]? = some o := by rw [hq]; rfl
  have ho : o.landing 0 = o := by
    obtain ⟨⟩ := o
    cases hland
    rfl
  have hat : cpyvAt s o v E (o.landing 0) 0 (s.ctx.vr v).landed = s := by
    have hsame : s.ctx.setVr v (s.ctx.vr v) = s.ctx := by simp [Ctx.setVr, Ctx.vr]
    have hcopies : s.setCopies [o] = s := by rw [← hq]; rfl
    show (s.setCopies [o.landing 0]).setCtx (s.ctx.setVr v (s.ctx.vr v)) = s
    rw [hsame, ho, hcopies]
    rfl
  rw [copyFinish]
  simp only [hfirst, h.form]
  split
  · next hn =>
    subst hn
    have hfin := cpyvFinish_eq h (o.landing 0) (s.ctx.vr v).landed 0
    rwa [hat, ho] at hfin
  · next hn =>
    have hall := cpyvLandAll_from h n 0 (by omega) (by omega) (s.ctx.vr v).landed
    rwa [hat] at hall

end

end Sys2Proof.Machine
end

section
/-! SUPPORT. `cpyv` and `cpyvs` on a calm chip, from the commit to the retired state (R280, R281). -/

namespace Sys2Proof.Machine

theorem retire_pc_congr {s t : State} (hloops : t.ctx.loops = s.ctx.loops) (hpc : t.ctx.pc = s.ctx.pc)
    (hesc : t.ctx.escLevel = s.ctx.escLevel) : (retire t).ctx.pc = (retire s).ctx.pc := by
  rw [retire_pc, retire_pc, hloops, hpc, hesc]

/-- A ready instruction of the VIQ on a calm chip, whose run leaves its entry alone in the queue, retires with the queue empty. -/
theorem exec_viq_alone {i : Instr} {s p t : State} (hform : viqForm i = true) (hr : Ready i s) (hc : s.Calm)
    (hp : viqPush i [] s = p) (hrun : viqRun i (viqEntry i [] s) p = .done t) (ht : Alone (viqEntry i [] s) t) :
    exec i s = .next (retire (t.setCtx { t.ctx with viq := [] })) := by
  subst hp
  have hnew := entryConsumes_of_still (s := viqPush i [] s) hc.partsStill (viqEntry i [] s)
  rw [exec_of_ready_viq hform hr hnew hrun, ht.leave rfl rfl]

/-! ## `cpyv` -/

/-- Element k of a `cpyv`: from its place to its position. -/
def cpyvElem (vd : VReg5) (space : Nat) (from_ : Nat → Word) (k : Nat) : CopyElem where
  src := .mem (placeIn space (from_ k))
  dst := .reg vd k
  addr := from_ k

theorem cpyvElem_here (vd : VReg5) (space : Nat) (from_ : Nat → Word) (k : Nat) : (cpyvElem vd space from_ k).src.Here := by
  unfold cpyvElem placeIn
  dsimp only
  split <;> trivial

/-- No place of the pocket or of untranslated memory is on an SO page. -/
theorem cpyvElem_so (o : CopyOp) (vd : VReg5) (space : Nat) (from_ : Nat → Word) (k : Nat) : o.so (cpyvElem vd space from_ k) = false := by
  have hplace : o.place (cpyvElem vd space from_ k) = none := rfl
  have hkind : (placeIn space (from_ k)).kind = kindRC := by unfold placeIn; split <;> rfl
  rw [CopyOp.so, hplace]
  show (decide ((placeIn space (from_ k)).kind = kindSO) || false) = false
  rw [hkind]
  rfl

theorem bytesIn_cpyvElem (m p : Bytes) (w : Nat) (vd : VReg5) (space : Nat) (from_ : Nat → Word) (k : Nat) :
    (cpyvElem vd space from_ k).src.bytesIn m p w = getBytes (if space = 2 then p else m) (from_ k).toNat w := by
  unfold cpyvElem placeIn
  dsimp only
  split <;> rfl

theorem cpyvElems_map (vd : VReg5) (space : Nat) (from_ : Nat → Word) (n : Nat) :
    cpyvElems vd ((upFrom 0 n).map from_) n (((upFrom 0 n).map from_).map (placeIn space)) =
      (upFrom 0 n).map (cpyvElem vd space from_) := by
  rw [cpyvElems, List.map_map]
  exact pairElems_map from_ (placeIn space ∘ from_) (CopyDst.reg vd) (upFrom 0 n)

/-- A `cpyv` that enters an empty queue where nothing else is outstanding lands its elements at once. -/
theorem copyEnter_cpyv {s : State} {o : CopyOp} {vd : VReg5} {n space : Nat} {from_ : Nat → Word} (hlag : s.lag = false)
    (hq : s.core.copies = []) (hc : s.Calm) (hcable : s.ctx.cable = []) (hform : o.form = .toReg vd n)
    (helems : o.elems = (upFrom 0 n).map (cpyvElem vd space from_)) (hclean : o.poisoned = none) (hpurse : o.purse = none)
    (hland : o.landed = []) :
    copyEnter s o = cpyvDone (entered s o) { o with id := s.draws } vd (cpyvElem vd space from_) n := by
  rw [copyEnter_of_empty hlag hq]
  refine copyFinish_cpyv ⟨hform, helems, fun k _ => cpyvElem_here vd space from_ k, fun _ _ => trivial,
    fun k _ => cpyvElem_so _ vd space from_ k, hclean, hpurse, hc.noEcc, hc.noHeld, hcable⟩ rfl hland

/-- A register filled by a `cpyv` of n elements of w bytes from a byte store. -/
def copiedVr (v : VReg) (w : Nat) (src : Bytes) (from_ : Nat → Word) (n : Nat) : VReg :=
  { v with
    st := .full
    landed := none
    data := filledData (8 * w) (fun k => leNat (getBytes src (from_ k).toNat w)) (upFrom 0 n) v.data }

/-- An entry's `cpyv` from the pocket or from untranslated memory fills its register, and changes nothing else. -/
theorem runCpyv_calm {w : BitVec 2} {vd : VReg5} {en : VEntry} {s : State} {from_ : Nat → Word} (hc : s.Calm) (hlag : s.lag = false)
    (hq : s.core.copies = []) (hcable : s.ctx.cable = [])
    (has : strideAddrs en.a (if en.b = 0 then (copyBytes w : Int) else en.b.toInt) en.csr.vl.toNat =
      (upFrom 0 en.csr.vl.toNat).map from_)
    (hreg : copyRegBad s.ctx vd (copyBytes w) en.csr.vl.toNat = none) (hfree : s.ctx.dstWaits vd = false) (hspace : ldSpace en < 4)
    (hplaces : ∀ k < en.csr.vl.toNat, PlaceOk s en.priv (ldSpace en) (copyBytes w) (from_ k)) :
    runCpyv w vd en s = .done (State.setCtx { s with draws := s.draws + 1 } (s.ctx.setVr vd
      (copiedVr (s.ctx.vr vd) (copyBytes w) (if ldSpace en = 2 then s.ctx.pocket else s.mem) from_ en.csr.vl.toNat))) := by
  have hmany : ∀ a ∈ (upFrom 0 en.csr.vl.toNat).map from_, PlaceOk s en.priv (ldSpace en) (copyBytes w) a := by
    intro a ha
    obtain ⟨k, hk, rfl⟩ := List.mem_map.1 ha
    exact hplaces k (by simpa using (mem_upFrom.1 hk).2)
  have hplace := runs_copyPlaces (ssp := 0) (useLd := true) (useSt := false) (dsts := []) (word := en.word.setWidth 64) hc.partsCalm
    (copyBytes_pos w) (fun _ => hspace) nofun hmany nofun
  have hroom : copyFull s = false := by rw [copyFull, hq]; rfl
  rw [runCpyv_of_runs hreg hroom hfree (by rw [has]; exact hplace), has]
  dsimp only
  rw [cpyvElems_map]
  generalize hpend : (s.mapCtx fun c => c.mapVr vd fun v => { v with st := .pending, landed := some 0 }) = q
  have hqlag : q.lag = false := by rw [← hpend]; exact hlag
  have hqq : q.core.copies = [] := by rw [← hpend]; exact hq
  have hqc : q.Calm := by rw [← hpend]; exact hc.mapCtx _
  have hqcable : q.ctx.cable = [] := by rw [← hpend]; exact hcable
  rw [copyEnter_cpyv (space := ldSpace en) (from_ := from_) (n := en.csr.vl.toNat) (vd := vd) hqlag hqq hqc hqcable rfl rfl rfl rfl rfl]
  have hqctx : q.ctx = s.ctx.setVr vd { s.ctx.vr vd with st := .pending, landed := some 0 } := by rw [← hpend]; rfl
  have hqmem : q.mem = s.mem := by rw [← hpend]; rfl
  have hval (p o : CopyOp) (ho : o.width = copyBytes w) : cpyvValue (entered q p) o (cpyvElem vd (ldSpace en) from_) =
      fun k => leNat (getBytes (if ldSpace en = 2 then s.ctx.pocket else s.mem) (from_ k).toNat (copyBytes w)) := by
    funext k
    rw [cpyvValue, bytesIn_cpyvElem, ho]
    show leNat (getBytes (if ldSpace en = 2 then q.ctx.pocket else q.mem) _ _) = _
    rw [hqctx, hqmem]
    rfl
  have hstate (o : CopyOp) (c : Ctx) : ((entered q o).setCopies []).setCtx c = State.setCtx { s with draws := s.draws + 1 } c := by
    have hs : s.setCopies [] = s := by rw [← hq]; rfl
    rw [← hpend]
    exact congrArg (fun u : State => State.setCtx { u with draws := u.draws + 1 } c) hs
  congr 1
  rw [cpyvDone, hstate]
  congr 1
  have hfinal (d : Bytes) : q.ctx.setVr vd { q.ctx.vr vd with st := .full, landed := none, data := d } =
      s.ctx.setVr vd { s.ctx.vr vd with st := .full, landed := none, data := d } := by
    rw [hqctx, Ctx.setVr_setVr, Ctx.vr_setVr_same]
  have hdata : (q.ctx.vr vd).data = (s.ctx.vr vd).data := by rw [hqctx, Ctx.vr_setVr_same]
  rw [hval _ _ rfl]
  show q.ctx.setVr vd { q.ctx.vr vd with st := .full, landed := none, data := filledData _ _ _ (q.ctx.vr vd).data } = _
  rw [hdata]
  exact hfinal _

section
variable {w : BitVec 2} {rs2 rs1 : XReg} {vd : VReg5} {s : State} (hr : Ready (.cpyv w rs2 rs1 vd) s) (hc : s.Calm)
  (hq : s.core.copies = [])
include hr hc hq

/-- R280: a `cpyv` from the pocket or from untranslated memory fills its register, and retires. -/
theorem exec_cpyv_calm {from_ : Nat → Word} (hfrom : ∀ k : Nat,
      s.x rs1 + BitVec.ofInt 64 (k * (if s.x rs2 = 0 then (copyBytes w : Int) else (s.x rs2).toInt)) = from_ k)
    (hreg : copyRegBad s.ctx vd (copyBytes w) s.ctx.u.vl.toNat = none) (hfree : s.ctx.dstWaits vd = false)
    (hspace : ldCode s.ctx.u < 4)
    (hplaces : ∀ k < s.ctx.u.vl.toNat, PlaceOk s (dataPriv s) (ldCode s.ctx.u) (copyBytes w) (from_ k)) :
    exec (.cpyv w rs2 rs1 vd) s = .next (retire (State.setCtx { s with draws := s.draws + 1 }
      { (viqPush (.cpyv w rs2 rs1 vd) [] s).ctx.setVr vd (copiedVr (s.ctx.vr vd) (copyBytes w)
          (if ldCode s.ctx.u = 2 then s.ctx.pocket else s.mem) from_ s.ctx.u.vl.toNat) with viq := [] })) := by
  obtain ⟨⟨hlag, hviq, hcable, hsrq, -, hbar, -⟩, -⟩ := id hr
  have has : strideAddrs (viqEntry (.cpyv w rs2 rs1 vd) [] s).a (if (viqEntry (.cpyv w rs2 rs1 vd) [] s).b = 0 then (copyBytes w : Int)
      else (viqEntry (.cpyv w rs2 rs1 vd) [] s).b.toInt) s.ctx.u.vl.toNat = (upFrom 0 s.ctx.u.vl.toNat).map from_ := by
    rw [strideAddrs_eq]
    exact List.map_congr_left fun k _ => hfrom k
  have hrun := runCpyv_calm (en := viqEntry (.cpyv w rs2 rs1 vd) [] s) (s := viqPush (.cpyv w rs2 rs1 vd) [] s) (hc.mapCtx _) hlag hq
    hcable has hreg hfree hspace hplaces
  have hvr : copiedVr ((viqPush (.cpyv w rs2 rs1 vd) [] s).ctx.vr vd) (copyBytes w) (if ldSpace (viqEntry (.cpyv w rs2 rs1 vd) [] s) = 2
      then (viqPush (.cpyv w rs2 rs1 vd) [] s).ctx.pocket else (viqPush (.cpyv w rs2 rs1 vd) [] s).mem) from_
      (viqEntry (.cpyv w rs2 rs1 vd) [] s).csr.vl.toNat = copiedVr (s.ctx.vr vd) (copyBytes w)
        (if ldCode s.ctx.u = 2 then s.ctx.pocket else s.mem) from_ s.ctx.u.vl.toNat := rfl
  rw [hvr] at hrun
  generalize copiedVr (s.ctx.vr vd) (copyBytes w) (if ldCode s.ctx.u = 2 then s.ctx.pocket else s.mem) from_ s.ctx.u.vl.toNat = v at hrun ⊢
  generalize hp : viqPush (.cpyv w rs2 rs1 vd) [] s = p at hrun ⊢
  have halone : Alone (viqEntry (.cpyv w rs2 rs1 vd) [] s) (State.setCtx { p with draws := p.draws + 1 } (p.ctx.setVr vd v)) := by
    subst hp
    refine ⟨?_, hcable, hsrq, hbar, hc.noHeld⟩
    show s.ctx.viq ++ [viqEntry (.cpyv w rs2 rs1 vd) [] s] = _
    rw [hviq]
    rfl
  rw [exec_viq_alone rfl hr hc hp hrun halone, ← hp]
  rfl

end

/-- R280: each element of a filled register is its source's bytes, and what lies past them is as before. -/
theorem rawAt_copiedVr {v : VReg} (h : wfBytes v.data = true) (w : BitVec 2) (src : Bytes) (from_ : Nat → Word) (n k : Nat) :
    rawAt (copiedVr v (copyBytes w) src from_ n).data (8 * copyBytes w) k =
      if k < n then leNat (getBytes src (from_ k).toNat (copyBytes w)) else rawAt v.data (8 * copyBytes w) k := by
  have hlt : leNat (getBytes src (from_ k).toNat (copyBytes w)) < 2 ^ (8 * copyBytes w) := by
    have hbytes := leNat_lt (getBytes src (from_ k).toNat (copyBytes w))
    rwa [getBytes_length, show (256 : Nat) = 2 ^ 8 from rfl, ← Nat.pow_mul] at hbytes
  rw [copiedVr, rawAt_filledData (.inr (Nat.dvd_mul_right _ _)) _ _ h, Nat.mod_eq_of_lt hlt]
  simp [mem_upFrom]

end Sys2Proof.Machine
end

section
/-! SUPPORT. `cpyvs` on a calm chip (R281), from the commit to the retired state. -/

namespace Sys2Proof.Machine

/-! ## Purses (R276) -/

/-- A purse lies in the Commons, outside the counter blocks. -/
theorem purseAt_place {s : State} {pr : Priv} {pbase : Word} {p a : Nat} (h : purseAt s pr pbase p = some a) :
    Config.commonsBase ≤ a ∧ inCounterBlock s a = false := by
  unfold purseAt at h
  split at h
  · cases h
  · split at h
    · cases h
    · next hword =>
      split_ifs at h with hc
      obtain rfl := Option.some.inj h
      obtain ⟨-, -, -, -, ha⟩ := commonsWord_some hword
      exact ⟨by omega, by simpa using hc⟩

/-- Where nothing is poisoned or held the purse table is read, whatever waits in the VIQ. -/
theorem runs_purseOf_of_no_held {s : State} (hecc : s.ecc = []) (hheld : s.heldStores = []) {pr : Priv} {pbase : Word} {p a : Nat}
    (h : purseAt s pr pbase p = some a) (tv : Word → Word) : Runs (purseOf pr pbase p tv) s a s := by
  have hread (e n : Nat) (hp : isPort e = false) (v : Word) : Runs (readLoc (.phys e kindRC none) n v) s (getBytes s.mem e n) s := by
    refine Runs.modify_bind ?_
    rw [orderFor_nil hheld]
    exact Runs.get_bind (Runs.ite_neg (by simp [mustWait_nil hheld]) (runs_readRaw_phys hp hecc hheld))
  unfold purseAt at h
  split at h
  · cases h
  · next e hent =>
    split at h
    · cases h
    · next b hword =>
      split_ifs at h with hc
      obtain rfl := Option.some.inj h
      refine Runs.get_bind ?_
      simp only [hent]
      refine (hread _ _ (isPort_of_commonsWord hent) _).bind (Runs.get_bind ?_)
      simp only [hword]
      exact Runs.ite_neg hc (Runs.pure b s)

theorem inCounterBlock_congr {s t : State} (h : t.pcnt = s.pcnt) (a : Nat) : inCounterBlock t a = inCounterBlock s a := by
  have hn : t.nparts = s.nparts := by rw [State.nparts, State.nparts, h]
  have hblock : counterBlock t = counterBlock s := funext fun k => by rw [counterBlock, counterBlock, hn]
  rw [inCounterBlock, inCounterBlock, hn, hblock]

/-! ## The elements of a `cpyvs` -/

/-- Element k of a `cpyvs`: what its register holds, for its place. -/
def cpyvsElem (B : Nat → List Byte) (space : Nat) (to_ : Nat → Word) (k : Nat) : CopyElem where
  src := .val (B k) false
  dst := .mem (placeIn space (to_ k))
  addr := to_ k

theorem cpyvsElems_map (c : Ctx) (vs : VReg5) (b : Nat) (space : Nat) (to_ : Nat → Word) (n : Nat) :
    cpyvsElems c vs b ((upFrom 0 n).map to_) n (((upFrom 0 n).map to_).map (placeIn space)) =
      (upFrom 0 n).map (cpyvsElem (fun k => natBytes b (c.raw vs k)) space to_) := by
  have hid : upFrom 0 n = (upFrom 0 n).map id := (List.map_id _).symm
  conv_lhs => rw [cpyvsElems, hid, List.map_map, List.map_map, List.zip_map', List.zip_map', List.map_map]
  rfl

/-- A position of a list of elements given by their numbers. -/
theorem eq_of_prefix_map {E : Nat → CopyElem} {n : Nat} {l : List CopyElem} {e : CopyElem} (h : l ++ [e] <+: (upFrom 0 n).map E) :
    l.length < n ∧ e = E l.length := by
  obtain ⟨r, hr⟩ := h
  have hlen : l.length < n := by
    have := congrArg List.length hr
    simp at this
    omega
  have hget : ((upFrom 0 n).map E)[l.length]? = some e := by rw [← hr]; simp
  rw [List.getElem?_map, getElem?_upFrom hlen, Nat.zero_add] at hget
  exact ⟨hlen, (Option.some.inj hget).symm⟩

/-- Memory, or the pocket, after the elements of a `cpyvs`. -/
def movedBytes (B : Nat → List Byte) (to_ : Nat → Word) (n : Nat) (m : Bytes) : Bytes :=
  putRuns (fun k => (to_ k).toNat) B (upFrom 0 n) m

theorem movedBytes_succ (B : Nat → List Byte) (to_ : Nat → Word) (n : Nat) (m : Bytes) :
    movedBytes B to_ (n + 1) m = setBytes (movedBytes B to_ n m) (to_ n).toNat (B n) := by
  rw [movedBytes, upFrom_concat, Nat.zero_add, putRuns, List.foldl_append]
  rfl

/-- What is left of a chip by the first n elements of a `cpyvs`. -/
def MovedTo (s : State) (space : Nat) (B : Nat → List Byte) (to_ : Nat → Word) (n : Nat) (t : State) : Prop :=
  Worked s t { s.ctx with pocket := if space = 2 then movedBytes B to_ n s.ctx.pocket else s.ctx.pocket }
    (if space = 2 then s.mem else movedBytes B to_ n s.mem)

section
variable {s : State} {space : Nat} {B : Nat → List Byte} {to_ : Nat → Word} {pr : Priv} {w : Nat}

/-- One more element of a `cpyvs`, in the pocket or below the Commons. -/
theorem MovedTo.next {t : State} {n : Nat} (h : MovedTo s space B to_ n t) (hesc : s.ctx.esc = none) (hb : (B n).length = w)
    (hw : 0 < w) (hplace : PlaceOk s pr space w (to_ n)) (o : CopyOp) (core : Nat) :
    MovedTo s space B to_ (n + 1) (copyPut o core false (B n) t (cpyvsElem B space to_ n)) := by
  unfold MovedTo at h ⊢
  simp only [movedBytes_succ]
  obtain ⟨-, ⟨rfl, -⟩ | ⟨rfl, -, hok, hcom⟩⟩ := hplace
  · exact h.copyPut_pocket o core (B n) rfl
  · refine h.copyPut_below hesc o core (by rw [← List.length_pos_iff, hb]; exact hw) (kind := kindRC) rfl ?_
    rw [hb]
    exact below_of_physOk hok hcom hw

/-- A plain copy of values into the pocket or plain memory makes its writes in order and leaves the queue, its purse withdrawn. -/
theorem copyEnter_cpyvs {o : CopyOp} {n a : Nat} (hc : s.Calm) (hesc : s.ctx.esc = none) (hlag : s.lag = false)
    (hq : s.core.copies = []) (hfl : s.flights = []) (hform : o.form = .plain)
    (helems : o.elems = (upFrom 0 n).map (cpyvsElem B space to_)) (hland : o.landed = []) (herr : o.err = false)
    (hpurse : o.purse = some a) (hcount : inCounterBlock s a = false) (hB : ∀ k < n, (B k).length = w) (hw : 0 < w)
    (hplace : ∀ k < n, PlaceOk s pr space w (to_ k)) :
    ∃ r, MovedTo (s.setCopies [{ o with id := s.draws }]) space B to_ n r ∧ Left r (copyEnter s o) [] a o.bytes := by
  generalize hs0 : s.setCopies [{ o with id := s.draws }] = s0
  have hc0 : s0.Calm := by rw [← hs0]; exact hc.setCopies _
  have hctx0 : s0.ctx = s.ctx := by rw [← hs0]; rfl
  have hentered : Worked s0 (entered s o) s0.ctx s0.mem := by
    rw [← hs0]
    exact worked_entered hc o
  have hstart : MovedTo s0 space B to_ 0 (entered s o) := by
    unfold MovedTo
    simpa [movedBytes, putRuns, upFrom] using hentered
  have hfl0 : s0.flights = [] := by rw [← hs0]; exact hfl
  have hentWaits : waiters (entered s o) = [] := by
    obtain ⟨-, -, -, -, -, hwait⟩ := hentered.calm
    exact hwait
  have hhere (k : Nat) : (cpyvsElem B space to_ k).src.Here ∧ (cpyvsElem B space to_ k).dst.Here := by
    refine ⟨rfl, ?_⟩
    unfold cpyvsElem placeIn
    dsimp only
    split
    · trivial
    · rfl
  have hmem (e : CopyElem) (he : e ∈ o.elems) : e.src.Here ∧ e.dst.Here := by
    rw [helems] at he
    obtain ⟨k, -, rfl⟩ := List.mem_map.1 he
    exact hhere k
  obtain ⟨r, hr, hend⟩ := copyEnd_of_here (s := entered s o) (o := { o with id := s.draws })
    (I := fun l t => MovedTo s0 space B to_ l.length t) (hentered.engineClear hfl0) (fun e he => (hmem e he).1)
    (fun e he => (hmem e he).2) (fun l t ht => ht.engineClear hfl0) (fun l e hpre t ht m bs hbs => by
      obtain ⟨hlt, rfl⟩ := eq_of_prefix_map (show l ++ [e] <+: _ from helems ▸ hpre)
      have hval : bs = B l.length := by rcases hbs with rfl | rfl <;> rfl
      rw [hval, List.length_append]
      exact MovedTo.next (t := { t with draws := m }) (pr := pr) (w := w) (ht.draw m) (by rw [hctx0]; exact hesc) (hB _ hlt) hw (by
        obtain ⟨hal, hin⟩ := hplace _ hlt
        exact ⟨hal, by rw [hctx0]; exact hin⟩) _ _)
    hentWaits hentered.calm.partsStill hland herr hstart 0 id
  have hlen : o.elems.length = n := by rw [helems, List.length_map, upFrom_length]
  simp only [hlen] at hr
  refine ⟨r, hr, ?_⟩
  rw [copyEnter_plain hlag hq hform, hend]
  have hcopies : r.core.copies.eraseIdx 0 = [] := by
    rw [hr.copies_eq, ← hs0]
    rfl
  have hleft := copyLeave_left (s := r) (o := { o with id := s.draws }) hr.calm (by rw [hr.ctx_eq, hctx0]; exact hesc)
    (by simp [hform]) hpurse (by rw [← inCounterBlock_congr (s := s) (t := r) (by rw [hr.eq, ← hs0]; rfl)] at hcount; exact hcount) 0
  rw [hcopies] at hleft
  exact hleft

end

/-! ## The whole instruction -/

/-- A purse above the Commons' base is not met by what a `cpyvs` stores below it. -/
theorem getLe_movedBytes {B : Nat → List Byte} {to_ : Nat → Word} {n a k : Nat} {m : Bytes} (h : wfBytes m = true)
    (hbelow : ∀ j < n, (to_ j).toNat + (B j).length ≤ a) : getLe (movedBytes B to_ n m) a k = getLe m a k := by
  refine congrArg leNat (getBytes_congr fun x hlo _ => getByte_putRuns_out h fun j hj => .inr ?_)
  have hjn : j < n := by simpa using (mem_upFrom.1 hj).2
  exact (hbelow j hjn).trans hlo

/-- R281: an entry's `cpyvs` into the pocket or plain memory makes its writes in order, and its purse's Teller withdraws the bytes. -/
theorem runCpyvs_calm {w : BitVec 2} {vs : VReg5} {en : VEntry} {s : State} {to_ : Nat → Word} {a : Nat} (hc : s.Calm)
    (hesc : s.ctx.esc = none) (hlag : s.lag = false) (hq : s.core.copies = []) (hfl : s.flights = [])
    (has : strideAddrs en.a (copyBytes w) en.csr.vl.toNat = (upFrom 0 en.csr.vl.toNat).map to_)
    (hreg : copyRegBad s.ctx vs (copyBytes w) en.csr.vl.toNat = none) (hfull : (s.ctx.vr vs).st = .full)
    (hpurse : purseAt s en.priv en.csr.pbase (en.b.extractLsb' 0 5).toNat = some a) (hspace : stSpace en < 4)
    (hplaces : ∀ k < en.csr.vl.toNat, PlaceOk s en.priv (stSpace en) (copyBytes w) (to_ k)) :
    ∃ o r t, runCpyvs w vs en s = .done t
      ∧ MovedTo (s.setCopies [o]) (stSpace en) (fun k => natBytes (copyBytes w) (s.ctx.raw vs k)) to_ en.csr.vl.toNat r
      ∧ Left r t [] a (en.csr.vl.toNat * copyBytes w) := by
  have hmany : ∀ x ∈ (upFrom 0 en.csr.vl.toNat).map to_, PlaceOk s en.priv (stSpace en) (copyBytes w) x := by
    intro x hx
    obtain ⟨k, hk, rfl⟩ := List.mem_map.1 hx
    exact hplaces k (by simpa using (mem_upFrom.1 hk).2)
  have hplace := runs_copyPlaces (lsp := 0) (useLd := false) (useSt := true) (srcs := []) (word := en.word.setWidth 64) hc.partsCalm
    (copyBytes_pos w) nofun (fun _ => hspace) nofun hmany
  have hroom : copyFull s = false := by rw [copyFull, hq]; rfl
  have hready : s.ctx.srcWaits ⟨vs, some en.csr.vl.toNat⟩ = false := by simp [Ctx.srcWaits, hfull]
  have hrun := runCpyvs_of_runs hreg hroom hready (runs_purseOf_of_no_held hc.noEcc hc.noHeld hpurse _) (by rw [has]; exact hplace)
    (by rw [hfull]; decide)
  rw [has, cpyvsElems_map] at hrun
  obtain ⟨r, hr, hleft⟩ := copyEnter_cpyvs (s := s) (pr := en.priv) (space := stSpace en) (to_ := to_) (w := copyBytes w) (a := a)
    (B := fun k => natBytes (copyBytes w) (s.ctx.raw vs k))
    (o := { copyOp s en.priv .plain (copyBytes w) ((upFrom 0 en.csr.vl.toNat).map
      (cpyvsElem (fun k => natBytes (copyBytes w) (s.ctx.raw vs k)) (stSpace en) to_)) (some a) (en.csr.vl.toNat * copyBytes w) with
      usesStrand := true }) hc hesc hlag hq hfl rfl rfl rfl rfl rfl (purseAt_place hpurse).2
    (fun k _ => natBytes_length _ _) (copyBytes_pos w) hplaces
  exact ⟨_, r, _, hrun, hr, hleft⟩

end Sys2Proof.Machine
end

section
/-! SUPPORT. What `cpyv` and `cpyvs` leave of a calm chip, as the statement on register copies reads it (R280, R281). -/

namespace Sys2Proof.Machine

/-- A place of the pocket's space, or of untranslated memory, passes the checks. -/
theorem placeOk_of_cases {s : State} {space w n : Nat} {f : Nat → Word}
    (h : (space = 2 ∧ ∀ k : Nat, k < n → (f k).toNat % w = 0 ∧ (f k).toNat + w ≤ s.ctx.pocb)
      ∨ (space = 0 ∧ ∀ k : Nat, k < n → PlainAccess s (f k) w)) :
    ∀ k < n, PlaceOk s (dataPriv s) space w (f k) := by
  intro k hk
  obtain ⟨rfl, hin⟩ | ⟨rfl, hplain⟩ := h
  · obtain ⟨hal, hfit⟩ := hin k hk
    exact ⟨hal, .inl ⟨rfl, hfit⟩⟩
  · obtain ⟨hpriv, hmprv, hal, hok, hcom⟩ := hplain k hk
    exact ⟨hal, .inr ⟨rfl, dataPriv_of_plain hpriv hmprv, hok, hcom⟩⟩

theorem space_lt_of_cases {space : Nat} {P Q : Prop} (h : (space = 2 ∧ P) ∨ (space = 0 ∧ Q)) : space < 4 := by omega

/-- What `cpyv` leaves: its register filled from the pocket or from memory, and everything else as it was (R280). -/
theorem cpyv_completes {w : BitVec 2} {rs2 rs1 : XReg} {vd : VReg5} {s : State} (hr : Ready (.cpyv w rs2 rs1 vd) s) (hc : s.Calm)
    (hq : s.core.copies = []) {from_ : Nat → Word} (hfrom : ∀ k : Nat,
      s.x rs1 + BitVec.ofInt 64 (k * (if s.x rs2 = 0 then (copyBytes w : Int) else (s.x rs2).toInt)) = from_ k)
    (hreg : copyRegBad s.ctx vd (copyBytes w) s.ctx.u.vl.toNat = none) (hfree : s.ctx.dstWaits vd = false)
    (hwf : Memory.wf (s.ctx.vr vd).data = true)
    (hplaces : (ldCode s.ctx.u = 2 ∧ ∀ k : Nat, k < s.ctx.u.vl.toNat →
        (from_ k).toNat % copyBytes w = 0 ∧ (from_ k).toNat + copyBytes w ≤ s.ctx.pocb)
      ∨ (ldCode s.ctx.u = 0 ∧ ∀ k : Nat, k < s.ctx.u.vl.toNat → PlainAccess s (from_ k) (copyBytes w))) :
    ∃ t, exec (.cpyv w rs2 rs1 vd) s = .next t ∧ t.core.copies = [] ∧ (t.ctx.vr vd).st = .full
      ∧ (∀ k : Nat, k < s.ctx.u.vl.toNat → rawAt (t.ctx.vr vd).data (8 * copyBytes w) k =
          leNat (getBytes (if ldCode s.ctx.u = 2 then s.ctx.pocket else s.mem) (from_ k).toNat (copyBytes w)))
      ∧ (∀ k : Nat, s.ctx.u.vl.toNat ≤ k →
          rawAt (t.ctx.vr vd).data (8 * copyBytes w) k = rawAt (s.ctx.vr vd).data (8 * copyBytes w) k)
      ∧ (∀ r : VReg5, r ≠ vd → t.ctx.vr r = s.ctx.vr r) ∧ t.ctx.pc = (retire s).ctx.pc ∧ t.ctx.pocket = s.ctx.pocket
      ∧ t.ctx.x = s.ctx.x ∧ t.mem = s.mem := by
  have hexec := exec_cpyv_calm hr hc hq hfrom hreg hfree (space_lt_of_cases hplaces) (placeOk_of_cases hplaces)
  generalize hu : State.setCtx { s with draws := s.draws + 1 } _ = u at hexec
  have hv : u.ctx.v = (s.ctx.setVr vd (copiedVr (s.ctx.vr vd) (copyBytes w) (if ldCode s.ctx.u = 2 then s.ctx.pocket else s.mem) from_
      s.ctx.u.vl.toNat)).v := by rw [← hu]; rfl
  have hvr (r : VReg5) : (retire u).ctx.vr r = (s.ctx.setVr vd (copiedVr (s.ctx.vr vd) (copyBytes w)
      (if ldCode s.ctx.u = 2 then s.ctx.pocket else s.mem) from_ s.ctx.u.vl.toNat)).vr r :=
    congrArg (fun v : Vector VReg 32 => v[r.toNat]) ((retire_ctx_v u).trans hv)
  refine ⟨_, hexec, ?_, ?_, fun k hk => ?_, fun k hk => ?_, fun r hne => ?_, ?_, ?_, ?_, ?_⟩
  · rw [retire_core_copies, ← hu]
    exact hq
  · rw [hvr, Ctx.vr_setVr_same]
    rfl
  · rw [hvr, Ctx.vr_setVr_same, rawAt_copiedVr hwf, if_pos hk]
  · rw [hvr, Ctx.vr_setVr_same, rawAt_copiedVr hwf, if_neg (by omega)]
  · rw [hvr, Ctx.vr_setVr_ne hne]
  · exact retire_pc_congr (by rw [← hu]; rfl) (by rw [← hu]; rfl) (by rw [← hu]; rfl)
  · exact (retire_ctx_pocket u).trans (by rw [← hu]; rfl)
  · exact (retire_ctx_x u).trans (by rw [← hu]; rfl)
  · rw [retire_mem, ← hu]
    rfl

/-- What the Commons and its purses are is not a context's. -/
theorem commonsWord_mapCtx (s : State) (f : Ctx → Ctx) (k : Nat) (p : Priv) (va : Word) (al n : Nat) :
    commonsWord (s.mapCtx f) k p va al n = commonsWord s k p va al n := by
  have hok : commonsOk (s.mapCtx f) = commonsOk s := rfl
  rw [commonsWord, commonsWord, hok]

theorem purseAt_mapCtx (s : State) (f : Ctx → Ctx) (pr : Priv) (pbase : Word) (n : Nat) :
    purseAt (s.mapCtx f) pr pbase n = purseAt s pr pbase n := by
  have hcount (a : Nat) : inCounterBlock (s.mapCtx f) a = inCounterBlock s a := inCounterBlock_congr rfl a
  have hpart : (s.mapCtx f).pidx = s.pidx := rfl
  unfold purseAt
  rw [hpart]
  simp only [commonsWord_mapCtx, hcount, State.mapCtx_mem]

/-- What `cpyvs` leaves: its writes made in order, and its purse withdrawn (R281). -/
theorem cpyvs_completes {w : BitVec 2} {rs2 rs1 : XReg} {vs : VReg5} {s : State} {a : Nat} (hr : Ready (.cpyvs w rs2 rs1 vs) s)
    (hc : s.Calm) (hwf : s.MemWf) (hq : s.core.copies = []) (hfl : s.flights = [])
    (hreg : copyRegBad s.ctx vs (copyBytes w) s.ctx.u.vl.toNat = none) (hfull : (s.ctx.vr vs).st = .full)
    (hpurse : purseAt s (dataPriv s) s.ctx.u.pbase ((s.x rs2).extractLsb' 0 5).toNat = some a)
    (hquiet : (BitVec.ofNat 64 (getLe s.mem a 8) : Word).getLsbD 34 = false) {to_ : Nat → Word}
    (hto : ∀ k : Nat, s.x rs1 + BitVec.ofInt 64 (k * (copyBytes w : Int)) = to_ k)
    (hplaces : (stCode s.ctx.u = 2 ∧ ∀ k : Nat, k < s.ctx.u.vl.toNat →
        (to_ k).toNat % copyBytes w = 0 ∧ (to_ k).toNat + copyBytes w ≤ s.ctx.pocb)
      ∨ (stCode s.ctx.u = 0 ∧ ∀ k : Nat, k < s.ctx.u.vl.toNat → PlainAccess s (to_ k) (copyBytes w))) {moved : Bytes → Bytes}
    (hmoved : moved = movedBytes (fun k => natBytes (copyBytes w) (s.ctx.raw vs k)) to_ s.ctx.u.vl.toNat) :
    ∃ t, exec (.cpyvs w rs2 rs1 vs) s = .next t ∧ t.core.copies = []
      ∧ t.mem = setLe (if stCode s.ctx.u = 2 then s.mem else moved s.mem) a 8
          (arrived (BitVec.ofNat 64 (getLe s.mem a 8)) (s.ctx.u.vl.toNat * copyBytes w) false).toNat
      ∧ t.ctx.pocket = (if stCode s.ctx.u = 2 then moved s.ctx.pocket else s.ctx.pocket)
      ∧ t.ctx.pc = (retire s).ctx.pc ∧ t.ctx.v = s.ctx.v ∧ t.ctx.x = s.ctx.x := by
  subst hmoved
  obtain ⟨⟨hlag, hviq, hcable, hsrq, hesc, hbar, -⟩, -⟩ := id hr
  generalize hp : viqPush (.cpyvs w rs2 rs1 vs) [] s = p
  have has : strideAddrs (viqEntry (.cpyvs w rs2 rs1 vs) [] s).a (copyBytes w) (viqEntry (.cpyvs w rs2 rs1 vs) [] s).csr.vl.toNat =
      (upFrom 0 s.ctx.u.vl.toNat).map to_ := by
    rw [strideAddrs_eq]
    exact List.map_congr_left fun k _ => hto k
  have hpurse' : purseAt p (dataPriv s) s.ctx.u.pbase ((s.x rs2).extractLsb' 0 5).toNat = some a := by
    rw [← hp, viqPush, purseAt_mapCtx]
    exact hpurse
  obtain ⟨o, r, t, hrun, hr', hleft⟩ := runCpyvs_calm (w := w) (vs := vs) (en := viqEntry (.cpyvs w rs2 rs1 vs) [] s) (s := p)
    (to_ := to_) (a := a)
    (by rw [← hp]; exact hc.mapCtx _) (by rw [← hp]; exact hesc) (by rw [← hp]; exact hlag) (by rw [← hp]; exact hq)
    (by rw [← hp]; exact hfl) has (by rw [← hp]; exact hreg) (by rw [← hp]; exact hfull) hpurse'
    (space_lt_of_cases hplaces) (by rw [← hp]; exact placeOk_of_cases hplaces)
  have hpctx : p.ctx.viq = [viqEntry (.cpyvs w rs2 rs1 vs) [] s] ∧ p.ctx.cable = [] ∧ p.ctx.srq = [] ∧ p.ctx.barrier = none
      ∧ p.heldStores = [] := by
    subst hp
    refine ⟨?_, hcable, hsrq, hbar, hc.noHeld⟩
    rw [viqPush_viq, hviq]
    rfl
  have htctx : t.ctx = { p.ctx with
      pocket := if stCode s.ctx.u = 2 then movedBytes (fun k => natBytes (copyBytes w) (s.ctx.raw vs k)) to_ s.ctx.u.vl.toNat s.ctx.pocket
        else s.ctx.pocket
      overdraft := t.ctx.overdraft } := by
    rw [hleft.ctx, hr'.ctx_eq, ← hp]
    rfl
  have halone : Alone (viqEntry (.cpyvs w rs2 rs1 vs) [] s) t := by
    obtain ⟨h1, h2, h3, h4, -⟩ := hpctx
    refine ⟨?_, ?_, ?_, ?_, hleft.held.trans hr'.calm.noHeld⟩ <;> rw [htctx]
    exacts [h1, h2, h3, h4]
  have hrmem : r.mem = if stCode s.ctx.u = 2 then s.mem else
      movedBytes (fun k => natBytes (copyBytes w) (s.ctx.raw vs k)) to_ s.ctx.u.vl.toNat s.mem := by
    rw [hr'.mem_eq, ← hp]
    rfl
  have hpurseAt : getLe r.mem a 8 = getLe s.mem a 8 := by
    rw [hrmem]
    split
    · rfl
    · next hsp =>
      refine getLe_movedBytes hwf fun j hj => ?_
      obtain ⟨h2, -⟩ | ⟨-, hplain⟩ := hplaces
      · exact absurd h2 hsp
      · rw [natBytes_length]
        exact ((hplain j hj).below (copyBytes_pos w)).trans (purseAt_place hpurse).1
  have htmem := hleft.mem
  rw [hpurseAt, hrmem] at htmem
  refine ⟨_, exec_viq_alone rfl hr hc hp hrun halone, ?_, ?_, ?_, ?_, ?_, ?_⟩
  · rw [retire_core_copies]
    exact hleft.copies
  · rw [retire_mem]
    exact htmem hquiet
  · rw [retire_ctx_pocket]
    show t.ctx.pocket = _
    rw [htctx]
  · have hsame : ({ t.ctx with viq := [] } : Ctx).loops = s.ctx.loops ∧ ({ t.ctx with viq := [] } : Ctx).pc = s.ctx.pc
        ∧ ({ t.ctx with viq := [] } : Ctx).escLevel = s.ctx.escLevel := by
      rw [htctx, ← hp]
      exact ⟨rfl, rfl, rfl⟩
    exact retire_pc_congr hsame.1 hsame.2.1 hsame.2.2
  · rw [retire_ctx_v]
    show t.ctx.v = _
    rw [htctx, ← hp]
    rfl
  · rw [retire_ctx_x]
    show t.ctx.x = _
    rw [htctx, ← hp]
    rfl

end Sys2Proof.Machine
end

section
/-! SUPPORT. The elements of a tile by their index (R283, R285), and what a copy of them leaves in a register, the pocket and a mask. -/

namespace Sys2Proof.Machine

/-! ## Indices -/

/-- An element of a tile: its index, whether it is in range, its address. -/
abbrev TileElem : Type := Nat × Bool × Word

/-- Rows of n numbers in turn. -/
theorem flatMap_rows (n k o : Nat) : (upFrom 0 k).flatMap (fun b => upFrom (o + n * b) n) = upFrom o (n * k) := by
  induction k with
  | zero => simp [upFrom]
  | succ k ih =>
    have happend : upFrom o (n * k) ++ upFrom (o + n * k) n = upFrom o (n * k + n) := by
      simp only [upFrom_eq_range']
      exact List.range'_append_1
    rw [upFrom_concat, List.flatMap_append, ih, Nat.zero_add, List.flatMap_singleton, happend, Nat.mul_succ]

/-- The indices of a tile's elements are 0, 1, 2 and so on. -/
theorem tileElems_index (x : Tile) (n0 w : Nat) : (tileElems x n0 w).map Prod.fst = upFrom 0 (n0 * x.e1 * x.e2) := by
  have hrow (o : Nat) : (upFrom 0 n0).map (fun a => a + o) = upFrom o n0 := by
    simp only [upFrom_eq_range']
    simp [List.map_add_range', Nat.add_comm]
  have hplane (c : Nat) : (upFrom 0 x.e1).flatMap (fun b => upFrom (n0 * x.e1 * c + n0 * b) n0) = upFrom (n0 * x.e1 * c) (n0 * x.e1) :=
    flatMap_rows n0 x.e1 (n0 * x.e1 * c)
  have hspace := flatMap_rows (n0 * x.e1) x.e2 0
  simp only [Nat.zero_add] at hspace
  rw [← hspace]
  simp only [← hplane]
  unfold tileElems
  simp only [List.map_flatMap, List.map_map]
  refine List.flatMap_congr fun c _ => List.flatMap_congr fun b _ => ?_
  rw [← hrow (n0 * x.e1 * c + n0 * b)]
  refine List.map_congr_left fun a _ => ?_
  show a + n0 * (b + x.e1 * c) = a + (n0 * x.e1 * c + n0 * b)
  ring

/-! ## Writes of a list of elements, each at its own index -/

section
variable {σ α β : Type} {set : σ → α → σ} {get : σ → Nat → β} {idx : α → Nat} {val : α → β} {P : σ → Prop}
  (hP : ∀ s a, P s → P (set s a)) (hset : ∀ s a j, P s → get (set s a) j = if j = idx a then val a else get s j)
include hP hset

/-- An index that no element of the list has reads as before. -/
theorem get_foldl_out (es : List α) {s : σ} (h : P s) {j : Nat} (hj : ∀ e ∈ es, j ≠ idx e) : get (es.foldl set s) j = get s j := by
  induction es generalizing s with
  | nil => rfl
  | cons e es ih =>
    rw [List.foldl_cons, ih (hP s e h) fun d hd => hj d (List.mem_cons_of_mem e hd), hset s e j h, if_neg (hj e List.mem_cons_self)]

/-- An element whose index no other has reads as its value. -/
theorem get_foldl_in (es : List α) (hnd : (es.map idx).Nodup) {s : σ} (h : P s) {e : α} (he : e ∈ es) :
    get (es.foldl set s) (idx e) = val e := by
  induction es generalizing s with
  | nil => cases he
  | cons d es ih =>
    obtain ⟨hout, hnd'⟩ := List.nodup_cons.1 hnd
    rw [List.foldl_cons]
    obtain rfl | htail := List.mem_cons.1 he
    · rw [get_foldl_out hP hset es (hP s e h) fun f hf heq => hout (List.mem_map.2 ⟨f, hf, heq.symm⟩), hset s e _ h, if_pos rfl]
    · exact ih hnd' (hP s d h) htail

end

/-- The bytes of a register after the elements of a tile. -/
def tileData (w : Nat) (B : TileElem → List Byte) (es : List TileElem) (d : Bytes) : Bytes :=
  es.foldl (fun d e => putRaw d (8 * w) e.1 (leNat (B e))) d

section
variable {w : Nat} {B : TileElem → List Byte} {es : List TileElem} (hB : ∀ e, (B e).length = w)
include hB

theorem rawAt_putRaw_tile (d : Bytes) (e : TileElem) (j : Nat) (h : wfBytes d = true) :
    rawAt (putRaw d (8 * w) e.1 (leNat (B e))) (8 * w) j = if j = e.1 then leNat (B e) else rawAt d (8 * w) j := by
  have hlt : leNat (B e) < 2 ^ (8 * w) := by
    calc leNat (B e) < 256 ^ (B e).length := leNat_lt (B e)
      _ = 2 ^ (8 * w) := by rw [hB, Nat.pow_mul]
  rw [rawAt_putRaw h (.inr (Nat.dvd_mul_right _ _)), Nat.mod_eq_of_lt hlt]

variable {d : Bytes} (h : wfBytes d = true)
include h

theorem rawAt_tileData_out {j : Nat} (hj : ∀ e ∈ es, j ≠ e.1) : rawAt (tileData w B es d) (8 * w) j = rawAt d (8 * w) j :=
  get_foldl_out (P := fun d => wfBytes d = true) (get := fun d j => rawAt d (8 * w) j)
    (set := fun d (e : TileElem) => putRaw d (8 * w) e.1 (leNat (B e))) (idx := fun e : TileElem => e.1) (val := fun e => leNat (B e))
    (fun _ _ hd => wfBytes_putRaw hd _ _ _)
    (fun d e j hd => rawAt_putRaw_tile hB d e j hd) es h hj

theorem rawAt_tileData_in (hnd : (es.map Prod.fst).Nodup) {e : TileElem} (he : e ∈ es) :
    rawAt (tileData w B es d) (8 * w) e.1 = leNat (B e) :=
  get_foldl_in (P := fun d => wfBytes d = true) (get := fun d j => rawAt d (8 * w) j)
    (set := fun d (e : TileElem) => putRaw d (8 * w) e.1 (leNat (B e))) (idx := fun e : TileElem => e.1) (val := fun e => leNat (B e))
    (fun _ _ hd => wfBytes_putRaw hd _ _ _)
    (fun d e j hd => rawAt_putRaw_tile hB d e j hd) es hnd h he

end

/-- A mask's bits after the elements of a tile: set where they are in range. -/
def tileBits (es : List TileElem) (b : Bytes) : Bytes := es.foldl (fun b e => setBit b e.1 e.2.1) b

theorem getBit_tileBits {es : List TileElem} {b : Bytes} (h : wfBytes b = true) (hnd : (es.map Prod.fst).Nodup) {e : TileElem}
    (he : e ∈ es) : getBit (tileBits es b) e.1 = e.2.1 :=
  get_foldl_in (P := fun b => wfBytes b = true) (get := getBit) (idx := fun e : TileElem => e.1) (val := fun e : TileElem => e.2.1)
    (set := fun b (e : TileElem) => setBit b e.1 e.2.1) (fun _ _ hb => wfBytes_setBit hb _ _)
    (fun _ _ _ hb => getBit_setBit hb _ _ _) es hnd h he

/-! ## The pocket after elements of a tile -/

/-- The pocket p after some of the n elements of a tile at `dest`: nothing outside the tile has changed, and, where no source overlaps
the tile, each of them is its value. -/
structure TilePocket (p : Bytes) (dest w n : Nat) (B : TileElem → List Byte) (clear : Prop) (done : List TileElem) (m : Bytes) : Prop where
  wf : wfBytes m = true
  out : ∀ k : Nat, (k < dest ∨ dest + n * w ≤ k) → getByte m k = getByte p k
  held : clear → ∀ e ∈ done, getBytes m (dest + e.1 * w) w = B e

section
variable {p m : Bytes} {dest w n : Nat} {B : TileElem → List Byte} {clear : Prop} {done : List TileElem}

theorem TilePocket.start (h : wfBytes p = true) : TilePocket p dest w n B clear [] p := ⟨h, fun _ _ => rfl, fun _ _ he => nomatch he⟩

/-- Elements of a tile do not overlap. -/
theorem rows_disjoint {i j : Nat} (w : Nat) (h : i ≠ j) : i * w + w ≤ j * w ∨ j * w + w ≤ i * w := by
  rcases Nat.lt_or_gt_of_ne h with hlt | hgt
  · exact .inl (by rw [← Nat.succ_mul]; exact Nat.mul_le_mul_right w hlt)
  · exact .inr (by rw [← Nat.succ_mul]; exact Nat.mul_le_mul_right w hgt)

/-- One more element, with its value where no source overlaps the tile. -/
theorem TilePocket.next (h : TilePocket p dest w n B clear done m) {e : TileElem} (hin : e.1 < n) (hnew : ∀ d ∈ done, d.1 ≠ e.1)
    {bs : List Byte} (hlen : bs.length = w) (hval : clear → bs = B e) :
    TilePocket p dest w n B clear (done ++ [e]) (setBytes m (dest + e.1 * w) bs) := by
  have hfit : e.1 * w + w ≤ n * w := by rw [← Nat.succ_mul]; exact Nat.mul_le_mul_right w hin
  refine ⟨wfBytes_setBytes h.wf _ _, fun k hk => ?_, fun hc d hd => ?_⟩
  · rw [getByte_setBytes_out h.wf _ _ _ (by omega)]
    exact h.out k hk
  · obtain hold | hlast := List.mem_append.1 hd
    · have hrows := rows_disjoint w (hnew d hold)
      rw [getBytes_congr fun x hlo hhi => getByte_setBytes_out h.wf _ _ x (by omega)]
      exact h.held hc d hold
    · obtain rfl := List.mem_singleton.1 hlast
      have hsame := getBytes_setBytes h.wf (dest + d.1 * w) bs
      rw [hlen] at hsame
      exact hsame.trans (hval hc)

/-- A source outside the tile still reads as it did. -/
theorem TilePocket.source (h : TilePocket p dest w n B clear done m) {a : Nat} (ha : a + w ≤ dest ∨ dest + n * w ≤ a) :
    getBytes m a w = getBytes p a w :=
  getBytes_congr fun x _ _ => h.out x (by omega)

end

end Sys2Proof.Machine
end

section
/-! SUPPORT. The context of a thread while a tile is copied and as it is complete (R285). -/

namespace Sys2Proof.Machine

/-- The register that a tile with DK = 1 goes to. -/
def Tile.reg (x : Tile) : VReg5 := BitVec.ofNat 5 x.dest

/-- A tile's register and mask are pending. -/
def tilePend (x : Tile) (c : Ctx) : Ctx :=
  (if x.dk then c.mapVr x.reg fun r => { r with st := .pending, landed := none } else c).setMst x.msk .pending

/-- The bytes a tile has written, in its register or in the pocket. -/
def tileMid (x : Tile) (d pk : Bytes) (c : Ctx) : Ctx :=
  { (if x.dk then c.setVr x.reg { c.vr x.reg with data := d } else c) with pocket := pk }

/-- A mask with the bits of a tile, FULL. -/
def maskDone (k : MReg3) (es : List TileElem) (c : Ctx) : Ctx :=
  if k = 0 then c else { c with m := c.m.set k.toNat ⟨.full, tileBits es c.m[k.toNat].bits⟩ }

/-- A tile complete: its register FULL, or its bytes in the pocket, and its mask. -/
def tileFull (x : Tile) (es : List TileElem) (d pk : Bytes) (c : Ctx) : Ctx :=
  maskDone x.msk es { (if x.dk then c.setVr x.reg { c.vr x.reg with st := .full, landed := none, data := d } else c) with pocket := pk }

/-! ## The mask -/

theorem foldl_setMbit (k : MReg3) (es : List TileElem) (c : Ctx) : es.foldl (fun d e => d.setMbit k e.1 e.2.1) c =
    if k = 0 then c else { c with m := c.m.set k.toNat { c.m[k.toNat] with bits := tileBits es c.m[k.toNat].bits } } := by
  by_cases hk : k = 0
  · rw [if_pos hk]
    induction es with
    | nil => rfl
    | cons e es ih => rw [List.foldl_cons, Ctx.setMbit, if_pos hk, ih]
  · rw [if_neg hk]
    induction es generalizing c with
    | nil =>
      show c = { c with m := c.m.set k.toNat c.m[k.toNat] }
      rw [Vector.set_getElem_self]
    | cons e es ih =>
      rw [List.foldl_cons, ih, Ctx.setMbit, if_neg hk]
      simp [tileBits]

/-- The bits of a tile paired with their positions are those of its elements with their indices. -/
theorem zip_bits {es : List TileElem} (h : es.map Prod.fst = upFrom 0 es.length) :
    (es.map fun e => e.2.1).zip (upFrom 0 (es.map fun e => e.2.1).length) = es.map fun e => (e.2.1, e.1) := by
  rw [List.length_map, ← h, List.zip_map']

section
variable {es : List TileElem} (h : es.map Prod.fst = upFrom 0 es.length) (k : MReg3) (c : Ctx)
include h

theorem tileDone_none : tileDone none k (es.map fun e => e.2.1) c = maskDone k es c := by
  unfold tileDone maskDone
  dsimp only
  rw [zip_bits h, List.foldl_map, foldl_setMbit]
  split
  · rfl
  · next hk =>
    rw [Ctx.setMst, if_neg hk]
    simp

theorem tileDone_some (r : VReg5) : tileDone (some r) k (es.map fun e => e.2.1) c = maskDone k es ((c.mapVr r VReg.filled).stale r) := by
  rw [← tileDone_none h]
  rfl

end

theorem maskDone_setMst (k : MReg3) (es : List TileElem) (c : Ctx) (st : RegSt) : maskDone k es (c.setMst k st) = maskDone k es c := by
  unfold maskDone Ctx.setMst
  split
  · rfl
  · simp

/-- What a mask's state is does not matter to a register or to the pocket. -/
theorem tileMid_setMst (x : Tile) (d pk : Bytes) (c : Ctx) (k : MReg3) (st : RegSt) :
    tileMid x d pk (c.setMst k st) = (tileMid x d pk c).setMst k st := by
  unfold tileMid Ctx.setMst
  split <;> split <;> rfl

theorem mapVr_setMst (r : VReg5) (f : VReg → VReg) (c : Ctx) (k : MReg3) (st : RegSt) :
    (c.setMst k st).mapVr r f = (c.mapVr r f).setMst k st := by
  unfold Ctx.setMst
  split <;> rfl

/-- What a tile's completion does to a register that is pending, and to its mask. -/
theorem tileDone_tileMid {x : Tile} {es : List TileElem} (h : es.map Prod.fst = upFrom 0 es.length) (d pk : Bytes) {c : Ctx}
    (hcable : c.cable = []) : tileDone (if x.dk then some x.reg else none) x.msk (es.map fun e => e.2.1) (tileMid x d pk (tilePend x c)) =
      tileFull x es d pk c := by
  have hstale (c : Ctx) (hc : c.cable = []) (r : VReg5) : c.stale r = c := by rw [Ctx.stale, Ctx.staleWhere, hc]; rfl
  unfold tilePend
  rw [tileMid_setMst]
  cases hdk : x.dk with
  | false =>
    simp only [Bool.false_eq_true, if_false]
    rw [tileDone_none h, maskDone_setMst]
    simp [tileFull, tileMid, hdk]
  | true =>
    simp only [if_true]
    rw [tileDone_some h, mapVr_setMst]
    have hmid : (tileMid x d pk (c.mapVr x.reg fun r => { r with st := .pending, landed := none })).mapVr x.reg VReg.filled =
        { c.setVr x.reg { c.vr x.reg with st := .full, landed := none, data := d } with pocket := pk } := by
      simp only [tileMid, hdk, if_true, Ctx.mapVr, Ctx.vr_setVr_same, Ctx.setVr_setVr]
      show { (c.setVr x.reg _).setVr x.reg (VReg.filled ((c.setVr x.reg _).vr x.reg)) with pocket := pk } = _
      rw [Ctx.vr_setVr_same, Ctx.setVr_setVr]
      rfl
    rw [hmid, hstale _ (by unfold Ctx.setMst; split <;> exact hcable), maskDone_setMst]
    simp [tileFull, hdk]

/-- One more element in the register of a tile. -/
theorem tileMid_putElem {x : Tile} (hdk : x.dk = true) (d pk : Bytes) (c : Ctx) (w i b : Nat) :
    (tileMid x d pk c).putElem x.reg w i b = tileMid x (putRaw d w i b) pk c := by
  have hput : (c.setVr x.reg { c.vr x.reg with data := d }).putElem x.reg w i b =
      c.setVr x.reg { c.vr x.reg with data := putRaw d w i b } := by
    rw [Ctx.putElem, Ctx.mapVr, Ctx.vr_setVr_same, Ctx.setVr_setVr]
  unfold tileMid
  rw [if_pos hdk, if_pos hdk]
  exact congrArg (fun c : Ctx => { c with pocket := pk }) hput

/-! ## What a complete tile shows -/

section
variable (x : Tile) (es : List TileElem) (d pk : Bytes) (c : Ctx)

theorem maskDone_eq (k : MReg3) : maskDone k es c = { c with m := (maskDone k es c).m } := by
  unfold maskDone
  split <;> rfl

/-- Beside a register, the pocket and a mask a tile changes nothing. -/
theorem tileFull_eq : tileFull x es d pk c =
    { c with v := (tileFull x es d pk c).v, pocket := pk, m := (tileFull x es d pk c).m } := by
  unfold tileFull
  rw [maskDone_eq]
  split <;> rfl

theorem tileFull_v : (tileFull x es d pk c).v =
    if x.dk then (c.setVr x.reg { c.vr x.reg with st := .full, landed := none, data := d }).v else c.v := by
  unfold tileFull
  rw [maskDone_eq]
  split <;> rfl

theorem tileFull_m : (tileFull x es d pk c).m =
    if x.msk = 0 then c.m else c.m.set x.msk.toNat ⟨.full, tileBits es c.m[x.msk.toNat].bits⟩ := by
  unfold tileFull maskDone
  split <;> split <;> rfl

end

end Sys2Proof.Machine
end

section
/-! SUPPORT. A tile's copy on a calm chip (R283, R285): its issue, and the elements it writes. -/

namespace Sys2Proof.Machine

/-! ## The elements -/

/-- Where element i of a tile goes. -/
def tileDst (x : Tile) (w i : Nat) : CopyDst := if x.dk then .reg x.reg i else .mem (.pocket (x.dest + i * w))

/-- An element of a tile as the engine copies it: from the pocket in range, 0 out of range. -/
def tileElem (x : Tile) (w : Nat) (e : TileElem) : CopyElem where
  src := if e.2.1 then .mem (.pocket e.2.2.toNat) else .zero
  dst := tileDst x w e.1
  addr := e.2.2

/-- The elements in the order the engine has them: those in range first. -/
def tileOrder (es : List TileElem) : List TileElem := (es.filter fun e => e.2.1) ++ es.filter fun e => !e.2.1

theorem tileOrder_perm (es : List TileElem) : (tileOrder es).Perm es := List.filter_append_perm _ _

/-- The value of an element. -/
def tileValue (p : Bytes) (w : Nat) (e : TileElem) : List Byte := if e.2.1 then getBytes p e.2.2.toNat w else List.replicate w 0

theorem tileValue_length (p : Bytes) (w : Nat) (e : TileElem) : (tileValue p w e).length = w := by
  unfold tileValue
  split
  · exact getBytes_length _ _ _
  · exact List.length_replicate

theorem bytesIn_tileElem (x : Tile) (m p : Bytes) (w : Nat) (e : TileElem) : (tileElem x w e).src.bytesIn m p w = tileValue p w e := by
  unfold tileElem tileValue
  dsimp only
  split <;> rfl

theorem tileElem_here (x : Tile) (w : Nat) (e : TileElem) : (tileElem x w e).src.Here ∧ (tileElem x w e).dst.Here := by
  unfold tileElem tileDst
  constructor
  · dsimp only
    split <;> trivial
  · dsimp only
    split <;> trivial

/-- The element that comes next of a list of elements made from another. -/
theorem exists_of_prefix_map {α : Type} {E : α → CopyElem} {is : List α} {l : List CopyElem} {e : CopyElem}
    (h : l ++ [e] <+: is.map E) : ∃ x, e = E x ∧ is.take (l.length + 1) = is.take l.length ++ [x] ∧ is.take l.length ++ [x] <+: is := by
  obtain ⟨r, hr⟩ := h
  have hlt : l.length < is.length := by
    have hlen := congrArg List.length hr
    simp at hlen
    omega
  have htake : is.take (l.length + 1) = is.take l.length ++ [is[l.length]] := List.take_succ_eq_append_getElem hlt
  refine ⟨is[l.length], ?_, htake, htake ▸ List.take_prefix _ _⟩
  have hget : (is.map E)[l.length]? = some e := by rw [← hr]; simp
  rw [List.getElem?_map, List.getElem?_eq_getElem hlt] at hget
  exact (Option.some.inj hget).symm

/-! ## The issue (R285, R276) -/

/-- The copy of a tile. -/
def tileOp (s : State) (pr : Priv) (x : Tile) (w n0 a : Nat) : CopyOp :=
  copyOp s pr (.tile (if x.dk then some x.reg else none) x.msk (n0 * x.e1 * x.e2) ((tileElems x n0 w).map fun e => e.2.1)) w
    ((tileOrder (tileElems x n0 w)).map (tileElem x w)) (some a) (n0 * x.e1 * x.e2 * w)

/-- A tile whose checks pass becomes a copy of its elements, its register and its mask pending. -/
theorem runs_tileIssue {s : State} {pr : Priv} {word : Word} {tv : Word → Word} {u : UCsr} {pu w n0 a : Nat} {x : Tile} (hc : s.Calm)
    (hw : 0 < w) (hspace : ldCode u = 2) (hpurse : purseAt s pr u.pbase pu = some a)
    (hfit : x.dk = false → x.dest + n0 * x.e1 * x.e2 * w ≤ s.ctx.pocb)
    (hin : ∀ e ∈ tileElems x n0 w, e.2.1 = true → e.2.2.toNat % w = 0 ∧ e.2.2.toNat + w ≤ s.ctx.pocb) :
    Runs (tileIssue pr word tv u pu w n0 x) s () (copyEnter (s.mapCtx (tilePend x)) (tileOp (s.mapCtx (tilePend x)) pr x w n0 a)) := by
  have hplaces : Runs (copyPlaces pr word w (ldCode u) 0 true false (((tileElems x n0 w).filter fun e => e.2.1).map fun e => e.2.2) [])
      s ((((tileElems x n0 w).filter fun e => e.2.1).map fun e => e.2.2).map (placeIn 2), []) s := by
    rw [hspace]
    refine runs_copyPlaces hc.partsCalm hw (fun _ => by decide) nofun (fun y hy => ?_) nofun
    obtain ⟨e, he, rfl⟩ := List.mem_map.1 hy
    obtain ⟨hmem, hlive⟩ := List.mem_filter.1 he
    obtain ⟨hal, hlim⟩ := hin e hmem hlive
    exact ⟨hal, .inl ⟨rfl, hlim⟩⟩
  have hlive : (((tileElems x n0 w).filter fun e => e.2.1).zip ((((tileElems x n0 w).filter fun e => e.2.1).map fun e => e.2.2).map
      (placeIn 2))).map (fun q : TileElem × Loc => (⟨.mem q.2, tileDst x w q.1.1, q.1.2.2⟩ : CopyElem)) =
        ((tileElems x n0 w).filter fun e => e.2.1).map (tileElem x w) := by
    have hid (l : List TileElem) : l = l.map id := (List.map_id l).symm
    conv_lhs => rw [List.map_map]; arg 2; arg 1; rw [hid (List.filter _ _)]
    rw [List.zip_map', List.map_map]
    refine List.map_congr_left fun e he => ?_
    obtain ⟨-, hl⟩ := List.mem_filter.1 he
    simp [tileElem, hl, placeIn]
  have hdead : ((tileElems x n0 w).filter fun e => !e.2.1).map (fun e => (⟨.zero, tileDst x w e.1, e.2.2⟩ : CopyElem)) =
      ((tileElems x n0 w).filter fun e => !e.2.1).map (tileElem x w) := by
    refine List.map_congr_left fun e he => ?_
    obtain ⟨-, hl⟩ := List.mem_filter.1 he
    have hout : e.2.1 = false := by simpa using hl
    simp [tileElem, hout]
  refine (runs_purseOf_of_no_held hc.noEcc hc.noHeld hpurse tv).bind (Runs.ite_neg (by rw [hspace]; decide) (Runs.get_bind
    (Runs.ite_neg (fun ⟨hdk, hlim⟩ => Nat.not_lt.2 (hfit hdk) hlim) (hplaces.bind ?_))))
  rw [tileOp, tileOrder, List.map_append, ← hlive, ← hdead]
  dsimp only
  exact Runs.modify _ _

/-! ## The elements written -/

/-- No source of a tile in range overlaps what the tile writes of the pocket. -/
def Tile.Apart (x : Tile) (w n : Nat) (es : List TileElem) : Prop :=
  ∀ e ∈ es, e.2.1 = true → e.2.2.toNat + w ≤ x.dest ∨ x.dest + n * w ≤ e.2.2.toNat

/-- What a tile has written when some of its elements are done: a register's bytes, or the pocket's. -/
def TileWritten (x : Tile) (w n : Nat) (es : List TileElem) (d0 p0 : Bytes) (done : List TileElem) (d pk : Bytes) : Prop :=
  (x.dk = true → pk = p0 ∧ d = tileData w (tileValue p0 w) done d0)
    ∧ (x.dk = false → wfBytes p0 = true → TilePocket p0 x.dest w n (tileValue p0 w) (x.Apart w n es) done pk)

/-- What the elements that are done have made of a chip. -/
def TileAt (s : State) (x : Tile) (w n : Nat) (es : List TileElem) (done : List TileElem) (t : State) : Prop :=
  ∃ d pk, Worked s t (tileMid x d pk s.ctx) s.mem ∧ TileWritten x w n es (s.ctx.vr x.reg).data s.ctx.pocket done d pk

theorem tileMid_start (x : Tile) (c : Ctx) : tileMid x (c.vr x.reg).data c.pocket c = c := by
  have hsame : c.setVr x.reg (c.vr x.reg) = c := by simp [Ctx.setVr, Ctx.vr]
  unfold tileMid
  split
  · exact congrArg (fun d : Ctx => { d with pocket := c.pocket }) hsame
  · rfl

section
variable {s : State} {x : Tile} {w n : Nat} {es : List TileElem}

theorem TileAt.start {t : State} (ht : Worked s t s.ctx s.mem) : TileAt s x w n es [] t := by
  refine ⟨(s.ctx.vr x.reg).data, s.ctx.pocket, ?_, fun _ => ⟨rfl, rfl⟩, fun _ hwf => TilePocket.start hwf⟩
  rwa [tileMid_start]

/-- One more element of a tile: its source is the pocket as it was, or as it is. -/
theorem TileAt.next {done : List TileElem} {t : State} (h : TileAt s x w n es done t) {o : CopyOp} (ho : o.width = w) {e : TileElem}
    (he : e ∈ es) (hin : e.1 < n) (hnew : ∀ d ∈ done, d.1 ≠ e.1) {bs : List Byte}
    (hbs : bs = tileValue s.ctx.pocket w e ∨ bs = tileValue t.ctx.pocket w e) (core m : Nat) :
    TileAt s x w n es (done ++ [e]) (copyPut o core false bs { t with draws := m } (tileElem x w e)) := by
  obtain ⟨d, pk, hwork, hreg, hpocket⟩ := h
  have hpk : t.ctx.pocket = pk := by rw [hwork.ctx_eq]; rfl
  rw [hpk] at hbs
  cases hdk : x.dk with
  | true =>
    obtain ⟨rfl, rfl⟩ := hreg hdk
    have hval : bs = tileValue s.ctx.pocket w e := by rcases hbs with hb | hb <;> exact hb
    refine ⟨tileData w (tileValue s.ctx.pocket w) (done ++ [e]) (s.ctx.vr x.reg).data, s.ctx.pocket, ?_, fun _ => ⟨rfl, rfl⟩,
      fun hf => absurd (hf.symm.trans hdk) Bool.false_ne_true⟩
    have hput := (hwork.draw m).copyPut_reg o core bs (e := tileElem x w e) (v := x.reg) (i := e.1) (by simp [tileElem, tileDst, hdk])
    have hdata : putRaw (tileData w (tileValue s.ctx.pocket w) done (s.ctx.vr x.reg).data) (8 * w) e.1 (leNat bs) =
        tileData w (tileValue s.ctx.pocket w) (done ++ [e]) (s.ctx.vr x.reg).data := by
      rw [tileData, tileData, List.foldl_append, hval]
      rfl
    rwa [ho, tileMid_putElem hdk, hdata] at hput
  | false =>
    refine ⟨d, setBytes pk (x.dest + e.1 * w) bs, ?_, ⟨fun hf => absurd (hdk.symm.trans hf) Bool.false_ne_true, fun _ hwf => ?_⟩⟩
    · have hput := (hwork.draw m).copyPut_pocket o core bs (e := tileElem x w e) (p := x.dest + e.1 * w)
        (by simp [tileElem, tileDst, hdk])
      exact hput
    · have hp := hpocket hdk hwf
      refine hp.next hin hnew ?_ fun hapart => ?_
      · rcases hbs with rfl | rfl <;> exact tileValue_length _ _ _
      · rcases hbs with rfl | rfl
        · rfl
        · unfold tileValue
          split
          · next hl => exact hp.source (hapart e he hl)
          · rfl

end

/-- An element that comes after others of a tile is in the tile, at an index of its own. -/
theorem tileOrder_next {es : List TileElem} {n : Nat} (hidx : es.map Prod.fst = upFrom 0 n) {done : List TileElem} {e : TileElem}
    (h : done ++ [e] <+: tileOrder es) : e ∈ es ∧ e.1 < n ∧ ∀ d ∈ done, d.1 ≠ e.1 := by
  have hmem : e ∈ es := (tileOrder_perm es).mem_iff.1 (h.subset (by simp))
  have hnodup : ((tileOrder es).map Prod.fst).Nodup := by
    rw [((tileOrder_perm es).map Prod.fst).nodup_iff, hidx]
    exact (upFrom_pairwise 0 n).imp fun h => Nat.ne_of_lt h
  have hlt : e.1 ∈ upFrom 0 n := hidx ▸ List.mem_map_of_mem hmem
  have hdone := (h.sublist.map Prod.fst).nodup hnodup
  rw [List.map_append, List.nodup_append] at hdone
  obtain ⟨-, -, hne⟩ := hdone
  exact ⟨hmem, by simpa using (mem_upFrom.1 hlt).2, fun d hd => hne _ (List.mem_map_of_mem hd) _ (by simp)⟩

/-- A tile that is pending has written nothing yet. -/
theorem tilePend_keeps (x : Tile) (c : Ctx) :
    (tilePend x c).pocket = c.pocket ∧ ((tilePend x c).vr x.reg).data = (c.vr x.reg).data := by
  have hset (d : Ctx) : (d.setMst x.msk .pending).pocket = d.pocket ∧ (d.setMst x.msk .pending).vr x.reg = d.vr x.reg := by
    unfold Ctx.setMst
    split <;> exact ⟨rfl, rfl⟩
  unfold tilePend
  obtain ⟨hp, hv⟩ := hset (if x.dk then c.mapVr x.reg fun r => { r with st := .pending, landed := none } else c)
  rw [hp, hv]
  split
  · exact ⟨rfl, by rw [Ctx.mapVr, Ctx.vr_setVr_same]⟩
  · exact ⟨rfl, rfl⟩

/-- R277, R285: a tile's copy that enters an empty queue on a calm chip writes its elements, fills its register and its mask, and leaves
the queue with its purse withdrawn. -/
theorem copyEnter_tile_calm {s : State} {x : Tile} {pr : Priv} {w n0 a : Nat} (hc : s.Calm) (hesc : s.ctx.esc = none)
    (hlag : s.lag = false) (hq : s.core.copies = []) (hfl : s.flights = []) (hcable : s.ctx.cable = [])
    (hcount : inCounterBlock s a = false) :
    ∃ o r d pk, Worked (s.setCopies [o]) r (tileFull x (tileElems x n0 w) d pk s.ctx) s.mem
      ∧ TileWritten x w (n0 * x.e1 * x.e2) (tileElems x n0 w) (s.ctx.vr x.reg).data s.ctx.pocket (tileOrder (tileElems x n0 w)) d pk
      ∧ Left r (copyEnter (s.mapCtx (tilePend x)) (tileOp (s.mapCtx (tilePend x)) pr x w n0 a)) [] a (n0 * x.e1 * x.e2 * w) := by
  generalize hes : tileElems x n0 w = es
  generalize hn : n0 * x.e1 * x.e2 = n
  have hidx : es.map Prod.fst = upFrom 0 n := by rw [← hes, ← hn]; exact tileElems_index x n0 w
  have hlen : es.length = n := by rw [← upFrom_length 0 n, ← hidx, List.length_map]
  generalize hsp : s.mapCtx (tilePend x) = sp
  have hspctx : sp.ctx = tilePend x s.ctx := by rw [← hsp]; rfl
  generalize ho : tileOp sp pr x w n0 a = o
  have hform : o.form = .tile (if x.dk then some x.reg else none) x.msk n (es.map fun e => e.2.1) := by rw [← ho, ← hn, ← hes]; rfl
  have helems : o.elems = (tileOrder es).map (tileElem x w) := by rw [← ho, ← hes]; rfl
  have hwidth : o.width = w := by rw [← ho]; rfl
  have hspc : sp.Calm := by rw [← hsp]; exact hc.mapCtx _
  generalize hs0 : sp.setCopies [{ o with id := sp.draws }] = s0
  have hs0ctx : s0.ctx = tilePend x s.ctx := by rw [← hs0]; exact hspctx
  have hentered : Worked s0 (entered sp o) s0.ctx s0.mem := by
    rw [← hs0]
    exact worked_entered hspc o
  have hflights : s0.flights = [] := by rw [← hs0, ← hsp]; exact hfl
  have hmem (e : CopyElem) (he : e ∈ o.elems) : e.src.Here ∧ e.dst.Here := by
    rw [helems] at he
    obtain ⟨d, -, rfl⟩ := List.mem_map.1 he
    exact tileElem_here x w d
  have hclear (done : List TileElem) (t : State) (ht : TileAt s0 x w n es done t) : EngineClear t := by
    obtain ⟨d, pk, hwork, -⟩ := ht
    exact hwork.engineClear hflights
  have hwaits : waiters (entered sp o) = [] := by
    obtain ⟨-, -, -, -, -, hwait⟩ := hentered.calm
    exact hwait
  obtain ⟨r, hr, hend⟩ := copyEnd_of_here (s := entered sp o) (o := { o with id := sp.draws })
    (I := fun l t => TileAt s0 x w n es ((tileOrder es).take l.length) t) (hentered.engineClear hflights)
    (fun e he => (hmem e he).1) (fun e he => (hmem e he).2) (fun l t ht => hclear _ t ht)
    (fun l c hpre t ht m bs hbs => by
      obtain ⟨e, rfl, htake, hnext⟩ := exists_of_prefix_map (show l ++ [c] <+: _ from helems ▸ hpre)
      obtain ⟨he, hin, hnew⟩ := tileOrder_next hidx hnext
      rw [List.length_append, List.length_singleton, htake]
      have hval : bs = tileValue s0.ctx.pocket w e ∨ bs = tileValue t.ctx.pocket w e := by
        rw [← bytesIn_tileElem x (entered sp o).mem, ← bytesIn_tileElem x t.mem, ← hwidth, ← hentered.ctx_eq]
        exact hwidth ▸ hbs
      exact ht.next (o := { o with id := sp.draws }) hwidth he hin hnew hval _ _)
    hwaits hentered.calm.partsStill (by rw [← ho]; rfl) (by rw [← ho]; rfl) (TileAt.start hentered) 0
    (tileDone (if x.dk then some x.reg else none) x.msk (es.map fun e => e.2.1))
  have hall : (tileOrder es).take o.elems.length = tileOrder es := by rw [helems, List.length_map, List.take_length]
  simp only [hall] at hr
  obtain ⟨d, pk, hwork, hwritten⟩ := hr
  have hdone := hwork.mapCtx (tileDone (if x.dk then some x.reg else none) x.msk (es.map fun e => e.2.1))
  rw [hs0ctx, tileDone_tileMid (by rw [hlen]; exact hidx) d pk hcable] at hdone
  have hbase : Worked (s.setCopies [{ o with id := sp.draws }])
      (r.mapCtx (tileDone (if x.dk then some x.reg else none) x.msk (es.map fun e => e.2.1))) (tileFull x es d pk s.ctx) s.mem := by
    refine ⟨hdone.eq.trans ?_, hdone.calm⟩
    rw [← hs0, ← hsp]
    rfl
  refine ⟨{ o with id := sp.draws }, _, d, pk, hbase, ?_, ?_⟩
  · obtain ⟨hpocket, hdata⟩ := tilePend_keeps x s.ctx
    rw [hs0ctx, hpocket, hdata] at hwritten
    exact hwritten
  · rw [copyEnter_tile (s := sp) (o := o) (by rw [← hsp]; exact hlag) (by rw [← hsp]; exact hq) hform, hend]
    generalize r.mapCtx _ = r' at hbase
    have hcopies : r'.core.copies.eraseIdx 0 = [] := by rw [hbase.copies_eq]; rfl
    have hleft := copyLeave_left (s := r') (o := { o with id := sp.draws }) hbase.calm
      (by rw [hbase.ctx_eq, tileFull_eq]; exact hesc) (by simp [hform]) (a := a) (by rw [← ho]; rfl)
      (by rw [inCounterBlock_congr (s := s) (t := r') (by rw [hbase.eq]; rfl)]; exact hcount) 0
    rw [hcopies] at hleft
    have hbytes : o.bytes = n * w := by rw [← ho, ← hn]; rfl
    rw [← hbytes]
    exact hleft

end Sys2Proof.Machine
end

section
/-! SUPPORT. `ctile` on a calm chip, from the commit to the retired state (R283 to R285). -/

namespace Sys2Proof.Machine

/-! ## The records and the checks at commit -/

/-- A tile runs past dimension 0. -/
def Tile.trims (x : Tile) (vl : Nat) : Bool := decide (0 ≤ x.c0) && decide ((x.dim0 : Int) < x.c0 + ((min x.e0 vl : Nat) : Int))

/-- The extent of a tile in dimension 0, trimmed. -/
def Tile.row (x : Tile) (vl : Nat) : Nat := if x.trims vl then (x.dim0 - x.c0).toNat else min x.e0 vl

theorem Tile.row_le (x : Tile) (vl : Nat) : x.row vl ≤ min x.e0 vl := by
  unfold Tile.row Tile.trims
  split
  · next h =>
    simp only [Bool.and_eq_true, decide_eq_true_eq] at h
    omega
  · exact Nat.le_refl _

/-- The entry's own VL bounds a tile as its commit did. -/
theorem Tile.min_row (x : Tile) (u : UCsr) :
    min x.e0 (tileTrim (x.row u.vl.toNat) (x.trims u.vl.toNat) u).vl.toNat = x.row u.vl.toNat := by
  have hle := x.row_le u.vl.toNat
  have hvl := u.vl.isLt
  unfold tileTrim
  split
  · show min x.e0 (BitVec.ofNat 64 (x.row u.vl.toNat)).toNat = _
    rw [BitVec.toNat_ofNat, Nat.mod_eq_of_lt (by omega)]
    omega
  · next h =>
    rw [Tile.row, if_neg h]

section
variable {s : State}

theorem runs_tileCommit {x : Tile} {bs : List Byte} {word desc req : Word} {w vl : Nat} (hdesc : descBad bs w = false)
    (hreq : reqBad bs w = false) (htag : ((etyOf x.tag).map ETy.bits).getD 0 = 8 * w) (hrow : 1 ≤ min x.e0 vl → x.c0 < x.dim0)
    (hn : x.row vl * x.e1 * x.e2 ≤ 2 ^ 24) : Runs (tileCommit x bs word desc req w vl) s (x.row vl, x.trims vl) s := by
  refine Runs.ite_neg (by simp [hdesc]) (Runs.ite_neg (by simp [hreq]) (Runs.ite_neg (not_not.2 htag)
    (Runs.ite_neg (fun ⟨h1, hle⟩ => absurd (hrow h1) (not_lt.2 hle)) (Runs.ite_neg (Nat.not_lt.2 hn) (Runs.pure _ s)))))

theorem flatten_natBytes (ws : List Word) : (ws.map fun w => natBytes 8 w.toNat).flatten = wordBytes ws := rfl

variable (hq : Quiet s)
include hq

/-- R283: a request in plain memory is read as it stands. -/
theorem runs_readReq {a : Word} (h : PlainAccess s a 32) : Runs (readReq a) s (getBytes s.mem a.toNat 32) s := by
  have hwords := h.words (n := 4) (by decide) (by decide) (by obtain ⟨-, -, -, hok, -⟩ := h; exact hok)
  obtain ⟨hpriv, hmprv, hal, -, -⟩ := h
  refine Runs.ite_neg (not_not.2 hal) ((runs_loadWords hq hpriv hmprv hwords).bind ?_)
  rw [flatten_natBytes, wordBytes_wordsAt]
  exact Runs.pure _ s

/-- A chip whose strand has just cached a descriptor. -/
def descRead (s : State) (a : Word) (d : List Byte) : State := State.setCtx { s with draws := s.draws + 1 } { s.ctx with dcache := [(a, d)] }

/-- R284: a descriptor in plain memory is read as it stands, into an empty cache. -/
theorem runs_readDesc {a : Word} (h : PlainAccess s a 64) (hcache : s.ctx.dcache = []) :
    Runs (readDesc a) s (getBytes s.mem a.toNat 64) (descRead s a (getBytes s.mem a.toNat 64)) := by
  have hwords := h.words (n := 8) (by decide) (by decide) (by obtain ⟨-, -, -, hok, -⟩ := h; exact hok)
  obtain ⟨hpriv, hmprv, hal, -, -⟩ := h
  refine Runs.get_bind ?_
  rw [hcache]
  refine Runs.ite_neg (not_not.2 hal) ((runs_loadWords hq hpriv hmprv hwords).bind ?_)
  rw [flatten_natBytes, wordBytes_wordsAt]
  have hdraw : Runs drawM s s.draws { s with draws := s.draws + 1 } := rfl
  refine hdraw.bind (Runs.modify_bind ?_)
  have hempty : (State.mapCtx { s with draws := s.draws + 1 } fun c =>
      let old := if 16 ≤ c.dcache.length then c.dcache.eraseIdx (Config.pick s.draws % 16) else c.dcache
      { c with dcache := (a, getBytes s.mem a.toNat 64) :: old }) = descRead s a (getBytes s.mem a.toNat 64) := by
    show State.setCtx _ { s.ctx with dcache := _ :: (if 16 ≤ s.ctx.dcache.length then _ else s.ctx.dcache) } = _
    rw [hcache]
    rfl
  rw [hempty]
  exact Runs.pure _ _

/-- R285: a ready `ctile` whose records pass the commit's checks goes to the VIQ or is direct. -/
theorem exec_ctile_of_ready {w : BitVec 2} {rs2 rs1 : XReg} {p : BitVec 5} (hr : Ready (.ctile w rs2 rs1 p) s)
    (hprov : s.ctx.vlProv = none) (hcache : s.ctx.dcache = []) (hdescAt : PlainAccess s (s.x rs1) 64)
    (hreqAt : PlainAccess s (s.x rs2) 32) {bs : List Byte}
    (hbs : bs = getBytes s.mem (s.x rs1).toNat 64 ++ getBytes s.mem (s.x rs2).toNat 32) {x : Tile} (hx : x = tileOfRec bs)
    (hdesc : descBad bs (copyBytes w) = false) (hreq : reqBad bs (copyBytes w) = false)
    (htag : ((etyOf x.tag).map ETy.bits).getD 0 = 8 * copyBytes w)
    (hrow : 1 ≤ min x.e0 s.ctx.u.vl.toNat → x.c0 < x.dim0)
    (hn : x.row s.ctx.u.vl.toNat * x.e1 * x.e2 ≤ 2 ^ 24) {t : State}
    (ht : t = descRead s (s.x rs1) (getBytes s.mem (s.x rs1).toNat 64)) :
    exec (.ctile w rs2 rs1 p) s =
      if x.dk then tileToViq (.ctile w rs2 rs1 p) bs (x.row s.ctx.u.vl.toNat) (x.trims s.ctx.u.vl.toNat) t
      else runM (tileDirect (instrWord (.ctile w rs2 rs1 p)) x (copyBytes w) p.toNat (x.row s.ctx.u.vl.toNat)
        (x.trims s.ctx.u.vl.toNat)) t := by
  subst hx
  have hopen : s.fenced 25 = false := by
    obtain ⟨-, -, -, -, hfenced⟩ := hr
    exact hfenced
  have hviq := hq.viq
  have hcommit := runs_tileCommit (s := t) (word := instrWord (.ctile w rs2 rs1 p)) (desc := s.x rs1) (req := s.x rs2) hdesc hreq htag hrow hn
  have hdescRuns := runs_readDesc hq hdescAt hcache
  rw [← ht] at hdescRuns
  show execCtile w rs2 rs1 p s = _
  rw [execCtile, guarded_of_ready hr]
  subst hbs
  dsimp only
  generalize hm : ExceptT.run (m := StateM State) _ s = res
  have hruns : res = (Except.ok (getBytes s.mem (s.x rs1).toNat 64 ++ getBytes s.mem (s.x rs2).toNat 32, _, _), t) :=
    hm.symm.trans (show _ from (runs_readReq hq hreqAt).bind (Runs.ite_neg (by simp [hviq]) (Runs.ite_neg (by simp [hprov])
      (Runs.ite_neg (by simp [hopen]) (hdescRuns.bind (hcommit.bind (Runs.pure _ t)))))))
  rw [hruns]

end

end Sys2Proof.Machine
end

section
/-! SUPPORT. What a `ctile` leaves of a calm chip, by either way it is issued (R271, R285). -/

namespace Sys2Proof.Machine

/-! ## The outcome -/

/-- The outcome f, before it retires, of a tile of n elements es of w bytes committed in s with the extent n0: its register or the
pocket, its mask, VL, and its purse withdrawn. -/
structure TileOutcome (s f : State) (x : Tile) (w n0 : Nat) (trim : Bool) (a : Nat) (d pk : Bytes) : Prop where
  copies : f.core.copies = []
  v : f.ctx.v = (tileFull x (tileElems x n0 w) d pk s.ctx).v
  m : f.ctx.m = (tileFull x (tileElems x n0 w) d pk s.ctx).m
  pocket : f.ctx.pocket = pk
  regs : f.ctx.x = s.ctx.x
  u : f.ctx.u = tileTrim n0 trim s.ctx.u
  pc : (retire f).ctx.pc = (retire s).ctx.pc
  mem : (BitVec.ofNat 64 (getLe s.mem a 8) : Word).getLsbD 34 = false →
    f.mem = setLe s.mem a 8 (arrived (BitVec.ofNat 64 (getLe s.mem a 8)) (n0 * x.e1 * x.e2 * w) false).toNat
  written : TileWritten x w (n0 * x.e1 * x.e2) (tileElems x n0 w) (s.ctx.vr x.reg).data s.ctx.pocket (tileOrder (tileElems x n0 w)) d pk

/-- A context with what a `ctile` that is issued has changed of it: U's registers, its descriptor cache and the VIQ. -/
def issuedCtx (c : Ctx) (u : UCsr) (dc : List (Word × List Byte)) (q : List VEntry) (k : Nat) : Ctx :=
  { c with u := u, dcache := dc, viq := q, viqNext := k }

theorem tileFull_issuedCtx (x : Tile) (es : List TileElem) (d pk : Bytes) (c : Ctx) (u : UCsr) (dc : List (Word × List Byte))
    (q : List VEntry) (k : Nat) : tileFull x es d pk (issuedCtx c u dc q k) = issuedCtx (tileFull x es d pk c) u dc q k := by
  unfold tileFull maskDone issuedCtx
  split <;> split <;> rfl

/-- A chip that has issued a `ctile`: beside its context nothing that the copy meets is changed. -/
structure Issued (s q : State) (u : UCsr) (viq : List VEntry) : Prop where
  calm : q.Calm
  lag : q.lag = false
  copies : q.core.copies = []
  flights : q.flights = []
  mem : q.mem = s.mem
  pcnt : q.pcnt = s.pcnt
  purse : ∀ pr pbase n, purseAt q pr pbase n = purseAt s pr pbase n
  ctx : ∃ dc k, q.ctx = issuedCtx s.ctx u dc viq k

/-- What the copy of a tile that is issued in s leaves. -/
structure TileCopied (s t : State) (u : UCsr) (viq : List VEntry) (x : Tile) (w n0 a : Nat) (d pk : Bytes) : Prop where
  copies : t.core.copies = []
  held : t.heldStores = []
  ctx : ∃ dc k od, t.ctx = { issuedCtx (tileFull x (tileElems x n0 w) d pk s.ctx) u dc viq k with overdraft := od }
  mem : (BitVec.ofNat 64 (getLe s.mem a 8) : Word).getLsbD 34 = false →
    t.mem = setLe s.mem a 8 (arrived (BitVec.ofNat 64 (getLe s.mem a 8)) (n0 * x.e1 * x.e2 * w) false).toNat
  written : TileWritten x w (n0 * x.e1 * x.e2) (tileElems x n0 w) (s.ctx.vr x.reg).data s.ctx.pocket (tileOrder (tileElems x n0 w)) d pk

section
variable {s q : State} {x : Tile} {u : UCsr} {viq : List VEntry} {w n0 a : Nat}

/-- The copy of a tile that is issued completes at once. -/
theorem Issued.copied (hq : Issued s q u viq) (hesc : s.ctx.esc = none) (hcable : s.ctx.cable = [])
    (hcount : inCounterBlock s a = false) (pr : Priv) :
    ∃ d pk, TileCopied s (copyEnter (q.mapCtx (tilePend x)) (tileOp (q.mapCtx (tilePend x)) pr x w n0 a)) u viq x w n0 a d pk := by
  obtain ⟨dc, k, hctx⟩ := hq.ctx
  obtain ⟨o, r, d, pk, hwork, hwritten, hleft⟩ := copyEnter_tile_calm (x := x) (pr := pr) (w := w) (n0 := n0) (a := a) hq.calm
    (by rw [hctx]; exact hesc) hq.lag hq.copies hq.flights (by rw [hctx]; exact hcable)
    (by rw [inCounterBlock_congr hq.pcnt]; exact hcount)
  generalize copyEnter (q.mapCtx (tilePend x)) _ = t at hleft
  have hmem := hleft.mem
  rw [hwork.mem_eq, hq.mem] at hmem
  have htctx : t.ctx = { issuedCtx (tileFull x (tileElems x n0 w) d pk s.ctx) u dc viq k with overdraft := t.ctx.overdraft } := by
    have hleftctx := hleft.ctx
    rwa [hwork.ctx_eq, hctx, tileFull_issuedCtx] at hleftctx
  rw [hctx] at hwritten
  exact ⟨d, pk, hleft.copies, hleft.held.trans hwork.calm.noHeld, ⟨dc, k, _, htctx⟩, hmem, hwritten⟩

variable {t : State} {d pk : Bytes} (ht : TileCopied s t u viq x w n0 a d pk)
include ht

theorem TileCopied.alone {en : VEntry} (hviq : viq = [en]) (hcable : s.ctx.cable = []) (hsrq : s.ctx.srq = [])
    (hbar : s.ctx.barrier = none) : Alone en t := by
  obtain ⟨dc, k, od, hctx⟩ := ht.ctx
  rw [tileFull_eq] at hctx
  refine ⟨?_, ?_, ?_, ?_, ht.held⟩ <;> rw [hctx]
  exacts [hviq, hcable, hsrq, hbar]

/-- The end of the issue keeps what the copy has written. -/
theorem TileCopied.outcome {f : State} {trim : Bool} (hcopies : f.core.copies = t.core.copies) (hmem : f.mem = t.mem)
    (hf : f.ctx = { t.ctx with u := tileTrim n0 trim s.ctx.u, viq := [] }) : TileOutcome s f x w n0 trim a d pk := by
  obtain ⟨dc, k, od, hctx⟩ := ht.ctx
  rw [hctx] at hf
  have hfull := tileFull_eq x (tileElems x n0 w) d pk s.ctx
  refine ⟨hcopies.trans ht.copies, ?_, ?_, ?_, ?_, ?_, ?_, fun hquiet => hmem.trans (ht.mem hquiet), ht.written⟩
  · rw [hf]
    rfl
  · rw [hf]
    rfl
  · rw [hf, hfull]
    rfl
  · rw [hf, hfull]
    rfl
  · rw [hf]
  · rw [hfull] at hf
    refine retire_pc_congr ?_ ?_ ?_ <;> rw [hf] <;> rfl

end

end Sys2Proof.Machine
end

section
/-! SUPPORT. The two ways a `ctile` is issued on a calm chip (R271, R285), and what it shows when it retires. -/

namespace Sys2Proof.Machine

/-- The checks of a tile's issue pass in the pocket (R276, R285). -/
structure TilePasses (s : State) (x : Tile) (w n0 pu a : Nat) : Prop where
  reg : tileRegBad s.ctx w (n0 * x.e1 * x.e2) x = none
  free : tileWaits s.ctx x = false
  space : ldCode s.ctx.u = 2
  purse : purseAt s (dataPriv s) s.ctx.u.pbase pu = some a
  fit : x.dk = false → x.dest + n0 * x.e1 * x.e2 * w ≤ s.ctx.pocb
  inside : ∀ e ∈ tileElems x n0 w, e.2.1 = true → e.2.2.toNat % w = 0 ∧ e.2.2.toNat + w ≤ s.ctx.pocb

/-- The trim changes VL and VFFS alone. -/
theorem tileTrim_keeps (n0 : Nat) (trim : Bool) (u : UCsr) :
    (tileTrim n0 trim u).pbase = u.pbase ∧ ldCode (tileTrim n0 trim u) = ldCode u := by
  unfold tileTrim
  split <;> exact ⟨rfl, rfl⟩

/-- A chip that has issued a tile whose checks pass has it copied at once. -/
theorem Issued.runs {s q : State} {x : Tile} {u : UCsr} {viq : List VEntry} {w n0 pu a : Nat} (hq : Issued s q u viq)
    (hp : TilePasses s x w n0 pu a) (hw : 0 < w) (hesc : s.ctx.esc = none) (hcable : s.ctx.cable = []) (word : Word) (tv : Word → Word)
    {v : UCsr} (hv : v.pbase = s.ctx.u.pbase ∧ ldCode v = ldCode s.ctx.u) :
    ∃ t d pk, Runs (tileIssue (dataPriv s) word tv v pu w n0 x) q () t ∧ TileCopied s t u viq x w n0 a d pk := by
  obtain ⟨hpbase, hcode⟩ := hv
  obtain ⟨d, pk, hcopied⟩ := hq.copied (x := x) (w := w) (n0 := n0) hesc hcable (purseAt_place hp.purse).2 (dataPriv s)
  obtain ⟨dc, k, hctx⟩ := hq.ctx
  have hpocb : q.ctx.pocb = s.ctx.pocb := by rw [hctx]; rfl
  exact ⟨_, d, pk, runs_tileIssue hq.calm hw (hcode.trans hp.space) (by rw [hpbase, hq.purse]; exact hp.purse)
    (by rw [hpocb]; exact hp.fit) (by rw [hpocb]; exact hp.inside), hcopied⟩

/-- What a purse's place depends on, no draw and no context changes. -/
theorem purseAt_draws (s : State) (k : Nat) (pr : Priv) (pbase : Word) (n : Nat) :
    purseAt { s with draws := k } pr pbase n = purseAt s pr pbase n := by
  have hok : commonsOk { s with draws := k } = commonsOk s := rfl
  have hword (j : Nat) (p : Priv) (va : Word) (al m : Nat) : commonsWord { s with draws := k } j p va al m = commonsWord s j p va al m := by
    rw [commonsWord, commonsWord, hok]
  have hcount (a : Nat) : inCounterBlock { s with draws := k } a = inCounterBlock s a := inCounterBlock_congr rfl a
  have hpart : State.pidx { s with draws := k } = s.pidx := rfl
  unfold purseAt
  rw [hpart]
  simp only [hword, hcount]

section
variable {s : State} {a : Word} {d : List Byte} (hc : s.Calm) (hlag : s.lag = false) (hcopies : s.core.copies = [])
  (hfl : s.flights = [])
include hc hlag hcopies hfl

/-- A chip that has read a descriptor, with another context. -/
theorem issued_setCtx (u : UCsr) (viq : List VEntry) (k : Nat) :
    Issued s ((descRead s a d).setCtx (issuedCtx s.ctx u [(a, d)] viq k)) u viq := by
  have hstate : (descRead s a d).setCtx (issuedCtx s.ctx u [(a, d)] viq k) =
      State.mapCtx { s with draws := s.draws + 1 } fun _ => issuedCtx s.ctx u [(a, d)] viq k := rfl
  rw [hstate]
  refine ⟨?_, hlag, hcopies, hfl, rfl, rfl, fun pr pbase n => ?_, _, k, rfl⟩
  · exact (show State.Calm { s with draws := s.draws + 1 } from hc).mapCtx _
  · rw [purseAt_mapCtx, purseAt_draws]

end

end Sys2Proof.Machine
end

section
/-! SUPPORT. A `ctile` of either destination on a calm chip (R271, R285). -/

namespace Sys2Proof.Machine

section
variable {s : State} {x : Tile} {w n0 pu a : Nat} {dp : Word} {ds : List Byte} (hq : Quiet s) (hc : s.Calm)
  (hcable : s.ctx.cable = []) (hcopies : s.core.copies = []) (hfl : s.flights = []) (hp : TilePasses s x w n0 pu a) (hw : 0 < w)
include hq hc hcable hcopies hfl hp hw

/-- A direct `ctile` completes and retires. -/
theorem runM_tileDirect (word : Word) (trim : Bool) : ∃ f d pk,
    runM (tileDirect word x w pu n0 trim) (descRead s dp ds) = .next (retire f) ∧ TileOutcome s f x w n0 trim a d pk := by
  have hissued : Issued s (descRead s dp ds) s.ctx.u [] := by
    have h := issued_setCtx (a := dp) (d := ds) hc hq.lag hcopies hfl s.ctx.u [] s.ctx.viqNext
    rw [← hq.viq] at h ⊢
    exact h
  obtain ⟨t, d, pk, hruns, hcopied⟩ := hissued.runs hp hw hq.esc hcable word id (tileTrim_keeps n0 trim s.ctx.u)
  have hreg : tileRegBad (descRead s dp ds).ctx w (n0 * x.e1 * x.e2) x = none := hp.reg
  have hroom : (copyFull (descRead s dp ds) || tileWaits (descRead s dp ds).ctx x || barred (descRead s dp ds)) = false := by
    have hfull : copyFull (descRead s dp ds) = false := by
      show decide (32 ≤ s.core.copies.length) = false
      rw [hcopies]
      rfl
    have hwaits : tileWaits (descRead s dp ds).ctx x = false := hp.free
    have hbar : barred (descRead s dp ds) = false := hq.barred
    rw [hfull, hwaits, hbar]
    rfl
  have hdirect : Runs (tileDirect word x w pu n0 trim) (descRead s dp ds) () (retire (t.mapU (tileTrim n0 trim))) := by
    refine Runs.get_bind ?_
    rw [hreg]
    exact Runs.ite_neg (by simp [hroom]) (hruns.bind (Runs.modify _ t))
  refine ⟨_, d, pk, runM_of_runs hdirect, hcopied.outcome rfl rfl ?_⟩
  obtain ⟨dc, k, od, hctx⟩ := hcopied.ctx
  show ({ t.ctx with u := tileTrim n0 trim t.ctx.u } : Ctx) = _
  rw [hctx]
  rfl

/-- A `ctile` of the VIQ is run as it is committed, leaves the queue and retires. -/
theorem tileToViq_calm {w' : BitVec 2} {rs2 rs1 : XReg} {p : BitVec 5} (hr : Ready (.ctile w' rs2 rs1 p) s) (hww : w = copyBytes w')
    (hpu : pu = p.toNat) {bs : List Byte} (hx : x = tileOfRec bs) (hn0 : n0 = x.row s.ctx.u.vl.toNat) : ∃ f d pk,
    tileToViq (.ctile w' rs2 rs1 p) bs n0 (x.trims s.ctx.u.vl.toNat) (descRead s dp ds) = .next (retire f)
      ∧ TileOutcome s f x w n0 (x.trims s.ctx.u.vl.toNat) a d pk := by
  generalize htrim : x.trims s.ctx.u.vl.toNat = trim
  generalize hq0 : (descRead s dp ds).mapU (tileTrim n0 trim) = q0
  generalize hen : viqEntry (.ctile w' rs2 rs1 p) bs q0 = en
  generalize hq1 : viqPush (.ctile w' rs2 rs1 p) bs q0 = q1
  have hissued : Issued s q1 (tileTrim n0 trim s.ctx.u) [en] := by
    have h := issued_setCtx (a := dp) (d := ds) hc hq.lag hcopies hfl (tileTrim n0 trim s.ctx.u) [en] (s.ctx.viqNext + 1)
    have hviq : [en] = s.ctx.viq ++ [en] := by rw [hq.viq]; rfl
    rw [hviq] at h ⊢
    rw [← hq1, ← hen, ← hq0]
    rw [← hen, ← hq0] at h
    exact h
  obtain ⟨t, d, pk, hruns, hcopied⟩ := hissued.runs hp hw hq.esc hcable (en.word.setWidth 64) (fun _ => en.word.setWidth 64)
    (tileTrim_keeps n0 trim s.ctx.u)
  obtain ⟨dc1, k1, hctx1⟩ := hissued.ctx
  have hviq1 : q1.ctx.viq = [en] := by rw [hctx1]; rfl
  obtain ⟨⟨-, -, -, hsrq, -⟩, -, -, -, hfenced⟩ := hr
  have hlast := hcopied.alone rfl hcable hsrq hq.barrier
  have hfields : en.tile = bs ∧ en.csr = tileTrim n0 trim s.ctx.u ∧ en.priv = dataPriv s ∧ en.instr = .ctile w' rs2 rs1 p
      ∧ en.frozen = false ∧ en.wrote = [] ∧ en.faulting = false := by
    rw [← hen, ← hq0]
    exact ⟨rfl, rfl, rfl, rfl, rfl, rfl, rfl⟩
  obtain ⟨htile, hcsr, hpriv, hinstr, hfrozen, hwrote, hgood⟩ := hfields
  have hmin : min x.e0 en.csr.vl.toNat = n0 := by rw [hcsr, ← htrim, hn0, x.min_row]
  have hreg : tileRegBad q1.ctx w (n0 * x.e1 * x.e2) x = none := by
    rw [hctx1]
    exact hp.reg
  have hroom : (copyFull q1 || tileWaits q1.ctx x) = false := by
    have hfull : copyFull q1 = false := by rw [copyFull, hissued.copies]; rfl
    have hwaits : tileWaits q1.ctx x = false := by
      rw [hctx1]
      exact hp.free
    rw [hfull, hwaits]
    rfl
  have hrun : runCtile w' p en q1 = .done t := by
    unfold runCtile
    dsimp only
    rw [htile, ← hx, hmin, ← hww, hreg]
    dsimp only
    rw [hroom, hcsr, hpriv, ← hpu]
    exact wholeM_of_runs hruns
  have hhead : viqHead en q1 = .done t := by
    have hopen : entryFenced q1 (.ctile w' rs2 rs1 p) = false := by
      rw [← hq1, ← hq0]
      exact hfenced
    rw [viqHead, entryBarred, hinstr, hopen, Bool.and_false]
    exact hrun
  have hretire := viqRetire_runs hissued.lag hviq1 hfrozen (entryConsumes_of_still hissued.calm.partsStill en) hhead
  rw [hlast.leave hwrote hgood] at hretire
  refine ⟨t.setCtx { t.ctx with viq := [] }, d, pk, ?_, hcopied.outcome rfl rfl ?_⟩
  · have hviq : (descRead s dp ds).ctx.viq = [] := hq.viq
    rw [← hretire, ← hq1, ← hq0, tileToViq, hviq, viqFull, hviq]
    rfl
  · obtain ⟨dc, k, od, hctx⟩ := hcopied.ctx
    show ({ t.ctx with viq := [] } : Ctx) = _
    rw [hctx]
    rfl

end

end Sys2Proof.Machine
end

section
/-! SUPPORT. What a `ctile` shows when it retires, and the statements on register copies (R280 to R285) and on copies, `mint` and requests
from other chips (R338, R381, R385). -/

namespace Sys2Proof.Machine

/-! ## The destination and the mask -/

section
variable {s f : State} {x : Tile} {w n0 a : Nat} {trim : Bool} {d pk : Bytes} (h : TileOutcome s f x w n0 trim a d pk)

/-- The indices of a tile's elements are its positions, each once. -/
theorem tileElems_nodup (x : Tile) (n0 w : Nat) : ((tileElems x n0 w).map Prod.fst).Nodup := by
  rw [tileElems_index]
  exact (upFrom_pairwise 0 _).imp fun h => Nat.ne_of_lt h

theorem tileOrder_nodup (x : Tile) (n0 w : Nat) : ((tileOrder (tileElems x n0 w)).map Prod.fst).Nodup := by
  rw [((tileOrder_perm (tileElems x n0 w)).map Prod.fst).nodup_iff]
  exact tileElems_nodup x n0 w

theorem lt_of_mem_tileElems {e : TileElem} (he : e ∈ tileElems x n0 w) : e.1 < n0 * x.e1 * x.e2 := by
  have hmem : e.1 ∈ upFrom 0 (n0 * x.e1 * x.e2) := tileElems_index x n0 w ▸ List.mem_map_of_mem he
  simpa using (mem_upFrom.1 hmem).2

include h

/-- R285: a tile with DK = 1 fills its register: elements in range from the pocket, 0 for the others, and what lies past them is as
before. -/
theorem TileOutcome.register (hdk : x.dk = true) : ((retire f).ctx.vr x.reg).st = .full ∧ (retire f).ctx.pocket = s.ctx.pocket
    ∧ (wfBytes (s.ctx.vr x.reg).data = true →
      (∀ e ∈ tileElems x n0 w, rawAt ((retire f).ctx.vr x.reg).data (8 * w) e.1 = leNat (tileValue s.ctx.pocket w e))
      ∧ ∀ k : Nat, n0 * x.e1 * x.e2 ≤ k →
        rawAt ((retire f).ctx.vr x.reg).data (8 * w) k = rawAt (s.ctx.vr x.reg).data (8 * w) k) := by
  have hreg : (retire f).ctx.vr x.reg = { s.ctx.vr x.reg with st := .full, landed := none, data := d } := by
    have hv : (retire f).ctx.v = (s.ctx.setVr x.reg { s.ctx.vr x.reg with st := .full, landed := none, data := d }).v := by
      rw [retire_ctx_v, h.v, tileFull_v, if_pos hdk]
    have hvr := congrArg (fun v : Vector VReg 32 => v[x.reg.toNat]) hv
    exact hvr.trans (Ctx.vr_setVr_same _ _ _)
  obtain ⟨hpk, hd⟩ := h.written.1 hdk
  have hlen (e : TileElem) := tileValue_length s.ctx.pocket w e
  rw [hreg, retire_ctx_pocket]
  refine ⟨rfl, h.pocket.trans hpk, fun hwf => ⟨fun e he => ?_, fun k hk => ?_⟩⟩ <;> dsimp only <;> rw [hd]
  · exact rawAt_tileData_in hlen hwf (tileOrder_nodup x n0 w) ((tileOrder_perm _).mem_iff.2 he)
  · refine rawAt_tileData_out hlen hwf fun e he heq => ?_
    have hlt := lt_of_mem_tileElems ((tileOrder_perm _).mem_iff.1 he)
    omega

/-- R285: a tile with DK = 0 goes to the pocket and changes nothing outside it. -/
theorem TileOutcome.inPocket (hdk : x.dk = false) : (retire f).ctx.v = s.ctx.v ∧ (wfBytes s.ctx.pocket = true →
    (∀ k : Nat, (k < x.dest ∨ x.dest + n0 * x.e1 * x.e2 * w ≤ k) → getByte (retire f).ctx.pocket k = getByte s.ctx.pocket k)
    ∧ (x.Apart w (n0 * x.e1 * x.e2) (tileElems x n0 w) →
      ∀ e ∈ tileElems x n0 w, getBytes (retire f).ctx.pocket (x.dest + e.1 * w) w = tileValue s.ctx.pocket w e)) := by
  rw [retire_ctx_v, h.v, tileFull_v, hdk, retire_ctx_pocket, h.pocket]
  refine ⟨rfl, fun hwf => ?_⟩
  obtain ⟨-, hout, hheld⟩ := h.written.2 hdk hwf
  exact ⟨hout, fun hapart e he => hheld hapart e ((tileOrder_perm _).mem_iff.2 he)⟩

/-- R285: a tile's mask holds which of its elements are in range. -/
theorem TileOutcome.mask (hmsk : x.msk ≠ 0) : (retire f).ctx.maskPends x.msk = false
    ∧ (wfBytes s.ctx.m[x.msk.toNat].bits = true → ∀ e ∈ tileElems x n0 w, (retire f).ctx.mbit x.msk e.1 = e.2.1) := by
  have hm : (retire f).ctx.m[x.msk.toNat] = ⟨.full, tileBits (tileElems x n0 w) s.ctx.m[x.msk.toNat].bits⟩ := by
    rw [retire_ctx_m, h.m, tileFull_m, if_neg hmsk]
    simp
  refine ⟨by rw [Ctx.maskPends, hm]; simp, fun hwf e he => ?_⟩
  rw [Ctx.mbit_eq_getBit hmsk, hm]
  exact getBit_tileBits hwf (tileElems_nodup x n0 w) he

/-- R285: no other mask is changed. -/
theorem TileOutcome.otherMask {k : MReg3} (hk : k ≠ x.msk) : (retire f).ctx.m[k.toNat] = s.ctx.m[k.toNat] := by
  rw [retire_ctx_m, h.m, tileFull_m]
  split
  · rfl
  · have hne : x.msk.toNat ≠ k.toNat := fun heq => hk (BitVec.eq_of_toNat_eq heq.symm)
    simp [hne]

theorem TileOutcome.ctxU : (retire f).ctx.u = tileTrim n0 trim s.ctx.u := by rw [retire_ctx_u, h.u]

theorem TileOutcome.ctxX : (retire f).ctx.x = s.ctx.x := by rw [retire_ctx_x, h.regs]

end

/-- VL and VFFS after a tile. -/
theorem tileTrim_fields (n0 : Nat) (trim : Bool) (u : UCsr) : (tileTrim n0 trim u).vl = (if trim then BitVec.ofNat 64 n0 else u.vl)
    ∧ (tileTrim n0 trim u).vffs = if trim then BitVec.ofNat 64 (2 * n0 + 1) else 0 := by
  unfold tileTrim
  split <;> exact ⟨rfl, rfl⟩

/-- A tile within VL that does not run past dimension 0 has the extent it asks for. -/
theorem Tile.row_of_inside {x : Tile} {vl : Nat} (hvl : x.e0 ≤ vl) (hin : x.c0 + x.e0 ≤ x.dim0) :
    x.trims vl = false ∧ x.row vl = x.e0 := by
  have htrims : x.trims vl = false := by
    rw [Tile.trims, Nat.min_eq_left hvl, Bool.and_eq_false_iff]
    exact .inr (decide_eq_false (not_lt.2 hin))
  exact ⟨htrims, by rw [Tile.row, htrims, Nat.min_eq_left hvl]; rfl⟩

/-! ## The whole instruction -/

/-- R283 to R285: a `ctile` whose records and request stand in plain memory and pass every check completes. -/
theorem ctile_completes {w : BitVec 2} {rs2 rs1 : XReg} {p : BitVec 5} {s : State} {a : Nat} (hr : Ready (.ctile w rs2 rs1 p) s)
    (hc : s.Calm) (hcopies : s.core.copies = []) (hfl : s.flights = []) (hprov : s.ctx.vlProv = none) (hcache : s.ctx.dcache = [])
    (hdescAt : PlainAccess s (s.x rs1) 64) (hreqAt : PlainAccess s (s.x rs2) 32) {bs : List Byte}
    (hbs : bs = getBytes s.mem (s.x rs1).toNat 64 ++ getBytes s.mem (s.x rs2).toNat 32) {x : Tile} (hx : x = tileOfRec bs)
    (hdesc : descBad bs (copyBytes w) = false) (hreq : reqBad bs (copyBytes w) = false)
    (htag : ((etyOf x.tag).map ETy.bits).getD 0 = 8 * copyBytes w) (hrow : 1 ≤ min x.e0 s.ctx.u.vl.toNat → x.c0 < x.dim0)
    (hn : x.row s.ctx.u.vl.toNat * x.e1 * x.e2 ≤ 2 ^ 24) (hp : TilePasses s x (copyBytes w) (x.row s.ctx.u.vl.toNat) p.toNat a) :
    ∃ f d pk, exec (.ctile w rs2 rs1 p) s = .next (retire f)
      ∧ TileOutcome s f x (copyBytes w) (x.row s.ctx.u.vl.toNat) (x.trims s.ctx.u.vl.toNat) a d pk := by
  have hclear := hr.1
  have hq := hclear.quiet hc.noEcc hc.noHeld
  obtain ⟨-, -, hcable, -⟩ := hclear
  rw [exec_ctile_of_ready hq hr hprov hcache hdescAt hreqAt hbs hx hdesc hreq htag hrow hn rfl]
  cases hdk : x.dk with
  | false => exact runM_tileDirect hq hc hcable hcopies hfl hp (copyBytes_pos w) _ _
  | true => exact tileToViq_calm hq hc hcable hcopies hfl hp (copyBytes_pos w) hr rfl rfl hx rfl

end Sys2Proof.Machine
end

section
/-! The statements on register copies (R280 to R285) and on copies, `mint` and requests from other chips (R338, R381, R385). -/

namespace Sys2Proof

open Sys2Proof.Machine

/-- Settles O42. A copy of a calm chip with no copy in its queue is performed whole as it enters, element by element: an invariant over
the elements gives the registers, the pocket, memory and the masks, and what leaves the queue withdraws the purse. -/
theorem registerCopiesComplete : Obligations.RegisterCopiesComplete := by
  unfold Obligations.RegisterCopiesComplete
  refine ⟨⟨fun w rs2 rs1 vd s hr hc hq hfl => fun hreg hfree hwf hplaces => cpyv_completes hr hc hq (fun _ => rfl) hreg hfree hwf hplaces,
    fun w rs2 rs1 vs s a hr hc hwf hq hfl => fun hreg hfull hpurse hquiet hplaces =>
      cpyvs_completes hr hc hwf hq hfl hreg hfull hpurse hquiet (fun _ => rfl) hplaces rfl⟩,
    fun w rs2 rs1 p s a hr hc hwf hq hfl hprov hcache hdescAt hreqAt => ?_⟩
  intro bs x b vl m trim n0 n vd value hdesc hreq htag hrow hn hreg hfree hspace hpurse hfit hin pw hquiet
  obtain ⟨f, d, pk, hexec, hout⟩ := ctile_completes (x := x) hr hc hq hfl hprov hcache hdescAt hreqAt rfl rfl hdesc hreq htag hrow hn
    ⟨hreg, hfree, hspace, hpurse, hfit, hin⟩
  obtain ⟨hvl, hvffs⟩ := tileTrim_fields n0 trim s.ctx.u
  refine ⟨retire f, hexec, hout.copies, hout.mem hquiet, ?_, ?_, hout.register, hout.inPocket, hout.mask, fun k hk => hout.otherMask hk,
    hout.pc, hout.ctxX⟩
  · exact (congrArg UCsr.vl hout.ctxU).trans hvl
  · exact (congrArg UCsr.vffs hout.ctxU).trans hvffs

/-- Settles O59. `cpyv`, `cpyvs`, `mint`, its result and the requests of other chips take the one way their checks leave open; a `ctile`
is the tile of the statement on register copies that VL and dimension 0 do not cut. -/
theorem copiesAndMintComplete : Obligations.CopiesAndMintComplete := by
  unfold Obligations.CopiesAndMintComplete
  refine ⟨⟨?_, ?_, ?_⟩, ?_, ?_, ?_, ?_, ?_⟩
  · intro w rs2 rs1 vd s u r hr en p n b as hnew hreg hroom hfree hplaces t
    exact exec_of_ready_viq rfl hr hnew (runCpyv_of_runs hreg hroom hfree hplaces)
  · intro w rs2 rs1 vs s u r a hr en p n b word as hnew hreg hroom hready hpurse hplaces hheld elems
    exact exec_of_ready_viq rfl hr hnew (runCpyvs_of_runs hreg hroom hready hpurse hplaces hheld)
  · intro w rs2 rs1 p s a hr hc hwf hq hfl hprov hcache hdescAt hreqAt bs x b n vd value hvl hc0 hin0 hn hdesc hreq htag hrow hreg hfree
      hspace hpurse hfit hin pw
    obtain ⟨htrims, hextent⟩ := Tile.row_of_inside hvl hin0
    obtain ⟨f, d, pk, hexec, hout⟩ := ctile_completes (a := a) hr hc hq hfl hprov hcache hdescAt hreqAt rfl rfl hdesc hreq htag
      (by rw [Nat.min_eq_left hvl]; exact hrow) (by rw [hextent]; exact hn)
      (by rw [hextent]; exact ⟨hreg, hfree, hspace, hpurse, hfit, hin⟩)
    rw [htrims, hextent] at hout
    obtain ⟨hvl', hvffs⟩ := tileTrim_fields x.e0 false s.ctx.u
    refine ⟨retire f, hexec, hout.copies, (congrArg UCsr.vl hout.ctxU).trans hvl', (congrArg UCsr.vffs hout.ctxU).trans hvffs,
      hout.mem, fun hdk => ?_, fun hdk hwfp => ?_, hout.ctxX⟩
    · obtain ⟨hst, -, hdata⟩ := hout.register hdk
      exact ⟨hst, fun hwfd => (hdata hwfd).1⟩
    · exact ((hout.inPocket hdk).2 hwfp).2
  · intro rs1 rd s t ws hr hheld hload hmay hlag hjob v u hdo
    exact exec_mint_of_done hr hheld hload hmay hlag hjob hdo
  · intro rs1 rd s t ws j v hr hheld hload hmay hjob hres
    exact exec_mint_of_result hr hheld hload hmay hjob hres
  · exact fun s j hj => exec_mintResult hj
  · intro link job va size k a kind page s t hlink hpart hx hgood hphys
    exact ⟨_, exec_peerLoad hlink hpart hx hgood hphys, rfl⟩
  · intro link job va bytes colour k a kind page s t hlink hpart horder hx hfree htransit hphys
    exact exec_peerStore hlink hpart horder hx hfree htransit hphys

end Sys2Proof
end
